-- ==== Sys2Proof/Word.lean ====
section
/-! DEFINITION. The word types of the LX-400 and their plainest arithmetic. -/

namespace Sys2Proof

/-- A 64-bit general register (R173). -/
abbrev Word := BitVec 64

/-- A byte of memory (R6). -/
abbrev Byte := BitVec 8

end Sys2Proof
end

