-- ==== Sys2Proof/Syntax.lean ====
section
/-! DEFINITION. The instructions of the LX-400: one constructor for each row of the opcode table.

The arguments of an encoded row (control words, element words, memory element words, switch words) are the fields of its
encoding, under the letters of the table and in its order. A row with no encoding is a step of the part itself or a host
command (spec/95); its arguments say which object makes the step, and carry the choices that the spec leaves to the
placer, to the environment or to the host (log 1, log 12). -/

namespace Sys2Proof

/-- What an Announce message says of the grandmaster that its sender follows (R336; IEEE 1588-2019, log 14): priorities, clock quality, identity,
how many clocks lie between, and the port that sent it. -/
structure PtpSet where
  prio1 : Nat
  cls : Nat
  accuracy : Nat
  variance : Nat
  prio2 : Nat
  gm : Nat
  steps : Nat
  sender : Nat
  deriving DecidableEq, Repr

/-- A message of IEEE 1588 (R336; log 14): two-step Sync, both delay mechanisms, Announce. Messages of one exchange share a sequence number; times
are in nanoseconds, with their corrections. -/
inductive PtpMsg where
  | announce (d : PtpSet)
  | sync (seq : Nat)
  | followUp (seq origin : Nat)
  | delayReq (seq : Nat)
  | delayResp (seq received : Nat)
  | pdelayReq (seq : Nat)
  | pdelayResp (seq received : Nat)
  | pdelayFollowUp (seq sent : Nat)
  deriving DecidableEq, Repr

/-- Every step of the opcode table. The comment of each constructor gives the table's rule and summary. -/
inductive Instr where
  /-- R177: Writes the low 64 bits of ga plus gb to gd. -/
  | add (d : BitVec 5) (a : BitVec 5) (b : BitVec 5)
  /-- R177: Writes the low 64 bits of ga minus gb to gd. -/
  | sub (d : BitVec 5) (a : BitVec 5) (b : BitVec 5)
  /-- R177: Writes the low 64 bits of the signed product to gd. -/
  | mul (d : BitVec 5) (a : BitVec 5) (b : BitVec 5)
  /-- R177: Writes the high 64 bits of the signed 128-bit product to gd. -/
  | mulhs (d : BitVec 5) (a : BitVec 5) (b : BitVec 5)
  /-- R177: Writes the high 64 bits of the unsigned 128-bit product to gd. -/
  | mulhn (d : BitVec 5) (a : BitVec 5) (b : BitVec 5)
  /-- R178: Writes the signed quotient rounded towards zero, clamped on division by zero or overflow. -/
  | divs (d : BitVec 5) (a : BitVec 5) (b : BitVec 5)
  /-- R178: Writes the unsigned quotient, all ones on division by a zero divisor with a non-zero dividend. -/
  | divn (d : BitVec 5) (a : BitVec 5) (b : BitVec 5)
  /-- R178: Writes the signed remainder, 0 on division by zero. -/
  | rems (d : BitVec 5) (a : BitVec 5) (b : BitVec 5)
  /-- R178: Writes the unsigned remainder, 0 on division by zero. -/
  | remn (d : BitVec 5) (a : BitVec 5) (b : BitVec 5)
  /-- R177: Writes ga AND gb to gd. -/
  | and (d : BitVec 5) (a : BitVec 5) (b : BitVec 5)
  /-- R177: Writes ga OR gb to gd. -/
  | or (d : BitVec 5) (a : BitVec 5) (b : BitVec 5)
  /-- R177: Writes ga XOR gb to gd. -/
  | xor (d : BitVec 5) (a : BitVec 5) (b : BitVec 5)
  /-- R177: Writes ga AND NOT gb to gd. -/
  | andn (d : BitVec 5) (a : BitVec 5) (b : BitVec 5)
  /-- R177: Shifts ga left by gb[5:0]. -/
  | shl (d : BitVec 5) (a : BitVec 5) (b : BitVec 5)
  /-- R177: Shifts ga right with zero fill by gb[5:0]. -/
  | shr (d : BitVec 5) (a : BitVec 5) (b : BitVec 5)
  /-- R177: Shifts ga right arithmetically by gb[5:0]. -/
  | sar (d : BitVec 5) (a : BitVec 5) (b : BitVec 5)
  /-- R177: Rotates ga left by gb[5:0]. -/
  | rotl (d : BitVec 5) (a : BitVec 5) (b : BitVec 5)
  /-- R177: Writes the signed smaller of ga and gb. -/
  | mins (d : BitVec 5) (a : BitVec 5) (b : BitVec 5)
  /-- R177: Writes the signed larger of ga and gb. -/
  | maxs (d : BitVec 5) (a : BitVec 5) (b : BitVec 5)
  /-- R177: Writes the unsigned smaller of ga and gb. -/
  | minn (d : BitVec 5) (a : BitVec 5) (b : BitVec 5)
  /-- R177: Writes the unsigned larger of ga and gb. -/
  | maxn (d : BitVec 5) (a : BitVec 5) (b : BitVec 5)
  /-- R179: Writes 1 if ga equals gb, else 0. -/
  | ceq (d : BitVec 5) (a : BitVec 5) (b : BitVec 5)
  /-- R179: Writes 1 if ga differs from gb, else 0. -/
  | cne (d : BitVec 5) (a : BitVec 5) (b : BitVec 5)
  /-- R179: Writes 1 if ga is signed-less than gb. -/
  | clt (d : BitVec 5) (a : BitVec 5) (b : BitVec 5)
  /-- R179: Writes 1 if ga is unsigned-less than gb. -/
  | cltn (d : BitVec 5) (a : BitVec 5) (b : BitVec 5)
  /-- R179: Writes 1 if ga is signed greater or equal to gb. -/
  | cge (d : BitVec 5) (a : BitVec 5) (b : BitVec 5)
  /-- R179: Writes 1 if ga is unsigned greater or equal to gb. -/
  | cgen (d : BitVec 5) (a : BitVec 5) (b : BitVec 5)
  /-- R179: Writes ga if the old gd is non-zero, otherwise gb. -/
  | csel (d : BitVec 5) (a : BitVec 5) (b : BitVec 5)
  /-- R180: Counts zero bits above the highest set bit of ga. -/
  | clz (d : BitVec 5) (a : BitVec 5)
  /-- R180: Counts zero bits below the lowest set bit of ga. -/
  | ctz (d : BitVec 5) (a : BitVec 5)
  /-- R180: Counts the set bits of ga. -/
  | popc (d : BitVec 5) (a : BitVec 5)
  /-- R180: Reverses the 64 bits of ga. -/
  | brev (d : BitVec 5) (a : BitVec 5)
  /-- R180: Reverses the 8 bytes of ga. -/
  | bswap (d : BitVec 5) (a : BitVec 5)
  /-- R180: Extracts a zero-extended bit field of ga selected by gb. -/
  | extu (d : BitVec 5) (a : BitVec 5) (b : BitVec 5)
  /-- R180: Extracts a sign-extended bit field of ga selected by gb. -/
  | exts (d : BitVec 5) (a : BitVec 5) (b : BitVec 5)
  /-- R180: Inserts the low bits of ga into a field of gd selected by gb. -/
  | ins (d : BitVec 5) (a : BitVec 5) (b : BitVec 5)
  /-- R181: Adds a sign-extended 16-bit immediate to ga. -/
  | addk (d : BitVec 5) (a : BitVec 5) (i : BitVec 16)
  /-- R181: ANDs ga with a zero-extended immediate. -/
  | andk (d : BitVec 5) (a : BitVec 5) (i : BitVec 16)
  /-- R181: ORs ga with a zero-extended immediate. -/
  | ork (d : BitVec 5) (a : BitVec 5) (i : BitVec 16)
  /-- R181: XORs ga with a zero-extended immediate. -/
  | xork (d : BitVec 5) (a : BitVec 5) (i : BitVec 16)
  /-- R181: Writes 1 if ga is signed-less than the sign-extended immediate. -/
  | cltk (d : BitVec 5) (a : BitVec 5) (i : BitVec 16)
  /-- R181: Writes 1 if ga is unsigned-less than the sign-extended immediate. -/
  | cltnk (d : BitVec 5) (a : BitVec 5) (i : BitVec 16)
  /-- R181: Writes the immediate shifted left 16, sign-extended. -/
  | hik (d : BitVec 5) (i : BitVec 16)
  /-- R182: Shifts ga left by an immediate amount. -/
  | shlk (d : BitVec 5) (a : BitVec 5) (n : BitVec 6)
  /-- R182: Shifts ga right with zero fill by an immediate amount. -/
  | shrk (d : BitVec 5) (a : BitVec 5) (n : BitVec 6)
  /-- R182: Shifts ga right arithmetically by an immediate amount. -/
  | sark (d : BitVec 5) (a : BitVec 5) (n : BitVec 6)
  /-- R182: Rotates ga left by an immediate amount. -/
  | rotlk (d : BitVec 5) (a : BitVec 5) (n : BitVec 6)
  /-- R184: Converts a register value between formats under R85 with the given rounding and saturation. -/
  | cvt (d : BitVec 5) (a : BitVec 5) (x : BitVec 4) (y : BitVec 4) (r : BitVec 2) (s : BitVec 1)
  /-- R185: Scalar floating add, rounded once. -/
  | fadd (d : BitVec 5) (a : BitVec 5) (b : BitVec 5) (f : BitVec 4) (r : BitVec 2)
  /-- R185: Scalar floating subtract, rounded once. -/
  | fsub (d : BitVec 5) (a : BitVec 5) (b : BitVec 5) (f : BitVec 4) (r : BitVec 2)
  /-- R185: Scalar floating multiply, rounded once. -/
  | fmul (d : BitVec 5) (a : BitVec 5) (b : BitVec 5) (f : BitVec 4) (r : BitVec 2)
  /-- R185: Scalar floating divide, rounded once. -/
  | fdiv (d : BitVec 5) (a : BitVec 5) (b : BitVec 5) (f : BitVec 4) (r : BitVec 2)
  /-- R185: Scalar fused multiply-add into the old gd, rounded once. -/
  | fmac (d : BitVec 5) (a : BitVec 5) (b : BitVec 5) (f : BitVec 4) (r : BitVec 2)
  /-- R185: Scalar floating square root, rounded once. -/
  | fsqrt (d : BitVec 5) (a : BitVec 5) (f : BitVec 4) (r : BitVec 2)
  /-- R185: Scalar floating minimum. -/
  | fmin (d : BitVec 5) (a : BitVec 5) (b : BitVec 5) (f : BitVec 4)
  /-- R185: Scalar floating maximum. -/
  | fmax (d : BitVec 5) (a : BitVec 5) (b : BitVec 5) (f : BitVec 4)
  /-- R185: Clears the sign of a scalar floating value. -/
  | fabs (d : BitVec 5) (a : BitVec 5) (f : BitVec 4)
  /-- R185: Inverts the sign of a scalar floating value. -/
  | fneg (d : BitVec 5) (a : BitVec 5) (f : BitVec 4)
  /-- R185: Writes 1 if the floating values are equal. -/
  | feq (d : BitVec 5) (a : BitVec 5) (b : BitVec 5) (f : BitVec 4)
  /-- R185: Writes 1 if x is less than y. -/
  | flt (d : BitVec 5) (a : BitVec 5) (b : BitVec 5) (f : BitVec 4)
  /-- R185: Writes 1 if x is less than or equal to y. -/
  | fle (d : BitVec 5) (a : BitVec 5) (b : BitVec 5) (f : BitVec 4)
  /-- R187: Branches when ga equals gb. -/
  | bEq (a : BitVec 5) (b : BitVec 5) (o : BitVec 16)
  /-- R187: Branches when ga differs from gb. -/
  | bNe (a : BitVec 5) (b : BitVec 5) (o : BitVec 16)
  /-- R187: Branches when ga is signed-less than gb. -/
  | bLt (a : BitVec 5) (b : BitVec 5) (o : BitVec 16)
  /-- R187: Branches when ga is signed greater or equal to gb. -/
  | bGe (a : BitVec 5) (b : BitVec 5) (o : BitVec 16)
  /-- R187: Branches when ga is unsigned-less than gb. -/
  | bLtn (a : BitVec 5) (b : BitVec 5) (o : BitVec 16)
  /-- R187: Branches when ga is unsigned greater or equal to gb. -/
  | bGen (a : BitVec 5) (b : BitVec 5) (o : BitVec 16)
  /-- R188: Jumps pc-relative by a 26-bit word offset. -/
  | jmp (o : BitVec 26)
  /-- R188: Writes pc+4 to g31 and jumps pc-relative. -/
  | call (o : BitVec 26)
  /-- R189: Jumps to the address in ga and leaves the return address in gd. -/
  | callr (d : BitVec 5) (a : BitVec 5)
  /-- R189: Jumps to the address in ga. -/
  | jmpr (a : BitVec 5)
  /-- R191: Issues a load of 1 to 8 bytes from virtual memory after the checks of R192. -/
  | ldV (d : BitVec 5) (a : BitVec 5) (b : BitVec 5) (z : BitVec 2) (x : BitVec 1) (o : BitVec 8)
  /-- R191: Posts a store of 1 to 8 bytes to virtual memory after the checks of R192. -/
  | stV (d : BitVec 5) (a : BitVec 5) (b : BitVec 5) (z : BitVec 2) (o : BitVec 8)
  /-- R191: Loads from the core scratchpad. -/
  | ldI (d : BitVec 5) (a : BitVec 5) (b : BitVec 5) (z : BitVec 2) (x : BitVec 1) (o : BitVec 8)
  /-- R191: Posts a store to the core scratchpad. -/
  | stI (d : BitVec 5) (a : BitVec 5) (b : BitVec 5) (z : BitVec 2) (o : BitVec 8)
  /-- R191: Loads from typed buffer W. -/
  | ldW (d : BitVec 5) (a : BitVec 5) (b : BitVec 5) (z : BitVec 2) (x : BitVec 1) (o : BitVec 8)
  /-- R191: Loads from typed buffer A. -/
  | ldA (d : BitVec 5) (a : BitVec 5) (b : BitVec 5) (z : BitVec 2) (x : BitVec 1) (o : BitVec 8)
  /-- R191: Loads from typed buffer C. -/
  | ldC (d : BitVec 5) (a : BitVec 5) (b : BitVec 5) (z : BitVec 2) (x : BitVec 1) (o : BitVec 8)
  /-- R191: Posts a store to typed buffer C. -/
  | stC (d : BitVec 5) (a : BitVec 5) (b : BitVec 5) (z : BitVec 2) (o : BitVec 8)
  /-- R195: Loads 8 bytes from the spill location of the offset, in the carve-out or overflow. -/
  | spld (d : BitVec 5) (s : BitVec 17)
  /-- R195: Stores 8 bytes to the spill location of the offset. -/
  | spst (d : BitVec 5) (s : BitVec 17)
  /-- R201: Reads a control and status register into a general register. -/
  | crd (c : BitVec 10) (a : BitVec 5)
  /-- R201: Writes a control and status register under the field rules of R197 and R200. -/
  | cwr (c : BitVec 10) (a : BitVec 5)
  /-- R201: Sets bits of a control and status register. -/
  | cset (c : BitVec 10) (a : BitVec 5)
  /-- R201: Clears bits of a control and status register. -/
  | cclr (c : BitVec 10) (a : BitVec 5)
  /-- R202: Makes the thread not runnable until the counter reaches ga. -/
  | sleep (a : BitVec 5)
  /-- R203: Ends the thread's turn in the round-robin. -/
  | yield
  /-- R204: Ends the thread: performs posted stores, leaves sets, releases locks, and lets its task complete. -/
  | exit
  /-- R205: Returns from a trap handler and enters the oldest pending asynchronous trap. -/
  | tret
  /-- R206: Starts invalidation of the context's translations for one page or the whole context and waits. -/
  | xinv (a : BitVec 5)
  /-- R207: Completes and raises BREAK, or halts the thread when halts are armed. -/
  | brk (n : BitVec 10)
  /-- R213: Queues a pattern binding on a fabric or vector port. -/
  | sbind (t : BitVec 6) (a : BitVec 5) (b : BitVec 5) (k : BitVec 1) (s : BitVec 3) (f : BitVec 4)
  /-- R218: Waits until every binding the thread made on the port has ended or been discarded. -/
  | swait (t : BitVec 6) (k : BitVec 1)
  /-- R218: Discards the thread's bindings on the port that have not begun. -/
  | sclear (t : BitVec 6) (k : BitVec 1)
  /-- R222: Queues a copy from virtual memory into a typed buffer, raw or decoding, naming a handle. -/
  | copyIn (h : BitVec 6) (a : BitVec 5) (b : BitVec 5) (u : BitVec 2) (e : BitVec 4)
  /-- R222: Queues a copy from A or C to virtual memory. -/
  | copyOut (h : BitVec 6) (a : BitVec 5) (b : BitVec 5) (u : BitVec 2)
  /-- R222: Queues a copy from one typed buffer to another. -/
  | copyBb (h : BitVec 6) (a : BitVec 5) (b : BitVec 5) (u : BitVec 2) (v : BitVec 2)
  /-- R224: Waits until the handle is neither filling nor draining. -/
  | hwait (h : BitVec 6)
  /-- R224: Releases a full handle to free. -/
  | hrel (h : BitVec 6)
  /-- R224: Reads the 16-byte handle into two registers. -/
  | hstat (h : BitVec 6) (a : BitVec 5) (b : BitVec 5)
  /-- R229: Queues a matrix multiply-accumulate of n k-steps on a matrix stream. -/
  | mma (t : BitVec 6) (a : BitVec 5) (b : BitVec 5) (p : BitVec 6)
  /-- R229: Queues a matrix multiply that clears the tile before its first k-step. -/
  | mmaz (t : BitVec 6) (a : BitVec 5) (b : BitVec 5) (p : BitVec 6)
  /-- R231: Queues conversion of one C tile to a destination format. -/
  | mdrain (t : BitVec 6) (a : BitVec 5) (b : BitVec 5) (s : BitVec 2) (f : BitVec 4)
  /-- R232: Waits for earlier stream operations, then reads and clears the stream's saturation flag. -/
  | msatr (t : BitVec 6) (a : BitVec 5)
  /-- R232: Waits until earlier operations of the stream have completed. -/
  | mwait (t : BitVec 6)
  /-- R235: Queues an element-wise vector add. -/
  | vadd (t : BitVec 6) (a : BitVec 5) (b : BitVec 5) (s : BitVec 2)
  /-- R235: Queues an element-wise vector subtract. -/
  | vsub (t : BitVec 6) (a : BitVec 5) (b : BitVec 5) (s : BitVec 2)
  /-- R235: Queues an element-wise vector integer multiply. -/
  | vmul (t : BitVec 6) (a : BitVec 5) (b : BitVec 5) (s : BitVec 2)
  /-- R235: Queues an element-wise high multiply. -/
  | vmulh (t : BitVec 6) (a : BitVec 5) (b : BitVec 5) (s : BitVec 2)
  /-- R235: Queues an element-wise integer minimum. -/
  | vmin (t : BitVec 6) (a : BitVec 5) (b : BitVec 5) (s : BitVec 2)
  /-- R235: Queues an element-wise integer maximum. -/
  | vmax (t : BitVec 6) (a : BitVec 5) (b : BitVec 5) (s : BitVec 2)
  /-- R235: Queues an element-wise integer absolute value. -/
  | vabs (t : BitVec 6) (a : BitVec 5) (b : BitVec 5)
  /-- R235: Queues an element-wise integer negation. -/
  | vneg (t : BitVec 6) (a : BitVec 5) (b : BitVec 5)
  /-- R235: Queues an element-wise rounded average. -/
  | vavg (t : BitVec 6) (a : BitVec 5) (b : BitVec 5) (s : BitVec 2)
  /-- R235: Queues an element-wise absolute difference. -/
  | vabsd (t : BitVec 6) (a : BitVec 5) (b : BitVec 5) (s : BitVec 2)
  /-- R235: Queues an element-wise integer divide. -/
  | vdiv (t : BitVec 6) (a : BitVec 5) (b : BitVec 5) (s : BitVec 2)
  /-- R235: Queues an element-wise integer remainder. -/
  | vrem (t : BitVec 6) (a : BitVec 5) (b : BitVec 5) (s : BitVec 2)
  /-- R235: Queues an element-wise AND. -/
  | vand (t : BitVec 6) (a : BitVec 5) (b : BitVec 5) (s : BitVec 2)
  /-- R235: Queues an element-wise OR. -/
  | vor (t : BitVec 6) (a : BitVec 5) (b : BitVec 5) (s : BitVec 2)
  /-- R235: Queues an element-wise XOR. -/
  | vxor (t : BitVec 6) (a : BitVec 5) (b : BitVec 5) (s : BitVec 2)
  /-- R235: Queues an element-wise NOT. -/
  | vnot (t : BitVec 6) (a : BitVec 5) (b : BitVec 5)
  /-- R235: Queues an element-wise left shift. -/
  | vshl (t : BitVec 6) (a : BitVec 5) (b : BitVec 5) (s : BitVec 2)
  /-- R235: Queues an element-wise logical right shift. -/
  | vshr (t : BitVec 6) (a : BitVec 5) (b : BitVec 5) (s : BitVec 2)
  /-- R235: Queues an element-wise arithmetic right shift. -/
  | vsra (t : BitVec 6) (a : BitVec 5) (b : BitVec 5) (s : BitVec 2)
  /-- R235: Queues an element-wise rotate left. -/
  | vrotl (t : BitVec 6) (a : BitVec 5) (b : BitVec 5) (s : BitVec 2)
  /-- R235: Queues an element-wise count of leading zeros. -/
  | vclz (t : BitVec 6) (a : BitVec 5) (b : BitVec 5)
  /-- R235: Queues an element-wise count of trailing zeros. -/
  | vctz (t : BitVec 6) (a : BitVec 5) (b : BitVec 5)
  /-- R235: Queues an element-wise population count. -/
  | vpopc (t : BitVec 6) (a : BitVec 5) (b : BitVec 5)
  /-- R235: Queues an element-wise bit reversal. -/
  | vbrev (t : BitVec 6) (a : BitVec 5) (b : BitVec 5)
  /-- R235: Queues an element-wise equality compare writing .i32 lanes. -/
  | vceq (t : BitVec 6) (a : BitVec 5) (b : BitVec 5) (s : BitVec 2)
  /-- R235: Queues an element-wise inequality compare. -/
  | vcne (t : BitVec 6) (a : BitVec 5) (b : BitVec 5) (s : BitVec 2)
  /-- R235: Queues an element-wise less-than compare. -/
  | vclt (t : BitVec 6) (a : BitVec 5) (b : BitVec 5) (s : BitVec 2)
  /-- R235: Queues an element-wise less-or-equal compare. -/
  | vcle (t : BitVec 6) (a : BitVec 5) (b : BitVec 5) (s : BitVec 2)
  /-- R235: Queues an element-wise greater-than compare. -/
  | vcgt (t : BitVec 6) (a : BitVec 5) (b : BitVec 5) (s : BitVec 2)
  /-- R235: Queues an element-wise greater-or-equal compare. -/
  | vcge (t : BitVec 6) (a : BitVec 5) (b : BitVec 5) (s : BitVec 2)
  /-- R235: Queues an element-wise NaN test. -/
  | vcnan (t : BitVec 6) (a : BitVec 5) (b : BitVec 5)
  /-- R235: Queues an element-wise move with refilling. -/
  | vmov (t : BitVec 6) (a : BitVec 5) (b : BitVec 5)
  /-- R235: Queues an element-wise floating add. -/
  | vfadd (t : BitVec 6) (a : BitVec 5) (b : BitVec 5) (s : BitVec 2)
  /-- R235: Queues an element-wise floating subtract. -/
  | vfsub (t : BitVec 6) (a : BitVec 5) (b : BitVec 5) (s : BitVec 2)
  /-- R235: Queues an element-wise floating multiply. -/
  | vfmul (t : BitVec 6) (a : BitVec 5) (b : BitVec 5) (s : BitVec 2)
  /-- R235: Queues an element-wise floating divide. -/
  | vfdiv (t : BitVec 6) (a : BitVec 5) (b : BitVec 5) (s : BitVec 2)
  /-- R235: Queues an element-wise floating minimum. -/
  | vfmin (t : BitVec 6) (a : BitVec 5) (b : BitVec 5) (s : BitVec 2)
  /-- R235: Queues an element-wise floating maximum. -/
  | vfmax (t : BitVec 6) (a : BitVec 5) (b : BitVec 5) (s : BitVec 2)
  /-- R235: Queues an element-wise floating absolute value. -/
  | vfabs (t : BitVec 6) (a : BitVec 5) (b : BitVec 5)
  /-- R235: Queues an element-wise floating negation. -/
  | vfneg (t : BitVec 6) (a : BitVec 5) (b : BitVec 5)
  /-- R235: Queues an element-wise floating square root. -/
  | vfsqrt (t : BitVec 6) (a : BitVec 5) (b : BitVec 5)
  /-- R235: Queues an element-wise reciprocal. -/
  | vfrcp (t : BitVec 6) (a : BitVec 5) (b : BitVec 5)
  /-- R235: Queues an element-wise reciprocal square root. -/
  | vfrsqrt (t : BitVec 6) (a : BitVec 5) (b : BitVec 5)
  /-- R235: Queues an element-wise scale by a power of two. -/
  | vfscale (t : BitVec 6) (a : BitVec 5) (b : BitVec 5) (s : BitVec 2)
  /-- R235: Queues an element-wise base-2 exponential. -/
  | vfexp2 (t : BitVec 6) (a : BitVec 5) (b : BitVec 5)
  /-- R235: Queues an element-wise base-2 logarithm. -/
  | vflog2 (t : BitVec 6) (a : BitVec 5) (b : BitVec 5)
  /-- R235: Queues an element-wise tanh. -/
  | vftanh (t : BitVec 6) (a : BitVec 5) (b : BitVec 5)
  /-- R235: Queues an element-wise sigmoid. -/
  | vfsigm (t : BitVec 6) (a : BitVec 5) (b : BitVec 5)
  /-- R235: Queues an element-wise GELU. -/
  | vfgelu (t : BitVec 6) (a : BitVec 5) (b : BitVec 5)
  /-- R235: Queues an element-wise SiLU. -/
  | vfsilu (t : BitVec 6) (a : BitVec 5) (b : BitVec 5)
  /-- R235: Queues an element-wise error function. -/
  | vferf (t : BitVec 6) (a : BitVec 5) (b : BitVec 5)
  /-- R235: Queues an element-wise softplus. -/
  | vfsoftp (t : BitVec 6) (a : BitVec 5) (b : BitVec 5)
  /-- R236: Queues an element-wise format conversion. -/
  | vcvt (t : BitVec 6) (a : BitVec 5) (b : BitVec 5)
  /-- R236: Queues an exact sum of all elements into an LA320 entry or an .i32. -/
  | vsum (t : BitVec 6) (a : BitVec 5) (b : BitVec 5)
  /-- R236: Queues a reduction to the largest element. -/
  | vmaxr (t : BitVec 6) (a : BitVec 5) (b : BitVec 5)
  /-- R236: Queues a reduction to the largest magnitude. -/
  | vamaxr (t : BitVec 6) (a : BitVec 5) (b : BitVec 5)
  /-- R238: Queues top-k selection of KVC pages scored from their headers. -/
  | topk (a : BitVec 5) (b : BitVec 5) (m : BitVec 1)
  /-- R240: Queues row prediction from a ternary sketch with gathers of the selected rows. -/
  | predrows (a : BitVec 5) (b : BitVec 5)
  /-- R240: Queues the check stage that replays omitted rows until the remaining bound is at most E. -/
  | prcheck (a : BitVec 5) (b : BitVec 5)
  /-- R244: Queues an indexed gather into virtual memory or W. -/
  | gath (a : BitVec 5) (b : BitVec 5) (w : BitVec 1) (e : BitVec 4)
  /-- R244: Queues an indexed scatter to virtual memory. -/
  | scat (a : BitVec 5) (b : BitVec 5)
  /-- R247: Reads a launch descriptor and submits the launch with the thread as its source. -/
  | glaunch (a : BitVec 5)
  /-- R248: Queues an arm request for a section and returns a new formation number. -/
  | sarm (a : BitVec 5) (b : BitVec 5)
  /-- R249: Waits for a formation to complete and writes its status. -/
  | fwait (a : BitVec 5) (b : BitVec 5)
  /-- R253: Waits for the word to be full, reads it and leaves it empty. -/
  | ldwF (d : BitVec 5) (a : BitVec 5) (s : BitVec 2) (o : BitVec 5)
  /-- R253: Waits for the word to be empty, writes it and leaves it full. -/
  | stwE (d : BitVec 5) (a : BitVec 5) (s : BitVec 2) (o : BitVec 5)
  /-- R253: Takes the word if full without waiting. -/
  | ldwFt (d : BitVec 5) (a : BitVec 5) (s : BitVec 2) (o : BitVec 5)
  /-- R253: Writes the word if empty without waiting and reports whether it wrote. -/
  | stwEt (d : BitVec 5) (a : BitVec 5) (b : BitVec 5) (s : BitVec 2) (o : BitVec 5)
  /-- R253: Waits for the word to be full and reads it, leaving it full. -/
  | ldwFk (d : BitVec 5) (a : BitVec 5) (s : BitVec 2) (o : BitVec 5)
  /-- R253: Reads the word and its full/empty bit without change. -/
  | ldwQ (d : BitVec 5) (a : BitVec 5) (s : BitVec 2) (o : BitVec 5)
  /-- R253: Leaves the word empty with its data unchanged. -/
  | fclr (a : BitVec 5) (s : BitVec 2) (o : BitVec 5)
  /-- R257: Atomically swaps the word with gb and returns the old value. -/
  | amoSwap (d : BitVec 5) (a : BitVec 5) (b : BitVec 5) (z : BitVec 2) (p : BitVec 1) (x : BitVec 1)
  /-- R257: Atomically adds gb, wrapping. -/
  | amoAdd (d : BitVec 5) (a : BitVec 5) (b : BitVec 5) (z : BitVec 2) (p : BitVec 1) (x : BitVec 1)
  /-- R257: Atomically ANDs gb. -/
  | amoAnd (d : BitVec 5) (a : BitVec 5) (b : BitVec 5) (z : BitVec 2) (p : BitVec 1) (x : BitVec 1)
  /-- R257: Atomically ORs gb. -/
  | amoOr (d : BitVec 5) (a : BitVec 5) (b : BitVec 5) (z : BitVec 2) (p : BitVec 1) (x : BitVec 1)
  /-- R257: Atomically XORs gb. -/
  | amoXor (d : BitVec 5) (a : BitVec 5) (b : BitVec 5) (z : BitVec 2) (p : BitVec 1) (x : BitVec 1)
  /-- R257: Atomic signed minimum. -/
  | amoMin (d : BitVec 5) (a : BitVec 5) (b : BitVec 5) (z : BitVec 2) (p : BitVec 1) (x : BitVec 1)
  /-- R257: Atomic signed maximum. -/
  | amoMax (d : BitVec 5) (a : BitVec 5) (b : BitVec 5) (z : BitVec 2) (p : BitVec 1) (x : BitVec 1)
  /-- R257: Atomic unsigned minimum. -/
  | amoMinu (d : BitVec 5) (a : BitVec 5) (b : BitVec 5) (z : BitVec 2) (p : BitVec 1) (x : BitVec 1)
  /-- R257: Atomic unsigned maximum. -/
  | amoMaxu (d : BitVec 5) (a : BitVec 5) (b : BitVec 5) (z : BitVec 2) (p : BitVec 1) (x : BitVec 1)
  /-- R257: Atomic compare-and-swap against the old gd. -/
  | amoCas (d : BitVec 5) (a : BitVec 5) (b : BitVec 5) (z : BitVec 2) (p : BitVec 1) (x : BitVec 1)
  /-- R258: Atomic floating maximum with NaN above infinity. -/
  | amoFmax (d : BitVec 5) (a : BitVec 5) (b : BitVec 5) (z : BitVec 2) (p : BitVec 1)
  /-- R258: Atomically returns the word and resets it to +0. -/
  | amaxrr (d : BitVec 5) (a : BitVec 5) (z : BitVec 2) (p : BitVec 1)
  /-- R260: Claims n ticket slots unless the limit would be passed. -/
  | tkt (d : BitVec 5) (a : BitVec 5) (b : BitVec 5)
  /-- R260: Resets a ticket count and sets its limit. -/
  | tkset (a : BitVec 5) (b : BitVec 5)
  /-- R261: Initialises a sequence cell and discards its waiting slots. -/
  | redinit (a : BitVec 5) (b : BitVec 5)
  /-- R261: Contributes a sequence-indexed value, applied in strict index order. -/
  | redFadd (d : BitVec 5) (a : BitVec 5) (b : BitVec 5)
  /-- R261: Reads the next index and value of a sequence cell. -/
  | redrd (d : BitVec 5) (a : BitVec 5)
  /-- R263: Adds a value exactly into an LA320 cell. -/
  | redLadd (a : BitVec 5) (b : BitVec 5) (f : BitVec 4)
  /-- R263: Clears an LA320 cell. -/
  | redLclr (a : BitVec 5) (s : BitVec 5)
  /-- R263: Drains an LA320 cell to a format into gd. -/
  | redLdrain (d : BitVec 5) (a : BitVec 5) (s : BitVec 5) (f : BitVec 4) (r : BitVec 2)
  /-- R264: Adds the thread to a membership set. -/
  | sjoin (d : BitVec 5) (a : BitVec 5)
  /-- R264: Removes the thread from a membership set. -/
  | sleave (d : BitVec 5) (a : BitVec 5)
  /-- R266: Arrives at the set's barrier and waits for the phase. -/
  | barw (d : BitVec 5) (a : BitVec 5)
  /-- R266: Arrives at the set's barrier without waiting. -/
  | bara (d : BitVec 5) (a : BitVec 5)
  /-- R266: Waits until phase p of a set has completed without arriving. -/
  | barwp (d : BitVec 5) (a : BitVec 5) (b : BitVec 5)
  /-- R267: Revokes the current phase of a set. -/
  | binit (d : BitVec 5) (a : BitVec 5)
  /-- R264: Reads a set's member count and phase. -/
  | sstat (d : BitVec 5) (a : BitVec 5)
  /-- R276: Requests a lock mode on an item and waits for grant or refusal. -/
  | lkacq (d : BitVec 5) (a : BitVec 5) (m : BitVec 3)
  /-- R276: Requests a lock mode only if it would not wait. -/
  | lktry (d : BitVec 5) (a : BitVec 5) (m : BitVec 3)
  /-- R277: Releases one item held by the transaction. -/
  | lkrel (d : BitVec 5) (a : BitVec 5)
  /-- R277: Releases every item of the transaction and withdraws its waiting request. -/
  | lkrelall (d : BitVec 5)
  /-- R269: Registers a lock tensor from a 32-byte record. -/
  | lkreg (d : BitVec 5) (a : BitVec 5)
  /-- R275: Unregisters a lock tensor. -/
  | lkunreg (d : BitVec 5) (a : BitVec 5)
  /-- R275: Reads the partition's compatibility matrix. -/
  | lkmat (d : BitVec 5)
  /-- R147: Orders a before-path against an after-path at a scope. -/
  | fence (p : BitVec 3) (q : BitVec 3) (s : BitVec 3)
  /-- R282: Element firing: integer add, optionally saturating. -/
  | elemAdd (a : BitVec 3) (b : BitVec 3) (f : BitVec 4) (s : BitVec 1) (w : BitVec 1) (k : BitVec 10)
  /-- R282: Element firing: integer subtract. -/
  | elemSub (a : BitVec 3) (b : BitVec 3) (f : BitVec 4) (s : BitVec 1) (w : BitVec 1) (k : BitVec 10)
  /-- R282: Element firing: integer multiply. -/
  | elemMul (a : BitVec 3) (b : BitVec 3) (f : BitVec 4) (s : BitVec 1) (w : BitVec 1) (k : BitVec 10)
  /-- R282: Element firing: high half of the product. -/
  | elemMulh (a : BitVec 3) (b : BitVec 3) (f : BitVec 4) (w : BitVec 1) (k : BitVec 10)
  /-- R282: Element firing: integer minimum. -/
  | elemMin (a : BitVec 3) (b : BitVec 3) (f : BitVec 4) (w : BitVec 1) (k : BitVec 10)
  /-- R282: Element firing: integer maximum. -/
  | elemMax (a : BitVec 3) (b : BitVec 3) (f : BitVec 4) (w : BitVec 1) (k : BitVec 10)
  /-- R282: Element firing: integer absolute value. -/
  | elemAbs (a : BitVec 3) (f : BitVec 4) (s : BitVec 1) (w : BitVec 1) (k : BitVec 10)
  /-- R282: Element firing: integer negation. -/
  | elemNeg (a : BitVec 3) (f : BitVec 4) (s : BitVec 1) (w : BitVec 1) (k : BitVec 10)
  /-- R282: Element firing: rounded integer average. -/
  | elemAvg (a : BitVec 3) (b : BitVec 3) (f : BitVec 4) (r : BitVec 2) (w : BitVec 1) (k : BitVec 10)
  /-- R282: Element firing: absolute difference. -/
  | elemAbsd (a : BitVec 3) (b : BitVec 3) (f : BitVec 4) (s : BitVec 1) (w : BitVec 1) (k : BitVec 10)
  /-- R282: Element firing: integer divide, all ones on zero divisor. -/
  | elemDiv (a : BitVec 3) (b : BitVec 3) (f : BitVec 4) (s : BitVec 1) (w : BitVec 1) (k : BitVec 10)
  /-- R282: Element firing: integer remainder. -/
  | elemRem (a : BitVec 3) (b : BitVec 3) (f : BitVec 4) (w : BitVec 1) (k : BitVec 10)
  /-- R283: Element firing: bitwise AND. -/
  | elemAnd (a : BitVec 3) (b : BitVec 3) (f : BitVec 4) (w : BitVec 1) (k : BitVec 10)
  /-- R283: Element firing: bitwise OR. -/
  | elemOr (a : BitVec 3) (b : BitVec 3) (f : BitVec 4) (w : BitVec 1) (k : BitVec 10)
  /-- R283: Element firing: bitwise XOR. -/
  | elemXor (a : BitVec 3) (b : BitVec 3) (f : BitVec 4) (w : BitVec 1) (k : BitVec 10)
  /-- R283: Element firing: bitwise NOT. -/
  | elemNot (a : BitVec 3) (f : BitVec 4) (w : BitVec 1) (k : BitVec 10)
  /-- R283: Element firing: left shift. -/
  | elemShl (a : BitVec 3) (b : BitVec 3) (f : BitVec 4) (w : BitVec 1) (k : BitVec 10)
  /-- R283: Element firing: logical right shift. -/
  | elemShr (a : BitVec 3) (b : BitVec 3) (f : BitVec 4) (w : BitVec 1) (k : BitVec 10)
  /-- R283: Element firing: arithmetic right shift. -/
  | elemSra (a : BitVec 3) (b : BitVec 3) (f : BitVec 4) (w : BitVec 1) (k : BitVec 10)
  /-- R283: Element firing: rotate left. -/
  | elemRotl (a : BitVec 3) (b : BitVec 3) (f : BitVec 4) (w : BitVec 1) (k : BitVec 10)
  /-- R283: Element firing: count leading zeros. -/
  | elemClz (a : BitVec 3) (f : BitVec 4) (w : BitVec 1) (k : BitVec 10)
  /-- R283: Element firing: count trailing zeros. -/
  | elemCtz (a : BitVec 3) (f : BitVec 4) (w : BitVec 1) (k : BitVec 10)
  /-- R283: Element firing: population count. -/
  | elemPopc (a : BitVec 3) (f : BitVec 4) (w : BitVec 1) (k : BitVec 10)
  /-- R283: Element firing: bit reversal. -/
  | elemBrev (a : BitVec 3) (f : BitVec 4) (w : BitVec 1) (k : BitVec 10)
  /-- R284: Element firing: equality compare emitting .i32 0 or 1. -/
  | elemCeq (a : BitVec 3) (b : BitVec 3) (f : BitVec 4) (w : BitVec 1) (k : BitVec 10)
  /-- R284: Element firing: inequality compare. -/
  | elemCne (a : BitVec 3) (b : BitVec 3) (f : BitVec 4) (w : BitVec 1) (k : BitVec 10)
  /-- R284: Element firing: less-than compare. -/
  | elemClt (a : BitVec 3) (b : BitVec 3) (f : BitVec 4) (w : BitVec 1) (k : BitVec 10)
  /-- R284: Element firing: less-or-equal compare. -/
  | elemCle (a : BitVec 3) (b : BitVec 3) (f : BitVec 4) (w : BitVec 1) (k : BitVec 10)
  /-- R284: Element firing: greater-than compare. -/
  | elemCgt (a : BitVec 3) (b : BitVec 3) (f : BitVec 4) (w : BitVec 1) (k : BitVec 10)
  /-- R284: Element firing: greater-or-equal compare. -/
  | elemCge (a : BitVec 3) (b : BitVec 3) (f : BitVec 4) (w : BitVec 1) (k : BitVec 10)
  /-- R284: Element firing: NaN test. -/
  | elemCnan (a : BitVec 3) (f : BitVec 4) (w : BitVec 1) (k : BitVec 10)
  /-- R284: Element firing: move with refilling and NaN canonicalisation. -/
  | elemMov (a : BitVec 3) (f : BitVec 4) (w : BitVec 1) (k : BitVec 10)
  /-- R285: Element firing: floating add, rounded. -/
  | elemFadd (a : BitVec 3) (b : BitVec 3) (f : BitVec 4) (r : BitVec 2) (s : BitVec 1) (w : BitVec 1) (k : BitVec 10)
  /-- R285: Element firing: floating subtract, rounded. -/
  | elemFsub (a : BitVec 3) (b : BitVec 3) (f : BitVec 4) (r : BitVec 2) (s : BitVec 1) (w : BitVec 1) (k : BitVec 10)
  /-- R285: Element firing: floating multiply, rounded. -/
  | elemFmul (a : BitVec 3) (b : BitVec 3) (f : BitVec 4) (r : BitVec 2) (s : BitVec 1) (w : BitVec 1) (k : BitVec 10)
  /-- R285: Element firing: floating divide, rounded. -/
  | elemFdiv (a : BitVec 3) (b : BitVec 3) (f : BitVec 4) (r : BitVec 2) (s : BitVec 1) (w : BitVec 1) (k : BitVec 10)
  /-- R285: Element firing: floating minimum. -/
  | elemFmin (a : BitVec 3) (b : BitVec 3) (f : BitVec 4) (w : BitVec 1) (k : BitVec 10)
  /-- R285: Element firing: floating maximum. -/
  | elemFmax (a : BitVec 3) (b : BitVec 3) (f : BitVec 4) (w : BitVec 1) (k : BitVec 10)
  /-- R285: Element firing: clears the sign. -/
  | elemFabs (a : BitVec 3) (f : BitVec 4) (w : BitVec 1) (k : BitVec 10)
  /-- R285: Element firing: inverts the sign. -/
  | elemFneg (a : BitVec 3) (f : BitVec 4) (w : BitVec 1) (k : BitVec 10)
  /-- R285: Element firing: square root, rounded. -/
  | elemFsqrt (a : BitVec 3) (f : BitVec 4) (r : BitVec 2) (s : BitVec 1) (w : BitVec 1) (k : BitVec 10)
  /-- R285: Element firing: reciprocal, rounded. -/
  | elemFrcp (a : BitVec 3) (f : BitVec 4) (r : BitVec 2) (s : BitVec 1) (w : BitVec 1) (k : BitVec 10)
  /-- R285: Element firing: reciprocal square root, rounded. -/
  | elemFrsqrt (a : BitVec 3) (f : BitVec 4) (r : BitVec 2) (s : BitVec 1) (w : BitVec 1) (k : BitVec 10)
  /-- R285: Element firing: x times 2 to the .i32 power y, rounded. -/
  | elemFscale (a : BitVec 3) (b : BitVec 3) (f : BitVec 4) (r : BitVec 2) (s : BitVec 1) (w : BitVec 1) (k : BitVec 10)
  /-- R287: Element firing: correctly rounded 2^x. -/
  | elemFexp2 (a : BitVec 3) (f : BitVec 4) (r : BitVec 2) (s : BitVec 1) (w : BitVec 1) (k : BitVec 10)
  /-- R287: Element firing: correctly rounded log2 x. -/
  | elemFlog2 (a : BitVec 3) (f : BitVec 4) (r : BitVec 2) (s : BitVec 1) (w : BitVec 1) (k : BitVec 10)
  /-- R287: Element firing: correctly rounded tanh. -/
  | elemFtanh (a : BitVec 3) (f : BitVec 4) (r : BitVec 2) (s : BitVec 1) (w : BitVec 1) (k : BitVec 10)
  /-- R287: Element firing: correctly rounded sigmoid. -/
  | elemFsigm (a : BitVec 3) (f : BitVec 4) (r : BitVec 2) (s : BitVec 1) (w : BitVec 1) (k : BitVec 10)
  /-- R287: Element firing: correctly rounded GELU. -/
  | elemFgelu (a : BitVec 3) (f : BitVec 4) (r : BitVec 2) (s : BitVec 1) (w : BitVec 1) (k : BitVec 10)
  /-- R287: Element firing: correctly rounded SiLU. -/
  | elemFsilu (a : BitVec 3) (f : BitVec 4) (r : BitVec 2) (s : BitVec 1) (w : BitVec 1) (k : BitVec 10)
  /-- R287: Element firing: correctly rounded erf. -/
  | elemFerf (a : BitVec 3) (f : BitVec 4) (r : BitVec 2) (s : BitVec 1) (w : BitVec 1) (k : BitVec 10)
  /-- R287: Element firing: correctly rounded softplus. -/
  | elemFsoftp (a : BitVec 3) (f : BitVec 4) (r : BitVec 2) (s : BitVec 1) (w : BitVec 1) (k : BitVec 10)
  /-- R288: Element firing: format conversion to the destination in k[3:0]. -/
  | elemCvt (a : BitVec 3) (f : BitVec 4) (r : BitVec 2) (s : BitVec 1) (w : BitVec 1) (t : BitVec 4)
  /-- R288: Element firing: packs two 8- or 16-bit values. `wk` holds swap and, where a source is the pool, the index (R165). -/
  | elemPack (a : BitVec 3) (b : BitVec 3) (f : BitVec 4) (wk : BitVec 11)
  /-- R288: Element firing: unpacks the low value. -/
  | elemUnpklo (a : BitVec 3) (f : BitVec 4) (w : BitVec 1)
  /-- R288: Element firing: unpacks the high value. -/
  | elemUnpkhi (a : BitVec 3) (f : BitVec 4) (w : BitVec 1)
  /-- R288: Element firing: rounds to an integral value. -/
  | elemFround (a : BitVec 3) (f : BitVec 4) (r : BitVec 2) (w : BitVec 1)
  /-- R288: Element firing: sign as -1 or +1, zero kept. -/
  | elemFsign (a : BitVec 3) (f : BitVec 4) (w : BitVec 1)
  /-- R289: Element firing: exact integer group sum. -/
  | elemIacc (a : BitVec 3) (b : BitVec 3) (f : BitVec 4) (s : BitVec 1) (w : BitVec 1)
  /-- R289: Element firing: LA320 group sum drained each firing. -/
  | elemFacc (a : BitVec 3) (b : BitVec 3) (f : BitVec 4) (r : BitVec 2) (s : BitVec 1) (w : BitVec 1)
  /-- R289: Element firing: group integer maximum. -/
  | elemImaxr (a : BitVec 3) (b : BitVec 3) (f : BitVec 4) (w : BitVec 1)
  /-- R289: Element firing: group floating maximum. -/
  | elemFmaxr (a : BitVec 3) (b : BitVec 3) (f : BitVec 4) (w : BitVec 1)
  /-- R289: Element firing: group largest magnitude. -/
  | elemFamaxr (a : BitVec 3) (b : BitVec 3) (f : BitVec 4) (w : BitVec 1)
  /-- R289: Element firing: group count of non-zero values. -/
  | elemCnt (a : BitVec 3) (b : BitVec 3) (f : BitVec 4) (w : BitVec 1)
  /-- R293: Memory element firing: begins a zero-extending or decoding load. -/
  | memLd (o : BitVec 6) (p : BitVec 6) (q : BitVec 6) (w : BitVec 3) (s : BitVec 3)
  /-- R293: Memory element firing: begins a sign-extending load. -/
  | memLds (o : BitVec 6) (p : BitVec 6) (q : BitVec 6) (w : BitVec 3) (s : BitVec 3)
  /-- R293: Memory element firing: begins a store of b's low bytes. -/
  | memSt (o : BitVec 6) (p : BitVec 6) (q : BitVec 6) (w : BitVec 3) (s : BitVec 3)
  /-- R296: Memory element firing: waiting load that leaves the word empty. -/
  | memLdwf (o : BitVec 6) (p : BitVec 6) (q : BitVec 6) (s : BitVec 3)
  /-- R296: Memory element firing: waiting store that leaves the word full. -/
  | memStwe (o : BitVec 6) (p : BitVec 6) (q : BitVec 6) (s : BitVec 3)
  /-- R296: Memory element firing: waiting load that leaves the word full. -/
  | memLdwk (o : BitVec 6) (p : BitVec 6) (q : BitVec 6) (s : BitVec 3)
  /-- R297: Memory element firing: atomic add. -/
  | memAadd (o : BitVec 6) (p : BitVec 6) (q : BitVec 6) (s : BitVec 3)
  /-- R297: Memory element firing: atomic signed maximum. -/
  | memAmax (o : BitVec 6) (p : BitVec 6) (q : BitVec 6) (s : BitVec 3)
  /-- R297: Memory element firing: atomic signed minimum. -/
  | memAmin (o : BitVec 6) (p : BitVec 6) (q : BitVec 6) (s : BitVec 3)
  /-- R297: Memory element firing: atomic swap. -/
  | memAswp (o : BitVec 6) (p : BitVec 6) (q : BitVec 6) (s : BitVec 3)
  /-- R297: Memory element firing: atomic AND. -/
  | memAand (o : BitVec 6) (p : BitVec 6) (q : BitVec 6) (s : BitVec 3)
  /-- R297: Memory element firing: atomic OR. -/
  | memAor (o : BitVec 6) (p : BitVec 6) (q : BitVec 6) (s : BitVec 3)
  /-- R297: Memory element firing: atomic XOR. -/
  | memAxor (o : BitVec 6) (p : BitVec 6) (q : BitVec 6) (s : BitVec 3)
  /-- R298: Memory element firing: translates and starts a fill, never faulting. -/
  | memPfch (o : BitVec 6) (p : BitVec 6) (q : BitVec 6)
  /-- R304: Router operator firing: forwards a token from in to out. -/
  | opPass (o : BitVec 3) (i : BitVec 3) (c : BitVec 1)
  /-- R304: Router operator firing: forwards a token to both outputs. -/
  | opFork (o : BitVec 3) (i : BitVec 3) (c : BitVec 1) (v : BitVec 3)
  /-- R305: Router operator firing: sends d to the selected arc and NULL to the other. -/
  | opSteer (o : BitVec 3) (i : BitVec 3) (j : BitVec 3) (c : BitVec 1) (v : BitVec 3)
  /-- R306: Router operator firing: takes one token from each input and emits the selected one. -/
  | opMerge (o : BitVec 3) (i : BitVec 3) (j : BitVec 3) (c : BitVec 1) (v : BitVec 3)
  /-- R307: Router operator turn: serves one instance slot from init or back. -/
  | opCarry (o : BitVec 3) (i : BitVec 3) (j : BitVec 3) (c : BitVec 1)
  /-- R308: Router operator firing: replaces a NULL with the variant's DATA value. -/
  | opNullFill (o : BitVec 3) (i : BitVec 3) (c : BitVec 1) (v : BitVec 3)
  /-- R309: Router operator firing: forwards data, consuming a g token per control token. -/
  | opEgate (o : BitVec 3) (i : BitVec 3) (j : BitVec 3) (c : BitVec 1)
  /-- R309: Router operator firing: sets the EOS swap flag from the g token. -/
  | opEgateSw (o : BitVec 3) (i : BitVec 3) (j : BitVec 3) (c : BitVec 1)
  /-- R57: A token offered on a hop is taken into a free slot and acknowledged. -/
  | arcHop (f : Nat) (a : Nat) (k : Nat)
  /-- R75: The configuration cache supplies an element's words, fetching from the image on a miss. -/
  | configWordLoad (f : Nat) (n : Nat)
  /-- R63: A loop-control unit consumes an n token and forms its idx and last series. -/
  | loopNConsume (f : Nat) (n : Nat)
  /-- R64: A loop-control unit emits the next token of its idx or last stream. -/
  | loopEmit (f : Nat) (n : Nat) (last : Bool)
  /-- R294: A memory element's access is answered and its reply or acknowledgement emitted in firing order. -/
  | memAccessReply (f : Nat) (n : Nat) (k : Nat)
  /-- R299: A matrix node issues an mma or mmaz to its stream from its two tokens. -/
  | matrixNodeFire (f : Nat) (n : Nat)
  /-- R215: A source stream port reads the next pattern address and emits a DATA token, or EOS at binding end. -/
  | sportSourceAccess (f : Nat) (n : Nat)
  /-- R215: A sink stream port consumes a token and writes it at the next pattern address. -/
  | sportSinkAccess (f : Nat) (n : Nat)
  /-- R33: The ready pool admits a whole launch once it fits, checks the graph and makes ready tasks ready. -/
  | launchAdmit (l : Nat)
  /-- R314: A ready thread task or suspended thread is given a slot in a bound or unbound cluster. -/
  | threadTaskDispatch (l : Nat) (k : Nat)
  /-- R315: The placer checks and places a ready section task or arm request when resources are free. -/
  | placeFormation (f : Nat) (wheres : List Nat) (routes : List (List Nat)) (isles : List Nat)
  /-- R47: A placed formation is armed with its tile count delivered to its tile loops. -/
  | formationArm (f : Nat)
  /-- R47: Once EOS has reached every sink and ack counts are zero, DRAIN enters at every source. -/
  | drainInject (f : Nat)
  /-- R191: A control-thread load's reply returns and is written to gd, or raises POISON. -/
  | ctLoadReply (t : Nat)
  /-- R174: A posted control-thread store is performed. -/
  | storePerform (t : Nat) (k : Nat)
  /-- R104: A walker completes a walk, setting acc or reporting a fault reason. -/
  | pageWalk (cmd : Bool) (x : Nat) (y : Nat) (k : Nat)
  /-- R111: A fill takes the next frame from the context's fill ring once it is well formed and not empty. -/
  | fillRingTake (x : Nat) (p : Nat)
  /-- R110: A flash read completes, the entry is written with pres 1 and frozen parties are woken. -/
  | fillComplete (x : Nat) (p : Nat)
  /-- R206: An invalidation completes and wakes accesses frozen on covered entries. -/
  | xinvDone (k : Nat)
  /-- R144: A synchronisation engine applies an SY operation on an object in its one order. -/
  | syOperationApply (f : Nat) (n : Nat) (k : Nat)
  /-- R176: A pending asynchronous trap is taken at an instruction boundary. -/
  | asyncTrapEntry (t : Nat)
  /-- R202: The counter reaches a sleeping thread's wake time and the thread becomes runnable. -/
  | sleepWake (t : Nat)
  /-- R128: The counter passes a filling or draining copy's promise, setting late and raising LATE_COPY. -/
  | copyPromiseExpire (c : Nat) (h : Nat)
  /-- R221: A copy engine takes a copy from its queue, changes the handle and writes promise. -/
  | copyAccept (c : Nat) (u : Nat)
  /-- R127: A copy's last write is visible and its handle becomes full or free. -/
  | copyLand (c : Nat) (u : Nat)
  /-- R317: A command at the head of its queue requests its current reservation. -/
  | reservationRequest (c : Nat) (u : Nat)
  /-- R354: The cluster arbiter grants a reservation and the segment's charge is debited. -/
  | reservationGrant (c : Nat) (u : Nat)
  /-- R229: A matrix engine writes one k-step of a tile, possibly stopping at the boundary. -/
  | kStep (c : Nat) (u : Nat)
  /-- R231: A matrix engine converts and writes a whole C tile. -/
  | mdrainExecute (c : Nat) (u : Nat)
  /-- R235: A vector pipe computes and writes one vector of a command. -/
  | vectorStep (c : Nat) (u : Nat)
  /-- R239: The selection engine scores candidates and writes the ranked list. -/
  | topkExecute (c : Nat)
  /-- R242: The selection engine scores rows, writes the record and gathers the selected rows. -/
  | predrowsExecute (c : Nat)
  /-- R243: The selection engine checks the record, replays omitted rows and rewrites the record. -/
  | prcheckExecute (c : Nat)
  /-- R245: The gather unit reads indexed rows into the contiguous side. -/
  | gathExecute (c : Nat)
  /-- R245: The gather unit writes contiguous rows to indexed addresses. -/
  | scatExecute (c : Nat)
  /-- R405: An access frozen with reason 2 to 5 for 100 ms is ended. -/
  | faultHoldExpire (cmd : Bool) (x : Nat) (y : Nat) (k : Nat)
  /-- R435: A sequence cell with a waiting contribution and unchanged next for 1 ms writes a STALL record. -/
  | reductionGapped (x : Nat) (a : Nat)
  /-- R322: Once everything has stopped, the save area is written and sealed with its tag. -/
  | saveSeal (x : Nat)
  /-- R325: A pre-empted context is checked and restored as a whole onto free clusters and sites. -/
  | contextRestore (x : Nat) (clusters : List Nat) (wheres : List (List Nat)) (routes : List (List (List Nat))) (isles : List (List Nat))
  /-- R441: A guard port takes and discards a token, failing the offending formation. -/
  | guardDiscard (f : Nat) (a : Nat) (site : Nat) (port : Nat) (w : Nat)
  /-- R398: No access of a failed formation remains in flight and its resources are released. -/
  | teardownComplete (f : Nat)
  /-- R399: The emptiness detector reads the counts of every participant of a formation. -/
  | detectorSweep (whole : Bool) (x : Nat)
  /-- R344: A sample period ends and node and thread samples are written. -/
  | samplePeriod (x : Nat)
  /-- R356: Every 10 µs the package arbiter sets cluster shares and applies changes of P′ and thermal step. -/
  | arbiterPeriod (temps : List Nat)
  /-- R358: At the start of an epoch the device sends its reel message to its rack group. -/
  | reelSend
  /-- R358: At 80 µs into an epoch the device computes its rack share for epoch e + 2. -/
  | reelShare
  /-- R423: At each 10 µs window boundary a stack's thermal level is set. -/
  | hbmThermalWindow (stack : Nat) (temp : Nat)
  /-- R443: A domain reaches its current limit and new matrix and vector segments are blocked. -/
  | currentLimit (d : Nat)
  /-- R443: A domain stays below 90 % of its limit for 1,000 ns and the block ends. -/
  | currentLimitClear (d : Nat)
  /-- R445: A junction reaches 115 °C and the package stops. -/
  | junctionOvertemp (d : Nat)
  /-- R445: A domain's supply stays below 90 % of nominal for 100 ns and the package stops. -/
  | supplyUndervolt (d : Nat)
  /-- R417: An edge adapter resends one flit for 1 ms without success and the package stops. -/
  | edgeResendTimeout (d : Nat)
  /-- R378: Power-on starts the counter, checks the firmware image and runs bring-up or recovery. -/
  | powerOn (time : Nat) (hbm : List (Nat × BitVec 8))
  /-- R364: A host command frame fragment arrives and is assembled, resent or discarded by sequence. -/
  | hostFrame (frame : List (BitVec 8))
  /-- R336: An IEEE 1588 frame arrives and updates counter alignment. -/
  | ptpFrame (port sdo domain : Nat) (m : PtpMsg)
  /-- R373: A peer protocol frame arrives, is acknowledged and its messages delivered or forwarded. -/
  | peerFrame (port : Nat) (frame : List (BitVec 8))
  /-- R373: A peer frame not acknowledged within 10 µs is resent. -/
  | peerFrameResend (port : Nat)
  /-- R410: A peer request without reply for 1 ms is abandoned with reason 9. -/
  | peerTimeout (k : Nat)
  /-- R374: An arriving peer read is admitted by a window and served on the PR path, or refused. -/
  | peerRead (k : Nat)
  /-- R374: A peer read reply completes the requesting access. -/
  | peerReadReply (k : Nat)
  /-- R374: An arriving peer write is admitted and performed, or refused. -/
  | peerWrite (k : Nat)
  /-- R374: A peer write acknowledgement completes the requesting store. -/
  | peerWriteAck (k : Nat)
  /-- R374: An arriving peer atomic is admitted and applied by the owning engine. -/
  | peerAtomic (k : Nat)
  /-- R374: A peer atomic reply completes the requesting atomic. -/
  | peerAtomicReply (k : Nat)
  /-- R359: An arriving reel message is recorded and forwarded with hops lowered, or discarded. -/
  | reelMessage (k : Nat)
  /-- R374: A peer refusal makes the requester fault with reason permission. -/
  | peerRefusal (k : Nat)
  /-- R350: The counter reaches a policy's notafter and a required-policy context withholds every class. -/
  | policyNotafter (x : Nat)
  /-- R365: Host command returning its body unchanged. -/
  | hostNop (q : Nat)
  /-- R365: Host command submitting a launch in a context with the queue as source. -/
  | hostLaunch (q : Nat)
  /-- R365: Host command completing when an event's count reaches a value. -/
  | hostWaitev (q : Nat)
  /-- R365: Host command signalling an event with status 0. -/
  | hostSigev (q : Nat)
  /-- R452: Host command reading HBM bytes with a poison map. -/
  | hostMemrd (q : Nat)
  /-- R452: Host command writing HBM bytes on the PR path. -/
  | hostMemwr (q : Nat)
  /-- R365: Host command performing the invalidation of xinv for a context. -/
  | hostXinv (q : Nat)
  /-- R365: Host command setting a context's hash masks. -/
  | hostSetmask (q : Nat)
  /-- R368: Host command creating a context from a descriptor. -/
  | hostCtxnew (q : Nat)
  /-- R369: Host command destroying a suspended or idle context. -/
  | hostCtxdel (q : Nat)
  /-- R369: Host command pre-empting a context, completing when its save is sealed. -/
  | hostSuspend (q : Nat)
  /-- R369: Host command making a suspended context restorable. -/
  | hostResume (q : Nat)
  /-- R360: Host command setting a context's energy quota count. -/
  | hostQset (q : Nat)
  /-- R360: Host command adding to a context's energy quota count. -/
  | hostQadd (q : Nat)
  /-- R350: Host command loading a signed disclosure policy. -/
  | hostPolicy (q : Nat)
  /-- R452: Host command copying a flash page into HBM. -/
  | hostFlashrd (q : Nat)
  /-- R452: Host command programming a flash page from HBM. -/
  | hostFlashwr (q : Nat)
  /-- R349: Host command placing an arc, thread or context halt in a halt slot. -/
  | hostHalt (q : Nat)
  /-- R349: Host command releasing halts or breakpoints. -/
  | hostRelease (q : Nat)
  /-- R349: Host command arming a breakpoint on an arc. -/
  | hostBreak (q : Nat)
  /-- R349: Host command returning a node state, thread record or arc tokens under a stable halt. -/
  | hostDump (q : Nat)
  /-- R349: Host command returning the status of a halt slot or breakpoint. -/
  | hostHstat (q : Nat)
  /-- R425: Host command returning the context's counters and thermal status. -/
  | hostCtrrd (q : Nat)
  /-- R337: Host command returning the time status. -/
  | hostTimestat (q : Nat)
  /-- R339: Host command writing the trace control block's host fields. -/
  | hostTraceset (q : Nat)
  /-- R370: Management command loading a partition entry. -/
  | hostPartset (q : Nat)
  /-- R365: Management command loading a partition's lock compatibility matrix. -/
  | hostLockmat (q : Nat)
  /-- R374: Management command loading a peer window. -/
  | hostPeerwin (q : Nat)
  /-- R365: Management command binding a function to a partition. -/
  | hostFnbind (q : Nat)
  /-- R357: Management command writing the power block's firmware fields. -/
  | hostPower (q : Nat)
  /-- R377: Host command returning a signed attestation report. -/
  | hostAttest (q : Nat)
  /-- R379: Management command delivering a firmware image in recovery, checked and stored. -/
  | hostFwload (q : Nat) (hbm : List (Nat × BitVec 8))
  /-- R378: Management command resetting the package and running bring-up. -/
  | hostReset (q : Nat) (hbm : List (Nat × BitVec 8))
  /-- R318: When a waiting item of another context has aged enough, or a running context has used up its slice, the pool chooses a victim context and starts its pre-emption. -/
  | timeSliceDecision (p : Nat)
  /-- R337: The time status leaves locked for holdover when the IEEE 1588 parent stops being heard. -/
  | holdover
  deriving DecidableEq, Repr

end Sys2Proof
end

