-- ==== Sys2Proof/Decode.lean ====
section
/-! DEFINITION. Decoding and encoding (R160 to R169, R385, R386).

`decodeControl` is total on every 32-bit word: an instruction, or the `ILLEGAL` reason that R386 gives the word. A word
that carries the fixed bits of a row and a code field with a value that its instruction does not allow (reason 4 of R386)
decodes to that row's constructor, which `wf` refuses and whose meaning raises `ILLEGAL` with reason 4 (log 2).

Definitions that build a constructor beyond the 244th are marked noncomputable: Lean's compiler has no tag for them. They are
plain structural definitions all the same, which the kernel evaluates. -/

namespace Sys2Proof

/-- Control words of major 0x01 (R177, R386). -/
def decodeMajor01 (w : BitVec 32) : Except Nat Instr :=
  match (w.extractLsb' 0 11).toNat with
  | 0 => .ok (.add (w.extractLsb' 21 5) (w.extractLsb' 16 5) (w.extractLsb' 11 5))
  | 1 => .ok (.sub (w.extractLsb' 21 5) (w.extractLsb' 16 5) (w.extractLsb' 11 5))
  | 2 => .ok (.mul (w.extractLsb' 21 5) (w.extractLsb' 16 5) (w.extractLsb' 11 5))
  | 3 => .ok (.mulhs (w.extractLsb' 21 5) (w.extractLsb' 16 5) (w.extractLsb' 11 5))
  | 4 => .ok (.mulhn (w.extractLsb' 21 5) (w.extractLsb' 16 5) (w.extractLsb' 11 5))
  | 5 => .ok (.divs (w.extractLsb' 21 5) (w.extractLsb' 16 5) (w.extractLsb' 11 5))
  | 6 => .ok (.divn (w.extractLsb' 21 5) (w.extractLsb' 16 5) (w.extractLsb' 11 5))
  | 7 => .ok (.rems (w.extractLsb' 21 5) (w.extractLsb' 16 5) (w.extractLsb' 11 5))
  | 8 => .ok (.remn (w.extractLsb' 21 5) (w.extractLsb' 16 5) (w.extractLsb' 11 5))
  | 16 => .ok (.and (w.extractLsb' 21 5) (w.extractLsb' 16 5) (w.extractLsb' 11 5))
  | 17 => .ok (.or (w.extractLsb' 21 5) (w.extractLsb' 16 5) (w.extractLsb' 11 5))
  | 18 => .ok (.xor (w.extractLsb' 21 5) (w.extractLsb' 16 5) (w.extractLsb' 11 5))
  | 19 => .ok (.andn (w.extractLsb' 21 5) (w.extractLsb' 16 5) (w.extractLsb' 11 5))
  | 24 => .ok (.shl (w.extractLsb' 21 5) (w.extractLsb' 16 5) (w.extractLsb' 11 5))
  | 25 => .ok (.shr (w.extractLsb' 21 5) (w.extractLsb' 16 5) (w.extractLsb' 11 5))
  | 26 => .ok (.sar (w.extractLsb' 21 5) (w.extractLsb' 16 5) (w.extractLsb' 11 5))
  | 27 => .ok (.rotl (w.extractLsb' 21 5) (w.extractLsb' 16 5) (w.extractLsb' 11 5))
  | 32 => .ok (.mins (w.extractLsb' 21 5) (w.extractLsb' 16 5) (w.extractLsb' 11 5))
  | 33 => .ok (.maxs (w.extractLsb' 21 5) (w.extractLsb' 16 5) (w.extractLsb' 11 5))
  | 34 => .ok (.minn (w.extractLsb' 21 5) (w.extractLsb' 16 5) (w.extractLsb' 11 5))
  | 35 => .ok (.maxn (w.extractLsb' 21 5) (w.extractLsb' 16 5) (w.extractLsb' 11 5))
  | _ => .error 2

/-- Control words of major 0x02 (R179, R386). -/
def decodeMajor02 (w : BitVec 32) : Except Nat Instr :=
  match (w.extractLsb' 0 11).toNat with
  | 0 => .ok (.ceq (w.extractLsb' 21 5) (w.extractLsb' 16 5) (w.extractLsb' 11 5))
  | 1 => .ok (.cne (w.extractLsb' 21 5) (w.extractLsb' 16 5) (w.extractLsb' 11 5))
  | 2 => .ok (.clt (w.extractLsb' 21 5) (w.extractLsb' 16 5) (w.extractLsb' 11 5))
  | 3 => .ok (.cltn (w.extractLsb' 21 5) (w.extractLsb' 16 5) (w.extractLsb' 11 5))
  | 4 => .ok (.cge (w.extractLsb' 21 5) (w.extractLsb' 16 5) (w.extractLsb' 11 5))
  | 5 => .ok (.cgen (w.extractLsb' 21 5) (w.extractLsb' 16 5) (w.extractLsb' 11 5))
  | 16 => .ok (.csel (w.extractLsb' 21 5) (w.extractLsb' 16 5) (w.extractLsb' 11 5))
  | _ => .error 2

/-- Control words of major 0x03 (R180, R386). -/
def decodeMajor03 (w : BitVec 32) : Except Nat Instr :=
  match (w.extractLsb' 0 11).toNat with
  | 0 => if w.extractLsb' 11 5 ≠ 0#5 then .error 3 else .ok (.clz (w.extractLsb' 21 5) (w.extractLsb' 16 5))
  | 1 => if w.extractLsb' 11 5 ≠ 0#5 then .error 3 else .ok (.ctz (w.extractLsb' 21 5) (w.extractLsb' 16 5))
  | 2 => if w.extractLsb' 11 5 ≠ 0#5 then .error 3 else .ok (.popc (w.extractLsb' 21 5) (w.extractLsb' 16 5))
  | 3 => if w.extractLsb' 11 5 ≠ 0#5 then .error 3 else .ok (.brev (w.extractLsb' 21 5) (w.extractLsb' 16 5))
  | 4 => if w.extractLsb' 11 5 ≠ 0#5 then .error 3 else .ok (.bswap (w.extractLsb' 21 5) (w.extractLsb' 16 5))
  | 8 => .ok (.extu (w.extractLsb' 21 5) (w.extractLsb' 16 5) (w.extractLsb' 11 5))
  | 9 => .ok (.exts (w.extractLsb' 21 5) (w.extractLsb' 16 5) (w.extractLsb' 11 5))
  | 10 => .ok (.ins (w.extractLsb' 21 5) (w.extractLsb' 16 5) (w.extractLsb' 11 5))
  | _ => .error 2

/-- Control words of major 0x04 (R181, R386). -/
def decodeMajor04 (w : BitVec 32) : Except Nat Instr :=
  .ok (.addk (w.extractLsb' 21 5) (w.extractLsb' 16 5) (w.extractLsb' 0 16))

/-- Control words of major 0x05 (R181, R386). -/
def decodeMajor05 (w : BitVec 32) : Except Nat Instr :=
  .ok (.andk (w.extractLsb' 21 5) (w.extractLsb' 16 5) (w.extractLsb' 0 16))

/-- Control words of major 0x06 (R181, R386). -/
def decodeMajor06 (w : BitVec 32) : Except Nat Instr :=
  .ok (.ork (w.extractLsb' 21 5) (w.extractLsb' 16 5) (w.extractLsb' 0 16))

/-- Control words of major 0x07 (R181, R386). -/
def decodeMajor07 (w : BitVec 32) : Except Nat Instr :=
  .ok (.xork (w.extractLsb' 21 5) (w.extractLsb' 16 5) (w.extractLsb' 0 16))

/-- Control words of major 0x08 (R181, R386). -/
def decodeMajor08 (w : BitVec 32) : Except Nat Instr :=
  .ok (.cltk (w.extractLsb' 21 5) (w.extractLsb' 16 5) (w.extractLsb' 0 16))

/-- Control words of major 0x09 (R181, R386). -/
def decodeMajor09 (w : BitVec 32) : Except Nat Instr :=
  .ok (.cltnk (w.extractLsb' 21 5) (w.extractLsb' 16 5) (w.extractLsb' 0 16))

/-- Control words of major 0x0A (R181, R386). -/
def decodeMajor0A (w : BitVec 32) : Except Nat Instr :=
  if w.extractLsb' 16 5 ≠ 0#5 then .error 3 else .ok (.hik (w.extractLsb' 21 5) (w.extractLsb' 0 16))

/-- Control words of major 0x0B (R182, R386). -/
def decodeMajor0B (w : BitVec 32) : Except Nat Instr :=
  if w.extractLsb' 11 5 ≠ 0#5 ∨ w.extractLsb' 6 2 ≠ 0#2 then .error 3 else
  match (w.extractLsb' 8 3).toNat with
  | 0 => .ok (.shlk (w.extractLsb' 21 5) (w.extractLsb' 16 5) (w.extractLsb' 0 6))
  | 1 => .ok (.shrk (w.extractLsb' 21 5) (w.extractLsb' 16 5) (w.extractLsb' 0 6))
  | 2 => .ok (.sark (w.extractLsb' 21 5) (w.extractLsb' 16 5) (w.extractLsb' 0 6))
  | 3 => .ok (.rotlk (w.extractLsb' 21 5) (w.extractLsb' 16 5) (w.extractLsb' 0 6))
  | _ => .error 4

/-- Control words of major 0x0C (R184, R386). -/
def decodeMajor0C (w : BitVec 32) : Except Nat Instr :=
  if w.extractLsb' 11 5 ≠ 0#5 then .error 3 else .ok (.cvt (w.extractLsb' 21 5) (w.extractLsb' 16 5) (w.extractLsb' 7 4) (w.extractLsb' 3 4) (w.extractLsb' 1 2) (w.extractLsb' 0 1))

/-- Control words of major 0x0D (R185, R386). -/
def decodeMajor0D (w : BitVec 32) : Except Nat Instr :=
  match (w.extractLsb' 6 5).toNat with
  | 0 => .ok (.fadd (w.extractLsb' 21 5) (w.extractLsb' 16 5) (w.extractLsb' 11 5) (w.extractLsb' 2 4) (w.extractLsb' 0 2))
  | 1 => .ok (.fsub (w.extractLsb' 21 5) (w.extractLsb' 16 5) (w.extractLsb' 11 5) (w.extractLsb' 2 4) (w.extractLsb' 0 2))
  | 2 => .ok (.fmul (w.extractLsb' 21 5) (w.extractLsb' 16 5) (w.extractLsb' 11 5) (w.extractLsb' 2 4) (w.extractLsb' 0 2))
  | 3 => .ok (.fdiv (w.extractLsb' 21 5) (w.extractLsb' 16 5) (w.extractLsb' 11 5) (w.extractLsb' 2 4) (w.extractLsb' 0 2))
  | 4 => .ok (.fmac (w.extractLsb' 21 5) (w.extractLsb' 16 5) (w.extractLsb' 11 5) (w.extractLsb' 2 4) (w.extractLsb' 0 2))
  | 5 => if w.extractLsb' 11 5 ≠ 0#5 then .error 3 else .ok (.fsqrt (w.extractLsb' 21 5) (w.extractLsb' 16 5) (w.extractLsb' 2 4) (w.extractLsb' 0 2))
  | 6 => if w.extractLsb' 0 2 ≠ 0#2 then .error 4 else .ok (.fmin (w.extractLsb' 21 5) (w.extractLsb' 16 5) (w.extractLsb' 11 5) (w.extractLsb' 2 4))
  | 7 => if w.extractLsb' 0 2 ≠ 0#2 then .error 4 else .ok (.fmax (w.extractLsb' 21 5) (w.extractLsb' 16 5) (w.extractLsb' 11 5) (w.extractLsb' 2 4))
  | 8 => if w.extractLsb' 11 5 ≠ 0#5 then .error 3 else if w.extractLsb' 0 2 ≠ 0#2 then .error 4 else .ok (.fabs (w.extractLsb' 21 5) (w.extractLsb' 16 5) (w.extractLsb' 2 4))
  | 9 => if w.extractLsb' 11 5 ≠ 0#5 then .error 3 else if w.extractLsb' 0 2 ≠ 0#2 then .error 4 else .ok (.fneg (w.extractLsb' 21 5) (w.extractLsb' 16 5) (w.extractLsb' 2 4))
  | 10 => if w.extractLsb' 0 2 ≠ 0#2 then .error 4 else .ok (.feq (w.extractLsb' 21 5) (w.extractLsb' 16 5) (w.extractLsb' 11 5) (w.extractLsb' 2 4))
  | 11 => if w.extractLsb' 0 2 ≠ 0#2 then .error 4 else .ok (.flt (w.extractLsb' 21 5) (w.extractLsb' 16 5) (w.extractLsb' 11 5) (w.extractLsb' 2 4))
  | 12 => if w.extractLsb' 0 2 ≠ 0#2 then .error 4 else .ok (.fle (w.extractLsb' 21 5) (w.extractLsb' 16 5) (w.extractLsb' 11 5) (w.extractLsb' 2 4))
  | _ => .error 2

/-- Control words of major 0x10 (R187, R386). -/
def decodeMajor10 (w : BitVec 32) : Except Nat Instr :=
  .ok (.bEq (w.extractLsb' 21 5) (w.extractLsb' 16 5) (w.extractLsb' 0 16))

/-- Control words of major 0x11 (R187, R386). -/
def decodeMajor11 (w : BitVec 32) : Except Nat Instr :=
  .ok (.bNe (w.extractLsb' 21 5) (w.extractLsb' 16 5) (w.extractLsb' 0 16))

/-- Control words of major 0x12 (R187, R386). -/
def decodeMajor12 (w : BitVec 32) : Except Nat Instr :=
  .ok (.bLt (w.extractLsb' 21 5) (w.extractLsb' 16 5) (w.extractLsb' 0 16))

/-- Control words of major 0x13 (R187, R386). -/
def decodeMajor13 (w : BitVec 32) : Except Nat Instr :=
  .ok (.bGe (w.extractLsb' 21 5) (w.extractLsb' 16 5) (w.extractLsb' 0 16))

/-- Control words of major 0x14 (R187, R386). -/
def decodeMajor14 (w : BitVec 32) : Except Nat Instr :=
  .ok (.bLtn (w.extractLsb' 21 5) (w.extractLsb' 16 5) (w.extractLsb' 0 16))

/-- Control words of major 0x15 (R187, R386). -/
def decodeMajor15 (w : BitVec 32) : Except Nat Instr :=
  .ok (.bGen (w.extractLsb' 21 5) (w.extractLsb' 16 5) (w.extractLsb' 0 16))

/-- Control words of major 0x16 (R188, R386). -/
def decodeMajor16 (w : BitVec 32) : Except Nat Instr :=
  .ok (.jmp (w.extractLsb' 0 26))

/-- Control words of major 0x17 (R188, R386). -/
def decodeMajor17 (w : BitVec 32) : Except Nat Instr :=
  .ok (.call (w.extractLsb' 0 26))

/-- Control words of major 0x18 (R189, R386). -/
def decodeMajor18 (w : BitVec 32) : Except Nat Instr :=
  match (w.extractLsb' 0 11).toNat with
  | 0 => if w.extractLsb' 11 5 ≠ 0#5 then .error 3 else .ok (.callr (w.extractLsb' 21 5) (w.extractLsb' 16 5))
  | 1 => if w.extractLsb' 21 5 ≠ 0#5 ∨ w.extractLsb' 11 5 ≠ 0#5 then .error 3 else .ok (.jmpr (w.extractLsb' 16 5))
  | _ => .error 2

/-- Control words of major 0x20 (R191, R386). -/
def decodeMajor20 (w : BitVec 32) : Except Nat Instr :=
  .ok (.ldV (w.extractLsb' 21 5) (w.extractLsb' 16 5) (w.extractLsb' 11 5) (w.extractLsb' 9 2) (w.extractLsb' 8 1) (w.extractLsb' 0 8))

/-- Control words of major 0x21 (R191, R386). -/
def decodeMajor21 (w : BitVec 32) : Except Nat Instr :=
  if w.extractLsb' 8 1 ≠ 0#1 then .error 4 else .ok (.stV (w.extractLsb' 21 5) (w.extractLsb' 16 5) (w.extractLsb' 11 5) (w.extractLsb' 9 2) (w.extractLsb' 0 8))

/-- Control words of major 0x22 (R191, R386). -/
def decodeMajor22 (w : BitVec 32) : Except Nat Instr :=
  .ok (.ldI (w.extractLsb' 21 5) (w.extractLsb' 16 5) (w.extractLsb' 11 5) (w.extractLsb' 9 2) (w.extractLsb' 8 1) (w.extractLsb' 0 8))

/-- Control words of major 0x23 (R191, R386). -/
def decodeMajor23 (w : BitVec 32) : Except Nat Instr :=
  if w.extractLsb' 8 1 ≠ 0#1 then .error 4 else .ok (.stI (w.extractLsb' 21 5) (w.extractLsb' 16 5) (w.extractLsb' 11 5) (w.extractLsb' 9 2) (w.extractLsb' 0 8))

/-- Control words of major 0x24 (R191, R386). -/
def decodeMajor24 (w : BitVec 32) : Except Nat Instr :=
  .ok (.ldW (w.extractLsb' 21 5) (w.extractLsb' 16 5) (w.extractLsb' 11 5) (w.extractLsb' 9 2) (w.extractLsb' 8 1) (w.extractLsb' 0 8))

/-- Control words of major 0x25 (R191, R386). -/
def decodeMajor25 (w : BitVec 32) : Except Nat Instr :=
  .ok (.ldA (w.extractLsb' 21 5) (w.extractLsb' 16 5) (w.extractLsb' 11 5) (w.extractLsb' 9 2) (w.extractLsb' 8 1) (w.extractLsb' 0 8))

/-- Control words of major 0x26 (R191, R386). -/
def decodeMajor26 (w : BitVec 32) : Except Nat Instr :=
  .ok (.ldC (w.extractLsb' 21 5) (w.extractLsb' 16 5) (w.extractLsb' 11 5) (w.extractLsb' 9 2) (w.extractLsb' 8 1) (w.extractLsb' 0 8))

/-- Control words of major 0x27 (R191, R386). -/
def decodeMajor27 (w : BitVec 32) : Except Nat Instr :=
  if w.extractLsb' 8 1 ≠ 0#1 then .error 4 else .ok (.stC (w.extractLsb' 21 5) (w.extractLsb' 16 5) (w.extractLsb' 11 5) (w.extractLsb' 9 2) (w.extractLsb' 0 8))

/-- Control words of major 0x28 (R195, R386). -/
def decodeMajor28 (w : BitVec 32) : Except Nat Instr :=
  if w.extractLsb' 17 4 ≠ 0#4 then .error 3 else .ok (.spld (w.extractLsb' 21 5) (w.extractLsb' 0 17))

/-- Control words of major 0x29 (R195, R386). -/
def decodeMajor29 (w : BitVec 32) : Except Nat Instr :=
  if w.extractLsb' 17 4 ≠ 0#4 then .error 3 else .ok (.spst (w.extractLsb' 21 5) (w.extractLsb' 0 17))

/-- Control words of major 0x30 (R213, R386). -/
def decodeMajor30 (w : BitVec 32) : Except Nat Instr :=
  match (w.extractLsb' 8 2).toNat with
  | 0 => .ok (.sbind (w.extractLsb' 20 6) (w.extractLsb' 15 5) (w.extractLsb' 10 5) (w.extractLsb' 7 1) (w.extractLsb' 4 3) (w.extractLsb' 0 4))
  | 1 => if w.extractLsb' 10 10 ≠ 0#10 ∨ w.extractLsb' 4 3 ≠ 0#3 then .error 3 else if w.extractLsb' 0 4 ≠ 0#4 then .error 4 else .ok (.swait (w.extractLsb' 20 6) (w.extractLsb' 7 1))
  | 2 => if w.extractLsb' 10 10 ≠ 0#10 ∨ w.extractLsb' 4 3 ≠ 0#3 then .error 3 else if w.extractLsb' 0 4 ≠ 0#4 then .error 4 else .ok (.sclear (w.extractLsb' 20 6) (w.extractLsb' 7 1))
  | _ => .error 2

/-- Control words of major 0x31 (R222, R386). -/
def decodeMajor31 (w : BitVec 32) : Except Nat Instr :=
  match (w.extractLsb' 8 2).toNat with
  | 0 => if w.extractLsb' 4 2 ≠ 0#2 then .error 4 else .ok (.copyIn (w.extractLsb' 20 6) (w.extractLsb' 15 5) (w.extractLsb' 10 5) (w.extractLsb' 6 2) (w.extractLsb' 0 4))
  | 1 => if w.extractLsb' 4 2 ≠ 0#2 ∨ w.extractLsb' 0 4 ≠ 0#4 then .error 4 else .ok (.copyOut (w.extractLsb' 20 6) (w.extractLsb' 15 5) (w.extractLsb' 10 5) (w.extractLsb' 6 2))
  | 2 => if w.extractLsb' 0 4 ≠ 0#4 then .error 4 else .ok (.copyBb (w.extractLsb' 20 6) (w.extractLsb' 15 5) (w.extractLsb' 10 5) (w.extractLsb' 6 2) (w.extractLsb' 4 2))
  | _ => match (w.extractLsb' 0 3).toNat with
    | 0 => if w.extractLsb' 10 10 ≠ 0#10 ∨ w.extractLsb' 3 5 ≠ 0#5 then .error 3 else .ok (.hwait (w.extractLsb' 20 6))
    | 1 => if w.extractLsb' 10 10 ≠ 0#10 ∨ w.extractLsb' 3 5 ≠ 0#5 then .error 3 else .ok (.hrel (w.extractLsb' 20 6))
    | 2 => if w.extractLsb' 3 5 ≠ 0#5 then .error 3 else .ok (.hstat (w.extractLsb' 20 6) (w.extractLsb' 15 5) (w.extractLsb' 10 5))
    | _ => .error 2

/-- Control words of major 0x32 (R229, R386). -/
def decodeMajor32 (w : BitVec 32) : Except Nat Instr :=
  match (w.extractLsb' 6 4).toNat with
  | 0 => .ok (.mma (w.extractLsb' 20 6) (w.extractLsb' 15 5) (w.extractLsb' 10 5) (w.extractLsb' 0 6))
  | 1 => .ok (.mmaz (w.extractLsb' 20 6) (w.extractLsb' 15 5) (w.extractLsb' 10 5) (w.extractLsb' 0 6))
  | 2 => .ok (.mdrain (w.extractLsb' 20 6) (w.extractLsb' 15 5) (w.extractLsb' 10 5) (w.extractLsb' 4 2) (w.extractLsb' 0 4))
  | 3 => if w.extractLsb' 10 5 ≠ 0#5 ∨ w.extractLsb' 0 6 ≠ 0#6 then .error 3 else .ok (.msatr (w.extractLsb' 20 6) (w.extractLsb' 15 5))
  | 4 => if w.extractLsb' 10 10 ≠ 0#10 ∨ w.extractLsb' 0 6 ≠ 0#6 then .error 3 else .ok (.mwait (w.extractLsb' 20 6))
  | _ => .error 2

/-- Control words of major 0x33 (R235, R386). -/
def decodeMajor33 (w : BitVec 32) : Except Nat Instr :=
  match (w.extractLsb' 2 8).toNat with
  | 1 => .ok (.vadd (w.extractLsb' 20 6) (w.extractLsb' 15 5) (w.extractLsb' 10 5) (w.extractLsb' 0 2))
  | 2 => .ok (.vsub (w.extractLsb' 20 6) (w.extractLsb' 15 5) (w.extractLsb' 10 5) (w.extractLsb' 0 2))
  | 3 => .ok (.vmul (w.extractLsb' 20 6) (w.extractLsb' 15 5) (w.extractLsb' 10 5) (w.extractLsb' 0 2))
  | 4 => .ok (.vmulh (w.extractLsb' 20 6) (w.extractLsb' 15 5) (w.extractLsb' 10 5) (w.extractLsb' 0 2))
  | 5 => .ok (.vmin (w.extractLsb' 20 6) (w.extractLsb' 15 5) (w.extractLsb' 10 5) (w.extractLsb' 0 2))
  | 6 => .ok (.vmax (w.extractLsb' 20 6) (w.extractLsb' 15 5) (w.extractLsb' 10 5) (w.extractLsb' 0 2))
  | 7 => if w.extractLsb' 0 2 ≠ 3#2 then .error 4 else .ok (.vabs (w.extractLsb' 20 6) (w.extractLsb' 15 5) (w.extractLsb' 10 5))
  | 8 => if w.extractLsb' 0 2 ≠ 3#2 then .error 4 else .ok (.vneg (w.extractLsb' 20 6) (w.extractLsb' 15 5) (w.extractLsb' 10 5))
  | 9 => .ok (.vavg (w.extractLsb' 20 6) (w.extractLsb' 15 5) (w.extractLsb' 10 5) (w.extractLsb' 0 2))
  | 10 => .ok (.vabsd (w.extractLsb' 20 6) (w.extractLsb' 15 5) (w.extractLsb' 10 5) (w.extractLsb' 0 2))
  | 11 => .ok (.vdiv (w.extractLsb' 20 6) (w.extractLsb' 15 5) (w.extractLsb' 10 5) (w.extractLsb' 0 2))
  | 12 => .ok (.vrem (w.extractLsb' 20 6) (w.extractLsb' 15 5) (w.extractLsb' 10 5) (w.extractLsb' 0 2))
  | 16 => .ok (.vand (w.extractLsb' 20 6) (w.extractLsb' 15 5) (w.extractLsb' 10 5) (w.extractLsb' 0 2))
  | 17 => .ok (.vor (w.extractLsb' 20 6) (w.extractLsb' 15 5) (w.extractLsb' 10 5) (w.extractLsb' 0 2))
  | 18 => .ok (.vxor (w.extractLsb' 20 6) (w.extractLsb' 15 5) (w.extractLsb' 10 5) (w.extractLsb' 0 2))
  | 19 => if w.extractLsb' 0 2 ≠ 3#2 then .error 4 else .ok (.vnot (w.extractLsb' 20 6) (w.extractLsb' 15 5) (w.extractLsb' 10 5))
  | 20 => .ok (.vshl (w.extractLsb' 20 6) (w.extractLsb' 15 5) (w.extractLsb' 10 5) (w.extractLsb' 0 2))
  | 21 => .ok (.vshr (w.extractLsb' 20 6) (w.extractLsb' 15 5) (w.extractLsb' 10 5) (w.extractLsb' 0 2))
  | 22 => .ok (.vsra (w.extractLsb' 20 6) (w.extractLsb' 15 5) (w.extractLsb' 10 5) (w.extractLsb' 0 2))
  | 23 => .ok (.vrotl (w.extractLsb' 20 6) (w.extractLsb' 15 5) (w.extractLsb' 10 5) (w.extractLsb' 0 2))
  | 24 => if w.extractLsb' 0 2 ≠ 3#2 then .error 4 else .ok (.vclz (w.extractLsb' 20 6) (w.extractLsb' 15 5) (w.extractLsb' 10 5))
  | 25 => if w.extractLsb' 0 2 ≠ 3#2 then .error 4 else .ok (.vctz (w.extractLsb' 20 6) (w.extractLsb' 15 5) (w.extractLsb' 10 5))
  | 26 => if w.extractLsb' 0 2 ≠ 3#2 then .error 4 else .ok (.vpopc (w.extractLsb' 20 6) (w.extractLsb' 15 5) (w.extractLsb' 10 5))
  | 27 => if w.extractLsb' 0 2 ≠ 3#2 then .error 4 else .ok (.vbrev (w.extractLsb' 20 6) (w.extractLsb' 15 5) (w.extractLsb' 10 5))
  | 32 => .ok (.vceq (w.extractLsb' 20 6) (w.extractLsb' 15 5) (w.extractLsb' 10 5) (w.extractLsb' 0 2))
  | 33 => .ok (.vcne (w.extractLsb' 20 6) (w.extractLsb' 15 5) (w.extractLsb' 10 5) (w.extractLsb' 0 2))
  | 34 => .ok (.vclt (w.extractLsb' 20 6) (w.extractLsb' 15 5) (w.extractLsb' 10 5) (w.extractLsb' 0 2))
  | 35 => .ok (.vcle (w.extractLsb' 20 6) (w.extractLsb' 15 5) (w.extractLsb' 10 5) (w.extractLsb' 0 2))
  | 36 => .ok (.vcgt (w.extractLsb' 20 6) (w.extractLsb' 15 5) (w.extractLsb' 10 5) (w.extractLsb' 0 2))
  | 37 => .ok (.vcge (w.extractLsb' 20 6) (w.extractLsb' 15 5) (w.extractLsb' 10 5) (w.extractLsb' 0 2))
  | 38 => if w.extractLsb' 0 2 ≠ 3#2 then .error 4 else .ok (.vcnan (w.extractLsb' 20 6) (w.extractLsb' 15 5) (w.extractLsb' 10 5))
  | 39 => if w.extractLsb' 0 2 ≠ 3#2 then .error 4 else .ok (.vmov (w.extractLsb' 20 6) (w.extractLsb' 15 5) (w.extractLsb' 10 5))
  | 48 => .ok (.vfadd (w.extractLsb' 20 6) (w.extractLsb' 15 5) (w.extractLsb' 10 5) (w.extractLsb' 0 2))
  | 49 => .ok (.vfsub (w.extractLsb' 20 6) (w.extractLsb' 15 5) (w.extractLsb' 10 5) (w.extractLsb' 0 2))
  | 50 => .ok (.vfmul (w.extractLsb' 20 6) (w.extractLsb' 15 5) (w.extractLsb' 10 5) (w.extractLsb' 0 2))
  | 51 => .ok (.vfdiv (w.extractLsb' 20 6) (w.extractLsb' 15 5) (w.extractLsb' 10 5) (w.extractLsb' 0 2))
  | 52 => .ok (.vfmin (w.extractLsb' 20 6) (w.extractLsb' 15 5) (w.extractLsb' 10 5) (w.extractLsb' 0 2))
  | 53 => .ok (.vfmax (w.extractLsb' 20 6) (w.extractLsb' 15 5) (w.extractLsb' 10 5) (w.extractLsb' 0 2))
  | 54 => if w.extractLsb' 0 2 ≠ 3#2 then .error 4 else .ok (.vfabs (w.extractLsb' 20 6) (w.extractLsb' 15 5) (w.extractLsb' 10 5))
  | 55 => if w.extractLsb' 0 2 ≠ 3#2 then .error 4 else .ok (.vfneg (w.extractLsb' 20 6) (w.extractLsb' 15 5) (w.extractLsb' 10 5))
  | 56 => if w.extractLsb' 0 2 ≠ 3#2 then .error 4 else .ok (.vfsqrt (w.extractLsb' 20 6) (w.extractLsb' 15 5) (w.extractLsb' 10 5))
  | 57 => if w.extractLsb' 0 2 ≠ 3#2 then .error 4 else .ok (.vfrcp (w.extractLsb' 20 6) (w.extractLsb' 15 5) (w.extractLsb' 10 5))
  | 58 => if w.extractLsb' 0 2 ≠ 3#2 then .error 4 else .ok (.vfrsqrt (w.extractLsb' 20 6) (w.extractLsb' 15 5) (w.extractLsb' 10 5))
  | 59 => .ok (.vfscale (w.extractLsb' 20 6) (w.extractLsb' 15 5) (w.extractLsb' 10 5) (w.extractLsb' 0 2))
  | 64 => if w.extractLsb' 0 2 ≠ 3#2 then .error 4 else .ok (.vfexp2 (w.extractLsb' 20 6) (w.extractLsb' 15 5) (w.extractLsb' 10 5))
  | 65 => if w.extractLsb' 0 2 ≠ 3#2 then .error 4 else .ok (.vflog2 (w.extractLsb' 20 6) (w.extractLsb' 15 5) (w.extractLsb' 10 5))
  | 66 => if w.extractLsb' 0 2 ≠ 3#2 then .error 4 else .ok (.vftanh (w.extractLsb' 20 6) (w.extractLsb' 15 5) (w.extractLsb' 10 5))
  | 67 => if w.extractLsb' 0 2 ≠ 3#2 then .error 4 else .ok (.vfsigm (w.extractLsb' 20 6) (w.extractLsb' 15 5) (w.extractLsb' 10 5))
  | 68 => if w.extractLsb' 0 2 ≠ 3#2 then .error 4 else .ok (.vfgelu (w.extractLsb' 20 6) (w.extractLsb' 15 5) (w.extractLsb' 10 5))
  | 69 => if w.extractLsb' 0 2 ≠ 3#2 then .error 4 else .ok (.vfsilu (w.extractLsb' 20 6) (w.extractLsb' 15 5) (w.extractLsb' 10 5))
  | 70 => if w.extractLsb' 0 2 ≠ 3#2 then .error 4 else .ok (.vferf (w.extractLsb' 20 6) (w.extractLsb' 15 5) (w.extractLsb' 10 5))
  | 71 => if w.extractLsb' 0 2 ≠ 3#2 then .error 4 else .ok (.vfsoftp (w.extractLsb' 20 6) (w.extractLsb' 15 5) (w.extractLsb' 10 5))
  | 192 => if w.extractLsb' 0 2 ≠ 3#2 then .error 4 else .ok (.vcvt (w.extractLsb' 20 6) (w.extractLsb' 15 5) (w.extractLsb' 10 5))
  | 193 => if w.extractLsb' 0 2 ≠ 3#2 then .error 4 else .ok (.vsum (w.extractLsb' 20 6) (w.extractLsb' 15 5) (w.extractLsb' 10 5))
  | 194 => if w.extractLsb' 0 2 ≠ 3#2 then .error 4 else .ok (.vmaxr (w.extractLsb' 20 6) (w.extractLsb' 15 5) (w.extractLsb' 10 5))
  | 195 => if w.extractLsb' 0 2 ≠ 3#2 then .error 4 else .ok (.vamaxr (w.extractLsb' 20 6) (w.extractLsb' 15 5) (w.extractLsb' 10 5))
  | _ => .error 4

/-- Control words of major 0x34 (R238, R386). -/
def decodeMajor34 (w : BitVec 32) : Except Nat Instr :=
  match (w.extractLsb' 8 2).toNat with
  | 0 => if w.extractLsb' 20 6 ≠ 0#6 ∨ w.extractLsb' 1 7 ≠ 0#7 then .error 3 else .ok (.topk (w.extractLsb' 15 5) (w.extractLsb' 10 5) (w.extractLsb' 0 1))
  | 1 => if w.extractLsb' 20 6 ≠ 0#6 ∨ w.extractLsb' 1 7 ≠ 0#7 then .error 3 else if w.extractLsb' 0 1 ≠ 0#1 then .error 4 else .ok (.predrows (w.extractLsb' 15 5) (w.extractLsb' 10 5))
  | 2 => if w.extractLsb' 20 6 ≠ 0#6 ∨ w.extractLsb' 1 7 ≠ 0#7 then .error 3 else if w.extractLsb' 0 1 ≠ 0#1 then .error 4 else .ok (.prcheck (w.extractLsb' 15 5) (w.extractLsb' 10 5))
  | _ => .error 2

/-- Control words of major 0x35 (R244, R386). -/
def decodeMajor35 (w : BitVec 32) : Except Nat Instr :=
  match (w.extractLsb' 8 2).toNat with
  | 0 => if w.extractLsb' 20 6 ≠ 0#6 ∨ w.extractLsb' 4 3 ≠ 0#3 then .error 3 else .ok (.gath (w.extractLsb' 15 5) (w.extractLsb' 10 5) (w.extractLsb' 7 1) (w.extractLsb' 0 4))
  | 1 => if w.extractLsb' 20 6 ≠ 0#6 ∨ w.extractLsb' 4 3 ≠ 0#3 then .error 3 else if w.extractLsb' 7 1 ≠ 0#1 ∨ w.extractLsb' 0 4 ≠ 0#4 then .error 4 else .ok (.scat (w.extractLsb' 15 5) (w.extractLsb' 10 5))
  | _ => .error 2

/-- Control words of major 0x36 (R247, R386). -/
def decodeMajor36 (w : BitVec 32) : Except Nat Instr :=
  match (w.extractLsb' 0 10).toNat with
  | 0 => if w.extractLsb' 20 6 ≠ 0#6 ∨ w.extractLsb' 10 5 ≠ 0#5 then .error 3 else .ok (.glaunch (w.extractLsb' 15 5))
  | 1 => if w.extractLsb' 20 6 ≠ 0#6 then .error 3 else .ok (.sarm (w.extractLsb' 15 5) (w.extractLsb' 10 5))
  | 2 => if w.extractLsb' 20 6 ≠ 0#6 then .error 3 else .ok (.fwait (w.extractLsb' 15 5) (w.extractLsb' 10 5))
  | _ => .error 2

/-- Control words of major 0x38 (R253, R386). -/
def decodeMajor38 (w : BitVec 32) : Except Nat Instr :=
  match (w.extractLsb' 8 3).toNat with
  | 0 => if w.extractLsb' 11 5 ≠ 0#5 ∨ w.extractLsb' 5 1 ≠ 0#1 then .error 3 else .ok (.ldwF (w.extractLsb' 21 5) (w.extractLsb' 16 5) (w.extractLsb' 6 2) (w.extractLsb' 0 5))
  | 1 => if w.extractLsb' 11 5 ≠ 0#5 ∨ w.extractLsb' 5 1 ≠ 0#1 then .error 3 else .ok (.stwE (w.extractLsb' 21 5) (w.extractLsb' 16 5) (w.extractLsb' 6 2) (w.extractLsb' 0 5))
  | 2 => if w.extractLsb' 11 5 ≠ 0#5 ∨ w.extractLsb' 5 1 ≠ 0#1 then .error 3 else .ok (.ldwFt (w.extractLsb' 21 5) (w.extractLsb' 16 5) (w.extractLsb' 6 2) (w.extractLsb' 0 5))
  | 3 => if w.extractLsb' 5 1 ≠ 0#1 then .error 3 else .ok (.stwEt (w.extractLsb' 21 5) (w.extractLsb' 16 5) (w.extractLsb' 11 5) (w.extractLsb' 6 2) (w.extractLsb' 0 5))
  | 4 => if w.extractLsb' 11 5 ≠ 0#5 ∨ w.extractLsb' 5 1 ≠ 0#1 then .error 3 else .ok (.ldwFk (w.extractLsb' 21 5) (w.extractLsb' 16 5) (w.extractLsb' 6 2) (w.extractLsb' 0 5))
  | 5 => if w.extractLsb' 11 5 ≠ 0#5 ∨ w.extractLsb' 5 1 ≠ 0#1 then .error 3 else .ok (.ldwQ (w.extractLsb' 21 5) (w.extractLsb' 16 5) (w.extractLsb' 6 2) (w.extractLsb' 0 5))
  | 6 => if w.extractLsb' 21 5 ≠ 0#5 ∨ w.extractLsb' 11 5 ≠ 0#5 ∨ w.extractLsb' 5 1 ≠ 0#1 then .error 3 else .ok (.fclr (w.extractLsb' 16 5) (w.extractLsb' 6 2) (w.extractLsb' 0 5))
  | _ => .error 2

/-- Control words of major 0x39 (R257, R386). -/
def decodeMajor39 (w : BitVec 32) : Except Nat Instr :=
  match (w.extractLsb' 6 5).toNat with
  | 0 => if w.extractLsb' 0 2 ≠ 0#2 then .error 3 else .ok (.amoSwap (w.extractLsb' 21 5) (w.extractLsb' 16 5) (w.extractLsb' 11 5) (w.extractLsb' 4 2) (w.extractLsb' 3 1) (w.extractLsb' 2 1))
  | 1 => if w.extractLsb' 0 2 ≠ 0#2 then .error 3 else .ok (.amoAdd (w.extractLsb' 21 5) (w.extractLsb' 16 5) (w.extractLsb' 11 5) (w.extractLsb' 4 2) (w.extractLsb' 3 1) (w.extractLsb' 2 1))
  | 2 => if w.extractLsb' 0 2 ≠ 0#2 then .error 3 else .ok (.amoAnd (w.extractLsb' 21 5) (w.extractLsb' 16 5) (w.extractLsb' 11 5) (w.extractLsb' 4 2) (w.extractLsb' 3 1) (w.extractLsb' 2 1))
  | 3 => if w.extractLsb' 0 2 ≠ 0#2 then .error 3 else .ok (.amoOr (w.extractLsb' 21 5) (w.extractLsb' 16 5) (w.extractLsb' 11 5) (w.extractLsb' 4 2) (w.extractLsb' 3 1) (w.extractLsb' 2 1))
  | 4 => if w.extractLsb' 0 2 ≠ 0#2 then .error 3 else .ok (.amoXor (w.extractLsb' 21 5) (w.extractLsb' 16 5) (w.extractLsb' 11 5) (w.extractLsb' 4 2) (w.extractLsb' 3 1) (w.extractLsb' 2 1))
  | 5 => if w.extractLsb' 0 2 ≠ 0#2 then .error 3 else .ok (.amoMin (w.extractLsb' 21 5) (w.extractLsb' 16 5) (w.extractLsb' 11 5) (w.extractLsb' 4 2) (w.extractLsb' 3 1) (w.extractLsb' 2 1))
  | 6 => if w.extractLsb' 0 2 ≠ 0#2 then .error 3 else .ok (.amoMax (w.extractLsb' 21 5) (w.extractLsb' 16 5) (w.extractLsb' 11 5) (w.extractLsb' 4 2) (w.extractLsb' 3 1) (w.extractLsb' 2 1))
  | 7 => if w.extractLsb' 0 2 ≠ 0#2 then .error 3 else .ok (.amoMinu (w.extractLsb' 21 5) (w.extractLsb' 16 5) (w.extractLsb' 11 5) (w.extractLsb' 4 2) (w.extractLsb' 3 1) (w.extractLsb' 2 1))
  | 8 => if w.extractLsb' 0 2 ≠ 0#2 then .error 3 else .ok (.amoMaxu (w.extractLsb' 21 5) (w.extractLsb' 16 5) (w.extractLsb' 11 5) (w.extractLsb' 4 2) (w.extractLsb' 3 1) (w.extractLsb' 2 1))
  | 9 => if w.extractLsb' 0 2 ≠ 0#2 then .error 3 else .ok (.amoCas (w.extractLsb' 21 5) (w.extractLsb' 16 5) (w.extractLsb' 11 5) (w.extractLsb' 4 2) (w.extractLsb' 3 1) (w.extractLsb' 2 1))
  | 10 => if w.extractLsb' 0 2 ≠ 0#2 then .error 3 else if w.extractLsb' 2 1 ≠ 0#1 then .error 4 else .ok (.amoFmax (w.extractLsb' 21 5) (w.extractLsb' 16 5) (w.extractLsb' 11 5) (w.extractLsb' 4 2) (w.extractLsb' 3 1))
  | 11 => if w.extractLsb' 11 5 ≠ 0#5 ∨ w.extractLsb' 0 2 ≠ 0#2 then .error 3 else if w.extractLsb' 2 1 ≠ 0#1 then .error 4 else .ok (.amaxrr (w.extractLsb' 21 5) (w.extractLsb' 16 5) (w.extractLsb' 4 2) (w.extractLsb' 3 1))
  | _ => .error 2

/-- Control words of major 0x3A (R260, R386). -/
def decodeMajor3A (w : BitVec 32) : Except Nat Instr :=
  match (w.extractLsb' 6 5).toNat with
  | 0 => if w.extractLsb' 2 4 ≠ 0#4 ∨ w.extractLsb' 0 2 ≠ 0#2 then .error 4 else .ok (.tkt (w.extractLsb' 21 5) (w.extractLsb' 16 5) (w.extractLsb' 11 5))
  | 1 => if w.extractLsb' 21 5 ≠ 0#5 then .error 3 else if w.extractLsb' 2 4 ≠ 0#4 ∨ w.extractLsb' 0 2 ≠ 0#2 then .error 4 else .ok (.tkset (w.extractLsb' 16 5) (w.extractLsb' 11 5))
  | 2 => if w.extractLsb' 21 5 ≠ 0#5 then .error 3 else if w.extractLsb' 2 4 ≠ 0#4 ∨ w.extractLsb' 0 2 ≠ 0#2 then .error 4 else .ok (.redinit (w.extractLsb' 16 5) (w.extractLsb' 11 5))
  | 3 => if w.extractLsb' 2 4 ≠ 0#4 ∨ w.extractLsb' 0 2 ≠ 0#2 then .error 4 else .ok (.redFadd (w.extractLsb' 21 5) (w.extractLsb' 16 5) (w.extractLsb' 11 5))
  | 4 => if w.extractLsb' 11 5 ≠ 0#5 then .error 3 else if w.extractLsb' 2 4 ≠ 0#4 ∨ w.extractLsb' 0 2 ≠ 0#2 then .error 4 else .ok (.redrd (w.extractLsb' 21 5) (w.extractLsb' 16 5))
  | 5 => if w.extractLsb' 21 5 ≠ 0#5 then .error 3 else if w.extractLsb' 0 2 ≠ 0#2 then .error 4 else .ok (.redLadd (w.extractLsb' 16 5) (w.extractLsb' 11 5) (w.extractLsb' 2 4))
  | 6 => if w.extractLsb' 21 5 ≠ 0#5 then .error 3 else if w.extractLsb' 2 4 ≠ 0#4 ∨ w.extractLsb' 0 2 ≠ 0#2 then .error 4 else .ok (.redLclr (w.extractLsb' 16 5) (w.extractLsb' 11 5))
  | 7 => .ok (.redLdrain (w.extractLsb' 21 5) (w.extractLsb' 16 5) (w.extractLsb' 11 5) (w.extractLsb' 2 4) (w.extractLsb' 0 2))
  | _ => .error 2

/-- Control words of major 0x3B (R264, R386). -/
def decodeMajor3B (w : BitVec 32) : Except Nat Instr :=
  match (w.extractLsb' 6 5).toNat with
  | 0 => if w.extractLsb' 11 5 ≠ 0#5 ∨ w.extractLsb' 0 6 ≠ 0#6 then .error 3 else .ok (.sjoin (w.extractLsb' 21 5) (w.extractLsb' 16 5))
  | 1 => if w.extractLsb' 11 5 ≠ 0#5 ∨ w.extractLsb' 0 6 ≠ 0#6 then .error 3 else .ok (.sleave (w.extractLsb' 21 5) (w.extractLsb' 16 5))
  | 2 => if w.extractLsb' 11 5 ≠ 0#5 ∨ w.extractLsb' 0 6 ≠ 0#6 then .error 3 else .ok (.barw (w.extractLsb' 21 5) (w.extractLsb' 16 5))
  | 3 => if w.extractLsb' 11 5 ≠ 0#5 ∨ w.extractLsb' 0 6 ≠ 0#6 then .error 3 else .ok (.bara (w.extractLsb' 21 5) (w.extractLsb' 16 5))
  | 4 => if w.extractLsb' 0 6 ≠ 0#6 then .error 3 else .ok (.barwp (w.extractLsb' 21 5) (w.extractLsb' 16 5) (w.extractLsb' 11 5))
  | 5 => if w.extractLsb' 11 5 ≠ 0#5 ∨ w.extractLsb' 0 6 ≠ 0#6 then .error 3 else .ok (.binit (w.extractLsb' 21 5) (w.extractLsb' 16 5))
  | 6 => if w.extractLsb' 11 5 ≠ 0#5 ∨ w.extractLsb' 0 6 ≠ 0#6 then .error 3 else .ok (.sstat (w.extractLsb' 21 5) (w.extractLsb' 16 5))
  | _ => .error 2

/-- Control words of major 0x3C (R276, R386). -/
def decodeMajor3C (w : BitVec 32) : Except Nat Instr :=
  match (w.extractLsb' 6 5).toNat with
  | 0 => if w.extractLsb' 11 5 ≠ 0#5 ∨ w.extractLsb' 0 3 ≠ 0#3 then .error 3 else .ok (.lkacq (w.extractLsb' 21 5) (w.extractLsb' 16 5) (w.extractLsb' 3 3))
  | 1 => if w.extractLsb' 11 5 ≠ 0#5 ∨ w.extractLsb' 0 3 ≠ 0#3 then .error 3 else .ok (.lktry (w.extractLsb' 21 5) (w.extractLsb' 16 5) (w.extractLsb' 3 3))
  | 2 => if w.extractLsb' 11 5 ≠ 0#5 ∨ w.extractLsb' 0 3 ≠ 0#3 then .error 3 else if w.extractLsb' 3 3 ≠ 0#3 then .error 4 else .ok (.lkrel (w.extractLsb' 21 5) (w.extractLsb' 16 5))
  | 3 => if w.extractLsb' 11 10 ≠ 0#10 ∨ w.extractLsb' 0 3 ≠ 0#3 then .error 3 else if w.extractLsb' 3 3 ≠ 0#3 then .error 4 else .ok (.lkrelall (w.extractLsb' 21 5))
  | 4 => if w.extractLsb' 11 5 ≠ 0#5 ∨ w.extractLsb' 0 3 ≠ 0#3 then .error 3 else if w.extractLsb' 3 3 ≠ 0#3 then .error 4 else .ok (.lkreg (w.extractLsb' 21 5) (w.extractLsb' 16 5))
  | 5 => if w.extractLsb' 11 5 ≠ 0#5 ∨ w.extractLsb' 0 3 ≠ 0#3 then .error 3 else if w.extractLsb' 3 3 ≠ 0#3 then .error 4 else .ok (.lkunreg (w.extractLsb' 21 5) (w.extractLsb' 16 5))
  | 6 => if w.extractLsb' 11 10 ≠ 0#10 ∨ w.extractLsb' 0 3 ≠ 0#3 then .error 3 else if w.extractLsb' 3 3 ≠ 0#3 then .error 4 else .ok (.lkmat (w.extractLsb' 21 5))
  | _ => .error 2

/-- Control words of major 0x3D (R147, R386). -/
def decodeMajor3D (w : BitVec 32) : Except Nat Instr :=
  if w.extractLsb' 11 15 ≠ 0#15 ∨ w.extractLsb' 0 2 ≠ 0#2 then .error 3 else .ok (.fence (w.extractLsb' 8 3) (w.extractLsb' 5 3) (w.extractLsb' 2 3))

/-- Control words of major 0x3F (R201, R386). -/
def decodeMajor3F (w : BitVec 32) : Except Nat Instr :=
  match (w.extractLsb' 0 11).toNat with
  | 1 => .ok (.crd (w.extractLsb' 16 10) (w.extractLsb' 11 5))
  | 2 => .ok (.cwr (w.extractLsb' 16 10) (w.extractLsb' 11 5))
  | 3 => .ok (.cset (w.extractLsb' 16 10) (w.extractLsb' 11 5))
  | 4 => .ok (.cclr (w.extractLsb' 16 10) (w.extractLsb' 11 5))
  | 16 => if w.extractLsb' 16 10 ≠ 0#10 then .error 3 else .ok (.sleep (w.extractLsb' 11 5))
  | 17 => if w.extractLsb' 11 15 ≠ 0#15 then .error 3 else .ok .yield
  | 18 => if w.extractLsb' 11 15 ≠ 0#15 then .error 3 else .ok .exit
  | 19 => if w.extractLsb' 11 15 ≠ 0#15 then .error 3 else .ok .tret
  | 32 => if w.extractLsb' 16 10 ≠ 0#10 then .error 3 else .ok (.xinv (w.extractLsb' 11 5))
  | 48 => if w.extractLsb' 11 5 ≠ 0#5 then .error 3 else .ok (.brk (w.extractLsb' 16 10))
  | _ => .error 2

/-- A control word as R385 reads it: an instruction, or the reason of the `ILLEGAL` it raises (R386). -/
def decodeControl (w : BitVec 32) : Except Nat Instr :=
  match (w.extractLsb' 26 6).toNat with
  | 1 => decodeMajor01 w
  | 2 => decodeMajor02 w
  | 3 => decodeMajor03 w
  | 4 => decodeMajor04 w
  | 5 => decodeMajor05 w
  | 6 => decodeMajor06 w
  | 7 => decodeMajor07 w
  | 8 => decodeMajor08 w
  | 9 => decodeMajor09 w
  | 10 => decodeMajor0A w
  | 11 => decodeMajor0B w
  | 12 => decodeMajor0C w
  | 13 => decodeMajor0D w
  | 16 => decodeMajor10 w
  | 17 => decodeMajor11 w
  | 18 => decodeMajor12 w
  | 19 => decodeMajor13 w
  | 20 => decodeMajor14 w
  | 21 => decodeMajor15 w
  | 22 => decodeMajor16 w
  | 23 => decodeMajor17 w
  | 24 => decodeMajor18 w
  | 32 => decodeMajor20 w
  | 33 => decodeMajor21 w
  | 34 => decodeMajor22 w
  | 35 => decodeMajor23 w
  | 36 => decodeMajor24 w
  | 37 => decodeMajor25 w
  | 38 => decodeMajor26 w
  | 39 => decodeMajor27 w
  | 40 => decodeMajor28 w
  | 41 => decodeMajor29 w
  | 48 => decodeMajor30 w
  | 49 => decodeMajor31 w
  | 50 => decodeMajor32 w
  | 51 => decodeMajor33 w
  | 52 => decodeMajor34 w
  | 53 => decodeMajor35 w
  | 54 => decodeMajor36 w
  | 56 => decodeMajor38 w
  | 57 => decodeMajor39 w
  | 58 => decodeMajor3A w
  | 59 => decodeMajor3B w
  | 60 => decodeMajor3C w
  | 61 => decodeMajor3D w
  | 63 => decodeMajor3F w
  | _ => .error 1

/-- An element operation word (R165, R166). `none` for any other word. -/
noncomputable def decodeElemWord (w : BitVec 32) : Option Instr :=
  match (w.extractLsb' 24 8).toNat with
  | 1 => if w.extractLsb' 12 2 ≠ 0#2 then none else some (.elemAdd (w.extractLsb' 21 3) (w.extractLsb' 18 3) (w.extractLsb' 14 4) (w.extractLsb' 11 1) (w.extractLsb' 10 1) (w.extractLsb' 0 10))
  | 2 => if w.extractLsb' 12 2 ≠ 0#2 then none else some (.elemSub (w.extractLsb' 21 3) (w.extractLsb' 18 3) (w.extractLsb' 14 4) (w.extractLsb' 11 1) (w.extractLsb' 10 1) (w.extractLsb' 0 10))
  | 3 => if w.extractLsb' 12 2 ≠ 0#2 then none else some (.elemMul (w.extractLsb' 21 3) (w.extractLsb' 18 3) (w.extractLsb' 14 4) (w.extractLsb' 11 1) (w.extractLsb' 10 1) (w.extractLsb' 0 10))
  | 4 => if w.extractLsb' 11 3 ≠ 0#3 then none else some (.elemMulh (w.extractLsb' 21 3) (w.extractLsb' 18 3) (w.extractLsb' 14 4) (w.extractLsb' 10 1) (w.extractLsb' 0 10))
  | 5 => if w.extractLsb' 11 3 ≠ 0#3 then none else some (.elemMin (w.extractLsb' 21 3) (w.extractLsb' 18 3) (w.extractLsb' 14 4) (w.extractLsb' 10 1) (w.extractLsb' 0 10))
  | 6 => if w.extractLsb' 11 3 ≠ 0#3 then none else some (.elemMax (w.extractLsb' 21 3) (w.extractLsb' 18 3) (w.extractLsb' 14 4) (w.extractLsb' 10 1) (w.extractLsb' 0 10))
  | 7 => if w.extractLsb' 18 3 ≠ 0#3 ∨ w.extractLsb' 12 2 ≠ 0#2 then none else some (.elemAbs (w.extractLsb' 21 3) (w.extractLsb' 14 4) (w.extractLsb' 11 1) (w.extractLsb' 10 1) (w.extractLsb' 0 10))
  | 8 => if w.extractLsb' 18 3 ≠ 0#3 ∨ w.extractLsb' 12 2 ≠ 0#2 then none else some (.elemNeg (w.extractLsb' 21 3) (w.extractLsb' 14 4) (w.extractLsb' 11 1) (w.extractLsb' 10 1) (w.extractLsb' 0 10))
  | 9 => if w.extractLsb' 11 1 ≠ 0#1 then none else some (.elemAvg (w.extractLsb' 21 3) (w.extractLsb' 18 3) (w.extractLsb' 14 4) (w.extractLsb' 12 2) (w.extractLsb' 10 1) (w.extractLsb' 0 10))
  | 10 => if w.extractLsb' 12 2 ≠ 0#2 then none else some (.elemAbsd (w.extractLsb' 21 3) (w.extractLsb' 18 3) (w.extractLsb' 14 4) (w.extractLsb' 11 1) (w.extractLsb' 10 1) (w.extractLsb' 0 10))
  | 11 => if w.extractLsb' 12 2 ≠ 0#2 then none else some (.elemDiv (w.extractLsb' 21 3) (w.extractLsb' 18 3) (w.extractLsb' 14 4) (w.extractLsb' 11 1) (w.extractLsb' 10 1) (w.extractLsb' 0 10))
  | 12 => if w.extractLsb' 11 3 ≠ 0#3 then none else some (.elemRem (w.extractLsb' 21 3) (w.extractLsb' 18 3) (w.extractLsb' 14 4) (w.extractLsb' 10 1) (w.extractLsb' 0 10))
  | 16 => if w.extractLsb' 11 3 ≠ 0#3 then none else some (.elemAnd (w.extractLsb' 21 3) (w.extractLsb' 18 3) (w.extractLsb' 14 4) (w.extractLsb' 10 1) (w.extractLsb' 0 10))
  | 17 => if w.extractLsb' 11 3 ≠ 0#3 then none else some (.elemOr (w.extractLsb' 21 3) (w.extractLsb' 18 3) (w.extractLsb' 14 4) (w.extractLsb' 10 1) (w.extractLsb' 0 10))
  | 18 => if w.extractLsb' 11 3 ≠ 0#3 then none else some (.elemXor (w.extractLsb' 21 3) (w.extractLsb' 18 3) (w.extractLsb' 14 4) (w.extractLsb' 10 1) (w.extractLsb' 0 10))
  | 19 => if w.extractLsb' 18 3 ≠ 0#3 ∨ w.extractLsb' 11 3 ≠ 0#3 then none else some (.elemNot (w.extractLsb' 21 3) (w.extractLsb' 14 4) (w.extractLsb' 10 1) (w.extractLsb' 0 10))
  | 20 => if w.extractLsb' 11 3 ≠ 0#3 then none else some (.elemShl (w.extractLsb' 21 3) (w.extractLsb' 18 3) (w.extractLsb' 14 4) (w.extractLsb' 10 1) (w.extractLsb' 0 10))
  | 21 => if w.extractLsb' 11 3 ≠ 0#3 then none else some (.elemShr (w.extractLsb' 21 3) (w.extractLsb' 18 3) (w.extractLsb' 14 4) (w.extractLsb' 10 1) (w.extractLsb' 0 10))
  | 22 => if w.extractLsb' 11 3 ≠ 0#3 then none else some (.elemSra (w.extractLsb' 21 3) (w.extractLsb' 18 3) (w.extractLsb' 14 4) (w.extractLsb' 10 1) (w.extractLsb' 0 10))
  | 23 => if w.extractLsb' 11 3 ≠ 0#3 then none else some (.elemRotl (w.extractLsb' 21 3) (w.extractLsb' 18 3) (w.extractLsb' 14 4) (w.extractLsb' 10 1) (w.extractLsb' 0 10))
  | 24 => if w.extractLsb' 18 3 ≠ 0#3 ∨ w.extractLsb' 11 3 ≠ 0#3 then none else some (.elemClz (w.extractLsb' 21 3) (w.extractLsb' 14 4) (w.extractLsb' 10 1) (w.extractLsb' 0 10))
  | 25 => if w.extractLsb' 18 3 ≠ 0#3 ∨ w.extractLsb' 11 3 ≠ 0#3 then none else some (.elemCtz (w.extractLsb' 21 3) (w.extractLsb' 14 4) (w.extractLsb' 10 1) (w.extractLsb' 0 10))
  | 26 => if w.extractLsb' 18 3 ≠ 0#3 ∨ w.extractLsb' 11 3 ≠ 0#3 then none else some (.elemPopc (w.extractLsb' 21 3) (w.extractLsb' 14 4) (w.extractLsb' 10 1) (w.extractLsb' 0 10))
  | 27 => if w.extractLsb' 18 3 ≠ 0#3 ∨ w.extractLsb' 11 3 ≠ 0#3 then none else some (.elemBrev (w.extractLsb' 21 3) (w.extractLsb' 14 4) (w.extractLsb' 10 1) (w.extractLsb' 0 10))
  | 32 => if w.extractLsb' 11 3 ≠ 0#3 then none else some (.elemCeq (w.extractLsb' 21 3) (w.extractLsb' 18 3) (w.extractLsb' 14 4) (w.extractLsb' 10 1) (w.extractLsb' 0 10))
  | 33 => if w.extractLsb' 11 3 ≠ 0#3 then none else some (.elemCne (w.extractLsb' 21 3) (w.extractLsb' 18 3) (w.extractLsb' 14 4) (w.extractLsb' 10 1) (w.extractLsb' 0 10))
  | 34 => if w.extractLsb' 11 3 ≠ 0#3 then none else some (.elemClt (w.extractLsb' 21 3) (w.extractLsb' 18 3) (w.extractLsb' 14 4) (w.extractLsb' 10 1) (w.extractLsb' 0 10))
  | 35 => if w.extractLsb' 11 3 ≠ 0#3 then none else some (.elemCle (w.extractLsb' 21 3) (w.extractLsb' 18 3) (w.extractLsb' 14 4) (w.extractLsb' 10 1) (w.extractLsb' 0 10))
  | 36 => if w.extractLsb' 11 3 ≠ 0#3 then none else some (.elemCgt (w.extractLsb' 21 3) (w.extractLsb' 18 3) (w.extractLsb' 14 4) (w.extractLsb' 10 1) (w.extractLsb' 0 10))
  | 37 => if w.extractLsb' 11 3 ≠ 0#3 then none else some (.elemCge (w.extractLsb' 21 3) (w.extractLsb' 18 3) (w.extractLsb' 14 4) (w.extractLsb' 10 1) (w.extractLsb' 0 10))
  | 38 => if w.extractLsb' 18 3 ≠ 0#3 ∨ w.extractLsb' 11 3 ≠ 0#3 then none else some (.elemCnan (w.extractLsb' 21 3) (w.extractLsb' 14 4) (w.extractLsb' 10 1) (w.extractLsb' 0 10))
  | 39 => if w.extractLsb' 18 3 ≠ 0#3 ∨ w.extractLsb' 11 3 ≠ 0#3 then none else some (.elemMov (w.extractLsb' 21 3) (w.extractLsb' 14 4) (w.extractLsb' 10 1) (w.extractLsb' 0 10))
  | 48 => some (.elemFadd (w.extractLsb' 21 3) (w.extractLsb' 18 3) (w.extractLsb' 14 4) (w.extractLsb' 12 2) (w.extractLsb' 11 1) (w.extractLsb' 10 1) (w.extractLsb' 0 10))
  | 49 => some (.elemFsub (w.extractLsb' 21 3) (w.extractLsb' 18 3) (w.extractLsb' 14 4) (w.extractLsb' 12 2) (w.extractLsb' 11 1) (w.extractLsb' 10 1) (w.extractLsb' 0 10))
  | 50 => some (.elemFmul (w.extractLsb' 21 3) (w.extractLsb' 18 3) (w.extractLsb' 14 4) (w.extractLsb' 12 2) (w.extractLsb' 11 1) (w.extractLsb' 10 1) (w.extractLsb' 0 10))
  | 51 => some (.elemFdiv (w.extractLsb' 21 3) (w.extractLsb' 18 3) (w.extractLsb' 14 4) (w.extractLsb' 12 2) (w.extractLsb' 11 1) (w.extractLsb' 10 1) (w.extractLsb' 0 10))
  | 52 => if w.extractLsb' 11 3 ≠ 0#3 then none else some (.elemFmin (w.extractLsb' 21 3) (w.extractLsb' 18 3) (w.extractLsb' 14 4) (w.extractLsb' 10 1) (w.extractLsb' 0 10))
  | 53 => if w.extractLsb' 11 3 ≠ 0#3 then none else some (.elemFmax (w.extractLsb' 21 3) (w.extractLsb' 18 3) (w.extractLsb' 14 4) (w.extractLsb' 10 1) (w.extractLsb' 0 10))
  | 54 => if w.extractLsb' 18 3 ≠ 0#3 ∨ w.extractLsb' 11 3 ≠ 0#3 then none else some (.elemFabs (w.extractLsb' 21 3) (w.extractLsb' 14 4) (w.extractLsb' 10 1) (w.extractLsb' 0 10))
  | 55 => if w.extractLsb' 18 3 ≠ 0#3 ∨ w.extractLsb' 11 3 ≠ 0#3 then none else some (.elemFneg (w.extractLsb' 21 3) (w.extractLsb' 14 4) (w.extractLsb' 10 1) (w.extractLsb' 0 10))
  | 56 => if w.extractLsb' 18 3 ≠ 0#3 then none else some (.elemFsqrt (w.extractLsb' 21 3) (w.extractLsb' 14 4) (w.extractLsb' 12 2) (w.extractLsb' 11 1) (w.extractLsb' 10 1) (w.extractLsb' 0 10))
  | 57 => if w.extractLsb' 18 3 ≠ 0#3 then none else some (.elemFrcp (w.extractLsb' 21 3) (w.extractLsb' 14 4) (w.extractLsb' 12 2) (w.extractLsb' 11 1) (w.extractLsb' 10 1) (w.extractLsb' 0 10))
  | 58 => if w.extractLsb' 18 3 ≠ 0#3 then none else some (.elemFrsqrt (w.extractLsb' 21 3) (w.extractLsb' 14 4) (w.extractLsb' 12 2) (w.extractLsb' 11 1) (w.extractLsb' 10 1) (w.extractLsb' 0 10))
  | 59 => some (.elemFscale (w.extractLsb' 21 3) (w.extractLsb' 18 3) (w.extractLsb' 14 4) (w.extractLsb' 12 2) (w.extractLsb' 11 1) (w.extractLsb' 10 1) (w.extractLsb' 0 10))
  | 64 => if w.extractLsb' 18 3 ≠ 0#3 then none else some (.elemFexp2 (w.extractLsb' 21 3) (w.extractLsb' 14 4) (w.extractLsb' 12 2) (w.extractLsb' 11 1) (w.extractLsb' 10 1) (w.extractLsb' 0 10))
  | 65 => if w.extractLsb' 18 3 ≠ 0#3 then none else some (.elemFlog2 (w.extractLsb' 21 3) (w.extractLsb' 14 4) (w.extractLsb' 12 2) (w.extractLsb' 11 1) (w.extractLsb' 10 1) (w.extractLsb' 0 10))
  | 66 => if w.extractLsb' 18 3 ≠ 0#3 then none else some (.elemFtanh (w.extractLsb' 21 3) (w.extractLsb' 14 4) (w.extractLsb' 12 2) (w.extractLsb' 11 1) (w.extractLsb' 10 1) (w.extractLsb' 0 10))
  | 67 => if w.extractLsb' 18 3 ≠ 0#3 then none else some (.elemFsigm (w.extractLsb' 21 3) (w.extractLsb' 14 4) (w.extractLsb' 12 2) (w.extractLsb' 11 1) (w.extractLsb' 10 1) (w.extractLsb' 0 10))
  | 68 => if w.extractLsb' 18 3 ≠ 0#3 then none else some (.elemFgelu (w.extractLsb' 21 3) (w.extractLsb' 14 4) (w.extractLsb' 12 2) (w.extractLsb' 11 1) (w.extractLsb' 10 1) (w.extractLsb' 0 10))
  | 69 => if w.extractLsb' 18 3 ≠ 0#3 then none else some (.elemFsilu (w.extractLsb' 21 3) (w.extractLsb' 14 4) (w.extractLsb' 12 2) (w.extractLsb' 11 1) (w.extractLsb' 10 1) (w.extractLsb' 0 10))
  | 70 => if w.extractLsb' 18 3 ≠ 0#3 then none else some (.elemFerf (w.extractLsb' 21 3) (w.extractLsb' 14 4) (w.extractLsb' 12 2) (w.extractLsb' 11 1) (w.extractLsb' 10 1) (w.extractLsb' 0 10))
  | 71 => if w.extractLsb' 18 3 ≠ 0#3 then none else some (.elemFsoftp (w.extractLsb' 21 3) (w.extractLsb' 14 4) (w.extractLsb' 12 2) (w.extractLsb' 11 1) (w.extractLsb' 10 1) (w.extractLsb' 0 10))
  | 72 => if w.extractLsb' 18 3 ≠ 0#3 ∨ w.extractLsb' 4 6 ≠ 0#6 then none else some (.elemCvt (w.extractLsb' 21 3) (w.extractLsb' 14 4) (w.extractLsb' 12 2) (w.extractLsb' 11 1) (w.extractLsb' 10 1) (w.extractLsb' 0 4))
  | 73 => if w.extractLsb' 11 3 ≠ 0#3 then none else some (.elemPack (w.extractLsb' 21 3) (w.extractLsb' 18 3) (w.extractLsb' 14 4) (w.extractLsb' 0 11))
  | 74 => if w.extractLsb' 18 3 ≠ 0#3 ∨ w.extractLsb' 11 3 ≠ 0#3 ∨ w.extractLsb' 0 10 ≠ 0#10 then none else some (.elemUnpklo (w.extractLsb' 21 3) (w.extractLsb' 14 4) (w.extractLsb' 10 1))
  | 75 => if w.extractLsb' 18 3 ≠ 0#3 ∨ w.extractLsb' 11 3 ≠ 0#3 ∨ w.extractLsb' 0 10 ≠ 0#10 then none else some (.elemUnpkhi (w.extractLsb' 21 3) (w.extractLsb' 14 4) (w.extractLsb' 10 1))
  | 76 => if w.extractLsb' 18 3 ≠ 0#3 ∨ w.extractLsb' 11 1 ≠ 0#1 ∨ w.extractLsb' 0 10 ≠ 0#10 then none else some (.elemFround (w.extractLsb' 21 3) (w.extractLsb' 14 4) (w.extractLsb' 12 2) (w.extractLsb' 10 1))
  | 77 => if w.extractLsb' 18 3 ≠ 0#3 ∨ w.extractLsb' 11 3 ≠ 0#3 ∨ w.extractLsb' 0 10 ≠ 0#10 then none else some (.elemFsign (w.extractLsb' 21 3) (w.extractLsb' 14 4) (w.extractLsb' 10 1))
  | 80 => if w.extractLsb' 12 2 ≠ 0#2 ∨ w.extractLsb' 0 10 ≠ 0#10 then none else some (.elemIacc (w.extractLsb' 21 3) (w.extractLsb' 18 3) (w.extractLsb' 14 4) (w.extractLsb' 11 1) (w.extractLsb' 10 1))
  | 81 => if w.extractLsb' 0 10 ≠ 0#10 then none else some (.elemFacc (w.extractLsb' 21 3) (w.extractLsb' 18 3) (w.extractLsb' 14 4) (w.extractLsb' 12 2) (w.extractLsb' 11 1) (w.extractLsb' 10 1))
  | 82 => if w.extractLsb' 11 3 ≠ 0#3 ∨ w.extractLsb' 0 10 ≠ 0#10 then none else some (.elemImaxr (w.extractLsb' 21 3) (w.extractLsb' 18 3) (w.extractLsb' 14 4) (w.extractLsb' 10 1))
  | 83 => if w.extractLsb' 11 3 ≠ 0#3 ∨ w.extractLsb' 0 10 ≠ 0#10 then none else some (.elemFmaxr (w.extractLsb' 21 3) (w.extractLsb' 18 3) (w.extractLsb' 14 4) (w.extractLsb' 10 1))
  | 84 => if w.extractLsb' 11 3 ≠ 0#3 ∨ w.extractLsb' 0 10 ≠ 0#10 then none else some (.elemFamaxr (w.extractLsb' 21 3) (w.extractLsb' 18 3) (w.extractLsb' 14 4) (w.extractLsb' 10 1))
  | 85 => if w.extractLsb' 11 3 ≠ 0#3 ∨ w.extractLsb' 0 10 ≠ 0#10 then none else some (.elemCnt (w.extractLsb' 21 3) (w.extractLsb' 18 3) (w.extractLsb' 14 4) (w.extractLsb' 10 1))
  | _ => none

/-- A memory element word (R167). `none` for any other word. -/
noncomputable def decodeMemWord (w : BitVec 32) : Option Instr :=
  match (w.extractLsb' 24 8).toNat with
  | 128 => some (.memLd (w.extractLsb' 18 6) (w.extractLsb' 12 6) (w.extractLsb' 6 6) (w.extractLsb' 3 3) (w.extractLsb' 0 3))
  | 129 => some (.memLds (w.extractLsb' 18 6) (w.extractLsb' 12 6) (w.extractLsb' 6 6) (w.extractLsb' 3 3) (w.extractLsb' 0 3))
  | 130 => some (.memSt (w.extractLsb' 18 6) (w.extractLsb' 12 6) (w.extractLsb' 6 6) (w.extractLsb' 3 3) (w.extractLsb' 0 3))
  | 131 => if w.extractLsb' 3 3 ≠ 2#3 then none else some (.memLdwf (w.extractLsb' 18 6) (w.extractLsb' 12 6) (w.extractLsb' 6 6) (w.extractLsb' 0 3))
  | 132 => if w.extractLsb' 3 3 ≠ 2#3 then none else some (.memStwe (w.extractLsb' 18 6) (w.extractLsb' 12 6) (w.extractLsb' 6 6) (w.extractLsb' 0 3))
  | 133 => if w.extractLsb' 3 3 ≠ 2#3 then none else some (.memLdwk (w.extractLsb' 18 6) (w.extractLsb' 12 6) (w.extractLsb' 6 6) (w.extractLsb' 0 3))
  | 134 => if w.extractLsb' 3 3 ≠ 2#3 then none else some (.memAadd (w.extractLsb' 18 6) (w.extractLsb' 12 6) (w.extractLsb' 6 6) (w.extractLsb' 0 3))
  | 135 => if w.extractLsb' 3 3 ≠ 2#3 then none else some (.memAmax (w.extractLsb' 18 6) (w.extractLsb' 12 6) (w.extractLsb' 6 6) (w.extractLsb' 0 3))
  | 136 => if w.extractLsb' 3 3 ≠ 2#3 then none else some (.memAmin (w.extractLsb' 18 6) (w.extractLsb' 12 6) (w.extractLsb' 6 6) (w.extractLsb' 0 3))
  | 137 => if w.extractLsb' 3 3 ≠ 2#3 then none else some (.memAswp (w.extractLsb' 18 6) (w.extractLsb' 12 6) (w.extractLsb' 6 6) (w.extractLsb' 0 3))
  | 138 => if w.extractLsb' 3 3 ≠ 2#3 then none else some (.memAand (w.extractLsb' 18 6) (w.extractLsb' 12 6) (w.extractLsb' 6 6) (w.extractLsb' 0 3))
  | 139 => if w.extractLsb' 3 3 ≠ 2#3 then none else some (.memAor (w.extractLsb' 18 6) (w.extractLsb' 12 6) (w.extractLsb' 6 6) (w.extractLsb' 0 3))
  | 140 => if w.extractLsb' 3 3 ≠ 2#3 then none else some (.memAxor (w.extractLsb' 18 6) (w.extractLsb' 12 6) (w.extractLsb' 6 6) (w.extractLsb' 0 3))
  | 141 => if w.extractLsb' 0 6 ≠ 1#6 then none else some (.memPfch (w.extractLsb' 18 6) (w.extractLsb' 12 6) (w.extractLsb' 6 6))
  | _ => none

/-- A node word of class element or memory element: opcodes 0x80 to 0x8D take the layout of R167 (R166). -/
noncomputable def decodeElement (w : BitVec 32) : Option Instr :=
  if w.extractLsb' 31 1 = 0#1 then decodeElemWord w else decodeMemWord w

/-- A switch word (R168): operator and variant as R61 lays down. `none` for operator 7 and for an unassigned variant. -/
noncomputable def decodeSwitch (w : BitVec 16) : Option Instr :=
  match (w.extractLsb' 13 3).toNat with
  | 0 => if w.extractLsb' 4 3 ≠ 0#3 ∨ w.extractLsb' 0 3 ≠ 0#3 then none else some (.opPass (w.extractLsb' 10 3) (w.extractLsb' 7 3) (w.extractLsb' 3 1))
  | 1 => if w.extractLsb' 4 3 ≠ 0#3 then none else some (.opFork (w.extractLsb' 10 3) (w.extractLsb' 7 3) (w.extractLsb' 3 1) (w.extractLsb' 0 3))
  | 2 => some (.opSteer (w.extractLsb' 10 3) (w.extractLsb' 7 3) (w.extractLsb' 4 3) (w.extractLsb' 3 1) (w.extractLsb' 0 3))
  | 3 => some (.opMerge (w.extractLsb' 10 3) (w.extractLsb' 7 3) (w.extractLsb' 4 3) (w.extractLsb' 3 1) (w.extractLsb' 0 3))
  | 4 => if w.extractLsb' 0 3 ≠ 0#3 then none else some (.opCarry (w.extractLsb' 10 3) (w.extractLsb' 7 3) (w.extractLsb' 4 3) (w.extractLsb' 3 1))
  | 5 => if w.extractLsb' 4 3 ≠ 0#3 then none else some (.opNullFill (w.extractLsb' 10 3) (w.extractLsb' 7 3) (w.extractLsb' 3 1) (w.extractLsb' 0 3))
  | 6 => match (w.extractLsb' 0 3).toNat with
    | 0 => some (.opEgate (w.extractLsb' 10 3) (w.extractLsb' 7 3) (w.extractLsb' 4 3) (w.extractLsb' 3 1))
    | 1 => some (.opEgateSw (w.extractLsb' 10 3) (w.extractLsb' 7 3) (w.extractLsb' 4 3) (w.extractLsb' 3 1))
    | _ => none
  | _ => none

/-- The control word of an instruction of a control thread (R160 to R164); `none` for every other row. -/
def encodeControl (i : Instr) : Option (BitVec 32) :=
  match i with
  | .add d a b => some (1#6 ++ d ++ a ++ b ++ 0#11)
  | .sub d a b => some (1#6 ++ d ++ a ++ b ++ 1#11)
  | .mul d a b => some (1#6 ++ d ++ a ++ b ++ 2#11)
  | .mulhs d a b => some (1#6 ++ d ++ a ++ b ++ 3#11)
  | .mulhn d a b => some (1#6 ++ d ++ a ++ b ++ 4#11)
  | .divs d a b => some (1#6 ++ d ++ a ++ b ++ 5#11)
  | .divn d a b => some (1#6 ++ d ++ a ++ b ++ 6#11)
  | .rems d a b => some (1#6 ++ d ++ a ++ b ++ 7#11)
  | .remn d a b => some (1#6 ++ d ++ a ++ b ++ 8#11)
  | .and d a b => some (1#6 ++ d ++ a ++ b ++ 16#11)
  | .or d a b => some (1#6 ++ d ++ a ++ b ++ 17#11)
  | .xor d a b => some (1#6 ++ d ++ a ++ b ++ 18#11)
  | .andn d a b => some (1#6 ++ d ++ a ++ b ++ 19#11)
  | .shl d a b => some (1#6 ++ d ++ a ++ b ++ 24#11)
  | .shr d a b => some (1#6 ++ d ++ a ++ b ++ 25#11)
  | .sar d a b => some (1#6 ++ d ++ a ++ b ++ 26#11)
  | .rotl d a b => some (1#6 ++ d ++ a ++ b ++ 27#11)
  | .mins d a b => some (1#6 ++ d ++ a ++ b ++ 32#11)
  | .maxs d a b => some (1#6 ++ d ++ a ++ b ++ 33#11)
  | .minn d a b => some (1#6 ++ d ++ a ++ b ++ 34#11)
  | .maxn d a b => some (1#6 ++ d ++ a ++ b ++ 35#11)
  | .ceq d a b => some (2#6 ++ d ++ a ++ b ++ 0#11)
  | .cne d a b => some (2#6 ++ d ++ a ++ b ++ 1#11)
  | .clt d a b => some (2#6 ++ d ++ a ++ b ++ 2#11)
  | .cltn d a b => some (2#6 ++ d ++ a ++ b ++ 3#11)
  | .cge d a b => some (2#6 ++ d ++ a ++ b ++ 4#11)
  | .cgen d a b => some (2#6 ++ d ++ a ++ b ++ 5#11)
  | .csel d a b => some (2#6 ++ d ++ a ++ b ++ 16#11)
  | .clz d a => some (3#6 ++ d ++ a ++ 0#16)
  | .ctz d a => some (3#6 ++ d ++ a ++ 1#16)
  | .popc d a => some (3#6 ++ d ++ a ++ 2#16)
  | .brev d a => some (3#6 ++ d ++ a ++ 3#16)
  | .bswap d a => some (3#6 ++ d ++ a ++ 4#16)
  | .extu d a b => some (3#6 ++ d ++ a ++ b ++ 8#11)
  | .exts d a b => some (3#6 ++ d ++ a ++ b ++ 9#11)
  | .ins d a b => some (3#6 ++ d ++ a ++ b ++ 10#11)
  | .addk d a i => some (4#6 ++ d ++ a ++ i)
  | .andk d a i => some (5#6 ++ d ++ a ++ i)
  | .ork d a i => some (6#6 ++ d ++ a ++ i)
  | .xork d a i => some (7#6 ++ d ++ a ++ i)
  | .cltk d a i => some (8#6 ++ d ++ a ++ i)
  | .cltnk d a i => some (9#6 ++ d ++ a ++ i)
  | .hik d i => some (10#6 ++ d ++ 0#5 ++ i)
  | .shlk d a n => some (11#6 ++ d ++ a ++ 0#10 ++ n)
  | .shrk d a n => some (11#6 ++ d ++ a ++ 4#10 ++ n)
  | .sark d a n => some (11#6 ++ d ++ a ++ 8#10 ++ n)
  | .rotlk d a n => some (11#6 ++ d ++ a ++ 12#10 ++ n)
  | .cvt d a x y r s => some (12#6 ++ d ++ a ++ 0#5 ++ x ++ y ++ r ++ s)
  | .fadd d a b f r => some (13#6 ++ d ++ a ++ b ++ 0#5 ++ f ++ r)
  | .fsub d a b f r => some (13#6 ++ d ++ a ++ b ++ 1#5 ++ f ++ r)
  | .fmul d a b f r => some (13#6 ++ d ++ a ++ b ++ 2#5 ++ f ++ r)
  | .fdiv d a b f r => some (13#6 ++ d ++ a ++ b ++ 3#5 ++ f ++ r)
  | .fmac d a b f r => some (13#6 ++ d ++ a ++ b ++ 4#5 ++ f ++ r)
  | .fsqrt d a f r => some (13#6 ++ d ++ a ++ 5#10 ++ f ++ r)
  | .fmin d a b f => some (13#6 ++ d ++ a ++ b ++ 6#5 ++ f ++ 0#2)
  | .fmax d a b f => some (13#6 ++ d ++ a ++ b ++ 7#5 ++ f ++ 0#2)
  | .fabs d a f => some (13#6 ++ d ++ a ++ 8#10 ++ f ++ 0#2)
  | .fneg d a f => some (13#6 ++ d ++ a ++ 9#10 ++ f ++ 0#2)
  | .feq d a b f => some (13#6 ++ d ++ a ++ b ++ 10#5 ++ f ++ 0#2)
  | .flt d a b f => some (13#6 ++ d ++ a ++ b ++ 11#5 ++ f ++ 0#2)
  | .fle d a b f => some (13#6 ++ d ++ a ++ b ++ 12#5 ++ f ++ 0#2)
  | .bEq a b o => some (16#6 ++ a ++ b ++ o)
  | .bNe a b o => some (17#6 ++ a ++ b ++ o)
  | .bLt a b o => some (18#6 ++ a ++ b ++ o)
  | .bGe a b o => some (19#6 ++ a ++ b ++ o)
  | .bLtn a b o => some (20#6 ++ a ++ b ++ o)
  | .bGen a b o => some (21#6 ++ a ++ b ++ o)
  | .jmp o => some (22#6 ++ o)
  | .call o => some (23#6 ++ o)
  | .callr d a => some (24#6 ++ d ++ a ++ 0#16)
  | .jmpr a => some (768#11 ++ a ++ 1#16)
  | .ldV d a b z x o => some (32#6 ++ d ++ a ++ b ++ z ++ x ++ o)
  | .stV d a b z o => some (33#6 ++ d ++ a ++ b ++ z ++ 0#1 ++ o)
  | .ldI d a b z x o => some (34#6 ++ d ++ a ++ b ++ z ++ x ++ o)
  | .stI d a b z o => some (35#6 ++ d ++ a ++ b ++ z ++ 0#1 ++ o)
  | .ldW d a b z x o => some (36#6 ++ d ++ a ++ b ++ z ++ x ++ o)
  | .ldA d a b z x o => some (37#6 ++ d ++ a ++ b ++ z ++ x ++ o)
  | .ldC d a b z x o => some (38#6 ++ d ++ a ++ b ++ z ++ x ++ o)
  | .stC d a b z o => some (39#6 ++ d ++ a ++ b ++ z ++ 0#1 ++ o)
  | .spld d s => some (40#6 ++ d ++ 0#4 ++ s)
  | .spst d s => some (41#6 ++ d ++ 0#4 ++ s)
  | .crd c a => some (63#6 ++ c ++ a ++ 1#11)
  | .cwr c a => some (63#6 ++ c ++ a ++ 2#11)
  | .cset c a => some (63#6 ++ c ++ a ++ 3#11)
  | .cclr c a => some (63#6 ++ c ++ a ++ 4#11)
  | .sleep a => some (64512#16 ++ a ++ 16#11)
  | .yield => some (4227858449#32)
  | .exit => some (4227858450#32)
  | .tret => some (4227858451#32)
  | .xinv a => some (64512#16 ++ a ++ 32#11)
  | .brk n => some (63#6 ++ n ++ 48#16)
  | .sbind t a b k s f => some (48#6 ++ t ++ a ++ b ++ 0#2 ++ k ++ s ++ f)
  | .swait t k => some (48#6 ++ t ++ 1#12 ++ k ++ 0#7)
  | .sclear t k => some (48#6 ++ t ++ 2#12 ++ k ++ 0#7)
  | .copyIn h a b u e => some (49#6 ++ h ++ a ++ b ++ 0#2 ++ u ++ 0#2 ++ e)
  | .copyOut h a b u => some (49#6 ++ h ++ a ++ b ++ 1#2 ++ u ++ 0#6)
  | .copyBb h a b u v => some (49#6 ++ h ++ a ++ b ++ 2#2 ++ u ++ v ++ 0#4)
  | .hwait h => some (49#6 ++ h ++ 768#20)
  | .hrel h => some (49#6 ++ h ++ 769#20)
  | .hstat h a b => some (49#6 ++ h ++ a ++ b ++ 770#10)
  | .mma t a b p => some (50#6 ++ t ++ a ++ b ++ 0#4 ++ p)
  | .mmaz t a b p => some (50#6 ++ t ++ a ++ b ++ 1#4 ++ p)
  | .mdrain t a b s f => some (50#6 ++ t ++ a ++ b ++ 2#4 ++ s ++ f)
  | .msatr t a => some (50#6 ++ t ++ a ++ 192#15)
  | .mwait t => some (50#6 ++ t ++ 256#20)
  | .vadd t a b s => some (51#6 ++ t ++ a ++ b ++ 1#8 ++ s)
  | .vsub t a b s => some (51#6 ++ t ++ a ++ b ++ 2#8 ++ s)
  | .vmul t a b s => some (51#6 ++ t ++ a ++ b ++ 3#8 ++ s)
  | .vmulh t a b s => some (51#6 ++ t ++ a ++ b ++ 4#8 ++ s)
  | .vmin t a b s => some (51#6 ++ t ++ a ++ b ++ 5#8 ++ s)
  | .vmax t a b s => some (51#6 ++ t ++ a ++ b ++ 6#8 ++ s)
  | .vabs t a b => some (51#6 ++ t ++ a ++ b ++ 31#10)
  | .vneg t a b => some (51#6 ++ t ++ a ++ b ++ 35#10)
  | .vavg t a b s => some (51#6 ++ t ++ a ++ b ++ 9#8 ++ s)
  | .vabsd t a b s => some (51#6 ++ t ++ a ++ b ++ 10#8 ++ s)
  | .vdiv t a b s => some (51#6 ++ t ++ a ++ b ++ 11#8 ++ s)
  | .vrem t a b s => some (51#6 ++ t ++ a ++ b ++ 12#8 ++ s)
  | .vand t a b s => some (51#6 ++ t ++ a ++ b ++ 16#8 ++ s)
  | .vor t a b s => some (51#6 ++ t ++ a ++ b ++ 17#8 ++ s)
  | .vxor t a b s => some (51#6 ++ t ++ a ++ b ++ 18#8 ++ s)
  | .vnot t a b => some (51#6 ++ t ++ a ++ b ++ 79#10)
  | .vshl t a b s => some (51#6 ++ t ++ a ++ b ++ 20#8 ++ s)
  | .vshr t a b s => some (51#6 ++ t ++ a ++ b ++ 21#8 ++ s)
  | .vsra t a b s => some (51#6 ++ t ++ a ++ b ++ 22#8 ++ s)
  | .vrotl t a b s => some (51#6 ++ t ++ a ++ b ++ 23#8 ++ s)
  | .vclz t a b => some (51#6 ++ t ++ a ++ b ++ 99#10)
  | .vctz t a b => some (51#6 ++ t ++ a ++ b ++ 103#10)
  | .vpopc t a b => some (51#6 ++ t ++ a ++ b ++ 107#10)
  | .vbrev t a b => some (51#6 ++ t ++ a ++ b ++ 111#10)
  | .vceq t a b s => some (51#6 ++ t ++ a ++ b ++ 32#8 ++ s)
  | .vcne t a b s => some (51#6 ++ t ++ a ++ b ++ 33#8 ++ s)
  | .vclt t a b s => some (51#6 ++ t ++ a ++ b ++ 34#8 ++ s)
  | .vcle t a b s => some (51#6 ++ t ++ a ++ b ++ 35#8 ++ s)
  | .vcgt t a b s => some (51#6 ++ t ++ a ++ b ++ 36#8 ++ s)
  | .vcge t a b s => some (51#6 ++ t ++ a ++ b ++ 37#8 ++ s)
  | .vcnan t a b => some (51#6 ++ t ++ a ++ b ++ 155#10)
  | .vmov t a b => some (51#6 ++ t ++ a ++ b ++ 159#10)
  | .vfadd t a b s => some (51#6 ++ t ++ a ++ b ++ 48#8 ++ s)
  | .vfsub t a b s => some (51#6 ++ t ++ a ++ b ++ 49#8 ++ s)
  | .vfmul t a b s => some (51#6 ++ t ++ a ++ b ++ 50#8 ++ s)
  | .vfdiv t a b s => some (51#6 ++ t ++ a ++ b ++ 51#8 ++ s)
  | .vfmin t a b s => some (51#6 ++ t ++ a ++ b ++ 52#8 ++ s)
  | .vfmax t a b s => some (51#6 ++ t ++ a ++ b ++ 53#8 ++ s)
  | .vfabs t a b => some (51#6 ++ t ++ a ++ b ++ 219#10)
  | .vfneg t a b => some (51#6 ++ t ++ a ++ b ++ 223#10)
  | .vfsqrt t a b => some (51#6 ++ t ++ a ++ b ++ 227#10)
  | .vfrcp t a b => some (51#6 ++ t ++ a ++ b ++ 231#10)
  | .vfrsqrt t a b => some (51#6 ++ t ++ a ++ b ++ 235#10)
  | .vfscale t a b s => some (51#6 ++ t ++ a ++ b ++ 59#8 ++ s)
  | .vfexp2 t a b => some (51#6 ++ t ++ a ++ b ++ 259#10)
  | .vflog2 t a b => some (51#6 ++ t ++ a ++ b ++ 263#10)
  | .vftanh t a b => some (51#6 ++ t ++ a ++ b ++ 267#10)
  | .vfsigm t a b => some (51#6 ++ t ++ a ++ b ++ 271#10)
  | .vfgelu t a b => some (51#6 ++ t ++ a ++ b ++ 275#10)
  | .vfsilu t a b => some (51#6 ++ t ++ a ++ b ++ 279#10)
  | .vferf t a b => some (51#6 ++ t ++ a ++ b ++ 283#10)
  | .vfsoftp t a b => some (51#6 ++ t ++ a ++ b ++ 287#10)
  | .vcvt t a b => some (51#6 ++ t ++ a ++ b ++ 771#10)
  | .vsum t a b => some (51#6 ++ t ++ a ++ b ++ 775#10)
  | .vmaxr t a b => some (51#6 ++ t ++ a ++ b ++ 779#10)
  | .vamaxr t a b => some (51#6 ++ t ++ a ++ b ++ 783#10)
  | .topk a b m => some (3328#12 ++ a ++ b ++ 0#9 ++ m)
  | .predrows a b => some (3328#12 ++ a ++ b ++ 256#10)
  | .prcheck a b => some (3328#12 ++ a ++ b ++ 512#10)
  | .gath a b w e => some (3392#12 ++ a ++ b ++ 0#2 ++ w ++ 0#3 ++ e)
  | .scat a b => some (3392#12 ++ a ++ b ++ 256#10)
  | .glaunch a => some (3456#12 ++ a ++ 0#15)
  | .sarm a b => some (3456#12 ++ a ++ b ++ 1#10)
  | .fwait a b => some (3456#12 ++ a ++ b ++ 2#10)
  | .ldwF d a s o => some (56#6 ++ d ++ a ++ 0#8 ++ s ++ 0#1 ++ o)
  | .stwE d a s o => some (56#6 ++ d ++ a ++ 1#8 ++ s ++ 0#1 ++ o)
  | .ldwFt d a s o => some (56#6 ++ d ++ a ++ 2#8 ++ s ++ 0#1 ++ o)
  | .stwEt d a b s o => some (56#6 ++ d ++ a ++ b ++ 3#3 ++ s ++ 0#1 ++ o)
  | .ldwFk d a s o => some (56#6 ++ d ++ a ++ 4#8 ++ s ++ 0#1 ++ o)
  | .ldwQ d a s o => some (56#6 ++ d ++ a ++ 5#8 ++ s ++ 0#1 ++ o)
  | .fclr a s o => some (1792#11 ++ a ++ 6#8 ++ s ++ 0#1 ++ o)
  | .amoSwap d a b z p x => some (57#6 ++ d ++ a ++ b ++ 0#5 ++ z ++ p ++ x ++ 0#2)
  | .amoAdd d a b z p x => some (57#6 ++ d ++ a ++ b ++ 1#5 ++ z ++ p ++ x ++ 0#2)
  | .amoAnd d a b z p x => some (57#6 ++ d ++ a ++ b ++ 2#5 ++ z ++ p ++ x ++ 0#2)
  | .amoOr d a b z p x => some (57#6 ++ d ++ a ++ b ++ 3#5 ++ z ++ p ++ x ++ 0#2)
  | .amoXor d a b z p x => some (57#6 ++ d ++ a ++ b ++ 4#5 ++ z ++ p ++ x ++ 0#2)
  | .amoMin d a b z p x => some (57#6 ++ d ++ a ++ b ++ 5#5 ++ z ++ p ++ x ++ 0#2)
  | .amoMax d a b z p x => some (57#6 ++ d ++ a ++ b ++ 6#5 ++ z ++ p ++ x ++ 0#2)
  | .amoMinu d a b z p x => some (57#6 ++ d ++ a ++ b ++ 7#5 ++ z ++ p ++ x ++ 0#2)
  | .amoMaxu d a b z p x => some (57#6 ++ d ++ a ++ b ++ 8#5 ++ z ++ p ++ x ++ 0#2)
  | .amoCas d a b z p x => some (57#6 ++ d ++ a ++ b ++ 9#5 ++ z ++ p ++ x ++ 0#2)
  | .amoFmax d a b z p => some (57#6 ++ d ++ a ++ b ++ 10#5 ++ z ++ p ++ 0#3)
  | .amaxrr d a z p => some (57#6 ++ d ++ a ++ 11#10 ++ z ++ p ++ 0#3)
  | .tkt d a b => some (58#6 ++ d ++ a ++ b ++ 0#11)
  | .tkset a b => some (1856#11 ++ a ++ b ++ 64#11)
  | .redinit a b => some (1856#11 ++ a ++ b ++ 128#11)
  | .redFadd d a b => some (58#6 ++ d ++ a ++ b ++ 192#11)
  | .redrd d a => some (58#6 ++ d ++ a ++ 256#16)
  | .redLadd a b f => some (1856#11 ++ a ++ b ++ 5#5 ++ f ++ 0#2)
  | .redLclr a s => some (1856#11 ++ a ++ s ++ 384#11)
  | .redLdrain d a s f r => some (58#6 ++ d ++ a ++ s ++ 7#5 ++ f ++ r)
  | .sjoin d a => some (59#6 ++ d ++ a ++ 0#16)
  | .sleave d a => some (59#6 ++ d ++ a ++ 64#16)
  | .barw d a => some (59#6 ++ d ++ a ++ 128#16)
  | .bara d a => some (59#6 ++ d ++ a ++ 192#16)
  | .barwp d a b => some (59#6 ++ d ++ a ++ b ++ 256#11)
  | .binit d a => some (59#6 ++ d ++ a ++ 320#16)
  | .sstat d a => some (59#6 ++ d ++ a ++ 384#16)
  | .lkacq d a m => some (60#6 ++ d ++ a ++ 0#10 ++ m ++ 0#3)
  | .lktry d a m => some (60#6 ++ d ++ a ++ 1#10 ++ m ++ 0#3)
  | .lkrel d a => some (60#6 ++ d ++ a ++ 128#16)
  | .lkrelall d => some (60#6 ++ d ++ 192#21)
  | .lkreg d a => some (60#6 ++ d ++ a ++ 256#16)
  | .lkunreg d a => some (60#6 ++ d ++ a ++ 320#16)
  | .lkmat d => some (60#6 ++ d ++ 384#21)
  | .fence p q s => some (1998848#21 ++ p ++ q ++ s ++ 0#2)
  | _ => none

/-- The word of an element or memory element (R165 to R167); `none` for every other row. -/
def encodeElement (i : Instr) : Option (BitVec 32) :=
  match i with
  | .elemAdd a b f s w k => some (1#8 ++ a ++ b ++ f ++ 0#2 ++ s ++ w ++ k)
  | .elemSub a b f s w k => some (2#8 ++ a ++ b ++ f ++ 0#2 ++ s ++ w ++ k)
  | .elemMul a b f s w k => some (3#8 ++ a ++ b ++ f ++ 0#2 ++ s ++ w ++ k)
  | .elemMulh a b f w k => some (4#8 ++ a ++ b ++ f ++ 0#3 ++ w ++ k)
  | .elemMin a b f w k => some (5#8 ++ a ++ b ++ f ++ 0#3 ++ w ++ k)
  | .elemMax a b f w k => some (6#8 ++ a ++ b ++ f ++ 0#3 ++ w ++ k)
  | .elemAbs a f s w k => some (7#8 ++ a ++ 0#3 ++ f ++ 0#2 ++ s ++ w ++ k)
  | .elemNeg a f s w k => some (8#8 ++ a ++ 0#3 ++ f ++ 0#2 ++ s ++ w ++ k)
  | .elemAvg a b f r w k => some (9#8 ++ a ++ b ++ f ++ r ++ 0#1 ++ w ++ k)
  | .elemAbsd a b f s w k => some (10#8 ++ a ++ b ++ f ++ 0#2 ++ s ++ w ++ k)
  | .elemDiv a b f s w k => some (11#8 ++ a ++ b ++ f ++ 0#2 ++ s ++ w ++ k)
  | .elemRem a b f w k => some (12#8 ++ a ++ b ++ f ++ 0#3 ++ w ++ k)
  | .elemAnd a b f w k => some (16#8 ++ a ++ b ++ f ++ 0#3 ++ w ++ k)
  | .elemOr a b f w k => some (17#8 ++ a ++ b ++ f ++ 0#3 ++ w ++ k)
  | .elemXor a b f w k => some (18#8 ++ a ++ b ++ f ++ 0#3 ++ w ++ k)
  | .elemNot a f w k => some (19#8 ++ a ++ 0#3 ++ f ++ 0#3 ++ w ++ k)
  | .elemShl a b f w k => some (20#8 ++ a ++ b ++ f ++ 0#3 ++ w ++ k)
  | .elemShr a b f w k => some (21#8 ++ a ++ b ++ f ++ 0#3 ++ w ++ k)
  | .elemSra a b f w k => some (22#8 ++ a ++ b ++ f ++ 0#3 ++ w ++ k)
  | .elemRotl a b f w k => some (23#8 ++ a ++ b ++ f ++ 0#3 ++ w ++ k)
  | .elemClz a f w k => some (24#8 ++ a ++ 0#3 ++ f ++ 0#3 ++ w ++ k)
  | .elemCtz a f w k => some (25#8 ++ a ++ 0#3 ++ f ++ 0#3 ++ w ++ k)
  | .elemPopc a f w k => some (26#8 ++ a ++ 0#3 ++ f ++ 0#3 ++ w ++ k)
  | .elemBrev a f w k => some (27#8 ++ a ++ 0#3 ++ f ++ 0#3 ++ w ++ k)
  | .elemCeq a b f w k => some (32#8 ++ a ++ b ++ f ++ 0#3 ++ w ++ k)
  | .elemCne a b f w k => some (33#8 ++ a ++ b ++ f ++ 0#3 ++ w ++ k)
  | .elemClt a b f w k => some (34#8 ++ a ++ b ++ f ++ 0#3 ++ w ++ k)
  | .elemCle a b f w k => some (35#8 ++ a ++ b ++ f ++ 0#3 ++ w ++ k)
  | .elemCgt a b f w k => some (36#8 ++ a ++ b ++ f ++ 0#3 ++ w ++ k)
  | .elemCge a b f w k => some (37#8 ++ a ++ b ++ f ++ 0#3 ++ w ++ k)
  | .elemCnan a f w k => some (38#8 ++ a ++ 0#3 ++ f ++ 0#3 ++ w ++ k)
  | .elemMov a f w k => some (39#8 ++ a ++ 0#3 ++ f ++ 0#3 ++ w ++ k)
  | .elemFadd a b f r s w k => some (48#8 ++ a ++ b ++ f ++ r ++ s ++ w ++ k)
  | .elemFsub a b f r s w k => some (49#8 ++ a ++ b ++ f ++ r ++ s ++ w ++ k)
  | .elemFmul a b f r s w k => some (50#8 ++ a ++ b ++ f ++ r ++ s ++ w ++ k)
  | .elemFdiv a b f r s w k => some (51#8 ++ a ++ b ++ f ++ r ++ s ++ w ++ k)
  | .elemFmin a b f w k => some (52#8 ++ a ++ b ++ f ++ 0#3 ++ w ++ k)
  | .elemFmax a b f w k => some (53#8 ++ a ++ b ++ f ++ 0#3 ++ w ++ k)
  | .elemFabs a f w k => some (54#8 ++ a ++ 0#3 ++ f ++ 0#3 ++ w ++ k)
  | .elemFneg a f w k => some (55#8 ++ a ++ 0#3 ++ f ++ 0#3 ++ w ++ k)
  | .elemFsqrt a f r s w k => some (56#8 ++ a ++ 0#3 ++ f ++ r ++ s ++ w ++ k)
  | .elemFrcp a f r s w k => some (57#8 ++ a ++ 0#3 ++ f ++ r ++ s ++ w ++ k)
  | .elemFrsqrt a f r s w k => some (58#8 ++ a ++ 0#3 ++ f ++ r ++ s ++ w ++ k)
  | .elemFscale a b f r s w k => some (59#8 ++ a ++ b ++ f ++ r ++ s ++ w ++ k)
  | .elemFexp2 a f r s w k => some (64#8 ++ a ++ 0#3 ++ f ++ r ++ s ++ w ++ k)
  | .elemFlog2 a f r s w k => some (65#8 ++ a ++ 0#3 ++ f ++ r ++ s ++ w ++ k)
  | .elemFtanh a f r s w k => some (66#8 ++ a ++ 0#3 ++ f ++ r ++ s ++ w ++ k)
  | .elemFsigm a f r s w k => some (67#8 ++ a ++ 0#3 ++ f ++ r ++ s ++ w ++ k)
  | .elemFgelu a f r s w k => some (68#8 ++ a ++ 0#3 ++ f ++ r ++ s ++ w ++ k)
  | .elemFsilu a f r s w k => some (69#8 ++ a ++ 0#3 ++ f ++ r ++ s ++ w ++ k)
  | .elemFerf a f r s w k => some (70#8 ++ a ++ 0#3 ++ f ++ r ++ s ++ w ++ k)
  | .elemFsoftp a f r s w k => some (71#8 ++ a ++ 0#3 ++ f ++ r ++ s ++ w ++ k)
  | .elemCvt a f r s w t => some (72#8 ++ a ++ 0#3 ++ f ++ r ++ s ++ w ++ 0#6 ++ t)
  | .elemPack a b f wk => some (73#8 ++ a ++ b ++ f ++ 0#3 ++ wk)
  | .elemUnpklo a f w => some (74#8 ++ a ++ 0#3 ++ f ++ 0#3 ++ w ++ 0#10)
  | .elemUnpkhi a f w => some (75#8 ++ a ++ 0#3 ++ f ++ 0#3 ++ w ++ 0#10)
  | .elemFround a f r w => some (76#8 ++ a ++ 0#3 ++ f ++ r ++ 0#1 ++ w ++ 0#10)
  | .elemFsign a f w => some (77#8 ++ a ++ 0#3 ++ f ++ 0#3 ++ w ++ 0#10)
  | .elemIacc a b f s w => some (80#8 ++ a ++ b ++ f ++ 0#2 ++ s ++ w ++ 0#10)
  | .elemFacc a b f r s w => some (81#8 ++ a ++ b ++ f ++ r ++ s ++ w ++ 0#10)
  | .elemImaxr a b f w => some (82#8 ++ a ++ b ++ f ++ 0#3 ++ w ++ 0#10)
  | .elemFmaxr a b f w => some (83#8 ++ a ++ b ++ f ++ 0#3 ++ w ++ 0#10)
  | .elemFamaxr a b f w => some (84#8 ++ a ++ b ++ f ++ 0#3 ++ w ++ 0#10)
  | .elemCnt a b f w => some (85#8 ++ a ++ b ++ f ++ 0#3 ++ w ++ 0#10)
  | .memLd o p q w s => some (128#8 ++ o ++ p ++ q ++ w ++ s)
  | .memLds o p q w s => some (129#8 ++ o ++ p ++ q ++ w ++ s)
  | .memSt o p q w s => some (130#8 ++ o ++ p ++ q ++ w ++ s)
  | .memLdwf o p q s => some (131#8 ++ o ++ p ++ q ++ 2#3 ++ s)
  | .memStwe o p q s => some (132#8 ++ o ++ p ++ q ++ 2#3 ++ s)
  | .memLdwk o p q s => some (133#8 ++ o ++ p ++ q ++ 2#3 ++ s)
  | .memAadd o p q s => some (134#8 ++ o ++ p ++ q ++ 2#3 ++ s)
  | .memAmax o p q s => some (135#8 ++ o ++ p ++ q ++ 2#3 ++ s)
  | .memAmin o p q s => some (136#8 ++ o ++ p ++ q ++ 2#3 ++ s)
  | .memAswp o p q s => some (137#8 ++ o ++ p ++ q ++ 2#3 ++ s)
  | .memAand o p q s => some (138#8 ++ o ++ p ++ q ++ 2#3 ++ s)
  | .memAor o p q s => some (139#8 ++ o ++ p ++ q ++ 2#3 ++ s)
  | .memAxor o p q s => some (140#8 ++ o ++ p ++ q ++ 2#3 ++ s)
  | .memPfch o p q => some (141#8 ++ o ++ p ++ q ++ 1#6)
  | _ => none

/-- The switch word of a router operator (R168); `none` for every other row. -/
def encodeSwitch (i : Instr) : Option (BitVec 16) :=
  match i with
  | .opPass o i c => some (0#3 ++ o ++ i ++ 0#3 ++ c ++ 0#3)
  | .opFork o i c v => some (1#3 ++ o ++ i ++ 0#3 ++ c ++ v)
  | .opSteer o i j c v => some (2#3 ++ o ++ i ++ j ++ c ++ v)
  | .opMerge o i j c v => some (3#3 ++ o ++ i ++ j ++ c ++ v)
  | .opCarry o i j c => some (4#3 ++ o ++ i ++ j ++ c ++ 0#3)
  | .opNullFill o i c v => some (5#3 ++ o ++ i ++ 0#3 ++ c ++ v)
  | .opEgate o i j c => some (6#3 ++ o ++ i ++ j ++ c ++ 0#3)
  | .opEgateSw o i j c => some (6#3 ++ o ++ i ++ j ++ c ++ 1#3)
  | _ => none

/-- The words of an instruction: its number of bits and its bits as the opcode table numbers them; `none` for a step that has
no encoding. -/
def encode (i : Instr) : Option (Nat × Nat) :=
  match encodeControl i, encodeElement i, encodeSwitch i with
  | some w, _, _ => some (32, w.toNat)
  | _, some w, _ => some (32, w.toNat)
  | _, _, some w => some (16, w.toNat)
  | none, none, none => none

/-- What the decoder reads from a row's bits. A 32-bit word is read as a control word and, where that is no instruction, as a
node word: one number may be both (a control word lies in code, a node word in a graph record), which log 2 says. -/
noncomputable def decodeTableWord (nbits w : Nat) : Option Instr :=
  match nbits with
  | 32 => match decodeControl (BitVec.ofNat 32 w) with
    | .ok i => some i
    | .error _ => decodeElement (BitVec.ofNat 32 w)
  | 16 => decodeSwitch (BitVec.ofNat 16 w)
  | _ => none

/-- A control word lies in memory little-endian (R6): the word of its four bytes, the lowest address first. -/
def wordOfBytes (b0 b1 b2 b3 : Byte) : BitVec 32 := b3 ++ b2 ++ b1 ++ b0

/-- The byte of a control word that lies `k` bytes above its address (R6). -/
def byteOfWord (w : BitVec 32) (k : Nat) : Byte := (w >>> (8 * k)).truncate 8

end Sys2Proof
end

