-- ==== Sys2Proof/Config.lean ====
section
/-! DEFINITION. What the spec leaves to an implementation, to key material or to chance: free values with no body.

Nothing can evaluate one of these or prove a value of it; a statement about the machine holds whatever they are. -/

namespace Sys2Proof.Config

/-- The bits that a read of a unit with an uncorrectable error returns, and every other value that the spec leaves open
after a step that goes on (R413; log 17). Applied to the counter `State.free`. -/
opaque freeWord : Nat → BitVec 64

/-- The 32-bit check of a 64-byte line of the overflow area (R427; log 87). -/
opaque lineCheck : List (BitVec 8) → BitVec 32
/-- The line of the overflow area that holds an item of a context, by the item word (R269; log 87). -/
opaque itemPlace : Nat → Nat → Nat

/-- The device's own attributes in the choice of the best master, by number: priority, class, accuracy, variance, second priority and clock
identity (R336, R337; log 14). -/
opaque ptpOwn : Nat → Nat

/-- Whether a measured offset leaves the counter locked (R337; log 14). -/
opaque ptpLocked : Int → Bool

/-- Whether an access uses a superseded translation that a translation unit or port still holds, where R108 lets it use
either (log 8). Applied to the counter `State.free`. -/
opaque freeChoice : Nat → Bool

/-- The pattern of a special function whose enclosure stays ambiguous after 900 fraction bits (R287; log 16). Applied to the
opcode, the format code, the rounding code, and the operand. -/
opaque specialFallback : Nat → Nat → Nat → Nat → Nat

/-- SHAKE256 of a message, cut to a number of bytes (R375 to R377; log 9). -/
opaque shake256 : List (BitVec 8) → Nat → List (BitVec 8)

/-- Whether an SLH-DSA signature verifies under a public key (R375; log 9). Key, message, signature. -/
opaque slhDsaVerifies : List (BitVec 8) → List (BitVec 8) → List (BitVec 8) → Bool

/-- The signature that the device identity key makes (R377; log 9). -/
opaque deviceSignature : List (BitVec 8) → List (BitVec 8)

/-- The image-signing public key whose digest is fused into the device (R375; log 9). -/
opaque signingPublicKey : List (BitVec 8)

/-- KMAC256 of NIST SP 800-185 (R376; log 9). Key, message, output length in bits, customisation string. -/
opaque kmac256 : List (BitVec 8) → List (BitVec 8) → Nat → List (BitVec 8) → List (BitVec 8)

/-- Random bytes of the device's random source (R368; log 9). Applied to the counter `State.free`. -/
opaque randomByte : Nat → BitVec 8

end Sys2Proof.Config
end

