-- ==== Sys2Proof/Machine/Numbers.lean ====
section
/-! DEFINITION. Number formats, rounding, conversion and exact arithmetic (R77 to R86, R183 to R186, R282 to R288).

Bit patterns are natural numbers below 2^w. A floating value is read into `XVal`, an exact number: all arithmetic is exact,
and `rnd` narrows once at the end (R84). -/

namespace Sys2Proof.Machine

/-- The token formats (R77). -/
inductive Fmt where
  | i8 | i16 | i32 | n8 | n16 | n32 | bf16 | f16 | f32 | e4m3 | e5m2 | t2
  deriving DecidableEq, Repr

/-- The rounding modes (R78). -/
inductive Rnd where
  | rne | rz | ru | rd
  deriving DecidableEq, Repr

/-- Format codes (R77); 12 to 15 are reserved. -/
def fmtOfCode (c : Nat) : Option Fmt :=
  match c with
  | 0 => some .i8 | 1 => some .i16 | 2 => some .i32 | 3 => some .n8 | 4 => some .n16 | 5 => some .n32
  | 6 => some .bf16 | 7 => some .f16 | 8 => some .f32 | 9 => some .e4m3 | 10 => some .e5m2 | 11 => some .t2
  | _ => none

/-- Rounding codes (R78). -/
def rndOfCode (c : Nat) : Rnd :=
  match c with
  | 0 => .rne | 1 => .rz | 2 => .ru | _ => .rd

/-- Width in bits (R77). -/
def fmtWidth (f : Fmt) : Nat :=
  match f with
  | .i8 | .n8 | .e4m3 | .e5m2 => 8
  | .i16 | .n16 | .bf16 | .f16 => 16
  | .i32 | .n32 | .f32 => 32
  | .t2 => 2

/-- The signed integer formats. -/
def fmtSigned (f : Fmt) : Bool :=
  match f with
  | .i8 | .i16 | .i32 => true
  | _ => false

/-- The integer formats, codes 0 to 5. -/
def fmtIsInt (f : Fmt) : Bool :=
  match f with
  | .i8 | .i16 | .i32 | .n8 | .n16 | .n32 => true
  | _ => false

/-- The floating formats, codes 6 to 10. -/
def fmtIsFloat (f : Fmt) : Bool :=
  match f with
  | .bf16 | .f16 | .f32 | .e4m3 | .e5m2 => true
  | _ => false

/-- The fields and limits of a floating format (R82). -/
structure FloatShape where
  mbits : Nat
  ebits : Nat
  bias : Nat
  largest : Nat
  infinity : Option Nat
  canonNan : Nat
  deriving DecidableEq, Repr

/-- The table of R82 (the non-floating formats take that of `.f32`, and no rule reads it). -/
def floatShape (f : Fmt) : FloatShape :=
  match f with
  | .bf16 => ⟨7, 8, 127, 0x7F7F, some 0x7F80, 0x7FC0⟩
  | .f16 => ⟨10, 5, 15, 0x7BFF, some 0x7C00, 0x7E00⟩
  | .e4m3 => ⟨3, 4, 7, 0x7E, none, 0x7F⟩
  | .e5m2 => ⟨2, 5, 15, 0x7B, some 0x7C, 0x7E⟩
  | _ => ⟨23, 8, 127, 0x7F7FFFFF, some 0x7F800000, 0x7FC00000⟩

/-- An exact number: NaN, an infinity, or (-1)^neg times n / d, with signed zeros. -/
inductive XVal where
  | nan
  | inf (neg : Bool)
  | fin (neg : Bool) (n d : Nat)
  deriving DecidableEq, Repr

/-- The low `w` bits of a pattern. -/
def lowBits (w x : Nat) : Nat := x % 2 ^ w

/-- A `w`-bit pattern read as two's complement. -/
def signedOf (w x : Nat) : Int := if x % 2 ^ w < 2 ^ (w - 1) then (x % 2 ^ w : Nat) else (x % 2 ^ w : Nat) - (2 ^ w : Nat)

/-- The `w`-bit pattern of an integer modulo 2^w (R80). -/
def wrapInt (w : Nat) (x : Int) : Nat := (x % ((2 ^ w : Nat) : Int)).toNat

/-- An integer pattern read in its format (R80), or the value of a ternary code (R81). -/
def intVal (f : Fmt) (bits : Nat) : Int :=
  match f with
  | .t2 => if bits % 4 = 1 then 1 else if bits % 4 = 3 then -1 else 0
  | _ => if fmtSigned f then signedOf (fmtWidth f) bits else (lowBits (fmtWidth f) bits : Nat)

/-- The range of an integer format (R80). -/
def intMin (f : Fmt) : Int := if fmtSigned f then -((2 ^ (fmtWidth f - 1) : Nat) : Int) else 0
def intMax (f : Fmt) : Int :=
  if fmtSigned f then ((2 ^ (fmtWidth f - 1) : Nat) : Int) - 1 else ((2 ^ fmtWidth f : Nat) : Int) - 1

/-- `x` brought into a range. -/
def clampInt (lo hi x : Int) : Int := if x < lo then lo else if hi < x then hi else x

/-- An integer result in its format: clamped when it saturates, otherwise its low bits (R80). -/
def intResult (f : Fmt) (sat : Bool) (x : Int) : Nat :=
  wrapInt (fmtWidth f) (if sat then clampInt (intMin f) (intMax f) x else x)

/-- The exact number of an integer. -/
def xOfInt (x : Int) : XVal := .fin (decide (x < 0)) x.natAbs 1

/-- A floating pattern read in its format (R82, R83). -/
def floatVal (f : Fmt) (bits : Nat) : XVal :=
  let sh := floatShape f
  let m := bits % 2 ^ sh.mbits
  let e := (bits / 2 ^ sh.mbits) % 2 ^ sh.ebits
  let neg := decide ((bits / 2 ^ (sh.mbits + sh.ebits)) % 2 = 1)
  let mag := bits % 2 ^ (sh.mbits + sh.ebits)
  if f = .e4m3 ∧ mag = 0x7F then .nan
  else if f ≠ .e4m3 ∧ e = 2 ^ sh.ebits - 1 then (if m = 0 then .inf neg else .nan)
  else if e = 0 then .fin neg m (2 ^ (sh.bias - 1 + sh.mbits))
  else if sh.bias + sh.mbits ≤ e then .fin neg ((2 ^ sh.mbits + m) * 2 ^ (e - sh.bias - sh.mbits)) 1
  else .fin neg (2 ^ sh.mbits + m) (2 ^ (sh.bias + sh.mbits - e))

/-- The value of a pattern in any format. -/
def fmtVal (f : Fmt) (bits : Nat) : XVal := if fmtIsFloat f then floatVal f bits else xOfInt (intVal f bits)

/-- A ternary code 0b10, which decodes as 0 with poison (R81). -/
def fmtPoison (f : Fmt) (bits : Nat) : Bool := decide (f = .t2 ∧ bits % 4 = 2)

/-- The pattern of a zero, an infinity and the canonical NaN of a floating format. -/
def signBit (f : Fmt) (neg : Bool) : Nat := if neg then 2 ^ (fmtWidth f - 1) else 0
def nanOf (f : Fmt) : Nat := (floatShape f).canonNan
def infOf (f : Fmt) (neg : Bool) : Nat :=
  match (floatShape f).infinity with
  | some b => signBit f neg + b
  | none => nanOf f
def largestOf (f : Fmt) (neg : Bool) : Nat := signBit f neg + (floatShape f).largest

/-- ⌊log2 (n / d)⌋ as an integer, for n and d above 0. -/
def floorLog2 (n d : Nat) : Int :=
  let e : Int := (Nat.log2 n : Int) - (Nat.log2 d : Int)
  let below := if 0 ≤ e then decide (n < d * 2 ^ e.toNat) else decide (n * 2 ^ (-e).toNat < d)
  if below then e - 1 else e

/-- Whether a magnitude with integer part `q` and remainder `r` over `d` is rounded away from zero (R78). -/
def roundsUp (mode : Rnd) (neg : Bool) (q r d : Nat) : Bool :=
  match mode with
  | .rne => decide (d < 2 * r) || (decide (2 * r = d) && decide (q % 2 = 1))
  | .rz => false
  | .ru => !neg && decide (r ≠ 0)
  | .rd => neg && decide (r ≠ 0)

/-- A magnitude n / d rounded to an integer. -/
def roundNat (mode : Rnd) (neg : Bool) (n d : Nat) : Nat :=
  if roundsUp mode neg (n / d) (n % d) d then n / d + 1 else n / d

/-- What an overflow or an infinite result becomes (R84). -/
def overflowOf (f : Fmt) (mode : Rnd) (sat neg isInf : Bool) : Nat :=
  let towards := match mode with
    | .rne => true
    | .rz => false
    | .ru => !neg
    | .rd => neg
  if sat then largestOf f neg else if isInf || towards then infOf f neg else largestOf f neg

/-- `rnd(x, fmt, mode)` with the saturate setting (R84). -/
def rnd (f : Fmt) (mode : Rnd) (sat : Bool) (x : XVal) : Nat :=
  let sh := floatShape f
  match x with
  | .nan => nanOf f
  | .inf neg => overflowOf f mode sat neg true
  | .fin neg n d =>
    if n = 0 then signBit f neg else
    let emin : Int := 1 - (sh.bias : Int)
    let e := floorLog2 n d
    let k : Nat := (e - emin).toNat
    let u : Int := emin + k - sh.mbits
    let m := if 0 ≤ u then roundNat mode neg n (d * 2 ^ u.toNat) else roundNat mode neg (n * 2 ^ (-u).toNat) d
    let bits := k * 2 ^ sh.mbits + m
    if sh.largest < bits then overflowOf f mode sat neg false else signBit f neg + bits

/-- An exact number rounded to an integer, clamped to a range; NaN gives 0 (R85). -/
def xToInt (mode : Rnd) (lo hi : Int) (x : XVal) : Int :=
  match x with
  | .nan => 0
  | .inf neg => if neg then lo else hi
  | .fin neg n d => clampInt lo hi (if neg then -((roundNat mode neg n d : Nat) : Int) else (roundNat mode neg n d : Nat))

/-- Sign of an exact number (NaN counts as positive). -/
def xNeg (x : XVal) : Bool :=
  match x with
  | .nan => false
  | .inf neg => neg
  | .fin neg _ _ => neg

def xIsNan (x : XVal) : Bool := decide (x = .nan)
def xIsZero (x : XVal) : Bool :=
  match x with
  | .fin _ n _ => decide (n = 0)
  | _ => false
def xWithSign (neg : Bool) (x : XVal) : XVal :=
  match x with
  | .nan => .nan
  | .inf _ => .inf neg
  | .fin _ n d => .fin neg n d
def xNegate (x : XVal) : XVal := xWithSign (!xNeg x) x

/-- Exact sum; the sign of an exact zero sum is that of R86. -/
def xAdd (mode : Rnd) (x y : XVal) : XVal :=
  match x, y with
  | .nan, _ => .nan
  | _, .nan => .nan
  | .inf a, .inf b => if a = b then .inf a else .nan
  | .inf a, .fin _ _ _ => .inf a
  | .fin _ _ _, .inf b => .inf b
  | .fin a n d, .fin b m c =>
    if a = b then .fin a (n * c + m * d) (d * c)
    else if n * c = m * d then .fin (decide (mode = .rd)) 0 1
    else if m * d < n * c then .fin a (n * c - m * d) (d * c)
    else .fin b (m * d - n * c) (d * c)

/-- Exact product (R86, R186). -/
def xMul (x y : XVal) : XVal :=
  match x, y with
  | .nan, _ => .nan
  | _, .nan => .nan
  | .inf a, .inf b => .inf (a != b)
  | .inf a, .fin b n _ => if n = 0 then .nan else .inf (a != b)
  | .fin a n _, .inf b => if n = 0 then .nan else .inf (a != b)
  | .fin a n d, .fin b m c => .fin (a != b) (n * m) (d * c)

/-- Exact quotient (R186). -/
def xDiv (x y : XVal) : XVal :=
  match x, y with
  | .nan, _ => .nan
  | _, .nan => .nan
  | .inf _, .inf _ => .nan
  | .inf a, .fin b _ _ => .inf (a != b)
  | .fin a _ _, .inf b => .fin (a != b) 0 1
  | .fin a n d, .fin b m c =>
    if m = 0 then (if n = 0 then .nan else .inf (a != b)) else .fin (a != b) (n * c) (d * m)

/-- One Newton step towards the integer square root, from above. -/
def sqrtLoop (fuel n x : Nat) : Nat :=
  match fuel with
  | 0 => x
  | k + 1 => let y := (x + n / x) / 2; if y < x then sqrtLoop k n y else x

/-- ⌊√n⌋. -/
def isqrt (n : Nat) : Nat := if n = 0 then 0 else sqrtLoop 4096 n (2 ^ (Nat.log2 n / 2 + 1))

/-- √(n / d) as an exact number that rounds as the root does in every format: its 200 fraction bits and a sticky half unit.
Every rounding boundary of every format is a multiple of 2^-151 (R82), so none lies strictly between two multiples of 2^-200. -/
def rootFin (n d : Nat) : XVal :=
  let v := n * 2 ^ 400 / d
  let q := isqrt v
  if q * q = v ∧ n * 2 ^ 400 % d = 0 then .fin false q (2 ^ 200) else .fin false (2 * q + 1) (2 ^ 201)

/-- √x (R186). -/
def xSqrt (x : XVal) : XVal :=
  match x with
  | .nan => .nan
  | .inf neg => if neg then .nan else .inf false
  | .fin neg n d => if n = 0 then .fin neg 0 1 else if neg then .nan else rootFin n d

/-- 1 / √x (R286). -/
def xRsqrt (x : XVal) : XVal :=
  match x with
  | .nan => .nan
  | .inf neg => if neg then .nan else .fin false 0 1
  | .fin neg n d => if n = 0 then .inf neg else if neg then .nan else rootFin d n

/-- 1 / x (R286). -/
def xRcp (x : XVal) : XVal := xDiv (.fin false 1 1) x

/-- x times 2^y (R285, R286). -/
def xScale (x : XVal) (y : Int) : XVal :=
  match x with
  | .fin neg n d =>
    if n = 0 then .fin neg 0 1
    else if 0 ≤ y then .fin neg (n * 2 ^ (min y 2000).toNat) d else .fin neg n (d * 2 ^ (min (-y) 2000).toNat)
  | z => z

/-- x < y, x = y as values: +0 and -0 are equal, NaN is neither (R284). -/
def xLt (x y : XVal) : Bool :=
  match x, y with
  | .nan, _ => false
  | _, .nan => false
  | .inf a, .inf b => a && !b
  | .inf a, .fin _ _ _ => a
  | .fin _ _ _, .inf b => !b
  | .fin a n d, .fin b m c =>
    let l : Int := if a then -((n * c : Nat) : Int) else ((n * c : Nat) : Int)
    let r : Int := if b then -((m * d : Nat) : Int) else ((m * d : Nat) : Int)
    decide (l < r)
def xEq (x y : XVal) : Bool := !xIsNan x && !xIsNan y && !xLt x y && !xLt y x
def xLe (x y : XVal) : Bool := xLt x y || xEq x y

/-- The smaller and the larger of two patterns as `fmin` and `fmax` give them: one NaN gives the other input, two give the
canonical NaN, and -0 is the smaller zero (R186). -/
def floatMinMax (f : Fmt) (wantMax : Bool) (a b : Nat) : Nat :=
  let a := lowBits (fmtWidth f) a
  let b := lowBits (fmtWidth f) b
  let x := floatVal f a
  let y := floatVal f b
  if xIsNan x then (if xIsNan y then nanOf f else b)
  else if xIsNan y then a
  else
    let aFirst := xLt x y || (xEq x y && xNeg x)
    if wantMax then (if aFirst then b else a) else (if aFirst then a else b)

/-- A pattern with a NaN made canonical. -/
def canonNan (f : Fmt) (bits : Nat) : Nat :=
  if fmtIsFloat f && xIsNan (floatVal f bits) then nanOf f else lowBits (fmtWidth f) bits

/-- `fabs` and `fneg` on patterns; NaN gives the canonical NaN (R186). -/
def floatAbs (f : Fmt) (bits : Nat) : Nat :=
  if xIsNan (floatVal f bits) then nanOf f else lowBits (fmtWidth f - 1) bits
def floatNeg (f : Fmt) (bits : Nat) : Nat :=
  if xIsNan (floatVal f bits) then nanOf f
  else lowBits (fmtWidth f - 1) bits + (if xNeg (floatVal f bits) then 0 else signBit f true)

/-- Whether a floating conversion is exact by R85: from a format to a wider one that holds all its values. -/
def widensExactly (src dst : Fmt) : Bool :=
  match src, dst with
  | .e4m3, .f16 | .e4m3, .bf16 | .e4m3, .f32 => true
  | .e5m2, .f16 | .e5m2, .bf16 | .e5m2, .f32 => true
  | .f16, .f32 | .bf16, .f32 => true
  | _, _ => false

/-- The ternary code of -1, 0 or +1 (R81). -/
def t2Code (x : Int) : Nat := if x < 0 then 3 else if 0 < x then 1 else 0

/-- Conversion between formats (R85, R184, R288): the pattern in `dst`. Equal formats leave the value unchanged but for a NaN. -/
def convert (src dst : Fmt) (mode : Rnd) (sat : Bool) (bits : Nat) : Nat :=
  let b := lowBits (fmtWidth src) bits
  if src = dst then (if fmtPoison src b then 0 else canonNan src b)
  else if fmtIsFloat dst then
    (if fmtIsFloat src then rnd dst mode (sat && !widensExactly src dst) (floatVal src b)
     else rnd dst mode sat (xOfInt (intVal src b)))
  else if dst = .t2 then t2Code (xToInt mode (-1) 1 (fmtVal src b))
  else if fmtIsFloat src then wrapInt (fmtWidth dst) (xToInt mode (intMin dst) (intMax dst) (floatVal src b))
  else intResult dst sat (intVal src b)

/-- The filling of R79: copies of the sign above `.i8` and `.i16`, zeros above every other format. -/
def fillTo (w : Nat) (f : Fmt) (bits : Nat) : BitVec w :=
  if f = .i8 ∨ f = .i16 then BitVec.ofInt w (signedOf (fmtWidth f) bits) else BitVec.ofNat w (lowBits (fmtWidth f) bits)
def fill32 (f : Fmt) (bits : Nat) : BitVec 32 := fillTo 32 f bits
def fill64 (f : Fmt) (bits : Nat) : BitVec 64 := fillTo 64 f bits

/-- Number of zero bits above the highest set bit of `w` bits, below the lowest, and of set bits; the bits reversed. -/
def clzNat (w x : Nat) : Nat := if lowBits w x = 0 then w else w - 1 - Nat.log2 (lowBits w x)
def ctzNat (w x : Nat) : Nat := ((List.range w).find? (fun i => x.testBit i)).getD w
def popNat (w x : Nat) : Nat := ((List.range w).filter (fun i => x.testBit i)).length
def revNat (w x : Nat) : Nat := (List.range w).foldl (fun a i => if x.testBit i then a + 2 ^ (w - 1 - i) else a) 0

/-- `avg`: (x + y) / 2 rounded in the mode (R282). -/
def avgInt (mode : Rnd) (s : Int) : Int :=
  let m := roundNat mode (decide (s < 0)) s.natAbs 2
  if s < 0 then -(m : Int) else (m : Int)

/-- The integer arithmetic of opcodes 0x01 to 0x0C (R282) on two patterns in `f`; `none` for another opcode. -/
def intArith (op : Nat) (f : Fmt) (mode : Rnd) (sat : Bool) (a b : Nat) : Option Nat :=
  let w := fmtWidth f
  let x := intVal f a
  let y := intVal f b
  match op with
  | 0x01 => some (intResult f sat (x + y))
  | 0x02 => some (intResult f sat (x - y))
  | 0x03 => some (intResult f sat (x * y))
  | 0x04 => some (wrapInt w (Int.fdiv (x * y) ((2 ^ w : Nat) : Int)))
  | 0x05 => some (wrapInt w (if x ≤ y then x else y))
  | 0x06 => some (wrapInt w (if x ≤ y then y else x))
  | 0x07 => some (intResult f sat (x.natAbs : Nat))
  | 0x08 => some (intResult f sat (-x))
  | 0x09 => some (wrapInt w (avgInt mode (x + y)))
  | 0x0A => some (intResult f sat ((x - y).natAbs : Nat))
  | 0x0B => some (if y = 0 then 2 ^ w - 1 else intResult f sat (Int.tdiv x y))
  | 0x0C => some (if y = 0 then lowBits w a else wrapInt w (Int.tmod x y))
  | _ => none

/-- Bitwise operations and shifts, opcodes 0x10 to 0x1B (R283). -/
def bitOps (op : Nat) (f : Fmt) (a b : Nat) : Option Nat :=
  let w := fmtWidth f
  let x := lowBits w a
  let y := lowBits w b
  let n := b % 256
  match op with
  | 0x10 => some (x &&& y)
  | 0x11 => some (x ||| y)
  | 0x12 => some (x ^^^ y)
  | 0x13 => some (2 ^ w - 1 - x)
  | 0x14 => some (if w ≤ n then 0 else lowBits w (x * 2 ^ n))
  | 0x15 => some (if w ≤ n then 0 else x / 2 ^ n)
  | 0x16 => some (wrapInt w (Int.fdiv (signedOf w x) ((2 ^ min n (w - 1) : Nat) : Int)))
  | 0x17 => some (lowBits w (x * 2 ^ (n % w)) ||| x / 2 ^ (w - n % w))
  | 0x18 => some (clzNat w x)
  | 0x19 => some (ctzNat w x)
  | 0x1A => some (popNat w x)
  | 0x1B => some (revNat w x)
  | _ => none

/-- Comparisons, opcodes 0x20 to 0x26 (R284). -/
def compareOps (op : Nat) (f : Fmt) (a b : Nat) : Option Bool :=
  let x := fmtVal f a
  let y := fmtVal f b
  match op with
  | 0x20 => some (xEq x y)
  | 0x21 => some (!xEq x y)
  | 0x22 => some (xLt x y)
  | 0x23 => some (xLe x y)
  | 0x24 => some (xLt y x)
  | 0x25 => some (xLe y x)
  | 0x26 => some (xIsNan x)
  | _ => none

/-- Floating arithmetic, opcodes 0x30 to 0x3B (R285, R286); `b` is read as `.i32` by `fscale`. -/
def floatOps (op : Nat) (f : Fmt) (mode : Rnd) (sat : Bool) (a b : Nat) : Option Nat :=
  let x := floatVal f a
  let y := floatVal f b
  match op with
  | 0x30 => some (rnd f mode sat (xAdd mode x y))
  | 0x31 => some (rnd f mode sat (xAdd mode x (xNegate y)))
  | 0x32 => some (rnd f mode sat (xMul x y))
  | 0x33 => some (rnd f mode sat (xDiv x y))
  | 0x34 => some (floatMinMax f false a b)
  | 0x35 => some (floatMinMax f true a b)
  | 0x36 => some (floatAbs f a)
  | 0x37 => some (floatNeg f a)
  | 0x38 => some (rnd f mode sat (xSqrt x))
  | 0x39 => some (rnd f mode sat (xRcp x))
  | 0x3A => some (rnd f mode sat (xRsqrt x))
  | 0x3B => some (rnd f mode sat (xScale x (signedOf 32 b)))
  | _ => none

/-- `fround`: an integral value in the format, a zero taking the sign of x (R288). -/
def floatRound (f : Fmt) (mode : Rnd) (bits : Nat) : Nat :=
  match floatVal f bits with
  | .fin neg n d => rnd f .rz false (.fin neg (roundNat mode neg n d) 1)
  | x => rnd f .rz false x

/-- `fsign`: -1 or +1 in the format; zero is kept with its sign (R288). -/
def signOp (f : Fmt) (bits : Nat) : Nat :=
  if fmtIsFloat f then
    match floatVal f bits with
    | .nan => nanOf f
    | .inf neg => rnd f .rne false (.fin neg 1 1)
    | .fin neg n _ => if n = 0 then signBit f neg else rnd f .rne false (.fin neg 1 1)
  else wrapInt (fmtWidth f) (if intVal f bits < 0 then -1 else if intVal f bits = 0 then 0 else 1)

/-- Whether a pattern is zero in the sense of R101. -/
def isZeroVal (f : Fmt) (bits : Nat) : Bool :=
  if f = .t2 then decide (bits % 4 = 0) else xIsZero (fmtVal f bits)

/-- The total order of R258 on floating values: NaN above +infinity, -0 below +0. -/
def orderedLe (x y : XVal) : Bool :=
  if xIsNan y then true
  else if xIsNan x then false
  else xLt x y || (xEq x y && (!xIsZero x || xNeg x || !xNeg y))

end Sys2Proof.Machine
end

