-- ==== Sys2Proof/Machine/Special.lean ====
section
/-! DEFINITION. The special functions of R287, rounded correctly from enclosures of their exact values.

An enclosure is a pair of integers lo ≤ 2^900 f(x) ≤ hi. Where both ends round to one pattern, that is the pattern of f(x).
Every rounding boundary of every format is a multiple of 2^-151 (R82), so a result that is known to lie strictly between two
neighbouring multiples of 2^-151 may be replaced by any number between them: the *surrogates* 2^-160 away from a limit. -/

namespace Sys2Proof.Machine

/-- Fraction bits of an enclosure. -/
def encBits : Nat := 900

/-- An enclosure, scaled by 2^encBits. -/
structure Enc where
  lo : Int
  hi : Int
  deriving DecidableEq, Repr

def encOne : Int := ((2 ^ encBits : Nat) : Int)
def encRat (neg : Bool) (n d : Nat) : Enc :=
  let q : Int := ((n * 2 ^ encBits / d : Nat) : Int)
  let q1 : Int := q + (if n * 2 ^ encBits % d = 0 then 0 else 1)
  if neg then ⟨-q1, -q⟩ else ⟨q, q1⟩
def encAdd (a b : Enc) : Enc := ⟨a.lo + b.lo, a.hi + b.hi⟩
def encNeg (a : Enc) : Enc := ⟨-a.hi, -a.lo⟩
def encSub (a b : Enc) : Enc := encAdd a (encNeg b)
def floorDiv (a b : Int) : Int := Int.fdiv a b
def ceilDiv (a b : Int) : Int := -(Int.fdiv (-a) b)
/-- Product of two enclosures. -/
def encMul (a b : Enc) : Enc :=
  let p1 := a.lo * b.lo
  let p2 := a.lo * b.hi
  let p3 := a.hi * b.lo
  let p4 := a.hi * b.hi
  ⟨floorDiv (min (min p1 p2) (min p3 p4)) encOne, ceilDiv (max (max p1 p2) (max p3 p4)) encOne⟩
/-- Quotient by an enclosure whose lower end is above 0. -/
def encDivPos (a b : Enc) : Enc :=
  ⟨floorDiv (a.lo * encOne) (if a.lo < 0 then b.lo else b.hi), ceilDiv (a.hi * encOne) (if a.hi < 0 then b.hi else b.lo)⟩
def encSqrt (a : Enc) : Enc :=
  ⟨(isqrt (a.lo * encOne).toNat : Nat), (isqrt (a.hi * encOne).toNat + 1 : Nat)⟩

/-- Σ of terms t, t·n/(d·k), … for k = first, first + step, …: each term times n/(d·k). Lower and upper sums with outward
rounding; the remainder after the last term is at most that term, as every later ratio is at most one half. -/
def seriesLoop (fuel : Nat) (n d step k : Nat) (tlo thi slo shi : Nat) : Nat × Nat :=
  match fuel with
  | 0 => (slo, shi + 2 * thi + 2)
  | f + 1 =>
    if thi = 0 then (slo, shi + 2) else
    let tlo' := tlo * n / (d * k)
    let thi' := thi * n / (d * k) + 1
    if thi' ≤ 1 then (slo, shi + 4) else
    seriesLoop f n d step (k + step) tlo' thi' (slo + tlo') (shi + thi')

/-- e^(n/d) for 0 ≤ n/d ≤ 1/2. -/
def expSmall (n d : Nat) : Enc :=
  let one := 2 ^ encBits
  let r := seriesLoop 400 n d 1 1 one one one one
  ⟨(r.1 : Nat), (r.2 : Nat)⟩

def squareTimes (k : Nat) (a : Enc) : Enc :=
  match k with
  | 0 => a
  | j + 1 => squareTimes j (encMul a a)

/-- e^x for a rational |x| at most 300: 10 halvings, then 10 squarings. -/
def expRat (neg : Bool) (n d : Nat) : Enc :=
  let e := squareTimes 10 (expSmall n (d * 1024))
  if neg then encDivPos ⟨encOne, encOne⟩ e else e

/-- Σ z^(2i+1)/(2i+1) for 0 ≤ z < 1/2: atanh z, or with alternating signs atan z. -/
def atanLoop (fuel : Nat) (alt : Bool) (zz : Enc) (p : Enc) (k : Nat) (minus : Bool) (s : Enc) : Enc :=
  match fuel with
  | 0 => ⟨s.lo - p.hi * 2 - 2, s.hi + p.hi * 2 + 2⟩
  | f + 1 =>
    let t : Enc := ⟨floorDiv p.lo k, ceilDiv p.hi k⟩
    let s' := if minus then encSub s t else encAdd s t
    if p.hi ≤ 2 then ⟨s'.lo - 8, s'.hi + 8⟩ else
    atanLoop f alt zz (encMul p zz) (k + 2) (if alt then !minus else false) s'

def atanhEnc (z : Enc) : Enc := atanLoop 500 false (encMul z z) z 1 false ⟨0, 0⟩
def atanRecip (m : Nat) : Enc :=
  let z := encRat false 1 m
  atanLoop 500 true (encMul z z) z 1 false ⟨0, 0⟩
def scaleEnc (k : Int) (a : Enc) : Enc := if 0 ≤ k then ⟨k * a.lo, k * a.hi⟩ else ⟨k * a.hi, k * a.lo⟩

/-- ln 2 and π (Machin). -/
def ln2Enc : Enc := scaleEnc 2 (atanhEnc (encRat false 1 3))
def piEnc : Enc := encSub (scaleEnc 16 (atanRecip 5)) (scaleEnc 4 (atanRecip 239))

/-- ln v for an enclosure v above 0: v = 2^e u with u near [1, 2), ln u = 2 atanh ((u - 1)/(u + 1)). -/
def lnEnc (v : Enc) : Enc :=
  let e : Int := (Nat.log2 v.lo.toNat : Int) - (encBits : Int)
  let u : Enc := if 0 ≤ e then ⟨floorDiv v.lo ((2 ^ e.toNat : Nat) : Int), ceilDiv v.hi ((2 ^ e.toNat : Nat) : Int)⟩
    else ⟨v.lo * ((2 ^ (-e).toNat : Nat) : Int), v.hi * ((2 ^ (-e).toNat : Nat) : Int)⟩
  let one : Enc := ⟨encOne, encOne⟩
  let z := encDivPos (encSub u one) (encAdd u one)
  encAdd (scaleEnc e ln2Enc) (scaleEnc 2 (atanhEnc z))

/-- Σ x^(2i+1) c^i / (2i+1)!! for x > 0, times e^(-x²·c/2): with c = 2 the sum of erf x, with c = 1 that of erf (x/√2). -/
def erfSum (n d c : Nat) : Enc :=
  let x := encRat false n d
  let x0 := x.lo.toNat
  let x1 := x.hi.toNat
  let r := seriesLoop 3000 (c * n * n) (d * d) 2 3 x0 x1 x0 x1
  encMul (expRat true (n * n * c) (2 * d * d)) ⟨(r.1 : Nat), (r.2 : Nat)⟩

/-- erf (n/d), and erf (n/d/√2), for 0 < n/d ≤ 16. -/
def erfEnc (n d : Nat) : Enc := encMul (encDivPos (encRat false 2 1) (encSqrt piEnc)) (erfSum n d 2)
def erfRootHalfEnc (n d : Nat) : Enc := encMul (encSqrt (encDivPos (encRat false 2 1) piEnc)) (erfSum n d 1)

/-- What is known of f(x): an exact number, or an enclosure. -/
inductive Known where
  | exact (x : XVal)
  | within (e : Enc)
  deriving DecidableEq, Repr

/-- n / d plus or minus 2^-160: a surrogate. -/
def nudge (neg : Bool) (n d : Nat) (up : Bool) : XVal :=
  .fin neg (if up then n * 2 ^ 160 + d else n * 2 ^ 160 - d) (d * 2 ^ 160)

/-- n/d ≥ k, and n/d < 2^-k. -/
def atLeast (n d k : Nat) : Bool := decide (k * d ≤ n)
def belowPow (n d k : Nat) : Bool := decide (n * 2 ^ k < d)

/-- 2^x. -/
def exp2Known (x : XVal) : Known :=
  match x with
  | .nan => .exact .nan
  | .inf neg => .exact (if neg then .fin false 0 1 else .inf false)
  | .fin neg n d =>
    if n % d = 0 then .exact (xScale (.fin false 1 1) (if neg then -((n / d : Nat) : Int) else ((n / d : Nat) : Int)))
    else if atLeast n d 200 then .exact (if neg then .fin false 1 (2 ^ 160) else .fin false (2 ^ 2000) 1)
    else
      let f := n % d
      let one := 2 ^ encBits
      let lo := seriesLoop 400 (floorDiv (ln2Enc.lo * f) (d * 1024)).toNat one 1 1 one one one one
      let hi := seriesLoop 400 (ceilDiv (ln2Enc.hi * f) (d * 1024)).toNat one 1 1 one one one one
      let e0 := squareTimes 10 ⟨(lo.1 : Nat), (hi.2 : Nat)⟩
      let e := encMul e0 (encRat false (2 ^ (n / d)) 1)
      .within (if neg then encDivPos ⟨encOne, encOne⟩ e else e)

/-- Whether n/d is a power of two, and its exponent. -/
def exactLog2 (n d : Nat) : Option Int :=
  let e := floorLog2 n d
  if (if 0 ≤ e then n = d * 2 ^ e.toNat else n * 2 ^ (-e).toNat = d) then some e else none

/-- log2 x. -/
def log2Known (x : XVal) : Known :=
  match x with
  | .nan => .exact .nan
  | .inf neg => .exact (if neg then .nan else .inf false)
  | .fin neg n d =>
    if n = 0 then .exact (.inf true)
    else if neg then .exact .nan
    else match exactLog2 n d with
      | some e => .exact (xOfInt e)
      | none =>
        let a := lnEnc (encRat false n d)
        .within (encDivPos a ln2Enc)

/-- tanh x. -/
def tanhKnown (x : XVal) : Known :=
  match x with
  | .nan => .exact .nan
  | .inf neg => .exact (.fin neg 1 1)
  | .fin neg n d =>
    if n = 0 then .exact (.fin neg 0 1)
    else if atLeast n d 64 then .exact (nudge neg 1 1 false)
    else if belowPow n d 60 then .exact (nudge neg n d false)
    else
      let e := expRat false (2 * n) d
      let one : Enc := ⟨encOne, encOne⟩
      let t := encDivPos (encSub e one) (encAdd e one)
      .within (if neg then encNeg t else t)

/-- 1 / (1 + e^-x) as an enclosure, for |x| at most 128. -/
def sigmEnc (neg : Bool) (n d : Nat) : Enc :=
  let one : Enc := ⟨encOne, encOne⟩
  encDivPos one (encAdd one (expRat (!neg) n d))

def sigmKnown (x : XVal) : Known :=
  match x with
  | .nan => .exact .nan
  | .inf neg => .exact (if neg then .fin false 0 1 else .fin false 1 1)
  | .fin neg n d =>
    if n = 0 then .exact (.fin false 1 2)
    else if atLeast n d 128 then .exact (if neg then .fin false 1 (2 ^ 160) else nudge false 1 1 false)
    else .within (sigmEnc neg n d)

/-- x (1 + erf (x/√2)) / 2. -/
def geluKnown (x : XVal) : Known :=
  match x with
  | .nan => .exact .nan
  | .inf neg => .exact (if neg then .fin true 0 1 else .inf false)
  | .fin neg n d =>
    if n = 0 then .exact (.fin neg 0 1)
    else if atLeast n d 16 then .exact (if neg then .fin true 1 (2 ^ 160) else nudge false n d false)
    else if belowPow n d 80 then .exact (nudge neg n (2 * d) (!neg))
    else
      let one : Enc := ⟨encOne, encOne⟩
      let e := erfRootHalfEnc n d
      .within (encMul (encRat neg n (2 * d)) (if neg then encSub one e else encAdd one e))

/-- x / (1 + e^-x). -/
def siluKnown (x : XVal) : Known :=
  match x with
  | .nan => .exact .nan
  | .inf neg => .exact (if neg then .fin true 0 1 else .inf false)
  | .fin neg n d =>
    if n = 0 then .exact (.fin neg 0 1)
    else if atLeast n d 128 then .exact (if neg then .fin true 1 (2 ^ 160) else nudge false n d false)
    else if belowPow n d 80 then .exact (nudge neg n (2 * d) (!neg))
    else .within (encMul (encRat neg n d) (sigmEnc neg n d))

/-- erf x. -/
def erfKnown (x : XVal) : Known :=
  match x with
  | .nan => .exact .nan
  | .inf neg => .exact (.fin neg 1 1)
  | .fin neg n d =>
    if n = 0 then .exact (.fin neg 0 1)
    else if atLeast n d 16 then .exact (nudge neg 1 1 false)
    else .within (if neg then encNeg (erfEnc n d) else erfEnc n d)

/-- ln (1 + e^x). -/
def softpKnown (x : XVal) : Known :=
  match x with
  | .nan => .exact .nan
  | .inf neg => .exact (if neg then .fin false 0 1 else .inf false)
  | .fin neg n d =>
    if n = 0 then .within ln2Enc
    else if atLeast n d 128 then .exact (if neg then .fin false 1 (2 ^ 160) else nudge false n d true)
    else .within (lnEnc (encAdd ⟨encOne, encOne⟩ (expRat neg n d)))

/-- The special function of an opcode, 0x40 to 0x47. -/
def specialKnown (op : Nat) (x : XVal) : Option Known :=
  match op with
  | 0x40 => some (exp2Known x)
  | 0x41 => some (log2Known x)
  | 0x42 => some (tanhKnown x)
  | 0x43 => some (sigmKnown x)
  | 0x44 => some (geluKnown x)
  | 0x45 => some (siluKnown x)
  | 0x46 => some (erfKnown x)
  | 0x47 => some (softpKnown x)
  | _ => none

/-- An end of an enclosure as an exact number; an end at 0 stands for a number strictly between 0 and 2^-151. -/
def encEnd (x : Int) : XVal :=
  if x = 0 then .fin false 1 (2 ^ 160) else .fin (decide (x < 0)) x.natAbs (2 ^ encBits)

/-- rnd(f(x), fmt, mode) with the saturate setting (R287). -/
def specialOps (op : Nat) (f : Fmt) (code : Nat) (mode : Rnd) (mcode : Nat) (sat : Bool) (a : Nat) : Option Nat :=
  match specialKnown op (floatVal f a) with
  | none => none
  | some (.exact x) => some (rnd f mode sat x)
  | some (.within e) =>
    let l := rnd f mode sat (encEnd e.lo)
    let h := rnd f mode sat (encEnd e.hi)
    some (if l = h then l else Config.specialFallback op code mcode a % 2 ^ fmtWidth f)

end Sys2Proof.Machine
end

