-- ==== Sys2Proof/Machine/Alu.lean ====
section
/-! DEFINITION. The result of one element operation on operand bits, which elements and vector pipes share (R278 to R288, R234). -/

namespace Sys2Proof.Machine

/-- The families of element opcodes (R166). -/
inductive Family where
  | integer | bitwise | compare | floating | special | conversion | accumulation | memory
  deriving DecidableEq, Repr

def familyOf (op : Nat) : Option Family :=
  if 0x01 ≤ op ∧ op ≤ 0x0C then some .integer
  else if 0x10 ≤ op ∧ op ≤ 0x1B then some .bitwise
  else if 0x20 ≤ op ∧ op ≤ 0x27 then some .compare
  else if 0x30 ≤ op ∧ op ≤ 0x3B then some .floating
  else if 0x40 ≤ op ∧ op ≤ 0x47 then some .special
  else if 0x48 ≤ op ∧ op ≤ 0x4D then some .conversion
  else if 0x50 ≤ op ∧ op ≤ 0x55 then some .accumulation
  else if 0x80 ≤ op ∧ op ≤ 0x8D then some .memory
  else none

/-- Opcodes of one input (R282 to R288). -/
def oneInput (op : Nat) : Bool :=
  op ∈ [0x07, 0x08, 0x13, 0x18, 0x19, 0x1A, 0x1B, 0x26, 0x27, 0x36, 0x37, 0x38, 0x39, 0x3A, 0x40, 0x41, 0x42, 0x43, 0x44,
    0x45, 0x46, 0x47, 0x48, 0x4A, 0x4B, 0x4C, 0x4D]

/-- The opcodes whose result saturates and those that round (R282, R285, R288). -/
def usesSat (op : Nat) : Bool :=
  op ∈ [0x01, 0x02, 0x03, 0x07, 0x08, 0x0A, 0x0B, 0x30, 0x31, 0x32, 0x33, 0x38, 0x39, 0x3A, 0x3B, 0x40, 0x41, 0x42, 0x43,
    0x44, 0x45, 0x46, 0x47, 0x48, 0x50, 0x51]
def usesRnd (op : Nat) : Bool :=
  op ∈ [0x09, 0x30, 0x31, 0x32, 0x33, 0x38, 0x39, 0x3A, 0x3B, 0x40, 0x41, 0x42, 0x43, 0x44, 0x45, 0x46, 0x47, 0x48, 0x4C, 0x51]

/-- The formats an opcode allows (R279, R288, R289). -/
def fmtAllowed (op fc : Nat) : Bool :=
  match familyOf op with
  | some .integer | some .bitwise => decide (fc ≤ 5)
  | some .compare => decide (fc ≤ 11)
  | some .floating | some .special => decide (6 ≤ fc ∧ fc ≤ 10)
  | some .conversion =>
    if op = 0x48 then decide (fc ≤ 11)
    else if op = 0x4C then decide (6 ≤ fc ∧ fc ≤ 10)
    else if op = 0x4D then decide (fc ≤ 2 ∨ (6 ≤ fc ∧ fc ≤ 10))
    else fc ∈ [0, 1, 3, 4, 6, 7, 9, 10]
  | some .accumulation =>
    if op = 0x50 ∨ op = 0x52 then decide (fc ≤ 5) else if op = 0x55 then decide (fc ≤ 11) else decide (6 ≤ fc ∧ fc ≤ 10)
  | _ => false

/-- An operation's result: 32 data bits, filled (R79), and whether an operand's ternary code 0b10 poisons it (R81). -/
structure AluOut where
  data : BitVec 32
  poison : Bool
  deriving DecidableEq, Repr

/-- Element opcodes 0x01 to 0x4D on the data bits of their operands (R278); `none` for a format code or opcode that is not
allowed. `k` is the destination format of `cvt`. -/
def aluResult (op fc rc : Nat) (sat : Bool) (k : Nat) (a b : BitVec 32) : Option AluOut :=
  match fmtOfCode fc with
  | none => none
  | some f =>
    if !fmtAllowed op fc then none else
    let x := lowBits (fmtWidth f) a.toNat
    let y := lowBits (fmtWidth f) b.toNat
    let mode := rndOfCode rc
    let plain (g : Fmt) (r : Option Nat) (p : Bool) : Option AluOut := r.map (fun v => ⟨fill32 g v, p⟩)
    match familyOf op with
    | some .integer => plain f (intArith op f mode sat x y) false
    | some .bitwise => plain f (bitOps op f x b.toNat) false
    | some .compare =>
      if op = 0x27 then plain f (some (if fmtPoison f x then 0 else canonNan f x)) (fmtPoison f x)
      else plain .i32 ((compareOps op f x y).map (fun c => if c then 1 else 0))
        (fmtPoison f x || (fmtPoison f y && !oneInput op))
    | some .floating => plain f (floatOps op f mode sat x (if op = 0x3B then b.toNat else y)) false
    | some .special => plain f (specialOps op f fc mode rc sat x) false
    | some .conversion =>
      match op with
      | 0x48 => match fmtOfCode k with
        | none => none
        | some g => plain g (some (convert f g mode sat x)) (fmtPoison f x)
      | 0x49 => some ⟨BitVec.ofNat 32 (y * 2 ^ fmtWidth f + x), false⟩
      | 0x4A => plain f (some (canonNan f x)) false
      | 0x4B => plain f (some (canonNan f (lowBits (fmtWidth f) (a.toNat / 2 ^ fmtWidth f)))) false
      | 0x4C => plain f (some (floatRound f mode x)) false
      | _ => plain f (some (signOp f x)) false
    | _ => none

end Sys2Proof.Machine
end

