-- ==== Sys2Proof/Machine/Accum.lean ====
section
/-! DEFINITION. Exact accumulation: LA320 entries and integer entries (R96 to R101). -/

namespace Sys2Proof.Machine

/-- An LA320 entry (R97): 320 bits. -/
abbrev La := BitVec 320

/-- A product as the accumulator sees it: an exact number, and whether an operand was poisoned (R96). -/
structure Product where
  val : XVal
  poison : Bool
  deriving DecidableEq, Repr

/-- The 312-bit sum, ext above val, in units of 2^-160 (R97). -/
def laSum (acc : La) : Int := ((acc.extractLsb' 312 8) ++ (acc.extractLsb' 0 304) : BitVec 312).toInt

/-- The entry with another sum, its flags kept. -/
def laWithSum (acc : La) (s : Int) : La :=
  let b := BitVec.ofInt 312 s
  (b.extractLsb' 304 8) ++ (acc.extractLsb' 304 8) ++ (b.extractLsb' 0 304)

/-- The entry with its reserved bit 311 zero, as the engines write it (R8, R97). -/
def laClean (acc : La) : La := acc &&& ~~~(1#320 <<< 311)

/-- The entry with flag bit `k` set. -/
def laFlag (acc : La) (k : Nat) : La := acc ||| (1#320 <<< k)

/-- `la_add` (R97). -/
def laAdd (old : La) (p : Product) : La :=
  let acc := laClean old
  if p.poison then laFlag acc 310 else
  match p.val with
  | .nan => laFlag acc 307
  | .inf neg => laFlag acc (if neg then 306 else 305)
  | .fin neg n d =>
    if 2 ^ 143 * d ≤ n then laFlag acc (if neg then 309 else 308)
    else
      let q : Nat := n * 2 ^ 160 / d
      let acc' := if n * 2 ^ 160 % d = 0 then acc else laFlag acc 304
      laWithSum acc' (laSum acc + (if neg then -((q : Nat) : Int) else ((q : Nat) : Int)))

/-- The number that `la_drain` rounds (R98). -/
def laValue (acc : La) : XVal :=
  if acc.getLsbD 307 || (acc.getLsbD 305 && acc.getLsbD 306) then .nan
  else if acc.getLsbD 305 then .inf false
  else if acc.getLsbD 306 then .inf true
  else if acc.getLsbD 308 && acc.getLsbD 309 then .nan
  else if acc.getLsbD 308 then .fin false (2 ^ 1024) 1
  else if acc.getLsbD 309 then .fin true (2 ^ 1024) 1
  else .fin (decide (laSum acc < 0)) (laSum acc).natAbs (2 ^ 160)

/-- `la_drain` (R98): the pattern; a zero sum gives +0. -/
def laDrain (acc : La) (f : Fmt) (mode : Rnd) (sat : Bool) : Nat :=
  match laValue acc with
  | .fin neg n d => if n = 0 then 0 else rnd f mode sat (.fin neg n d)
  | x => rnd f mode sat x

/-- The poison flag of an entry. -/
def laPoison (acc : La) : Bool := acc.getLsbD 310

/-- One k-step into a 32-bit integer entry: the new entry and whether it saturated (R100). -/
def intStep (acc : BitVec 32) (sum : Int) : BitVec 32 × Bool :=
  let s := acc.toInt + sum
  if 2147483647 < s then (0x7FFFFFFF#32, true)
  else if s < -2147483648 then (0x80000000#32, true)
  else (BitVec.ofInt 32 s, false)

end Sys2Proof.Machine
end

