-- ==== Sys2Proof/Machine/Store.lean ====
section
/-! DEFINITION. Tables, sets and the byte store as plain data.

A table is a list of key and value pairs with strictly rising keys. A set is a list of strictly rising numbers. The byte store
is a table of bytes that lists no zero byte: every unlisted cell reads as zero (R121, R378; log 3). Equal stores are equal lists. -/

namespace Sys2Proof.Machine

/-- A table from numbers, keys strictly rising. -/
abbrev Tbl (α : Type) := List (Nat × α)

/-- The value at a key. -/
def tblGet {α : Type} (k : Nat) : Tbl α → Option α
  | [] => none
  | (j, v) :: t => if j = k then some v else if k < j then none else tblGet k t

/-- The table with a value at a key. -/
def tblSet {α : Type} (k : Nat) (v : α) : Tbl α → Tbl α
  | [] => [(k, v)]
  | (j, u) :: t => if j = k then (k, v) :: t else if k < j then (k, v) :: (j, u) :: t else (j, u) :: tblSet k v t

/-- The table without a key. -/
def tblDel {α : Type} (k : Nat) : Tbl α → Tbl α
  | [] => []
  | (j, u) :: t => if j = k then t else if k < j then (j, u) :: t else (j, u) :: tblDel k t

/-- The table with the value at a key changed, where there is one. -/
def tblMod {α : Type} (k : Nat) (f : α → α) (t : Tbl α) : Tbl α :=
  match tblGet k t with
  | some v => tblSet k (f v) t
  | none => t

/-- Every value changed. -/
def tblMap {α : Type} (f : Nat → α → α) (t : Tbl α) : Tbl α := t.map (fun p => (p.1, f p.1 p.2))

/-- Keys strictly rising from a lower bound. -/
def keysAbove {α : Type} (lo : Nat) : Tbl α → Bool
  | [] => true
  | (j, _) :: t => decide (lo ≤ j) && keysAbove (j + 1) t

/-- The lowest number from `lo` upward, below `hi`, that is no key of the table. -/
def tblFree {α : Type} (lo hi : Nat) : Tbl α → Option Nat
  | [] => if lo < hi then some lo else none
  | (j, _) :: t => if lo < j then (if lo < hi then some lo else none) else tblFree (if j = lo then lo + 1 else lo) hi t

/-- A set of numbers, strictly rising. -/
abbrev NatSet := List Nat

def setHas (k : Nat) : NatSet → Bool
  | [] => false
  | j :: t => if j = k then true else if k < j then false else setHas k t
def setAdd (k : Nat) : NatSet → NatSet
  | [] => [k]
  | j :: t => if j = k then j :: t else if k < j then k :: j :: t else j :: setAdd k t
def setDel (k : Nat) : NatSet → NatSet
  | [] => []
  | j :: t => if j = k then t else if k < j then j :: t else j :: setDel k t
/-- The set without the numbers from `lo` up to but not including `hi`. -/
def setDelRange (lo hi : Nat) (t : NatSet) : NatSet := t.filter (fun j => j < lo || hi ≤ j)
def setPut (on : Bool) (k : Nat) (t : NatSet) : NatSet := if on then setAdd k t else setDel k t
def risingFrom (lo : Nat) : NatSet → Bool
  | [] => true
  | j :: t => decide (lo ≤ j) && risingFrom (j + 1) t

/-- The byte store: cells with strictly rising addresses, no zero byte listed. -/
abbrev Cells := List Host.Cell

/-- The byte of a cell; an unlisted cell reads as zero. -/
def cellGet (a : Nat) : Cells → Byte
  | [] => 0
  | (j, v) :: t => if j = a then v else if a < j then 0 else cellGet a t

/-- The entries of a store below a cell, and the others. -/
def cellsBelow (a : Nat) (c : Cells) : Cells := c.takeWhile (fun p => decide (p.1 < a))
def cellsFrom (a : Nat) (c : Cells) : Cells := c.dropWhile (fun p => decide (p.1 < a))

/-- The entries after one that stands at a cell. -/
def skipCell (a : Nat) : Cells → Cells
  | [] => []
  | (j, v) :: t => if j = a then t else (j, v) :: t

/-- `n` bytes of a store whose entries stand at `a` or above. -/
def cellsReadFrom (c : Cells) (a : Nat) : Nat → List Byte
  | 0 => []
  | n + 1 => cellGet a c :: cellsReadFrom (skipCell a c) (a + 1) n
/-- `n` bytes from a cell upward, lowest first. -/
def cellsRead (c : Cells) (a n : Nat) : List Byte := cellsReadFrom (cellsFrom a c) a n

/-- A byte put before a store; a zero byte is not listed. -/
def consCell (a : Nat) (v : Byte) (c : Cells) : Cells := if v = 0 then c else (a, v) :: c
/-- Bytes written into a store whose entries stand at `a` or above. -/
def cellsPut (c : Cells) (a : Nat) : List Byte → Cells
  | [] => c
  | b :: t => consCell a b (cellsPut (skipCell a c) (a + 1) t)
/-- Bytes written from a cell upward. -/
def cellsWrite (c : Cells) (a : Nat) (bs : List Byte) : Cells := cellsBelow a c ++ cellsPut (cellsFrom a c) a bs

/-- The cells from `lo` up to but not including `hi` taken off the list: they read as zero. -/
def cellsClear (lo hi : Nat) (c : Cells) : Cells := c.filter (fun p => p.1 < lo || hi ≤ p.1)

/-- The canonical form from a lower bound: addresses strictly rising, no zero byte. -/
def cellsWfFrom (lo : Nat) : Cells → Bool
  | [] => true
  | (j, v) :: t => decide (lo ≤ j) && decide (v ≠ 0) && cellsWfFrom (j + 1) t

/-- The canonical form of the memory: addresses strictly rising, and no entry that reads as an unlisted address does. -/
def Memory.wf (c : Cells) : Bool := cellsWfFrom 0 c

/-- The number of some bytes, little-endian (R6). -/
def leNat : List Byte → Nat
  | [] => 0
  | b :: t => b.toNat + 256 * leNat t

/-- The `n` bytes of a number, little-endian (R6). -/
def leBytes (x : Nat) : Nat → List Byte
  | 0 => []
  | n + 1 => BitVec.ofNat 8 x :: leBytes (x / 256) n

/-- The element of a list at an index, changed. -/
def listMod {α : Type} (k : Nat) (f : α → α) : List α → List α
  | [] => []
  | x :: t => match k with
    | 0 => f x :: t
    | j + 1 => x :: listMod j f t

/-- Bits `lo` to `lo + n - 1` of a number. -/
def bitsOf (x lo n : Nat) : Nat := x / 2 ^ lo % 2 ^ n

/-- The number with bits `lo` to `lo + n - 1` replaced. -/
def putBits (x lo n v : Nat) : Nat := x - bitsOf x lo n * 2 ^ lo + (v % 2 ^ n) * 2 ^ lo

/-- The exclusive OR of the bits of a number below 2^64. -/
def parity (x : Nat) : Nat :=
  let x := x ^^^ (x / 2 ^ 32)
  let x := x ^^^ (x / 2 ^ 16)
  let x := x ^^^ (x / 2 ^ 8)
  let x := x ^^^ (x / 2 ^ 4)
  let x := x ^^^ (x / 2 ^ 2)
  (x ^^^ (x / 2)) % 2

/-- Whether two ranges of bytes share one. -/
def overlaps (a n b m : Nat) : Bool := decide (a < b + m ∧ b < a + n)

/-- `x` rounded up to a multiple of `k`. -/
def roundUpTo (k x : Nat) : Nat := (x + k - 1) / k * k

end Sys2Proof.Machine
end

