-- ==== Sys2Proof/Machine/State.lean ====
section
/-! DEFINITION. The state of the machine as plain data. -/

namespace Sys2Proof.Machine

/-- The seven hash masks of an access (R113, R114). -/
structure Masks where
  m0 : Word
  m1 : Word
  m2 : Word
  m3 : Word
  m4 : Word
  m5 : Word
  m6 : Word
  deriving DecidableEq, Repr

/-- The address spaces, in the order of the space codes of R199. -/
inductive Space where
  | i | v | a | c | w | s
  deriving DecidableEq, Repr

/-- Where the bytes of an access lie: in the byte store from a cell upward, or on a peer device (R112). -/
inductive Loc where
  | cell (c : Nat)
  | peer (dev pa : Nat)
  deriving DecidableEq, Repr

/-- What a waiting access does to its word once it is served (R253, R255). -/
inductive WordOp where
  | takeFull
  | keepFull
  | fillEmpty (v : BitVec 32) (poison : Bool)
  | putEmpty (off n v : Nat) (poison : Bool)
  deriving DecidableEq, Repr

/-- Who makes an access that may have to wait: a thread (with its destination register), a node (with the access's
number) or stream port of a formation, or a vector port for the pipe that takes from it (with the byte within the word). -/
inductive Who where
  | thread (tid gd : Nat)
  | node (form idx seq : Nat)
  | unit (cl u off : Nat)
  deriving DecidableEq, Repr

/-- A waiting full/empty access (R255), and the cell of its word under its own masks. -/
structure Waiter where
  who : Who
  op : WordOp
  cell : Nat
  deriving DecidableEq, Repr

/-- A queue that can be full: a unit's (R25), the bindings of a port (R213), the running formations of a thread (R248), and the ready pool, for a
launch of `n` tasks (R33). -/
inductive FullQueue where
  | unit (u : Nat)
  | port (p : Nat)
  | armed
  | pool (n : Nat)
  deriving DecidableEq, Repr

/-- What a control thread stopped at an instruction waits for (R174, R194, R202, R252). -/
inductive Wait where
  /-- nothing: the thread can issue -/
  | none
  /-- a load's reply: where it reads, bytes, sign extension, destination, space and address (R191) -/
  | load (loc : Loc) (n : Nat) (sx : Bool) (gd : Nat) (space : Space) (addr : Word)
  /-- the fill of a flash page of its context, with the address, and the `detail` without its reason, of the trap that a fill which fails
  raises (R194), since when -/
  | fill (fpage detail addr since : Nat)
  /-- the counter to reach a time (R202) -/
  | sleep (until_ : Nat)
  /-- the invalidation with this key (R206) -/
  | xinv (key : Nat)
  /-- a full/empty word by its `wordKey`, and the space and address that name it (R255) -/
  | word (c : Nat) (space : Space) (addr : Nat)
  /-- the phase of a set it arrived for or names; whether as a member (R266) -/
  | phase (set phase : Nat) (member : Bool) (gd : Nat)
  /-- an arrival that must wait for the current phase to complete (R265) -/
  | arrive (set phase : Nat)
  /-- a lock request in a queue (R276) -/
  | lock (item gd : Nat)
  /-- a peer access with this request key, and where its reply goes (R131) -/
  | peer (key : Nat)
  /-- `mwait` or `msatr` on a matrix stream, tried again at each issue (R232, R274) -/
  | kstep (stream : Nat)
  /-- `hwait` on a handle, tried again at each issue (R224, R274) -/
  | handle (h : Nat)
  /-- room in a full queue: its instruction is executed again in an issue slot (R316) -/
  | full (q : FullQueue)
  /-- another condition, at which its instruction is tried again: a fence, a handle, a stream, a formation, a reorder window -/
  | retry
  deriving DecidableEq, Repr

/-- A pending asynchronous trap (R176): the cause code and its detail. -/
structure AsyncTrap where
  code : Nat
  detail : Nat
  deriving DecidableEq, Repr

/-- A store that has completed at its thread and is not yet performed (R174), with the address it was translated from, where it has one (R206). -/
structure Posted where
  cell : Nat
  bytes : List Byte
  vaddr : Option Nat
  deriving DecidableEq, Repr

/-- The owner of a transaction (R271): a thread, or a set of a context. -/
inductive TxnOwner where
  | thread (tid : Nat)
  | set (key : Nat)
  deriving DecidableEq, Repr

/-- How far a thread has come: issuing; stopped by `exit` or by an unhandled fault, waiting for its stores and commands
(R204, R383). -/
inductive Life where
  | running
  | leaving (failed : Bool)
  deriving DecidableEq, Repr

/-- A control thread (R173, R197). `armed` holds the last sixteen formations it armed with their outcomes (R249), `word` the
instruction word it fetched last (R383), `barwHeld` the place, set and phase of each `barw` whose wait was interrupted (R266), the last first;
`peek` the address of a graph on a peer's page and the `ntask` that its header gives, while a `glaunch` is not done with it (R33). -/
structure Thread where
  ctx : Nat
  launch : Nat
  task : Nat
  regs : Tbl Word
  pc : Word
  status : Word
  cause : Word
  epc : Word
  tvec : Word
  evaddr : Word
  escratch : Word
  spillov : Word
  spillsz : Nat
  prio : Nat
  prioCap : Nat
  setid : Nat
  txnOwner : TxnOwner
  masks : Masks
  icnt : Nat
  wait : Wait
  asyncs : List AsyncTrap
  woundDue : Bool
  posted : List Posted
  armed : List (Nat × Nat)
  openForms : NatSet
  life : Life
  failTask : Bool
  halts : NatSet
  barwHeld : List (Nat × Nat × Nat)
  peek : Option (Nat × Nat)
  slotSince : Nat
  word : Nat
  ifetch : Option Nat
  deriving DecidableEq, Repr

/-- A partition (R370). `rangesList` holds base and size in GiB of the eight ranges; `lockMatrix` is that of R270. -/
structure Part where
  clusters : Nat
  rangesList : List (Nat × Nat)
  fbase : Nat
  fcount : Nat
  peers : Nat
  bwshare : Nat
  flags : Nat
  lockMatrix : Word
  deriving DecidableEq, Repr

/-- A leaf entry that a translation unit or a port holds a copy of (R108): the context, the page's level (0 to 2), the page's
number at that level, and the entry. -/
structure LeafCopy where
  ctx : Nat
  level : Nat
  vpage : Nat
  entry : BitVec 128
  deriving DecidableEq, Repr

/-- A flash fill in progress (R110, R108): the frame it has taken, the address whose access began it, the physical address of the entry
that access met with the bits [63:0] that were read, and whether the fill ring had no frame for it (R111). -/
structure Fill where
  frame : Option Nat
  vaddr : Nat
  entry : Option (Nat × Nat)
  noFrame : Bool
  deriving DecidableEq, Repr

/-- An invalidation in progress (R206, R365): context, covered address or the whole context, and when it began. -/
structure Inval where
  ctx : Nat
  vaddr : Option Nat
  began : Nat
  byHost : Bool
  deriving DecidableEq, Repr

/-- How far a context has come (R310, R319, R369, R421). -/
inductive CtxPhase where
  | running
  | stopping
  | suspended
  | lost
  deriving DecidableEq, Repr

/-- A membership set (R45, R46): members, current phase, its required group, arrivals for it and for the next phase. -/
structure SetObj where
  members : NatSet
  phase : Nat
  required : NatSet
  arrived : NatSet
  arrivedNext : NatSet
  deriving DecidableEq, Repr

/-- The reorder window of a sequence cell (R261): waiting slots by index, when `next` last moved, whether the gap has been
reported (R435). -/
structure SeqCell where
  slots : Tbl (BitVec 32)
  moved : Nat
  reported : Bool
  deriving DecidableEq, Repr

/-- A registered lock tensor (R269). -/
structure LockTensor where
  base : Nat
  pitch : Nat
  rows : Nat
  cols : Nat
  th : Nat
  tw : Nat
  esize : Nat
  deriving DecidableEq, Repr

/-- A lock transaction (R271, R274). -/
structure Txn where
  ctx : Nat
  owner : TxnOwner
  age : Nat
  serial : Nat
  wounded : Bool
  deriving DecidableEq, Repr

/-- A lock held, and a request that waits (R273). -/
structure Held where
  txn : Nat
  mode : Nat
  deriving DecidableEq, Repr
structure LockReq where
  txn : Nat
  mode : Nat
  tid : Nat
  deriving DecidableEq, Repr

/-- A lock item with its holders and its queue, oldest first but for escalations (R273), and the line of the overflow area that holds it, where
the lock manager's memory had no room (R269). -/
structure LockItem where
  ctx : Nat
  word : Nat
  holders : List Held
  queue : List LockReq
  line : Option Nat
  deriving DecidableEq, Repr

/-- The states of an item of the ready pool (R310). -/
inductive ItemState where
  | pending | ready | placing | running | suspended | completed | failed
  deriving DecidableEq, Repr

/-- An operand declaration (R37). -/
structure Decl where
  tensor : Nat
  access : Nat
  first : Nat
  last : Nat
  deriving DecidableEq, Repr

/-- A task of a launch (R35): its record, declarations, predecessors by edges, state, and when it last became ready. -/
structure Task where
  isThread : Bool
  join : Bool
  set : Nat
  entry : Nat
  size : Nat
  ovf : Nat
  args : List Nat
  decls : List Decl
  preds : List Nat
  state : ItemState
  readyAt : Nat
  deriving DecidableEq, Repr

/-- A launch source (R32): a host queue or a thread. -/
inductive Source where
  | queue (q : Nat)
  | thread (tid : Nat)
  deriving DecidableEq, Repr

/-- An accepted launch (R30, R33): `admitted` once its graph is checked; `prev` is the launch of the same source before it (R32);
`descBad` says that a reserved field of its descriptor, at `daddr`, is not zero; `resv` counts its tasks until then; `hold` counts, by
unit, the commands that its thread issued before it and that have not completed (R247); `fill` is the flash page that the check waits
for, with the address and `detail` of the record being read; `got` as in `Cmd`. -/
structure Launch where
  ctx : Nat
  source : Source
  event : Nat
  prio : Nat
  graph : Nat
  overlap : Bool
  admitted : Bool
  anyFailed : Bool
  prev : Option Nat
  tasks : List Task
  descBad : Bool
  daddr : Nat
  resv : Nat
  hold : Tbl Nat
  fill : Option (Nat × Nat × Nat)
  got : List (Nat × Nat × List Byte × List Bool)
  deriving DecidableEq, Repr

/-- A disclosure policy in force (R350): the levels of classes 0 to 5 and the granularity exponents. -/
structure Policy where
  serial : Nat
  levels : List Nat
  tgran : Nat
  cgran : Nat
  agran : Nat
  notafter : Nat
  deriving DecidableEq, Repr

/-- What the emptiness detector keeps (R399, R400): when the last sweep and the last pair began, whether the pair's second
sweep is to come, the counts it read, the counts at the last report, and the counts for which the last pair found quiescence. -/
structure Sweep where
  last : Nat
  pair : Nat
  half : Bool
  moves : Nat
  told : Option Nat
  quiet : Bool
  found : Option Nat
  deriving DecidableEq, Repr

/-- A trace ring (R338, R339): the fields of the control block that only the host's command and the device write. -/
structure Ring where
  base : Nat
  lgsize : Nat
  enable : Nat
  speriod : Nat
  thresh : Nat
  head : Nat
  lost : Nat
  deriving DecidableEq, Repr

/-- A context (R368): the descriptor, and what the device keeps for it. `masks` are those in force (R116), `initMasks` those of the
descriptor, which requests of peer devices use (R374); `firings` and `paid` count the firings and instructions that are debited by the
1,024 (R360), `instrs` every instruction; `seals` counts the seals of its save area (R369). -/
structure Ctx where
  root : Nat
  fring : Nat
  save : Nat
  savesz : Nat
  trace : Nat
  events : Nat
  nevent : Nat
  slack : Nat
  slice : Nat
  sovf : List Nat
  sres : List Nat
  quotaOn : Bool
  part : Nat
  masks : Masks
  initMasks : Masks
  tkey : List Byte
  saveKey : List Byte
  quota : Int
  policy : Option Policy
  lastSerial : Nat
  phase : CtxPhase
  sealTime : Nat
  epoch : Nat
  seals : Nat
  hostHold : Bool
  quotaHold : Bool
  runSince : Nat
  nextForm : Nat
  ringBad : Bool
  firings : Nat
  instrs : Nat
  paid : Nat
  counters : Tbl Nat
  tchg : Nat
  sampledAt : Nat
  sweep : Sweep
  ring : Option Ring
  deriving DecidableEq, Repr

/-- A buffer handle (R126): `state` is 0 free, 1 filling, 2 full, 3 draining; `claimed` is the thread whose queued copy has
claimed it (R221). -/
structure Handle where
  promise : Nat
  state : Nat
  late : Bool
  err : Bool
  owner : Nat
  engine : Nat
  bytes : Nat
  claimed : Option Nat
  deriving DecidableEq, Repr

/-- What a frozen access keeps (R403): the address, the reason of R388, whether it stores, when it first froze and when it last
froze, the flash page it waits for, and the number of the first invalidation that begins after it froze (R404). -/
structure Freeze where
  vaddr : Nat
  reason : Nat
  store : Bool
  since : Nat
  last : Nat
  fpage : Nat
  after : Nat
  deriving DecidableEq, Repr

/-- A frozen line, row or candidate of a command, or a frozen access of a node (R403): its number, whether it has been woken, and its
freeze state. -/
structure Frost where
  idx : Nat
  woken : Bool
  frz : Freeze
  deriving DecidableEq, Repr

/-- An engine command (R208, R209): its word, register operands, descriptor bytes, masks at issue, and its progress. `handle` is
that of a copy; `headAt` the time it reached the head of its queue, which is its age (R317); `asked` (since when it waits) and `granted` its current
reservation and `power` what it holds in mW (R353, R354); `step` the steps done; `la`, `sum`, `best`, `bad` what a reduction has
gathered; `bk` the broadcast element of `bsrc` 2; `waiting` a vector command that waits for a binding (R237); `frost` the parts that
are not performed, `froze` when a part first froze (R405), `memo` what a part has read that is not read again (R212), `got` the replies
of peer devices (device, address, bytes, and their poison),
`lanes` the lanes of the vector that is being taken from a port, `rows` the rows of a selection record with their bounds, and `failed` a command that has met a fault (R408). -/
structure Cmd where
  word : Nat
  ga : Word
  gb : Word
  desc : List Byte
  masks : Masks
  tid : Nat
  ctx : Nat
  node : Option (Nat × Nat)
  handle : Nat
  headAt : Option Nat
  asked : Option Nat
  granted : Bool
  power : Nat
  step : Nat
  la : BitVec 320
  sum : Int
  best : Nat
  bad : Bool
  bk : Option (Nat × Bool)
  waiting : Bool
  frost : List Frost
  froze : Tbl Nat
  memo : Tbl Nat
  got : List (Nat × Nat × List Byte × List Bool)
  lanes : List (Nat × Bool)
  rows : List (Nat × Nat)
  failed : Bool
  deriving DecidableEq, Repr

/-- One of the ten units of a cluster (R21): 0 to 3 matrix engines, 4 and 5 vector pipes, 6 and 7 copy engines, 8 the selection
engine, 9 the gather queue. `prev` is a copy engine's last promise (R221). -/
structure UnitQ where
  queue : List Cmd
  running : Option Cmd
  prev : Nat
  deriving DecidableEq, Repr

/-- A stream binding (R213 to R216): the word that made it (R406), its pattern, and the accesses it has made. -/
structure Binding where
  tid : Nat
  ctx : Nat
  word : Nat
  spaceV : Bool
  base : Nat
  counts : List Nat
  strides : List Int
  eos : Bool
  swap : Bool
  wait : Bool
  fmt : Nat
  masks : Masks
  pos : Nat
  failed : Bool
  deriving DecidableEq, Repr

/-- A port: 0 to 63 fabric ports, 64 to 71 vector ports. `holder` is the formation and node it serves (R217); `ordinal` counts
the bindings begun (R323); `failed` says that a binding of a vector port has ended by a fault (R408); `landing` names the peer requests of
writes by sink bindings that have been discarded, each with its thread (R218). -/
structure Port where
  holder : Option (Nat × Nat)
  bindings : List Binding
  ordinal : Nat
  failed : Bool
  landing : List (Nat × Nat)
  deriving DecidableEq, Repr

/-- A cluster (R21): the context it is bound to and the last one it served (R314), handles, matrix-stream saturation flags,
units, ports, the configuration words its cache holds (formation and node) and those of them with an uncorrectable error (R411, R419),
and its current arbiter's share in mW (R354). -/
structure Cluster where
  bound : Option Nat
  lastCtx : Option Nat
  lastSlot : Nat
  handles : Tbl Handle
  sat : NatSet
  units : Tbl UnitQ
  ports : Tbl Port
  cache : List (Nat × Nat)
  cacheBad : List (Nat × Nat)
  share : Nat
  deriving DecidableEq, Repr


/-! Tokens, arcs, nodes and formations (R52 to R76, R278 to R309). -/

/-- A token: kind 0 DATA, 1 NULL, 2 EOS, 3 DRAIN, 4 MARK; 5 to 7 are never valid on an arc (R52, R53). -/
structure Tok where
  kind : Nat
  poison : Bool
  res : Nat
  data : BitVec 32
  deriving DecidableEq, Repr

/-- A token on an arc: how many hops it has made, and when it reached where it stands, in 0.1 ns (R57, R343). -/
structure Flit where
  tok : Tok
  hop : Nat
  since : Nat
  deriving DecidableEq, Repr

/-- An arc (R56 to R58), or a local lane from a loop-control unit to an element of its site (R59, R301). `route` holds a
pass-through hop for each router, {site, switch word}; `toks` is oldest first; `freed` is when a slot was last returned;
`holds` names the halts (0 to 15) and matched breakpoints (16 to 23) that withhold its acknowledgement (R346); `swapped` the hops whose
slots have passed the swap EOS and take nothing until their router exchanges its words (R69). -/
structure Arc where
  src : Nat
  fport : Nat
  dst : Nat
  tport : Nat
  cap : Nat
  lane : Bool
  route : List Nat
  toks : List Flit
  freed : Nat
  holds : NatSet
  swapped : NatSet
  deriving DecidableEq, Repr

/-- The states of a carry (R307). -/
inductive CarryState where
  | open_
  | closing (k : Tok)
  | returning (k : Tok)
  deriving DecidableEq, Repr

/-- What a loop-control unit has still to emit on one of its streams (R63). -/
inductive Rest where
  | none
  | run (start step : Int) (cnt i : Nat)
  | one (t : Tok)
  deriving DecidableEq, Repr

/-- Where a translated byte lies: its physical address here or on a peer device, and its page's format, geometry and size
as a power of two (R105). -/
structure Target where
  peer : Bool
  dev : Nat
  pa : Nat
  fmt : Nat
  geom : Nat
  bits : Nat
  deriving DecidableEq, Repr

/-- How far an access of a memory element or stream port, or an operation of a matrix node, has come (R294, R299). -/
inductive Stage where
  /-- makes no access: a NULL, a poisoned address or a control kind, with what the node emits for it -/
  | stand (t : Tok)
  /-- begun, not yet translated -/
  | begun
  /-- its place is known -/
  | ready (t : Target) (cell : Nat)
  /-- waits on a full/empty word, by its `wordKey` -/
  | waiting (key : Nat)
  | frozen (f : Frost)
  /-- an outstanding peer request, by its tag, or an issued command -/
  | sent (key : Nat)
  /-- answered, with what the node emits -/
  | done (t : Tok)
  deriving DecidableEq, Repr

/-- A begun access (R294): its firing, the word it fired with, its tokens and its address; when it first froze (R405); `got` as in
`Cmd`. -/
structure Access where
  seq : Nat
  word : BitVec 32
  ta : Tok
  tb : Tok
  addr : Nat
  stage : Stage
  froze : Option Nat
  got : List (Nat × Nat × List Byte × List Bool)
  deriving DecidableEq, Repr

/-- A node of a formation (R59 to R76, R165 to R170, R323). Classes: 0 element, 1 memory element, 2 router operator, 3 loop,
4 matrix node, 5 stream port. A formation lists its nodes in node-table order; the entry of a shadow node names the node it
overlays in `overlay` and takes no part itself. `slot` and `slotShadow` are the placed switch words of an operator's slot (R168). `grp` is the group state with its poison (R289); `slots`, `turn` and `carry` belong to
a carry; `idx`, `last`, the readers that have taken the current token of each (`idxGiven`, `lastGiven`) and `cur` to a
loop-control unit; `accs` to memory elements, ports and matrix nodes, and `began` counts the accesses and stand-ins (R136); `inj`
holds the tokens that the formation injects at a source (R47); `fires` counts firings and `lastFire` is the time of the last, in
0.1 ns; `passed` says that a router slot has passed the swap EOS (R69); `eos` that a sink has taken the ending EOS; `drained` and
`marked` that DRAIN and MARK have passed; `fetch` is a configuration fetch that is frozen (R76); `kept` the accesses that a cut gives up,
with those behind them, and `held` the tokens that it keeps (R320); `offer` the held tokens that a restore offers again by their inputs
(R325); `conds` when the conditions of R343 with codes 4 to 6 last became true. -/
structure Node where
  num : Nat
  cls : Nat
  memSwap : Bool
  shadowIdx : Option Nat
  overlay : Option Nat
  word : BitVec 32
  shadow : BitVec 32
  slot : Nat
  slotShadow : Nat
  ii : Nat
  loop : Option Nat
  loopShadow : Option Nat
  loops : List Nat
  wher : Nat
  sel : Bool
  asked : Bool
  loaded : Bool
  blocked : Bool
  chase : Tok
  grp : Option (BitVec 320 × Bool)
  carry : CarryState
  slots : List Bool
  turn : Nat
  idx : Rest
  last : Rest
  idxGiven : NatSet
  lastGiven : NatSet
  cur : Option (BitVec 32)
  accs : List Access
  began : Nat
  ops : Nat
  inj : List Tok
  fires : Nat
  lastFire : Option Nat
  passed : Bool
  eos : Bool
  drained : Bool
  marked : Bool
  fetch : Option Frost
  kept : List Access
  held : List (Nat × Tok)
  offer : List (Nat × Flit)
  conds : Tbl Nat
  deriving DecidableEq, Repr

/-- How far a formation has come (R310, R311, R320, R398). -/
inductive FormPhase where
  | ready | placing | armed | failed | cutting | saved
  deriving DecidableEq, Repr

/-- A formation or an arm request (R47, R248, R310). `num` is its formation number or task index; `moves` counts every
emission, hop, consumption, request, reply and firing (R399); `poolFree` numbers the free values of pool entries beyond the image's (R170), `nodeTable` is the address of the image's node table, `fill` the flash page and address that the placer waits for, `passed` says that the placer has passed it over for want of resources
(R315), `cramped` that this was for want of room in its context's own save area (R324), and `got` is as in `Cmd`. -/
structure Form where
  ctx : Nat
  launch : Nat
  task : Nat
  num : Nat
  arm : Option Nat
  home : Option Nat
  graph : Nat
  nodeTable : Nat
  tiles : Nat
  consts : List (BitVec 32)
  pool : List (BitVec 32)
  poolFree : Nat
  masks : Masks
  prio : Nat
  readyAt : Nat
  passed : Bool
  cramped : Bool
  phase : FormPhase
  nodes : List Node
  arcs : List Arc
  isles : List Nat
  draining : Bool
  resTold : Bool
  guarded : Bool
  samples : Nat
  moves : Nat
  sweep : Sweep
  fill : Option (Nat × Nat)
  got : List (Nat × Nat × List Byte × List Bool)
  deriving DecidableEq, Repr

/-! Debug, host, peers, power, time and firmware. -/

/-- A halt in a halt slot (R346, R349): `since` is when it was reported stable, 0 before. Threads and arcs name the halts that hold
them. -/
structure Halt where
  target : Nat
  opts : Nat
  form : Nat
  node : Nat
  port : Nat
  since : Nat
  deriving DecidableEq, Repr

/-- A breakpoint (R346, R349). -/
structure Breakpoint where
  form : Nat
  node : Nat
  port : Nat
  kinds : Nat
  skip : Nat
  dmask : Nat
  dval : Nat
  hit : Bool
  since : Nat
  deriving DecidableEq, Repr

/-- A host command that has arrived whole (R363, R364): `stage` and `note` say how far a command that waits has come. -/
structure HostCmd where
  op : Nat
  seq : Nat
  ctx : Nat
  body : List Byte
  stage : Nat
  note : Nat
  deriving DecidableEq, Repr

/-- A command of which fragments are missing (R363). -/
structure Partial where
  op : Nat
  ctx : Nat
  nfrag : Nat
  len : Nat
  frags : List (Nat × List Byte)
  deriving DecidableEq, Repr

/-- A response (R363, R366). -/
structure Resp where
  op : Nat
  seq : Nat
  ctx : Nat
  status : Nat
  body : List Byte
  deriving DecidableEq, Repr

/-- A command queue of a function (R364): the next expected number, a command being assembled, commands that have not
completed, and the stored responses, newest first. -/
structure HostQ where
  next : Nat
  assembling : Option Partial
  cmds : List HostCmd
  stored : List Resp
  deriving DecidableEq, Repr

/-- A peer window (R374). -/
structure PeerWin where
  dev : Nat
  rpart : Nat
  lpart : Nat
  perm : Nat
  base : Nat
  size : Nat
  deriving DecidableEq, Repr

/-- A peer message (R374). `pm` holds the poison of its bytes, which replies and writes carry (R415). -/
structure PeerMsg where
  type : Nat
  src : Nat
  dst : Nat
  part : Nat
  tag : Nat
  pa : Nat
  len : Nat
  aop : Nat
  data : List Byte
  pm : List Bool
  deriving DecidableEq, Repr

/-- A frame of the Limaux peer protocol (R373): its number, the number of the last frame received in order, and its messages. -/
structure PeerFrame where
  num : Nat
  ack : Nat
  msgs : List PeerMsg
  deriving DecidableEq, Repr

/-- A peer port's link (R373): next frame number to send and to receive, and frames not yet acknowledged with their times. -/
structure PeerPort where
  next : Nat
  expect : Nat
  unacked : List (Nat × Nat × List PeerMsg)
  deriving DecidableEq, Repr

/-- Who made an outstanding peer request (R112, R131). -/
inductive PeerWho where
  | thread (tid gd : Nat)
  | fetch (tid : Nat)
  | node (form idx seq : Nat)
  | unit (cl u item : Nat)
  | queue (q : Nat)
  | pool (launch : Nat)
  | image (form idx : Nat)
  | none
  deriving DecidableEq, Repr

/-- An outstanding peer request (R374, R410). -/
structure PeerReq where
  who : PeerWho
  ctx : Nat
  type : Nat
  dev : Nat
  pa : Nat
  len : Nat
  sx : Bool
  addr : Nat
  since : Nat
  stale : Bool
  deriving DecidableEq, Repr

/-- A reel message that the device has sent or seen (R358, R359). -/
structure Reel where
  dev : Nat
  epoch : Nat
  demand : Nat
  limit : Nat
  deriving DecidableEq, Repr

/-- The package's power state (R355 to R361, R444): the block of R361, the budget and rack group in force, the changes of them to come, each with
the period at which it takes effect (R357), the thermal step, reel messages, rack shares to come with their epochs, the other members of the rack
group, the number of this device in its pod, the epochs whose message was sent and whose share was computed, and the last period. -/
structure Power where
  pbudget : Nat
  rshare : Nat
  limit : Nat
  group : Nat
  floor : Nat
  epoch : Nat
  budget : Nat
  groupNow : Nat
  changes : List (Nat × Nat × Nat)
  step : Nat
  reels : List Reel
  shares : List (Nat × Nat)
  members : NatSet
  dev : Nat
  sentEpoch : Option Nat
  sharedEpoch : Option Nat
  lastPeriod : Nat
  deriving DecidableEq, Repr

/-- The time status (R337). -/
structure TimeStatus where
  gm : Nat
  offs : Int
  port : Nat
  state : Nat
  deriving DecidableEq, Repr

/-- What a port knows of IEEE 1588 (R336): the best master that it hears, the number and the arrival of a Sync whose Follow_Up is to come, the number
and the departure of its delay request, the times of the answer to it, the last difference from the master's clock, the delay on the way, and
the next sequence number. -/
structure PtpPort where
  best : Option PtpSet
  sync : Option (Nat × Nat)
  asked : Option (Nat × Nat)
  reply : Option (Nat × Nat)
  diff : Int
  delay : Int
  seq : Nat
  deriving DecidableEq, Repr

/-- How bring-up stands (R378, R379, R417). -/
inductive FwPhase where
  | running | recovery | stopped
  deriving DecidableEq, Repr

/-- Firmware and identity (R375 to R379): the digest and `svn` of the running image, and the fused minimum. -/
structure Firmware where
  phase : FwPhase
  digest : List Byte
  svn : Nat
  minSvn : Nat
  deriving DecidableEq, Repr

/-- A context's state while it is pre-empted (R321 to R323): the seal time, and its threads and cluster images by their old numbers.
Its formations stay in the table of formations; the contents of buffers and islands are bytes of the save area. -/
structure Save where
  stamp : Nat
  threads : Tbl Thread
  images : Tbl Cluster
  deriving DecidableEq, Repr

/-- What the surroundings do to the device: an error strikes a unit of memory or heals in flash (R409, R411), a token on an
arc (R54), a word of a configuration cache (R419), state that the device holds for a context (R420), or a router whose switch words no
longer take a write (R442); and firmware's settings: the host port's address (R362), the route table (R373), the other members of the rack
group with this device's number in the pod (R358, R359), whether the device may become grandmaster and when a port sends its messages of IEEE 1588 (R336), and the fused minimum, which
only rises (R375). -/
inductive Env where
  | damage (cell : Nat)
  | damageCache (cluster form node : Nat)
  | setAddress (mac : Nat)
  | setRoutes (ports : List Nat)
  | setMembers (members : List Nat) (dev : Nat)
  | setLeads (on : Bool)
  | ptpSend (port : Nat) (peerDelay : Bool)
  | raiseSvn (svn : Nat)
  | damageFlash (fpage : Nat)
  | healFlash (fpage : Nat)
  | hitToken (form arc k : Nat) (t : Tok)
  | hitContext (ctx code : Nat)
  | sticks (site : Nat)
  deriving DecidableEq, Repr

/-- What happens in a turn: an issue slot of a cluster, a stalled thread that tries its instruction again, a firing, an event, an input. -/
inductive Act where
  | issue (cluster : Nat)
  | retry (tid : Nat)
  | fire (form idx : Nat)
  | event (i : Instr)
  | env (e : Env)
  | idle
  deriving DecidableEq, Repr

/-- A turn: the time that passes before it, in 0.1 ns, and what happens (log 1). -/
structure Turn where
  elapsed : Nat
  act : Act
  deriving DecidableEq, Repr

/-- Whose turn it is: a control thread, a node of a formation, or a step of the part that no program makes. -/
inductive Agent where
  | none
  | thread (tid : Nat)
  | node (form idx : Nat)
  deriving DecidableEq, Repr

/-- The state of the machine. `tagEmpty` holds the tag tables (R254): each empty V word by its physical address, with the context whose
access emptied it, which `CTXDEL` discards (R369); `wordWaits` the waiters of each word by its `wordKey`; `ovfChecks` the checks of the
overflow lines that the synchronisation engine has written, by the line's cell, each with its context (R427), and `struck` the contexts of which this
turn has found a lock item damaged, which are lost with its end (R420); `outbox` the
frames that have left the host port, from after their EtherType (R363), and `mac` its address; `sent` the frames that have left each peer
port (R373), and `nextTag` the tag of the next peer request; `leads` says that firmware lets the device become grandmaster (R336). -/
structure State where
  now : Nat
  tenths : Nat
  cells : Cells
  full : NatSet
  marks : NatSet
  errs : NatSet
  flashBad : NatSet
  tagEmpty : Tbl Nat
  wordWaits : Tbl (List Waiter)
  ovfChecks : Tbl (Nat × BitVec 32)
  struck : NatSet
  copies : List LeafCopy
  fills : Tbl Fill
  invals : Tbl Inval
  nextInval : Nat
  parts : Tbl Part
  ctxs : Tbl Ctx
  threads : Tbl Thread
  clusters : Tbl Cluster
  sets : Tbl SetObj
  seqCells : Tbl SeqCell
  lockTensors : Tbl LockTensor
  lockItems : List LockItem
  txns : Tbl Txn
  heirs : List Txn
  nextSerial : Nat
  launches : Tbl Launch
  nextLaunch : Nat
  lastOf : List (Source × Nat)
  forms : Tbl Form
  saves : Tbl Save
  unusable : NatSet
  sticking : NatSet
  halts : Tbl Halt
  breaks : Tbl Breakpoint
  queues : Tbl HostQ
  outbox : List (List Byte)
  mac : Nat
  binds : Tbl Nat
  windows : Tbl PeerWin
  ports : Tbl PeerPort
  sent : List (Nat × PeerFrame)
  inbox : Tbl PeerMsg
  requests : Tbl PeerReq
  nextTag : Nat
  routes : List Nat
  power : Power
  levels : List Nat
  stackWin : Tbl Nat
  limited : NatSet
  timeStatus : TimeStatus
  leads : Bool
  ptpPorts : Tbl PtpPort
  ptpOut : List (Nat × PtpMsg)
  slew : Int
  fw : Firmware
  agenda : List Turn
  free : Nat
  cur : Agent
  deriving DecidableEq, Repr

/-- Why a step stops. -/
inductive Fault where
  /-- Raised by `exec` when it is given an instruction of a thread or a node while `cur` names none that exists (log 18).
  Safe: the device's own turns name the agent first, so a step meets it only where an agenda entry gives such an instruction as an event. -/
  | noAgent
  deriving DecidableEq, Repr

/-- Why the model refuses. -/
inductive Refusal where
  /-- Raised by an arm of `exec` for an instruction that has no meaning yet. Safe: nothing can be proved of what it does. -/
  | notModelled (mnemonic : String)
  deriving DecidableEq, Repr

/-- The machine right after reset (R370, R378): bring-up is over, the host port accepts commands, and no partition, context,
thread or formation exists. Values that the spec does not give are those of log 10. -/
def State.reset : State :=
  { now := 0, tenths := 0, cells := [], full := [], marks := [], errs := [], flashBad := [], tagEmpty := [],
    wordWaits := [], ovfChecks := [], struck := [], copies := [], fills := [], invals := [], nextInval := 0, parts := [], ctxs := [], threads := [],
    clusters := [], sets := [], seqCells := [], lockTensors := [], lockItems := [], txns := [], heirs := [],
    nextSerial := 0, launches := [], nextLaunch := 1, lastOf := [], forms := [], saves := [], unusable := [], sticking := [],
    halts := [], breaks := [], queues := [], outbox := [], mac := 0, binds := [], windows := [], ports := [], sent := [],
    inbox := [], requests := [], nextTag := 0, routes := [],
    power := { pbudget := 1150, rshare := 0, limit := 0, group := 0, floor := 0, epoch := 0, budget := 1150,
               groupNow := 0, changes := [], step := 0, reels := [], shares := [], members := [], dev := 0, sentEpoch := none,
               sharedEpoch := none, lastPeriod := 0 },
    levels := [0, 0, 0, 0, 0, 0, 0, 0], stackWin := [], limited := [],
    timeStatus := { gm := 0, offs := 0, port := 15, state := 0 }, leads := false, ptpPorts := [], ptpOut := [], slew := 0,
    fw := { phase := .running, digest := [], svn := 0, minSvn := 0 },
    agenda := [], free := 0, cur := .none }

end Sys2Proof.Machine
end

