-- ==== Sys2Proof/Machine/Memory.lean ====
section
/-! DEFINITION. Physical memory: where every byte of the machine lies, poison, full/empty bits (R102, R113 to R122, R254, R411 to R414).

One byte store holds every byte. HBM cells are numbered by quadrant, pseudo-channel and location, so that two sets of hash
masks reach one cell exactly as R113 and R116 say. -/

namespace Sys2Proof.Machine

/-- HBM of one quadrant, of the package, and of one pseudo-channel (R113). -/
def quadBytes : Nat := 0x1800000000
def hbmBytes : Nat := 0x6000000000
def pchBytes : Nat := 0x30000000

/-- One hash bit: the exclusive OR of the address bits that a mask selects (R113). -/
def hashBit (m : Word) (o : Nat) : Nat := parity (o &&& m.toNat)

/-- The pseudo-channel index of an offset within a quadrant (R113). -/
def pchOf (k : Masks) (o : Nat) : Nat :=
  hashBit k.m0 o + 2 * hashBit k.m1 o + 4 * hashBit k.m2 o + 8 * hashBit k.m3 o + 16 * hashBit k.m4 o +
  32 * hashBit k.m5 o + 64 * hashBit k.m6 o

/-- The cell of a physical HBM address under a set of masks (R113). -/
def hbmCell (k : Masks) (pa : Nat) : Nat :=
  let o := pa % quadBytes
  pa / quadBytes * quadBytes + pchOf k o * pchBytes + o / 2 ^ 15 * 256 + o % 256

/-- The physical address of an HBM cell under a set of masks: the address bits 8 to 14 are what the hash bits leave (R113, R114). -/
def hbmPa (k : Masks) (c : Nat) : Nat :=
  let r := c % quadBytes
  let hi := r % pchBytes / 256 * 2 ^ 15
  c / quadBytes * quadBytes + hi + (r / pchBytes ^^^ pchOf k hi) * 256 + r % 256

/-- The default masks (R115). -/
def defaultMasks : Masks :=
  ⟨0x0020408100, 0x0040810200, 0x0081020400, 0x0102040800, 0x0204081000, 0x0408102000, 0x0810204000⟩

/-- What a write to `hashmi` stores: `sel` as written, `ident` fixed, reserved bits zero (R114). -/
def maskWritten (i : Nat) (v : Word) : Word := (v &&& 0x1FFFFF8000) ||| (1#64 <<< (8 + i))

def maskGet (k : Masks) (i : Nat) : Word :=
  match i with
  | 0 => k.m0 | 1 => k.m1 | 2 => k.m2 | 3 => k.m3 | 4 => k.m4 | 5 => k.m5 | _ => k.m6

def maskSet (k : Masks) (i : Nat) (v : Word) : Masks :=
  match i with
  | 0 => { k with m0 := v } | 1 => { k with m1 := v } | 2 => { k with m2 := v } | 3 => { k with m3 := v }
  | 4 => { k with m4 := v } | 5 => { k with m5 := v } | _ => { k with m6 := v }

/-- Masks from seven 64-bit words, as written (R114). -/
def masksOf (w : List Nat) : Masks :=
  let g (i : Nat) : Word := maskWritten i (BitVec.ofNat 64 (w.getD i 0))
  ⟨g 0, g 1, g 2, g 3, g 4, g 5, g 6⟩

/-- The regions of the byte store above HBM: islands, W, A, C, synchronisation SRAM by context and quadrant, flash. -/
def islandBase : Nat := 0x10000000000
def wBase : Nat := 0x40000000000
def aBase : Nat := 0x40040000000
def cBase : Nat := 0x40080000000
def sBase : Nat := 0x80000000000
def flashBase : Nat := 0x100000000000

def islandCell (site a : Nat) : Nat := islandBase + site * 65536 + a
def wCell (cl a : Nat) : Nat := wBase + cl * 0x200000 + a
def aCell (cl a : Nat) : Nat := aBase + cl * 0x200000 + a
def cCell (cl a : Nat) : Nat := cBase + cl * 0x100000 + a
def sCell (ctx q off : Nat) : Nat := sBase + (ctx * 4 + q) * 0x400000 + off
def flashCell (fpage off : Nat) : Nat := flashBase + fpage * 65536 + off

/-- The site id of a position within a cluster (R19): y above x, seven and eight bits. -/
def siteId (cl sx sy : Nat) : Nat :=
  let q := cl / 16
  ((q / 2) * 64 + (cl % 16 / 4) * 16 + sy) * 256 + (q % 2) * 128 + (cl % 4) * 32 + sx
/-- The cluster of a site (R19). -/
def siteCluster (site : Nat) : Nat :=
  let x := site % 256
  let y := site / 256
  16 * (2 * (y / 64) + x / 128) + 4 * (y % 64 / 16) + x % 128 / 32

/-- The core scratchpad of a cluster: the islands of sites sy = 0, sx = 0 to 7 (R122). -/
def scratchpadCell (cl a : Nat) : Nat := islandCell (siteId cl (a / 65536) 0) (a % 65536)

def isHbmCell (c : Nat) : Bool := decide (c < hbmBytes)
/-- Islands, A and C carry a full/empty bit per 32-bit word (R120). -/
def isTaggedCell (c : Nat) : Bool :=
  decide (islandBase ≤ c ∧ c < islandBase + 0x80000000) || decide (aBase ≤ c ∧ c < aBase + 0x8000000) ||
  decide (cBase ≤ c ∧ c < cBase + 0x4000000)

/-- Sizes of the poison mark and of the error check that cover a cell (R411, R414). -/
def markSize (c : Nat) : Nat := if isHbmCell c then 32 else 4
def errSize (c : Nat) : Nat := if isHbmCell c then 32 else 8

/-- The units of a size that the `n` bytes from `c` touch, by their first cells. -/
def unitsFrom (size u : Nat) : Nat → List Nat
  | 0 => []
  | k + 1 => u :: unitsFrom size (u + size) k
def unitsOf (size c n : Nat) : List Nat :=
  if n = 0 then [] else unitsFrom size (c / size * size) ((c + n - 1) / size - c / size + 1)

/-- `n` bytes that the spec leaves open (R413), from the counter of free values. -/
def freeBytes (k : Nat) : Nat → List Byte
  | 0 => []
  | n + 1 => (Config.freeWord (k + n)).truncate 8 :: freeBytes k n

/-- An uncorrectable error is detected in a unit: the unit is stored marked, and its bytes have no meaning (R413). -/
def detectUnit (s : State) (u : Nat) : State :=
  if setHas u s.errs then
    { s with
      errs := setDel u s.errs
      marks := (unitsOf (markSize u) u (errSize u)).foldl (fun m k => setAdd k m) s.marks
      cells := cellsWrite s.cells u (freeBytes s.free (errSize u))
      free := s.free + errSize u }
  else s

/-- What a read returns: the bytes, and 0, or the reason of the poison it meets (R387): 1 detected by this read, 2 a mark. -/
structure ReadOut where
  bytes : List Byte
  reason : Nat
  deriving DecidableEq, Repr

/-- Whether one of the units has an undetected error, and whether one holds a mark. -/
def anyIn (us : List Nat) (t : NatSet) : Bool := us.any (fun u => setHas u t)

/-- A read of `n` bytes that lie in consecutive cells. An error is reported as new where it lies in a unit without a mark (R413). -/
def memRead (s : State) (c n : Nat) : State × ReadOut :=
  let us := unitsOf (markSize c) c n
  let es := unitsOf (errSize c) c n
  let fresh := us.any (fun u => !setHas u s.marks && setHas (u / errSize c * errSize c) s.errs)
  let s' := if anyIn es s.errs then es.foldl detectUnit s else s
  (s', ⟨cellsRead s'.cells c n, if fresh then 1 else if anyIn us s.marks then 2 else 0⟩)

/-- The units of a write's range with marks and errors settled: poisoned data marks every unit it touches; other data clears a
mark that it covers wholly (R414). An undetected error goes with a unit that is written whole, and is detected in one that is
not. -/
def settleMark (c n : Nat) (poison : Bool) (m : NatSet) (u : Nat) : NatSet :=
  if poison then setAdd u m
  else if c ≤ u ∧ u + markSize u ≤ c + n then setDel u m else m
def settleErr (c n : Nat) (s : State) (u : Nat) : State :=
  if c ≤ u ∧ u + errSize u ≤ c + n then { s with errs := setDel u s.errs } else detectUnit s u

/-- The number by which the full/empty bit of a word is kept: its cell on chip, and the physical address of a word of space V, by which
the tag table is indexed (R254). -/
def wordKey (k : Masks) (c : Nat) : Nat := if isHbmCell c then hbmPa k c else c
/-- The full/empty bits of tagged words (R120), and of V words through the tag table (R254), by `wordKey`. -/
def wordFull (s : State) (c : Nat) : Bool := if isHbmCell c then (tblGet c s.tagEmpty).isNone else setHas c s.full
def setFull (s : State) (c : Nat) : State :=
  if isHbmCell c then { s with tagEmpty := tblDel c s.tagEmpty } else { s with full := setAdd c s.full }
/-- A word is emptied by an access of context `x`. -/
def setEmpty (s : State) (x c : Nat) : State :=
  if isHbmCell c then { s with tagEmpty := tblSet c x s.tagEmpty } else { s with full := setDel c s.full }

/-- The bytes written, with marks: full/empty bits as they stand. -/
def memStore (s : State) (c : Nat) (bs : List Byte) (poison : Bool) : State :=
  let n := bs.length
  let s := (unitsOf (errSize c) c n).foldl (settleErr c n) s
  { s with
    cells := cellsWrite s.cells c bs
    marks := (unitsOf (markSize c) c n).foldl (settleMark c n poison) s.marks }

/-- Which of `n` bytes a mark covers (R413). -/
def byteMarks (s : State) (c n : Nat) : List Bool :=
  (List.range n).map (fun j => setHas ((c + j) / markSize c * markSize c) s.marks)
/-- A read with poison by byte. -/
def memReadMap (s : State) (c n : Nat) : State × List Byte × List Bool :=
  let r := memRead s c n
  (r.1, r.2.bytes, if r.2.reason = 0 then List.replicate n false else byteMarks r.1 c n)

/-- Whether any of the bytes that a unit holds is poisoned, among bytes that begin at `c`. -/
def unitPoison (c : Nat) (pm : List Bool) (u : Nat) : Bool :=
  ((pm.drop (u - c)).take (u + markSize c - max u c)).any (fun b => b)
/-- A write with poison by byte (R414). -/
def memStoreMap (s : State) (c : Nat) (bs : List Byte) (pm : List Bool) : State :=
  let n := bs.length
  let s := (unitsOf (errSize c) c n).foldl (settleErr c n) s
  { s with
    cells := cellsWrite s.cells c bs
    marks := (unitsOf (markSize c) c n).foldl (fun m u => settleMark c n (unitPoison c pm u) m u) s.marks }

/-- A write of bytes in consecutive cells, which leaves each tagged word it touches full (R120). -/
def memWrite (s : State) (c : Nat) (bs : List Byte) (poison : Bool) : State :=
  let s := memStore s c bs poison
  if isTaggedCell c then
    { s with full := (unitsOf 4 c bs.length).foldl (fun f u => setAdd u f) s.full }
  else s

/-- Bytes, marks and full/empty bits of a range taken back to their reset values (R121). -/
def memClear (s : State) (lo hi : Nat) : State :=
  { s with
    cells := cellsClear lo hi s.cells
    full := setDelRange lo hi s.full
    marks := setDelRange lo hi s.marks
    errs := setDelRange lo hi s.errs }

/-- A small read as a number, little-endian (R6). -/
def readNat (s : State) (c n : Nat) : Nat := leNat (cellsRead s.cells c n)

/-- Bytes of physical HBM addresses, which may cross granules: each 256-byte granule lies in consecutive cells (R113). -/
def hbmReadLoop (s : State) (k : Masks) (pa : Nat) (fuel n : Nat) (acc : List Byte) (reason : Nat) : State × ReadOut :=
  match fuel with
  | 0 => (s, ⟨acc, reason⟩)
  | f + 1 =>
    if n = 0 then (s, ⟨acc, reason⟩) else
    let m := min n (256 - pa % 256)
    let r := memRead s (hbmCell k pa) m
    hbmReadLoop r.1 k (pa + m) f (n - m) (acc ++ r.2.bytes) (if reason = 0 then r.2.reason else reason)
def hbmRead (s : State) (k : Masks) (pa n : Nat) : State × ReadOut := hbmReadLoop s k pa (n / 256 + 2) n [] 0

def hbmWriteLoop (s : State) (k : Masks) (pa : Nat) (bs : List Byte) (poison : Bool) (fuel : Nat) : State :=
  match fuel with
  | 0 => s
  | f + 1 =>
    if bs.isEmpty then s else
    let m := 256 - pa % 256
    hbmWriteLoop (memWrite s (hbmCell k pa) (bs.take m) poison) k (pa + m) (bs.drop m) poison f
def hbmWrite (s : State) (k : Masks) (pa : Nat) (bs : List Byte) (poison : Bool) : State :=
  hbmWriteLoop s k pa bs poison (bs.length / 256 + 2)

/-- The first address from `a` upward that none of a partition's eight ranges, taken one after the other, holds. -/
def coveredTo (l : List (Nat × Nat)) : Nat → Nat → Nat
  | 0, a => a
  | k + 1, a =>
    match l.find? (fun r => decide (r.1 * 2 ^ 30 ≤ a ∧ a < (r.1 + r.2) * 2 ^ 30)) with
    | some r => coveredTo l k ((r.1 + r.2) * 2 ^ 30)
    | none => a
/-- Every one of `n` bytes from a physical address lies in some range of the partition (R370, R371); no bytes lie at a range. -/
def inRanges (p : Part) (pa n : Nat) : Bool :=
  if n = 0 then p.rangesList.any (fun r => decide (r.2 ≠ 0 ∧ r.1 * 2 ^ 30 ≤ pa ∧ pa ≤ (r.1 + r.2) * 2 ^ 30))
  else decide (pa + n ≤ coveredTo p.rangesList 8 pa)
def partOf (s : State) (x : Nat) : Option Part :=
  match tblGet x s.ctxs with
  | some c => tblGet c.part s.parts
  | none => none
def paAllowed (s : State) (x pa n : Nat) : Bool :=
  match partOf s x with
  | some p => decide (pa + n ≤ hbmBytes) && inRanges p pa n
  | none => false

end Sys2Proof.Machine
end

