-- ==== Sys2Proof/Machine/Pages.lean ====
section
/-! DEFINITION. Virtual addresses, page-table walks and translation (R103 to R112, R371, R375, R388). -/

namespace Sys2Proof.Machine

/-- A leaf entry, read (R105): its page's size as a power of two. -/
structure Leaf where
  kind : Nat
  pa : Nat
  bits : Nat
  fmt : Nat
  geom : Nat
  dev : Nat
  fpage : Nat
  pres : Bool
  r : Bool
  w : Bool
  x : Bool
  deriving DecidableEq, Repr

/-- How a walk ends: at a leaf of a level, read at a physical address, or with a reason of R388. -/
inductive WalkEnd where
  | leaf (level entryPa : Nat) (entry : BitVec 128)
  | fault (reason : Nat)
  deriving DecidableEq, Repr

def entryField (e : BitVec 128) (lo n : Nat) : Nat := bitsOf e.toNat lo n

/-- The page size of a leaf level (R104). -/
def levelBits (level : Nat) : Nat :=
  match level with
  | 0 => 16
  | 1 => 21
  | 2 => 30
  | _ => 39

def leafOf (level : Nat) (e : BitVec 128) : Leaf :=
  { kind := entryField e 0 3, pa := entryField e 9 31 * 512, bits := levelBits level, fmt := entryField e 40 5,
    geom := entryField e 45 4, dev := entryField e 120 8, fpage := entryField e 64 27, pres := e.getLsbD 6,
    r := e.getLsbD 3, w := e.getLsbD 4, x := e.getLsbD 5 }

/-- Alignment of the next table of a kind 1 entry at a level (R104, R106). -/
def tableAlign (level : Nat) : Nat := if level = 1 then 512 else 8192

/-- Whether an entry with a kind other than 0 is bad (R106). -/
def entryBad (level : Nat) (e : BitVec 128) : Bool :=
  let k := entryField e 0 3
  let pa := entryField e 9 31 * 512
  decide (5 ≤ k) || decide (entryField e 91 29 ≠ 0) || decide (entryField e 49 15 ≠ 0) || e.getLsbD 8 ||
  (if k = 1 then
     decide (level = 0) || decide (entryField e 64 64 ≠ 0) || decide (entryField e 40 9 ≠ 0) || decide (entryField e 3 5 ≠ 0) ||
     decide (pa % tableAlign level ≠ 0) || decide (hbmBytes ≤ pa)
   else if k = 3 then
     decide (level ≠ 0) || e.getLsbD 4 || decide (entryField e 120 8 ≠ 0) ||
     (e.getLsbD 6 && (decide (pa % 65536 ≠ 0) || decide (hbmBytes ≤ pa)))
   else
     decide (2 < level) || decide (entryField e 64 27 ≠ 0) || e.getLsbD 6 || (decide (k = 2) && decide (entryField e 120 8 ≠ 0)) ||
     decide (pa % 2 ^ levelBits level ≠ 0) || (decide (k = 2) && decide (hbmBytes ≤ pa)))

/-- Whether a leaf's format or geometry is bad (R88, R91, R106). -/
def formatBad (level : Nat) (e : BitVec 128) : Bool :=
  let f := entryField e 40 5
  let g := entryField e 45 4
  decide (15 ≤ f) || (decide (f ≠ 10 ∧ f ≠ 11 ∧ f ≠ 12 ∧ f ≠ 13) && decide (g ≠ 0)) ||
  (decide (f = 12 ∨ f = 13) && decide (3 ≤ g)) || (decide (f = 14) && decide (level ≠ 0))

/-- The index of an address at a level (R104). -/
def levelIndex (level va : Nat) : Nat := if level = 0 then bitsOf va 16 5 else bitsOf va (12 + 9 * level) 9

/-- One entry of a walk: the end of the walk, or the next table (R104). -/
def walkEntry (s : State) (x : Nat) (k : Masks) (va table level : Nat) : State × (WalkEnd ⊕ Nat) :=
  let ea := table + 16 * levelIndex level va
  if !paAllowed s x ea 16 then (s, .inl (.fault 5)) else
  let r := memRead s (hbmCell k ea) 16
  let e : BitVec 128 := BitVec.ofNat 128 (leNat r.2.bytes)
  if r.2.reason ≠ 0 then (r.1, .inl (.fault 3))
  else if entryField e 0 3 = 0 then (r.1, .inl (.fault 2))
  else if entryBad level e then (r.1, .inl (.fault 3))
  else if entryField e 0 3 = 1 then (r.1, .inr (entryField e 9 31 * 512))
  else if formatBad level e then (r.1, .inl (.fault 4))
  else (r.1, .inl (.leaf level ea e))

/-- A walk from a table of a level downward (R104). -/
def walkFrom (s : State) (x : Nat) (k : Masks) (va table : Nat) : Nat → State × WalkEnd
  | 0 =>
    match walkEntry s x k va table 0 with
    | (s, .inl e) => (s, e)
    | (s, .inr _) => (s, .fault 3)
  | l + 1 =>
    match walkEntry s x k va table (l + 1) with
    | (s, .inl e) => (s, e)
    | (s, .inr t) => walkFrom s x k va t l

/-- A walk of a context's tree, under the context's masks (R104, R116). -/
def walk (s : State) (x va : Nat) : State × WalkEnd :=
  match tblGet x s.ctxs with
  | some c => walkFrom s x c.masks va c.root 4
  | none => (s, .fault 2)

/-- The permissions an access needs (R107); `tagged` for the full/empty accesses that a peer page refuses (R112). -/
structure Need where
  r : Bool
  w : Bool
  x : Bool
  tagged : Bool
  deriving DecidableEq, Repr

def needRead : Need := ⟨true, false, false, false⟩
def needWrite : Need := ⟨false, true, false, false⟩
def needBoth : Need := ⟨true, true, false, false⟩
def needExec : Need := ⟨false, false, true, false⟩

/-- The outcome of a translation: a target, a fault with a reason of R388, or an absent flash page. -/
inductive Xlat where
  | ok (t : Target)
  | fault (reason : Nat)
  | absent (fpage : Nat)
  deriving DecidableEq, Repr

/-- The flash pages below the firmware region (R375). -/
def flashPages : Nat := 0x8000000 - 16384

/-- A leaf against the permissions, the partition and the presence of its page (R107, R110, R112, R371, R375). -/
def grantLeaf (s : State) (x va : Nat) (need : Need) (l : Leaf) : Xlat :=
  let off := va % 2 ^ l.bits
  if (need.r && !l.r) || (need.w && !l.w) || (need.x && !l.x) then .fault 5
  else if l.kind = 4 then
    match partOf s x with
    | some p =>
      if need.tagged || !(p.peers.testBit (s.routes.getD l.dev 0)) then .fault 5
      else .ok ⟨true, l.dev, l.pa + off, l.fmt, l.geom, l.bits⟩
    | none => .fault 5
  else if l.kind = 3 ∧ !l.pres then
    match partOf s x with
    | some p => if p.fbase ≤ l.fpage ∧ l.fpage < p.fbase + p.fcount ∧ l.fpage < flashPages then .absent l.fpage else .fault 5
    | none => .fault 5
  else if !paAllowed s x (l.pa + off) 1 then .fault 5
  else .ok ⟨false, 0, l.pa + off, l.fmt, l.geom, l.bits⟩

/-- A held copy of a leaf that covers an address (R108). -/
def copyCovers (x va : Nat) (c : LeafCopy) : Bool := decide (c.ctx = x ∧ c.vpage = va / 2 ^ levelBits c.level)

/-- The walker sets `acc` in a leaf it serves an access from (R107, R108). -/
def setAcc (s : State) (k : Masks) (ea : Nat) (e : BitVec 128) : State :=
  if e.getLsbD 7 then s else { s with cells := cellsWrite s.cells (hbmCell k ea) (leBytes (bitsOf e.toNat 0 64 + 128) 8) }

/-- A copy of a leaf is kept (R108). -/
def keepCopy (s : State) (x va level : Nat) (e : BitVec 128) : State :=
  let c : LeafCopy := ⟨x, level, va / 2 ^ levelBits level, e ||| 128#128⟩
  if c ∈ s.copies then s else { s with copies := c :: s.copies }

/-- What the tree as it stands gives an access. -/
def freshXlat (s : State) (x va : Nat) (need : Need) : State × Xlat :=
  match walk s x va with
  | (s, .fault r) => (s, .fault r)
  | (s, .leaf level ea e) =>
    match grantLeaf s x va need (leafOf level e) with
    | .ok t =>
      match tblGet x s.ctxs with
      | some c => (keepCopy (setAcc s c.masks ea e) x va level e, .ok t)
      | none => (s, .ok t)
    | o => (s, o)

/-- Translation of a canonical address for an access (R103 to R112). A superseded copy that is still held may serve instead of
the tree (R108; log 8): which, where both exist and differ, is a free choice. -/
def translate (s : State) (x va : Nat) (need : Need) : State × Xlat :=
  let f := freshXlat s x va need
  match (s.copies.find? (fun c => copyCovers x va c && decide (grantLeaf s x va need (leafOf c.level c.entry) ≠ f.2))) with
  | none => f
  | some c =>
    if Config.freeChoice s.free then ({ s with free := s.free + 1 }, grantLeaf s x va need (leafOf c.level c.entry))
    else ({ f.1 with free := f.1.free + 1 }, f.2)

/-- The translation of an access: one that is tried again after it froze walks afresh (R404). -/
def translateAs (fresh : Bool) (s : State) (x va : Nat) (need : Need) : State × Xlat :=
  if fresh then freshXlat s x va need else translate s x va need

/-- A 64-bit virtual address: reason 1 where bits [63:57] are not zero (R103). -/
def translateWord (s : State) (x : Nat) (va : Word) (need : Need) : State × Xlat :=
  if va.toNat < 2 ^ 57 then translate s x va.toNat need else (s, .fault 1)

/-- The copies that an invalidation covers are dropped (R206). -/
def dropCopies (s : State) (x : Nat) (va : Option Nat) : State :=
  { s with copies := s.copies.filter (fun c => !(match va with
      | some a => copyCovers x a c
      | none => decide (c.ctx = x))) }

/-- The key of a fill: at most one per context and flash page (R110). -/
def fillKey (x fpage : Nat) : Nat := x * 0x8000000 + fpage

/-- The entry that an access meets, and its bits [63:0] as they are read (R108). -/
def entryRead (s : State) (x va : Nat) : Option (Nat × Nat) :=
  match (walk s x va).2 with
  | .leaf _ ea e => some (ea, bitsOf e.toNat 0 64)
  | .fault _ => none
/-- A fill is begun where none runs (R110). -/
def startFill (s : State) (x fpage va : Nat) : State :=
  match tblGet (fillKey x fpage) s.fills with
  | some _ => s
  | none => { s with fills := tblSet (fillKey x fpage) ⟨none, va, entryRead s x va, false⟩ s.fills }

/-- The reason of an access to an absent page: not present, or no frame where its fill has found none (R111). -/
def absentReason (s : State) (x fpage : Nat) : Nat := if (tblGet (fillKey x fpage) s.fills).any (·.noFrame) then 7 else 6

/-- Bytes of virtual memory, read across pages under the masks `k`: the bytes and 0, or the first failure, as the trap or
report that R210 and R39 name (the XLATE reason, an absent page, or poison with its reason). -/
inductive VRead where
  | ok (bs : List Byte)
  | xlate (reason addr : Nat)
  | absent (fpage addr : Nat)
  | poison (reason addr : Nat)
  | peer (dev pa addr : Nat)
  deriving DecidableEq, Repr

end Sys2Proof.Machine
end

