-- ==== Sys2Proof/Machine/Report.lean ====
section
/-! DEFINITION. Events, fault records and disclosure (R350, R351, R367, R382, R435). -/

namespace Sys2Proof.Machine

/-- A context's fields changed. -/
def modCtx (s : State) (x : Nat) (f : Ctx → Ctx) : State := { s with ctxs := tblMod x f s.ctxs }
def ctxOf (s : State) (x : Nat) : Option Ctx := tblGet x s.ctxs
/-- The masks that the device itself uses for a context's structures in HBM: the context's (R116; log 21). -/
def ctxMasks (s : State) (x : Nat) : Masks :=
  match ctxOf s x with
  | some c => c.masks
  | none => defaultMasks

/-- Whether a context's partition requires policies (R350, R370). -/
def needsPolicy (s : State) (c : Ctx) : Bool := (tblGet c.part s.parts).any (fun p => p.flags.testBit 0)
/-- The policy in force: in a partition that requires policies, none from `notafter` onward (R350). -/
def policyNow (s : State) (c : Ctx) : Option Policy :=
  c.policy.filter (fun p => !(needsPolicy s c && decide (p.notafter ≠ 0 ∧ p.notafter ≤ s.now)))
/-- The level of a disclosure class, 0 withheld, 1 coarse, 2 full (R350). -/
def classLevel (s : State) (x k : Nat) : Nat :=
  match ctxOf s x with
  | none => 2
  | some c =>
    match policyNow s c with
    | some p => p.levels.getD k 0
    | none => if needsPolicy s c then 0 else 2
/-- The granularity exponents in force: time, counters, addresses. -/
def policyGran (s : State) (x : Nat) : Nat × Nat × Nat :=
  match ctxOf s x with
  | some c => match policyNow s c with
    | some p => (p.tgran, p.cgran, p.agran)
    | none => (0, 0, 0)
  | none => (0, 0, 0)
/-- A number rounded down to a multiple of 2^k (R351). -/
def coarsen (k n : Nat) : Nat := n / 2 ^ k * 2 ^ k

/-- An event is signalled: `status`, with the reserved bits zero (R8), then `count` one higher (R367). Events at or beyond `nevent` are never
signalled. -/
def signalEvent (s : State) (x e status : Nat) : State :=
  match ctxOf s x with
  | none => s
  | some c =>
    if c.nevent ≤ e then s else
    let pa := c.events + 16 * e
    let count := leNat (hbmRead s c.masks pa 8).2.bytes
    let s := hbmWrite s c.masks (pa + 8) (leBytes (status % 256) 8) false
    hbmWrite s c.masks pa (leBytes ((count + 1) % 2 ^ 64) 8) false

/-- A fault record (R382) before disclosure. -/
structure Record where
  code : Nat
  reason : Nat
  origin : Nat
  launch : Nat
  task : Nat
  form : Nat
  node : Nat
  wher : Nat
  word : Nat
  addr : Nat
  detail : Nat
  pc : Nat
  deriving DecidableEq, Repr

/-- A record that names no launch, task, formation or node. -/
def plainRecord (code reason origin : Nat) : Record :=
  ⟨code, reason, origin, 0xFFFFFFFF, 0xFFFFFFFF, 0xFFFFFFFF, 0xFFFFFFFF, 0, 0, 0, 0, 0⟩

/-- The `detail` of a record under a coarse class 4 (R351; log 22): the token of a `TOKEN`, of a matrix node's operand and of a `GUARD`, and
the token data of a `MISMATCH`, are 0; the frame of a translation fault (R407, R110) has its low bits cleared. -/
def coarseDetail (g : Nat) (r : Record) : Nat :=
  if r.code = 0x27 ∨ (r.code = 0x26 ∧ r.reason = 13) then 0
  else if r.code = 0x28 then r.detail / 2 ^ 38 * 2 ^ 38
  else if r.code = 0x24 then r.detail % 65536
  else if r.code = 4 ∨ (r.code = 0x26 ∧ r.reason = 9) then r.detail % 65536 + coarsen g (r.detail / 65536 * 65536)
  else r.detail
/-- A record under class 4 of the policy (R351; log 22): coarse clears low address bits and gives tokens as 0; withheld keeps
the cause code only. -/
def disclose (s : State) (x : Nat) (r : Record) : Record × Nat :=
  let level := classLevel s x 4
  let g := (policyGran s x).2.2
  if level = 2 then (r, 0)
  else if level = 1 then
    ({ r with addr := coarsen g r.addr, detail := coarseDetail g r,
              pc := if r.origin = 0 then coarsen g r.pc else r.pc }, 8)
  else (⟨r.code, 0, 0, 0, 0, 0, 0, 0, 0, 0, 0, 0⟩, 10)

/-- The 64 bytes of a record (R382). -/
def recordBytes (time flags : Nat) (r : Record) : List Byte :=
  leBytes time 8 ++ leBytes r.code 2 ++ leBytes r.reason 1 ++ leBytes r.origin 1 ++ leBytes flags 2 ++ leBytes 0 2 ++
  leBytes r.launch 4 ++ leBytes r.task 4 ++ leBytes r.form 4 ++ leBytes r.node 4 ++ leBytes r.wher 4 ++ leBytes r.word 4 ++
  leBytes r.addr 8 ++ leBytes r.detail 8 ++ leBytes r.pc 8

/-- The address of a context's fault area (R382). -/
def faultArea (c : Ctx) : Nat := roundUpTo 64 (c.events + 16 * c.nevent)

/-- A record is written to the context's fault area, and then its `head` moves; the header's other bytes are zero (R382). -/
def writeRecord (s : State) (x : Nat) (r : Record) : State :=
  match ctxOf s x with
  | none => s
  | some c =>
    let area := faultArea c
    let head := leNat (hbmRead s c.masks area 8).2.bytes
    let d := disclose s x r
    let time := coarsen (policyGran s x).1 s.now
    let flags := d.2 + (if time ≠ s.now then 4 else 0)
    let s := hbmWrite s c.masks (area + 64 + 64 * (head % 64)) (recordBytes time flags d.1) false
    hbmWrite s c.masks area (leBytes ((head + 1) % 2 ^ 64) 64) false

/-- The context's notice event is signalled (R425). -/
def signalNotice (s : State) (x : Nat) : State :=
  match ctxOf s x with
  | some c => if c.nevent = 0 then s else signalEvent s x (c.nevent - 1) 0
  | none => s

/-- A counter of R345 moved up. -/
def addCounter (s : State) (x off n : Nat) : State :=
  modCtx s x (fun c => { c with counters := tblSet off ((tblGet off c.counters).getD 0 + n) c.counters })

/-- Time that a frozen access has spent is counted at 0x80 of R345 (R403). -/
def countFrozen (s : State) (x : Nat) (z : Freeze) : State := addCounter s x 0x80 (s.now - z.last)
/-- That of frozen accesses which end or are given up: those that are woken have been counted, and a part that waits for a peer's reply or for an
earlier part is not frozen. -/
def countFrosts (s : State) (x : Nat) (zs : List Frost) : State :=
  zs.foldl (fun s z => if z.woken || decide (z.frz.reason = 0 ∨ z.frz.reason = 255) then s else countFrozen s x z.frz) s

/-- The next free value. -/
def freeNat (s : State) : State × Nat := ({ s with free := s.free + 1 }, (Config.freeWord s.free).toNat)

end Sys2Proof.Machine
end

