-- ==== Sys2Proof/Machine/Threads.lean ====
section
/-! DEFINITION. Control threads: registers, retiring an instruction, energy quota (R173, R174, R197, R360, R437). -/

namespace Sys2Proof.Machine

/-- A thread's fields changed. -/
def modThread (s : State) (t : Nat) (f : Thread → Thread) : State := { s with threads := tblMod t f s.threads }

/-- A general register: `g0` reads as zero (R173). -/
def regGet (th : Thread) (k : BitVec 5) : Word := if k = 0 then 0 else (tblGet k.toNat th.regs).getD 0

/-- A general register written: writes to `g0` are discarded (R173). -/
def regSet (th : Thread) (k : BitVec 5) (v : Word) : Thread :=
  if k = 0 then th else { th with regs := tblSet k.toNat v th.regs }

/-- The cluster and slot of a thread (R173, R21). -/
def clusterOf (t : Nat) : Nat := t / 16
def slotOf (t : Nat) : Nat := t % 16

/-- The `intrap` and `pend` bits of `status` (R198). -/
def inTrap (th : Thread) : Bool := th.status.getLsbD 0
def statusBits (intrap pend : Bool) : Word := (if intrap then 1 else 0) + (if pend then 2 else 0)

/-- An item in placing is withdrawn from the placer and returns to ready (R311). -/
def withdrawForm (now x : Nat) (f : Form) : Form :=
  if f.ctx = x ∧ f.phase = .placing then { f with phase := .ready, readyAt := now, nodes := [], arcs := [], isles := [], pool := [] } else f

/-- A formation of a context that is pre-empted: in placing, it is withdrawn; armed, a marker drain cuts it, unless its DRAIN has
already entered (R311, R319 steps 1 and 4). -/
def preemptForm (now x : Nat) (f : Form) : Form :=
  if f.ctx = x ∧ f.phase = .armed ∧ !f.draining then { f with phase := .cutting } else withdrawForm now x f

/-- A command of a thread of context `x` that waits for a reservation. -/
def asksFrom (x : Nat) (c : Cmd) : Bool := c.asked.isSome && c.node.isNone && decide (c.ctx = x)
/-- The time that such a command has waited (R345). -/
def askedFor (now : Nat) (c : Cmd) : Nat := now - c.asked.getD now
/-- The commands of a context's threads no longer ask for reservations; what they have waited is counted at 0x88 (R345). -/
def withdrawAsks (s : State) (x : Nat) : State :=
  let waited := s.clusters.flatMap (fun k => k.2.units.flatMap (fun q => (q.2.queue.filter (asksFrom x)).map (askedFor s.now)))
  let drop (q : UnitQ) : UnitQ := { q with queue := q.queue.map (fun c => if asksFrom x c then { c with asked := none } else c) }
  addCounter { s with clusters := tblMap (fun _ k => { k with units := tblMap (fun _ q => drop q) k.units }) s.clusters } x 0x88 waited.sum

/-- Sites, ports, slots or room in a save area have been given up: the placer tries again what it has passed over (R315). -/
def offerPlaces (s : State) : State :=
  if s.forms.any (fun f => f.2.passed) then { s with forms := tblMap (fun _ f => { f with passed := false }) s.forms } else s

/-- The pre-emption of a context begins: nothing of it is dispatched, its threads stop at their next boundary, and its formations are
cut (R319, R320); what its items gave up in placing is offered to others (R311, R315). -/
def beginPreempt (s : State) (x : Nat) : State :=
  let s := withdrawAsks s x
  let back (ts : Task) : Task := if ts.state = .placing then { ts with state := .ready, readyAt := s.now } else ts
  let s := { s with launches := tblMap (fun _ l => if l.ctx = x then { l with tasks := l.tasks.map back } else l) s.launches
                    forms := tblMap (fun _ f => preemptForm s.now x f) s.forms }
  offerPlaces (modCtx s x (fun c => if c.phase = .running then { c with phase := .stopping, epoch := c.epoch + 1, quotaHold := false } else c))

/-- A debugger halts something of the context (R348). -/
def haltsInForce (s : State) (x : Nat) : Bool :=
  s.halts.any (fun h => h.1 / 16 == x) || s.breaks.any (fun b => b.1 / 8 == x && b.2.hit)

/-- The halts of a whole context (R346): they hold its later threads and formations too (log 67). -/
def ctxHolds (s : State) (x : Nat) : NatSet :=
  (s.halts.filter (fun h => h.1 / 16 == x && h.2.target == 2)).map (fun h => h.1 % 16)

/-- A debit of a context's quota (R360): nothing is debited while the count is at or below 0. The debit that leaves it there
writes the QUOTA record, signals the notice event and starts the pre-emption, which waits while a halt is in force (R348, R437). -/
def debit (s : State) (x : Nat) (pj : Nat) : State :=
  match ctxOf s x with
  | none => s
  | some c =>
    if !c.quotaOn || decide (c.quota ≤ 0) then s else
    let q := c.quota - pj
    let s := modCtx s x (fun c => { c with quota := q })
    if 0 < q then s else
    let s := writeRecord s x { plainRecord 0x29 1 7 with detail := (BitVec.ofInt 64 q).toNat }
    let s := signalNotice s x
    if haltsInForce s x then modCtx s x (fun c => { c with quotaHold := true }) else beginPreempt s x

/-- Whether the work of a context is debited: not while its count is at or below 0 (R360). -/
def debits (c : Ctx) : Bool := c.quotaOn && decide (0 < c.quota)
/-- One more completed instruction of a context: each 1,024 that are debited debit 256 pJ (R360). -/
def countInstr (s : State) (x : Nat) : State :=
  match ctxOf s x with
  | none => s
  | some c =>
    let s := modCtx s x (fun c => { c with instrs := c.instrs + 1, paid := if debits c then c.paid + 1 else c.paid })
    if debits c ∧ (c.paid + 1) % 1024 = 0 then debit s x 256 else s

/-- An instruction completes: it no longer waits, `icnt` counts it, and the next one is at `pc` (R174, R197). -/
def retireAt (s : State) (t : Nat) (pc : Word) : State :=
  match tblGet t s.threads with
  | none => s
  | some th =>
    let s := modThread s t (fun th => { th with pc := pc, wait := .none, icnt := th.icnt + 1 })
    countInstr s th.ctx

/-- An instruction completes and execution goes on at `pc + 4`. -/
def retire (s : State) (t : Nat) : State :=
  match tblGet t s.threads with
  | none => s
  | some th => retireAt s t (th.pc + 4)

/-- An instruction completes with a result in a register. -/
def retireWith (s : State) (t : Nat) (d : BitVec 5) (v : Word) : State :=
  retire (modThread s t (fun th => regSet th d v)) t

/-- What a thread keeps of interrupted `barw`s but for the one at its pc, on set `k` (R266). -/
def otherBarw (th : Thread) (k : Nat) : List (Nat × Nat × Nat) := th.barwHeld.filter (fun e => !decide (e.1 = th.pc.toNat ∧ e.2.1 = k))

/-- The thread waits at the instruction (R174). -/
def waitAt (s : State) (t : Nat) (w : Wait) : State := modThread s t (fun th => { th with wait := w })

/-- The posted stores of a thread are all performed. -/
def storesDone (th : Thread) : Bool := th.posted.isEmpty

/-- An asynchronous trap is raised in a thread: it joins those pending, in the order raised (R176, R432). A thread that has
stopped issuing takes none (R204, R383). -/
def raiseAsync (s : State) (t : Nat) (code detail : Nat) : State :=
  modThread s t (fun th =>
    if th.life ≠ .running then th
    else { th with asyncs := th.asyncs ++ [⟨code, detail⟩], status := statusBits (inTrap th) (inTrap th) })

end Sys2Proof.Machine
end

