-- ==== Sys2Proof/Machine/Sets.lean ====
section
/-! DEFINITION. Membership sets and barrier phases (R45, R46, R264 to R267, R428, R429). -/

namespace Sys2Proof.Machine

/-- The key of a context's set. -/
def setKey (x n : Nat) : Nat := x * 256 + n

/-- {status, phase} of `barw`, `bara` and `barwp` (R264). -/
def phaseResult (status phase : Nat) : Word := BitVec.ofNat 64 (status * 2 ^ 32 + phase % 2 ^ 32)

/-- Whether a phase has completed when `cur` is the current one (R266). -/
def phaseOver (cur p : Nat) : Bool :=
  let d := (cur + 2 ^ 32 - p % 2 ^ 32) % 2 ^ 32
  decide (1 ≤ d ∧ d ≤ 2 ^ 31)

/-- A thread waiting on a set is resumed with a status where `told` gives a phase for the phase it waits for and for whether it waits
as a member; one stalled before an arrival (R265) executes its instruction again. -/
def resumeOne (key status : Nat) (told : Nat → Bool → Option Nat) (s : State) (t : Nat) : State :=
  match tblGet t s.threads with
  | none => s
  | some th =>
    match th.wait with
    | .phase k p member gd =>
      if k ≠ key then s else
      match told p member with
      | some q => retireWith (modThread s t (fun th => { th with barwHeld := otherBarw th key })) t (BitVec.ofNat 5 gd) (phaseResult status q)
      | none => s
    | .arrive k _ => if k = key then waitAt s t .none else s
    | _ => s
def resumeWaiters (s : State) (key status : Nat) (told : Nat → Bool → Option Nat) : State :=
  (s.threads.map (·.1)).foldl (resumeOne key status told) s

/-- Every member of a required group has arrived. -/
def allArrived (o : SetObj) : Bool := o.required.all (fun t => setHas t o.arrived)

/-- The phase that follows a completed one (R46): arrivals for it are now for the current phase. -/
def nextPhase (o : SetObj) : SetObj :=
  { o with phase := (o.phase + 1) % 2 ^ 32, required := o.members, arrived := o.arrivedNext, arrivedNext := [] }

/-- The current phase completes, and the next as well where every member has arrived for it (R46). -/
def completePhases (s : State) (key : Nat) : Nat → State
  | 0 => s
  | f + 1 =>
    match tblGet key s.sets with
    | none => s
    | some o =>
      if !allArrived o then s else
      let o' := nextPhase o
      let s := { s with sets := tblSet key o' s.sets }
      let s := resumeWaiters s key 0 (fun p _ => if phaseOver o'.phase p then some p else none)
      if o'.members.isEmpty then s else completePhases s key f

/-- Phase checks after a change to a set: at most the current phase and the one after it can be complete (R265). -/
def settleSet (s : State) (key : Nat) : State := completePhases s key 2

/-- The sets a thread belongs to (R45). -/
def setsOf (s : State) (t : Nat) : List Nat := (s.sets.filter (fun p => setHas t p.2.members)).map (·.1)

/-- A thread joins a set, which the join creates where it is empty (R45, R46). -/
def joinSet (s : State) (key t : Nat) : State :=
  match tblGet key s.sets with
  | none => { s with sets := tblSet key ⟨[t], 0, [t], [], []⟩ s.sets }
  | some o => { s with sets := tblSet key { o with members := setAdd t o.members } s.sets }

/-- A thread leaves a set: it leaves the required group it has not arrived for, and the leave that empties the set destroys it,
resuming every `barwp` on it with status 1 (R45, R46, R429). -/
def leaveSet (s : State) (key t : Nat) : State :=
  match tblGet key s.sets with
  | none => s
  | some o =>
    let o' := { o with
      members := setDel t o.members
      required := if setHas t o.arrived then o.required else setDel t o.required
      arrivedNext := setDel t o.arrivedNext }
    if o'.members.isEmpty then
      resumeWaiters { s with sets := tblDel key s.sets } key 1 (fun p _ => some p)
    else settleSet { s with sets := tblSet key o' s.sets } key

/-- The phase that a member's arrival is for: the current one, unless it is not in its required group or has arrived for it;
`none` where it holds an arrival for the next phase too (R265). -/
def arrivalPhase (o : SetObj) (t : Nat) : Option Nat :=
  if setHas t o.required && !setHas t o.arrived then some o.phase
  else if setHas t o.arrivedNext then none
  else some ((o.phase + 1) % 2 ^ 32)

/-- An arrival is recorded (R265). -/
def recordArrival (s : State) (key t p : Nat) : State :=
  match tblGet key s.sets with
  | none => s
  | some o =>
    if p = o.phase then { s with sets := tblSet key { o with arrived := setAdd t o.arrived } s.sets }
    else { s with sets := tblSet key { o with arrivedNext := setAdd t o.arrivedNext } s.sets }

/-- `binit` revokes the current phase (R267, R428): a `barw` that waits is told the revoked phase, a `barwp` its own. -/
def revokePhase (s : State) (key : Nat) : State :=
  match tblGet key s.sets with
  | none => s
  | some o =>
    let s := { s with sets := tblSet key { o with phase := (o.phase + 1) % 2 ^ 32, required := o.members, arrived := [], arrivedNext := [] } s.sets }
    resumeWaiters s key 1 (fun p member => if phaseOver o.phase p then none else some (if member then o.phase else p))

end Sys2Proof.Machine
end

