-- ==== Sys2Proof/Machine/Locks.lean ====
section
/-! DEFINITION. The lock manager: items, modes, transactions, wounds (R269 to R277, R430, R431). -/

namespace Sys2Proof.Machine

/-- The compatibility matrix of a context's partition (R270). -/
def lockMatrixOf (s : State) (x : Nat) : Word :=
  match partOf s x with
  | some p => p.lockMatrix
  | none => 0x000000100105030F
/-- A mode held as `h` is compatible with a request for `r` (R270). -/
def compatible (m : Word) (h r : Nat) : Bool := m.getLsbD (8 * h + r)

/-- Modes: 0 IS, 1 IX, 2 S, 3 SIX, 4 INC, 5 X, 6 CA, 7 CB (R270). Held `h` covers `r` (R272). -/
def covers (h r : Nat) : Bool :=
  decide (h = r) || decide (h = 5) || (decide (h = 3) && decide (r = 2 ∨ r = 0 ∨ r = 1)) ||
  (decide (h = 2 ∨ h = 1) && decide (r = 0))
/-- A parent held in `h` permits a request for `r` below it (R272). -/
def parentPermits (h r : Nat) : Bool :=
  if r = 0 ∨ r = 2 then h ∈ [0, 1, 2, 3, 5] else h ∈ [1, 3, 5]
/-- The mode held once an escalation from `h` for `r` is granted; `none` where it is not allowed (R273). -/
def escalated (h r : Nat) : Option Nat :=
  match h, r with
  | 2, 5 => some 5
  | 4, 5 => some 5
  | 0, 2 => some 2
  | 0, 5 => some 5
  | 1, 5 => some 5
  | 1, 2 => some 3
  | _, _ => none

/-- Fields of an item word (R269). -/
def itemLevel (w : Nat) : Nat := bitsOf w 62 2
def itemId (w : Nat) : Nat := bitsOf w 32 12
def itemIndex (w : Nat) : Nat := bitsOf w 0 32
def itemWord (level id index : Nat) : Nat := level * 2 ^ 62 + id * 2 ^ 32 + index
def ceilDivNat (a b : Nat) : Nat := (a + b - 1) / b

/-- The parent of an item: `none` where the item word is bad (R269, R275 status 3), `some none` for a tensor. -/
def itemParent (s : State) (x w : Nat) : Option (Option Nat) :=
  if bitsOf w 44 18 ≠ 0 ∨ itemLevel w = 3 then none else
  match tblGet (x * 4096 + itemId w) s.lockTensors with
  | none => none
  | some t =>
    let ct := ceilDivNat t.cols t.tw
    if itemLevel w = 0 then (if itemIndex w = 0 then some none else none)
    else if itemLevel w = 1 then
      (if itemIndex w < ceilDivNat t.rows t.th * ct then some (some (itemWord 0 (itemId w) 0)) else none)
    else
      let o := 128 * itemIndex w
      let col := o % t.pitch / t.esize
      if ceilDivNat (t.pitch * t.rows) 128 ≤ itemIndex w ∨ t.cols ≤ col then none
      else some (some (itemWord 1 (itemId w) (o / t.pitch / t.th * ct + col / t.tw)))

/-! The check of each line that an engine holds in the overflow area (R427; log 87). -/

/-- The 64-byte lines that `n` bytes from a cell touch, where they lie in the overflow area in HBM. -/
def ovfLines (inS : Bool) (c n : Nat) : List Nat := if inS && isHbmCell c then unitsOf 64 c n else []
/-- Whether a line that the engine wrote for context `x` still fits its check; the engine holds no check of a line it never wrote. -/
def lineFits (s : State) (x l : Nat) : Bool :=
  match tblGet l s.ovfChecks with
  | some v => decide (v.1 ≠ x) || decide (Config.lineCheck (cellsRead s.cells l 64) = v.2)
  | none => true
/-- The checks of lines that the engine has written for context `x`. -/
def noteLines (s : State) (x : Nat) (ls : List Nat) : State :=
  { s with ovfChecks := ls.foldl (fun t l => tblSet l (x, Config.lineCheck (cellsRead s.cells l 64)) t) s.ovfChecks }
/-- Resident size and overflow base of a quadrant's S window (R250). -/
def sResident (s : State) (x q : Nat) : Nat :=
  match ctxOf s x with
  | some c => c.sres.getD q 0 * 65536
  | none => 0
def sOverflow (s : State) (x q : Nat) : Nat :=
  match ctxOf s x with
  | some c => c.sovf.getD q 0
  | none => 0

/-- The line that an item newly kept takes in the overflow area: none while its lock manager's memory has room (R269). What the line holds of it
is no state of the model beyond the item itself (log 87). -/
def itemLine (s : State) (x w : Nat) : State × Option Nat :=
  let q := itemId w % 4
  if (s.lockItems.filter (fun i => decide (itemId i.word % 4 = q) && i.line.isNone)).length < 16384 then (s, none) else
  let off := sResident s x q + 64 * Config.itemPlace x w % (0x400000 - sResident s x q)
  match translate s x (sOverflow s x q + 0x400000 * q + off) ⟨true, true, false, true⟩ with
  | (s, .ok g) => (s, if g.peer then none else some (hbmCell (ctxMasks s x) g.pa / 64 * 64))
  | (s, _) => (s, none)

/-- The item record of a context's item word, and the table of items with it replaced; an item with neither holder nor waiter
is not kept. -/
def findItem (s : State) (x w : Nat) : LockItem :=
  (s.lockItems.find? (fun i => decide (i.ctx = x ∧ i.word = w))).getD ⟨x, w, [], [], none⟩
def putItem (s : State) (i : LockItem) : State :=
  let rest := s.lockItems.filter (fun j => !decide (j.ctx = i.ctx ∧ j.word = i.word))
  if i.holders.isEmpty && i.queue.isEmpty then { s with lockItems := rest } else
  let r := if s.lockItems.any (fun j => decide (j.ctx = i.ctx ∧ j.word = i.word)) then (s, i.line) else itemLine s i.ctx i.word
  noteLines { r.1 with lockItems := { i with line := r.2 } :: rest } i.ctx r.2.toList

/-- The record of an item, where it lies in the overflow area, fits its check (R427). -/
def itemFits (s : State) (i : LockItem) : Bool := i.line.all (lineFits s i.ctx)
/-- The engine has read back a damaged item of a context: the item stays as it is, and the context is lost with the end of the turn (R420,
R421, R427). -/
def strike (s : State) (x : Nat) : State := { s with struck := setAdd x s.struck }

/-- The mode a transaction holds an item in. -/
def heldMode (i : LockItem) (n : Nat) : Option Nat := (i.holders.find? (fun h => h.txn == n)).map (·.mode)
/-- The items a transaction holds; whether it holds or awaits anything. -/
def itemsHeld (s : State) (n : Nat) : List LockItem := s.lockItems.filter (fun i => (heldMode i n).isSome)
def txnBusy (s : State) (n : Nat) : Bool :=
  s.lockItems.any (fun i => (heldMode i n).isSome || i.queue.any (fun r => r.txn == n))

/-- (age, serial) in order: whether transaction `a` is older than `b` (R271). -/
def olderTxn (a b : Txn) : Bool := decide (a.age < b.age) || (decide (a.age = b.age) && decide (a.serial < b.serial))
def txnAt (s : State) (n : Nat) : Txn := (tblGet n s.txns).getD ⟨0, .thread 0, 0, 0, false⟩
def older (s : State) (a b : Nat) : Bool := olderTxn (txnAt s a) (txnAt s b)

/-- The number of a transaction in progress of an owner. -/
def txnOf (s : State) (x : Nat) (o : TxnOwner) : Option Nat :=
  (s.txns.find? (fun p => decide (p.2.ctx = x ∧ p.2.owner = o))).map (·.1)

/-- The owner of a thread's requests: its current transaction's while that holds anything; otherwise the set that `setid`
names, where the thread belongs to it, or the thread itself (R271). -/
def ownerFor (s : State) (t : Nat) (th : Thread) : TxnOwner :=
  let holds := match txnOf s th.ctx th.txnOwner with
    | some n => !(itemsHeld s n).isEmpty
    | none => false
  if holds then th.txnOwner else
  match tblGet (setKey th.ctx th.setid) s.sets with
  | some o => if th.setid < 256 && setHas t o.members then .set (setKey th.ctx th.setid) else .thread t
  | none => .thread t

/-- A transaction that holds and awaits nothing ends, and is no thread's current one any more; one that was wounded hands its age and serial
on (R271). -/
def endIfIdle (s : State) (n : Nat) : State :=
  if txnBusy s n then s else
  match tblGet n s.txns with
  | none => s
  | some x => { s with
      txns := tblDel n s.txns, heirs := if x.wounded then x :: s.heirs else s.heirs
      threads := tblMap (fun t th => if th.ctx = x.ctx ∧ th.txnOwner = x.owner then { th with txnOwner := .thread t } else th) s.threads }

/-- The transaction of an owner, begun at its first request (R271). -/
def beginTxn (s : State) (x : Nat) (o : TxnOwner) : State × Nat :=
  match txnOf s x o with
  | some n => (s, n)
  | none =>
    let n := (tblFree 0 0x100000000 s.txns).getD 0
    match s.heirs.find? (fun h => decide (h.ctx = x ∧ h.owner = o)) with
    | some h => ({ s with
        txns := tblSet n { h with wounded := false } s.txns
        heirs := s.heirs.filter (fun g => !decide (g.ctx = x ∧ g.owner = o)) }, n)
    | none => ({ s with txns := tblSet n ⟨x, o, s.now, s.nextSerial, false⟩ s.txns, nextSerial := s.nextSerial + 1 }, n)

/-- Whether a thread has a copy that has not completed: its handle filling or draining, or claimed by a queued copy (R274). -/
def copiesPending (s : State) (t : Nat) : Bool :=
  match tblGet (clusterOf t) s.clusters with
  | none => false
  | some c => c.handles.any (fun h => (decide (h.2.owner = t) && decide (h.2.state = 1 ∨ h.2.state = 3)) || h.2.claimed == some t)

/-- Whether a thread waits on a matrix stream of which an operation is running, or on a copy that has not completed (R274). -/
def waitsOnStep (s : State) (t : Nat) (th : Thread) : Bool :=
  match th.wait with
  | .kstep n =>
    match tblGet (clusterOf t) s.clusters with
    | none => false
    | some k =>
      match tblGet (n % 4) k.units with
      | none => false
      | some u => u.running.any (fun c => decide (bitsOf c.word 20 6 = n))
  | .handle h =>
    match tblGet (clusterOf t) s.clusters with
    | none => false
    | some k => (tblGet h k.handles).any (fun v => decide (v.state = 1 ∨ v.state = 3))
  | _ => false

/-- A decided wound is raised once the thread has no copy that has not completed, and is not halted (R274, R432, R440). -/
def deliverWound (s : State) (t : Nat) : State :=
  match tblGet t s.threads with
  | none => s
  | some th =>
    if th.woundDue && th.halts.isEmpty && !copiesPending s t && !waitsOnStep s t th then
      raiseAsync (modThread s t (fun th => { th with woundDue := false })) t 0x11 0
    else s

/-- The threads of a transaction. -/
def txnThreads (s : State) (x : Txn) : List Nat :=
  match x.owner with
  | .thread t => [t]
  | .set k => match tblGet k s.sets with
    | some o => o.members
    | none => []

/-- A thread of a pre-empted context is named, where the synchronisation engines keep it, by its context and its old number (log 13). -/
def parkedTid (x t : Nat) : Nat := 1024 * (x + 1) + t
/-- A wound is due to a thread: at once, or when it next runs where its context is pre-empted (R274, R431). -/
def woundThread (s : State) (t : Nat) : State :=
  if t < 1024 then deliverWound (modThread s t (fun th => { th with woundDue := decide (th.life = .running) })) t
  else { s with saves := tblMod (t / 1024 - 1) (fun v =>
      { v with threads := tblMod (t % 1024) (fun th => { th with woundDue := decide (th.life = .running) }) v.threads }) s.saves }

/-- A transaction is wounded, at most once; a lost context takes none (R274, R431). -/
def wound (s : State) (n : Nat) : State :=
  match tblGet n s.txns with
  | none => s
  | some x =>
    if x.wounded then s else
    let s := { s with txns := tblSet n { x with wounded := true } s.txns }
    if (ctxOf s x.ctx).any (fun c => decide (c.phase = .lost)) then s else
    (txnThreads s x).foldl woundThread s

/-- The mode that a transaction holds an item in once a request for `r` is granted: its own mode where that covers the request, the result of
an escalation, or `r` (R272, R273). -/
def grantedMode (held : Option Nat) (r : Nat) : Nat :=
  match held with
  | some h => if covers h r then h else (escalated h r).getD r
  | none => r
/-- A request that R273 refuses with status 7: its transaction holds the item in a mode from which none leads to it. -/
def noEscalation (held : Option Nat) (r : Nat) : Bool := held.any (fun h => !covers h r && (escalated h r).isNone)
/-- The mode a waiting request asks compatibility in: what its transaction will hold, which it may hold in part by now (log 106). -/
def requestMode (i : LockItem) (r : LockReq) : Nat := grantedMode (heldMode i r.txn) r.mode

/-- Whether a mode is compatible with every holder but the requester. -/
def fitsHolders (m : Word) (i : LockItem) (n mode : Nat) : Bool :=
  i.holders.all (fun h => h.txn == n || compatible m h.mode mode)

/-- A request becomes a holding. -/
def grantOn (i : LockItem) (n mode : Nat) : LockItem :=
  { i with holders := i.holders.filter (fun h => h.txn != n) ++ [⟨n, mode⟩] }

/-- The transactions that the waiting requests of an item wound: each younger holder of a mode that is incompatible with an older
request (R274). -/
def woundedBy (s : State) (m : Word) (i : LockItem) : List Nat :=
  i.queue.flatMap (fun r => (i.holders.filter (fun h =>
    h.txn != r.txn && !compatible m h.mode (requestMode i r) && older s r.txn h.txn)).map (·.txn))
def settleWounds (s : State) (x w : Nat) : State :=
  (woundedBy s (lockMatrixOf s x) (findItem s x w)).foldl wound s

/-- A waiting request has its answer: its thread resumes with a status. -/
def answerLock (s : State) (tid : Nat) (status : Word) : State :=
  match tblGet tid s.threads with
  | some th => match th.wait with
    | .lock _ gd => retireWith s tid (BitVec.ofNat 5 gd) status
    | _ => s
  | none => s
/-- The scan of a queue from its head after a release: requests compatible with every holder are granted with status 0, up to the first that
is not (R273). DESIGN CHOICE (log 111): one whose transaction has come to hold the item in a mode that cannot become the one it asks for is
refused with status 7. -/
def scanQueue (s : State) (m : Word) (i : LockItem) : Nat → State × LockItem
  | 0 => (s, i)
  | f + 1 =>
    match i.queue with
    | [] => (s, i)
    | r :: rest =>
      let mode := requestMode i r
      if noEscalation (heldMode i r.txn) r.mode then scanQueue (answerLock s r.tid 7) m { i with queue := rest } f
      else if fitsHolders m i r.txn mode then
        scanQueue (answerLock s r.tid 0) m (grantOn { i with queue := rest } r.txn mode) f
      else (s, i)
def rescan (s : State) (x w : Nat) : State :=
  let i := findItem s x w
  if !itemFits s i then strike s x else
  let r := scanQueue s (lockMatrixOf s x) i i.queue.length
  settleWounds (putItem r.1 r.2) x w

/-- One item of a transaction is released (R273). -/
def releaseItem (s : State) (n : Nat) (i : LockItem) : State :=
  if !itemFits s i then strike s i.ctx else
  rescan (putItem s { i with holders := i.holders.filter (fun h => h.txn != n) }) i.ctx i.word

/-- The waiting requests of a transaction are withdrawn: their threads, but for `t`, return `status` at once (R277). -/
def withdrawOne (t : Nat) (s : State) (r : LockReq) : State := if r.tid = t then s else answerLock s r.tid 9
def withdrawAll (s : State) (n t : Nat) : State :=
  s.lockItems.foldl (fun s i =>
    let gone := i.queue.filter (fun r => r.txn == n)
    if gone.isEmpty then s else
    let j := findItem s i.ctx i.word
    if !itemFits s j then strike s i.ctx else
    let s := putItem s { j with queue := j.queue.filter (fun r => r.txn != n) }
    rescan (gone.foldl (withdrawOne t) s) i.ctx i.word) s

/-- `lkrelall` of a transaction by thread `t`: the number of items released (R277). -/
def releaseAll (s : State) (n t : Nat) : State × Nat :=
  let held := itemsHeld s n
  let s := withdrawAll s n t
  let s := held.foldl (fun s i => releaseItem s n (findItem s i.ctx i.word)) s
  (endIfIdle s n, held.length)

/-- The transaction of an owner that is no more is released, with the age it would have handed on (R45, R204, R277, R383). -/
def releaseOwner (s : State) (x t : Nat) (o : TxnOwner) : State :=
  let s := match txnOf s x o with
    | some n => (releaseAll s n t).1
    | none => s
  { s with heirs := s.heirs.filter (fun h => !decide (h.ctx = x ∧ h.owner = o)) }
def releaseOwn (s : State) (x t : Nat) : State := releaseOwner s x t (.thread t)

/-- A thread leaves a set; the set's transaction is released when that destroys the set (R277). -/
def quitSet (s : State) (key t : Nat) : State :=
  let s := leaveSet s key t
  if (tblGet key s.sets).isSome then s else releaseOwner s (key / 256) t (.set key)

/-- A thread's wait for a lock is interrupted: its request is withdrawn (R252, R276, R431). -/
def withdrawWait (s : State) (t : Nat) : State :=
  match tblGet t s.threads with
  | none => s
  | some th =>
    match th.wait with
    | .lock w _ =>
      let i := findItem s th.ctx w
      if !itemFits s i then strike s th.ctx else
      let n := (i.queue.find? (fun r => r.tid == t)).map (·.txn)
      let s := putItem s { i with queue := i.queue.filter (fun r => r.tid != t) }
      let s := rescan s th.ctx w
      match n with
      | some n => endIfIdle s n
      | none => s
    | _ => s

/-- Where a waiting request stands: by age, oldest first; an escalation directly ahead of the first waiting request that is
incompatible with its held mode `h` and younger (R273). -/
def enqueue (s : State) (m : Word) (i : LockItem) (r : LockReq) : LockItem :=
  let before := match heldMode i r.txn with
    | some h => i.queue.takeWhile (fun q => !(older s r.txn q.txn && !compatible m h (requestMode i q)))
    | none => i.queue.takeWhile (fun q => !older s r.txn q.txn)
  { i with queue := before ++ r :: i.queue.drop before.length }

/-- What a lock request comes to: a status of R275 at once, or a wait. -/
inductive LockAnswer where
  | status (k : Nat)
  | waits
  deriving DecidableEq, Repr

/-- A lock request (R271 to R276) by thread `t` for item `w` in `mode`; `try_` for `lktry`. DESIGN CHOICE (log 116): an item granted
because its parent covers it, which has no entry in the manager, is not held by that grant. -/
def lockRequest (s : State) (t : Nat) (th : Thread) (w mode : Nat) (try_ : Bool) : State × LockAnswer :=
  let o := ownerFor s t th
  let m := lockMatrixOf s th.ctx
  let known := txnOf s th.ctx o
  if known.any (fun n => (txnAt s n).wounded) then (s, .status 1) else
  match itemParent s th.ctx w with
  | none => (s, .status 3)
  | some parent =>
    let heldIn (v : Nat) : Option Nat := known.bind (fun n => heldMode (findItem s th.ctx v) n)
    let own := heldIn w
    let up := parent.map heldIn
    let s0 := modThread s t (fun th => { th with txnOwner := o })
    if own.any (fun h => covers h mode) then (s0, .status 0)
    else if up.any (fun h => !h.any (fun h => parentPermits h mode)) then (s, .status 2)
    else if up.any (fun h => h.any (fun h => covers h mode)) then (s0, .status 0)
    else if noEscalation own mode then (s, .status 7)
    else if own.isNone && known.any (fun n => decide (64 ≤ (itemsHeld s n).length)) then (s, .status 8)
    else
      let i := findItem s th.ctx w
      let target := grantedMode own mode
      let b := beginTxn s0 th.ctx o
      let n := b.2
      let behind := own.isNone && i.queue.any (fun q => older b.1 q.txn n && !compatible m (requestMode i q) mode)
      if fitsHolders m i n target && !behind then (settleWounds (putItem b.1 (grantOn i n target)) th.ctx w, .status 0)
      else if try_ then (s, .status 4)
      else
        (settleWounds (putItem b.1 (enqueue b.1 m i ⟨n, mode, t⟩)) th.ctx w, .waits)

end Sys2Proof.Machine
end

