-- ==== Sys2Proof/Machine/Units.lean ====
section
/-! DEFINITION. Clusters, their units and ports as every other part reaches them (R21, R25, R126, R209, R314). -/

namespace Sys2Proof.Machine

def emptyUnit : UnitQ := ⟨[], none, 0⟩
def emptyPort : Port := ⟨none, [], 0, false, []⟩
def freeHandle : Handle := ⟨0, 0, false, false, 0, 0, 0, none⟩
def emptyCluster : Cluster := ⟨none, none, 15, [], [], [], [], [], [], 0⟩

def clusterAt (s : State) (c : Nat) : Cluster := (tblGet c s.clusters).getD emptyCluster
def modCluster (s : State) (c : Nat) (f : Cluster → Cluster) : State :=
  { s with clusters := tblSet c (f (clusterAt s c)) s.clusters }
def unitAt (s : State) (c u : Nat) : UnitQ := (tblGet u (clusterAt s c).units).getD emptyUnit
def setUnit (s : State) (c u : Nat) (q : UnitQ) : State := modCluster s c (fun k => { k with units := tblSet u q k.units })
def portAt (s : State) (c p : Nat) : Port := (tblGet p (clusterAt s c).ports).getD emptyPort
def setPort (s : State) (c p : Nat) (q : Port) : State := modCluster s c (fun k => { k with ports := tblSet p q k.ports })
def handleAt (s : State) (c h : Nat) : Handle := (tblGet h (clusterAt s c).handles).getD freeHandle
def setHandle (s : State) (c h : Nat) (v : Handle) : State :=
  modCluster s c (fun k => { k with handles := tblSet h v k.handles })

/-- The commands of a unit, the running one first. -/
def unitCmds (q : UnitQ) : List Cmd := q.running.toList ++ q.queue

/-- Whether a queue entry only holds the place of an `msatr` or `mwait` in its stream (R232). -/
def isMarker (c : Cmd) : Bool := decide (bitsOf c.word 26 6 = 0x32 ∧ (bitsOf c.word 6 4 = 3 ∨ bitsOf c.word 6 4 = 4))

/-- The command that has come to the head of a unit's queue takes its age (R317). -/
def headAged (now : Nat) (q : UnitQ) : UnitQ :=
  match q.running, q.queue with
  | none, c :: rest => if c.headAt.isSome then q else { q with queue := { c with headAt := some now } :: rest }
  | _, _ => q

/-- A thread's places in its matrix streams are given up (R232, R252). -/
def dropMarkers (s : State) (t : Nat) : State :=
  [0, 1, 2, 3].foldl (fun s u =>
    let q := unitAt s (clusterOf t) u
    if q.queue.any (fun c => isMarker c && c.tid == t) then
      setUnit s (clusterOf t) u (headAged s.now { q with queue := q.queue.filter (fun c => !(isMarker c && c.tid == t)) })
    else s) s

/-- The units of the path codes of R130 (a selection command belongs to MX and GS, R209). -/
def pathUnits (p : Nat) : List Nat :=
  match p with
  | 2 => [6, 7]
  | 3 => [0, 1, 2, 3, 8]
  | 4 => [4, 5]
  | 5 => [8, 9]
  | _ => []

/-- Whether a thread has a command queued or running on one of some units of its cluster. -/
def cmdsOn (s : State) (t : Nat) (us : List Nat) : Bool :=
  us.any (fun u => (unitCmds (unitAt s (clusterOf t) u)).any (fun c => c.tid == t && c.node.isNone))
def allUnits : List Nat := [0, 1, 2, 3, 4, 5, 6, 7, 8, 9]

/-- Every engine command that the thread issued has completed, every copy has landed, and every formation it armed has ended
(R42, R248). DESIGN CHOICE (log 23): a binding is no engine command that the task waits for. -/
def commandsDone (s : State) (t : Nat) : Bool :=
  !cmdsOn s t allUnits && !copiesPending s t &&
  (match tblGet t s.threads with
   | some th => th.openForms.isEmpty
   | none => true)

/-- The bindings of a thread on the ports of its cluster. -/
def bindingsOf (s : State) (c p t : Nat) : Bool := (portAt s c p).bindings.any (fun b => b.tid == t)

/-- The slots of a cluster that hold a thread. -/
def usedSlots (s : State) (c : Nat) : List Nat := (s.threads.filter (fun p => p.1 / 16 == c)).map (fun p => p.1 % 16)

/-- The core scratchpad, typed buffers, handles and full/empty bits of a cluster cleared (R121, R314). -/
def clearCluster (s : State) (c : Nat) : State :=
  let s := (List.range 8).foldl (fun s k => memClear s (islandCell (siteId c k 0) 0) (islandCell (siteId c k 0) 65536)) s
  let s := memClear s (wCell c 0) (wCell (c + 1) 0)
  let s := memClear s (aCell c 0) (aCell (c + 1) 0)
  let s := memClear s (cCell c 0) (cCell (c + 1) 0)
  modCluster s c (fun k => { k with handles := [], sat := [] })

end Sys2Proof.Machine
end

