-- ==== Sys2Proof/Machine/Pool.lean ====
section
/-! DEFINITION. Launches and tasks: readiness, completion, failure (R30 to R44, R310, R311, R384, R421). -/

namespace Sys2Proof.Machine

def modLaunch (s : State) (n : Nat) (f : Launch → Launch) : State := { s with launches := tblMod n f s.launches }

/-- Whether two declarations conflict (R40). Access codes: 1 R, 2 W, 3 RW, 4 INC (R37). -/
def accConflict (a b : Nat) : Bool := !(decide (a = b ∧ (a = 1 ∨ a = 4)))
def declConflict (a b : Decl) : Bool :=
  decide (a.tensor = b.tensor ∧ a.first ≤ b.last ∧ b.first ≤ a.last) && accConflict a.access b.access
def tasksConflict (a b : Task) : Bool := a.decls.any (fun x => b.decls.any (fun y => declConflict x y))

def taskAt (l : Launch) (j : Nat) : Option Task := l.tasks[j]?
def isDone (t : Task) : Bool := decide (t.state = .completed)

/-- A launch is active once it is admitted, the commands that its thread issued before it have completed and, without overlap, the
previous launch of its source has ended (R32, R247). -/
def launchActive (s : State) (l : Launch) : Bool :=
  l.admitted && l.hold.isEmpty && (l.overlap || !l.prev.any (fun p => (tblGet p s.launches).isSome))

/-- Every task named by an edge and every earlier conflicting task has completed (R41). -/
def taskFree (l : Launch) (j : Nat) (t : Task) : Bool :=
  t.preds.all (fun p => (taskAt l p).any isDone) &&
  (l.tasks.take j).all (fun u => isDone u || !tasksConflict u t)

/-- Pending tasks that are now ready (R41, R311). -/
def readyTasks (now : Nat) (l : Launch) : Nat → List Task → List Task
  | _, [] => []
  | j, t :: ts =>
    (if t.state = .pending ∧ taskFree l j t then { t with state := .ready, readyAt := now } else t) ::
      readyTasks now l (j + 1) ts

/-- A formation that is not yet placed. -/
def newForm (s : State) (x launch task num : Nat) (arm home : Option Nat) (graph tiles : Nat) (consts : List (BitVec 32))
    (prio : Nat) : Form :=
  { ctx := x, launch := launch, task := task, num := num, arm := arm, home := home, graph := graph, nodeTable := 0, tiles := tiles,
    consts := consts, pool := [], poolFree := 0, masks := ctxMasks s x, prio := prio, readyAt := s.now, passed := false, cramped := false, phase := .ready, nodes := [],
    arcs := [], isles := [], draining := false, resTold := false, guarded := false, samples := 0, moves := 0,
    sweep := ⟨0, 0, false, 0, none, false, none⟩, fill := none, got := [] }
def addForm (s : State) (fm : Form) : State :=
  { s with forms := tblSet ((tblFree 0 (s.forms.length + 1) s.forms).getD 0) fm s.forms }

/-- The eight 32-bit launch constants of a section task's arguments (R35, R47). -/
def constsOf (args : List Nat) : List (BitVec 32) :=
  args.flatMap (fun a => [BitVec.ofNat 32 a, BitVec.ofNat 32 (a / 2 ^ 32)])

/-- A section task that has become ready waits for the placer (R311). -/
def queueSection (s : State) (n : Nat) (l : Launch) (j : Nat) (t : Task) : State :=
  if t.isThread || decide (t.state ≠ .ready) || s.forms.any (fun f => decide (f.2.arm = none ∧ f.2.launch = n ∧ f.2.task = j)) then s
  else addForm s (newForm s l.ctx n j j none none t.entry t.size (constsOf t.args) l.prio)
def queueSections (s : State) (n : Nat) (l : Launch) : Nat → List Task → State
  | _, [] => s
  | j, t :: ts => queueSections (queueSection s n l j t) n l (j + 1) ts

/-- Tasks of a launch that can now be ready become so (R41, R311). -/
def refreshLaunch (s : State) (n : Nat) : State :=
  match tblGet n s.launches with
  | none => s
  | some l =>
    if launchActive s l then
      let ts := readyTasks s.now l 0 l.tasks
      queueSections { s with launches := tblSet n { l with tasks := ts } s.launches } n l 0 ts
    else s

/-- The launches that waited for one to end (R32). -/
def followers (s : State) (n : Nat) : List Nat :=
  (s.launches.filter (fun p => decide (p.2.prev = some n) && !p.2.overlap)).map (·.1)

/-- A launch has ended: its event is signalled, and a launch that waited for it goes on (R42, R384). Sections of it that still wait
for the placer are never dispatched. -/
def endLaunch (s : State) (n : Nat) (l : Launch) (status : Nat) : State :=
  let s := { s with
    launches := tblDel n s.launches
    forms := s.forms.filter (fun f => !decide (f.2.arm = none ∧ f.2.launch = n ∧ f.2.phase = .ready)) }
  let s := signalEvent s l.ctx l.event status
  (followers s n).foldl refreshLaunch s

/-- The end of a launch, where it has come (R42, R384): all tasks completed, or one failed and none running or placing. -/
def settleLaunch (s : State) (n : Nat) : State :=
  match tblGet n s.launches with
  | none => s
  | some l =>
    if l.tasks.all isDone then endLaunch s n l 0
    else if l.anyFailed && l.tasks.all (fun t => !decide (t.state = .running ∨ t.state = .placing ∨ t.state = .suspended)) then
      endLaunch s n l 2
    else s

def setTask (s : State) (n j : Nat) (st : ItemState) : State :=
  modLaunch s n (fun l => { l with
    anyFailed := l.anyFailed || decide (st = .failed)
    tasks := listMod j (fun t => { t with state := st, readyAt := if st = .ready then s.now else t.readyAt }) l.tasks })

/-- A task completes or fails (R42, R384). -/
def endTask (s : State) (n j : Nat) (ok : Bool) : State :=
  let s := setTask s n j (if ok then .completed else .failed)
  settleLaunch (refreshLaunch s n) n

/-- A formation of context `x` whose home is a cluster, and which is not in a save area. -/
def homeForm (s : State) (x c : Nat) : Bool :=
  s.forms.any (fun f => decide (f.2.home = some c ∧ f.2.ctx = x ∧ f.2.phase ≠ .saved))

/-- No launch waits any longer for bindings on the ports of a cluster (R247). -/
def dropHolds (s : State) (c : Nat) : State :=
  let mine (l : Launch) : Bool := match l.source with
    | .thread t => t / 16 == c && l.hold.any (fun h => decide (100 ≤ h.1 ∧ h.1 < 1000))
    | .queue _ => false
  let ns := (s.launches.filter (fun p => mine p.2)).map (·.1)
  ns.foldl refreshLaunch (ns.foldl (fun s n => modLaunch s n (fun l => { l with hold := l.hold.filter (fun h => h.1 < 100 || 1000 ≤ h.1) })) s)

/-- A cluster becomes unbound when no thread, queued or running command or home formation remains on it (R314). Bindings that
are left on its ports go with the context (log 23). -/
def unbindIfIdle (s : State) (c : Nat) : State :=
  let k := clusterAt s c
  match k.bound with
  | none => s
  | some x =>
    if (usedSlots s c).isEmpty && k.units.all (fun u => (unitCmds u.2).isEmpty) && !homeForm s x c then
      offerPlaces (modCluster (dropHolds s c) c (fun k => { k with
        bound := none, lastCtx := some x, ports := k.ports.map (fun p => (p.1, { p.2 with bindings := [], failed := false })) }))
    else s

/-- A thread leaves its sets and releases its own transaction's locks (R44, R204 step 3, R277). -/
def leaveAll (s : State) (t x : Nat) : State := releaseOwn ((setsOf s t).foldl (fun s k => quitSet s k t) s) x t

/-- A thread that has stopped: once its stores are performed it leaves its sets and releases its locks; once its commands have completed
too, its slot is freed and its task completes or fails (R42, R204, R383, R408). -/
def finishThread (s : State) (t : Nat) : State :=
  match tblGet t s.threads with
  | none => s
  | some th =>
    match th.life with
    | .running => s
    | .leaving failed =>
      if !storesDone th then s else
      let s := leaveAll s t th.ctx
      if commandsDone s t then
        let s := { s with threads := tblDel t s.threads, lastOf := s.lastOf.filter (fun p => !decide (p.1 = .thread t)) }
        let s := offerPlaces (unbindIfIdle s (clusterOf t))
        endTask s th.launch th.task (!failed && !th.failTask)
      else s

/-- Every task of a lost context's launches ends, and each launch with a task not yet completed is signalled with status 2
(R421). -/
def loseLaunches (s : State) (x : Nat) : State :=
  ((s.launches.filter (fun p => decide (p.2.ctx = x))).map (·.1)).foldl
    (fun s n => match tblGet n s.launches with
      | some l => endLaunch s n l 2
      | none => s) s

end Sys2Proof.Machine
end

