-- ==== Sys2Proof/Machine/Ops.lean ====
section
/-! DEFINITION. Taking a trap, returning from one, ending a thread, serving full/empty words, fetching (R174 to R176, R192 to R199,
R204, R205, R253 to R255, R381 to R388). -/

namespace Sys2Proof.Machine

/-- A synchronous trap: cause code, detail, and the value for `evaddr` (R176, R199). -/
structure Trap where
  code : Nat
  detail : Nat
  evaddr : Nat
  deriving DecidableEq, Repr

/-- The space codes of `detail` (R199). -/
def spaceCode (p : Space) : Nat :=
  match p with
  | .i => 0 | .v => 1 | .a => 2 | .c => 3 | .w => 4 | .s => 5

/-- The `detail` of a memory-access trap (R199, R387, R388). -/
def memDetail (p : Space) (store : Bool) (reason : Nat) : Nat :=
  spaceCode p * 8192 + (if store then 4096 else 0) + reason

def illegalTrap (reason : Nat) : Trap := ⟨1, reason, 0⟩
def alignTrap (p : Space) (store : Bool) (reason : Nat) (a : Nat) : Trap := ⟨2, memDetail p store reason, a⟩
def boundsTrap (p : Space) (store : Bool) (reason : Nat) (a : Nat) : Trap := ⟨3, memDetail p store reason, a⟩
def xlateTrap (p : Space) (store : Bool) (reason : Nat) (a : Nat) : Trap := ⟨4, memDetail p store reason, a⟩
def poisonTrap (p : Space) (store : Bool) (reason : Nat) (a : Nat) : Trap := ⟨5, memDetail p store reason, a⟩
def issueTrap (reason : Nat) : Trap := ⟨6, reason, 0⟩

/-- The value of `cause` for a trap (R199). -/
def causeWord (async : Bool) (code detail : Nat) : Word :=
  BitVec.ofNat 64 ((if async then 2 ^ 63 else 0) + detail % 65536 * 2 ^ 32 + code)

/-- A thread stops issuing, and its pending asynchronous traps are discarded; it leaves its sets, releases its locks and ends its task as
its stores and commands are done (R44, R204, R383). -/
def stopThread (s : State) (t : Nat) (failed : Bool) : State :=
  finishThread (modThread s t (fun th => { th with
    life := .leaving failed, wait := .none, asyncs := [], woundDue := false, status := statusBits (inTrap th) false })) t

/-- A thread ends by an unhandled fault: the record, then the end (R176, R383). -/
def unhandled (s : State) (t : Nat) (th : Thread) (cause : Word) (evaddr word pc : Nat) : State :=
  let r : Record := { plainRecord 0x20 0 0 with
    launch := th.launch, task := th.task, node := t, wher := clusterOf t, word := word, addr := evaddr,
    detail := cause.toNat, pc := pc }
  stopThread (writeRecord s th.ctx r) t true

/-- The shape of `epc` and `tvec`: bits [63:57] and [1:0] are zero (R197). -/
def codeAddr (v : Word) : Word := v &&& 0x01FFFFFFFFFFFFFC

/-- A trap is entered: the saved pc, `cause`, `evaddr` and `status` are written and the pc goes to the handler; without a
handler the thread ends (R176). -/
def enterTrap (s : State) (t : Nat) (async : Bool) (tr : Trap) (epc : Word) (word : Nat) : State :=
  match tblGet t s.threads with
  | none => s
  | some th =>
    let cause := causeWord async tr.code tr.detail
    if th.tvec = 0 then unhandled s t th cause tr.evaddr word epc.toNat
    else modThread s t (fun th => { th with
      epc := codeAddr epc, cause := cause, evaddr := BitVec.ofNat 64 tr.evaddr,
      status := statusBits true (!th.asyncs.isEmpty), pc := th.tvec, wait := .none, ifetch := none })

/-- A synchronous trap: the instruction has none of its effects (R176). `epc` is the instruction's address. -/
def raiseTrapWord (s : State) (t : Nat) (tr : Trap) (word : Nat) : State :=
  match tblGet t s.threads with
  | none => s
  | some th =>
    if inTrap th then unhandled s t th (causeWord false tr.code tr.detail) tr.evaddr word th.pc.toNat
    else enterTrap s t false tr th.pc word
def raiseTrap (s : State) (t : Nat) (tr : Trap) : State :=
  match tblGet t s.threads with
  | none => s
  | some th => raiseTrapWord s t tr th.word

/-- `brk` completes and then raises BREAK, with the saved pc after it (R207); the record of one that is not handled has the pc of the `brk`
(R382). -/
def raiseBreak (s : State) (t : Nat) (n : Nat) : State :=
  let s := retire s t
  match tblGet t s.threads with
  | none => s
  | some th =>
    if inTrap th ∨ th.tvec = 0 then unhandled s t th (causeWord false 7 n) 0 th.word (th.pc - 4).toNat
    else enterTrap s t false ⟨7, n, 0⟩ th.pc th.word

/-- The thread's own wait on a word is withdrawn (R252). -/
def dropWaiter (who : Who) (s : State) : State :=
  { s with wordWaits := (s.wordWaits.map (fun p => (p.1, p.2.filter (fun w => !decide (w.who = who))))).filter (fun p => !p.2.isEmpty) }

/-- A wait is abandoned: the instruction will be executed again (R174, R252, R266, R433). -/
def abandonWait (s : State) (t : Nat) : State :=
  match tblGet t s.threads with
  | none => s
  | some th =>
    let s := match th.wait with
      | .word _ _ _ => { s with wordWaits := (s.wordWaits.map (fun p => (p.1, p.2.filter (fun w => match w.who with
          | .thread u _ => u != t
          | _ => true)))).filter (fun p => !p.2.isEmpty) }
      | .lock _ _ => withdrawWait s t
      | .phase k p true _ => modThread s t (fun th => { th with barwHeld := (th.pc.toNat, k, p) :: otherBarw th k })
      | .xinv key => { s with invals := tblDel key s.invals }
      | .kstep _ => dropMarkers s t
      | .fill _ _ _ since => addCounter s th.ctx 0x80 (s.now - since)
      | _ => s
    modThread s t (fun th => { th with wait := .none })

/-- Whether an asynchronous trap may interrupt what the thread waits for (R252, R433): not a reply that is on its way. -/
def interruptible (w : Wait) : Bool :=
  match w with
  | .load _ _ _ _ _ _ => false
  | .peer _ => false
  | _ => true

/-- The oldest pending asynchronous trap is entered (R176, R205). It concerns no instruction word (R382; log 46). -/
def enterAsync (s : State) (t : Nat) : State :=
  match tblGet t s.threads with
  | none => s
  | some th =>
    match th.asyncs with
    | [] => s
    | a :: rest =>
      let s := abandonWait s t
      let s := modThread s t (fun th => { th with asyncs := rest })
      enterTrap s t true ⟨a.code, a.detail, 0⟩ th.pc 0

/-- `tret`: back to `epc`, and into the oldest pending asynchronous trap (R205). -/
def returnTrap (s : State) (t : Nat) : State :=
  match tblGet t s.threads with
  | none => s
  | some th =>
    let s := retireAt s t th.epc
    let s := modThread s t (fun th => { th with status := statusBits false false })
    enterAsync s t

/-! Full/empty words (R120, R253 to R255). -/

/-- A form's fields changed. -/
def modForm (s : State) (f : Nat) (g : Form → Form) : State := { s with forms := tblMod f g s.forms }
def setStage (s : State) (f n seq : Nat) (st : Stage) : State :=
  modForm s f (fun fm => { fm with
    moves := fm.moves + 1
    nodes := listMod n (fun nd => { nd with accs := nd.accs.map (fun a => if a.seq = seq then { a with stage := st } else a) }) fm.nodes })

/-- The residue of a data field (R52). -/
def residue (d : BitVec 32) : Nat := d.toNat % 3
def dataTok (p : Bool) (d : BitVec 32) : Tok := ⟨0, p, residue d, d⟩
def nullTok : Tok := ⟨1, false, 0, 0⟩

/-- An access of a node is answered, with what the node emits for it; a reply has come (R343). -/
def answerAccess (s : State) (f n seq : Nat) (t : Tok) : State :=
  modForm (setStage s f n seq (.done t)) f (fun fm => { fm with
    nodes := listMod n (fun nd => { nd with conds := tblSet 5 s.tenths nd.conds }) fm.nodes })

/-- Whether the tag table of a quadrant has room for one more empty V word (R254). -/
def tagRoom (s : State) (k : Nat) : Bool :=
  !isHbmCell k || (tblGet k s.tagEmpty).isSome ||
  decide ((s.tagEmpty.filter (fun e => e.1 / quadBytes == k / quadBytes)).length < 65536)

/-- A waiter's access to its word is performed, with what it reads (R253). A poisoned word stops a thread's load (R253). -/
def answerWaiter (s : State) (w : Waiter) (r : ReadOut) : State :=
  let v : BitVec 32 := BitVec.ofNat 32 (leNat r.bytes)
  match w.who with
  | .thread t gd =>
    match w.op with
    | .fillEmpty _ _ => retire s t
    | _ => retireWith s t (BitVec.ofNat 5 gd) (v.zeroExtend 64)
  | .node f n seq =>
    match w.op with
    | .fillEmpty _ p | .putEmpty _ _ _ p => answerAccess s f n seq (dataTok p 0)
    | _ => answerAccess s f n seq (dataTok (decide (r.reason ≠ 0)) (if r.reason = 1 then 0 else v))
  | .unit cl u off =>
    let q := unitAt s cl u
    setUnit s cl u { q with running := q.running.map (fun c => { c with
      waiting := false, lanes := c.lanes ++ [(v.toNat / 2 ^ (8 * off), decide (r.reason ≠ 0))] }) }

/-- The context of a waiter. -/
def waiterCtx (s : State) (w : Waiter) : Nat :=
  match w.who with
  | .thread t _ => ((tblGet t s.threads).map (·.ctx)).getD 0
  | .node f _ _ => ((tblGet f s.forms).map (·.ctx)).getD 0
  | .unit cl _ _ => ((clusterAt s cl).bound).getD 0

/-- One waiter of the word `k` is served, where the word's state allows. -/
def serveOne (s : State) (k : Nat) (w : Waiter) : Option State :=
  match w.op with
  | .fillEmpty v p =>
    if wordFull s k then none else
    some (answerWaiter (setFull (memStore s w.cell (leBytes v.toNat 4) p) k) w ⟨[], 0⟩)
  | .putEmpty off n v p =>
    if wordFull s k then none else
    some (answerWaiter (setFull (memStore s (w.cell + off) (leBytes v n) p) k) w ⟨[], 0⟩)
  | .keepFull =>
    if !wordFull s k then none else
    let r := memRead s w.cell 4
    some (answerWaiter r.1 w r.2)
  | .takeFull =>
    if !wordFull s k || !tagRoom s k then none else
    let r := memRead s w.cell 4
    some (answerWaiter (setEmpty r.1 (waiterCtx s w) k) w r.2)

/-- A thread's load form that waits on a poisoned word traps in place of being served (R253). -/
def poisonWait (s : State) (k : Nat) (w : Waiter) : Option State :=
  match w.who, w.op with
  | .thread t _, .takeFull | .thread t _, .keepFull =>
    if !wordFull s k then none else
    let r := memRead s w.cell 4
    if r.2.reason = 0 then none else
    some (match tblGet t r.1.threads with
      | some th => match th.wait with
        | .word _ p a => raiseTrap (modThread r.1 t (fun th => { th with wait := .none })) t (poisonTrap p false r.2.reason a)
        | _ => r.1
      | none => r.1)
  | _, _ => none

/-- The first waiter of a list that can be served (R255). -/
def serveFirst (s : State) (k : Nat) (pre : List Waiter) : List Waiter → Option (State × List Waiter)
  | [] => none
  | w :: rest =>
    match poisonWait s k w with
    | some s => some (s, pre.reverse ++ rest)
    | none =>
      match serveOne s k w with
      | some s => some (s, pre.reverse ++ rest)
      | none => serveFirst s k (w :: pre) rest

/-- The waiters of a word are served in order until none can be (R255). -/
def serveWord (s : State) (k : Nat) : Nat → State
  | 0 => s
  | f + 1 =>
    match tblGet k s.wordWaits with
    | none => s
    | some ws =>
      match serveFirst s k [] ws with
      | none => s
      | some (s, rest) =>
        serveWord { s with wordWaits := if rest.isEmpty then tblDel k s.wordWaits else tblSet k rest s.wordWaits } k f
def settleWord (s : State) (k : Nat) : State := serveWord s k (((tblGet k s.wordWaits).getD []).length)
def settleWords (s : State) (c n : Nat) : State :=
  if s.wordWaits.isEmpty then s else (unitsOf 4 c n).foldl settleWord s

/-- A waiter joins the queue of the word `k`, and is served if it can be (R255). -/
def waitWord (s : State) (k : Nat) (w : Waiter) : State :=
  settleWord { s with wordWaits := tblSet k (((tblGet k s.wordWaits).getD []) ++ [w]) s.wordWaits } k

/-- Bytes written by any path but the full/empty forms: tagged words become full and their waiters are served (R120, R255). -/
def putBytes (s : State) (c : Nat) (bs : List Byte) (poison : Bool) : State :=
  let s := memWrite s c bs poison
  if isTaggedCell c then settleWords s c bs.length else s

/-- The same with poison by byte. -/
def putBytesMap (s : State) (c : Nat) (bs : List Byte) (pm : List Bool) : State :=
  if !pm.any (fun b => b) then putBytes s c bs false else
  let s := memStoreMap s c bs pm
  if isTaggedCell c then
    settleWords { s with full := (unitsOf 4 c bs.length).foldl (fun f u => setAdd u f) s.full } c bs.length
  else s

/-- Waiters for room in the tag table are tried again once a V word has become full (R254). -/
def settleTagsOnce (s : State) : State :=
  ((s.wordWaits.filter (fun p => isHbmCell p.1)).map (·.1)).foldl settleWord s
def settleTags (s : State) (k : Nat) : State :=
  if isHbmCell k then (List.range s.wordWaits.length).foldl (fun s _ => settleTagsOnce s) s else s

/-! Fetching (R196). -/

inductive Fetch where
  | word (w : Nat)
  | trap (tr : Trap)
  | frozen (fpage : Nat)
  | peer (dev pa : Nat)
  deriving DecidableEq, Repr

/-- The instruction word at the thread's pc (R196); a page on flash that is not present is met as R194 lays down. -/
def fetchWord (s : State) (th : Thread) : State × Fetch :=
  let a := th.pc.toNat
  match translateWord s th.ctx th.pc needExec with
  | (s, .fault r) => (s, .trap (xlateTrap .v false r a))
  | (s, .absent p) =>
    match tblGet (fillKey th.ctx p) s.fills with
    | some _ => (s, .frozen p)
    | none => (startFill s th.ctx p a, .trap (xlateTrap .v false 6 a))
  | (s, .ok t) =>
    if t.peer then (s, .peer t.dev t.pa) else
    let r := memRead s (hbmCell th.masks t.pa) 4
    if r.2.reason ≠ 0 then (r.1, .trap (poisonTrap .v false 1 a)) else (r.1, .word (leNat r.2.bytes))

end Sys2Proof.Machine
end

