-- ==== Sys2Proof/Machine/Operands.lean ====
section
/-! DEFINITION. Operands of the control-thread instructions: agents, address forms and their checks (R122 to R125, R191 to R195,
R208, R250, R251). -/

namespace Sys2Proof.Machine

/-- The outcome type of a step. -/
abbrev Out := Host.Outcome State Fault Refusal

/-- A step of the current control thread. -/
def onThread (s : State) (f : Nat → Thread → State) : Out :=
  match s.cur with
  | .thread t =>
    match tblGet t s.threads with
    | some th => .next (f t th)
    | none => .fault .noAgent
  | _ => .fault .noAgent

/-- Where an access lies, or how it stops. -/
inductive Place where
  | at_ (l : Loc)
  | trap (tr : Trap)
  | frozen (fpage detail addr : Nat)
  deriving DecidableEq, Repr

/-- Sizes of the on-chip spaces that a control thread addresses (R117, R122, R192). -/
def spaceSize (p : Space) : Nat :=
  match p with
  | .i => 0x80000
  | .c => 0x100000
  | _ => 0x200000

/-- The cell of an address in an on-chip space of a cluster (R117, R122). -/
def localCell (cl : Nat) (p : Space) (a : Nat) : Nat :=
  match p with
  | .i => scratchpadCell cl a
  | .w => wCell cl a
  | .a => aCell cl a
  | _ => cCell cl a

/-- Whether `n` bytes at a scratchpad address touch the carve-out of a thread of the cluster, but for `own` (R124). -/
def inCarve (s : State) (cl a n : Nat) (own : Option Nat) : Bool :=
  s.threads.any (fun p =>
    decide (p.1 / 16 = cl ∧ some p.1 ≠ own) &&
    decide (a < 0x8000 * (p.1 % 16 + 1) ∧ 0x8000 * (p.1 % 16 + 1) < a + n + p.2.spillsz))

/-- The checks of R192, steps 1 to 3, on an address of `n` bytes; `own` is the thread whose carve-out may be touched (R195).
A page on flash that is not present is met as R194 lays down. -/
def place (s : State) (t : Nat) (th : Thread) (p : Space) (a : Word) (n : Nat) (need : Need) (store : Bool) (own : Option Nat) :
    State × Place :=
  let x := a.toNat
  if x % n ≠ 0 then (s, .trap (alignTrap p store 1 x)) else
  match p with
  | .v =>
    match translateWord s th.ctx a need with
    | (s, .fault r) => (s, .trap (xlateTrap .v store r x))
    | (s, .absent fp) =>
      match tblGet (fillKey th.ctx fp) s.fills with
      | some _ => (s, .frozen fp (memDetail .v store 0) x)
      | none => (startFill s th.ctx fp x, .trap (xlateTrap .v store 6 x))
    | (s, .ok g) => (s, .at_ (if g.peer then .peer g.dev g.pa else .cell (hbmCell th.masks g.pa)))
  | _ =>
    if spaceSize p ≤ x then (s, .trap (boundsTrap p store 1 x))
    else if p = .i ∧ inCarve s (clusterOf t) x n own then (s, .trap (boundsTrap .i store 2 x))
    else (s, .at_ (.cell (localCell (clusterOf t) p x)))

/-- The address of a load or store (R191). -/
def memAddr (th : Thread) (a b : BitVec 5) (z : BitVec 2) (o : BitVec 8) : Word :=
  regGet th a + regGet th b + (o.signExtend 64 <<< z.toNat)

/-- The spill location of an offset (R125): space and address, or the trap. DESIGN CHOICE (log 116): `evaddr` of `ALIGN` with reason 3 is
the address of the overflow access, not `spillov`. -/
def spillAddr (t : Nat) (th : Thread) (off : Nat) (store : Bool) : Except Trap (Space × Word) :=
  if off < th.spillsz then .ok (.i, BitVec.ofNat 64 (0x8000 * (t % 16 + 1) - th.spillsz + off))
  else if th.spillov = 0 then .error (boundsTrap .i store 3 off)
  else if th.spillov.toNat % 64 ≠ 0 then .error (alignTrap .v store 3 (th.spillov + BitVec.ofNat 64 (off - th.spillsz)).toNat)
  else .ok (.v, th.spillov + BitVec.ofNat 64 (off - th.spillsz))

/-- The place of `S:` offset `off` of quadrant `q`: in the engine's SRAM, or in the overflow area (R250). DESIGN CHOICE (log
116): an `XLATE` there names space S, with the virtual address in the overflow area as `evaddr`. -/
def sOffset (s : State) (x q off : Nat) (k : Masks) (store : Bool) : State × Place :=
  if off < sResident s x q then (s, .at_ (.cell (sCell x q off))) else
  let va := sOverflow s x q + 0x400000 * q + off
  match (if va < 2 ^ 57 then translate s x va ⟨true, true, false, true⟩ else (s, .fault 1)) with
  | (s, .fault r) => (s, .trap (xlateTrap .s store r va))
  | (s, .absent fp) =>
    match tblGet (fillKey x fp) s.fills with
    | some _ => (s, .frozen fp (memDetail .s store 0) va)
    | none => (startFill s x fp va, .trap (xlateTrap .s store 6 va))
  | (s, .ok g) => (s, .at_ (.cell (hbmCell k g.pa)))

/-- The checks of R251 on an `S:` operand, in their order, up to translation. -/
def sPlace (s : State) (th : Thread) (w : Word) (align : Nat) (store : Bool) : State × Place :=
  let x := w.toNat
  if x % align ≠ 0 then (s, .trap (alignTrap .s store 1 x))
  else if 2 ^ 24 ≤ x then (s, .trap (boundsTrap .s store 5 x))
  else if x % 2 ^ 22 < 0x1000 then (s, .trap (boundsTrap .s store 4 x))
  else sOffset s th.ctx (x / 2 ^ 22) (x % 2 ^ 22) (ctxMasks s th.ctx) store

/-- What stopped an access is done to the thread: the trap is taken, or it waits for the fill (R194). -/
def stopAt (s : State) (t : Nat) (p : Place) : State :=
  match p with
  | .trap tr => raiseTrap s t tr
  | .frozen fp d a => waitAt s t (.fill fp d a s.now)
  | .at_ _ => s

end Sys2Proof.Machine
end

