-- ==== Sys2Proof/Machine/PeerOut.lean ====
section
/-! DEFINITION. Requests to peer devices and their messages (R112, R131, R373, R374). -/

namespace Sys2Proof.Machine

/-- The port by which a device is reached (R373). -/
def routeTo (s : State) (dev : Nat) : Nat := s.routes.getD dev 0

/-- The partition number of a context. -/
def partNum (s : State) (x : Nat) : Nat :=
  match ctxOf s x with
  | some c => c.part
  | none => 0

/-- The number of the last frame that a port has received in order (R373). -/
def lastFrame (p : PeerPort) : Nat := (p.expect + (2 ^ 32 - 1)) % 2 ^ 32
/-- A message leaves by the port of its target, in a frame of its own (R373; log 15). -/
def sendMsg (s : State) (m : PeerMsg) : State :=
  let p := routeTo s m.dst
  let port := (tblGet p s.ports).getD ⟨0, 0, []⟩
  { s with
    sent := s.sent ++ [(p, ⟨port.next, lastFrame port, [m]⟩)]
    ports := tblSet p { port with next := (port.next + 1) % 2 ^ 32, unacked := port.unacked ++ [(port.next, s.now, [m])] } s.ports }

/-- A read by a thread, not yet answered, has bytes that a write or an atomic of this device will have changed by the time it answers. -/
def madeStale (dev pa len : Nat) (r : PeerReq) : PeerReq :=
  if (match r.who with
      | .thread _ _ => true
      | _ => false) && decide (r.type = 1 ∧ r.dev = dev) && overlaps r.pa r.len pa len then { r with stale := true } else r
/-- A request: its record waits for the reply, under the next tag that no outstanding request has, so that a reply to a request that was
abandoned finds none (R374, R410). -/
def sendRequestMap (s : State) (who : PeerWho) (x type dev pa len : Nat) (sx : Bool) (addr : Nat) (data : List Byte) (pm : List Bool)
    (aop : Nat) : State × Nat :=
  let k := (tblFree s.nextTag 0x100000000 s.requests).getD ((tblFree 0 0x100000000 s.requests).getD 0)
  let s := sendMsg s ⟨type, s.power.dev, dev, partNum s x, k, pa, len, aop, data, pm⟩
  let asked := if type = 3 ∨ type = 5 then tblMap (fun _ r => madeStale dev pa len r) s.requests else s.requests
  ({ s with requests := tblSet k ⟨who, x, type, dev, pa, len, sx, addr, s.now, false⟩ asked, nextTag := (k + 1) % 0x100000000 }, k)

/-- The same with data that is poisoned or not as a whole. -/
def sendRequest (s : State) (who : PeerWho) (x type dev pa len : Nat) (sx : Bool) (addr : Nat) (data : List Byte) (poison : Bool)
    (aop : Nat) : State × Nat :=
  sendRequestMap s who x type dev pa len sx addr data (List.replicate data.length poison) aop

/-- Whether a party has asked for these bytes of a peer device and not had them. -/
def asksFor (s : State) (who : PeerWho) (dev pa n : Nat) : Bool :=
  s.requests.any (fun r => decide (r.2.who = who ∧ r.2.type = 1 ∧ r.2.dev = dev ∧ r.2.pa = pa ∧ r.2.len = n))

/-- A read of virtual memory by the ready pool, the placer or the configuration cache, in pieces that cross no 256-byte granule; a
piece on a peer device is asked for, and the read is tried again once its bytes have come (R112); an answer without bytes is a refusal,
or, with a mark, a request that was abandoned (R410). A poisoned read names its first poisoned byte. `fresh`: it is tried again after it froze
(R404). -/
def readViaLoop (fresh : Bool) (s : State) (x : Nat) (k : Masks) (got : List (Nat × Nat × List Byte × List Bool)) (who : PeerWho) (need : Need) (va : Nat)
    (fuel n : Nat) (acc : List Byte) : State × VRead :=
  match fuel with
  | 0 => (s, .ok acc)
  | f + 1 =>
    if n = 0 then (s, .ok acc) else
    if 2 ^ 57 ≤ va then (s, .xlate 1 va) else
    let m := min n (256 - va % 256)
    match translateAs fresh s x va need with
    | (s, .fault r) => (s, .xlate r va)
    | (s, .absent p) => (s, .absent p va)
    | (s, .ok t) =>
      if t.peer then
        match got.find? (fun g => decide (g.1 = t.dev ∧ g.2.1 = t.pa ∧ (g.2.2.1.length = m ∨ g.2.2.1 = []))) with
        | some g =>
          if g.2.2.1.isEmpty then (s, .xlate (if g.2.2.2.isEmpty then 5 else 9) va) else
          if g.2.2.2.any (fun b => b) then (s, .poison 2 (va + g.2.2.2.findIdx (fun b => b))) else readViaLoop fresh s x k got who need (va + m) f (n - m) (acc ++ g.2.2.1)
        | none =>
          if asksFor s who t.dev t.pa m then (s, .peer t.dev t.pa va)
          else ((sendRequest s who x 1 t.dev t.pa m false va [] false 0).1, .peer t.dev t.pa va)
      else
        let r := memRead s (hbmCell k t.pa) m
        if r.2.reason ≠ 0 then (r.1, .poison r.2.reason (va + (byteMarks r.1 (hbmCell k t.pa) m).findIdx (fun b => b)))
        else readViaLoop fresh r.1 x k got who need (va + m) f (n - m) (acc ++ r.2.bytes)
def readVia (fresh : Bool) (s : State) (x : Nat) (k : Masks) (got : List (Nat × Nat × List Byte × List Bool)) (who : PeerWho) (need : Need) (va n : Nat) :
    State × VRead :=
  readViaLoop fresh s x k got who need va (n / 256 + 2) n []

end Sys2Proof.Machine
end

