-- ==== Sys2Proof/Machine/Codes.lean ====
section
/-! DEFINITION. Which code fields each instruction and each node word allows (R213, R279, R282 to R289, R292, R386, R395, R396). -/

namespace Sys2Proof.Machine

/-! Control words: the conditions of reason 4 of R386. -/

def cvtOk (x y : BitVec 4) : Bool := decide (x.toNat ≤ 11 ∧ y.toNat ≤ 11)
def scalarFmtOk (f : BitVec 4) : Bool := decide (6 ≤ f.toNat ∧ f.toNat ≤ 8)
def loadOk (z : BitVec 2) (x : BitVec 1) : Bool := !(decide (z = 3) && decide (x = 1))
def portOk (t : BitVec 6) (k : BitVec 1) : Bool := decide (k = 0 ∨ t.toNat ≤ 7)
def bindOk (t : BitVec 6) (k : BitVec 1) (p : BitVec 3) (f : BitVec 4) : Bool :=
  portOk t k && decide (p = 1 ∨ p = 2) && decide (f.toNat ≤ 10) && (decide (k = 1) || decide (f = 0))
def bufOk (u : BitVec 2) : Bool := decide (u ≠ 3)
def decodeOk (e : BitVec 4) : Bool := decide (e.toNat ≤ 11)
def copyInOk (u : BitVec 2) (e : BitVec 4) : Bool := bufOk u && decodeOk e
def copyBbOk (u v : BitVec 2) : Bool := bufOk u && decide (v = 1 ∨ v = 2)
def hstatOk (a b : BitVec 5) : Bool := decide (a ≠ b ∨ a = 0)
def streamOk (t : BitVec 6) : Bool := decide (t.toNat ≤ 7)
def mmaOk (t p : BitVec 6) : Bool := streamOk t && decide (p.toNat ≤ 15)
def mdrainOk (t : BitVec 6) (s : BitVec 2) (f : BitVec 4) : Bool :=
  streamOk t && decide (s ≠ 3) && decide (f.toNat ≤ 10) && (decide (s ≠ 1) || decide (6 ≤ f.toNat))
def vec2Ok (t : BitVec 6) (s : BitVec 2) : Bool := streamOk t && decide (s ≠ 3)
def vec1Ok (t : BitVec 6) : Bool := streamOk t
def gathOk (e : BitVec 4) : Bool := decodeOk e
def amoOk (z : BitVec 2) (x : BitVec 1) : Bool := decide (z = 2 ∨ z = 3) && loadOk z x
def amoFloatOk (z : BitVec 2) : Bool := decide (z = 1 ∨ z = 2)
def laFmtOk (f : BitVec 4) : Bool := decide (6 ≤ f.toNat ∧ f.toNat ≤ 10)
def laSpaceOk (s : BitVec 5) : Bool := decide (s.toNat ≤ 1)
def pathOk (p : BitVec 3) : Bool := decide (p.toNat < 8)
def fenceOk (p q s : BitVec 3) : Bool := pathOk p && pathOk q && decide (s.toNat ≤ 4)

/-! Node words: 0, or the lowest reason of R396. -/

def wordBits (w : BitVec 32) (lo n : Nat) : Nat := w.toNat / 2 ^ lo % 2 ^ n

/-- Fields of an element word (R165). -/
def elemOp (w : BitVec 32) : Nat := wordBits w 24 8
def elemSrcA (w : BitVec 32) : Nat := wordBits w 21 3
def elemSrcB (w : BitVec 32) : Nat := wordBits w 18 3
def elemFmt (w : BitVec 32) : Nat := wordBits w 14 4
def elemRnd (w : BitVec 32) : Nat := wordBits w 12 2
def elemSat (w : BitVec 32) : Nat := wordBits w 11 1
def elemSwap (w : BitVec 32) : Bool := w.getLsbD 10
def elemK (w : BitVec 32) : Nat := wordBits w 0 10

/-- Whether one of the sources that the opcode uses is the constant pool. -/
def usesPool (w : BitVec 32) : Bool :=
  decide (elemSrcA w = 1) || (!oneInput (elemOp w) && decide (elemSrcB w = 1))
def isAluFamily (op : Nat) : Bool :=
  match familyOf op with
  | some .memory => false
  | some _ => true
  | none => false
/-- An element word (R279, R396). -/
def elemReason (w : BitVec 32) : Nat :=
  let op := elemOp w
  if !isAluFamily op then 1
  else if !fmtAllowed op (elemFmt w) || (decide (elemRnd w ≠ 0) && !usesRnd op) || (decide (elemSat w ≠ 0) && !usesSat op) ||
    (!usesPool w && (if op = 0x48 then decide (12 ≤ elemK w) else decide (elemK w ≠ 0))) then 3
  else 0

/-- Fields of a memory element word (R167). -/
def memOwn (w : BitVec 32) : Nat := wordBits w 18 6
def memPred (w : BitVec 32) : Nat := wordBits w 12 6
def memSucc (w : BitVec 32) : Nat := wordBits w 6 6
def memWidth (w : BitVec 32) : Nat := wordBits w 3 3
def memSpace (w : BitVec 32) : Nat := wordBits w 0 3
/-- Memory opcodes that are atomics, and those that store and take `b` (R292). -/
def memAtomic (op : Nat) : Bool := decide (0x86 ≤ op ∧ op ≤ 0x8C)
def memStores (op : Nat) : Bool := decide (op = 0x82 ∨ op = 0x84) || memAtomic op
/-- A memory element word (R292, R395, R396). -/
def memReason (w : BitVec 32) : Nat :=
  let op := elemOp w
  if op < 0x80 ∨ 0x8D < op then 1
  else if 4 ≤ memWidth w ∨ 4 ≤ memSpace w then 3
  else if op ≤ 0x82 then (if memWidth w = 3 ∧ memSpace w ≠ 1 then 3 else 0)
  else if op = 0x8D then (if memWidth w = 0 ∧ memSpace w = 1 then 0 else 3)
  else if memWidth w = 2 then 0 else 3

/-- Fields of a switch word (R168). -/
def swOp (w : BitVec 32) : Nat := wordBits w 13 3
def swVariant (w : BitVec 32) : Nat := wordBits w 0 3
/-- A switch word as the image holds it (R168, R303, R308, R309, R395). DESIGN CHOICE (log 92): variant bits in a word of an operator
without a variant give reason 2. -/
def switchReason (w : BitVec 32) : Nat :=
  if swOp w = 7 then 1
  else if wordBits w 0 16 ≠ w.toNat then 2
  else if wordBits w 3 10 ≠ 0 ∨ (swOp w < 4 ∧ swVariant w ≠ 0) then 2
  else if (swOp w = 4 ∧ swVariant w ≠ 0) ∨ (swOp w = 5 ∧ 4 < swVariant w) ∨ (swOp w = 6 ∧ 1 < swVariant w) then 3
  else 0

/-- A loop-control unit's word (R169, R395), with the pool's size. -/
def loopTile (w : BitVec 32) : Bool := w.getLsbD 31
def loopK (w : BitVec 32) : Nat := wordBits w 0 10
def loopReason (w : BitVec 32) (nconst : Nat) : Nat :=
  if wordBits w 10 21 ≠ 0 then 2
  else if loopK w < 8 ∨ 1022 < loopK w ∨ nconst < loopK w + 2 then 3 else 0

/-- A matrix node's word (R169, R395). -/
def matPair (w : BitVec 32) : Nat := wordBits w 26 6
def matStream (w : BitVec 32) : Nat := wordBits w 23 3
def matRnd (w : BitVec 32) : Nat := wordBits w 21 2
def matSat (w : BitVec 32) : Bool := w.getLsbD 20
def matrixReason (w : BitVec 32) : Nat := if 16 ≤ matPair w then 1 else if wordBits w 0 20 ≠ 0 then 2 else 0

/-- A stream port's word (R169, R395). -/
def portSink (w : BitVec 32) : Bool := w.getLsbD 31
def portNum (w : BitVec 32) : Nat := wordBits w 25 6
def portFmt (w : BitVec 32) : Nat := wordBits w 21 4
def portWait (w : BitVec 32) : Bool := w.getLsbD 20
def sportReason (w : BitVec 32) : Nat := if wordBits w 0 20 ≠ 0 then 2 else if 12 ≤ portFmt w then 3 else 0

/-- A node's word, by class (R73, R395). -/
def wordReason (cls : Nat) (w : BitVec 32) (nconst : Nat) : Nat :=
  match cls with
  | 0 => elemReason w
  | 1 => memReason w
  | 2 => switchReason w
  | 3 => loopReason w nconst
  | 4 => matrixReason w
  | _ => sportReason w

end Sys2Proof.Machine
end

