-- ==== Sys2Proof/Machine/Flags.lean ====
section
/-! DEFINITION. The flags of the machine: saturation of a matrix stream, `late` and `err` of a handle, token residues (R52, R54, R100,
R126 to R128, R232, R418). -/

namespace Sys2Proof.Machine

/-- A matrix stream's saturation flag, set and cleared (R100, R232). -/
def satSet (s : State) (cl stream : Nat) (on : Bool) : State :=
  modCluster s cl (fun k => { k with sat := setPut on stream k.sat })
def satGet (s : State) (cl stream : Nat) : Bool := setHas stream (clusterAt s cl).sat

/-- A handle's `late` and `err` (R126 to R128, R408). -/
def markLate (h : Handle) : Handle := { h with late := true }
def markErr (h : Handle) : Handle := { h with err := true }

/-- Whether a DATA token's residue fits its data (R54). -/
def residueOk (t : Tok) : Bool := decide (t.res = residue t.data)

/-- A condition's register value (R179). -/
def boolWord (p : Bool) : Word := if p then 1 else 0

end Sys2Proof.Machine
end

