-- ==== Sys2Proof/Machine/ScalarFloat.lean ====
section
/-! DEFINITION. Conversion and scalar floating point (R183 to R186). -/

namespace Sys2Proof.Machine

/-- A word whose code fields are not allowed raises ILLEGAL with reason 4 (R386); otherwise it does what `f` says. -/
def checked (s : State) (ok : Bool) (f : Nat → Thread → State) : Out :=
  onThread s (fun t th => if ok then f t th else raiseTrap s t (illegalTrap 4))

/-- The format of a scalar floating instruction (R185). -/
def scalarFmt (f : BitVec 4) : Fmt := (fmtOfCode f.toNat).getD .f32

/-- The low bits of a register in a format (R183). -/
def regBits (th : Thread) (a : BitVec 5) (f : Fmt) : Nat := lowBits (fmtWidth f) (regGet th a).toNat

/-- R184: `cvt`. -/
def execCvt (d a : BitVec 5) (x y : BitVec 4) (r : BitVec 2) (st : BitVec 1) (s : State) : Out :=
  checked s (cvtOk x y) (fun t th =>
    match fmtOfCode x.toNat, fmtOfCode y.toNat with
    | some dst, some src =>
      retireWith s t d (fill64 dst (convert src dst (rndOfCode r.toNat) (decide (st = 1)) (regBits th a src)))
    | _, _ => raiseTrap s t (illegalTrap 4))

/-- A rounding operation of two inputs; `g` gives the exact result (R185, R186). -/
def scalarFloat (s : State) (d a b : BitVec 5) (f : BitVec 4) (r : BitVec 2) (g : Rnd → XVal → XVal → XVal) : Out :=
  checked s (scalarFmtOk f) (fun t th =>
    let m := rndOfCode r.toNat
    let k := scalarFmt f
    retireWith s t d (fill64 k (rnd k m false (g m (fmtVal k (regBits th a k)) (fmtVal k (regBits th b k))))))

/-- R185: `fadd`. -/
def execFadd (d a b : BitVec 5) (f : BitVec 4) (r : BitVec 2) (s : State) : Out := scalarFloat s d a b f r xAdd
/-- R185: `fsub`. -/
def execFsub (d a b : BitVec 5) (f : BitVec 4) (r : BitVec 2) (s : State) : Out :=
  scalarFloat s d a b f r (fun m x y => xAdd m x (xNegate y))
/-- R185: `fmul`. -/
def execFmul (d a b : BitVec 5) (f : BitVec 4) (r : BitVec 2) (s : State) : Out := scalarFloat s d a b f r (fun _ x y => xMul x y)
/-- R185: `fdiv`. -/
def execFdiv (d a b : BitVec 5) (f : BitVec 4) (r : BitVec 2) (s : State) : Out := scalarFloat s d a b f r (fun _ x y => xDiv x y)
/-- R185: `fmac`, with the old `gd` as the addend and one rounding. -/
def execFmac (d a b : BitVec 5) (f : BitVec 4) (r : BitVec 2) (s : State) : Out :=
  checked s (scalarFmtOk f) (fun t th =>
    let m := rndOfCode r.toNat
    let k := scalarFmt f
    retireWith s t d (fill64 k (rnd k m false
      (xAdd m (fmtVal k (regBits th d k)) (xMul (fmtVal k (regBits th a k)) (fmtVal k (regBits th b k)))))))
/-- R185: `fsqrt`. -/
def execFsqrt (d a : BitVec 5) (f : BitVec 4) (r : BitVec 2) (s : State) : Out :=
  checked s (scalarFmtOk f) (fun t th =>
    let k := scalarFmt f
    retireWith s t d (fill64 k (rnd k (rndOfCode r.toNat) false (xSqrt (fmtVal k (regBits th a k))))))
/-- R185: `fmin`. -/
def execFmin (d a b : BitVec 5) (f : BitVec 4) (s : State) : Out :=
  checked s (scalarFmtOk f) (fun t th => let k := scalarFmt f; retireWith s t d (fill64 k (floatMinMax k false (regBits th a k) (regBits th b k))))
/-- R185: `fmax`. -/
def execFmax (d a b : BitVec 5) (f : BitVec 4) (s : State) : Out :=
  checked s (scalarFmtOk f) (fun t th => let k := scalarFmt f; retireWith s t d (fill64 k (floatMinMax k true (regBits th a k) (regBits th b k))))
/-- R185: `fabs`. -/
def execFabs (d a : BitVec 5) (f : BitVec 4) (s : State) : Out :=
  checked s (scalarFmtOk f) (fun t th => let k := scalarFmt f; retireWith s t d (fill64 k (floatAbs k (regBits th a k))))
/-- R185: `fneg`. -/
def execFneg (d a : BitVec 5) (f : BitVec 4) (s : State) : Out :=
  checked s (scalarFmtOk f) (fun t th => let k := scalarFmt f; retireWith s t d (fill64 k (floatNeg k (regBits th a k))))
/-- R185: `feq`. -/
def execFeq (d a b : BitVec 5) (f : BitVec 4) (s : State) : Out :=
  checked s (scalarFmtOk f) (fun t th => let k := scalarFmt f; retireWith s t d (boolWord (xEq (fmtVal k (regBits th a k)) (fmtVal k (regBits th b k)))))
/-- R185: `flt`. -/
def execFlt (d a b : BitVec 5) (f : BitVec 4) (s : State) : Out :=
  checked s (scalarFmtOk f) (fun t th => let k := scalarFmt f; retireWith s t d (boolWord (xLt (fmtVal k (regBits th a k)) (fmtVal k (regBits th b k)))))
/-- R185: `fle`. -/
def execFle (d a b : BitVec 5) (f : BitVec 4) (s : State) : Out :=
  checked s (scalarFmtOk f) (fun t th => let k := scalarFmt f; retireWith s t d (boolWord (xLe (fmtVal k (regBits th a k)) (fmtVal k (regBits th b k)))))

end Sys2Proof.Machine
end

