-- ==== Sys2Proof/Machine/LoadStore.lean ====
section
/-! DEFINITION. Loads, stores and spills, and the steps that answer and perform them (R135, R174, R191 to R195). -/

namespace Sys2Proof.Machine

/-- A load's value in a register (R191). -/
def loadValue (n : Nat) (sx : Bool) (bs : List Byte) : Word :=
  let v := leNat bs
  if sx then BitVec.ofInt 64 (signedOf (8 * n) v) else BitVec.ofNat 64 v

/-- A load of `n` bytes has issued: the thread waits for the reply. -/
def loadFrom (s : State) (t : Nat) (th : Thread) (p : Space) (x : Word) (n : Nat) (sx : Bool) (d : BitVec 5) (need : Need)
    (own : Option Nat) : State :=
  match place s t th p x n need false own with
  | (s, .at_ (.cell c)) => waitAt s t (.load (.cell c) n sx d.toNat p x.toNat)
  | (s, .at_ (.peer dev pa)) =>
    let r := sendRequest s (.thread t d.toNat) th.ctx 1 dev pa n sx x.toNat [] false 0
    waitAt r.1 t (.peer r.2)
  | (s, q) => stopAt s t q

/-- A store of `n` bytes: it completes once its checks have passed and is performed later; one to a peer page waits for the
acknowledgement (R174). -/
def storeTo (s : State) (t : Nat) (th : Thread) (p : Space) (x : Word) (n : Nat) (v : Word) (need : Need) (own : Option Nat) :
    State :=
  let bs := leBytes v.toNat n
  match place s t th p x n need true own with
  | (s, .at_ (.cell c)) => retire (modThread s t (fun th => { th with posted := th.posted ++ [⟨c, bs, if p = .v then some x.toNat else none⟩] })) t
  | (s, .at_ (.peer dev pa)) =>
    let r := sendRequest s (.thread t 0) th.ctx 3 dev pa n false x.toNat bs false 0
    waitAt r.1 t (.peer r.2)
  | (s, q) => stopAt s t q

/-- A load instruction of the six spaces (R191). -/
def loadInstr (s : State) (p : Space) (d a b : BitVec 5) (z : BitVec 2) (x : BitVec 1) (o : BitVec 8) : Out :=
  checked s (loadOk z x) (fun t th => loadFrom s t th p (memAddr th a b z o) (2 ^ z.toNat) (decide (x = 1)) d needRead none)

/-- A store instruction (R191). -/
def storeInstr (s : State) (p : Space) (d a b : BitVec 5) (z : BitVec 2) (o : BitVec 8) : Out :=
  onThread s (fun t th => storeTo s t th p (memAddr th a b z o) (2 ^ z.toNat) (regGet th d) needWrite none)

/-- R191: `ld` from V. -/
def execLdV (d a b : BitVec 5) (z : BitVec 2) (x : BitVec 1) (o : BitVec 8) (s : State) : Out := loadInstr s .v d a b z x o
/-- R191: `st` to V. -/
def execStV (d a b : BitVec 5) (z : BitVec 2) (o : BitVec 8) (s : State) : Out := storeInstr s .v d a b z o
/-- R191: `ld` from the core scratchpad. -/
def execLdI (d a b : BitVec 5) (z : BitVec 2) (x : BitVec 1) (o : BitVec 8) (s : State) : Out := loadInstr s .i d a b z x o
/-- R191: `st` to the core scratchpad. -/
def execStI (d a b : BitVec 5) (z : BitVec 2) (o : BitVec 8) (s : State) : Out := storeInstr s .i d a b z o
/-- R191: `ld` from W. -/
def execLdW (d a b : BitVec 5) (z : BitVec 2) (x : BitVec 1) (o : BitVec 8) (s : State) : Out := loadInstr s .w d a b z x o
/-- R191: `ld` from A. -/
def execLdA (d a b : BitVec 5) (z : BitVec 2) (x : BitVec 1) (o : BitVec 8) (s : State) : Out := loadInstr s .a d a b z x o
/-- R191: `ld` from C. -/
def execLdC (d a b : BitVec 5) (z : BitVec 2) (x : BitVec 1) (o : BitVec 8) (s : State) : Out := loadInstr s .c d a b z x o
/-- R191: `st` to C. -/
def execStC (d a b : BitVec 5) (z : BitVec 2) (o : BitVec 8) (s : State) : Out := storeInstr s .c d a b z o

/-- R195: `spld`. The field counts 8-byte units. -/
def execSpld (d : BitVec 5) (sp : BitVec 17) (s : State) : Out :=
  onThread s (fun t th =>
    match spillAddr t th (8 * sp.toNat) false with
    | .error tr => raiseTrap s t tr
    | .ok (p, x) => loadFrom s t th p x 8 false d needBoth (some t))
/-- R195: `spst`. -/
def execSpst (d : BitVec 5) (sp : BitVec 17) (s : State) : Out :=
  onThread s (fun t th =>
    match spillAddr t th (8 * sp.toNat) true with
    | .error tr => raiseTrap s t tr
    | .ok (p, x) => storeTo s t th p x 8 (regGet th d) needBoth (some t))

/-- Whether a thread has a posted store that touches a range (R135). -/
def postedOn (th : Thread) (c n : Nat) : Bool := th.posted.any (fun p => overlaps p.cell p.bytes.length c n)

/-- R191, R192, R413: a load's reply returns. The thread's own earlier stores to its bytes are performed first (R135). Since the thread
waits for the reply, its loads take effect in program order, and before its later stores, which is narrower than R135 (log 91). -/
def execCtLoadReply (t : Nat) (s : State) : Out :=
  .next (match tblGet t s.threads with
    | none => s
    | some th => match th.wait with
      | .load (.cell c) n sx gd p x =>
        if postedOn th c n then s else
        let r := memRead s c n
        if r.2.reason ≠ 0 then raiseTrap (waitAt r.1 t .none) t (poisonTrap p false r.2.reason x.toNat)
        else retireWith r.1 t (BitVec.ofNat 5 gd) (loadValue n sx r.2.bytes)
      | _ => s)

/-- R174: the posted store number `k` of a thread is performed, after those before it that touch its bytes (R135). -/
def execStorePerform (t k : Nat) (s : State) : Out :=
  .next (match tblGet t s.threads with
    | none => s
    | some th => match th.posted[k]? with
      | none => s
      | some p =>
        if (th.posted.take k).any (fun q => overlaps q.cell q.bytes.length p.cell p.bytes.length) then s else
        let s := modThread s t (fun th => { th with posted := th.posted.eraseIdx k })
        finishThread (putBytes s p.cell p.bytes false) t)

end Sys2Proof.Machine
end

