-- ==== Sys2Proof/Machine/System.lean ====
section
/-! DEFINITION. Control and status registers and the system instructions (R196 to R207). -/

namespace Sys2Proof.Machine


/-- A control and status register, read (R197); `none` for an unassigned index. -/
def csrRead (s : State) (t : Nat) (th : Thread) (c : BitVec 10) : Option Word :=
  match c.toNat with
  | 0x000 => some th.status
  | 0x001 => some th.cause
  | 0x002 => some th.epc
  | 0x003 => some th.tvec
  | 0x004 => some th.evaddr
  | 0x005 => some th.escratch
  | 0x010 => some th.spillov
  | 0x011 => some (BitVec.ofNat 64 th.spillsz)
  | 0x020 => some (match ctxOf s th.ctx with
      | some x => if x.quotaOn then BitVec.ofInt 64 x.quota else 0x7FFFFFFFFFFFFFFF
      | none => 0x7FFFFFFFFFFFFFFF)
  | 0x021 => some (BitVec.ofNat 64 th.prio)
  | 0x022 => some (BitVec.ofNat 64 th.setid)
  | 0x030 => some th.masks.m0
  | 0x031 => some th.masks.m1
  | 0x032 => some th.masks.m2
  | 0x033 => some th.masks.m3
  | 0x034 => some th.masks.m4
  | 0x035 => some th.masks.m5
  | 0x036 => some th.masks.m6
  | 0x040 => some (BitVec.ofNat 64 s.now)
  | 0x041 => some (BitVec.ofNat 64 t)
  | 0x042 => some (BitVec.ofNat 64 th.ctx)
  | 0x043 => some (BitVec.ofNat 64 (partNum s th.ctx))
  | 0x050 => some (BitVec.ofNat 64 th.icnt)
  | _ => none

/-- A control and status register, written under its field rules (R197, R200, R114); `none` for a register that is read only or
unassigned, and for a value that `setid` does not allow. -/
def csrWrite (th : Thread) (c : BitVec 10) (v : Word) : Option Thread :=
  match c.toNat with
  | 0x002 => some { th with epc := codeAddr v }
  | 0x003 => some { th with tvec := codeAddr v }
  | 0x005 => some { th with escratch := v }
  | 0x010 => some { th with spillov := v }
  | 0x021 => some { th with prio := min (v.toNat % 8) th.prioCap }
  | 0x022 =>
    let n := v.toNat % 65536
    if n < 256 ∨ n = 65535 then some { th with setid := n } else none
  | 0x030 => some { th with masks := maskSet th.masks 0 (maskWritten 0 v) }
  | 0x031 => some { th with masks := maskSet th.masks 1 (maskWritten 1 v) }
  | 0x032 => some { th with masks := maskSet th.masks 2 (maskWritten 2 v) }
  | 0x033 => some { th with masks := maskSet th.masks 3 (maskWritten 3 v) }
  | 0x034 => some { th with masks := maskSet th.masks 4 (maskWritten 4 v) }
  | 0x035 => some { th with masks := maskSet th.masks 5 (maskWritten 5 v) }
  | 0x036 => some { th with masks := maskSet th.masks 6 (maskWritten 6 v) }
  | _ => none

/-- A write of a register with a value computed from its old one (R201); ILLEGAL with reason 5 where it is not allowed (R200). -/
def csrUpdate (s : State) (c : BitVec 10) (a : BitVec 5) (f : Word → Word → Word) : Out :=
  onThread s (fun t th =>
    match (csrRead s t th c).bind (fun old => csrWrite th c (f old (regGet th a))) with
    | some th' => retire (modThread s t (fun _ => th')) t
    | none => raiseTrap s t (illegalTrap 5))

/-- R201: `crd`. -/
def execCrd (c : BitVec 10) (a : BitVec 5) (s : State) : Out :=
  onThread s (fun t th =>
    match csrRead s t th c with
    | some v => retireWith s t a v
    | none => raiseTrap s t (illegalTrap 5))
/-- R201: `cwr`. -/
def execCwr (c : BitVec 10) (a : BitVec 5) (s : State) : Out := csrUpdate s c a (fun _ v => v)
/-- R201: `cset`. -/
def execCset (c : BitVec 10) (a : BitVec 5) (s : State) : Out := csrUpdate s c a (fun old v => old ||| v)
/-- R201: `cclr`. -/
def execCclr (c : BitVec 10) (a : BitVec 5) (s : State) : Out := csrUpdate s c a (fun old v => old &&& ~~~v)

/-- R202: `sleep`. -/
def execSleep (a : BitVec 5) (s : State) : Out :=
  onThread s (fun t th =>
    if (regGet th a).toNat ≤ s.now then retire s t else waitAt s t (.sleep (regGet th a).toNat))
/-- R202: the counter has reached the time a thread sleeps to. An asynchronous trap raised during the sleep comes first. -/
def execSleepWake (t : Nat) (s : State) : Out :=
  .next (match tblGet t s.threads with
    | some th => match th.wait with
      | .sleep u => if u ≤ s.now ∧ (th.asyncs.isEmpty ∨ inTrap th) then retire s t else s
      | _ => s
    | none => s)

/-- R203: `yield` has no effect but the end of the thread's turn. -/
def execYield (s : State) : Out := onThread s (fun t _ => retire s t)
/-- R204: `exit`. -/
def execExit (s : State) : Out := onThread s (fun t _ => stopThread (retire s t) t false)
/-- R205: `tret`. -/
def execTret (s : State) : Out :=
  onThread s (fun t th => if inTrap th then returnTrap s t else raiseTrap s t (illegalTrap 6))

/-- What an operand of `xinv` covers (R206): the whole context, or an address; `none` where it is not canonical. -/
def xinvCover (v : Word) : Option (Option Nat) :=
  if v = 0x8000000000000000 then some none else if v.toNat < 2 ^ 57 then some (some v.toNat) else none

/-- An invalidation begins (R206, R365). -/
def beginInval (s : State) (x : Nat) (cover : Option Nat) (byHost : Bool) : State × Nat :=
  ({ s with invals := tblSet s.nextInval ⟨x, cover, s.now, byHost⟩ s.invals, nextInval := s.nextInval + 1 }, s.nextInval)
/-- R206: `xinv`. -/
def execXinv (a : BitVec 5) (s : State) : Out :=
  onThread s (fun t th =>
    match xinvCover (regGet th a) with
    | none => raiseTrap s t (xlateTrap .v false 1 (regGet th a).toNat)
    | some cover =>
      let r := beginInval s th.ctx cover false
      waitAt r.1 t (.xinv r.2))

/-- The halt or breakpoint of a context that a `brk` halts its thread under: the lowest halt, and without one the lowest breakpoint, whether
it has matched or not, since R207 asks only that halts are armed (R346; log 90). -/
def armedHalt (s : State) (x : Nat) : Option Nat :=
  match (s.halts.find? (fun h => h.1 / 16 == x)) with
  | some h => some (h.1 % 16)
  | none => (s.breaks.find? (fun b => b.1 / 8 == x)).map (fun b => 16 + b.1 % 8)
/-- R207: `brk`. -/
def execBrk (n : BitVec 10) (s : State) : Out :=
  onThread s (fun t th =>
    match armedHalt s th.ctx with
    | some h => modThread (retire s t) t (fun th => { th with halts := setAdd h th.halts })
    | none => raiseBreak s t n.toNat)

/-- Whether a thread runs, and neither its context's pre-emption nor a debugger stops it. -/
def mayRun (s : State) (th : Thread) : Bool :=
  decide (th.life = .running) && th.halts.isEmpty && (ctxOf s th.ctx).any (fun c => decide (c.phase = .running))
/-- R176: a pending asynchronous trap is taken at an instruction boundary or in a wait that it interrupts (R433), once the
thread runs (R431). -/
def execAsyncTrapEntry (t : Nat) (s : State) : Out :=
  .next (match tblGet t s.threads with
    | some th =>
      if mayRun s th && !inTrap th && interruptible th.wait then enterAsync s t else s
    | none => s)

end Sys2Proof.Machine
end

