-- ==== Sys2Proof/Machine/Sync.lean ====
section
/-! DEFINITION. Full/empty accesses, and what an atomic computes (R253 to R258). -/

namespace Sys2Proof.Machine

/-! Full/empty accesses (R253 to R255). -/

/-- The space of a full/empty access (R253). -/
def tagSpace (c : BitVec 2) : Space :=
  match c.toNat with
  | 0 => .i
  | 1 => .v
  | 2 => .a
  | _ => .c

/-- A full/empty access: the checks of R192, and then the access at its word, which `f` is given by its cell and its `wordKey`. An access
to a word that the thread has a posted store to waits until that store is performed (R135). -/
def onWord (s : State) (a : BitVec 5) (sp : BitVec 2) (o : BitVec 5) (w store : Bool)
    (f : State → Nat → Thread → Space → Nat → Nat → Nat → State) : Out :=
  onThread s (fun t th =>
    let p := tagSpace sp
    let x := regGet th a + (o.signExtend 64 <<< (2 : Nat))
    match place s t th p x 4 ⟨true, w, false, true⟩ store none with
    | (s, .at_ (.cell c)) => if postedOn th c 4 then waitAt s t .retry else f s t th p x.toNat c (wordKey th.masks c)
    | (s, q) => stopAt s t q)

/-- A waiting form: the thread waits on the word, and is served at once where the word allows. -/
def waitForm (s : State) (a : BitVec 5) (sp : BitVec 2) (o : BitVec 5) (gd : Nat) (store : Bool) (op : Thread → WordOp) : Out :=
  onWord s a sp o true store (fun s t th p x c k =>
    settleTags (waitWord (waitAt s t (.word k p x)) k ⟨.thread t gd, op th, c⟩) k)

/-- A word read by a form that does not wait: poison traps, and the word is unchanged (R253). -/
def readWord (s : State) (t : Nat) (p : Space) (x c : Nat) (f : State → Nat → State) : State :=
  let r := memRead s c 4
  if r.2.reason ≠ 0 then raiseTrap r.1 t (poisonTrap p false r.2.reason x) else f r.1 (leNat r.2.bytes)

/-- R253: `ldw.f`. -/
def execLdwF (d a : BitVec 5) (sp : BitVec 2) (o : BitVec 5) (s : State) : Out := waitForm s a sp o d.toNat false (fun _ => .takeFull)
/-- R253: `stw.e`. -/
def execStwE (d a : BitVec 5) (sp : BitVec 2) (o : BitVec 5) (s : State) : Out :=
  waitForm s a sp o 0 true (fun th => .fillEmpty ((regGet th d).truncate 32) false)
/-- R253: `ldw.ft`. A V word that it must enter in a full tag table waits (R254). -/
def execLdwFt (d a : BitVec 5) (sp : BitVec 2) (o : BitVec 5) (s : State) : Out :=
  onWord s a sp o true false (fun s t th p x c k =>
    if !wordFull s k then retireWith s t d 0
    else if !tagRoom s k then waitAt s t .retry
    else readWord s t p x c (fun s v =>
      settleTags (settleWord (retireWith (setEmpty s th.ctx k) t d (BitVec.ofNat 64 (2 ^ 32 + v))) k) k))
/-- R253: `stw.et`. -/
def execStwEt (d a b : BitVec 5) (sp : BitVec 2) (o : BitVec 5) (s : State) : Out :=
  onWord s a sp o true true (fun s t th _ _ c k =>
    if wordFull s k then retireWith s t b 0
    else
      let s := setFull (memStore s c (leBytes ((regGet th d).toNat % 2 ^ 32) 4) false) k
      settleTags (settleWord (retireWith s t b 1) k) k)
/-- R253: `ldw.fk`. -/
def execLdwFk (d a : BitVec 5) (sp : BitVec 2) (o : BitVec 5) (s : State) : Out := waitForm s a sp o d.toNat false (fun _ => .keepFull)
/-- R253: `ldw.q`, which on space V needs `r` alone. -/
def execLdwQ (d a : BitVec 5) (sp : BitVec 2) (o : BitVec 5) (s : State) : Out :=
  onWord s a sp o false false (fun s t _ p x c k =>
    readWord s t p x c (fun s v => retireWith s t d (BitVec.ofNat 64 ((if wordFull s k then 2 ^ 32 else 0) + v))))
/-- R253: `fclr`. -/
def execFclr (a : BitVec 5) (sp : BitVec 2) (o : BitVec 5) (s : State) : Out :=
  onWord s a sp o true false (fun s t th _ _ _ k =>
    if wordFull s k && !tagRoom s k then waitAt s t .retry
    else settleTags (settleWord (retire (setEmpty s th.ctx k) t) k) k)

/-! What atomics compute (R257, R258). -/

/-- The larger of two patterns in the order of R258: every NaN above the infinities, -0 below +0. -/
def amoLarger (f : Fmt) (x y : Nat) : Nat :=
  if xIsNan (floatVal f (lowBits (fmtWidth f) x)) || xIsNan (floatVal f (lowBits (fmtWidth f) y)) then (floatShape f).canonNan
  else floatMinMax f true x y

/-- The value that an atomic of `n` bytes writes (R257, R258), by `op` code; `none` where it writes nothing. `cmp` is the value
that `amo.cas` compares. -/
def amoNew (op n old v cmp : Nat) : Option Nat :=
  let w := 8 * n
  let v := v % 2 ^ w
  let f : Fmt := if n = 2 then .bf16 else .f32
  match op with
  | 0 => some v
  | 1 => some ((old + v) % 2 ^ w)
  | 2 => some (old &&& v)
  | 3 => some (old ||| v)
  | 4 => some (old ^^^ v)
  | 5 => some (if signedOf w old ≤ signedOf w v then old else v)
  | 6 => some (if signedOf w old ≤ signedOf w v then v else old)
  | 7 => some (min old v)
  | 8 => some (max old v)
  | 9 => if old = cmp % 2 ^ w then some v else none
  | 10 => some (amoLarger f old v)
  | _ => some 0

/-- The value that an atomic, or a read of `n` bytes sign-extended, puts into its register (R257). -/
def amoResult (n : Nat) (sx : Bool) (old : Nat) : Word :=
  if sx then BitVec.ofInt 64 (signedOf (8 * n) old) else BitVec.ofNat 64 old

end Sys2Proof.Machine
end

