-- ==== Sys2Proof/Machine/Barrier.lean ====
section
/-! DEFINITION. Membership sets and barriers as instructions (R264 to R267, R428, R429). -/

namespace Sys2Proof.Machine

/-- The set that the value of a register names: `none` above 255 (R264). -/
def setNamed (th : Thread) (a : BitVec 5) : Option Nat :=
  let n := (regGet th a).toNat
  if n < 256 then some (setKey th.ctx n) else none

def setAt (s : State) (key : Nat) : Option SetObj := tblGet key s.sets
def isMember (s : State) (key t : Nat) : Bool := (setAt s key).any (fun o => setHas t o.members)

/-- An instruction on a set: status 3 for a number above 255 (R264). -/
def onSet (s : State) (d a : BitVec 5) (f : Nat → Thread → Nat → State) : Out :=
  onThread s (fun t th =>
    match setNamed th a with
    | none => retireWith s t d 3
    | some key => f t th key)
/-- The same for those whose status stands in bits [33:32]. -/
def onPhase (s : State) (d a : BitVec 5) (low : Thread → Nat) (f : Nat → Thread → Nat → State) : Out :=
  onThread s (fun t th =>
    match setNamed th a with
    | none => retireWith s t d (phaseResult 3 (low th))
    | some key => f t th key)

/-- R264, R45: `sjoin`. -/
def execSjoin (d a : BitVec 5) (s : State) : Out :=
  onSet s d a (fun t _ key =>
    if isMember s key t then retireWith s t d 1
    else if 8 ≤ (setsOf s t).length then retireWith s t d 2
    else retireWith (joinSet s key t) t d 0)
/-- R264, R45: `sleave`. The thread's stores are performed first, since the leave may release the set's locks (R148, R277). -/
def execSleave (d a : BitVec 5) (s : State) : Out :=
  onSet s d a (fun t th key =>
    if !isMember s key t then retireWith s t d 1
    else if !storesDone th then waitAt s t .retry
    else quitSet (retireWith s t d 0) key t)

/-- The phase of an arrival that the thread made by this `barw` before it was interrupted, where it is still recorded (R266). -/
def heldArrival (th : Thread) (o : SetObj) (t key : Nat) : Option Nat :=
  (th.barwHeld.find? (fun e => decide (e.1 = th.pc.toNat ∧ e.2.1 = key) &&
    ((decide (e.2.2 = o.phase) && setHas t o.arrived) || (decide (e.2.2 = (o.phase + 1) % 2 ^ 32) && setHas t o.arrivedNext)))).map (·.2.2)

/-- An arrival (R265): it is sent once the thread's earlier stores are performed, and stalls where the thread already holds one
for the next phase. `f` is given the phase it is for. -/
def arrive (s : State) (t : Nat) (th : Thread) (key : Nat) (o : SetObj) (f : State → Nat → State) : State :=
  if !storesDone th then waitAt s t .retry else
  match arrivalPhase o t with
  | none => waitAt s t (.arrive key o.phase)
  | some p => settleSet (f (recordArrival s key t p) p) key

/-- R265, R266: `barw`. DESIGN CHOICE (log 116): with status 2 the phase is the set's current one, 0 where there is no set, and with
status 3 it is 0. -/
def execBarw (d a : BitVec 5) (s : State) : Out :=
  onPhase s d a (fun _ => 0) (fun t th key =>
    match setAt s key with
    | none => retireWith s t d (phaseResult 2 0)
    | some o =>
      if !setHas t o.members then retireWith s t d (phaseResult 2 o.phase) else
      match heldArrival th o t key with
      | some p => waitAt s t (.phase key p true d.toNat)
      | none => arrive s t th key o (fun s p => waitAt s t (.phase key p true d.toNat)))
/-- R265, R266: `bara`. DESIGN CHOICE (log 116): the phase with status 2 and 3 is as for `barw`. -/
def execBara (d a : BitVec 5) (s : State) : Out :=
  onPhase s d a (fun _ => 0) (fun t th key =>
    match setAt s key with
    | none => retireWith s t d (phaseResult 2 0)
    | some o =>
      if !setHas t o.members then retireWith s t d (phaseResult 2 o.phase)
      else arrive s t th key o (fun s p => retireWith s t d (phaseResult 0 p)))
/-- R266: `barwp`. -/
def execBarwp (d a b : BitVec 5) (s : State) : Out :=
  onPhase s d a (fun th => (regGet th b).toNat % 2 ^ 32) (fun t th key =>
    let p := (regGet th b).toNat % 2 ^ 32
    match setAt s key with
    | none => retireWith s t d (phaseResult 2 p)
    | some o =>
      if phaseOver o.phase p then retireWith s t d (phaseResult 0 p)
      else waitAt s t (.phase key p false d.toNat))
/-- R267, R428: `binit`. -/
def execBinit (d a : BitVec 5) (s : State) : Out :=
  onSet s d a (fun t _ key =>
    if (setAt s key).isSome then revokePhase (retireWith s t d 0) key else retireWith s t d 1)
/-- R264: `sstat`. -/
def execSstat (d a : BitVec 5) (s : State) : Out :=
  onSet s d a (fun t _ key =>
    match setAt s key with
    | none => retireWith s t d 0
    | some o => retireWith s t d (BitVec.ofNat 64 (o.members.length * 2 ^ 32 + o.phase)))

end Sys2Proof.Machine
end

