-- ==== Sys2Proof/Machine/Branch.lean ====
section
/-! DEFINITION. Branches and jumps (R187 to R189). -/

namespace Sys2Proof.Machine

/-- The target of a pc-relative branch or jump (R187, R188). -/
def relTarget (pc : Word) (off : Word) : Word := pc + (off <<< 2)

/-- A conditional branch (R187). -/
def branch (s : State) (a b : BitVec 5) (o : BitVec 16) (taken : Word → Word → Bool) : Out :=
  onThread s (fun t th =>
    retireAt s t (if taken (regGet th a) (regGet th b) then relTarget th.pc (o.signExtend 64) else th.pc + 4))

/-- R187: `b.eq`. -/
def execBEq (a b : BitVec 5) (o : BitVec 16) (s : State) : Out := branch s a b o (fun x y => x == y)
/-- R187: `b.ne`. -/
def execBNe (a b : BitVec 5) (o : BitVec 16) (s : State) : Out := branch s a b o (fun x y => x != y)
/-- R187: `b.lt`. -/
def execBLt (a b : BitVec 5) (o : BitVec 16) (s : State) : Out := branch s a b o (fun x y => x.slt y)
/-- R187: `b.ge`. -/
def execBGe (a b : BitVec 5) (o : BitVec 16) (s : State) : Out := branch s a b o (fun x y => !x.slt y)
/-- R187: `b.ltn`. -/
def execBLtn (a b : BitVec 5) (o : BitVec 16) (s : State) : Out := branch s a b o (fun x y => x.ult y)
/-- R187: `b.gen`. -/
def execBGen (a b : BitVec 5) (o : BitVec 16) (s : State) : Out := branch s a b o (fun x y => !x.ult y)
/-- R188: `jmp`. -/
def execJmp (o : BitVec 26) (s : State) : Out := onThread s (fun t th => retireAt s t (relTarget th.pc (o.signExtend 64)))
/-- R188: `call` writes `g31` and jumps. -/
def execCall (o : BitVec 26) (s : State) : Out :=
  onThread s (fun t th => retireAt (modThread s t (fun th => regSet th 31 (th.pc + 4))) t (relTarget th.pc (o.signExtend 64)))

/-- A jump to a register's address, which must be a multiple of 4 (R189). -/
def jumpReg (s : State) (a : BitVec 5) (link : Option (BitVec 5)) : Out :=
  onThread s (fun t th =>
    let x := regGet th a
    if x &&& 3 ≠ 0 then raiseTrap s t (alignTrap .v false 2 x.toNat)
    else match link with
      | some d => retireAt (modThread s t (fun th => regSet th d (th.pc + 4))) t x
      | none => retireAt s t x)
/-- R189: `callr`; `ga` is read before `gd` is written. -/
def execCallr (d a : BitVec 5) (s : State) : Out := jumpReg s a (some d)
/-- R189: `jmpr`. -/
def execJmpr (a : BitVec 5) (s : State) : Out := jumpReg s a none

end Sys2Proof.Machine
end

