-- ==== Sys2Proof/Machine/PageFmt.lean ====
section
/-! DEFINITION. Pages read by their format: elements, block scales, N-of-12 groups, KVC rows (R87 to R95, R222, R293, R413). -/

namespace Sys2Proof.Machine

/-- A decoded element: its format, its pattern, and whether it is poisoned. -/
structure Dec where
  fmt : Fmt
  bits : Nat
  poison : Bool
  deriving DecidableEq, Repr

/-- The value format and the element size of page formats 0 to 8 (R87). -/
def plainFmt (f : Nat) : Fmt :=
  match f with
  | 1 => .i8 | 2 => .i16 | 3 => .i32 | 4 => .bf16 | 5 => .f16 | 6 => .f32 | 7 => .e4m3 | 8 => .e5m2 | _ => .n8
def plainSize (f : Nat) : Nat := fmtWidth (plainFmt f) / 8

/-- Where byte 0 of a target's page lies. -/
def pageBase (t : Target) : Nat := t.pa / 2 ^ t.bits * 2 ^ t.bits

/-- Bytes of the page of a target by their offset. On a peer page they are those of the replies in `got` that hold them. -/
def pageBytes (s : State) (k : Masks) (t : Target) (off n : Nat) : State × ReadOut := memRead s (hbmCell k (pageBase t + off)) n

/-- Groups of an N-of-12 page (R91): N, the value size, and G. -/
def groupN (g : Nat) : Nat :=
  match g with
  | 0 => 4 | 1 => 6 | _ => 8
def groupSize (f : Nat) : Nat := if f = 12 then 2 else 1
def groupCount (p f g : Nat) : Nat := p / (2 + groupN g * groupSize f) / 64 * 64

/-- The number of elements of a page of formats 9 to 14 (R81, R89, R91, R222). -/
def elemCount (p f g : Nat) : Nat :=
  match f with
  | 9 => 4 * p
  | 10 | 11 => 7 * (p / 8)
  | 12 | 13 => 12 * groupCount p f g
  | _ => 16384

/-- The block of an element of a block-scaled page (R89). -/
def blockOf (g e : Nat) : Nat :=
  let h := 2 ^ (g % 4)
  let w := 32 / h
  let l := 128 * 2 ^ (g / 4)
  e / l / h * (l / w) + e % l / w

/-- A value times its scale, as every consumer but the matrix engine takes it (R90). -/
def scaled (f : Fmt) (bits scale : Nat) : Nat := rnd .f32 .rne false (xMul (fmtVal f bits) (floatVal .f32 scale))

/-- How the bytes of a page are read: an offset and a length. -/
abbrev PageRead := State → Nat → Nat → State × ReadOut

/-- An element with a scale. -/
def decScaled (rd : PageRead) (s : State) (f : Fmt) (eOff sOff : Nat) : State × Dec :=
  let a := rd s eOff 1
  let b := rd a.1 sOff 4
  (b.1, ⟨.f32, scaled f (leNat a.2.bytes) (leNat b.2.bytes), decide (a.2.reason ≠ 0 ∨ b.2.reason ≠ 0)⟩)

/-- Element `e` of a page of format 12 or 13 (R91, R92). -/
def decGroup (rd : PageRead) (s : State) (p f g e : Nat) : State × Dec :=
  let q := e / 12
  let j := e % 12
  let fm : Fmt := if f = 12 then .bf16 else .e4m3
  let sz := groupSize f
  let m := rd s (2 * q) 2
  let mask := leNat m.2.bytes % 4096
  if m.2.reason ≠ 0 ∨ groupN g < popNat 12 mask then (m.1, ⟨fm, 0, true⟩)
  else if !mask.testBit j then (m.1, ⟨fm, 0, false⟩)
  else
    let v := rd m.1 (2 * groupCount p f g + groupN g * sz * q + sz * popNat 12 (mask % 2 ^ j)) sz
    (v.1, ⟨fm, leNat v.2.bytes, decide (v.2.reason ≠ 0)⟩)

/-- Element `e` of a KVC page: keys below 8,192, values above (R93, R94). -/
def decKvc (rd : PageRead) (s : State) (e : Nat) : State × Dec :=
  let r := e % 8192
  let t := r / 128
  let c := r % 128
  let occ := rd s 18944 8
  if occ.2.reason ≠ 0 then (occ.1, ⟨.f32, 0, true⟩)
  else if !(leNat occ.2.bytes).testBit t then (occ.1, ⟨.f32, 0, false⟩)
  else if e < 8192 then decScaled rd occ.1 .e4m3 (512 + r) (8704 + 16 * t + 4 * (c / 32))
  else decScaled rd occ.1 .e4m3 (9728 + r) (17920 + 16 * t + 4 * (c / 32))

/-- Whether place `e` of a page of `p` bytes lies in the scale region or the reserved bytes of a block-scaled page, or in the value scales or the
occupancy word of a KVC page, where a decoding access reads the raw bytes (R89, R90, R93, R94; DEDUCED, log 93). -/
def rawPart (p f g e : Nat) : Bool :=
  decide ((f = 10 ∨ f = 11) ∧ elemCount p f g ≤ e ∧ e < p) || decide (f = 14 ∧ 17920 ≤ e ∧ e < 18952)
/-- Whether `e` lies past the last element of a page of formats 9 to 14, and in no raw part (R222, R293). -/
def pastElems (p f g e : Nat) : Bool := decide (elemCount p f g ≤ e) && !rawPart p f g e

/-- Element `e` of a page of formats 9 to 14, of `p` bytes; `none` past the last element (R222). -/
def decElem (rd : PageRead) (s : State) (p f g e : Nat) : State × Option Dec :=
  if pastElems p f g e then (s, none) else
  let out (r : State × Dec) : State × Option Dec := (r.1, some r.2)
  if rawPart p f g e then
    let b := rd s e 1
    (b.1, some ⟨.n8, leNat b.2.bytes, decide (b.2.reason ≠ 0)⟩)
  else
  match f with
  | 9 =>
    let b := rd s (e / 4) 1
    let c := bitsOf (leNat b.2.bytes) (2 * (e % 4)) 2
    (b.1, some (if c = 2 then ⟨.t2, 0, true⟩ else ⟨.t2, c, decide (b.2.reason ≠ 0)⟩))
  | 10 => out (decScaled rd s .e4m3 e (7 * (p / 8) + 4 * blockOf g e))
  | 11 => out (decScaled rd s .i8 e (7 * (p / 8) + 4 * blockOf g e))
  | 12 | 13 => out (decGroup rd s p f g e)
  | _ => out (decKvc rd s e)

/-- The plain element at an offset of a page of formats 0 to 8. -/
def decPlain (rd : PageRead) (s : State) (f off : Nat) : State × Dec :=
  let r := rd s off (plainSize f)
  (r.1, ⟨plainFmt f, leNat r.2.bytes, decide (r.2.reason ≠ 0)⟩)

end Sys2Proof.Machine
end

