-- ==== Sys2Proof/Machine/Cmds.lean ====
section
/-! DEFINITION. Engine commands: their words, issue, queues, reservations, accesses to V, freezes and ends (R25, R208 to R212, R317,
R353, R354, R360, R389, R402 to R408). -/

namespace Sys2Proof.Machine

/-! Words and operands (R160, R208). -/

/-- A form E word. -/
def formE (major t a b minor : Nat) : Nat := major * 2 ^ 26 + t * 2 ^ 20 + a * 2 ^ 15 + b * 2 ^ 10 + minor
def cmdMajor (c : Cmd) : Nat := bitsOf c.word 26 6
def cmdTarget (c : Cmd) : Nat := bitsOf c.word 20 6
def cmdMinor (c : Cmd) : Nat := bitsOf c.word 0 10
/-- Bits of the register operands. -/
def gaBits (c : Cmd) (lo n : Nat) : Nat := bitsOf c.ga.toNat lo n
def gbBits (c : Cmd) (lo n : Nat) : Nat := bitsOf c.gb.toNat lo n
/-- A field of the descriptor. -/
def descField (c : Cmd) (off n : Nat) : Nat := leNat ((c.desc.drop off).take n)

/-- A command of a thread, as it stands at issue. -/
def newCmd (t : Nat) (th : Thread) (word : Nat) (ga gb : Word) (desc : List Byte) : Cmd :=
  { word := word, ga := ga, gb := gb, desc := desc, masks := th.masks, tid := t, ctx := th.ctx, node := none, handle := 0,
    headAt := none, asked := none, granted := false, power := 0, step := 0, la := 0, sum := 0, best := 0, bad := false,
    bk := none, waiting := false, frost := [], froze := [], memo := [], got := [], lanes := [], rows := [], failed := false }

/-- Whether a register operand has a bit outside the map of its fields (R208), which `m` covers. -/
def outside (v : Word) (m : Nat) : Bool := v &&& ~~~(BitVec.ofNat 64 m) ≠ 0
/-- The bits of a field, as a number. -/
def fieldMask (lo n : Nat) : Nat := (2 ^ n - 1) * 2 ^ lo

/-- The lowest reason of R389 among conditions in the order of their numbers. -/
def issueReason (cs : List (Nat × Bool)) : Nat := ((cs.find? (·.2)).map (·.1)).getD 0

/-- Sizes of W, A and C, by the codes of R220. -/
def bufSize (b : Nat) : Nat := if b = 2 then 0x100000 else 0x200000
def bufCell (cl b a : Nat) : Nat := if b = 0 then wCell cl a else if b = 1 then aCell cl a else cCell cl a

/-- A descriptor of `n` bytes in the core scratchpad (R210): the thread's own posted stores to it are performed first. -/
def readDesc (s : State) (t : Nat) (th : Thread) (a : Word) (n : Nat) (f : State → List Byte → State) : State :=
  let x := a.toNat
  if x % n ≠ 0 then raiseTrap s t (alignTrap .i false 4 x) else
  match place s t th .i a n needRead false none with
  | (s, .at_ (.cell c)) =>
    if postedOn th c n then waitAt s t .retry else
    let r := memRead s c n
    if r.2.reason ≠ 0 then raiseTrap r.1 t (poisonTrap .i false r.2.reason x) else f r.1 r.2.bytes
  | (s, q) => stopAt s t q

/-! Queues (R25, R209). -/

def setQueue (s : State) (cl u : Nat) (q : UnitQ) : State := setUnit s cl u (headAged s.now q)
def modRunning (s : State) (cl u : Nat) (f : Cmd → Cmd) : State :=
  let q := unitAt s cl u
  setUnit s cl u { q with running := q.running.map f }

/-- A command joins its unit's queue, or its thread stalls while that is full (R25). DESIGN CHOICE (log 108): the command that the unit runs
takes one of the eight places of R209. -/
def issueTo (s : State) (t u : Nat) (c : Cmd) (f : State → State) : State :=
  let q := unitAt s (clusterOf t) u
  if 8 ≤ (unitCmds q).length then waitAt s t (.full (.unit u))
  else retire (f (setQueue s (clusterOf t) u { q with queue := q.queue ++ [c] })) t

/-- An issue that its limits refuse traps (R389). -/
def issueCmd (s : State) (t u reason : Nat) (c : Cmd) (f : State → State) : State :=
  if reason ≠ 0 then raiseTrap s t (issueTrap reason) else issueTo s t u c f

/-! Charges and reservations (R353, R354). -/

def mmaPair (c : Cmd) : Nat := bitsOf (cmdMinor c) 0 6
def matOp (c : Cmd) : Nat := bitsOf (cmdMinor c) 6 4
def mmaSteps (c : Cmd) : Nat := gaBits c 32 10
/-- The number of a command's steps (R317, R353). -/
def cmdSteps (c : Cmd) : Nat :=
  match cmdMajor c with
  | 0x32 => if matOp c ≤ 1 then mmaSteps c else 1
  | 0x33 => gbBits c 24 16
  | 0x35 => descField c 24 4
  | _ => 1

/-- Lines of `n` bytes: each started 64 bytes (R353). -/
def lines (n : Nat) : Nat := (n + 63) / 64
def copyLen (c : Cmd) : Nat := gbBits c 32 25

/-- Power of a command's reservation, in mW (R353). -/
def cmdPower (c : Cmd) : Nat :=
  if cmdSteps c = 0 then 0 else
  match cmdMajor c with
  | 0x31 => 250
  | 0x32 =>
    if matOp c = 2 then 1000
    else if mmaPair c ≤ 3 then 4100
    else if mmaPair c ≤ 11 ∨ mmaPair c = 14 then 3800
    else if mmaPair c = 13 then 2600 else 3200
  | 0x33 => 450
  | 0x34 => 600
  | _ => 400

/-- The charge of a segment, in pJ, but for the lines that row prediction gathers, which `grantCharge` adds (R353). -/
def cmdCharge (c : Cmd) : Nat :=
  if cmdSteps c = 0 then 0 else
  match cmdMajor c with
  | 0x31 => 40 * lines (copyLen c)
  | 0x32 =>
    if matOp c = 2 then 4000
    else if mmaPair c ≤ 3 then 16400
    else if mmaPair c ≤ 11 ∨ mmaPair c = 14 then 15200
    else if mmaPair c = 13 then 10400 else 12800
  | 0x33 => 1
  | 0x34 => if cmdMinor c / 256 = 0 then 20 * (gaBits c 29 16 + 1) else 20 * descField c 10 2
  | _ => 40 * lines (descField c 24 4 * descField c 28 4)

/-- Whether a cluster's quadrant is in a current-limit block (R443): `limited` holds the domains 4q to 4q + 3 of its quadrant. -/
def domainBlocked (s : State) (cl : Nat) : Bool := s.limited.any (fun d => decide (d / 4 = cl / 16))

/-- Whether a context may be granted a segment (R360). -/
def quotaAllows (s : State) (x : Nat) : Bool := (ctxOf s x).any (fun c => !c.quotaOn || decide (0 < c.quota))
def ctxRuns (s : State) (x : Nat) : Bool := (ctxOf s x).any (fun c => decide (c.phase = .running))

/-- Whether a context is being pre-empted. -/
def ctxStops (s : State) (x : Nat) : Bool := (ctxOf s x).any (fun c => decide (c.phase = .stopping))
/-- Whether two commands of one unit belong to one matrix stream, whose order holds (R140). -/
def sameStream (a b : Cmd) : Bool := decide (cmdMajor a = 0x32 ∧ cmdMajor b = 0x32 ∧ cmdTarget a % 8 = cmdTarget b % 8)
/-- Whether a command with others `behind` it on its unit may start or go on: its context runs; or it is being pre-empted, and the command is
the operation of a formation's matrix node, which the cut waits for (R299, R319, R320), or stands before one in its stream, whose order holds
(R140, R150; DEDUCED, log 29). -/
def cmdGoes (s : State) (behind : List Cmd) (c : Cmd) : Bool :=
  ctxRuns s c.ctx || (ctxStops s c.ctx && (c.node.isSome || behind.any (fun k => k.node.isSome && sameStream c k)))
/-- The commands of a queue that go, and those that do not, each in their order. -/
def splitQueue (s : State) : List Cmd → List Cmd × List Cmd
  | [] => ([], [])
  | c :: rest =>
    let r := splitQueue s rest
    if cmdGoes s rest c then (c :: r.1, r.2) else (r.1, c :: r.2)
/-- While a context is pre-empted the commands that do not go stay queued (R319), and those of other streams that the cut waits for go past
them; no two operations of one stream change places (R140, R209). -/
def nodesFirst (s : State) (q : UnitQ) : UnitQ :=
  match q.running, q.queue with
  | none, c :: rest =>
    if ctxStops s c.ctx && !cmdGoes s rest c then
      let r := splitQueue s q.queue
      headAged s.now { q with queue := r.1 ++ r.2 }
    else q
  | _, _ => q

/-- Matrix and vector requests of a cluster that have asked and wait: age and unit (R354). Those of a context's threads are withdrawn as its
pre-emption begins (`withdrawAsks`), so that none stands in the way of a node's. -/
def waitingAsks (s : State) (cl : Nat) : List (Nat × Nat) :=
  [0, 1, 2, 3, 4, 5].filterMap (fun u =>
    let q := unitAt s cl u
    match q.running, q.queue with
    | none, c :: _ => if c.asked.isSome then some (c.headAt.getD 0, u) else none
    | _, _ => none)
def earlierAsk (a b : Nat × Nat) : Bool := decide (a.1 < b.1) || (decide (a.1 = b.1) && decide (a.2 < b.2))

/-- Power held by a cluster's matrix and vector commands. -/
def heldBy (s : State) (cl : Nat) : Nat :=
  ([0, 1, 2, 3, 4, 5].map (fun u => ((unitAt s cl u).running.map (·.power)).getD 0)).sum

/-- Whether the command at the head of a unit may be granted now (R354, R360, R443). -/
def grantable (s : State) (cl u : Nat) (c : Cmd) : Bool :=
  c.asked.isSome && quotaAllows s c.ctx && cmdGoes s ((unitAt s cl u).queue.drop 1) c &&
  (if u ≤ 5 then
     !domainBlocked s cl && (waitingAsks s cl).all (fun a => a.2 == u || earlierAsk (c.headAt.getD 0, u) a) &&
     decide (heldBy s cl + cmdPower c ≤ (clusterAt s cl).share)
   else true)

/-- R317: the command at the head of unit `u` of cluster `c` requests its reservation; one with no steps needs none. -/
def execReservationRequest (c u : Nat) (s : State) : Out :=
  .next (
    let q := nodesFirst s (unitAt s c u)
    match q.running, q.queue with
    | none, k :: rest =>
      if isMarker k || k.asked.isSome || !cmdGoes s rest k then s
      else if cmdSteps k = 0 then setUnit s c u { q with running := some { k with granted := true }, queue := rest }
      else setUnit s c u { q with queue := { k with asked := some s.now } :: rest }
    | _, _ => s)

/-- Whether a cluster holds more than its share, so that its commands release and ask again (R357). -/
def overShare (s : State) (cl : Nat) : Bool := decide ((clusterAt s cl).share < heldBy s cl)

/-- A stopping point after a step of unit `u` (R317, R319, R357, R360, R443): the next segment is granted and debited, or the command
goes back to the head of its queue, at once asking again unless its context is being pre-empted. -/
def stepBoundary (s : State) (cl u : Nat) : State :=
  let q := unitAt s cl u
  match q.running with
  | none => s
  | some c =>
    let goes := cmdGoes s q.queue c
    if goes && quotaAllows s c.ctx && !domainBlocked s cl && !overShare s cl then debit s c.ctx (cmdCharge c)
    else setUnit s cl u { q with
      running := none
      queue := { c with granted := false, asked := if goes then some s.now else none, power := 0 } :: q.queue }

/-- The threads of a cluster whose decided wounds a unit's step may release (R274). -/
def deliverWounds (s : State) (cl : Nat) : State :=
  (s.threads.filter (fun p => p.1 / 16 == cl && p.2.woundDue)).foldl (fun s p => deliverWound s p.1) s

/-- A launch of the thread no longer waits for the command of unit `u` that has completed (R247); the bindings of fabric port `p` stand
under 100 + p. -/
def easeLaunch (t u : Nat) (l : Launch) : Launch :=
  if l.source = .thread t then
    match tblGet u l.hold with
    | some n => { l with hold := if n ≤ 1 then tblDel u l.hold else tblSet u (n - 1) l.hold }
    | none => l
  else l
def easeLaunches (s : State) (t u : Nat) : State :=
  let held := (s.launches.filter (fun p => decide (p.2.source = .thread t) && !p.2.hold.isEmpty)).map (·.1)
  held.foldl refreshLaunch { s with launches := tblMap (fun _ l => easeLaunch t u l) s.launches }

/-- Launches of thread `t` that wait for its bindings on port `p` wait for the write that one of them has on its way to a peer device, by its
request, under 1000 + its tag (R247). -/
def holdLanding (s : State) (p t k : Nat) : State :=
  if (tblGet k s.requests).isNone then s else
  { s with launches := tblMap (fun _ l => if l.source = .thread t ∧ (tblGet (100 + p) l.hold).isSome then
      { l with hold := tblSet (1000 + k) 1 l.hold } else l) s.launches }
/-- A request of a peer device is settled: no launch waits for it any longer (R247). -/
def easeLanding (s : State) (k : Nat) : State :=
  let held := (s.launches.filter (fun p => (tblGet (1000 + k) p.2.hold).isSome)).map (·.1)
  held.foldl refreshLaunch (if held.isEmpty then s else
    { s with launches := tblMap (fun _ l => { l with hold := tblDel (1000 + k) l.hold }) s.launches })
/-- A port's bindings are changed as those at its head end; launches no longer wait for those of fabric ports that have ended (R247). -/
def putBindings (s : State) (cl p : Nat) (q : Port) : State :=
  let old := (portAt s cl p).bindings.map (·.tid)
  let now := q.bindings.map (·.tid)
  let s := setPort s cl p q
  if 64 ≤ p ∨ s.launches.all (fun l => l.2.hold.isEmpty) then s else
  let s := q.landing.foldl (fun s l => holdLanding s p l.1 l.2) s
  old.eraseDups.foldl (fun s t => (List.range (old.count t - now.count t)).foldl (fun s _ => easeLaunches s t (100 + p)) s) s
/-- The last bindings of thread `t` on a port are discarded (R218): a launch that it made before them waits for those in front as before
(R247). -/
def dropBindings (s : State) (cl p t : Nat) (q : Port) : State :=
  let left := (q.bindings.filter (fun b => b.tid == t)).length
  let cap (l : Launch) : Launch :=
    if l.source = .thread t ∧ (tblGet (100 + p) l.hold).any (fun n => decide (left < n)) then
      { l with hold := if left = 0 then tblDel (100 + p) l.hold else tblSet (100 + p) left l.hold }
    else l
  let held := (s.launches.filter (fun l => decide (l.2.source = .thread t) && !l.2.hold.isEmpty)).map (·.1)
  held.foldl refreshLaunch { setPort s cl p q with launches := tblMap (fun _ l => cap l) s.launches }
/-- The bindings of a port prove to be those of a source, which writes nothing: no launch waits for them (R247). -/
def easePort (s : State) (cl p : Nat) : State :=
  (portAt s cl p).bindings.foldl (fun s b => easeLaunches s b.tid (100 + p)) s

/-- Requests of peer devices that a party made are its own no longer: what comes of them concerns nobody (R410). -/
def disown (p : PeerWho → Bool) (s : State) : State :=
  if s.requests.any (fun r => p r.2.who) then { s with requests := tblMap (fun _ r => if p r.who then { r with who := .none } else r) s.requests }
  else s
def ofUnit (cl u : Nat) : PeerWho → Bool
  | .unit a b _ => a == cl && b == u
  | _ => false

/-- The running command of a unit completes (R25, R42, R299, R408). A command that a fault has ended may leave reads of a peer device behind,
which are not the next command's (R410). -/
def completeCmd (s : State) (cl u : Nat) : State :=
  let q := unitAt s cl u
  match q.running with
  | none => s
  | some c =>
    let s := disown (ofUnit cl u) (setQueue s cl u { q with running := none })
    let s := deliverWounds s cl
    match c.node with
    | some (f, n) =>
      match (tblGet f s.forms).bind (fun fm => fm.nodes[n]?) with
      | some nd =>
        match nd.accs.find? (fun a => match a.stage with
          | .sent _ => true
          | _ => false) with
        | some a => unbindIfIdle (setStage s f n a.seq (.done (dataTok false 0))) cl
        | none => unbindIfIdle s cl
      | none => unbindIfIdle s cl
    | none =>
      let s := easeLaunches s c.tid u
      let s := if c.failed then modThread s c.tid (fun th => { th with failTask := true }) else s
      unbindIfIdle (finishThread s c.tid) cl

/-! Records of commands (R406, R407). -/

/-- A record with the origin of a command. -/
def cmdRecord (s : State) (c : Cmd) (code reason addr detail : Nat) : Record :=
  let th := tblGet c.tid s.threads
  { plainRecord code reason 1 with
    launch := (th.map (·.launch)).getD 0xFFFFFFFF, task := (th.map (·.task)).getD 0xFFFFFFFF
    node := c.tid, word := c.word, addr := addr, detail := detail }
def cmdFault (s : State) (c : Cmd) (reason addr detail : Nat) : State := writeRecord s c.ctx (cmdRecord s c 0x26 reason addr detail)

/-! Accesses of commands to V (R210, R402 to R406). -/

/-- An exact address as 64 bits. -/
def addrNat (a : Int) : Nat := (a % 2 ^ 64).toNat

/-- What an access of a command comes to: it fails with a reason of R388, at an address, for a flash page. -/
inductive VGet where
  | ok (bs : List Byte) (pm : List Bool)
  | fail (reason addr fpage : Nat)
  deriving DecidableEq, Repr

/-- Pieces of a range that cross no 256-byte granule: address and length. -/
def vPieces (va n : Nat) : Nat → List (Nat × Nat)
  | 0 => []
  | f + 1 =>
    if n = 0 then [] else
    let m := min n (256 - va % 256)
    (va, m) :: vPieces (va + m) (n - m) f

/-- The part of a command that a party stands for: a vector command has one, its port's access. -/
def partOfWho (c : Cmd) : PeerWho → Nat
  | .unit _ _ i => if cmdMajor c = 0x33 then 0 else i
  | _ => 0
/-- A translation for a part of a command: a part that has been frozen walks afresh (R404). -/
def cmdXlat (s : State) (c : Cmd) (who : PeerWho) (va : Nat) (need : Need) : State × Xlat :=
  translateAs (tblGet (partOfWho c who) c.froze).isSome s c.ctx va need

/-- Every piece translated, or the first failure; an absent page's fill is started (R110). -/
def vTargets (s : State) (c : Cmd) (who : PeerWho) (need : Need) : List (Nat × Nat) → State × (List (Target × Nat) ⊕ (Nat × Nat × Nat))
  | [] => (s, .inl [])
  | (va, m) :: rest =>
    if 2 ^ 57 ≤ va then (s, .inr (1, va, 0)) else
    match cmdXlat s c who va need with
    | (s, .fault r) => (s, .inr (r, va, 0))
    | (s, .absent p) => (startFill s c.ctx p va, .inr (absentReason s c.ctx p, va, p))
    | (s, .ok t) =>
      match vTargets s c who need rest with
      | (s, .inl ts) => (s, .inl ((t, m) :: ts))
      | (s, .inr e) => (s, .inr e)

/-- Bytes of a peer device: those of a reply that has come, or zeros while the request is on its way. -/
def peerMap (s : State) (got : List (Nat × Nat × List Byte × List Bool)) (who : PeerWho) (x dev pa n addr : Nat) :
    State × List Byte × List Bool :=
  match got.find? (fun g => decide (g.1 = dev ∧ g.2.1 = pa ∧ g.2.2.1.length = n)) with
  | some g => (s, g.2.2)
  | none =>
    (if asksFor s who dev pa n then s else (sendRequest s who x 1 dev pa n false addr [] false 0).1, List.replicate n 0, List.replicate n false)
def peerBytes (s : State) (got : List (Nat × Nat × List Byte × List Bool)) (who : PeerWho) (x dev pa n addr : Nat) : State × ReadOut :=
  let r := peerMap s got who x dev pa n addr
  (r.1, ⟨r.2.1, if r.2.2.any (fun b => b) then 2 else 0⟩)
/-- Whether replies that a party waits for are outstanding. -/
def pendingFor (s : State) (who : PeerWho) : Bool := s.requests.any (fun r => decide (r.2.who = who))

/-- Bytes of translated pieces, from address `va` upward. -/
def readTargets (k : Masks) (got : List (Nat × Nat × List Byte × List Bool)) (who : PeerWho) (x va : Nat) (s : State) :
    List (Target × Nat) → State × List Byte × List Bool
  | [] => (s, [], [])
  | (t, m) :: rest =>
    let r : State × List Byte × List Bool :=
      if t.peer then peerMap s got who x t.dev t.pa m va else memReadMap s (hbmCell k t.pa) m
    let q := readTargets k got who x (va + m) r.1 rest
    (q.1, r.2.1 ++ q.2.1, r.2.2 ++ q.2.2)

/-- A read of V by a command. -/
def vGet (s : State) (c : Cmd) (who : PeerWho) (va n : Nat) : State × VGet :=
  match vTargets s c who needRead (vPieces va n (n / 256 + 2)) with
  | (s, .inr (r, a, p)) => (s, .fail r a p)
  | (s, .inl ts) =>
    let q := readTargets c.masks c.got who c.ctx va s ts
    (q.1, .ok q.2.1 q.2.2)

/-- Bytes put at translated pieces; those of a peer device leave as a request. -/
def writeTargets (k : Masks) (who : PeerWho) (x va : Nat) (s : State) : List (Target × Nat) → List Byte → List Bool → State
  | [], _, _ => s
  | (t, m) :: rest, bs, pm =>
    let s :=
      if t.peer then (sendRequestMap s who x 3 t.dev t.pa m false va (bs.take m) (pm.take m) 0).1
      else putBytesMap s (hbmCell k t.pa) (bs.take m) (pm.take m)
    writeTargets k who x (va + m) s rest (bs.drop m) (pm.drop m)

/-- A write of V by a command: nothing is written where a piece fails. -/
def vPut (s : State) (c : Cmd) (who : PeerWho) (va : Nat) (bs : List Byte) (pm : List Bool) : State × Option (Nat × Nat × Nat) :=
  match vTargets s c who needWrite (vPieces va bs.length (bs.length / 256 + 2)) with
  | (s, .inr e) => (s, some e)
  | (s, .inl ts) => (writeTargets c.masks who c.ctx va s ts bs pm, none)

/-- What a part of a command (a line, row or candidate) comes to: performed, with whether it met poison; stopped at an address;
without its peer's reply yet; held behind an earlier part (R143); or ended by a failure of R407. -/
inductive Part1 where
  | done (bad : Bool)
  | stop (reason addr fpage : Nat) (store : Bool)
  | pending
  | held
  | ends (reason addr detail : Nat)
  deriving DecidableEq, Repr

def frostAt (c : Cmd) (i : Nat) : Option Frost := c.frost.find? (fun f => f.idx == i)
def dropFrost (c : Cmd) (i : Nat) : Cmd := { c with frost := c.frost.filter (fun f => f.idx != i) }

/-- The outcome of part `i` of a command entered into it: a freeze is recorded (R403, R406), and a failure that cannot be woken ends
the command (R402, R407). -/
def notePart (s : State) (c : Cmd) (i : Nat) (p : Part1) : State × Cmd :=
  match p with
  | .done bad => (s, { dropFrost c i with bad := c.bad || bad })
  | .pending => (s, { dropFrost c i with frost := (dropFrost c i).frost ++ [⟨i, false, ⟨0, 0, false, s.now, s.now, 0, 0⟩⟩] })
  | .held => (s, { dropFrost c i with frost := (dropFrost c i).frost ++ [⟨i, true, ⟨0, 255, false, s.now, s.now, 0, 0⟩⟩] })
  | .ends reason addr detail => (cmdFault (countFrosts s c.ctx c.frost) c reason addr detail, { c with frost := [], failed := true })
  | .stop reason addr fpage store =>
    if reason = 1 ∨ 8 ≤ reason then (cmdFault (countFrosts s c.ctx c.frost) c 9 addr reason, { c with frost := [], failed := true }) else
    let since := (tblGet i c.froze).getD s.now
    let c' := { dropFrost c i with
      frost := (dropFrost c i).frost ++ [⟨i, false, ⟨addr, reason, store, since, s.now, fpage, s.nextInval⟩⟩], froze := tblSet i since c.froze }
    if 6 ≤ reason then (s, c')
    else (writeRecord s c.ctx (cmdRecord s c 4 reason addr (8192 + (if store then 4096 else 0))), c')

/-- The parts of a command to be tried now, in rising order: all of them at first, then those woken. -/
def partsToTry (c : Cmd) (n : Nat) (started : Bool) : List Nat :=
  if started then (c.frost.filter (·.woken)).foldl (fun l f => setAdd f.idx l) [] else List.range n

/-- Parts performed one after another; nothing more once the command has failed. A part may enter what it has read into the command's
`memo`, so that it is not read again (R212). -/
def runParts (f : State → Cmd → Nat → State × Cmd × Part1) (s : State) (c : Cmd) : List Nat → State × Cmd
  | [] => (s, c)
  | i :: rest =>
    if c.failed then (s, c) else
    let r := f s c i
    let q := notePart r.1 r.2.1 i r.2.2
    runParts f q.1 q.2 rest
/-- A part that keeps nothing of what it reads. -/
def plainPart (g : State → Cmd → Nat → State × Part1) (s : State) (c : Cmd) (i : Nat) : State × Cmd × Part1 :=
  let r := g s c i
  (r.1, c, r.2)
/-- A row of bytes with their poison as a number, and back. -/
def rowCode (bs : List Byte) (pm : List Bool) : Nat := leNat bs + 2 ^ (8 * bs.length) * pm.foldr (fun b v => b.toNat + 2 * v) 0
def rowOf (n v : Nat) : List Byte × List Bool := (leBytes v n, (List.range n).map (fun i => v.testBit (8 * n + i)))
/-- Whether an exact address is canonical (R103, R215, R245). -/
def exactOk (a : Int) : Bool := decide (0 ≤ a ∧ a < 2 ^ 57)

/-! Bytes that a part writes to V, line by line: each line is an access of its own, which waits by itself and is not performed again (R139, R212,
R403). -/

def anyPoison (pm : List Bool) : Bool := pm.any (fun b => b)
/-- Line `i` of a range of addresses: its first byte and its length (R139). -/
def lineAt (da len i : Nat) : Nat × Nat :=
  let lo := if i = 0 then da else (da / 64 + i) * 64
  (lo, min (da + len) ((da / 64 + i + 1) * 64) - lo)
def lineCount (da len : Nat) : Nat := if len = 0 then 0 else (da + len - 1) / 64 - da / 64 + 1
/-- The number under which line `k` of what part `i` writes freezes and is woken; parts themselves stand below 2^32. -/
def lineIdx (i k : Nat) : Nat := (k + 1) * 2 ^ 32 + i
def idxPart (n : Nat) : Nat := n % 2 ^ 32
def idxLine (n : Nat) : Nat := n / 2 ^ 32 - 1
/-- Line `k` of the bytes of part `i`, which begin at `va`, is written; `held` says whether it must wait for an earlier one (R143). -/
def linePart (held : State → Cmd → Nat → Nat → Bool) (cl u i va : Nat) (bs : List Byte) (pm : List Bool) (s : State) (c : Cmd) (k : Nat) :
    State × Part1 :=
  let l := lineAt va bs.length k
  let cut {α : Type} (x : List α) : List α := (x.drop (l.1 - va)).take l.2
  if held s c l.1 l.2 then (s, .held) else
  match vPut s c (.unit cl u (lineIdx i k)) l.1 (cut bs) (cut pm) with
  | (s, some (r, a, p)) => (s, .stop r a p true)
  | (s, none) => (s, .done (anyPoison (cut pm)))
def neverHeld (_ : State) (_ : Cmd) (_ _ : Nat) : Bool := false
/-- Every line of the bytes of part `i`, each entered into the command. -/
def putLines (held : State → Cmd → Nat → Nat → Bool) (cl u i va : Nat) (bs : List Byte) (pm : List Bool) (s : State) (c : Cmd) : List Nat → State × Cmd
  | [] => (s, c)
  | k :: rest =>
    if c.failed then (s, c) else
    let r := linePart held cl u i va bs pm s c k
    let q := notePart r.1 c (lineIdx i k) r.2
    putLines held cl u i va bs pm q.1 q.2 rest
/-- The bytes of part `i` of the selection engine, which have no poison, are written to V; `n` names the part itself, or one of its lines. -/
def writeOut (cl i va : Nat) (bs : List Byte) (s : State) (c : Cmd) (n : Nat) : State × Cmd × Part1 :=
  let pm := List.replicate bs.length false
  if 2 ^ 32 ≤ n then
    let r := linePart neverHeld cl 8 i va bs pm s c (idxLine n)
    (r.1, c, r.2)
  else
    let r := putLines neverHeld cl 8 i va bs pm s c (List.range (lineCount va bs.length))
    (r.1, r.2, .done false)
/-- Whether a line of part `i` is not yet written, or not yet acknowledged by its peer. -/
def linesOpen (s : State) (cl u : Nat) (c : Cmd) (i : Nat) : Bool :=
  c.frost.any (fun f => decide (2 ^ 32 ≤ f.idx ∧ idxPart f.idx = i)) || s.requests.any (fun r => match r.2.who with
    | .unit a b n => a == cl && b == u && decide (2 ^ 32 ≤ n ∧ idxPart n = i)
    | _ => false)

/-- Whether every part of a unit's command is performed: none frozen and no reply outstanding (R143, R403). -/
def partsDone (s : State) (cl u : Nat) (c : Cmd) : Bool :=
  c.frost.isEmpty && !s.requests.any (fun r => match r.2.who with
    | .unit a b _ => a == cl && b == u
    | _ => false)
/-- Whether a command may complete: with its last part, or, once a fault has ended it, as soon as every write that it has sent to a peer device
is acknowledged or given up (R247, R408; DEDUCED, log 113). -/
def cmdEnds (s : State) (cl u : Nat) (c : Cmd) : Bool :=
  partsDone s cl u c || (c.failed && !s.requests.any (fun r => decide (r.2.type ≠ 1) && ofUnit cl u r.2.who))

end Sys2Proof.Machine
end

