-- ==== Sys2Proof/Machine/Stream.lean ====
section
/-! DEFINITION. Stream bindings (R213 to R219). -/

namespace Sys2Proof.Machine

/-- The port of a target and kind: fabric ports 0 to 63, vector ports from 64 (R213). -/
def portIndex (t : BitVec 6) (k : BitVec 1) : Nat := if k = 1 then 64 + t.toNat else t.toNat

/-- A signed 32-bit field. -/
def signed32 (v : Nat) : Int := signedOf 32 v

/-- A binding from its descriptor (R214). DESIGN CHOICE (log 109): its accesses to V use the masks of the thread that issues it, which R116 does not
list. -/
def bindingOf (t : Nat) (th : Thread) (word : Nat) (spaceV : Bool) (fmt : Nat) (gb : Word) (bs : List Byte) : Binding :=
  let f (o n : Nat) : Nat := leNat ((bs.drop o).take n)
  { tid := t, ctx := th.ctx, word := word, spaceV := spaceV, base := (f 0 8 + gb.toNat) % 2 ^ 57
    counts := [f 8 4, f 16 4, f 24 4], strides := [signed32 (f 12 4), signed32 (f 20 4), signed32 (f 28 4)]
    eos := (f 0 8).testBit 57, swap := (f 0 8).testBit 58, wait := (f 0 8).testBit 59
    fmt := fmt, masks := th.masks, pos := 0, failed := false }

/-- The number of a binding's accesses, and the address of each (R215). -/
def bindAccesses (b : Binding) : Nat := b.counts.foldl (fun a n => a * n) 1
def bindAddr (b : Binding) (i : Nat) : Int :=
  let n0 := b.counts.getD 0 1
  let n1 := b.counts.getD 1 1
  (b.base : Int) + ((i % n0 : Nat) : Int) * b.strides.getD 0 0 + ((i / n0 % n1 : Nat) : Int) * b.strides.getD 1 0 +
    ((i / n0 / n1 : Nat) : Int) * b.strides.getD 2 0

/-- Whether a port is a sink of the formation that it serves. -/
def sinkHeld (s : State) (q : Port) : Bool :=
  (q.holder.bind (fun h => (tblGet h.1 s.forms).bind (fun fm => fm.nodes[h.2]?))).any (fun nd => portSink nd.word)
/-- Bindings without accesses that have come to the head of a vector port or a sink end at once (R216, R237). -/
def dropEmpty (q : Port) : Port :=
  let n := (q.bindings.takeWhile (fun b => decide (bindAccesses b = 0))).length
  { q with bindings := q.bindings.drop n, ordinal := q.ordinal + n }
def settlePort (s : State) (p : Nat) (q : Port) : Port := if 64 ≤ p ∨ sinkHeld s q then dropEmpty q else q

/-- R213, R214, R216: `sbind`. A binding for a port that a fault has ended (R408) ends at once (log 25). -/
def execSbind (t : BitVec 6) (a b : BitVec 5) (k : BitVec 1) (sp : BitVec 3) (f : BitVec 4) (s : State) : Out :=
  checked s (bindOk t k sp f) (fun tid th =>
    readDesc s tid th (regGet th a) 32 (fun s bs =>
      let d := bindingOf tid th th.word (decide (sp = 1)) f.toNat (regGet th b) bs
      let p := portIndex t k
      let reason := issueReason [
        (1, decide (bitsOf (leNat (bs.take 8)) 60 4 ≠ 0)),
        (8, if k = 1 then d.eos || d.swap || (d.wait && d.spaceV) else d.wait)]
      let q := portAt s (clusterOf tid) p
      if reason ≠ 0 then raiseTrap s tid (issueTrap reason)
      else if q.failed then retire s tid
      else if 4 ≤ q.bindings.length then waitAt s tid (.full (.port p))
      else retire (setPort s (clusterOf tid) p (settlePort s p { q with bindings := q.bindings ++ [d] })) tid))

/-- Whether a peer write by a binding of the thread on a port, now discarded, is still on its way (R218). -/
def writesLand (s : State) (c p t : Nat) : Bool := (portAt s c p).landing.any (fun l => l.1 == t && (tblGet l.2 s.requests).isSome)
/-- R218: `swait`. -/
def execSwait (t : BitVec 6) (k : BitVec 1) (s : State) : Out :=
  checked s (portOk t k) (fun tid _ =>
    let p := portIndex t k
    if bindingsOf s (clusterOf tid) p tid || writesLand s (clusterOf tid) p tid then waitAt s tid .retry else retire s tid)

/-- Whether the vector command that runs has begun an access of a vector port: it is frozen, awaits a peer's reply, or waits on a word. -/
def takesFrom (s : State) (c p : Nat) : Bool :=
  let u := 4 + (p - 64) / 4
  decide (64 ≤ p) && (unitAt s c u).running.any (fun k => decide (cmdTarget k = p - 64 ∧ bitsOf (cmdMinor k) 0 2 = 1) &&
    (k.waiting || !k.frost.isEmpty || !k.lanes.isEmpty))
/-- Whether the binding at the head of a port has begun: its port serves a formation, or a command has begun to take from it (R216). -/
def headBegun (s : State) (c p : Nat) : Bool :=
  let q := portAt s c p
  q.holder.isSome || (q.bindings.head?).any (fun b => decide (0 < b.pos)) || takesFrom s c p
/-- A thread's bindings on a port that have not begun are discarded (R218). -/
def clearBindings (s : State) (c p tid : Nat) : Port :=
  let q := portAt s c p
  { q with bindings := if headBegun s c p then q.bindings.take 1 ++ (q.bindings.drop 1).filter (fun b => b.tid != tid)
                       else q.bindings.filter (fun b => b.tid != tid) }
/-- R218: `sclear`. -/
def execSclear (t : BitVec 6) (k : BitVec 1) (s : State) : Out :=
  checked s (portOk t k) (fun tid _ =>
    let p := portIndex t k
    let c := clusterOf tid
    retire (dropBindings s c p tid (settlePort s p (clearBindings s c p tid))) tid)

end Sys2Proof.Machine
end

