-- ==== Sys2Proof/Machine/Copy.lean ====
section
/-! DEFINITION. Copies and buffer handles (R126 to R128, R139, R220 to R224, R346, R407, R408, R415, R436, R439). -/

namespace Sys2Proof.Machine

def copyDir (c : Cmd) : Nat := bitsOf (cmdMinor c) 8 2
def copyBuf (c : Cmd) : Nat := bitsOf (cmdMinor c) 6 2
def copySrcBuf (c : Cmd) : Nat := bitsOf (cmdMinor c) 4 2
def copyDec (c : Cmd) : Nat := bitsOf (cmdMinor c) 0 4
def copyOff (c : Cmd) : Nat := gbBits c 0 21

/-- Whether a handle lets a copy of a direction be issued (R127, R221). -/
def handleFree (h : Handle) (dir : Nat) : Bool :=
  h.claimed.isNone && (decide (h.state = 0) || (decide (dir = 1) && decide (h.state = 2)))

/-- The reason of R389 for which a copy is refused (R117, R220 to R222); 0 where it is not. -/
def copyReason (c : Cmd) (h : Handle) : Nat :=
  issueReason [
    (1, outside c.gb (fieldMask 0 21 + fieldMask 32 25) || (decide (copyDir c = 2) && outside c.ga (fieldMask 0 21))),
    (2, decide (copyBuf c = 0) && decide (copyDir c ≠ 0)),
    (3, decide (bufSize (copyBuf c) < copyOff c + copyLen c) ||
        (decide (copyDir c = 2) && decide (bufSize (copySrcBuf c) < gaBits c 0 21 + copyLen c))),
    (5, decide (copyLen c = 0 ∨ 0x1000000 < copyLen c)),
    (6, !handleFree h (copyDir c)),
    (7, decide (copyDec c ≠ 0) && decide (copyLen c % (fmtWidth ((fmtOfCode (copyDec c - 1)).getD .i8) / 8) ≠ 0))]

/-- A copy is checked and queued, and claims its handle (R209, R221). -/
def issueCopy (s : State) (ok : Bool) (h : BitVec 6) (a b : BitVec 5) (minor : Nat) : Out :=
  checked s ok (fun t th =>
    let c := { newCmd t th (formE 0x31 h.toNat a.toNat b.toNat minor) (regGet th a) (regGet th b) [] with handle := h.toNat }
    let cl := clusterOf t
    issueCmd s t (6 + h.toNat % 2) (copyReason c (handleAt s cl h.toNat)) c
      (fun s => setHandle s cl h.toNat { handleAt s cl h.toNat with claimed := some t }))

/-- R220: `copy.in`. -/
def execCopyIn (h : BitVec 6) (a b : BitVec 5) (u : BitVec 2) (e : BitVec 4) (s : State) : Out :=
  issueCopy s (copyInOk u e) h a b (64 * u.toNat + e.toNat)
/-- R220: `copy.out`. -/
def execCopyOut (h : BitVec 6) (a b : BitVec 5) (u : BitVec 2) (s : State) : Out :=
  issueCopy s (bufOk u) h a b (256 + 64 * u.toNat)
/-- R220: `copy.bb`. -/
def execCopyBb (h : BitVec 6) (a b : BitVec 5) (u v : BitVec 2) (s : State) : Out :=
  issueCopy s (copyBbOk u v) h a b (512 + 64 * u.toNat + 16 * v.toNat)

/-- R221, R127: copy engine `u` of cluster `c` accepts the copy granted to it. -/
def execCopyAccept (c u : Nat) (s : State) : Out :=
  .next (
    let q := unitAt s c u
    match q.running with
    | some k =>
      if k.step ≠ 0 ∨ cmdMajor k ≠ 0x31 then s else
      let promise := max s.now q.prev + ((ctxOf s k.ctx).map (·.slack)).getD 0 + (copyLen k + 127) / 128
      let s := setUnit s c u { q with running := some { k with step := 1 }, prev := promise }
      setHandle s c k.handle ⟨promise, if copyDir k = 1 then 3 else 1, false, false, k.tid, u - 6, copyLen k, none⟩
    | none => s)

/-- Whether the copy engines of a cluster stand stopped under a halt that freezes copies (R346, R439). -/
def copiesFrozen (s : State) (cl : Nat) : Bool :=
  (clusterAt s cl).bound.any (fun x => (List.range 16).any (fun k =>
    (tblGet (x * 16 + k) s.halts).any (fun h => decide (h.target = 2 ∧ h.opts % 2 = 1)))) ||
  s.threads.any (fun p => p.1 / 16 == cl && p.2.halts.any (fun k =>
    decide (k < 16) && (tblGet (p.2.ctx * 16 + k) s.halts).any (fun h => decide (h.opts % 2 = 1))))


/-- Where element `e` of a decoding access of a command lies (R222), of those that begin at a source address on a page of target `t0`:
its page, and its number or place there. -/
def decodeAt (s : State) (c : Cmd) (who : PeerWho) (src e : Nat) (t0 : Target) : State × (Target × Nat ⊕ Part1) :=
  if t0.fmt ≤ 8 then
    let size := plainSize t0.fmt
    let va := src + e * size
    if va % size ≠ 0 then (s, .inr (.ends 1 va 0)) else
    if 2 ^ 57 ≤ va then (s, .inr (.stop 1 va 0 false)) else
    match cmdXlat s c who va needRead with
    | (s, .fault r) => (s, .inr (.stop r va 0 false))
    | (s, .absent p) => (startFill s c.ctx p va, .inr (.stop (absentReason s c.ctx p) va p false))
    | (s, .ok t) => if t.fmt ≠ t0.fmt then (s, .inr (.ends 5 va e)) else (s, .inl (t, t.pa % 2 ^ t.bits))
  else
    let first := t0.pa % 2 ^ t0.bits
    let n := first + e
    let raw := rawPart (2 ^ t0.bits) t0.fmt t0.geom
    if pastElems (2 ^ t0.bits) t0.fmt t0.geom n || (raw n && !raw first) then (s, .inr (.ends 5 src n)) else (s, .inl (t0, n))
/-- The places of elements `e` to `e + n - 1`, or the first failure; nothing is read until each has its place (R212). -/
def decodePlaces (s : State) (c : Cmd) (who : PeerWho) (src : Nat) (t0 : Target) (e : Nat) : Nat → State × (List (Target × Nat) ⊕ Part1)
  | 0 => (s, .inl [])
  | n + 1 =>
    match decodeAt s c who src e t0 with
    | (s, .inr p) => (s, .inr p)
    | (s, .inl t) =>
      match decodePlaces s c who src t0 (e + 1) n with
      | (s, .inl l) => (s, .inl (t :: l))
      | (s, .inr p) => (s, .inr p)

/-- Whether a unit has asked a peer device for a line, for any of its parts. -/
def lineAsked (s : State) (who : PeerWho) (dev pa : Nat) : Bool :=
  match who with
  | .unit cl u _ => s.requests.any (fun r => ofUnit cl u r.2.who && decide (r.2.type = 1 ∧ r.2.dev = dev ∧ r.2.pa = pa ∧ r.2.len = 64))
  | _ => false
/-- A line of a peer's page; where the parts of a command have it in common (`shared`), it is asked for once (R139). -/
def peerLine (shared : Bool) (s : State) (c : Cmd) (who : PeerWho) (dev pa addr : Nat) : State × List Byte × List Bool :=
  if shared && lineAsked s who dev pa then (s, List.replicate 64 0, List.replicate 64 false) else peerMap s c.got who c.ctx dev pa 64 addr
/-- Bytes on a peer's page that lie within two lines, from the whole lines that hold them (R139). -/
def peerLines (shared : Bool) (s : State) (c : Cmd) (who : PeerWho) (dev pa n addr : Nat) : State × ReadOut :=
  let base := pa / 64 * 64
  let a := peerLine shared s c who dev base addr
  let b := if base + 64 < pa + n then peerLine shared a.1 c who dev (base + 64) addr else (a.1, [], [])
  let cut {α : Type} (x y : List α) : List α := ((x ++ y).drop (pa - base)).take n
  (b.1, ⟨cut a.2.1 b.2.1, if anyPoison (cut a.2.2 b.2.2) then 2 else 0⟩)

/-- Elements at their places, converted to format `f` (R85, R222): their bytes and the poison of each byte. -/
def decodeRun (shared : Bool) (s : State) (c : Cmd) (who : PeerWho) (src : Nat) (f : Fmt) : List (Target × Nat) → State × List Byte × List Bool
  | [] => (s, [], [])
  | (t, x) :: rest =>
    let rd : PageRead := fun s off n => if t.peer then peerLines shared s c who t.dev (pageBase t + off) n src else pageBytes s c.masks t off n
    let r : State × Option Dec :=
      if t.fmt ≤ 8 then ((decPlain rd s t.fmt x).1, some (decPlain rd s t.fmt x).2) else decElem rd s (2 ^ t.bits) t.fmt t.geom x
    let d := r.2.getD ⟨f, 0, true⟩
    let q := decodeRun shared r.1 c who src f rest
    let w := fmtWidth f / 8
    (q.1, leBytes (convert d.fmt f .rne false d.bits) w ++ q.2.1, List.replicate w d.poison ++ q.2.2)

/-- Decoded bytes for `n` elements from element `e` on (R222). -/
def decodeFrom (s : State) (c : Cmd) (who : PeerWho) (src : Nat) (f : Fmt) (e n : Nat) : State × ((List Byte × List Bool) ⊕ Part1) :=
  if 2 ^ 57 ≤ src then (s, .inr (.stop 1 src 0 false)) else
  match cmdXlat s c who src needRead with
  | (s, .fault r) => (s, .inr (.stop r src 0 false))
  | (s, .absent p) => (startFill s c.ctx p src, .inr (.stop (absentReason s c.ctx p) src p false))
  | (s, .ok t0) =>
    match decodePlaces s c who src t0 e n with
    | (s, .inr p) => (s, .inr p)
    | (s, .inl l) =>
      let r := decodeRun false s c who src f l
      if pendingFor r.1 who then (r.1, .inr .pending) else (r.1, .inl r.2)

/-! The parts of a copy (R139, R212, R222, R223). -/

/-- Where a copy's source and destination begin. -/
def copySrc (c : Cmd) : Nat := if copyDir c = 0 then c.ga.toNat else if copyDir c = 1 then copyOff c else gaBits c 0 21
def copyDest (c : Cmd) : Nat := if copyDir c = 1 then c.ga.toNat else copyOff c
/-- Whether a copy's parts are the lines of its source: those of a raw `copy.in` or `copy.bb` are, and others are those of its destination. -/
def bySource (c : Cmd) : Bool := decide (copyDec c = 0 ∧ copyDir c ≠ 1)
def copyParts (c : Cmd) : Nat := lineCount (if bySource c then copySrc c else copyDest c) (copyLen c)
/-- Bytes moved are counted at 0x70 (R345). -/
def countMoved (s : State) (c : Cmd) (n : Nat) : State := addCounter s c.ctx 0x70 n

/-- Line `i` of a destination in a buffer, with its bytes, is written whole. -/
def putDest (cl : Nat) (s : State) (c : Cmd) (i : Nat) (bs : List Byte) (pm : List Bool) : State :=
  let l := lineAt (copyDest c) (copyLen c) i
  putBytesMap (countMoved s c l.2) (bufCell cl (copyBuf c) l.1) bs pm
/-- A line of the source of a `copy.in` or `copy.bb` is read whole. -/
def readSource (s : State) (c : Cmd) (cl : Nat) (who : PeerWho) (a n : Nat) : State × ((List Byte × List Bool) ⊕ Part1) :=
  if copyDir c = 0 then
    match vGet s c who a n with
    | (s, .fail r a p) => (s, .inr (.stop r a p false))
    | (s, .ok bs pm) => if pendingFor s who then (s, .inr .pending) else (s, .inl (bs, pm))
  else
    let r := memReadMap s (bufCell cl (copySrcBuf c) a) n
    (r.1, .inl r.2)

/-- The bytes of the source lines from `j` to `j + n - 1`, where every one has been read. -/
def sourceLines (c : Cmd) (j : Nat) : Nat → Option (List Byte × List Bool)
  | 0 => some ([], [])
  | n + 1 =>
    match tblGet j c.memo, sourceLines c (j + 1) n with
    | some v, some q =>
      let r := rowOf (lineAt (copySrc c) (copyLen c) j).2 v
      some (r.1 ++ q.1, r.2 ++ q.2)
    | _, _ => none
/-- Destination line `i`, once every source line with bytes of it has been read: they are two at most. -/
def destLine (c : Cmd) (i : Nat) : Option (List Byte × List Bool) :=
  let l := lineAt (copyDest c) (copyLen c) i
  let a := copySrc c + (l.1 - copyDest c)
  let j := a / 64 - copySrc c / 64
  let lo := (lineAt (copySrc c) (copyLen c) j).1
  (sourceLines c j ((a + l.2 - 1) / 64 - a / 64 + 1)).map (fun r => ((r.1.drop (a - lo)).take l.2, (r.2.drop (a - lo)).take l.2))
/-- Destination lines `i` to `i + n - 1` are written, each that can be. -/
def putReady (cl : Nat) (s : State) (c : Cmd) (i : Nat) : Nat → State
  | 0 => s
  | n + 1 =>
    putReady cl (match destLine c i with
      | some r => putDest cl s c i r.1 r.2
      | none => s) c (i + 1) n
/-- Source line `j` of a raw `copy.in` or `copy.bb` is read whole; each line of the destination is written whole, once the last source line with
bytes of it has been read (R139). -/
def inPart (cl u : Nat) (s : State) (c : Cmd) (j : Nat) : State × Cmd × Part1 :=
  let l := lineAt (copySrc c) (copyLen c) j
  match readSource s c cl (.unit cl u j) l.1 l.2 with
  | (s, .inr p) => (s, c, p)
  | (s, .inl (bs, pm)) =>
    let k := { c with memo := tblSet j (rowCode bs pm) c.memo }
    let d := copyDest c + (l.1 - copySrc c)
    (putReady cl s k (d / 64 - copyDest c / 64) ((d + l.2 - 1) / 64 - d / 64 + 1), if copySrc c % 64 = copyDest c % 64 then c else k,
      .done (anyPoison pm))

/-- Where the memo says that a line has gone to a peer device, and is counted. -/
def sentLine (i : Nat) : Nat := 2 ^ 32 + i
/-- Line `i` of the destination of a `copy.out` is written whole; the source is read as the copy begins, at one moment for all of its lines, and
what has been read for a line that could not be written is kept (R212). -/
def outPart (cl u : Nat) (s : State) (c : Cmd) (i : Nat) : State × Cmd × Part1 :=
  let who : PeerWho := .unit cl u i
  let l := lineAt (copyDest c) (copyLen c) i
  let r : State × List Byte × List Bool :=
    match tblGet i c.memo with
    | some v => (s, rowOf l.2 v)
    | none => memReadMap s (bufCell cl (copyBuf c) (copySrc c + (l.1 - copyDest c))) l.2
  let s := r.1
  let bs := r.2.1
  let pm := r.2.2
  let keep (c : Cmd) : Cmd := { c with memo := tblSet i (rowCode bs pm) c.memo }
  match vPut s c who l.1 bs pm with
  | (s, some (r, a, p)) => (s, keep c, .stop r a p true)
  | (s, none) =>
    (if (tblGet (sentLine i) c.memo).isSome then s else countMoved s c l.2,
      if pendingFor s who then keep { c with memo := tblSet (sentLine i) 1 c.memo } else { c with memo := tblDel i c.memo }, .done (anyPoison pm))

/-- Where the memo of a decoding copy keeps element `e`, which has been read for a line that still waits (R139, R212). -/
def elemKey (e : Nat) : Nat := 2 ^ 33 + e
/-- An element of a decoding copy: read before, or at its place. -/
inductive ElemAt where
  | read (v : Nat)
  | place (t : Target) (x : Nat)
  deriving DecidableEq, Repr
/-- Elements `e` to `e + n - 1` of a decoding copy as far as they have a place, and what stops at the first that has none. -/
def elemPlaces (s : State) (c : Cmd) (who : PeerWho) (t0 : Target) (e : Nat) : Nat → State × List (Nat × ElemAt) × Option Part1
  | 0 => (s, [], none)
  | n + 1 =>
    let go (s : State) (x : ElemAt) : State × List (Nat × ElemAt) × Option Part1 :=
      let q := elemPlaces s c who t0 (e + 1) n
      (q.1, (e, x) :: q.2.1, q.2.2)
    match tblGet (elemKey e) c.memo with
    | some v => go s (.read v)
    | none =>
      match decodeAt s c who c.ga.toNat e t0 with
      | (s, .inr p) => (s, [], some p)
      | (s, .inl t) => go s (.place t.1 t.2)
/-- Those elements, converted to format `f`; those read here, and not from a peer device, whose lines the command keeps, enter the memo. -/
def elemRun (s : State) (c : Cmd) (who : PeerWho) (f : Fmt) : List (Nat × ElemAt) → State × Cmd × List Byte × List Bool
  | [] => (s, c, [], [])
  | (e, x) :: rest =>
    let w := fmtWidth f / 8
    let r : State × Cmd × List Byte × List Bool :=
      match x with
      | .read v => (s, c, rowOf w v)
      | .place t k =>
        let q := decodeRun true s c who c.ga.toNat f [(t, k)]
        (q.1, if t.peer then c else { c with memo := tblSet (elemKey e) (rowCode q.2.1 q.2.2) c.memo }, q.2)
    let q := elemRun r.1 r.2.1 who f rest
    (q.1, q.2.1, r.2.2.1 ++ q.2.2.1, r.2.2.2 ++ q.2.2.2)
/-- Whether one of some elements waits for lines that a peer device has been asked for. -/
def elemsWait (s : State) (cl u : Nat) (l : List (Nat × ElemAt)) : Bool :=
  l.any (fun e => match e.2 with
    | .place t _ => t.peer
    | .read _ => false) && s.requests.any (fun r => decide (r.2.type = 1) && ofUnit cl u r.2.who)
/-- Line `i` of the destination of a decoding copy: the elements that lie in it, decoded (R222). What has been read for it while it waits is not
read again. -/
def decodePart (cl u : Nat) (s : State) (c : Cmd) (i : Nat) : State × Cmd × Part1 :=
  let who : PeerWho := .unit cl u i
  let l := lineAt (copyDest c) (copyLen c) i
  let off := l.1 - copyDest c
  let f := (fmtOfCode (copyDec c - 1)).getD .i8
  let w := fmtWidth f / 8
  let e := off / w
  if 2 ^ 57 ≤ c.ga.toNat then (s, c, .stop 1 c.ga.toNat 0 false) else
  match cmdXlat s c who c.ga.toNat needRead with
  | (s, .fault r) => (s, c, .stop r c.ga.toNat 0 false)
  | (s, .absent p) => (startFill s c.ctx p c.ga.toNat, c, .stop (absentReason s c.ctx p) c.ga.toNat p false)
  | (s, .ok t0) =>
    let p := elemPlaces s c who t0 e ((off + l.2 - 1) / w + 1 - e)
    let r := elemRun p.1 c who f p.2.1
    match p.2.2 with
    | some (.ends x y z) => (p.1, c, .ends x y z)
    | some q => (r.1, r.2.1, q)
    | none =>
      if elemsWait r.1 cl u p.2.1 then (r.1, r.2.1, .pending)
      else
        let bs := (r.2.2.1.drop (off - e * w)).take l.2
        let pm := (r.2.2.2.drop (off - e * w)).take l.2
        (putDest cl r.1 c i bs pm, c, .done (anyPoison pm))

/-- A part of a copy is moved. -/
def copyPart (cl u : Nat) (s : State) (c : Cmd) (i : Nat) : State × Cmd × Part1 :=
  if copyDir c = 1 then outPart cl u s c i else if copyDec c = 0 then inPart cl u s c i else decodePart cl u s c i

/-- The handle `h` of a copy whose promise has passed becomes late, and its owner gets LATE_COPY once (R128, R436). -/
def checkPromise (s : State) (c h : Nat) : State :=
  let v := handleAt s c h
  if (v.state = 1 ∨ v.state = 3) ∧ !v.late ∧ v.promise < s.now then raiseAsync (setHandle s c h (markLate v)) v.owner 0x10 h else s

/-- A copy has ended: its handle becomes full or free, and takes `err` (R127, R408); late is what ends after its promise (R436). -/
def landCopy (s : State) (cl u : Nat) (c : Cmd) : State :=
  let s := checkPromise s cl c.handle
  let h := handleAt s cl c.handle
  let s := setHandle s cl c.handle { h with state := if copyDir c = 1 then 0 else 2, err := h.err || c.bad || c.failed }
  completeCmd (modRunning s cl u (fun k => { k with failed := false })) cl u

/-- R127, R222, R223, R408: the lines of the copy of engine `u` of cluster `c` that can be moved are moved; with the last, the copy
lands. -/
def execCopyLand (c u : Nat) (s : State) : Out :=
  .next (
    match (unitAt s c u).running with
    | some k =>
      if k.step = 0 ∨ cmdMajor k ≠ 0x31 ∨ copiesFrozen s c then s else
      let r := runParts (copyPart c u) s k (partsToTry k (copyParts k) (decide (k.step = 2)))
      let s := modRunning r.1 c u (fun _ => { r.2 with step := 2 })
      if cmdEnds s c u r.2 then landCopy s c u r.2 else s
    | none => s)

/-- R128, R436: the counter has passed the promise of handle `h`. -/
def execCopyPromiseExpire (c h : Nat) (s : State) : Out :=
  .next (checkPromise s c h)

/-- The 16 bytes of a handle (R126), as a number. -/
def handleBits (v : Handle) : Nat :=
  v.promise % 2 ^ 64 * 2 ^ 64 + v.state * 2 ^ 62 + v.late.toNat * 2 ^ 61 + v.err.toNat * 2 ^ 60 + v.owner * 2 ^ 50 +
  v.engine * 2 ^ 49 + v.bytes * 2 ^ 24

/-- R224: `hwait`. -/
def execHwait (h : BitVec 6) (s : State) : Out :=
  onThread s (fun t _ =>
    let v := handleAt s (clusterOf t) h.toNat
    if v.state = 1 ∨ v.state = 3 then waitAt s t (.handle h.toNat) else retire s t)
/-- R224: `hrel`. -/
def execHrel (h : BitVec 6) (s : State) : Out :=
  onThread s (fun t _ =>
    let v := handleAt s (clusterOf t) h.toNat
    if v.state = 2 ∧ v.claimed.isNone then retire (setHandle s (clusterOf t) h.toNat { v with state := 0 }) t
    else raiseTrap s t (issueTrap 6))
/-- R224: `hstat`. -/
def execHstat (h : BitVec 6) (a b : BitVec 5) (s : State) : Out :=
  checked s (hstatOk a b) (fun t _ =>
    let v := handleBits (handleAt s (clusterOf t) h.toNat)
    retire (modThread s t (fun th => regSet (regSet th a (BitVec.ofNat 64 v)) b (BitVec.ofNat 64 (v / 2 ^ 64)))) t)

end Sys2Proof.Machine
end

