-- ==== Sys2Proof/Machine/Trace.lean ====
section
/-! DEFINITION. Trace rings and their records (R338 to R343, R351). -/

namespace Sys2Proof.Machine

/-- A trace record (R341). -/
structure TraceRec where
  kind : Nat
  cause : Nat
  form : Nat
  node : Nat
  wher : Nat
  idx : List Nat
  excess : Nat
  ii : Nat
  count : Nat
  value : Nat
  deriving DecidableEq, Repr

/-- The disclosure class of a record's kind (R351). -/
def traceClass (k : Nat) : Nat := if k = 1 then 1 else if k = 2 ∨ k = 3 then 2 else 3

def noIdx : List Nat := [0xFFFFFFFF, 0xFFFFFFFF, 0xFFFFFFFF, 0xFFFFFFFF]

/-- A record under the context's policy (R351), with its flags; `none` where it is not formed. -/
def traceDisclose (level : Nat) (r : TraceRec) : Option (TraceRec × Nat) :=
  if r.kind = 6 ∨ level = 2 then some (r, 0)
  else if r.kind = 1 ∨ r.kind = 2 then
    if level = 0 then none else some ({ r with node := 0xFFFFFFFF, wher := 0, idx := noIdx }, 3)
  else if r.kind = 3 then if level = 0 then none else some ({ r with node := 0, wher := 0, count := 0 }, 3)
  else if level = 0 then none else some ({ r with value := if r.kind = 4 then 0 else r.value }, 1)

/-- The 64 bytes of a record (R341); an index that no loop has is all ones. -/
def traceBytes (time flags : Nat) (r : TraceRec) : List Byte :=
  leBytes time 8 ++ leBytes r.kind 1 ++ leBytes r.cause 1 ++ leBytes flags 2 ++ leBytes r.form 4 ++ leBytes r.node 4 ++
  leBytes r.wher 4 ++ ((r.idx ++ noIdx).take 4).flatMap (fun i => leBytes i 4) ++ leBytes (min r.excess 0xFFFFFFFF) 4 ++ leBytes r.ii 4 ++
  leBytes r.count 8 ++ leBytes r.value 8

/-- A record is written to the context's ring, or dropped and counted where the ring is full (R339, R340). -/
def writeTrace (s : State) (x : Nat) (r : TraceRec) : State :=
  match ctxOf s x with
  | none => s
  | some c =>
    match c.ring, traceDisclose (classLevel s x (traceClass r.kind)) r with
    | some g, some (r, flags) =>
      let tail := leNat (hbmRead s c.masks (c.trace + 32) 8).2.bytes
      if 2 ^ g.lgsize ≤ (g.head + 2 ^ 64 - tail) % 2 ^ 64 then
        let s := modCtx s x (fun c => { c with ring := some { g with lost := g.lost + 1 } })
        hbmWrite s c.masks (c.trace + 40) (leBytes (g.lost + 1) 8) false
      else
        let time := coarsen (policyGran s x).1 s.now
        let flags := flags + (if time ≠ s.now then 4 else 0)
        let s := hbmWrite s c.masks (g.base + 64 * (g.head % 2 ^ g.lgsize)) (traceBytes time flags r) false
        let s := modCtx s x (fun c => { c with ring := some { g with head := g.head + 1 } })
        hbmWrite s c.masks (c.trace + 24) (leBytes (g.head + 1) 8) false
    | _, _ => s

/-! How records name a formation and its nodes (R73, R341, R382). -/

/-- The `form` of a record. -/
def formId (fm : Form) : Nat := (if fm.arm.isSome then fm.num else fm.task) % 2 ^ 32
/-- The launch and task of a record. -/
def formLaunch (fm : Form) : Nat × Nat := if fm.arm.isSome then (0xFFFFFFFF, 0xFFFFFFFF) else (fm.launch, fm.task)

/-- The entry by which a node is named: its shadow's while the shadow word is active. -/
def namedNode (fm : Form) (nd : Node) : Node :=
  if nd.sel then (nd.shadowIdx.bind (fun k => fm.nodes[k]?)).getD nd else nd

/-- The current index of each loop of a node, innermost first (R341). -/
def loopIdx (fm : Form) (nd : Node) : List Nat :=
  (namedNode fm nd).loops.map (fun k =>
    match fm.nodes[k]? with
    | some l => match (match l.overlay with
        | some o => (fm.nodes[o]?).bind (·.cur)
        | none => l.cur) with
      | some d => d.toNat
      | none => 0xFFFFFFFF
    | none => 0xFFFFFFFF)

/-- A fault record with the origin of a node (R382). -/
def nodeRecord (fm : Form) (nd : Node) (code reason : Nat) : Record :=
  { plainRecord code reason 2 with
    launch := (formLaunch fm).1, task := (formLaunch fm).2, form := formId fm
    node := (namedNode fm nd).num, wher := (namedNode fm nd).wher, pc := nd.fires }

end Sys2Proof.Machine
end

