-- ==== Sys2Proof/Machine/Matrix.lean ====
section
/-! DEFINITION. Matrix macro-operations (R96 to R101, R140, R141, R225 to R232, R415). -/

namespace Sys2Proof.Machine

/-! Operand words (R226, R227). -/

def mmaZero (c : Cmd) : Bool := decide (matOp c = 1)
def mmaAoff (c : Cmd) : Nat := gaBits c 0 21
def mmaFromC (c : Cmd) : Bool := decide (gaBits c 21 1 = 1)
def mmaDrnd (c : Cmd) : Nat := gaBits c 22 2
def mmaDsat (c : Cmd) : Bool := decide (gaBits c 24 1 = 1)
def mmaCtype (c : Cmd) : Nat := gaBits c 25 2
def mmaBoff (c : Cmd) : Nat := gbBits c 0 21
def mmaCoff (c : Cmd) : Nat := gbBits c 32 20
def mmaCrnd (c : Cmd) : Nat := gbBits c 52 2
def mmaCsat (c : Cmd) : Bool := decide (gbBits c 54 1 = 1)

/-- Formats of the operands of a pair, and products of a k-step (R226). -/
def pairA (p : Nat) : Fmt :=
  match p with
  | 0 | 2 => .bf16
  | 1 | 3 => .f16
  | 4 | 5 | 8 | 9 | 14 => .e4m3
  | 6 | 7 | 10 | 11 => .e5m2
  | _ => .i8
def pairB (p : Nat) : Fmt :=
  match p with
  | 0 | 2 => .bf16
  | 1 | 3 => .f16
  | 4 | 6 | 8 | 10 | 14 => .e4m3
  | 5 | 7 | 9 | 11 => .e5m2
  | 13 => .t2
  | _ => .i8
def pairK (p : Nat) : Nat := if p ≤ 3 then 32 else if p = 13 then 128 else 64
def pairScaled (p : Nat) : Bool := decide (p = 14 ∨ p = 15)
/-- Entry types of C, by the codes of R225: 0 `.f32`, 1 LA320, 2 `.i32`; the type of a pair, and an entry's bytes (R119). -/
def pairEntry (p : Nat) : Nat := if p ≤ 1 ∨ (4 ≤ p ∧ p ≤ 7) ∨ 14 ≤ p then 1 else if p = 12 ∨ p = 13 then 2 else 0
def entryBytes (ty : Nat) : Nat := if ty = 1 then 64 else 4
/-- Blocks of a k-step (R226). -/
def blockA (p : Nat) : Nat := if p = 13 then 4096 else if pairScaled p then 2304 else 2048
def blockB (p : Nat) : Nat := if p = 13 then 1024 else if pairScaled p then 2304 else 2048

/-- Whether the ranges of an operation, for all its k-steps, lie within their buffers (R227). -/
def mmaInRange (c : Cmd) : Bool :=
  let p := mmaPair c
  let n := mmaSteps c
  (if mmaFromC c then decide (mmaAoff c + n * (pairK p / 32) * (1024 * entryBytes (mmaCtype c)) ≤ bufSize 2)
   else decide (mmaAoff c + n * blockA p ≤ bufSize 1)) &&
  decide (mmaBoff c + n * blockB p ≤ bufSize 0) &&
  (decide (n = 0 ∧ !mmaZero c) || decide (mmaCoff c + 1024 * entryBytes (pairEntry p) ≤ bufSize 2))

/-- The reason of R389 for which `mma` or `mmaz` is refused. -/
def mmaReason (c : Cmd) : Nat :=
  let p := mmaPair c
  issueReason [
    (1, outside c.ga (fieldMask 0 27 + fieldMask 32 10) || outside c.gb (fieldMask 0 21 + fieldMask 32 23)),
    (3, !mmaInRange c),
    (4, decide (mmaAoff c % 64 ≠ 0 ∨ mmaBoff c % 64 ≠ 0 ∨ mmaCoff c % 64 ≠ 0)),
    (7, mmaFromC c && decide (mmaCtype c = 1) && decide (p = 12 ∨ p = 13)),
    (8, (!mmaFromC c && decide (mmaDrnd c ≠ 0 ∨ mmaDsat c ∨ mmaCtype c ≠ 0)) || (mmaFromC c && pairScaled p) ||
        decide (mmaCtype c = 3))]

/-- A matrix command is checked and queued on the engine of its stream (R209, R225). -/
def issueMatrix (s : State) (ok : Bool) (t : BitVec 6) (a b : BitVec 5) (minor : Nat) (reason : Cmd → Nat) : Out :=
  checked s ok (fun tid th =>
    let c := newCmd tid th (formE 0x32 t.toNat a.toNat b.toNat minor) (regGet th a) (regGet th b) []
    issueCmd s tid (t.toNat % 4) (reason c) c (fun s => s))

/-- R225, R227: `mma`. -/
def execMma (t : BitVec 6) (a b : BitVec 5) (p : BitVec 6) (s : State) : Out := issueMatrix s (mmaOk t p) t a b p.toNat mmaReason
/-- R225, R227: `mmaz`. -/
def execMmaz (t : BitVec 6) (a b : BitVec 5) (p : BitVec 6) (s : State) : Out :=
  issueMatrix s (mmaOk t p) t a b (64 + p.toNat) mmaReason

/-! Drains (R231). -/

def drainSrc (c : Cmd) : Nat := bitsOf (cmdMinor c) 4 2
def drainFmt (c : Cmd) : Fmt := (fmtOfCode (bitsOf (cmdMinor c) 0 4)).getD .f32
def drainWidth (c : Cmd) : Nat := fmtWidth (drainFmt c) / 8
def drainReason (c : Cmd) : Nat :=
  issueReason [
    (1, outside c.ga (fieldMask 0 20 + fieldMask 21 3) || outside c.gb (fieldMask 0 20)),
    (3, decide (bufSize 2 < gaBits c 0 20 + 1024 * entryBytes (drainSrc c)) || decide (bufSize 2 < gbBits c 0 20 + 1024 * drainWidth c)),
    (4, decide (gaBits c 0 20 % 64 ≠ 0 ∨ gbBits c 0 20 % drainWidth c ≠ 0))]
/-- R225, R231: `mdrain`. -/
def execMdrain (t : BitVec 6) (a b : BitVec 5) (src : BitVec 2) (f : BitVec 4) (s : State) : Out :=
  issueMatrix s (mdrainOk t src f) t a b (128 + 16 * src.toNat + f.toNat) drainReason

/-! Operands of a k-step (R228, R230). -/

/-- The 64 bytes of an entry (R97). -/
def laBytes (acc : La) : List Byte := leBytes acc.toNat 64

/-- An operand element as the engine sees it: its exact value, and its poison. -/
structure Elem where
  val : XVal
  poison : Bool
  deriving DecidableEq, Repr

/-- A list cut into pieces of `n`, `k` of them. -/
def chunks {α : Type} (n : Nat) : Nat → List α → List (List α)
  | 0, _ => []
  | k + 1, l => l.take n :: chunks n k (l.drop n)

/-- The elements of a run of bytes with poison by byte. -/
def elemsOf (f : Fmt) (bs : List Byte) (pm : List Bool) : List Elem :=
  if f = .t2 then
    (bs.zip pm).flatMap (fun p => [0, 1, 2, 3].map (fun i =>
      let v := bitsOf p.1.toNat (2 * i) 2
      ⟨fmtVal .t2 v, p.2 || fmtPoison .t2 v⟩))
  else
    let w := fmtWidth f / 8
    ((chunks w (bs.length / w) bs).zip (chunks w (bs.length / w) pm)).map (fun p => ⟨fmtVal f (leNat p.1), p.2.any (fun b => b)⟩)

/-- Elements times the scales of their groups of 32 (R89, R96). -/
def scaleElems (es sc : List Elem) : List Elem :=
  ((chunks 32 sc.length es).zip sc).flatMap (fun p => p.1.map (fun e => ⟨xMul e.val p.2.val, e.poison || p.2.poison⟩))

/-- The 32 rows (or columns) of an operand block at a cell (R228). -/
def blockRows (s : State) (cell : Nat) (f : Fmt) (k bytes : Nat) (scaledBlock : Bool) : State × List (List Elem) :=
  let r := memReadMap s cell bytes
  let row := k * fmtWidth f / 8
  let rows := ((chunks row 32 r.2.1).zip (chunks row 32 r.2.2)).map (fun p => elemsOf f p.1 p.2)
  if scaledBlock then
    let sc := elemsOf .f32 (r.2.1.drop 2048) (r.2.2.drop 2048)
    (r.1, (rows.zip (chunks 2 32 sc)).map (fun p => scaleElems p.1 p.2))
  else (r.1, rows)

/-- A C entry read: its bits, and whether it is poisoned (R229, R231, R415). -/
structure Entry where
  bits : Nat
  poison : Bool
  deriving DecidableEq, Repr
/-- The 1,024 entries of a tile, row by row. -/
def readTile (s : State) (cl ty off : Nat) : State × List Entry :=
  let e := entryBytes ty
  let r := memReadMap s (cCell cl off) (1024 * e)
  (r.1, ((chunks e 1024 r.2.1).zip (chunks e 1024 r.2.2)).map (fun p =>
    let v := leNat (p.1.take 40)
    ⟨v, (p.2.take 40).any (fun b => b) || (decide (ty = 1) && laPoison (BitVec.ofNat 320 v))⟩))

/-- The pattern of an entry in a format (R230, R231). -/
def convertEntry (ty : Nat) (f : Fmt) (mode : Rnd) (sat : Bool) (v : Nat) : Nat :=
  if ty = 1 then laDrain (BitVec.ofNat 320 v) f mode sat
  else convert (if ty = 0 then .f32 else .i32) f mode sat v

/-- The A rows of k-step `n` taken from C through the down-converter (R228, R230): tile after tile, 32 columns each. -/
def rowsFromC (s : State) (c : Cmd) (cl n : Nat) : Nat → State × List (List Elem)
  | 0 => (s, List.replicate 32 [])
  | m + 1 =>
    let prev := rowsFromC s c cl n m
    let ty := mmaCtype c
    let f := pairA (mmaPair c)
    let t := readTile prev.1 cl ty (mmaAoff c + (n * (pairK (mmaPair c) / 32) + m) * (1024 * entryBytes ty))
    let conv (e : Entry) : Elem := ⟨fmtVal f (convertEntry ty f (rndOfCode (mmaDrnd c)) (mmaDsat c) e.bits), e.poison⟩
    (t.1, (prev.2.zip (chunks 32 32 t.2)).map (fun p => p.1 ++ p.2.map conv))

/-! The products of a k-step (R96, R229). -/

/-- An operand as it enters its products: a poisoned one, or a `.t2` code 0b10, as 0 with poison (R415). -/
def enters (e : Elem) : Elem := if e.poison then ⟨.fin false 0 1, true⟩ else e
/-- Products of a row and a column (R96). -/
def products (a b : List Elem) : List Product :=
  (a.zip b).map (fun p => ⟨xMul (enters p.1).val (enters p.2).val, p.1.poison || p.2.poison⟩)

/-- An exact finite number in units of 2^-300, which every product and entry of `.f32` accumulation fills wholly. -/
def inUnits (x : XVal) : Int :=
  match x with
  | .fin neg n d => if neg then -(((n * 2 ^ 300 / d : Nat)) : Int) else ((n * 2 ^ 300 / d : Nat) : Int)
  | _ => 0
/-- The exact sum of terms, NaN where one is NaN or both infinities occur (R229). -/
def exactSum (ts : List XVal) : XVal :=
  if ts.any xIsNan then .nan else
  let p := ts.any (fun t => decide (t = .inf false))
  let n := ts.any (fun t => decide (t = .inf true))
  if p && n then .nan else if p then .inf false else if n then .inf true else
  let v := (ts.map inUnits).foldl (fun a b => a + b) 0
  .fin (decide (v < 0)) v.natAbs (2 ^ 300)

/-- An entry after a k-step, and whether the step saturated (R97, R100, R229). -/
def stepEntry (c : Cmd) (e : Entry) (ps : List Product) : Entry × Bool :=
  let bad := e.poison || ps.any (·.poison)
  match pairEntry (mmaPair c) with
  | 1 =>
    let acc := ps.foldl laAdd (if e.poison then laFlag (BitVec.ofNat 320 e.bits) 310 else BitVec.ofNat 320 e.bits)
    (⟨acc.toNat, false⟩, false)
  | 2 =>
    let sum := (ps.map (fun p => match p.val with
      | .fin neg n d => if neg then -((n / d : Nat) : Int) else ((n / d : Nat) : Int)
      | _ => 0)).foldl (fun a b => a + b) 0
    let r := intStep (BitVec.ofNat 32 e.bits) sum
    (⟨r.1.toNat, bad⟩, r.2)
  | _ =>
    let x := exactSum (floatVal .f32 e.bits :: ps.map (·.val))
    (⟨if xIsZero x then 0 else rnd .f32 (rndOfCode (mmaCrnd c)) (mmaCsat c) x, bad⟩, false)

/-- A tile written: the bytes and poison of its entries. -/
def writeTile (s : State) (cl ty off : Nat) (es : List Entry) : State :=
  putBytesMap s (cCell cl off) (es.flatMap (fun e => leBytes e.bits (entryBytes ty)))
    (es.flatMap (fun e => List.replicate (entryBytes ty) e.poison))

/-- Whether a product has a zero operand and is skipped (R101), a poisoned operand being one that enters as 0 (R415). DESIGN CHOICE (log 95):
the operand of a block-scaled pair is its element times its scale. -/
def skipsProduct (a b : Elem) : Bool := xIsZero (enters a).val || xIsZero (enters b).val
/-- The products of a k-step that are skipped. -/
def skippedIn (as bs : List (List Elem)) : Nat :=
  (as.map (fun a => (bs.map (fun b => ((a.zip b).filter (fun p => skipsProduct p.1 p.2)).length)).sum)).sum

/-- K-step `n` of an `mma` or `mmaz` (R228, R229, R141), counted at 0x50, 0x58 and 0x60 (R345). -/
def kStep (s : State) (cl : Nat) (c : Cmd) (n : Nat) : State :=
  let p := mmaPair c
  let ty := pairEntry p
  let ra := if mmaFromC c then rowsFromC s c cl n (pairK p / 32)
    else blockRows s (aCell cl (mmaAoff c + n * blockA p)) (pairA p) (pairK p) (blockA p) (pairScaled p)
  let rb := blockRows ra.1 (wCell cl (mmaBoff c + n * blockB p)) (pairB p) (pairK p) (blockB p) (pairScaled p)
  let rc := if mmaZero c && decide (n = 0) then (rb.1, List.replicate 1024 ⟨0, false⟩) else readTile rb.1 cl ty (mmaCoff c)
  let pairs := ra.2.flatMap (fun a => rb.2.map (fun b => products a b))
  let out := (rc.2.zip pairs).map (fun q => stepEntry c q.1 q.2)
  let s := writeTile rc.1 cl ty (mmaCoff c) (out.map (·.1))
  let skipped := skippedIn ra.2 rb.2
  let s := addCounter (addCounter (addCounter s c.ctx 0x50 1) c.ctx 0x58 (1024 * pairK p - skipped)) c.ctx 0x60 skipped
  if out.any (·.2) then satSet s cl (cmdTarget c % 8) true else s

/-- Wounds of threads that wait on a stream are taken at a k-step boundary of its running operation (R274). -/
def woundAtStep (s : State) (cl stream : Nat) : State :=
  (s.threads.filter (fun p => p.1 / 16 == cl && p.2.woundDue && decide (p.2.wait = .kstep stream))).foldl (fun s p =>
    if copiesPending s p.1 then s
    else raiseAsync (modThread s p.1 (fun th => { th with woundDue := false })) p.1 0x11 0) s

/-- R229: a k-step of the operation that runs on matrix engine `u` of cluster `c`; after the last, the operation completes. An
operation of no k-steps only clears its tile, or does nothing. -/
def execKStep (c u : Nat) (s : State) : Out :=
  .next (
    match (unitAt s c u).running with
    | some k =>
      if cmdMajor k ≠ 0x32 ∨ 1 < matOp k then s
      else if mmaSteps k = 0 then
        completeCmd (if mmaZero k then writeTile s c (pairEntry (mmaPair k)) (mmaCoff k) (List.replicate 1024 ⟨0, false⟩) else s) c u
      else
        let s := kStep s c k k.step
        let s := modRunning s c u (fun k => { k with step := k.step + 1 })
        if mmaSteps k ≤ k.step + 1 then completeCmd s c u
        else stepBoundary (woundAtStep s c (cmdTarget k)) c u
    | none => s)

/-- R231: the drain that runs on matrix engine `u` of cluster `c`. -/
def execMdrainExecute (c u : Nat) (s : State) : Out :=
  .next (
    match (unitAt s c u).running with
    | some k =>
      if cmdMajor k ≠ 0x32 ∨ matOp k ≠ 2 then s else
      let w := drainWidth k
      let t := readTile s c (drainSrc k) (gaBits k 0 20)
      let conv (e : Entry) : Nat := convertEntry (drainSrc k) (drainFmt k) (rndOfCode (gaBits k 21 2)) (decide (gaBits k 23 1 = 1)) e.bits
      completeCmd (putBytesMap t.1 (cCell c (gbBits k 0 20)) (t.2.flatMap (fun e => leBytes (conv e) w))
        (t.2.flatMap (fun e => List.replicate w e.poison))) c u
    | none => s)

/-! `msatr` and `mwait` (R232). -/

/-- The thread waits for its place in a stream: an entry holds it in the engine's queue, and the thread goes on once every
operation before it has completed. -/
def streamPlace (s : State) (t stream op : Nat) (go : State → State) : State :=
  let cl := clusterOf t
  let u := stream % 4
  let q := unitAt s cl u
  let mine (c : Cmd) : Bool := isMarker c && c.tid == t
  if q.running.isNone && (q.queue.isEmpty || (q.queue.head?).any mine) then go (dropMarkers s t)
  else if q.queue.any mine then waitAt s t (.kstep stream)
  else if 8 ≤ (unitCmds q).length then waitAt s t (.full (.unit u))
  else match tblGet t s.threads with
    | some th =>
      let c := newCmd t th (formE 0x32 stream 0 0 (64 * op)) 0 0 []
      waitAt (setUnit s cl u { q with queue := q.queue ++ [c] }) t (.kstep stream)
    | none => s

/-- R232: `msatr`. -/
def execMsatr (t : BitVec 6) (a : BitVec 5) (s : State) : Out :=
  checked s (streamOk t) (fun tid _ =>
    streamPlace s tid t.toNat 3 (fun s =>
      let cl := clusterOf tid
      retireWith (satSet s cl (t.toNat % 8) false) tid a (boolWord (satGet s cl (t.toNat % 8)))))
/-- R232: `mwait`. -/
def execMwait (t : BitVec 6) (s : State) : Out :=
  checked s (streamOk t) (fun tid _ => streamPlace s tid t.toNat 4 (fun s => retire s tid))

end Sys2Proof.Machine
end

