-- ==== Sys2Proof/Machine/Vector.lean ====
section
/-! DEFINITION. Vector macro-operations (R142, R215, R216, R233 to R237, R408, R415). -/

namespace Sys2Proof.Machine

/-! Fields (R233, R234). -/

def vecOp (c : Cmd) : Nat := bitsOf (cmdMinor c) 2 8
def vecSrc (c : Cmd) : Nat := bitsOf (cmdMinor c) 0 2
def vecFmtCode (c : Cmd) : Nat := gbBits c 40 4
def vecFmt (c : Cmd) : Fmt := (fmtOfCode (vecFmtCode c)).getD .i32
def vecDstFmt (c : Cmd) : Fmt := (fmtOfCode (gbBits c 48 4)).getD .i32
def vecN (c : Cmd) : Nat := gbBits c 24 16
def vecSat (c : Cmd) : Bool := decide (gbBits c 46 1 = 1)
/-- Buffers by the codes of `bufSize`: 1 A, 2 C. -/
def vecA (c : Cmd) : Nat × Nat := (1 + gaBits c 21 1, gaBits c 0 21)
def vecB (c : Cmd) : Nat × Nat := (1 + gbBits c 21 1, gbBits c 0 21)
def vecD (c : Cmd) : Nat × Nat := (1 + gaBits c 53 1, gaBits c 32 21)
def bytesOf (f : Fmt) : Nat := fmtWidth f / 8

/-- Whether a `vop` writes compares (R235), and the width of its result. -/
def isCompare (op : Nat) : Bool := decide (0x20 ≤ op ∧ op ≤ 0x26)
def resultBytes (c : Cmd) : Nat :=
  if vecOp c = 0xC0 then bytesOf (vecDstFmt c) else if isCompare (vecOp c) then 4 else bytesOf (vecFmt c)
/-- The bytes that a command writes at its destination. -/
def destBytes (c : Cmd) : Nat :=
  if vecOp c = 0xC1 then (if fmtIsFloat (vecFmt c) then 64 else 4)
  else if 0xC2 ≤ vecOp c then bytesOf (vecFmt c) else vecN c * 64 * resultBytes c

/-- The reason of R389 for which a vector command is refused (R208, R234 to R236). DESIGN CHOICE (log 109): under a `fmt` above 10, which gives no
element width, ranges and offsets are checked with a width of 0 bytes for 11 and 4 bytes above it. -/
def vecReason (c : Cmd) : Nat :=
  let op := vecOp c
  let w := bytesOf (vecFmt c)
  let usesB := decide (vecSrc c = 0 ∨ vecSrc c = 2)
  issueReason [
    (1, outside c.ga (fieldMask 0 22 + fieldMask 32 22) ||
        outside c.gb (fieldMask 24 23 + (if usesB then fieldMask 0 22 else 0) + (if op = 0xC0 then fieldMask 48 4 else 0))),
    (2, decide (op = 0xC1) && fmtIsFloat (vecFmt c) && decide ((vecD c).1 = 1)),
    (3, decide (bufSize (vecA c).1 < (vecA c).2 + vecN c * 64 * w) || decide (bufSize (vecD c).1 < (vecD c).2 + destBytes c) ||
        (decide (vecSrc c = 0) && decide (bufSize (vecB c).1 < (vecB c).2 + vecN c * 64 * w)) ||
        (decide (vecSrc c = 2) && decide (bufSize (vecB c).1 < (vecB c).2 + w))),
    (4, decide ((vecA c).2 % 64 ≠ 0 ∨ (vecD c).2 % 64 ≠ 0) || (decide (vecSrc c = 0) && decide ((vecB c).2 % 64 ≠ 0)) ||
        (decide (vecSrc c = 2) && decide ((vecB c).2 % w ≠ 0))),
    (7, decide (10 < vecFmtCode c) || (decide (op = 0xC0) && decide (10 < gbBits c 48 4)) ||
        (decide (op < 0xC0) && !fmtAllowed op (vecFmtCode c)))]

/-- A vector command is checked and queued on the pipe of its port (R209, R233). -/
def issueVec (s : State) (ok : Bool) (t : BitVec 6) (a b : BitVec 5) (op src : Nat) : Out :=
  checked s ok (fun tid th =>
    let c := newCmd tid th (formE 0x33 t.toNat a.toNat b.toNat (4 * op + src)) (regGet th a) (regGet th b) []
    issueCmd s tid (4 + t.toNat / 4) (vecReason c) c (fun s => s))
/-- A command of two inputs, with its `bsrc`, and one of one input, whose `bsrc` is 3. -/
def vec2 (s : State) (t : BitVec 6) (a b : BitVec 5) (src : BitVec 2) (op : Nat) : Out := issueVec s (vec2Ok t src) t a b op src.toNat
def vec1 (s : State) (t : BitVec 6) (a b : BitVec 5) (op : Nat) : Out := issueVec s (vec1Ok t) t a b op 3

/-- R235: `vadd`. -/
def execVadd (t : BitVec 6) (a b : BitVec 5) (src : BitVec 2) (s : State) : Out := vec2 s t a b src 0x01
/-- R235: `vsub`. -/
def execVsub (t : BitVec 6) (a b : BitVec 5) (src : BitVec 2) (s : State) : Out := vec2 s t a b src 0x02
/-- R235: `vmul`. -/
def execVmul (t : BitVec 6) (a b : BitVec 5) (src : BitVec 2) (s : State) : Out := vec2 s t a b src 0x03
/-- R235: `vmulh`. -/
def execVmulh (t : BitVec 6) (a b : BitVec 5) (src : BitVec 2) (s : State) : Out := vec2 s t a b src 0x04
/-- R235: `vmin`. -/
def execVmin (t : BitVec 6) (a b : BitVec 5) (src : BitVec 2) (s : State) : Out := vec2 s t a b src 0x05
/-- R235: `vmax`. -/
def execVmax (t : BitVec 6) (a b : BitVec 5) (src : BitVec 2) (s : State) : Out := vec2 s t a b src 0x06
/-- R235: `vabs`. -/
def execVabs (t : BitVec 6) (a b : BitVec 5) (s : State) : Out := vec1 s t a b 0x07
/-- R235: `vneg`. -/
def execVneg (t : BitVec 6) (a b : BitVec 5) (s : State) : Out := vec1 s t a b 0x08
/-- R235: `vavg`. -/
def execVavg (t : BitVec 6) (a b : BitVec 5) (src : BitVec 2) (s : State) : Out := vec2 s t a b src 0x09
/-- R235: `vabsd`. -/
def execVabsd (t : BitVec 6) (a b : BitVec 5) (src : BitVec 2) (s : State) : Out := vec2 s t a b src 0x0A
/-- R235: `vdiv`. -/
def execVdiv (t : BitVec 6) (a b : BitVec 5) (src : BitVec 2) (s : State) : Out := vec2 s t a b src 0x0B
/-- R235: `vrem`. -/
def execVrem (t : BitVec 6) (a b : BitVec 5) (src : BitVec 2) (s : State) : Out := vec2 s t a b src 0x0C
/-- R235: `vand`. -/
def execVand (t : BitVec 6) (a b : BitVec 5) (src : BitVec 2) (s : State) : Out := vec2 s t a b src 0x10
/-- R235: `vor`. -/
def execVor (t : BitVec 6) (a b : BitVec 5) (src : BitVec 2) (s : State) : Out := vec2 s t a b src 0x11
/-- R235: `vxor`. -/
def execVxor (t : BitVec 6) (a b : BitVec 5) (src : BitVec 2) (s : State) : Out := vec2 s t a b src 0x12
/-- R235: `vnot`. -/
def execVnot (t : BitVec 6) (a b : BitVec 5) (s : State) : Out := vec1 s t a b 0x13
/-- R235: `vshl`. -/
def execVshl (t : BitVec 6) (a b : BitVec 5) (src : BitVec 2) (s : State) : Out := vec2 s t a b src 0x14
/-- R235: `vshr`. -/
def execVshr (t : BitVec 6) (a b : BitVec 5) (src : BitVec 2) (s : State) : Out := vec2 s t a b src 0x15
/-- R235: `vsra`. -/
def execVsra (t : BitVec 6) (a b : BitVec 5) (src : BitVec 2) (s : State) : Out := vec2 s t a b src 0x16
/-- R235: `vrotl`. -/
def execVrotl (t : BitVec 6) (a b : BitVec 5) (src : BitVec 2) (s : State) : Out := vec2 s t a b src 0x17
/-- R235: `vclz`. -/
def execVclz (t : BitVec 6) (a b : BitVec 5) (s : State) : Out := vec1 s t a b 0x18
/-- R235: `vctz`. -/
def execVctz (t : BitVec 6) (a b : BitVec 5) (s : State) : Out := vec1 s t a b 0x19
/-- R235: `vpopc`. -/
def execVpopc (t : BitVec 6) (a b : BitVec 5) (s : State) : Out := vec1 s t a b 0x1A
/-- R235: `vbrev`. -/
def execVbrev (t : BitVec 6) (a b : BitVec 5) (s : State) : Out := vec1 s t a b 0x1B
/-- R235: `vceq`. -/
def execVceq (t : BitVec 6) (a b : BitVec 5) (src : BitVec 2) (s : State) : Out := vec2 s t a b src 0x20
/-- R235: `vcne`. -/
def execVcne (t : BitVec 6) (a b : BitVec 5) (src : BitVec 2) (s : State) : Out := vec2 s t a b src 0x21
/-- R235: `vclt`. -/
def execVclt (t : BitVec 6) (a b : BitVec 5) (src : BitVec 2) (s : State) : Out := vec2 s t a b src 0x22
/-- R235: `vcle`. -/
def execVcle (t : BitVec 6) (a b : BitVec 5) (src : BitVec 2) (s : State) : Out := vec2 s t a b src 0x23
/-- R235: `vcgt`. -/
def execVcgt (t : BitVec 6) (a b : BitVec 5) (src : BitVec 2) (s : State) : Out := vec2 s t a b src 0x24
/-- R235: `vcge`. -/
def execVcge (t : BitVec 6) (a b : BitVec 5) (src : BitVec 2) (s : State) : Out := vec2 s t a b src 0x25
/-- R235: `vcnan`. -/
def execVcnan (t : BitVec 6) (a b : BitVec 5) (s : State) : Out := vec1 s t a b 0x26
/-- R235: `vmov`. -/
def execVmov (t : BitVec 6) (a b : BitVec 5) (s : State) : Out := vec1 s t a b 0x27
/-- R235: `vfadd`. -/
def execVfadd (t : BitVec 6) (a b : BitVec 5) (src : BitVec 2) (s : State) : Out := vec2 s t a b src 0x30
/-- R235: `vfsub`. -/
def execVfsub (t : BitVec 6) (a b : BitVec 5) (src : BitVec 2) (s : State) : Out := vec2 s t a b src 0x31
/-- R235: `vfmul`. -/
def execVfmul (t : BitVec 6) (a b : BitVec 5) (src : BitVec 2) (s : State) : Out := vec2 s t a b src 0x32
/-- R235: `vfdiv`. -/
def execVfdiv (t : BitVec 6) (a b : BitVec 5) (src : BitVec 2) (s : State) : Out := vec2 s t a b src 0x33
/-- R235: `vfmin`. -/
def execVfmin (t : BitVec 6) (a b : BitVec 5) (src : BitVec 2) (s : State) : Out := vec2 s t a b src 0x34
/-- R235: `vfmax`. -/
def execVfmax (t : BitVec 6) (a b : BitVec 5) (src : BitVec 2) (s : State) : Out := vec2 s t a b src 0x35
/-- R235: `vfabs`. -/
def execVfabs (t : BitVec 6) (a b : BitVec 5) (s : State) : Out := vec1 s t a b 0x36
/-- R235: `vfneg`. -/
def execVfneg (t : BitVec 6) (a b : BitVec 5) (s : State) : Out := vec1 s t a b 0x37
/-- R235: `vfsqrt`. -/
def execVfsqrt (t : BitVec 6) (a b : BitVec 5) (s : State) : Out := vec1 s t a b 0x38
/-- R235: `vfrcp`. -/
def execVfrcp (t : BitVec 6) (a b : BitVec 5) (s : State) : Out := vec1 s t a b 0x39
/-- R235: `vfrsqrt`. -/
def execVfrsqrt (t : BitVec 6) (a b : BitVec 5) (s : State) : Out := vec1 s t a b 0x3A
/-- R235: `vfscale`. -/
def execVfscale (t : BitVec 6) (a b : BitVec 5) (src : BitVec 2) (s : State) : Out := vec2 s t a b src 0x3B
/-- R235: `vfexp2`. -/
def execVfexp2 (t : BitVec 6) (a b : BitVec 5) (s : State) : Out := vec1 s t a b 0x40
/-- R235: `vflog2`. -/
def execVflog2 (t : BitVec 6) (a b : BitVec 5) (s : State) : Out := vec1 s t a b 0x41
/-- R235: `vftanh`. -/
def execVftanh (t : BitVec 6) (a b : BitVec 5) (s : State) : Out := vec1 s t a b 0x42
/-- R235: `vfsigm`. -/
def execVfsigm (t : BitVec 6) (a b : BitVec 5) (s : State) : Out := vec1 s t a b 0x43
/-- R235: `vfgelu`. -/
def execVfgelu (t : BitVec 6) (a b : BitVec 5) (s : State) : Out := vec1 s t a b 0x44
/-- R235: `vfsilu`. -/
def execVfsilu (t : BitVec 6) (a b : BitVec 5) (s : State) : Out := vec1 s t a b 0x45
/-- R235: `vferf`. -/
def execVferf (t : BitVec 6) (a b : BitVec 5) (s : State) : Out := vec1 s t a b 0x46
/-- R235: `vfsoftp`. -/
def execVfsoftp (t : BitVec 6) (a b : BitVec 5) (s : State) : Out := vec1 s t a b 0x47
/-- R236: `vcvt`. -/
def execVcvt (t : BitVec 6) (a b : BitVec 5) (s : State) : Out := vec1 s t a b 0xC0
/-- R236: `vsum`. -/
def execVsum (t : BitVec 6) (a b : BitVec 5) (s : State) : Out := vec1 s t a b 0xC1
/-- R236: `vmaxr`. -/
def execVmaxr (t : BitVec 6) (a b : BitVec 5) (s : State) : Out := vec1 s t a b 0xC2
/-- R236: `vamaxr`. -/
def execVamaxr (t : BitVec 6) (a b : BitVec 5) (s : State) : Out := vec1 s t a b 0xC3

/-! One vector (R235, R237). -/

/-- A lane: its pattern, and its poison. -/
abbrev Lane := Nat × Bool

/-- The lanes that bytes with poison by byte hold. -/
def lanesOf (w : Nat) (bs : List Byte) (pm : List Bool) : List Lane :=
  ((chunks w (bs.length / w) bs).zip (chunks w (bs.length / w) pm)).map (fun p => (leNat p.1, p.2.any (fun b => b)))
/-- Vector `v` of a buffer operand. -/
def bufVector (s : State) (cl : Nat) (o : Nat × Nat) (w v : Nat) : State × List Lane :=
  let r := memReadMap s (bufCell cl o.1 (o.2 + 64 * w * v)) (64 * w)
  (r.1, lanesOf w r.2.1 r.2.2)

/-- The port that a command takes from. -/
def vecPort (c : Cmd) : Nat := 64 + cmdTarget c

/-- One access of a port's binding: a lane; a stop; or a wait on a full/empty word. -/
inductive PortStep where
  | lane (l : Lane)
  | part (p : Part1)
  | word (cell off : Nat)
  deriving DecidableEq, Repr

/-- Access `i` of a vector-port binding (R215). -/
def portAccess (s : State) (cl u : Nat) (c : Cmd) (b : Binding) : State × PortStep :=
  let w := bytesOf ((fmtOfCode b.fmt).getD .i32)
  let a := bindAddr b b.pos
  if a % (w : Int) ≠ 0 then (s, .part (.ends 1 (addrNat a) 0))
  else if b.spaceV && !exactOk a then (s, .part (.stop 1 (addrNat a) 0 false))
  else if b.spaceV then
    match vGet s { c with ctx := b.ctx, masks := b.masks } (.unit cl u b.pos) (addrNat a) w with
    | (s, .fail r x p) => (s, .part (.stop r x p false))
    | (s, .ok bs pm) =>
      if pendingFor s (.unit cl u b.pos) then (s, .part .pending) else (s, .lane (leNat bs, pm.any (fun x => x)))
  else if a < 0 ∨ (bufSize 1 : Int) ≤ a then (s, .part (.ends 2 (addrNat a) 0))
  else if b.wait then (s, .word (aCell cl (a.toNat / 4 * 4)) (a.toNat % 4))
  else
    let r := memReadMap s (aCell cl a.toNat) w
    (r.1, .lane (leNat r.2.1, r.2.2.any (fun x => x)))

/-- The bindings at the head of a port that have no access left are ended (R237). -/
def dropSpent (q : Port) : Port :=
  dropEmpty (match q.bindings with
    | b :: rest => if bindAccesses b ≤ b.pos then { q with bindings := rest, ordinal := if b.pos = 0 then q.ordinal + 1 else q.ordinal } else q
    | [] => q)

/-- What a pipe has of its port's next vector. -/
inductive PortVec where
  | ready (ls : List Lane)
  | later
  deriving DecidableEq, Repr

/-- A lane of a binding in the command's format (R237). -/
def toFormat (src dst : Fmt) (l : Lane) : Lane :=
  (if src = dst then lowBits (fmtWidth dst) l.1 else convert src dst .rne false (lowBits (fmtWidth src) l.1), l.2)
def fillLanes (ls : List Lane) : List Lane := ls ++ List.replicate (64 - ls.length) (0, false)

/-- The command's fields changed where it runs. -/
def modCmd (s : State) (cl u : Nat) (f : Cmd → Cmd) : State := modRunning s cl u f

/-- A command as the access of a port's binding is told of: the binding is the command (R402, R406). -/
def ofBinding (c : Cmd) (b : Binding) : Cmd := { c with tid := b.tid, word := b.word }

/-- A fault of a vector port's binding (R408). -/
def failPort (s : State) (cl u : Nat) (c : Cmd) (b : Binding) (p : Part1) : State :=
  let s := (notePart s (ofBinding c b) 0 p).1
  let s := setPort s cl (vecPort c) { portAt s cl (vecPort c) with bindings := [], failed := true }
  modThread (modCmd s cl u (fun c => { c with lanes := [], frost := [], froze := [], got := [] })) b.tid (fun th => { th with failTask := true })

/-- Lanes are taken from the port, as far as they can be (R215, R237). -/
def takeLanes (s : State) (cl u : Nat) : Nat → State × PortVec
  | 0 => (s, .later)
  | fuel + 1 =>
    match (unitAt s cl u).running with
    | none => (s, .later)
    | some c =>
      let p := vecPort c
      let q := portAt s cl p
      if q.failed then (s, .ready (List.replicate 64 (0, true)))
      else if c.waiting ∨ c.frost.any (fun f => !f.woken) then (s, .later)
      else
        let spent := match q.bindings with
          | b :: _ => decide (bindAccesses b ≤ b.pos)
          | [] => false
        if decide (c.lanes.length = 64) || (spent && !c.lanes.isEmpty) then
          let src := (q.bindings.head?.bind (fun b => fmtOfCode b.fmt)).getD (vecFmt c)
          let ls := fillLanes (c.lanes.map (toFormat src (vecFmt c)))
          (setPort (modCmd s cl u (fun c => { c with lanes := [] })) cl p (dropSpent q), .ready ls)
        else
          let q := dropSpent q
          match q.bindings with
          | [] => (setPort s cl p q, .later)
          | b :: rest =>
            let next : Port := { q with bindings := { b with pos := b.pos + 1 } :: rest, ordinal := if b.pos = 0 then q.ordinal + 1 else q.ordinal }
            match portAccess s cl u c b with
            | (s, .lane l) =>
              takeLanes (modCmd (setPort s cl p next) cl u (fun c => { c with lanes := c.lanes ++ [l], frost := [], froze := [], got := [] })) cl u fuel
            | (s, .word cell off) =>
              let s := modCmd (setPort s cl p next) cl u (fun c => { c with waiting := true })
              takeLanes (waitWord s (wordKey c.masks cell) ⟨.unit cl u off, .takeFull, cell⟩) cl u fuel
            | (s, .part (.ends r x d)) => (failPort s cl u c b (.ends r x d), .ready (List.replicate 64 (0, true)))
            | (s, .part (.stop r x f st)) =>
              if r = 1 ∨ 8 ≤ r then (failPort s cl u c b (.stop r x f st), .ready (List.replicate 64 (0, true)))
              else
                let n := notePart s (ofBinding c b) 0 (.stop r x f st)
                (modCmd n.1 cl u (fun _ => { n.2 with tid := c.tid, word := c.word }), .later)
            | (s, .part _) =>
              let n := notePart s c 0 .pending
              (modCmd n.1 cl u (fun _ => n.2), .later)

/-- One lane of an element-wise operation (R235, R236). -/
def laneOp (c : Cmd) (x y : Lane) : Lane :=
  let f := vecFmt c
  let sat := vecSat c
  if vecOp c = 0xC0 then (convert f (vecDstFmt c) (rndOfCode (gbBits c 44 2)) sat x.1, x.2)
  else
    match aluResult (vecOp c) (vecFmtCode c) (gbBits c 44 2) sat 0 (fill32 f x.1) (fill32 f y.1) with
    | some o => (o.data.toNat, x.2 || (y.2 && decide (vecSrc c ≠ 3)) || o.poison)
    | none => (0, true)

/-- What a reduction to the largest begins with (R236). -/
def maxStart (c : Cmd) : Nat :=
  let f := vecFmt c
  if vecOp c = 0xC3 then 0
  else if fmtIsFloat f then ((floatShape f).infinity.getD (floatShape f).largest) + signBit f true
  else if fmtSigned f then 2 ^ (fmtWidth f - 1) else 0
/-- The larger of two patterns in the order of R236. -/
def larger (f : Fmt) (a b : Nat) : Nat :=
  if fmtIsFloat f then amoLarger f a b else if intVal f a < intVal f b then b else a
/-- A magnitude in a format (R236). -/
def magnitude (f : Fmt) (x : Nat) : Nat :=
  if fmtIsFloat f then floatAbs f x
  else if fmtSigned f then min (intVal f x).natAbs (2 ^ (fmtWidth f - 1) - 1) else x

/-- A vector entered into a reduction (R236). -/
def reduceVector (c : Cmd) (ls : List Lane) : Cmd :=
  let f := vecFmt c
  let c := { c with bad := c.bad || ls.any (·.2) }
  if vecOp c = 0xC1 then
    if fmtIsFloat f then { c with la := ls.foldl (fun a l => laAdd a ⟨floatVal f l.1, l.2⟩) c.la }
    else { c with sum := ls.foldl (fun a l => a + intVal f l.1) c.sum }
  else
    { c with best := ls.foldl (fun a l => larger f a (if vecOp c = 0xC3 then magnitude f l.1 else l.1)) (if c.step = 0 then maxStart c else c.best) }

/-- The result of a reduction is written (R236). -/
def writeReduced (s : State) (cl : Nat) (c : Cmd) : State :=
  let f := vecFmt c
  let cell := bufCell cl (vecD c).1 (vecD c).2
  if vecOp c = 0xC1 then
    if fmtIsFloat f then putBytes s cell (laBytes c.la) false
    else putBytes s cell (leBytes (wrapInt 32 (max (-2147483648) (min 2147483647 c.sum))) 4) c.bad
  else putBytes s cell (leBytes (if vecN c = 0 then maxStart c else c.best) (bytesOf f)) c.bad

/-- Vector `v` of an element-wise command is written (R235). -/
def writeVector (s : State) (cl : Nat) (c : Cmd) (v : Nat) (ls : List Lane) : State :=
  let w := resultBytes c
  putBytesMap s (bufCell cl (vecD c).1 ((vecD c).2 + 64 * w * v)) (ls.flatMap (fun l => leBytes l.1 w)) (ls.flatMap (fun l => List.replicate w l.2))

def isReduce (c : Cmd) : Bool := decide (0xC1 ≤ vecOp c)

/-- Operand b of the next vector: from a buffer, the port, one element read at the start, or none (R235). -/
def operandB (s : State) (cl u : Nat) (c : Cmd) : State × PortVec :=
  let w := bytesOf (vecFmt c)
  match vecSrc c with
  | 0 =>
    let r := bufVector s cl (vecB c) w c.step
    (r.1, .ready r.2)
  | 1 => takeLanes s cl u 200
  | 2 =>
    match c.bk with
    | some k => (s, .ready (List.replicate 64 k))
    | none =>
      let r := memReadMap s (bufCell cl (vecB c).1 (vecB c).2) w
      let k : Lane := (leNat r.2.1, r.2.2.any (fun x => x))
      (modCmd r.1 cl u (fun c => { c with bk := some k }), .ready (List.replicate 64 k))
  | _ => (s, .ready (List.replicate 64 (0, false)))

/-- A command that waits for its port's next vector, or for a word of it, stops where its context is being pre-empted (R237, R317, R320);
one whose access is frozen, or awaits a peer's reply, is within a step and goes on. -/
def stopWaiting (s : State) (cl u : Nat) (c : Cmd) : State :=
  if ctxRuns s c.ctx || !(c.waiting || (portAt s cl (vecPort c)).bindings.isEmpty) then s else
  let p := vecPort c
  let s := if c.waiting then
      let s := { s with wordWaits := (s.wordWaits.map (fun e => (e.1, e.2.filter (fun w => match w.who with
        | .unit a b _ => !(a == cl && b == u)
        | _ => true)))).filter (fun e => !e.2.isEmpty) }
      setPort s cl p { portAt s cl p with bindings := match (portAt s cl p).bindings with
        | b :: rest => { b with pos := b.pos - 1 } :: rest
        | [] => [] }
    else s
  stepBoundary (modCmd s cl u (fun c => { c with waiting := false })) cl u

/-- R235 to R237: a vector of the command that runs on pipe `u` of cluster `c`, whose 64 lane-steps are counted at 0x68 (R345). -/
def execVectorStep (c u : Nat) (s : State) : Out :=
  .next (
    match (unitAt s c u).running with
    | some k =>
      if cmdMajor k ≠ 0x33 then s
      else if vecN k = 0 then completeCmd (if isReduce k then writeReduced s c k else s) c u
      else
        match operandB s c u k with
        | (s, .later) => stopWaiting s c u (((unitAt s c u).running).getD k)
        | (s, .ready y) =>
          let s := addCounter s k.ctx 0x68 64
          let x := bufVector s c (vecA k) (bytesOf (vecFmt k)) k.step
          let s := if isReduce k then modCmd x.1 c u (fun k => reduceVector k x.2)
            else writeVector x.1 c k k.step ((x.2.zip y).map (fun p => laneOp k p.1 p.2))
          let s := modCmd s c u (fun k => { k with step := k.step + 1 })
          if vecN k ≤ k.step + 1 then
            completeCmd (if isReduce k then writeReduced s c (((unitAt s c u).running).getD k) else s) c u
          else stepBoundary s c u
    | none => s)

end Sys2Proof.Machine
end

