-- ==== Sys2Proof/Machine/Fabric.lean ====
section
/-! DEFINITION. Formations, arcs and tokens: emission, hops, consumption, firing, configuration, failure and release (R47, R52 to R58,
R65, R75, R76, R340 to R346, R360, R395 to R398, R418, R419, R441, R442). -/

namespace Sys2Proof.Machine

/-! Nodes and arcs. -/

def formAt (s : State) (f : Nat) : Option Form := tblGet f s.forms
/-- A formation that is armed or being cut: its nodes act. -/
def formLive (fm : Form) : Bool := decide (fm.phase = .armed ∨ fm.phase = .cutting)
/-- A formation that a guard port has failed: until its teardown ends its tokens stand, its elements and routers go on with them, and the guard
goes on taking those that it is offered (R398, R441). -/
def lingers (fm : Form) : Bool := fm.guarded && decide (fm.phase = .failed)
def modNode (fm : Form) (n : Nat) (g : Node → Node) : Form := { fm with nodes := listMod n g fm.nodes }
def putNode (s : State) (f n : Nat) (g : Node → Node) : State := modForm s f (fun fm => modNode fm n g)

/-- The word that a node executes: its active or its shadow word (R69). -/
def curWord (nd : Node) : BitVec 32 := if nd.sel then nd.shadow else nd.word
def curLoop (nd : Node) : Option Nat := if nd.sel then nd.loopShadow else nd.loop
/-- The site, and the place within it, of `where` (R73). -/
def whereSite (w : Nat) : Nat := bitsOf w 13 15
def whereUnit (w : Nat) : Nat := bitsOf w 7 6
def nodeSite (nd : Node) : Nat := whereSite nd.wher

/-- The first arc that a test names, with its number. -/
def findArc (t : Arc → Bool) (k : Nat) : List Arc → Option (Nat × Arc)
  | [] => none
  | a :: rest => if t a then some (k, a) else findArc t (k + 1) rest
/-- What brings tokens to an input of a node from a source (R59): the arc for source 0, the local lane of the loop-control unit's
stream for sources 2 and 3; and the arc from an output. -/
def inArc (fm : Form) (n p src : Nat) : Option (Nat × Arc) :=
  let lp := (fm.nodes[n]?).bind curLoop
  findArc (fun a => a.dst == n && a.tport == p && (if src = 0 then !a.lane else a.lane && decide (a.fport + 2 = src ∧ lp = some a.src)))
    0 fm.arcs
def outArc (fm : Form) (n p : Nat) : Option (Nat × Arc) :=
  findArc (fun a => a.src == n && a.fport == p && !a.lane) 0 fm.arcs

/-- Hops of an arc: one at each router of its route, and the last into the consumer's input (R57). -/
def hopCount (a : Arc) : Nat := a.route.length + 1
/-- The token that stands at the consumer's input, and the one that it may consume: none under a halt (R346). -/
def standing (a : Arc) : Option Flit :=
  match a.toks with
  | t :: _ => if t.hop = hopCount a then some t else none
  | [] => none
def arrived (a : Arc) : Option Flit := if a.holds.isEmpty then standing a else none

/-- Whether an access keeps its tokens in the input buffer, their acknowledgements withheld: it has no place yet, or it is frozen (R294,
R403). -/
def withholds (a : Access) : Bool :=
  match a.stage with
  | .begun | .frozen _ => true
  | _ => false
/-- The input ports of a node whose tokens an access takes. -/
def takesPort (nd : Node) (p : Nat) (a : Access) : Bool :=
  if nd.cls = 5 then portSink nd.word && decide (p = 0) else decide (nd.cls = 1) && (decide (p = 0) || decide (p = 1 ∧ memStores (elemOp a.word)))
/-- The tokens of an arc that its consumer's accesses withhold (R403). -/
def withheld (fm : Form) (a : Arc) : Nat :=
  match fm.nodes[a.dst]? with
  | some nd => (nd.accs.filter (fun x => takesPort nd a.tport x && withholds x)).length
  | none => 0
/-- Whether an input of a node takes its tokens from this arc or lane: an element's by the source that its current word names (R59). -/
def feeds (nd : Node) (a : Arc) : Bool :=
  if nd.cls = 0 then
    let src := if a.tport = 0 then elemSrcA (curWord nd) else elemSrcB (curWord nd)
    if a.lane then decide (src = a.fport + 2 ∧ curLoop nd = some a.src) else decide (src = 0)
  else !a.lane
/-- The tokens of an arc that a restore offers its consumer again and that are not yet consumed (R325). -/
def offeredOn (fm : Form) (a : Arc) : Nat :=
  match fm.nodes[a.dst]? with
  | some nd => if feeds nd a then (nd.offer.filter (fun o => o.1 == a.tport)).length else 0
  | none => 0
/-- Whether an arc has a free slot: its tokens that are not consumed are fewer than its capacity (R56, R57). -/
def room (fm : Form) (a : Arc) : Bool := decide (a.toks.length + withheld fm a + offeredOn fm a < a.cap)

/-- A token that a restore offers again by an input; it comes before those of the arc (R325). -/
def offered (fm : Form) (n p : Nat) : Option Flit :=
  ((fm.nodes[n]?).bind (fun nd => nd.offer.find? (fun o => o.1 == p))).map (·.2)
/-- The token that stands at an input. -/
def standingAt (fm : Form) (n p : Nat) : Option Flit :=
  (offered fm n p).or ((fm.arcs.find? (fun a => a.dst == n && a.tport == p && (standing a).isSome)).bind standing)
/-- The token that a node may consume at an input. -/
def tokenAt (fm : Form) (n p src : Nat) : Option Flit :=
  (inArc fm n p src).bind (fun a => if a.2.holds.isEmpty then (offered fm n p).or (standing a.2) else none)
/-- Whether an output takes a token: its arc has a free slot, or it has none (R57). -/
def canEmit (fm : Form) (n p : Nat) : Bool := (outArc fm n p).all (fun a => room fm a.2)

def putArc (fm : Form) (k : Nat) (g : Arc → Arc) : Form := { fm with arcs := listMod k g fm.arcs, moves := fm.moves + 1 }
/-- A token is emitted on an output (R57). -/
def emitOn (now : Nat) (fm : Form) (n p : Nat) (t : Tok) : Form :=
  match outArc fm n p with
  | some (k, _) => putArc fm k (fun a => { a with toks := a.toks ++ [⟨t, 0, now⟩] })
  | none => fm
/-- The first offered token of an input, taken. -/
def dropOffer (p : Nat) : List (Nat × Flit) → List (Nat × Flit)
  | [] => []
  | o :: rest => if o.1 = p then rest else o :: dropOffer p rest
/-- The arcs into a node that were full before a change and are not after it have a free slot from now on (R343). -/
def dateFreed (now : Nat) (old new : Form) (n : Nat) : Form :=
  { new with arcs := (old.arcs.zip new.arcs).map (fun p =>
      if p.2.dst = n ∧ !room old p.1 ∧ room new p.2 then { p.2 with freed := now } else p.2) }
/-- The token at an input is consumed. -/
def takeFrom (fm : Form) (n p src : Nat) : Form :=
  if (offered fm n p).isSome then { modNode fm n (fun nd => { nd with offer := dropOffer p nd.offer }) with moves := fm.moves + 1 } else
  match inArc fm n p src with
  | some (k, _) => putArc fm k (fun a => { a with toks := a.toks.tail })
  | none => fm
/-- The token at an input is consumed, and its slot returned (R57). -/
def takeAt (now : Nat) (fm : Form) (n p src : Nat) : Form := dateFreed now fm (takeFrom fm n p src) n
/-- What a step has changed of node `n` since formation `f` stood at `old`: the slots that it has made free are so from now on (R343). -/
def dateSlots (old : Form) (f n : Nat) (s : State) : State := modForm s f (fun fm => dateFreed s.tenths old fm n)

/-! Tokens (R52 to R55). -/

def isControl (t : Tok) : Bool := decide (2 ≤ t.kind ∧ t.kind ≤ 4)
/-- The same control kind with the same data (R60, R303). -/
def matching (a b : Tok) : Bool := isControl a && decide (a.kind = b.kind ∧ a.data = b.data)
def poisoned (t : Tok) : Tok := { t with poison := true }
def eosTok (swap : Bool) : Tok := ⟨2, false, if swap then 1 else 0, if swap then 1 else 0⟩
def drainTok : Tok := ⟨3, false, 0, 0⟩
def markTok (epoch : Nat) : Tok := ⟨4, false, epoch % 65536 % 3, BitVec.ofNat 32 (epoch % 65536)⟩
def isSwapEos (t : Tok) : Bool := decide (t.kind = 2) && t.data.getLsbD 0
/-- The 38 bits of a token (R52). -/
def tokBits (t : Tok) : Nat := t.kind * 2 ^ 35 + (if t.poison then 2 ^ 34 else 0) + t.res % 4 * 2 ^ 32 + t.data.toNat
/-- The reason of a token integrity failure that fails a formation (R418): 0 for none. -/
def tokReason (t : Tok) : Nat := if 5 ≤ t.kind then 2 else if t.kind ≠ 0 ∧ t.poison then 3 else 0

/-! The end of a formation (R42, R47, R217, R398). -/

/-- The fabric port of a stream-port node's home cluster. -/
def portOf (fm : Form) (nd : Node) : Option (Nat × Nat) :=
  if nd.cls = 5 then fm.home.map (fun c => (c, portNum nd.word)) else none
/-- The bindings of a port are discarded, and the port is given up (R217). -/
def freePort (s : State) (cp : Nat × Nat) : State :=
  putBindings s cp.1 cp.2 { portAt s cp.1 cp.2 with holder := none, bindings := [] }
def freePorts (s : State) (f : Nat) (fm : Form) : State :=
  (fm.nodes.filterMap (portOf fm)).foldl
    (fun s cp => if (portAt s cp.1 cp.2).holder.any (fun h => h.1 == f) then freePort s cp else s) s

/-- A formation leaves the machine, and its task or arm request ends (R42, R47, R248, R384, R398). -/
def finishForm (s : State) (f : Nat) (ok : Bool) : State :=
  match formAt s f with
  | none => s
  | some fm =>
    let s := freePorts s f fm
    let s := { s with
      forms := tblDel f s.forms
      clusters := tblMap (fun _ k => { k with cache := k.cache.filter (fun e => e.1 != f), cacheBad := k.cacheBad.filter (fun e => e.1 != f) }) s.clusters }
    let s := offerPlaces s
    let s := match fm.home with
      | some c => unbindIfIdle s c
      | none => s
    match fm.arm with
    | some t =>
      let s := modThread s t (fun th => { th with
        armed := th.armed.map (fun a => if a.1 = fm.num then (a.1, if ok then 0 else 1) else a)
        openForms := setDel fm.num th.openForms })
      finishThread s t
    | none => endTask s fm.launch fm.task ok

/-- Whether a node of the formation acts: a shadow node's entry does not. -/
def isActive (nd : Node) : Bool := nd.overlay.isNone
/-- The drain has passed every site: the formation completes (R47 step 7); the sites that it has passed are given up before (R47
step 6). -/
def settleDrain (s : State) (f : Nat) : State :=
  match formAt s f with
  | some fm =>
    if formLive fm && fm.nodes.all (fun nd => !isActive nd || nd.drained) then finishForm s f true
    else if fm.draining then offerPlaces s else s
  | none => s

/-- Waits on full/empty words of the nodes of a formation are withdrawn. -/
def dropNodeWaits (s : State) (f : Nat) : State :=
  { s with wordWaits := (s.wordWaits.map (fun p => (p.1, p.2.filter (fun w => match w.who with
      | .node g _ _ => g != f
      | _ => true)))).filter (fun p => !p.2.isEmpty) }

/-- A queue without the operations of a formation, with the context and the time of each wait for a reservation that so ends: theirs, and those
of commands of a context that is being pre-empted which went only for such an operation behind them (R319; log 29). -/
def withoutForm (s : State) (f : Nat) : List Cmd → List Cmd × List (Nat × Nat)
  | [] => ([], [])
  | c :: rest =>
    let r := withoutForm s f rest
    let wait := if c.asked.isSome then [(c.ctx, askedFor s.now c)] else []
    if c.node.any (fun n => n.1 == f) then (r.1, wait ++ r.2)
    else if c.asked.isSome && ctxStops s c.ctx && !cmdGoes s r.1 c then ({ c with asked := none } :: r.1, wait ++ r.2)
    else (c :: r.1, r.2)
/-- Matrix operations of a formation that wait in a queue are withdrawn (R398); what has been waited is counted at 0x88 (R345). -/
def dropNodeOps (s : State) (f : Nat) : State :=
  let waits := s.clusters.flatMap (fun k => k.2.units.flatMap (fun u => (withoutForm s f u.2.queue).2))
  waits.foldl (fun s w => addCounter s w.1 0x88 w.2)
    { s with clusters := tblMap (fun _ k => { k with units := k.units.map (fun u =>
        (u.1, headAged s.now { u.2 with queue := (withoutForm s f u.2.queue).1 })) }) s.clusters }

def isSent (st : Stage) : Bool :=
  match st with
  | .sent _ => true
  | _ => false
def frozenOf (st : Stage) : Option Frost :=
  match st with
  | .frozen z => some z
  | _ => none

/-- The write of a sink port's binding that is on its way to a peer device is noted, before the binding is discarded (R218). -/
def noteLanding (fm : Form) (s : State) (nd : Node) : State :=
  match portOf fm nd, nd.accs.find? (fun a => isSent a.stage) with
  | some cp, some a =>
    (match a.stage, (portAt s cp.1 cp.2).bindings.head? with
     | .sent k, some b =>
       let q := portAt s cp.1 cp.2
       setPort s cp.1 cp.2 { q with landing := (b.tid, k) :: q.landing.filter (fun l => (tblGet l.2 s.requests).isSome) }
     | _, _ => s)
  | _, _ => s

/-- R398 steps 1 to 3: bindings, tokens and node states are discarded; accesses that are not performed are abandoned whole. After a guard port's
discard the tokens stand until the teardown ends (R441). -/
def tearDown (s : State) (f : Nat) : State :=
  match formAt s f with
  | none => s
  | some fm =>
    let s := fm.nodes.foldl (noteLanding fm) s
    let zs := fm.nodes.flatMap (fun nd => nd.accs.filterMap (fun a => frozenOf a.stage) ++ nd.fetch.toList)
    let s := countFrosts s fm.ctx zs
    let s := dropNodeOps (dropNodeWaits (freePorts s f fm) f) f
    modForm s f (fun fm => { fm with
      phase := .failed
      arcs := if fm.guarded then fm.arcs else fm.arcs.map (fun a => { a with toks := [] })
      nodes := fm.nodes.map (fun nd =>
        let nd := { nd with accs := nd.accs.filter (fun a => isSent a.stage), kept := [], inj := [], fetch := none }
        if fm.guarded then nd else { nd with offer := [], grp := none, idx := .none, last := .none }) })

/-- A formation fails: the record, and the teardown (R398). Only the first failure counts. -/
def failForm (s : State) (f : Nat) (r : Form → Record) : State :=
  match formAt s f with
  | some fm => if formLive fm then tearDown (writeRecord s fm.ctx (r fm)) f else s
  | none => s
/-- A failure that a node of the formation meets. -/
def failNode (s : State) (f n : Nat) (r : Form → Node → Record) : State :=
  failForm s f (fun fm => match fm.nodes[n]? with
    | some nd => r fm nd
    | none => plainRecord 0 0 2)
/-- A failure of R407 that ends a node. -/
def nodeFault (s : State) (f n reason addr detail : Nat) : State :=
  failNode s f n (fun fm nd => { nodeRecord fm nd 0x26 reason with addr := addr, detail := detail })
/-- A stream mismatch (R397). -/
def mismatch (s : State) (f n reason : Nat) : State :=
  failNode s f n (fun fm nd =>
    let t (p : Nat) : Option Tok := (standingAt fm n p).map (·.tok)
    let k (p : Nat) : Nat := match t p with
      | some x => x.kind % 8
      | none => 7
    { nodeRecord fm nd 0x24 reason with
      detail := k 0 + 8 * k 1 + 64 * k 2 + 65536 * ((t 1).map (fun x => x.data.toNat)).getD 0 })
/-- A token that fails its formation (R418). -/
def badToken (s : State) (f n : Nat) (t : Tok) : State :=
  failNode s f n (fun fm nd => { nodeRecord fm nd 0x27 (tokReason t) with detail := tokBits t })

/-- No access of a failed formation is in flight (R398 step 4). -/
def tornDown (s : State) (f : Nat) (fm : Form) : Bool :=
  decide (fm.phase = .failed) &&
  !s.requests.any (fun r => match r.2.who with
    | .node g _ _ => g == f
    | _ => false) &&
  !s.clusters.any (fun k => k.2.units.any (fun u => (unitCmds u.2).any (fun c => c.node.any (fun n => n.1 == f))))

/-- A site that a formation's drain has not passed: a node there has not forwarded the DRAIN, or a token has still to pass a hop there (R47
step 6). -/
def holdsSite (fm : Form) (site : Nat) : Bool :=
  fm.nodes.any (fun nd => isActive nd && decide (nd.cls ≤ 3) && nodeSite nd == site && !nd.drained) ||
  fm.arcs.any (fun a => ((List.range a.route.length).zip a.route).any (fun h =>
    h.2 / 65536 == site && (!((fm.nodes[a.src]?).any (·.drained)) || a.toks.any (fun t => decide (t.hop ≤ h.1 + 1)))))
/-- The sites that a formation occupies, its routes' included. -/
def formSites (fm : Form) : NatSet :=
  (fm.nodes.filter (fun nd => decide (nd.cls ≤ 3))).foldl (fun l nd => setAdd (nodeSite nd) l)
    (fm.arcs.foldl (fun l a => a.route.foldl (fun l h => setAdd (h / 65536) l) l) [])
/-- R398, R442: a failed formation's resources are released; where a guard port failed it, its routers' words are first written and
read back. -/
def execTeardownComplete (f : Nat) (s : State) : Out :=
  .next (match formAt s f with
    | some fm =>
      if tornDown s f fm then
        let s := if fm.guarded then
            { s with unusable := (formSites fm).foldl (fun u k => if setHas k s.sticking then setAdd k u else u) s.unusable }
          else s
        finishForm s f false
      else s
    | none => s)

/-! Firing (R342, R343, R345, R360). -/

/-- One more element firing of a context: each 1,024 that are debited debit 512 pJ (R360). -/
def countElement (s : State) (x : Nat) : State :=
  match ctxOf s x with
  | none => s
  | some c =>
    if !debits c then s else
    let s := modCtx s x (fun c => { c with firings := c.firings + 1 })
    if (c.firings + 1) % 1024 = 0 then debit s x 512 else s

/-- The cause of an excess: the condition that became true last; of conditions within 0.1 ns, the lowest code (R343). -/
def lastCause (cs : List (Nat × Nat)) : Nat :=
  let latest := cs.foldl (fun m c => max m c.2) 0
  (cs.filter (fun c => decide (latest ≤ c.2 + 1))).foldl (fun m c => min m c.1) 6

/-- The conditions of a firing with the times they became true: its tokens, its out arcs and lanes, and the node's own (R343). -/
def conditions (fm : Form) (nd : Node) (n : Nat) (ins : List (Nat × Flit)) (outs : List Nat) : List (Nat × Nat) :=
  ins.map (fun i => (i.1, i.2.since)) ++ (fm.arcs.filter (fun a => a.src == n && outs.contains a.fport)).map (fun a => (3, a.freed)) ++ nd.conds

/-- A firing is measured against the node's declared II and counted (R342, R360, R399). -/
def noteFiring (s : State) (f n : Nat) (ins : List (Nat × Flit)) (outs : List Nat) : State :=
  match formAt s f with
  | none => s
  | some fm =>
    match fm.nodes[n]? with
    | none => s
    | some nd =>
      let nm := namedNode fm nd
      let first := ins.foldl (fun m i => min m i.2.since) s.tenths
      let t0 := nd.lastFire.getD first
      let x := s.tenths - t0 - nm.ii
      let cause := lastCause (conditions fm nd n ins outs)
      let s := modForm s f (fun fm => { modNode fm n (fun nd => { nd with fires := nd.fires + 1, lastFire := some s.tenths }) with
        moves := fm.moves + 1 })
      let s := if nd.cls ≤ 1 then countElement s fm.ctx else s
      if nm.ii = 0 ∨ x = 0 then s else
      let s := addCounter s fm.ctx (0x10 + 8 * cause) x
      match (ctxOf s fm.ctx).bind (·.ring) with
      | some g =>
        if g.enable % 2 = 1 ∧ g.thresh ≠ 0xFFFFFFFF ∧ g.thresh ≤ x then
          writeTrace s fm.ctx ⟨1, cause, formId fm, nm.num, nm.wher, loopIdx fm nd, x, nm.ii, nd.fires + 1, 0⟩
        else s
      | none => s

/-- The counters of what elements emit (R345). -/
def countEmitted (s : State) (x : Nat) (t : Tok) : State :=
  if t.kind = 0 then addCounter s x 0 1 else if t.kind = 1 then addCounter s x 8 1 else s

/-- A step of the current node of a formation. -/
def onNode (s : State) (g : Nat → Form → Nat → Node → State) : Out :=
  match s.cur with
  | .node f n =>
    match formAt s f with
    | some fm => match fm.nodes[n]? with
      | some nd => .next (g f fm n nd)
      | none => .fault .noAgent
    | none => .fault .noAgent
  | _ => .fault .noAgent

/-- Whether a node of a class may act: its formation stands, or lingers with its elements and routers, its word is loaded and valid (R75, R396), and neither the drain nor a
marker has passed it (R47, R320). -/
def able (fm : Form) (nd : Node) (cls : Nat) : Bool :=
  (formLive fm || (lingers fm && decide (cls = 0 ∨ cls = 2))) && isActive nd && decide (nd.cls = cls) && !nd.blocked && (nd.loaded || decide (2 ≤ cls)) && !nd.drained && !nd.marked

/-- DRAIN or MARK has passed a node. -/
def notePassed (nd : Node) (t : Tok) : Node :=
  { nd with drained := nd.drained || decide (t.kind = 3), marked := nd.marked || decide (t.kind = 4) }

/-- What a source is to emit next of what its formation injects: a cut's MARK, ahead of anything else that waits (R47, R320). -/
def injection (s : State) (fm : Form) (nd : Node) : Option Tok :=
  if fm.phase = .cutting then some (markTok (((ctxOf s fm.ctx).map (·.epoch)).getD 0)) else nd.inj.head?
/-- An injected token has left. -/
def injected (nd : Node) (t : Tok) : Node := if t.kind = 4 then nd else { nd with inj := nd.inj.tail }

/-! Hops (R57, R75, R346). -/

/-- A breakpoint's match at a token that has reached the consumer's end (R346). -/
def matchBreak (s : State) (f a : Nat) (t : Tok) (key : Nat) (b : Breakpoint) : State :=
  match formAt s f with
  | none => s
  | some fm =>
    match fm.arcs[a]? with
    | none => s
    | some ar =>
      match fm.nodes[ar.dst]? with
      | none => s
      | some nd =>
        if b.hit || ar.lane || decide (key / 8 ≠ fm.ctx ∨ b.form ≠ formId fm ∨ (b.node ≠ nd.num ∧ b.node ≠ (namedNode fm nd).num) ∨ b.port ≠ ar.tport) ||
          !(b.kinds.testBit t.kind) || decide (t.data.toNat &&& b.dmask ≠ b.dval) then s
        else if 0 < b.skip then { s with breaks := tblSet key { b with skip := b.skip - 1 } s.breaks }
        else
          let nm := namedNode fm nd
          let s := { s with breaks := tblSet key { b with hit := true } s.breaks }
          let s := modForm s f (fun fm => putArc fm a (fun ar => { ar with holds := setAdd (16 + key % 8) ar.holds }))
          writeTrace s fm.ctx ⟨4, 6, formId fm, nm.num, nm.wher, loopIdx fm nd, 0, nm.ii, nd.fires, tokBits t⟩

/-- What comes about when a token reaches the consumer's end of an arc: breakpoints, and the request for an element's words (R75,
R346). -/
def arriveTok (s : State) (f a : Nat) (t : Tok) : State :=
  let s := s.breaks.foldl (fun s b => matchBreak s f a t b.1 b.2) s
  match formAt s f with
  | some fm => match fm.arcs[a]? with
    | some ar => putNode s f ar.dst (fun nd => if nd.cls ≤ 1 ∧ !nd.loaded then { nd with asked := true } else nd)
    | none => s
  | none => s

/-! Routers that swap (R69, R70; log 27). -/

/-- The site of a pass-through hop that a token stands at after `h` hops: none at the producer's end. -/
def hopSite (a : Arc) (h : Nat) : Option Nat := if h = 0 then none else (a.route[h - 1]?).map (· / 65536)
/-- The operator nodes of a formation at a site: the operator slots that its router exchanges together (R69). -/
def onRouter (site : Nat) (nd : Node) : Bool := isActive nd && decide (nd.cls = 2 ∧ nodeSite nd = site)
/-- The hops of an arc at a site. -/
def hopsAt (site : Nat) (a : Arc) : List Nat := (List.range (a.route.length + 1)).filter (fun h => decide (hopSite a h = some site))
/-- Once an EOS with swap flag has passed every slot of a router, operators and pass-through hops, it exchanges the words of all of them
(R69); a pass-through hop's two words are equal (R70). -/
def settleSwap (fm : Form) (site : Nat) : Form :=
  if fm.nodes.all (fun nd => !onRouter site nd || nd.passed) && fm.arcs.all (fun a => (hopsAt site a).all (fun h => setHas h a.swapped)) then
    { fm with
      nodes := fm.nodes.map (fun nd => if onRouter site nd then { nd with passed := false, sel := !nd.sel } else nd)
      arcs := fm.arcs.map (fun a => { a with swapped := a.swapped.filter (fun h => !decide (hopSite a h = some site)) }) }
  else fm
/-- An EOS with swap flag passes an operator's slot (R69). -/
def passSwap (fm : Form) (n : Nat) (nd : Node) : Form :=
  settleSwap (modNode fm n (fun nd => { nd with passed := true })) (nodeSite nd)
/-- An EOS with swap flag leaves the slot of a pass-through hop (R69). -/
def passHop (fm : Form) (k : Nat) (a : Arc) (h : Nat) : Form :=
  match hopSite a h with
  | some site => settleSwap { fm with arcs := listMod k (fun a => { a with swapped := setAdd h a.swapped }) fm.arcs } site
  | none => fm

/-- Whether token `k` of an arc may make its next hop: no earlier token stands in the way (R56, R57), one that a restore offers again
included, and the slot that it stands at has not passed the swap EOS (R69). -/
def mayHop (fm : Form) (a : Arc) (k : Nat) (t : Flit) : Bool :=
  decide (t.hop < hopCount a) && !setHas t.hop a.swapped &&
  (if k = 0 then decide (t.hop + 1 < hopCount a) || decide (offeredOn fm a = 0)
   else decide (t.hop + 1 < hopCount a) && (a.toks[k - 1]?).any (fun u => decide (t.hop + 1 ≤ u.hop)))

/-- R57: token `k` of arc `a` makes its next hop; a DRAIN leaves the site that it has passed to others (R47, R315). -/
def execArcHop (f a k : Nat) (s : State) : Out :=
  .next (match formAt s f with
    | none => s
    | some fm =>
      match fm.arcs[a]? with
      | none => s
      | some ar =>
        match ar.toks[k]? with
        | none => s
        | some t =>
          if !(formLive fm || lingers fm) || !mayHop fm ar k t then s else
          let s' := modForm s f (fun fm => putArc fm a (fun ar => { ar with
            toks := listMod k (fun t => { t with hop := t.hop + 1, since := s.tenths }) ar.toks }))
          let s' := if isSwapEos t.tok then modForm s' f (fun fm => passHop fm a ar t.hop) else s'
          let s' := if t.tok.kind = 3 then offerPlaces s' else s'
          if t.hop + 1 = hopCount ar then arriveTok s' f a t.tok else s')

/-! Configuration (R75, R76, R171, R395, R396, R402, R419). -/

/-- A fetch of a record of the image. -/
inductive ImageRead where
  | ok (bs : List Byte)
  | stop (reason addr fpage : Nat)
  | damaged (addr : Nat)
  | pending
  deriving DecidableEq, Repr

/-- Bytes of the image under a formation's masks, through the `x` permission (R171). Those on a page of a peer device are asked for,
one granule after another. DESIGN CHOICE (log 115): R116 names no masks for the placer's and the configuration's reads; they are the
context's when the item became ready and, once the formation is armed, those of arming. -/
def readImage (fresh : Bool) (s : State) (fm : Form) (who : PeerWho) (va n : Nat) : State × ImageRead :=
  match readVia fresh s fm.ctx fm.masks fm.got who needExec va n with
  | (s, .ok bs) => (s, .ok bs)
  | (s, .xlate r a) => (s, .stop r a 0)
  | (s, .absent p a) => (startFill s fm.ctx p a, .stop 6 a p)
  | (s, .poison _ a) => (s, .damaged a)
  | (s, .peer _ _ _) => (s, .pending)

/-- The cache entry of a node moves to the front (R76). -/
def cacheTouch (s : State) (cl f n : Nat) : State :=
  modCluster s cl (fun k => { k with
    cache := ((f, n) :: k.cache.filter (fun e => !decide (e = (f, n)))).take 65536, cacheBad := k.cacheBad.filter (fun e => !decide (e = (f, n))) })

/-- A node access freezes (R402, R403, R406): reasons 6 and 7 write no record. -/
def freezeRecord (s : State) (f n : Nat) (z : Freeze) (space : Space) : State :=
  if 6 ≤ z.reason then s else
  match formAt s f with
  | some fm => match fm.nodes[n]? with
    | some nd => writeRecord s fm.ctx { nodeRecord fm nd 4 z.reason with
        addr := z.vaddr, detail := spaceCode space * 8192 + (if z.store then 4096 else 0) }
    | none => s
  | none => s

/-- The words of a node are loaded, or found not valid: the node blocks and its formation fails (R395, R396). -/
def loadWords (s : State) (f n : Nat) : State :=
  match formAt s f with
  | none => s
  | some fm =>
    match fm.nodes[n]? with
    | none => s
    | some nd =>
      let a := wordReason nd.cls nd.word (fm.pool.length)
      let b := wordReason nd.cls nd.shadow (fm.pool.length)
      if a = 0 ∧ b = 0 then
        modForm s f (fun fm => { modNode fm n (fun nd => { nd with loaded := true, fetch := none, conds := tblSet 4 s.tenths nd.conds }) with
          moves := fm.moves + 1 })
      else
        let s := putNode s f n (fun nd => { nd with blocked := true })
        failNode s f n (fun fm nd => { nodeRecord fm nd 0x23 (if a ≠ 0 then a else 4) with
          word := (if a ≠ 0 then nd.word else nd.shadow).toNat })

/-- The node records of a node and of its shadow, fetched from the image (R75, R170). -/
def fetchWords (s : State) (f : Nat) (fm : Form) (n : Nat) (nd : Node) : State × (Except ImageRead (BitVec 32 × BitVec 32 × Nat)) :=
  match readImage nd.fetch.isSome s fm (.image f n) (fm.nodeTable + 16 * n) 16 with
  | (s, .ok bs) =>
    let w : BitVec 32 := BitVec.ofNat 32 (leNat ((bs.drop 8).take 4))
    let ii := leNat ((bs.drop 12).take 2)
    match nd.shadowIdx with
    | none => (s, .ok (w, w, ii))
    | some k =>
      match readImage nd.fetch.isSome s fm (.image f n) (fm.nodeTable + 16 * k) 16 with
      | (s, .ok cs) => (s, .ok (w, BitVec.ofNat 32 (leNat ((cs.drop 8).take 4)), ii))
      | (s, e) => (s, .error e)
  | (s, e) => (s, .error e)

/-- R75, R76, R419: the words of an element that has asked for them are supplied from the cluster's cache, or fetched from the
image; a cached word with an uncorrectable error is discarded and fetched again. -/
def execConfigWordLoad (f n : Nat) (s : State) : Out :=
  .next (match formAt s f with
    | none => s
    | some fm =>
      match fm.nodes[n]? with
      | none => s
      | some nd =>
        if !formLive fm || !nd.asked || nd.loaded || nd.blocked || nd.fetch.any (fun z => !z.woken) then s else
        let cl := siteCluster (nodeSite nd)
        if (f, n) ∈ (clusterAt s cl).cache ∧ (f, n) ∉ (clusterAt s cl).cacheBad then loadWords (cacheTouch s cl f n) f n else
        match fetchWords s f fm n nd with
        | (s, .ok (w, v, ii)) =>
          let s := modForm s f (fun fm => { modNode fm n (fun nd => { nd with word := w, shadow := v, ii := ii }) with got := [] })
          loadWords (cacheTouch s cl f n) f n
        | (s, .error (.stop r a p)) =>
          if r = 1 ∨ 8 ≤ r then nodeFault s f n 9 a r else
          let z : Freeze := ⟨a, r, false, (nd.fetch.map (·.frz.since)).getD s.now, s.now, p, s.nextInval⟩
          freezeRecord (modForm s f (fun fm => { modNode fm n (fun nd => { nd with fetch := some ⟨0, false, z⟩ }) with got := [] })) f n z .v
        | (s, .error (.damaged a)) => nodeFault s f n 10 a 0
        | (s, .error _) => s)

end Sys2Proof.Machine
end

