-- ==== Sys2Proof/Machine/Elements.lean ====
section
/-! DEFINITION. Firings of operation elements (R54, R59, R60, R69, R278 to R290, R418). -/

namespace Sys2Proof.Machine

/-- An element word from its fields (R165). -/
def elemWord (op : Nat) (a b : BitVec 3) (f : BitVec 4) (r : BitVec 2) (sat swap : BitVec 1) (k : BitVec 10) : BitVec 32 :=
  BitVec.ofNat 8 op ++ a ++ b ++ f ++ r ++ sat ++ swap ++ k

/-- An entry of the constant pool (R47, R170); one beyond the image's holds a free value. -/
def poolEntry (fm : Form) (k : Nat) : BitVec 32 :=
  match fm.pool[k]? with
  | some v => v
  | none => (Config.freeWord (fm.poolFree + k)).truncate 32

/-- The residue check on a DATA token that an arithmetic element consumes, or that passes into memory (R416): a mismatch poisons it, and the
first of a formation is recorded (R54, R418). -/
def checkResidue (s : State) (f n : Nat) (t : Tok) : State × Tok :=
  if t.kind ≠ 0 ∨ t.res = residue t.data then (s, t) else
  match formAt s f with
  | none => (s, poisoned t)
  | some fm =>
    match fm.nodes[n]? with
    | none => (s, poisoned t)
    | some nd =>
      if fm.resTold then (s, poisoned t)
      else (writeRecord (modForm s f (fun fm => { fm with resTold := true })) fm.ctx
              { nodeRecord fm nd 0x27 1 with detail := tokBits t }, poisoned t)
def checkResidues (s : State) (f n : Nat) : List Tok → State × List Tok
  | [] => (s, [])
  | t :: ts =>
    let a := checkResidue s f n t
    let b := checkResidues a.1 f n ts
    (b.1, a.2 :: b.2)

/-- One value entered into a group state, and what the element emits (R289): opcode, format, rounding, saturation. -/
def accStep (op fc rc : Nat) (sat : Bool) (st : Option (BitVec 320)) (x : BitVec 32) : BitVec 320 × BitVec 32 :=
  let f := (fmtOfCode fc).getD .i32
  let b := lowBits (fmtWidth f) x.toNat
  match op with
  | 0x50 =>
    let sum := ((st.map (·.toInt)).getD 0) + intVal f b
    (BitVec.ofInt 320 sum, fill32 f (intResult f sat sum))
  | 0x51 =>
    let acc := laAdd (st.getD 0) ⟨floatVal f b, false⟩
    (acc, fill32 f (laDrain acc f (rndOfCode rc) sat))
  | 0x55 =>
    let n := (st.map (·.toNat)).getD 0 + (if isZeroVal f b then 0 else 1)
    (BitVec.ofNat 320 n, BitVec.ofNat 32 (min n 0xFFFFFFFF))
  | _ =>
    let v := if op = 0x54 then magnitude f b else b
    let m := match st with
      | some u => larger f u.toNat v
      | none => v
    (BitVec.ofNat 320 m, fill32 f (if fmtIsFloat f then canonNan f m else m))

/-- The DATA result of a firing, and the group state after it (R278, R289). `xa` and `xb` are the operands with their poison. -/
def elemResult (w : BitVec 32) (grp : Option (BitVec 320 × Bool)) (xa xb : BitVec 32 × Bool) : Tok × Option (BitVec 320 × Bool) :=
  let op := elemOp w
  let sat := decide (elemSat w = 1)
  if 0x50 ≤ op then
    let r := accStep op (elemFmt w) (elemRnd w) sat (grp.map (·.1)) xa.1
    let f := (fmtOfCode (elemFmt w)).getD .i32
    let p := (grp.map (·.2)).getD false || xa.2 || fmtPoison f xa.1.toNat
    (dataTok (p || xb.2) r.2, if decide (xb.1 ≠ 0) || xb.2 then none else some (r.1, p))
  else
    match aluResult op (elemFmt w) (elemRnd w) sat (elemK w % 16) xa.1 xb.1 with
    | some o => (dataTok (xa.2 || (xb.2 && !oneInput op) || o.poison) o.data, grp)
    | none => (dataTok true 0, grp)

/-- A source code that takes tokens from an arc or a local lane (R59). -/
def takesToken (src : Nat) : Bool := decide (src = 0 ∨ src = 2 ∨ src = 3)

/-- An operand of a firing on DATA (R278): the token at the input, a pool entry, or the chase register. -/
def operandOf (fm : Form) (nd : Node) (w : BitVec 32) (src : Nat) (t : Option Tok) : BitVec 32 × Bool :=
  if src = 1 then (poolEntry fm (elemK w), false)
  else if src = 4 then (nd.chase.data, nd.chase.poison)
  else match t with
    | some t => (t.data, t.poison)
    | none => (0, false)

/-- The node after it has emitted `t` (R69, R280, R290). -/
def afterEmit (w : BitVec 32) (grp : Option (BitVec 320 × Bool)) (t : Tok) (nd : Node) : Node :=
  let nd := notePassed nd t
  if t.kind = 0 then { nd with chase := t, grp := grp }
  else if t.kind = 2 ∨ t.kind = 3 then
    { nd with chase := dataTok false 0, grp := none, sel := if isSwapEos t && elemSwap w then !nd.sel else nd.sel }
  else nd

/-- A firing of the current element, whose active word is `w` (R59, R60, R278, R280). It fires once every input that takes tokens
holds one and its output can accept one. -/
def fireElement (s : State) (w : BitVec 32) : Out :=
  onNode s (fun f fm n nd =>
    if !able fm nd 0 || decide (elemReason w ≠ 0) then s else
    let srcs := if oneInput (elemOp w) then [(0, elemSrcA w)] else [(0, elemSrcA w), (1, elemSrcB w)]
    let ports := srcs.filter (fun p => takesToken p.2)
    let ins := ports.filterMap (fun p => (tokenAt fm n p.1 p.2).map (fun t => (p, t)))
    if ports.isEmpty || decide (ins.length < ports.length) || !canEmit fm n 0 then s else
    match ins.find? (fun i => tokReason i.2.tok ≠ 0) with
    | some i => badToken s f n i.2.tok
    | none =>
      let raw := ins.map (fun i => i.2.tok)
      let fire (s : State) (t : Tok) (grp : Option (BitVec 320 × Bool)) : State :=
        let s := noteFiring s f n (ins.map (fun i => (i.1.1, i.2))) [0]
        let s := modForm s f (fun fm =>
          let fm := ports.foldl (fun fm p => takeAt s.tenths fm n p.1 p.2) fm
          modNode (emitOn s.tenths fm n 0 t) n (afterEmit w grp t))
        settleDrain (countEmitted s fm.ctx t) f
      if raw.all (fun t => decide (t.kind ≤ 1)) then
        let r := checkResidues s f n raw
        if raw.any (fun t => t.kind == 1) then fire r.1 nullTok nd.grp else
        let at_ (p : Nat) : Option Tok := (((ports.map (·.1)).zip r.2).find? (fun q => q.1 == p)).map (·.2)
        let v := elemResult w nd.grp (operandOf fm nd w (elemSrcA w) (at_ 0)) (operandOf fm nd w (elemSrcB w) (at_ 1))
        fire r.1 v.1 v.2
      else
        match raw with
        | t :: rest => if isControl t && rest.all (matching t) then fire s t nd.grp else mismatch s f n 1
        | [] => s)

/-- R282: element `add`. -/
def execElemAdd (a : BitVec 3) (b : BitVec 3) (f : BitVec 4) (s : BitVec 1) (w : BitVec 1) (k : BitVec 10) (st : State) : Out :=
  fireElement st (elemWord 0x01 a b f 0 s w k)
/-- R282: element `sub`. -/
def execElemSub (a : BitVec 3) (b : BitVec 3) (f : BitVec 4) (s : BitVec 1) (w : BitVec 1) (k : BitVec 10) (st : State) : Out :=
  fireElement st (elemWord 0x02 a b f 0 s w k)
/-- R282: element `mul`. -/
def execElemMul (a : BitVec 3) (b : BitVec 3) (f : BitVec 4) (s : BitVec 1) (w : BitVec 1) (k : BitVec 10) (st : State) : Out :=
  fireElement st (elemWord 0x03 a b f 0 s w k)
/-- R282: element `mulh`. -/
def execElemMulh (a : BitVec 3) (b : BitVec 3) (f : BitVec 4) (w : BitVec 1) (k : BitVec 10) (st : State) : Out :=
  fireElement st (elemWord 0x04 a b f 0 0 w k)
/-- R282: element `min`. -/
def execElemMin (a : BitVec 3) (b : BitVec 3) (f : BitVec 4) (w : BitVec 1) (k : BitVec 10) (st : State) : Out :=
  fireElement st (elemWord 0x05 a b f 0 0 w k)
/-- R282: element `max`. -/
def execElemMax (a : BitVec 3) (b : BitVec 3) (f : BitVec 4) (w : BitVec 1) (k : BitVec 10) (st : State) : Out :=
  fireElement st (elemWord 0x06 a b f 0 0 w k)
/-- R282: element `abs`. -/
def execElemAbs (a : BitVec 3) (f : BitVec 4) (s : BitVec 1) (w : BitVec 1) (k : BitVec 10) (st : State) : Out :=
  fireElement st (elemWord 0x07 a 0 f 0 s w k)
/-- R282: element `neg`. -/
def execElemNeg (a : BitVec 3) (f : BitVec 4) (s : BitVec 1) (w : BitVec 1) (k : BitVec 10) (st : State) : Out :=
  fireElement st (elemWord 0x08 a 0 f 0 s w k)
/-- R282: element `avg`. -/
def execElemAvg (a : BitVec 3) (b : BitVec 3) (f : BitVec 4) (r : BitVec 2) (w : BitVec 1) (k : BitVec 10) (st : State) : Out :=
  fireElement st (elemWord 0x09 a b f r 0 w k)
/-- R282: element `absd`. -/
def execElemAbsd (a : BitVec 3) (b : BitVec 3) (f : BitVec 4) (s : BitVec 1) (w : BitVec 1) (k : BitVec 10) (st : State) : Out :=
  fireElement st (elemWord 0x0A a b f 0 s w k)
/-- R282: element `div`. -/
def execElemDiv (a : BitVec 3) (b : BitVec 3) (f : BitVec 4) (s : BitVec 1) (w : BitVec 1) (k : BitVec 10) (st : State) : Out :=
  fireElement st (elemWord 0x0B a b f 0 s w k)
/-- R282: element `rem`. -/
def execElemRem (a : BitVec 3) (b : BitVec 3) (f : BitVec 4) (w : BitVec 1) (k : BitVec 10) (st : State) : Out :=
  fireElement st (elemWord 0x0C a b f 0 0 w k)
/-- R283: element `and`. -/
def execElemAnd (a : BitVec 3) (b : BitVec 3) (f : BitVec 4) (w : BitVec 1) (k : BitVec 10) (st : State) : Out :=
  fireElement st (elemWord 0x10 a b f 0 0 w k)
/-- R283: element `or`. -/
def execElemOr (a : BitVec 3) (b : BitVec 3) (f : BitVec 4) (w : BitVec 1) (k : BitVec 10) (st : State) : Out :=
  fireElement st (elemWord 0x11 a b f 0 0 w k)
/-- R283: element `xor`. -/
def execElemXor (a : BitVec 3) (b : BitVec 3) (f : BitVec 4) (w : BitVec 1) (k : BitVec 10) (st : State) : Out :=
  fireElement st (elemWord 0x12 a b f 0 0 w k)
/-- R283: element `not`. -/
def execElemNot (a : BitVec 3) (f : BitVec 4) (w : BitVec 1) (k : BitVec 10) (st : State) : Out :=
  fireElement st (elemWord 0x13 a 0 f 0 0 w k)
/-- R283: element `shl`. -/
def execElemShl (a : BitVec 3) (b : BitVec 3) (f : BitVec 4) (w : BitVec 1) (k : BitVec 10) (st : State) : Out :=
  fireElement st (elemWord 0x14 a b f 0 0 w k)
/-- R283: element `shr`. -/
def execElemShr (a : BitVec 3) (b : BitVec 3) (f : BitVec 4) (w : BitVec 1) (k : BitVec 10) (st : State) : Out :=
  fireElement st (elemWord 0x15 a b f 0 0 w k)
/-- R283: element `sra`. -/
def execElemSra (a : BitVec 3) (b : BitVec 3) (f : BitVec 4) (w : BitVec 1) (k : BitVec 10) (st : State) : Out :=
  fireElement st (elemWord 0x16 a b f 0 0 w k)
/-- R283: element `rotl`. -/
def execElemRotl (a : BitVec 3) (b : BitVec 3) (f : BitVec 4) (w : BitVec 1) (k : BitVec 10) (st : State) : Out :=
  fireElement st (elemWord 0x17 a b f 0 0 w k)
/-- R283: element `clz`. -/
def execElemClz (a : BitVec 3) (f : BitVec 4) (w : BitVec 1) (k : BitVec 10) (st : State) : Out :=
  fireElement st (elemWord 0x18 a 0 f 0 0 w k)
/-- R283: element `ctz`. -/
def execElemCtz (a : BitVec 3) (f : BitVec 4) (w : BitVec 1) (k : BitVec 10) (st : State) : Out :=
  fireElement st (elemWord 0x19 a 0 f 0 0 w k)
/-- R283: element `popc`. -/
def execElemPopc (a : BitVec 3) (f : BitVec 4) (w : BitVec 1) (k : BitVec 10) (st : State) : Out :=
  fireElement st (elemWord 0x1A a 0 f 0 0 w k)
/-- R283: element `brev`. -/
def execElemBrev (a : BitVec 3) (f : BitVec 4) (w : BitVec 1) (k : BitVec 10) (st : State) : Out :=
  fireElement st (elemWord 0x1B a 0 f 0 0 w k)
/-- R284: element `ceq`. -/
def execElemCeq (a : BitVec 3) (b : BitVec 3) (f : BitVec 4) (w : BitVec 1) (k : BitVec 10) (st : State) : Out :=
  fireElement st (elemWord 0x20 a b f 0 0 w k)
/-- R284: element `cne`. -/
def execElemCne (a : BitVec 3) (b : BitVec 3) (f : BitVec 4) (w : BitVec 1) (k : BitVec 10) (st : State) : Out :=
  fireElement st (elemWord 0x21 a b f 0 0 w k)
/-- R284: element `clt`. -/
def execElemClt (a : BitVec 3) (b : BitVec 3) (f : BitVec 4) (w : BitVec 1) (k : BitVec 10) (st : State) : Out :=
  fireElement st (elemWord 0x22 a b f 0 0 w k)
/-- R284: element `cle`. -/
def execElemCle (a : BitVec 3) (b : BitVec 3) (f : BitVec 4) (w : BitVec 1) (k : BitVec 10) (st : State) : Out :=
  fireElement st (elemWord 0x23 a b f 0 0 w k)
/-- R284: element `cgt`. -/
def execElemCgt (a : BitVec 3) (b : BitVec 3) (f : BitVec 4) (w : BitVec 1) (k : BitVec 10) (st : State) : Out :=
  fireElement st (elemWord 0x24 a b f 0 0 w k)
/-- R284: element `cge`. -/
def execElemCge (a : BitVec 3) (b : BitVec 3) (f : BitVec 4) (w : BitVec 1) (k : BitVec 10) (st : State) : Out :=
  fireElement st (elemWord 0x25 a b f 0 0 w k)
/-- R284: element `cnan`. -/
def execElemCnan (a : BitVec 3) (f : BitVec 4) (w : BitVec 1) (k : BitVec 10) (st : State) : Out :=
  fireElement st (elemWord 0x26 a 0 f 0 0 w k)
/-- R284: element `mov`. -/
def execElemMov (a : BitVec 3) (f : BitVec 4) (w : BitVec 1) (k : BitVec 10) (st : State) : Out :=
  fireElement st (elemWord 0x27 a 0 f 0 0 w k)
/-- R285: element `fadd`. -/
def execElemFadd (a : BitVec 3) (b : BitVec 3) (f : BitVec 4) (r : BitVec 2) (s : BitVec 1) (w : BitVec 1) (k : BitVec 10) (st : State) : Out :=
  fireElement st (elemWord 0x30 a b f r s w k)
/-- R285: element `fsub`. -/
def execElemFsub (a : BitVec 3) (b : BitVec 3) (f : BitVec 4) (r : BitVec 2) (s : BitVec 1) (w : BitVec 1) (k : BitVec 10) (st : State) : Out :=
  fireElement st (elemWord 0x31 a b f r s w k)
/-- R285: element `fmul`. -/
def execElemFmul (a : BitVec 3) (b : BitVec 3) (f : BitVec 4) (r : BitVec 2) (s : BitVec 1) (w : BitVec 1) (k : BitVec 10) (st : State) : Out :=
  fireElement st (elemWord 0x32 a b f r s w k)
/-- R285: element `fdiv`. -/
def execElemFdiv (a : BitVec 3) (b : BitVec 3) (f : BitVec 4) (r : BitVec 2) (s : BitVec 1) (w : BitVec 1) (k : BitVec 10) (st : State) : Out :=
  fireElement st (elemWord 0x33 a b f r s w k)
/-- R285: element `fmin`. -/
def execElemFmin (a : BitVec 3) (b : BitVec 3) (f : BitVec 4) (w : BitVec 1) (k : BitVec 10) (st : State) : Out :=
  fireElement st (elemWord 0x34 a b f 0 0 w k)
/-- R285: element `fmax`. -/
def execElemFmax (a : BitVec 3) (b : BitVec 3) (f : BitVec 4) (w : BitVec 1) (k : BitVec 10) (st : State) : Out :=
  fireElement st (elemWord 0x35 a b f 0 0 w k)
/-- R285: element `fabs`. -/
def execElemFabs (a : BitVec 3) (f : BitVec 4) (w : BitVec 1) (k : BitVec 10) (st : State) : Out :=
  fireElement st (elemWord 0x36 a 0 f 0 0 w k)
/-- R285: element `fneg`. -/
def execElemFneg (a : BitVec 3) (f : BitVec 4) (w : BitVec 1) (k : BitVec 10) (st : State) : Out :=
  fireElement st (elemWord 0x37 a 0 f 0 0 w k)
/-- R285: element `fsqrt`. -/
def execElemFsqrt (a : BitVec 3) (f : BitVec 4) (r : BitVec 2) (s : BitVec 1) (w : BitVec 1) (k : BitVec 10) (st : State) : Out :=
  fireElement st (elemWord 0x38 a 0 f r s w k)
/-- R285: element `frcp`. -/
def execElemFrcp (a : BitVec 3) (f : BitVec 4) (r : BitVec 2) (s : BitVec 1) (w : BitVec 1) (k : BitVec 10) (st : State) : Out :=
  fireElement st (elemWord 0x39 a 0 f r s w k)
/-- R285: element `frsqrt`. -/
def execElemFrsqrt (a : BitVec 3) (f : BitVec 4) (r : BitVec 2) (s : BitVec 1) (w : BitVec 1) (k : BitVec 10) (st : State) : Out :=
  fireElement st (elemWord 0x3A a 0 f r s w k)
/-- R285: element `fscale`. -/
def execElemFscale (a : BitVec 3) (b : BitVec 3) (f : BitVec 4) (r : BitVec 2) (s : BitVec 1) (w : BitVec 1) (k : BitVec 10) (st : State) : Out :=
  fireElement st (elemWord 0x3B a b f r s w k)
/-- R287: element `fexp2`. -/
def execElemFexp2 (a : BitVec 3) (f : BitVec 4) (r : BitVec 2) (s : BitVec 1) (w : BitVec 1) (k : BitVec 10) (st : State) : Out :=
  fireElement st (elemWord 0x40 a 0 f r s w k)
/-- R287: element `flog2`. -/
def execElemFlog2 (a : BitVec 3) (f : BitVec 4) (r : BitVec 2) (s : BitVec 1) (w : BitVec 1) (k : BitVec 10) (st : State) : Out :=
  fireElement st (elemWord 0x41 a 0 f r s w k)
/-- R287: element `ftanh`. -/
def execElemFtanh (a : BitVec 3) (f : BitVec 4) (r : BitVec 2) (s : BitVec 1) (w : BitVec 1) (k : BitVec 10) (st : State) : Out :=
  fireElement st (elemWord 0x42 a 0 f r s w k)
/-- R287: element `fsigm`. -/
def execElemFsigm (a : BitVec 3) (f : BitVec 4) (r : BitVec 2) (s : BitVec 1) (w : BitVec 1) (k : BitVec 10) (st : State) : Out :=
  fireElement st (elemWord 0x43 a 0 f r s w k)
/-- R287: element `fgelu`. -/
def execElemFgelu (a : BitVec 3) (f : BitVec 4) (r : BitVec 2) (s : BitVec 1) (w : BitVec 1) (k : BitVec 10) (st : State) : Out :=
  fireElement st (elemWord 0x44 a 0 f r s w k)
/-- R287: element `fsilu`. -/
def execElemFsilu (a : BitVec 3) (f : BitVec 4) (r : BitVec 2) (s : BitVec 1) (w : BitVec 1) (k : BitVec 10) (st : State) : Out :=
  fireElement st (elemWord 0x45 a 0 f r s w k)
/-- R287: element `ferf`. -/
def execElemFerf (a : BitVec 3) (f : BitVec 4) (r : BitVec 2) (s : BitVec 1) (w : BitVec 1) (k : BitVec 10) (st : State) : Out :=
  fireElement st (elemWord 0x46 a 0 f r s w k)
/-- R287: element `fsoftp`. -/
def execElemFsoftp (a : BitVec 3) (f : BitVec 4) (r : BitVec 2) (s : BitVec 1) (w : BitVec 1) (k : BitVec 10) (st : State) : Out :=
  fireElement st (elemWord 0x47 a 0 f r s w k)
/-- R288: element `cvt`. -/
def execElemCvt (a : BitVec 3) (f : BitVec 4) (r : BitVec 2) (s : BitVec 1) (w : BitVec 1) (t : BitVec 4) (st : State) : Out :=
  fireElement st (elemWord 0x48 a 0 f r s w (0#6 ++ t))
/-- R288: element `pack`; bit 10 of `wk` is `swap` and its low bits are `k`, which a source in the constant pool gives a value (R165). -/
def execElemPack (a : BitVec 3) (b : BitVec 3) (f : BitVec 4) (wk : BitVec 11) (st : State) : Out :=
  fireElement st (elemWord 0x49 a b f 0 0 (wk.extractLsb' 10 1) (wk.extractLsb' 0 10))
/-- R288: element `unpklo`. -/
def execElemUnpklo (a : BitVec 3) (f : BitVec 4) (w : BitVec 1) (st : State) : Out :=
  fireElement st (elemWord 0x4A a 0 f 0 0 w 0)
/-- R288: element `unpkhi`. -/
def execElemUnpkhi (a : BitVec 3) (f : BitVec 4) (w : BitVec 1) (st : State) : Out :=
  fireElement st (elemWord 0x4B a 0 f 0 0 w 0)
/-- R288: element `fround`. -/
def execElemFround (a : BitVec 3) (f : BitVec 4) (r : BitVec 2) (w : BitVec 1) (st : State) : Out :=
  fireElement st (elemWord 0x4C a 0 f r 0 w 0)
/-- R288: element `fsign`. -/
def execElemFsign (a : BitVec 3) (f : BitVec 4) (w : BitVec 1) (st : State) : Out :=
  fireElement st (elemWord 0x4D a 0 f 0 0 w 0)
/-- R289: element `iacc`. -/
def execElemIacc (a : BitVec 3) (b : BitVec 3) (f : BitVec 4) (s : BitVec 1) (w : BitVec 1) (st : State) : Out :=
  fireElement st (elemWord 0x50 a b f 0 s w 0)
/-- R289: element `facc`. -/
def execElemFacc (a : BitVec 3) (b : BitVec 3) (f : BitVec 4) (r : BitVec 2) (s : BitVec 1) (w : BitVec 1) (st : State) : Out :=
  fireElement st (elemWord 0x51 a b f r s w 0)
/-- R289: element `imaxr`. -/
def execElemImaxr (a : BitVec 3) (b : BitVec 3) (f : BitVec 4) (w : BitVec 1) (st : State) : Out :=
  fireElement st (elemWord 0x52 a b f 0 0 w 0)
/-- R289: element `fmaxr`. -/
def execElemFmaxr (a : BitVec 3) (b : BitVec 3) (f : BitVec 4) (w : BitVec 1) (st : State) : Out :=
  fireElement st (elemWord 0x53 a b f 0 0 w 0)
/-- R289: element `famaxr`. -/
def execElemFamaxr (a : BitVec 3) (b : BitVec 3) (f : BitVec 4) (w : BitVec 1) (st : State) : Out :=
  fireElement st (elemWord 0x54 a b f 0 0 w 0)
/-- R289: element `cnt`. -/
def execElemCnt (a : BitVec 3) (b : BitVec 3) (f : BitVec 4) (w : BitVec 1) (st : State) : Out :=
  fireElement st (elemWord 0x55 a b f 0 0 w 0)

end Sys2Proof.Machine
end

