-- ==== Sys2Proof/Machine/Gather.lean ====
section
/-! DEFINITION. Gather and scatter (R143, R244, R245, R403, R407, R408, R413, R414). -/

namespace Sys2Proof.Machine

def gathToW (c : Cmd) : Bool := decide (bitsOf (cmdMinor c) 7 1 = 1)
def gathDec (c : Cmd) : Nat := bitsOf (cmdMinor c) 0 4
def gathFmt (c : Cmd) : Fmt := (fmtOfCode (gathDec c - 1)).getD .i8
def isScat (c : Cmd) : Bool := decide (bitsOf (cmdMinor c) 8 2 = 1)
def gathCount (c : Cmd) : Nat := descField c 24 4
def gathRow (c : Cmd) : Nat := descField c 28 4
def gathList (c : Cmd) : Nat := descField c 16 8

/-- The reason of R389 for which a gather or scatter is refused (R244). DESIGN CHOICE (log 109): the contiguous side is a multiple of 64 in V as
in W, and a `rowbytes` that is no multiple of the format's width has reason 7. -/
def gathReason (c : Cmd) : Nat :=
  issueReason [
    (3, gathToW c && decide (bufSize 0 < c.gb.toNat + gathCount c * gathRow c)),
    (4, decide (c.gb.toNat % 64 ≠ 0 ∨ gathList c % 4 ≠ 0)),
    (5, decide (16777216 < gathCount c ∨ gathRow c = 0 ∨ 65536 < gathRow c)),
    (7, decide (gathDec c ≠ 0) && decide (gathRow c % (fmtWidth (gathFmt c) / 8) ≠ 0))]

/-- A gather or scatter is checked and queued at the cluster's gather queue (R209, R210, R244). -/
def issueGather (s : State) (ok : Bool) (a b : BitVec 5) (minor : Nat) : Out :=
  checked s ok (fun t th =>
    readDesc s t th (regGet th a) 32 (fun s bs =>
      let c := newCmd t th (formE 0x35 0 a.toNat b.toNat minor) (regGet th a) (regGet th b) bs
      issueCmd s t 9 (gathReason c) c (fun s => s)))
/-- R244: `gath`. -/
def execGath (a b : BitVec 5) (w : BitVec 1) (e : BitVec 4) (s : State) : Out := issueGather s (gathOk e) a b (128 * w.toNat + e.toNat)
/-- R244: `scat`. -/
def execScat (a b : BitVec 5) (s : State) : Out := issueGather s true a b 256

/-- The address of the indexed row of an index (R245), exact. -/
def indexedRow (c : Cmd) (idx : Nat) : Int := (descField c 0 8 : Int) + (idx : Int) * signedOf 64 (descField c 8 8)

/-- What an index-list entry says (R245). -/
inductive IndexRead where
  | row (idx : Nat)
  | skip
  | bad
  | part (p : Part1)
  deriving DecidableEq, Repr
/-- What the entry's value says; 2^32 stands for one read with an uncorrectable error. -/
def indexOf (v : Nat) : IndexRead := if v = 2 ^ 32 then .bad else if v = 0xFFFFFFFF then .skip else .row v
/-- Entry `e` of the index list, from the command's memo where it has been read (R212). -/
def readIndex (s : State) (c : Cmd) (who : PeerWho) (e : Nat) : State × Cmd × IndexRead :=
  match tblGet e c.memo with
  | some v => (s, c, indexOf v)
  | none =>
    match vGet s c who (gathList c + 4 * e) 4 with
    | (s, .fail r a p) => (s, c, .part (.stop r a p false))
    | (s, .ok bs pm) =>
      if pendingFor s who then (s, c, .part .pending) else
      let v := if anyPoison pm then 2 ^ 32 else leNat bs
      (s, { c with memo := tblSet e v c.memo }, indexOf v)

/-- A row that has been read is kept until it has been written (R212), and then forgotten. -/
def keepRow (c : Cmd) (e : Nat) (bs : List Byte) (pm : List Bool) : Cmd := { c with memo := tblSet (2 ^ 32 + e) (rowCode bs pm) c.memo }
def keptRow (c : Cmd) (e : Nat) : List Byte × List Bool := rowOf (gathRow c) ((tblGet (2 ^ 32 + e) c.memo).getD 0)
def dropRow (c : Cmd) (e : Nat) : Cmd := { c with memo := tblDel e (tblDel (2 ^ 32 + e) c.memo) }
/-- A row is written to V line by line; it is kept while a line of it may have to be written yet (R212). -/
def rowOut (held : State → Cmd → Nat → Nat → Bool) (cl e va : Nat) (bs : List Byte) (pm : List Bool) (s : State) (c : Cmd) : State × Cmd × Part1 :=
  let r := putLines held cl 9 e va bs pm s (keepRow c e bs pm) (List.range (lineCount va bs.length))
  (r.1, if linesOpen r.1 cl 9 r.2 e then r.2 else dropRow r.2 e, .done false)

/-- What there is to write of a row. -/
inductive RowRead where
  | data (bs : List Byte) (pm : List Bool)
  | skip
  | part (p : Part1)
  deriving DecidableEq, Repr

/-- Where the contiguous row `e` lies (R245), and its writing by `gath`. -/
def flatRow (c : Cmd) (e : Nat) : Nat := c.gb.toNat + e * gathRow c
def writeRow (s : State) (cl : Nat) (c : Cmd) (e : Nat) (bs : List Byte) (pm : List Bool) : State × Cmd × Part1 :=
  if gathToW c then (putBytesMap s (wCell cl (flatRow c e)) bs pm, dropRow c e, .done (anyPoison pm))
  else rowOut neverHeld cl e (flatRow c e) bs pm s c

/-- The bytes of row `e` of a `gath`: free, and poisoned, where its index was read with an error (R245). -/
def gathRead (s : State) (c : Cmd) (who : PeerWho) (e : Nat) : State × Cmd × RowRead :=
  let n := gathRow c
  match readIndex s c who e with
  | (s, c, .part p) => (s, c, .part p)
  | (s, c, .skip) => (s, c, .skip)
  | (s, c, .bad) => ({ s with free := s.free + n }, c, .data (freeBytes s.free n) (List.replicate n true))
  | (s, c, .row idx) =>
    let src := indexedRow c idx
    if !exactOk src then (s, c, .part (.stop 1 (addrNat src) 0 false))
    else if gathDec c ≠ 0 then
      match decodeFrom s c who src.toNat (gathFmt c) 0 (n / (fmtWidth (gathFmt c) / 8)) with
      | (s, .inr p) => (s, c, .part p)
      | (s, .inl (bs, pm)) => (s, c, .data bs pm)
    else
      match vGet s c who src.toNat n with
      | (s, .fail r a p) => (s, c, .part (.stop r a p false))
      | (s, .ok bs pm) => if pendingFor s who then (s, c, .part .pending) else (s, c, .data bs pm)

/-- Row `i` of a `gath`, or a line of one that could not be written before (R245). -/
def gathPart (cl : Nat) (s : State) (c : Cmd) (i : Nat) : State × Cmd × Part1 :=
  let e := idxPart i
  if 2 ^ 32 ≤ i then
    let row := keptRow c e
    let r := linePart neverHeld cl 9 e (flatRow c e) row.1 row.2 s c (idxLine i)
    (r.1, c, r.2)
  else
    match gathRead s c (.unit cl 9 e) e with
    | (s, c, .part p) => (s, c, p)
    | (s, c, .skip) => (s, dropRow c e, .done false)
    | (s, c, .data bs pm) => writeRow s cl c e bs pm

/-- Whether two ranges of virtual memory may share a byte, by pages that lie on one frame: pages begin at multiples of 64 KiB (R105). -/
def mayShare (a n b m : Nat) : Bool := decide ((b + 65536 - a % 65536) % 65536 < n ∨ (a + 65536 - b % 65536) % 65536 < m)

/-- Whether a part or line of an earlier row that is not yet written may share a byte with `n` bytes at `a` (R143). -/
def earlierShares (c : Cmd) (e a n : Nat) (f : Frost) : Bool :=
  decide (idxPart f.idx < e) &&
  (match (tblGet (idxPart f.idx) c.memo).map indexOf with
   | some (.row j) =>
     let r := addrNat (indexedRow c j)
     let l := if 2 ^ 32 ≤ f.idx then lineAt r (gathRow c) (idxLine f.idx) else (r, gathRow c)
     mayShare l.1 l.2 a n
   | some .skip => false
   | _ => true)
/-- Whether `n` bytes of row `e` at `a` wait for an earlier row's, not yet written or not yet acknowledged by their peer (R143). -/
def scatHeld (cl e : Nat) (s : State) (c : Cmd) (a n : Nat) : Bool :=
  c.frost.any (earlierShares c e a n) ||
  s.requests.any (fun r => match r.2.who with
    | .unit b 9 i => b == cl && decide (idxPart i < e ∧ r.2.type = 3) && mayShare r.2.addr r.2.len a n
    | _ => false)

/-- Row `i` of a `scat`, or a line of one that could not be written before (R245). -/
def scatPart (cl : Nat) (s : State) (c : Cmd) (i : Nat) : State × Cmd × Part1 :=
  let e := idxPart i
  let who : PeerWho := .unit cl 9 e
  match readIndex s c who e with
  | (s, c, .part p) => (s, c, p)
  | (s, c, .skip) => (s, dropRow c e, .done false)
  | (s, c, .bad) => (s, c, .ends 12 (gathList c + 4 * e) e)
  | (s, c, .row idx) =>
    let dst := indexedRow c idx
    if 2 ^ 32 ≤ i then
      let row := keptRow c e
      let r := linePart (scatHeld cl e) cl 9 e dst.toNat row.1 row.2 s c (idxLine i)
      (r.1, c, r.2)
    else
      match vGet s c who (flatRow c e) (gathRow c) with
      | (s, .fail r a p) => (s, c, .stop r a p false)
      | (s, .ok bs pm) =>
        if pendingFor s who then (s, c, .pending)
        else if !exactOk dst then (s, c, .stop 1 (addrNat dst) 0 true)
        else rowOut (scatHeld cl e) cl e dst.toNat bs pm s c

/-- The rows of the command of the gather queue that can be performed are; with the last, it completes (R143, R408). -/
def gatherRun (s : State) (cl : Nat) (c : Cmd) : State :=
  let r := runParts (if isScat c then scatPart cl else gathPart cl) s c (partsToTry c (gathCount c) (decide (c.step = 1)))
  let s := modRunning r.1 cl 9 (fun _ => { r.2 with step := 1 })
  if cmdEnds s cl 9 r.2 then completeCmd s cl 9 else s

/-- R245: the `gath` that runs in cluster `c`. -/
def execGathExecute (c : Nat) (s : State) : Out :=
  .next (
    match (unitAt s c 9).running with
    | some k => if cmdMajor k = 0x35 ∧ !isScat k then gatherRun s c k else s
    | none => s)
/-- R245: the `scat` that runs in cluster `c`. -/
def execScatExecute (c : Nat) (s : State) : Out :=
  .next (
    match (unitAt s c 9).running with
    | some k => if cmdMajor k = 0x35 ∧ isScat k then gatherRun s c k else s
    | none => s)

end Sys2Proof.Machine
end

