-- ==== Sys2Proof/Machine/MemElems.lean ====
section
/-! DEFINITION. Memory elements: firing, wave order, translation, access and reply (R123, R136, R137, R281, R291 to R298, R320,
R402 to R407). -/

namespace Sys2Proof.Machine

/-! Words and addresses. -/

/-- Memory opcodes that wait on a full/empty word (R292). -/
def memWaits (op : Nat) : Bool := decide (0x83 ≤ op ∧ op ≤ 0x85)
/-- The code by which `amoNew` knows an atomic (R297). -/
def memAmo (op : Nat) : Nat :=
  match op with
  | 0x86 => 1
  | 0x87 => 6
  | 0x88 => 5
  | 0x89 => 0
  | 0x8A => 2
  | 0x8B => 3
  | _ => 4
def memSpaceOf (w : BitVec 32) : Space :=
  match memSpace w with
  | 0 => .i
  | 1 => .v
  | 2 => .a
  | _ => .c

/-- The address of a firing (R291): launch constants 1 and 0 form the V window base. -/
def memAddress (fm : Form) (w : BitVec 32) (o : BitVec 32) : Nat :=
  if memSpaceOf w = .v then ((poolEntry fm 1).toNat * 2 ^ 32 + (poolEntry fm 0).toNat + o.toNat) % 2 ^ 64 else o.toNat

/-- The fault of an address, by its reason of R407; 0 for none (R291). `pfch` has none (R298). -/
def addrReason (fm : Form) (w : BitVec 32) (a : Nat) : Nat :=
  if elemOp w = 0x8D then 0
  else if memWidth w ≤ 2 ∧ a % 2 ^ memWidth w ≠ 0 then 1
  else match memSpaceOf w with
    | .i => if fm.isles.length * 65536 ≤ a then 2 else 0
    | .a => if bufSize 1 ≤ a then 2 else 0
    | .c => if bufSize 2 ≤ a then 2 else 0
    | _ => if 2 ^ 57 ≤ a then 3 else 0

/-- The cell of an address on chip: scratch islands by their number (R123), A and C of the home cluster (R248). -/
def nodeCell (fm : Form) (p : Space) (a : Nat) : Nat :=
  match p with
  | .i => islandCell (fm.isles.getD (a / 65536) 0) (a % 65536)
  | .a => aCell (fm.home.getD 0) a
  | _ => cCell (fm.home.getD 0) a
def noTarget : Target := ⟨false, 0, 0, 0, 0, 0⟩

/-! Order (R136, R137, R294). -/

def performed (a : Access) : Bool :=
  match a.stage with
  | .stand _ | .done _ => true
  | _ => false
def isWaiting (a : Access) : Bool :=
  match a.stage with
  | .waiting _ => true
  | _ => false
def linked (w : BitVec 32) : Bool := decide (memPred w ≠ 63 ∨ memSucc w ≠ 63)

/-- Whether element `b` follows element `a` in a wave chain (R136). -/
def follows (a b : Node) : Bool :=
  decide (a.cls = 1 ∧ b.cls = 1 ∧ a.loops.head? = b.loops.head? ∧ memPred (curWord b) = memOwn (curWord a) ∧
    memSucc (curWord a) = memOwn (curWord b) ∧ memPred (curWord b) ≠ 63)
/-- The elements before, or after, a node in its chain. -/
def chainFrom (fm : Form) (before : Bool) (nd : Node) : Nat → List Node
  | 0 => []
  | k + 1 =>
    match fm.nodes.find? (fun m => isActive m && (if before then follows m nd else follows nd m)) with
    | some m => m :: chainFrom fm before m k
    | none => []
/-- The first `n` accesses of an element are performed; one that a cut has given up is not (R320). -/
def performedTo (nd : Node) (n : Nat) : Bool := decide (n ≤ nd.began) && (nd.accs ++ nd.kept).all (fun a => decide (n ≤ a.seq) || performed a)

/-- The bytes that an access may touch at its target: under width 3 its page. -/
def targetSpan (a : Access) (t : Target) : Nat × Nat := if memWidth a.word = 3 then (pageBase t, 2 ^ t.bits) else (t.pa, 2 ^ memWidth a.word)
/-- The bytes that an access may touch within a 64 KiB page while its target is not known: under width 3 all of them. -/
def pageSpan (a : Access) : Nat × Nat := if memWidth a.word = 3 then (0, 65536) else (a.addr % 65536, 2 ^ memWidth a.word)
/-- Whether two accesses of an element may overlap: by their physical bytes; while a place in V is not known, whatever page it may be. -/
def mayOverlap (a b : Access) : Bool :=
  decide (memSpace a.word = memSpace b.word) &&
  (if memSpaceOf a.word ≠ .v then overlaps a.addr (2 ^ memWidth a.word) b.addr (2 ^ memWidth b.word)
   else match a.stage, b.stage with
    | .ready t _, .ready u _ =>
      decide (t.peer = u.peer ∧ t.dev = u.dev) &&
      overlaps (targetSpan a t).1 (targetSpan a t).2 (targetSpan b u).1 (targetSpan b u).2
    | _, _ => overlaps (pageSpan a).1 (pageSpan a).2 (pageSpan b).1 (pageSpan b).2)

/-- Whether an access may be performed now: in wave order in a chain, after earlier overlapping accesses otherwise (R137); one that waits
or is frozen holds back no other (R294, R296). -/
def inOrder (fm : Form) (nd : Node) (a : Access) : Bool :=
  let earlier := nd.accs.filter (fun e => decide (e.seq < a.seq))
  if linked a.word then
    earlier.all performed &&
    (chainFrom fm true nd fm.nodes.length).all (fun m => performedTo m (a.seq + 1)) &&
    (chainFrom fm false nd fm.nodes.length).all (fun m => performedTo m a.seq)
  else earlier.all (fun e => performed e || !mayOverlap e a)

/-! Changes to an access. -/

/-- An access changes; the tokens that it withholds no more leave their slots free (R343, R403). -/
def modAccess (s : State) (f n seq : Nat) (g : Access → Access) : State :=
  modForm s f (fun fm => dateFreed s.tenths fm
    { modNode fm n (fun nd => { nd with accs := nd.accs.map (fun a => if a.seq = seq then g a else a) }) with moves := fm.moves + 1 } n)
def accessAt (nd : Node) (seq : Nat) : Option Access := nd.accs.find? (fun a => a.seq == seq)

/-- The replies of a node's accesses are emitted in firing order, as far as its output takes them (R294, R295). -/
def emitReplies (s : State) (f n : Nat) : Nat → State
  | 0 => s
  | k + 1 =>
    match formAt s f with
    | none => s
    | some fm =>
      match (fm.nodes[n]?).bind (fun nd => nd.accs.head?) with
      | some a =>
        let out (t : Tok) : State :=
          if !canEmit fm n 0 then s else
          let s := modForm s f (fun fm => modNode (emitOn s.tenths fm n 0 t) n (fun nd => { nd with accs := nd.accs.tail }))
          emitReplies (if (outArc fm n 0).isSome ∧ (fm.nodes[n]?).any (fun nd => nd.cls == 1) then countEmitted s fm.ctx t else s) f n k
        match a.stage with
        | .stand t | .done t => out t
        | _ => s
      | none => s

/-! Firing (R291 to R295, R298). -/

/-- The inputs that a memory element takes from. -/
def memPorts (w : BitVec 32) : List Nat := if memStores (elemOp w) then [0, 1] else [0]

/-- A control kind passes the element: it is forwarded, or absorbed by a sink (R47, R298). -/
def passMem (s : State) (f n : Nat) (w : BitVec 32) (ins : List (Nat × Flit)) (t : Tok) : State :=
  let s := noteFiring s f n ins [0]
  let s := modForm s f (fun fm =>
    let sink := (outArc fm n 0).isNone && memStores (elemOp w)
    let fm := ins.foldl (fun fm i => takeAt s.tenths fm n i.1 0) fm
    modNode (emitOn s.tenths fm n 0 t) n (fun nd =>
      { notePassed nd t with
        sel := if isSwapEos t && nd.memSwap then !nd.sel else nd.sel
        eos := nd.eos || (sink && decide (t.kind = 2) && !isSwapEos t) }))
  settleDrain s f

/-- A firing on DATA or NULL: the access it begins, or the stand-in (R293, R298). -/
def beginAccess (s : State) (f n : Nat) (fm : Form) (nd : Node) (w : BitVec 32) (ins : List (Nat × Flit)) : State :=
  let ta := ((ins.find? (fun i => i.1 == 0)).map (·.2.tok)).getD nullTok
  let tb := ((ins.find? (fun i => i.1 == 1)).map (·.2.tok)).getD (dataTok false 0)
  let a := memAddress fm w ta.data
  let stage : Stage :=
    if ta.kind = 1 ∨ tb.kind = 1 then .stand nullTok
    else if ta.poison then .stand (dataTok true 0)
    else if memSpaceOf w = .v then .begun else .ready noTarget (nodeCell fm (memSpaceOf w) a)
  let access := decide (ta.kind = 0 ∧ tb.kind = 0) && !ta.poison
  let r := addrReason fm w a
  let s := noteFiring s f n ins [0]
  let s := modForm s f (fun fm =>
    dateFreed s.tenths fm (modNode (ins.foldl (fun fm i => takeFrom fm n i.1 0) fm) n (fun nd => { nd with
      began := nd.began + 1
      accs := nd.accs ++ [{ seq := nd.began, word := w, ta := ta, tb := tb, addr := a, stage := stage, froze := none, got := [] }] })) n)
  if access && decide (r ≠ 0) then nodeFault s f n r a 0 else emitReplies s f n (nd.accs.length + 1)

/-- The first access that is not performed waits on a full/empty word. -/
def waitsFirst (nd : Node) : Bool := ((nd.accs.find? (fun a => !performed a)).map isWaiting).getD false
/-- A node that keeps tokens for the restore, or has taken the MARK: it performs no further access before that. -/
def keepsBack (nd : Node) : Bool := !nd.held.isEmpty || !nd.kept.isEmpty || nd.marked
/-- The first access that is not performed is held back by its chain: an access before it in wave order is one that its node keeps for the restore
(DEDUCED, log 112). -/
def keptBehind (fm : Form) (nd : Node) : Bool :=
  match nd.accs.find? (fun a => !performed a) with
  | some a =>
    let last (before : Bool) (n : Nat) : Bool := (chainFrom fm before nd fm.nodes.length).any (fun m => keepsBack m && !performedTo m n)
    (match a.stage with
     | .ready _ _ => true
     | _ => false) && linked a.word && (last true (a.seq + 1) || last false a.seq)
  | none => false
/-- A cut that meets a node which waits on a word, or whose chain keeps it waiting, or a sink without a binding: the node keeps the tokens it
holds and those ahead of the marker (R320). -/
def holding (fm : Form) (nd : Node) : Bool :=
  decide (fm.phase = .cutting) && (!nd.held.isEmpty || !nd.kept.isEmpty || waitsFirst nd || keptBehind fm nd)

def ofNode (f n : Nat) : PeerWho → Bool
  | .node g m _ => decide (g = f ∧ m = n)
  | _ => false

/-- A node's accesses that are not performed are given up (R320), once no request that may be performed at a peer is on its way. They are kept in their order, with the answered ones behind them, whose
replies may not go ahead (R65); so are the tokens that an earlier restore offers still (R325). -/
def giveUp (s : State) (f n : Nat) : State :=
  match (formAt s f).bind (fun fm => (fm.nodes[n]?).map (fun nd => (fm, nd))) with
  | none => s
  | some (fm, nd) =>
    if nd.accs.any (fun a => isSent a.stage) then s else
    let s := disown (ofNode f n) (countFrosts s fm.ctx (nd.accs.filterMap (fun a => frozenOf a.stage)))
    let s := (nd.accs.filter (fun a => !performed a)).foldl (fun s a => dropWaiter (.node f n a.seq) s) s
    dateSlots fm f n (putNode s f n (fun nd => { nd with
      accs := nd.accs.takeWhile performed
      kept := nd.kept ++ nd.accs.dropWhile performed
      held := nd.held ++ nd.offer.map (fun o => (o.1, o.2.tok))
      offer := [] }))

/-- A step of a node that keeps tokens for a cut: it takes those ahead of the marker, and then the marker as passed (R320), which counts as any
node's (`markTurns`). -/
def holdTokens (s : State) (f n : Nat) (ports : List Nat) : State :=
  let s := giveUp s f n
  match formAt s f with
  | none => s
  | some fm =>
    if (fm.nodes[n]?).any (fun nd => nd.accs.any (fun a => isSent a.stage)) then s else
    let ins := ports.filterMap (fun p => (tokenAt fm n p 0).map (fun t => (p, t.tok)))
    match ins.filter (fun i => i.2.kind ≠ 4) with
    | i :: _ =>
      modForm s f (fun fm => modNode (takeAt s.tenths fm n i.1 0) n (fun nd => { nd with held := nd.held ++ [i] }))
    | [] =>
      match ins with
      | i :: _ =>
        if ins.length = ports.length ∧ canEmit fm n 0 ∧ (fm.nodes[n]?).any (fun nd => nd.accs.isEmpty) then
          modForm s f (fun fm => modNode (emitOn s.tenths (ports.foldl (fun fm p => takeAt s.tenths fm n p 0) fm) n 0 i.2) n
            (fun nd => { nd with marked := true, fires := nd.fires + 1 }))
        else emitReplies s f n 17
      | [] => emitReplies s f n 17

/-- A firing of the current memory element, whose active word is `w`. -/
def fireMem (s : State) (w : BitVec 32) : Out :=
  onNode s (fun f fm n nd =>
    if !able fm nd 1 || decide (memReason w ≠ 0) then s else
    let ports := memPorts w
    if holding fm nd then holdTokens s f n ports else
    let ins := ports.filterMap (fun p => (tokenAt fm n p 0).map (fun t => (p, t)))
    if ins.length < ports.length then s else
    match ins.find? (fun i => tokReason i.2.tok ≠ 0) with
    | some i => badToken s f n i.2.tok
    | none =>
      match ins.map (fun i => i.2.tok) with
      | t :: rest =>
        if isControl t || rest.any isControl then
          if isControl t && rest.all (matching t) then
            if nd.accs.isEmpty && canEmit fm n 0 then passMem s f n w ins t else s
          else mismatch s f n 3
        else if (nd.accs.filter (fun a => !performed a)).length < 16 then beginAccess s f n fm nd w ins
        else s
      | [] => s)

/-- A memory element word from its fields (R167). -/
def memWord (op : Nat) (own pred succ : BitVec 6) (width space : BitVec 3) : BitVec 32 :=
  BitVec.ofNat 8 op ++ own ++ pred ++ succ ++ width ++ space

/-- R293: `ld`. -/
def execMemLd (o p q : BitVec 6) (w sp : BitVec 3) (s : State) : Out := fireMem s (memWord 0x80 o p q w sp)
/-- R293: `lds`. -/
def execMemLds (o p q : BitVec 6) (w sp : BitVec 3) (s : State) : Out := fireMem s (memWord 0x81 o p q w sp)
/-- R293: `st`. -/
def execMemSt (o p q : BitVec 6) (w sp : BitVec 3) (s : State) : Out := fireMem s (memWord 0x82 o p q w sp)
/-- R296: `ldwf`. -/
def execMemLdwf (o p q : BitVec 6) (sp : BitVec 3) (s : State) : Out := fireMem s (memWord 0x83 o p q 2 sp)
/-- R296: `stwe`. -/
def execMemStwe (o p q : BitVec 6) (sp : BitVec 3) (s : State) : Out := fireMem s (memWord 0x84 o p q 2 sp)
/-- R296: `ldwk`. -/
def execMemLdwk (o p q : BitVec 6) (sp : BitVec 3) (s : State) : Out := fireMem s (memWord 0x85 o p q 2 sp)
/-- R297: `aadd`. -/
def execMemAadd (o p q : BitVec 6) (sp : BitVec 3) (s : State) : Out := fireMem s (memWord 0x86 o p q 2 sp)
/-- R297: `amax`. -/
def execMemAmax (o p q : BitVec 6) (sp : BitVec 3) (s : State) : Out := fireMem s (memWord 0x87 o p q 2 sp)
/-- R297: `amin`. -/
def execMemAmin (o p q : BitVec 6) (sp : BitVec 3) (s : State) : Out := fireMem s (memWord 0x88 o p q 2 sp)
/-- R297: `aswp`. -/
def execMemAswp (o p q : BitVec 6) (sp : BitVec 3) (s : State) : Out := fireMem s (memWord 0x89 o p q 2 sp)
/-- R297: `aand`. -/
def execMemAand (o p q : BitVec 6) (sp : BitVec 3) (s : State) : Out := fireMem s (memWord 0x8A o p q 2 sp)
/-- R297: `aor`. -/
def execMemAor (o p q : BitVec 6) (sp : BitVec 3) (s : State) : Out := fireMem s (memWord 0x8B o p q 2 sp)
/-- R297: `axor`. -/
def execMemAxor (o p q : BitVec 6) (sp : BitVec 3) (s : State) : Out := fireMem s (memWord 0x8C o p q 2 sp)
/-- R298: `pfch`. -/
def execMemPfch (o p q : BitVec 6) (s : State) : Out := fireMem s (memWord 0x8D o p q 0 1)

/-! Translation (R104, R293, R402, R403). -/

/-- The masks of a node's accesses: a stream port's are those of its binding, others those of the formation (R116). -/
def nodeMasks (s : State) (fm : Form) (nd : Node) : Masks :=
  match portOf fm nd with
  | some cp => match (portAt s cp.1 cp.2).bindings with
    | b :: _ => b.masks
    | [] => fm.masks
  | none => fm.masks

/-- Whether a node's access stores, and what it needs (R107). -/
def accessStores (nd : Node) (a : Access) : Bool := if nd.cls = 5 then portSink nd.word else memStores (elemOp a.word)
def accessNeed (nd : Node) (a : Access) : Need :=
  if nd.cls = 5 then (if portSink nd.word then needWrite else needRead)
  else
    let op := elemOp a.word
    if memWaits op then ⟨true, true, false, true⟩
    else if memAtomic op then needBoth
    else if op = 0x82 then needWrite else needRead

/-- The fault of a decoding access at its target (R293, R407): reason and detail; reason 0 for none. -/
def decodeReason (a : Access) (t : Target) : Nat × Nat :=
  if memWidth a.word ≠ 3 then (0, 0)
  else if t.fmt ≤ 8 then (if t.pa % plainSize t.fmt ≠ 0 then (1, 0) else (0, 0))
  else if elemOp a.word = 0x82 ∧ 10 ≤ t.fmt then (4, t.fmt)
  else
    let e := t.pa % 2 ^ t.bits
    if pastElems (2 ^ t.bits) t.fmt t.geom e then (5, e) else (0, 0)

/-- An access freezes, or freezes again: its hold counts from its first freeze (R403, R405). -/
def freezeAccess (s : State) (f n seq addr reason : Nat) (store : Bool) (fpage : Nat) : State :=
  match (formAt s f).bind (fun fm => (fm.nodes[n]?).bind (fun nd => accessAt nd seq)) with
  | none => s
  | some a =>
    let z : Freeze := ⟨addr, reason, store, a.froze.getD s.now, s.now, fpage, s.nextInval⟩
    freezeRecord (modAccess s f n seq (fun a => { a with stage := .frozen ⟨0, false, z⟩, froze := some z.since })) f n z .v

/-- The walk for an access that has begun, or has been woken, which walks afresh (R404). An access that comes to its place withholds its tokens
no more (R343). -/
def walkAccess (s : State) (f n seq : Nat) (fm : Form) (nd : Node) (a : Access) : State :=
  let pf := decide (nd.cls = 1 ∧ elemOp a.word = 0x8D)
  match (if a.addr < 2 ^ 57 then translateAs a.froze.isSome s fm.ctx a.addr (if pf then ⟨false, false, false, false⟩ else accessNeed nd a) else (s, .fault 1)) with
  | (s, .ok t) =>
    if pf then dateSlots fm f n (answerAccess s f n seq (dataTok false 0)) else
    let d := if nd.cls = 1 then decodeReason a t else (0, 0)
    if d.1 ≠ 0 then nodeFault s f n d.1 a.addr d.2
    else dateSlots fm f n (setStage s f n seq (.ready t (if t.peer then 0 else hbmCell (nodeMasks s fm nd) t.pa)))
  | (s, .absent p) =>
    let s := startFill s fm.ctx p a.addr
    if pf then dateSlots fm f n (answerAccess s f n seq (dataTok false 0)) else freezeAccess s f n seq a.addr (absentReason s fm.ctx p) (accessStores nd a) p
  | (s, .fault r) =>
    if pf then dateSlots fm f n (answerAccess s f n seq (dataTok false 0))
    else if r = 1 ∨ 8 ≤ r then nodeFault s f n 9 a.addr r
    else freezeAccess s f n seq a.addr r (accessStores nd a) 0

/-- R104: a walk completes, for access `k` of node `y` of formation `x`; or, for a command on unit `y` of cluster `x`, for its frozen
part `k` that has been woken, whose access then follows as the unit's own step. -/
def execPageWalk (cmd : Bool) (x y k : Nat) (s : State) : Out :=
  .next (
    if cmd then
      match (unitAt s x y).running with
      | some c => match frostAt c k with
        | some z => if z.woken ∧ z.frz.vaddr < 2 ^ 57 then (translate s c.ctx z.frz.vaddr (if z.frz.store then needWrite else needRead)).1 else s
        | none => s
      | none => s
    else
      match formAt s x with
      | none => s
      | some fm =>
        match fm.nodes[y]? with
        | none => s
        | some nd =>
          match accessAt nd k with
          | none => s
          | some a =>
            if !formLive fm then s else
            match a.stage with
            | .begun => walkAccess s x y k fm nd a
            | .frozen z => if z.woken then walkAccess s x y k fm nd a else s
            | _ => s)

/-! Performing an access (R137, R281, R293 to R297, R413, R414). -/

/-- The bytes of a page of a node's target: here, or by the replies of its device. -/
def nodeRead (k : Masks) (f n : Nat) (x : Nat) (a : Access) (t : Target) : PageRead := fun s off m =>
  if t.peer then peerBytes s a.got (.node f n a.seq) x t.dev (pageBase t + off) m a.addr
  else memRead s (hbmCell k (pageBase t + off)) m

/-- A word read as a token (R281, R413): a word whose error this read detects gives 0. -/
def readTok (r : ReadOut) (v : BitVec 32) : Tok := dataTok (decide (r.reason ≠ 0)) (if r.reason = 1 then 0 else v)

/-- A load's token: `n` bytes at the place, zero- or sign-extended (R293). -/
def extendTok (sx : Bool) (r : ReadOut) : Tok :=
  let v := leNat r.bytes
  readTok r (if sx then BitVec.ofInt 32 (signedOf (8 * r.bytes.length) v) else BitVec.ofNat 32 v)

/-- A decoding load (R293); one that detects an error in what it reads gives 0 (R281). -/
def decodeLoad (s : State) (rd : PageRead) (t : Target) : State × Tok :=
  let off := t.pa % 2 ^ t.bits
  let tok (s' : State) (d : Dec) : Tok := if s'.errs = s.errs then dataTok d.poison (fill32 d.fmt d.bits) else dataTok true 0
  if t.fmt ≤ 8 then
    let r := decPlain rd s t.fmt off
    (r.1, tok r.1 r.2)
  else
    match decElem rd s (2 ^ t.bits) t.fmt t.geom off with
    | (s', some d) => (s', tok s' d)
    | (s', none) => (s', dataTok true 0)

/-- The byte of a format 9 page with one of its codes replaced (R293). -/
def putCode (old : Nat) (e v : Nat) : Nat := putBits old (2 * (e % 4)) 2 v

/-- The place of a format 9 element on its page. -/
def codePlace (t : Target) : Nat := pageBase t + t.pa % 2 ^ t.bits / 4
/-- One code of a byte on a peer page is changed as one access (R293): the byte is read, and exchanged for the byte with its new code where
it is still the same (log 94). -/
def peerCode (s : State) (f n : Nat) (x : Nat) (a : Access) (t : Target) (v : Nat) (p : Bool) : State :=
  let who : PeerWho := .node f n a.seq
  let r := peerBytes s a.got who x t.dev (codePlace t) 1 a.addr
  if pendingFor r.1 who then modForm r.1 f (fun fm => { fm with moves := fm.moves + 1 }) else
  let old := leNat r.2.bytes
  let q := sendRequest r.1 who x 5 t.dev (codePlace t) 1 false a.addr (leBytes (putCode old (t.pa % 2 ^ t.bits) (v % 4)) 1 ++ leBytes old 1) p 9
  setStage q.1 f n a.seq (.sent q.2)

/-- An access is performed, where its place is known and its order allows (R294). The token that is written passes from its residue to
the memory's check (R416). -/
def performAccess (s : State) (f n : Nat) (fm : Form) (a : Access) (t : Target) (c : Nat) : State :=
  let op := elemOp a.word
  let w := memWidth a.word
  let who : PeerWho := .node f n a.seq
  let v := a.tb.data
  let chk := if memStores op then checkResidue s f n a.tb else (s, a.tb)
  let s := chk.1
  let p := chk.2.poison
  let done (s : State) (t' : Tok) : State :=
    if t.peer && pendingFor s who then modForm s f (fun fm => { fm with moves := fm.moves + 1 }) else answerAccess s f n a.seq t'
  if memWaits op then
    let word : WordOp := if op = 0x83 then .takeFull else if op = 0x85 then .keepFull else .fillEmpty v p
    let k := wordKey fm.masks c
    settleTags (waitWord (setStage s f n a.seq (.waiting k)) k ⟨.node f n a.seq, word, c⟩) k
  else if memAtomic op then
    let r := memRead s c 4
    let old := leNat r.2.bytes
    if r.2.reason ≠ 0 then answerAccess r.1 f n a.seq (readTok r.2 (BitVec.ofNat 32 old)) else
    let s := match amoNew (memAmo op) 4 old v.toNat 0 with
      | some x => putBytes r.1 c (leBytes x 4) p
      | none => r.1
    let k := wordKey fm.masks c
    answerAccess (if isHbmCell c then settleTags (settleWord (setFull s k) k) k else s) f n a.seq (dataTok p (BitVec.ofNat 32 old))
  else if op = 0x82 then
    let n' := if w = 3 then plainSize t.fmt else 2 ^ w
    if w = 3 ∧ t.fmt = 9 then
      if t.peer then peerCode s f n fm.ctx a t v.toNat p else
      let e := t.pa % 2 ^ t.bits
      let r := memRead s (hbmCell fm.masks (codePlace t)) 1
      answerAccess (putBytes r.1 (hbmCell fm.masks (codePlace t)) (leBytes (putCode (leNat r.2.bytes) e (v.toNat % 4)) 1) p) f n a.seq (dataTok p 0)
    else if t.peer then
      let q := sendRequest s who fm.ctx 3 t.dev t.pa n' false a.addr (leBytes v.toNat n') p 0
      setStage q.1 f n a.seq (.sent q.2)
    else answerAccess (putBytes s c (leBytes v.toNat n') p) f n a.seq (dataTok p 0)
  else if w = 3 then
    let r := decodeLoad s (nodeRead fm.masks f n fm.ctx a t) t
    done r.1 r.2
  else if t.peer then
    let r := nodeRead fm.masks f n fm.ctx a t s (t.pa - pageBase t) (2 ^ w)
    done r.1 (extendTok (decide (op = 0x81)) r.2)
  else
    let r := memRead s c (2 ^ w)
    done r.1 (extendTok (decide (op = 0x81)) r.2)

/-- An atomic on a V address is the synchronisation engine's (R144, R297). -/
def onEngine (nd : Node) (a : Access) : Bool := decide (nd.cls = 1) && memAtomic (elemOp a.word) && decide (memSpaceOf a.word = .v)

/-- R294, R295: access `k` of node `n` of formation `f` is performed where its place is known and its order allows, and replies are
emitted in firing order. -/
def execMemAccessReply (f n k : Nat) (s : State) : Out :=
  .next (match formAt s f with
    | none => s
    | some fm =>
      match fm.nodes[n]? with
      | none => s
      | some nd =>
        if !formLive fm || decide (nd.cls ≠ 1 ∧ nd.cls ≠ 4) then s else
        let s := match accessAt nd k with
          | some a => match a.stage with
            | .ready t c => if nd.cls = 1 ∧ inOrder fm nd a ∧ !onEngine nd a ∧ !pendingFor s (.node f n k) then performAccess s f n fm a t c else s
            | _ => s
          | none => s
        emitReplies s f n 17)

/-- R144, R297: the synchronisation engine applies the atomic of access `k` of node `n` of formation `f` in its one order; on a peer page
the request goes to the owning device. -/
def execSyOperationApply (f n k : Nat) (s : State) : Out :=
  .next (match formAt s f with
    | none => s
    | some fm =>
      match fm.nodes[n]? with
      | none => s
      | some nd =>
        match accessAt nd k with
        | none => s
        | some a =>
          match a.stage with
          | .ready t c =>
            if !formLive fm || !onEngine nd a || !inOrder fm nd a then s
            else if t.peer then
              let r := checkResidue s f n a.tb
              let q := sendRequest r.1 (.node f n k) fm.ctx 5 t.dev t.pa 4 false a.addr (leBytes a.tb.data.toNat 4) r.2.poison (memAmo (elemOp a.word))
              setStage q.1 f n k (.sent q.2)
            else emitReplies (performAccess s f n fm a t c) f n 17
          | _ => s)

end Sys2Proof.Machine
end

