-- ==== Sys2Proof/Machine/Ports.lean ====
section
/-! DEFINITION. Stream ports and matrix nodes of formations (R47, R215 to R219, R299, R300, R320, R407, R408). -/

namespace Sys2Proof.Machine

/-! Stream ports. -/

/-- The bytes of an element of a port's format (R215). -/
def portBytes (nd : Node) : Nat := fmtWidth ((fmtOfCode (portFmt nd.word)).getD .i32) / 8

/-- The binding at the head of a port moves on by one access, and ends with its pattern; a source's binding that still has its EOS to
emit stays (R216). -/
def spend (sink : Bool) (q : Port) : Port :=
  match q.bindings with
  | b :: rest =>
    let b' := { b with pos := b.pos + 1 }
    { q with bindings := if bindAccesses b ≤ b.pos + 1 ∧ (sink ∨ !b.eos) then rest else b' :: rest, ordinal := if b.pos = 0 then q.ordinal + 1 else q.ordinal }
  | [] => q
/-- The binding at the head of a port ends (R216). -/
def endBinding (q : Port) : Port :=
  match q.bindings with
  | b :: rest => { q with bindings := rest, ordinal := if b.pos = 0 then q.ordinal + 1 else q.ordinal }
  | [] => q

/-- Where an access of a port begins: begun in V, at its place in A; or the reason and detail of R407 with which it fails (R215, R216). -/
def portStart (nd : Node) (cl : Nat) (b : Binding) : Except (Nat × Nat) Stage :=
  let a := bindAddr b b.pos
  let w := portBytes nd
  if a % (w : Int) ≠ 0 then .error (1, 0)
  else if b.spaceV then (if portWait nd.word then .error (8, 0) else if exactOk a then .ok .begun else .error (9, 1))
  else if a < 0 ∨ (bufSize 1 : Int) ≤ a then .error (2, 0)
  else .ok (.ready noTarget (aCell cl a.toNat))

/-- A port's bindings move on; those of a sink that have no access end at once (R216). -/
def movePort (s : State) (cp : Nat × Nat) (q : Port) : State := putBindings s cp.1 cp.2 (settlePort s cp.2 q)

/-- A port begins the access at the head of its binding; `t` is the token that a sink takes. -/
def beginPort (s : State) (f n : Nat) (nd : Node) (cl : Nat) (b : Binding) (t : Option Flit) : State :=
  let a := addrNat (bindAddr b b.pos)
  let s := noteFiring s f n ((t.map (fun t => (0, t))).toList) (if t.isSome then [] else [0])
  match portStart nd cl b with
  | .error r => nodeFault s f n r.1 a r.2
  | .ok st =>
    modForm s f (fun fm =>
      dateFreed s.tenths fm (modNode (if t.isSome then takeFrom fm n 0 0 else fm) n (fun nd => { nd with
        began := nd.began + 1
        accs := nd.accs ++ [{ seq := nd.began, word := nd.word, ta := (t.map (·.tok)).getD nullTok, tb := nullTok, addr := a, stage := st, froze := none, got := [] }] })) n)

/-- What a source port emits for an answered access: the element's bytes, filled (R79, R215); a waiting access has read the whole
word. -/
def portToken (nd : Node) (a : Access) (t : Tok) : Tok :=
  let f := (fmtOfCode (portFmt nd.word)).getD .i32
  if t.kind ≠ 0 then t
  else dataTok t.poison (fill32 f (lowBits (fmtWidth f) (if portWait nd.word then t.data.toNat / 2 ^ (8 * (a.addr % 4)) else t.data.toNat)))

/-- The access of a port whose place is known is performed (R215, R281). The token that a sink writes passes from its residue to the
memory's check (R416). -/
def performPort (s : State) (f n : Nat) (fm : Form) (nd : Node) (a : Access) (t : Target) (c : Nat) : State :=
  let w := portBytes nd
  let who : PeerWho := .node f n a.seq
  let k := wordKey fm.masks (c / 4 * 4)
  if portSink nd.word then
    let chk := checkResidue s f n a.ta
    let s := chk.1
    let p := chk.2.poison
    let bs := leBytes a.ta.data.toNat w
    if portWait nd.word then
      waitWord (setStage s f n a.seq (.waiting k)) k ⟨who', .putEmpty (c % 4) w (a.ta.data.toNat % 2 ^ (8 * w)) p, c / 4 * 4⟩
    else if t.peer then
      let q := sendRequest s who fm.ctx 3 t.dev t.pa w false a.addr bs p 0
      setStage q.1 f n a.seq (.sent q.2)
    else answerAccess (putBytes s c bs p) f n a.seq (dataTok false 0)
  else if portWait nd.word then waitWord (setStage s f n a.seq (.waiting k)) k ⟨who', .takeFull, c / 4 * 4⟩
  else if t.peer then
    let r := peerBytes s a.got who fm.ctx t.dev t.pa w a.addr
    if pendingFor r.1 who then modForm r.1 f (fun fm => { fm with moves := fm.moves + 1 })
    else answerAccess r.1 f n a.seq (readTok r.2 (BitVec.ofNat 32 (leNat r.2.bytes)))
  else
    let r := memRead s c w
    answerAccess r.1 f n a.seq (readTok r.2 (BitVec.ofNat 32 (leNat r.2.bytes)))
where who' : Who := .node f n a.seq

/-- The access of a port is completed: its binding moves on. -/
def completePort (sink : Bool) (s : State) (f n : Nat) (cp : Nat × Nat) : State :=
  putNode (movePort s cp (spend sink (portAt s cp.1 cp.2))) f n (fun nd => { nd with accs := nd.accs.tail })

/-- An injected token leaves a source (R47, R300, R320): a DRAIN discards the port's unfinished bindings (R217). -/
def emitInjected (s : State) (f n : Nat) (cp : Nat × Nat) (t : Tok) : State :=
  let s := if t.kind = 3 then freePort s cp else s
  let s := modForm s f (fun fm => modNode (emitOn s.tenths fm n 0 t) n (fun nd => notePassed (injected nd t) t))
  settleDrain s f

/-- An access of a source that waits on a word is given up for what is injected (R320). -/
def giveUpSource (s : State) (f n : Nat) (nd : Node) : State :=
  let s := match formAt s f with
    | some fm => countFrosts s fm.ctx (nd.accs.filterMap (fun a => frozenOf a.stage))
    | none => s
  let s := nd.accs.foldl (fun s a => dropWaiter (.node f n a.seq) s) (disown (ofNode f n) s)
  putNode s f n (fun nd => { nd with accs := [] })

/-- R215, R216, R300: the source stream port `n` of formation `f` takes its next step: it begins or completes the access at the next
pattern address, emits its DATA token, or emits EOS at a binding's end; or it emits what the formation injects. -/
def execSportSourceAccess (f n : Nat) (s : State) : Out :=
  .next (match formAt s f with
    | none => s
    | some fm =>
      match fm.nodes[n]? with
      | none => s
      | some nd =>
        match portOf fm nd with
        | none => s
        | some cp =>
          if !able fm nd 5 || portSink nd.word then s else
          let q := portAt s cp.1 cp.2
          match nd.accs with
          | a :: _ =>
            match a.stage with
            | .ready t c => if pendingFor s (.node f n a.seq) then s else performPort s f n fm nd a t c
            | .done t =>
              if canEmit fm n 0 then
                completePort false (modForm s f (fun fm => emitOn s.tenths fm n 0 (portToken nd a t))) f n cp
              else s
            | .waiting _ | .begun => if (injection s fm nd).isNone then s else giveUpSource s f n nd
            | .frozen _ => if fm.draining then giveUpSource s f n nd else s
            | _ => s
          | [] =>
            match injection s fm nd, q.bindings with
            | some t, _ => if canEmit fm n 0 then emitInjected s f n cp t else s
            | none, b :: _ =>
              if fm.tiles = 0 ∨ fm.phase = .cutting then s
              else if b.pos < bindAccesses b then (if canEmit fm n 0 then beginPort s f n nd cp.1 b none else s)
              else if b.eos then
                if canEmit fm n 0 then
                  modForm (movePort s cp (endBinding q)) f (fun fm => emitOn s.tenths fm n 0 (eosTok b.swap))
                else s
              else movePort s cp (endBinding q)
            | none, [] => s)

/-- R215, R216, R300: the sink stream port `n` of formation `f` takes its next step: it consumes a token and begins, performs or
completes the access at the next pattern address. -/
def execSportSinkAccess (f n : Nat) (s : State) : Out :=
  .next (match formAt s f with
    | none => s
    | some fm =>
      match fm.nodes[n]? with
      | none => s
      | some nd =>
        match portOf fm nd with
        | none => s
        | some cp =>
          if !able fm nd 5 || !portSink nd.word then s else
          let q := portAt s cp.1 cp.2
          if holding fm nd then holdTokens s f n [0] else
          match nd.accs with
          | a :: _ =>
            match a.stage with
            | .ready t c => if pendingFor s (.node f n a.seq) then s else performPort s f n fm nd a t c
            | .done _ => completePort true s f n cp
            | _ => s
          | [] =>
            match tokenAt fm n 0 0 with
            | none => s
            | some t =>
              if tokReason t.tok ≠ 0 then badToken s f n t.tok
              else if t.tok.kind = 3 ∨ t.tok.kind = 4 then
                let s := if t.tok.kind = 3 then freePort s cp else s
                let s := noteFiring s f n [(0, t)] []
                settleDrain (modForm s f (fun fm => modNode (takeAt s.tenths fm n 0 0) n (fun nd => notePassed nd t.tok))) f
              else
                match q.bindings with
                | [] => if fm.phase = .cutting then holdTokens s f n [0] else s
                | b :: _ =>
                  if t.tok.kind = 0 then beginPort s f n nd cp.1 b (some t)
                  else
                    let s := noteFiring s f n [(0, t)] []
                    let s := movePort s cp (if t.tok.kind = 1 then spend true q else endBinding q)
                    modForm s f (fun fm => modNode (takeAt s.tenths fm n 0 0) n (fun nd =>
                      { nd with eos := nd.eos || (decide (t.tok.kind = 2) && !isSwapEos t.tok) })))

/-! Matrix nodes (R299). -/

/-- The command that a matrix node issues for its two tokens (R225, R299). -/
def nodeCmd (f n : Nat) (fm : Form) (nd : Node) (a b : Nat) : Cmd :=
  let w := curWord nd
  { word := formE 0x32 (matStream w) 0 0 (bitsOf a 25 1 * 64 + matPair w)
    ga := BitVec.ofNat 64 (bitsOf a 0 15 * 64 + bitsOf a 15 10 * 2 ^ 32)
    gb := BitVec.ofNat 64 (bitsOf b 0 15 * 64 + bitsOf b 15 14 * 64 * 2 ^ 32 + matRnd w * 2 ^ 52 + (if matSat w then 2 ^ 54 else 0))
    desc := [], masks := fm.masks, tid := 0, ctx := fm.ctx, node := some (f, n), handle := 0, headAt := none, asked := none
    granted := false, power := 0, step := 0, la := 0, sum := 0, best := 0, bad := false, bk := none, waiting := false, frost := []
    froze := [], memo := [], got := [], lanes := [], rows := [], failed := false }

/-- A matrix node's entry for a firing. -/
def matrixEntry (nd : Node) (a b : Tok) (st : Stage) : Access :=
  { seq := nd.began, word := curWord nd, ta := a, tb := b, addr := 0, stage := st, froze := none, got := [] }

/-- The address of an operation's operand range that lies outside A, W or C (R299, R407). DESIGN CHOICE (log 97): the first byte outside, of
the first such range in that order. -/
def badOperand (c : Cmd) : Nat :=
  let out (b off n : Nat) : Option Nat := if bufSize b < off + n then some (max off (bufSize b)) else none
  let p := mmaPair c
  ((out 1 (mmaAoff c) (mmaSteps c * blockA p)).or ((out 0 (mmaBoff c) (mmaSteps c * blockB p)).or
    (out 2 (mmaCoff c) (1024 * entryBytes (pairEntry p))))).getD 0

/-- R299: matrix node `n` of formation `f` fires on its two tokens; a control kind that it forwards is no firing of it. -/
def execMatrixNodeFire (f n : Nat) (s : State) : Out :=
  .next (match formAt s f with
    | none => s
    | some fm =>
      match fm.nodes[n]? with
      | none => s
      | some nd =>
        match able fm nd 4, tokenAt fm n 0 0, tokenAt fm n 1 0 with
        | true, some a, some b =>
          let cl := fm.home.getD 0
          let u := matStream (curWord nd) % 4
          let ins := [(0, a), (1, b)]
          let take (s : State) (st : Stage) : State :=
            let s := noteFiring s f n ins [0]
            let s := modForm s f (fun fm =>
              modNode (takeAt s.tenths (takeAt s.tenths fm n 0 0) n 1 0) n (fun nd =>
                { nd with began := nd.began + 1, ops := nd.ops + (isSent st).toNat, accs := nd.accs ++ [matrixEntry nd a.tok b.tok st] }))
            emitReplies s f n 17
          if tokReason a.tok ≠ 0 then badToken s f n a.tok
          else if tokReason b.tok ≠ 0 then badToken s f n b.tok
          else if isControl a.tok || isControl b.tok then
            if !matching a.tok b.tok then mismatch s f n 4
            else if nd.accs.isEmpty && canEmit fm n 0 then
              let s := modForm s f (fun fm =>
                let fm := takeAt s.tenths (takeAt s.tenths fm n 0 0) n 1 0
                modNode (emitOn s.tenths fm n 0 a.tok) n (fun nd =>
                  { notePassed nd a.tok with sel := if isSwapEos a.tok && nd.shadowIdx.isSome then !nd.sel else nd.sel }))
              settleDrain s f
            else s
          else if 16 ≤ (nd.accs.filter (fun a => !performed a)).length then s
          else if a.tok.kind = 1 ∨ b.tok.kind = 1 then take s (.stand nullTok)
          else if a.tok.poison || b.tok.poison then take s (.stand (dataTok true 0))
          else
            let c := nodeCmd f n fm nd a.tok.data.toNat b.tok.data.toNat
            if bitsOf a.tok.data.toNat 26 6 ≠ 0 then nodeFault s f n 13 0 (tokBits a.tok)
            else if bitsOf b.tok.data.toNat 29 3 ≠ 0 then nodeFault s f n 13 0 (tokBits b.tok)
            else if !mmaInRange c then nodeFault s f n 2 (badOperand c) 0
            else
              let q := unitAt s cl u
              if 8 ≤ (unitCmds q).length then s
              else take (setQueue s cl u { q with queue := q.queue ++ [c] }) (.sent 0)
        | _, _, _ => s)

end Sys2Proof.Machine
end

