-- ==== Sys2Proof/Machine/Section.lean ====
section
/-! DEFINITION. Launching and arming sections by a thread, and the check of a launch's graph (R30 to R41, R246 to R249, R391). -/

namespace Sys2Proof.Machine

/-! Acceptance (R30 to R33). -/

/-- The tasks of a launch that have not completed, as the ready pool counts them (R33). -/
def openTasks (l : Launch) : Nat := if l.admitted then (l.tasks.filter (fun t => !isDone t)).length else l.resv
def poolTasks (s : State) : Nat := (s.launches.map (fun p => openTasks p.2)).sum

/-- What is known of `ntask` of a launch (R33): the number, or that a peer device has been asked for it, by a request. -/
inductive Peek where
  | tasks (n : Nat)
  | asks (key : Nat)
  deriving DecidableEq, Repr
/-- The tasks that a header with this `ntask` brings to the pool: none where it is read with an error or to be refused (R34, R39). -/
def headTasks (bs : List Byte) (bad : Bool) : Nat :=
  let n := leNat bs
  if bad ∨ n = 0 ∨ 4096 < n then 0 else n
/-- `ntask` of a graph's header (R33, R34): in memory, or in the flash page that a fill will bring, or asked of the peer device that holds it.
DESIGN CHOICE (log 99): a launch that is to be refused counts none. -/
def peekTasks (s : State) (x graph : Nat) (who : PeerWho) : State × Peek :=
  match translate s x (graph + 4) needRead with
  | (s, .ok t) =>
    if t.peer then
      let q := sendRequest s who x 1 t.dev t.pa 2 false (graph + 4) [] false 0
      (q.1, .asks q.2)
    else
      let r := memRead s (hbmCell (ctxMasks s x) t.pa) 2
      (r.1, .tasks (headTasks r.2.bytes (decide (r.2.reason ≠ 0))))
  | (s, .absent p) => (s, .tasks (headTasks (cellsRead s.cells (flashCell p ((graph + 4) % 65536)) 2) (setHas p s.flashBad)))
  | (s, .fault _) => (s, .tasks 0)

/-- The graph that a launch descriptor names (R30). -/
def descGraph (d : Nat) : Nat := bitsOf d 6 51 * 64

/-- Whether the ready pool is full for a launch of `n` tasks (R33). -/
def poolFull (s : State) (n : Nat) : Bool := decide (64 ≤ s.launches.length ∨ 16384 < poolTasks s + n)
/-- A launch descriptor, as a number, of a graph of `n` tasks is submitted (R30 to R33); false where the pool is full for it. -/
def submitLaunch (s : State) (x : Nat) (src : Source) (d daddr : Nat) (hold : Tbl Nat) (n : Nat) : State × Bool :=
  if poolFull s n then (s, false) else
  let prev := (s.lastOf.find? (fun p => decide (p.1 = src))).map (·.2)
  let l : Launch :=
    { ctx := x, source := src, event := bitsOf d 96 32, prio := bitsOf d 64 3, graph := descGraph d, overlap := decide (d % 2 = 1),
      admitted := false, anyFailed := false, prev := prev, tasks := []
      descBad := decide (bitsOf d 67 29 ≠ 0 ∨ bitsOf d 57 7 ≠ 0 ∨ bitsOf d 1 5 ≠ 0), daddr := daddr, resv := n, hold := hold,
      fill := none, got := [] }
  ({ s with
      launches := tblSet s.nextLaunch l s.launches
      lastOf := (src, s.nextLaunch) :: s.lastOf.filter (fun p => decide (p.1 ≠ src))
      nextLaunch := s.nextLaunch + 1 }, true)

/-- The commands of a thread that have not completed (R247): by unit; from 100 upward, its bindings by fabric port, but for those of a
source, which writes nothing (R209); and from 1000 upward, by their tags, the writes of discarded bindings that are on their way to peer devices
(R218). -/
def commandCounts (s : State) (t : Nat) : Tbl Nat :=
  let cl := clusterOf t
  let ports := (List.range 64).map (fun p =>
    let q := portAt s cl p
    (100 + p, if q.holder.isNone || sinkHeld s q then (q.bindings.filter (fun b => b.tid == t)).length else 0))
  let tags := (List.range 64).flatMap (fun p => (portAt s cl p).landing.filter (fun l => l.1 == t && (tblGet l.2 s.requests).isSome))
  tags.foldl (fun h l => tblSet (1000 + l.2) 1 h)
    ((allUnits.map (fun u => (u, ((unitCmds (unitAt s cl u)).filter (fun c => c.tid == t && c.node.isNone && !isMarker c)).length)) ++ ports).filter
      (fun p => p.2 != 0))

/-- The descriptor of a `glaunch` has been read: the launch is submitted, or the thread stalls while the pool is full (R33, R247); it waits for
the header where that lies on a peer's page. -/
def submitThread (s : State) (t : Nat) (th : Thread) (bs : List Byte) (a : Nat) : State :=
  let graph := descGraph (leNat bs)
  let r := match th.peek.filter (fun p => p.1 == graph) with
    | some p => (s, Peek.tasks p.2)
    | none => peekTasks s th.ctx graph (.thread t 1)
  match r with
  | (s, .asks k) => waitAt s t (.peer k)
  | (s, .tasks n) =>
    match submitLaunch s th.ctx (.thread t) (leNat bs) a (commandCounts s t) n with
    | (s, true) => retire (modThread s t (fun th => { th with peek := none })) t
    | (s, false) => waitAt s t (.full (.pool n))
/-- The header of a graph on a peer's page has been read for a `glaunch`, which is executed again. -/
def peekThread (s : State) (t : Nat) (addr n : Nat) : State := modThread s t (fun th => { th with peek := some (addr - 4, n) })

/-- R247: `glaunch`. The thread's earlier stores are performed first. DEDUCED (log 98): a descriptor whose read faults or meets poison traps
the thread, as the table of R390 lists; the launch is not submitted, so that the refusal of R39 does not arise. -/
def execGlaunch (a : BitVec 5) (s : State) : Out :=
  onThread s (fun t th =>
    let x := regGet th a
    if x.toNat % 16 ≠ 0 then raiseTrap s t (alignTrap .v false 4 x.toNat) else
    if !storesDone th then waitAt s t .retry else
    match place s t th .v x 16 needRead false none with
    | (s, .at_ (.cell c)) =>
      let r := memRead s c 16
      if r.2.reason ≠ 0 then raiseTrap r.1 t (poisonTrap .v false r.2.reason x.toNat) else submitThread r.1 t th r.2.bytes x.toNat
    | (s, .at_ (.peer dev pa)) =>
      let q := sendRequest s (.thread t 0) th.ctx 1 dev pa 16 false x.toNat [] false 0
      waitAt q.1 t (.peer q.2)
    | (s, q) => stopAt s t q)

/-! Arming (R248, R249). -/

/-- The last `n` elements of a list. -/
def lastN {α : Type} (n : Nat) (l : List α) : List α := l.drop (l.length - n)

/-- R248: `sarm`. -/
def execSarm (a b : BitVec 5) (s : State) : Out :=
  onThread s (fun t th =>
    readDesc s t th (regGet th a) 64 (fun s bs =>
      let g := leNat (bs.take 8)
      let reason := issueReason [
        (1, ((bs.drop 12).take 20).any (fun v => v ≠ 0)),
        (9, decide (g % 64 ≠ 0))]
      if reason ≠ 0 then raiseTrap s t (issueTrap reason)
      else if 8 ≤ th.openForms.length then waitAt s t (.full .armed) else
      match ctxOf s th.ctx with
      | none => s
      | some c =>
        let n := c.nextForm
        let consts := (List.range 8).map (fun k => BitVec.ofNat 32 (leNat ((bs.drop (32 + 4 * k)).take 4)))
        let fm := newForm s th.ctx th.launch th.task n (some t) (some (clusterOf t)) g (leNat ((bs.drop 8).take 4)) consts th.prio
        let s := modCtx (addForm s fm) th.ctx (fun c => { c with nextForm := n + 1 })
        let s := modThread s t (fun th => { th with
          armed := lastN 16 (th.armed ++ [(n, 3)]), openForms := setAdd n th.openForms })
        retireWith s t b (BitVec.ofNat 64 n)))

/-- R249: `fwait`. -/
def execFwait (a b : BitVec 5) (s : State) : Out :=
  onThread s (fun t th =>
    match th.armed.find? (fun p => decide (p.1 = (regGet th a).toNat)) with
    | none => retireWith s t b 2
    | some p => if p.2 = 3 then waitAt s t .retry else retireWith s t b (BitVec.ofNat 64 p.2))

/-! The check of a graph (R34 to R41, R391). -/

/-- A refusal: the reason, the table, the index and the address of the offending record (R391). -/
structure Refused where
  reason : Nat
  table : Nat
  idx : Nat
  addr : Nat
  deriving DecidableEq, Repr

/-- What a read or a check of a graph comes to. -/
inductive Graph1 (α : Type) where
  | ok (v : α)
  | refuse (r : Refused)
  | absent (fpage : Nat) (r : Refused)
  | pending

/-- A check of a launch: the state it reads, and what it comes to. -/
abbrev Checker (α : Type) := State → State × Graph1 α

def Checker.then {α β : Type} (m : Checker α) (f : α → Checker β) : Checker β := fun s =>
  match m s with
  | (s, .ok v) => f v s
  | (s, .refuse r) => (s, .refuse r)
  | (s, .absent p r) => (s, .absent p r)
  | (s, .pending) => (s, .pending)

/-- A record of `n` bytes is read under the context's masks (R39, R116). -/
def graphRead (n : Nat) (l : Launch) (va len table idx : Nat) : Checker (List Byte) := fun s =>
  match readVia false s l.ctx (ctxMasks s l.ctx) l.got (.pool n) needRead va len with
  | (s, .ok bs) => (s, .ok bs)
  | (s, .xlate _ _) => (s, .refuse ⟨10, table, idx, va⟩)
  | (s, .poison _ _) => (s, .refuse ⟨10, table, idx, va⟩)
  | (s, .absent p a) => (startFill s l.ctx p a, .absent p ⟨10, table, idx, va⟩)
  | (s, .peer _ _ _) => (s, .pending)

/-- The lowest reason among those that hold refuses the launch. -/
def graphCheck (cs : List (Nat × Bool)) (table idx addr : Nat) : Checker Unit := fun s =>
  let r := issueReason cs
  (s, if r = 0 then .ok () else .refuse ⟨r, table, idx, addr⟩)

def field (bs : List Byte) (off n : Nat) : Nat := leNat ((bs.drop off).take n)

/-- A task's record (R35), with its operand range. -/
def taskOf (bs : List Byte) : Task × Nat × Nat :=
  ({ isThread := decide (field bs 0 1 = 1), join := decide (field bs 1 1 % 2 = 1), set := field bs 6 2, entry := field bs 8 8,
     size := field bs 16 4, ovf := field bs 24 8, args := [field bs 32 8, field bs 40 8, field bs 48 8, field bs 56 8],
     decls := [], preds := [], state := .pending, readyAt := 0 }, field bs 2 2, field bs 4 1)
/-- What refuses a task's record (R39, R391). DESIGN CHOICE (log 55): a set above 255 that the thread is to join is a count out of range, and
an empty operand range that begins beyond the table lies outside it. -/
def taskReasons (bs : List Byte) (noperand : Nat) : List (Nat × Bool) :=
  let k := field bs 0 1
  [(2, decide (64 < field bs 4 1 ∨ (k = 1 ∧ field bs 1 1 = 1 ∧ 255 < field bs 6 2))),
   (4, decide ((k ≠ 1 ∧ k ≠ 2) ∨ 2 ≤ field bs 1 1 ∨ field bs 5 1 ≠ 0 ∨ field bs 20 4 ≠ 0 ∨
       (k = 2 ∧ (field bs 1 1 ≠ 0 ∨ field bs 6 2 ≠ 0 ∨ field bs 24 8 ≠ 0)))),
   (5, decide (noperand < field bs 2 2 + field bs 4 1)),
   (8, decide (k = 1 ∧ (field bs 16 4 % 256 ≠ 0 ∨ 32768 < field bs 16 4))),
   (9, decide ((k = 1 ∧ field bs 8 8 % 4 ≠ 0) ∨ (k = 2 ∧ field bs 8 8 % 64 ≠ 0)))]

/-- Records `i` to `i + n - 1` of a table, each read and checked in turn. -/
def readTable {α : Type} (n : Nat) (l : Launch) (base size table : Nat) (check : Nat → List Byte → List (Nat × Bool)) (get : List Byte → α) :
    Nat → Nat → Checker (List α)
  | _, 0 => fun s => (s, .ok [])
  | i, k + 1 =>
    (graphRead n l (base + size * i) size table i).then (fun bs =>
      (graphCheck (check i bs) table i (base + size * i)).then (fun _ =>
        (readTable n l base size table check get (i + 1) k).then (fun rest s => (s, .ok (get bs :: rest)))))

/-- Tiles of a tensor record (R36). DESIGN CHOICE (log 55): a tensor with no rows or columns, or with tiles of none, has no tiles, so that a
declaration that names it is out of bounds (R391). -/
def tilesOf (bs : List Byte) : Nat :=
  ((field bs 16 4 + field bs 24 2 - 1) / field bs 24 2) * ((field bs 20 4 + field bs 26 2 - 1) / field bs 26 2)
def tensorReasons (bs : List Byte) : List (Nat × Bool) := [(4, decide (field bs 28 4 ≠ 0))]

/-- An operand declaration (R37). -/
def declOf (bs : List Byte) : Decl := ⟨field bs 0 2, field bs 2 1, field bs 8 4, field bs 12 4⟩
def declReasons (tiles : List Nat) (bs : List Byte) : List (Nat × Bool) :=
  let d := declOf bs
  [(4, decide (d.access = 0 ∨ 4 < d.access ∨ field bs 3 5 ≠ 0)),
   (6, decide (d.last < d.first) || !(tiles[d.tensor]?).any (fun k => decide (d.last < k)))]

/-- An edge: `from` and `to` (R38). -/
def edgeOf (bs : List Byte) : Nat × Nat := (field bs 0 2, field bs 2 2)
def edgeReasons (ntask : Nat) (bs : List Byte) : List (Nat × Bool) :=
  [(7, decide ((edgeOf bs).2 ≤ (edgeOf bs).1 ∨ ntask ≤ (edgeOf bs).2))]

/-- The tasks with their declarations and predecessors. -/
def linkTasks (decls : List Decl) (edges : List (Nat × Nat)) : Nat → List (Task × Nat × Nat) → List Task
  | _, [] => []
  | j, (t, first, n) :: rest =>
    { t with decls := (decls.drop first).take n, preds := (edges.filter (fun e => e.2 == j)).map (·.1) } :: linkTasks decls edges (j + 1) rest

/-- The whole graph of a launch, read and checked (R39, R391). A table whose count is zero is not read (R34). -/
def checkGraph (n : Nat) (l : Launch) : Checker (List Task) :=
  (graphCheck [(4, l.descBad)] 5 0 l.daddr).then (fun _ =>
  (graphRead n l l.graph 64 0 0).then (fun h =>
    let nt := field h 4 2
    let ns := field h 6 2
    let no := field h 8 2
    let ne := field h 10 2
    let bad (count off k : Nat) : Bool := decide (count ≠ 0 ∧ field h off 8 % k ≠ 0)
    (graphCheck [(1, decide (field h 0 4 ≠ 1)),
      (2, decide (nt = 0 ∨ 4096 < nt ∨ 1024 < ns ∨ 16384 < ne)),
      (3, bad nt 16 64 || bad ns 24 32 || bad no 32 16 || bad ne 40 4),
      (4, decide (field h 12 4 ≠ 0 ∨ field h 48 16 ≠ 0))] 0 0 l.graph).then (fun _ =>
    (readTable n l (field h 16 8) 64 1 (fun _ bs => taskReasons bs no) taskOf 0 nt).then (fun tasks =>
    (readTable n l (field h 24 8) 32 2 (fun _ bs => tensorReasons bs) tilesOf 0 ns).then (fun tiles =>
    (readTable n l (field h 32 8) 16 3 (fun _ bs => declReasons tiles bs) declOf 0 no).then (fun decls =>
    (readTable n l (field h 40 8) 4 4 (fun _ bs => edgeReasons nt bs) edgeOf 0 ne).then (fun edges s =>
      (s, .ok (linkTasks decls edges 0 tasks))))))))) 

/-- A launch is refused as a whole: the record, and its event with status 1 (R391). -/
def refuseLaunch (s : State) (n : Nat) (l : Launch) (r : Refused) : State :=
  let s := writeRecord s l.ctx { plainRecord 0x21 r.reason 4 with
    launch := n, addr := r.addr, detail := r.idx % 2 ^ 32 + r.table * 2 ^ 32 }
  endLaunch s n l 1

/-- R33, R39 to R41, R391: the ready pool checks the graph of launch `l` and admits it whole, once it fits; its tasks without
predecessors become ready. A read that meets a page that is not present waits for the fill. -/
def execLaunchAdmit (l : Nat) (s : State) : Out :=
  .next (match tblGet l s.launches with
    | none => s
    | some k =>
      if k.admitted || k.fill.any (fun p => (tblGet (fillKey k.ctx p.1) s.fills).isSome) then s else
      match checkGraph l k s with
      | (s, .refuse r) => refuseLaunch s l k r
      | (s, .absent p r) => modLaunch s l (fun k => { k with fill := some (p, r.addr, r.idx % 2 ^ 32 + r.table * 2 ^ 32) })
      | (s, .pending) => s
      | (s, .ok ts) =>
        if 16384 < poolTasks s - k.resv + ts.length then s
        else refreshLaunch (modLaunch s l (fun k => { k with admitted := true, tasks := ts, fill := none, got := [] })) l)

end Sys2Proof.Machine
end

