-- ==== Sys2Proof/Machine/PoolSteps.lean ====
section
/-! DEFINITION. The ready pool: the order of items, thread dispatch, time slices, the size of a save area (R43, R310 to R315, R318,
R324, R348). -/

namespace Sys2Proof.Machine

/-! The order of items (R312, R313). -/

/-- An item that waits for dispatch. -/
structure Item where
  ctx : Nat
  prio : Nat
  readyAt : Nat
  launch : Nat
  task : Nat
  num : Nat
  deriving DecidableEq, Repr

/-- Effective priority (R312). -/
def effPrio (now prio readyAt : Nat) : Nat := min 7 (prio + (now - readyAt) / 256000)
/-- Dispatch order (R313); arm requests of one thread in the order of their numbers. -/
def itemBefore (now : Nat) (a b : Item) : Bool :=
  let ea := effPrio now a.prio a.readyAt
  let eb := effPrio now b.prio b.readyAt
  decide (eb < ea) || (decide (ea = eb) && (decide (a.readyAt < b.readyAt) || (decide (a.readyAt = b.readyAt) &&
    (decide (a.launch < b.launch) || (decide (a.launch = b.launch) && (decide (a.task < b.task) ||
      (decide (a.task = b.task) && decide (a.num < b.num))))))))
def firstItem (now : Nat) : List Item → Option Item
  | [] => none
  | i :: rest =>
    match firstItem now rest with
    | none => some i
    | some j => some (if itemBefore now j i then j else i)

/-- The ready thread tasks of a launch. -/
def threadItems (n : Nat) (l : Launch) : Nat → List Task → List Item
  | _, [] => []
  | j, t :: ts =>
    if t.isThread && decide (t.state = .ready) then ⟨l.ctx, l.prio, t.readyAt, n, j, 0⟩ :: threadItems n l (j + 1) ts
    else threadItems n l (j + 1) ts
def inPartition (s : State) (p x : Nat) : Bool := decide (partNum s x = p)
def readyThreads (s : State) (p : Nat) : List Item :=
  s.launches.flatMap (fun l =>
    if inPartition s p l.2.ctx && ctxRuns s l.2.ctx && !l.2.anyFailed then threadItems l.1 l.2 0 l.2.tasks else [])
/-- The section tasks and arm requests that wait for the placer; none of a failed launch (R384). -/
def formItem (fm : Form) : Item := ⟨fm.ctx, fm.prio, fm.readyAt, fm.launch, fm.task, fm.num⟩
def mayPlace (s : State) (fm : Form) : Bool :=
  decide (fm.phase = .ready) && ctxRuns s fm.ctx &&
  (fm.arm.isSome || !(tblGet fm.launch s.launches).any (fun l => l.anyFailed))
def readyForms (s : State) (p : Nat) : List Item :=
  s.forms.filterMap (fun f => if mayPlace s f.2 && inPartition s p f.2.ctx then some (formItem f.2) else none)
/-- A pre-empted context that may be restored (R325, R360, R369). -/
def mayRestore (s : State) (x : Nat) (c : Ctx) : Bool :=
  decide (c.phase = .suspended) && !c.hostHold && (!c.quotaOn || decide (0 < c.quota)) && (tblGet x s.saves).isSome
/-- The formations of a context in its save area. -/
def savedForms (s : State) (x : Nat) : Tbl Form := s.forms.filter (fun f => decide (f.2.ctx = x ∧ f.2.phase = .saved))
/-- The suspended threads and formations of a context (R310, R311). -/
def ctxItems (s : State) (x : Nat) : List Item :=
  match tblGet x s.saves with
  | some v => v.threads.map (fun t => ⟨x, t.2.prio, v.stamp, t.2.launch, t.2.task, 0⟩) ++
      (savedForms s x).map (fun f => { formItem f.2 with readyAt := v.stamp })
  | none => []
/-- The first suspended item of each context of a partition that may be restored. -/
def suspendedItems (s : State) (p : Nat) : List Item :=
  s.ctxs.filterMap (fun c => if mayRestore s c.1 c.2 && decide (c.2.part = p) then firstItem s.now (ctxItems s c.1) else none)

/-! The save area's size (R321, R323, R324). -/

/-- Every record is aligned to 4 KiB. -/
def formRecordBytes (nodes isles : Nat) : Nat := 256 + 336 * nodes + 69632 * isles
def saveBytes (threads clusters : Nat) (forms : List (Nat × Nat)) : Nat :=
  4096 + 4096 * threads + 0x5E8000 * clusters + (forms.map (fun f => roundUpTo 4096 (formRecordBytes f.1 f.2))).sum
def threadsOf (s : State) (x : Nat) : Tbl Thread := s.threads.filter (fun t => t.2.ctx == x)
def clustersOf (s : State) (x : Nat) : List Nat := (s.clusters.filter (fun c => decide (c.2.bound = some x))).map (·.1)
/-- The formations of a context that stand on the machine. -/
def placedForms (s : State) (x : Nat) : Tbl Form :=
  s.forms.filter (fun f => decide (f.2.ctx = x ∧ f.2.phase ≠ .ready ∧ f.2.phase ≠ .failed ∧ f.2.phase ≠ .saved))
def fitsSave (s : State) (x : Nat) (threads clusters : Nat) (more : List (Nat × Nat)) : Bool :=
  (ctxOf s x).any (fun c => decide (saveBytes ((threadsOf s x).length + threads) ((clustersOf s x).length + clusters)
    ((placedForms s x).map (fun f => (f.2.nodes.length, f.2.isles.length)) ++ more) ≤ c.savesz))

/-! Dispatch of threads (R43, R314). -/

/-- The clusters of a partition. -/
def partClusters (s : State) (p : Nat) : List Nat :=
  match tblGet p s.parts with
  | some q => (List.range 64).filter (fun c => q.clusters.testBit c)
  | none => []
/-- A cluster for a thread: bound before unbound, most free slots, lowest number. -/
def betterCluster (s : State) (a b : Nat) : Bool :=
  let ba := (clusterAt s a).bound.isSome
  let bb := (clusterAt s b).bound.isSome
  if ba ≠ bb then ba else
  let fa := (usedSlots s a).length
  let fb := (usedSlots s b).length
  if fa ≠ fb then decide (fa < fb) else decide (a < b)
def bestCluster (s : State) : List Nat → Option Nat
  | [] => none
  | c :: rest =>
    match bestCluster s rest with
    | none => some c
    | some d => some (if betterCluster s d c then d else c)
def pickCluster (s : State) (x : Nat) : Option Nat :=
  bestCluster s ((partClusters s (partNum s x)).filter (fun c =>
    ((clusterAt s c).bound.isNone || decide ((clusterAt s c).bound = some x)) && decide ((usedSlots s c).length < 16)))

/-- A thread task's cluster, where it can be dispatched now (R314, R324). -/
def threadPlace (s : State) (i : Item) : Option Nat :=
  match pickCluster s i.ctx with
  | some c => if fitsSave s i.ctx 1 (if (clusterAt s c).bound.isSome then 0 else 1) [] then some c else none
  | none => none

/-- Clusters of a partition that a restore may take (R325). -/
def freeClusters (s : State) (p : Nat) : List Nat :=
  (partClusters s p).filter (fun k => (clusterAt s k).bound.isNone && (usedSlots s k).isEmpty)
/-- A context lacks clusters for its images. -/
def lacksClusters (s : State) (x : Nat) : Bool :=
  (tblGet x s.saves).any (fun v => decide ((freeClusters s (partNum s x)).length < v.images.length))
/-- A cluster is bound to a context; one that last served another is cleared first (R314). -/
def bindCluster (s : State) (c x : Nat) : State :=
  if (clusterAt s c).bound.isSome then s else
  let s := if (clusterAt s c).lastCtx = some x then s else clearCluster s c
  modCluster s c (fun k => { k with bound := some x })

/-- The state in which a thread starts (R43). -/
def startThread (s : State) (x n j : Nat) (l : Launch) (t : Task) (tid : Nat) : Thread :=
  let args := t.args.zip [1, 2, 3, 4]
  let regs : Tbl Word := args.map (fun a => (a.2, BitVec.ofNat 64 a.1))
  { ctx := x, launch := n, task := j, regs := regs ++ [(5, BitVec.ofNat 64 j), (6, BitVec.ofNat 64 (n % 2 ^ 32))]
    pc := BitVec.ofNat 64 t.entry, status := 0, cause := 0, epc := 0, tvec := 0, evaddr := 0, escratch := 0
    spillov := BitVec.ofNat 64 t.ovf, spillsz := t.size, prio := l.prio, prioCap := l.prio
    setid := if t.join then t.set else 0xFFFF, txnOwner := .thread tid, masks := ctxMasks s x, icnt := 0, wait := .none, asyncs := []
    woundDue := false, posted := [], armed := [], openForms := [], life := .running, failTask := false, halts := ctxHolds s x
    barwHeld := [], peek := none, slotSince := s.now, word := 0, ifetch := none }

/-- The thread of task `j` of launch `n` takes the lowest free slot of a cluster (R43, R314). -/
def dispatchThread (s : State) (n j : Nat) (l : Launch) (t : Task) (c : Nat) : State :=
  let s := bindCluster s c l.ctx
  match (List.range 16).find? (fun k => !(usedSlots s c).contains k) with
  | none => s
  | some k =>
    let tid := 16 * c + k
    let s := setTask { s with threads := tblSet tid (startThread s l.ctx n j l t tid) s.threads } n j .running
    if t.join then joinSet s (setKey l.ctx t.set) tid else s

/-! Time slices (R318). -/

/-- A launch with a task that runs. -/
def launchRuns (l : Launch) : Bool := l.tasks.any (fun t => decide (t.state = .running))
/-- Whether context `a` may be pre-empted for an item of another context of its partition (R318, R348): it has threads or formations
that run (log 30). -/
def mayVictim (s : State) (i : Item) (a : Nat) (c : Ctx) : Bool :=
  decide (a ≠ i.ctx ∧ c.part = partNum s i.ctx ∧ c.phase = .running) && !haltsInForce s a &&
  (!(threadsOf s a).isEmpty || !(placedForms s a).isEmpty) &&
  s.launches.all (fun l => decide (l.2.ctx ≠ a) || !launchRuns l.2 || decide (l.2.prio ≤ effPrio s.now i.prio i.readyAt)) &&
  decide (c.slice ≤ s.now - c.runSince)
/-- The context that has run longest; of those, the lowest number. -/
def longestRun : List (Nat × Ctx) → Option (Nat × Ctx)
  | [] => none
  | c :: rest =>
    match longestRun rest with
    | none => some c
    | some d => some (if d.2.runSince < c.2.runSince then d else c)
/-- The victim for an item. -/
def victimFor (s : State) (i : Item) : Option (Nat × Ctx) := longestRun (s.ctxs.filter (fun c => mayVictim s i c.1 c.2))

/-- The items of a partition that cannot be placed or dispatched for want of resources (R318): thread tasks without a slot, formations that
the placer has passed over, and contexts for whose images or formations there is no room. What only the save area of its own context has no room
for (R324) is none of them: no pre-emption helps it. -/
def stuckItems (s : State) (p : Nat) : List Item :=
  (readyThreads s p).filter (fun i => (pickCluster s i.ctx).isNone) ++
  s.forms.filterMap (fun f => if mayPlace s f.2 && inPartition s p f.2.ctx && f.2.passed && !f.2.cramped then some (formItem f.2) else none) ++
  (suspendedItems s p).filter (fun i => lacksClusters s i.ctx || (savedForms s i.ctx).any (fun f => f.2.passed))

/-- R318: of the items of partition `p` that want for resources, the first that has a victim takes it. -/
def execTimeSliceDecision (p : Nat) (s : State) : Out :=
  .next (match firstItem s.now ((stuckItems s p).filter (fun i => (victimFor s i).isSome)) with
    | some i => match victimFor s i with
      | some c => beginPreempt s c.1
      | none => s
    | none => s)

end Sys2Proof.Machine
end

