-- ==== Sys2Proof/Machine/Graph.lean ====
section
/-! DEFINITION. Graph records and the placer's checks of a graph as a whole (R67, R136, R165, R170, R171, R248, R279, R291, R292, R299,
R392 to R394). -/

namespace Sys2Proof.Machine

/-! Records (R170). -/

/-- A node record. -/
structure GNode where
  num : Nat
  cls : Nat
  flags : Nat
  base : Nat
  word : BitVec 32
  ii : Nat
  loop : Nat
  deriving DecidableEq, Repr

/-- An arc record; `rsv` holds bits [15:1]. -/
structure GArc where
  src : Nat
  fport : Nat
  dst : Nat
  tport : Nat
  cap : Nat
  rsv : Nat
  deriving DecidableEq, Repr

/-- A graph: the offset of its node table, its nodes and arcs, the words of its pool, and its scratch islands. -/
structure Graph where
  table : Nat
  nodes : List GNode
  arcs : List GArc
  pool : List (BitVec 32)
  scratch : Nat
  deriving DecidableEq, Repr

/-- A rejection (R394): the reason, the offending nodes by their compiler numbers, and the address where it is not the graph's. -/
structure Reject where
  reason : Nat
  node : Nat
  second : Nat
  addr : Option Nat
  deriving DecidableEq, Repr

def noNode : Nat := 0xFFFFFFFF
def rejectAt (reason node : Nat) : Reject := ⟨reason, node, noNode, none⟩

def nodeOf (bs : List Byte) : GNode :=
  ⟨field bs 0 4, field bs 4 1, field bs 5 1, field bs 6 2, BitVec.ofNat 32 (field bs 8 4), field bs 12 2, field bs 14 2⟩
def arcOf (bs : List Byte) : GArc :=
  let v := leNat bs
  ⟨bitsOf v 48 16, bitsOf v 40 8, bitsOf v 24 16, bitsOf v 16 8, v % 2 + 1, bitsOf v 1 15⟩

def isShadow (r : GNode) : Bool := decide (r.flags % 2 = 1)
def classAt (ns : List GNode) (i : Nat) : Option Nat := (ns[i]?).map (·.cls)
def numAt (ns : List GNode) (i : Nat) : Nat := ((ns[i]?).map (·.num)).getD noNode

/-- A node record of a table of `n` that breaks R170, as far as the records `ns` that have been read tell. -/
def badNode (n : Nat) (ns : List GNode) (r : GNode) : Bool :=
  decide (5 < r.cls ∨ 4 ≤ r.flags ∨ (r.flags / 2 = 1 ∧ r.cls ≠ 1) ∨
    (r.loop ≠ 0xFFFF ∧ (n ≤ r.loop ∨ (r.loop < ns.length ∧ classAt ns r.loop ≠ some 3))) ∨
    (if isShadow r then n ≤ r.base else r.base ≠ 0xFFFF))

/-- What the placer's reading of a graph comes to. -/
inductive Reading where
  | ok (g : Graph)
  | reject (r : Reject)
  | absent (fpage addr : Nat)
  | pending
  deriving DecidableEq, Repr

/-- A read of the placer (R171); `lost` is the page whose fill has failed, with the reason. -/
def placerRead (s : State) (f : Nat) (fm : Form) (lost : Option (Nat × Nat)) (off n : Nat) : State × (List Byte ⊕ Reading) :=
  match readImage false s fm (.image f 0) ((fm.graph + off) % 2 ^ 64) n with
  | (s, .ok bs) => (s, .inl bs)
  | (s, .stop r a p) =>
    (s, .inr (if r = 6 then
        (match lost.filter (fun l => l.1 == p) with
         | some l => .reject ⟨13, noNode, l.2, some a⟩
         | none => .absent p a)
      else .reject ⟨13, noNode, r, some a⟩))
  | (s, .damaged a) => (s, .inr (.reject ⟨13, noNode, 0, some a⟩))
  | (s, .pending) => (s, .inr .pending)
/-- A read of the placer, and what follows it. -/
def thenImage (s : State) (f : Nat) (fm : Form) (lost : Option (Nat × Nat)) (off n : Nat) (k : State → List Byte → State × Reading) : State × Reading :=
  match placerRead s f fm lost off n with
  | (s, .inl bs) => k s bs
  | (s, .inr r) => (s, r)

/-- A read of a table of `n` records of `size` bytes, and what follows it. Where the read fails, the records before the failure may still
meet a lower reason than 13 (R394); where it waits for a page, one of them may break R170 already, and no reason is lower (R171). -/
def thenTable (s : State) (f : Nat) (fm : Form) (lost : Option (Nat × Nat)) (off size n : Nat) (lower : List (List Byte) → Option Reject)
    (k : State → List (List Byte) → State × Reading) : State × Reading :=
  let before (s : State) (a : Nat) (g : Option Reject → Reading) : State × Reading :=
    let m := min n (((a + 2 ^ 64 - (fm.graph + off) % 2 ^ 64) % 2 ^ 64) / size)
    thenImage s f fm lost off (size * m) (fun s bs => (s, g (lower (chunks size m bs))))
  match placerRead s f fm lost off (size * n) with
  | (s, .inl bs) => k s (chunks size n bs)
  | (s, .inr (.reject r)) => before s (r.addr.getD 0) (fun l => .reject (l.getD r))
  | (s, .inr (.absent p a)) => before s a (fun l => match l.filter (fun r => r.reason == 1) with
    | some r => .reject r
    | none => .absent p a)
  | (s, .inr q) => (s, q)

/-! Ports (R59 to R63, R165, R169, R170, R292, R303). -/

/-- The shadow record over a node, with its index. -/
def shadowFrom (i k : Nat) : List GNode → Option (Nat × GNode)
  | [] => none
  | r :: rest => if isShadow r && r.base == i then some (k, r) else shadowFrom i (k + 1) rest
def shadowOf (ns : List GNode) (i : Nat) : Option (Nat × GNode) := shadowFrom i 0 ns

/-- The records whose words a node executes: its own and its shadow's; a record of another class overlays nothing (reason 8 of R394). -/
def recordsOf (ns : List GNode) (i : Nat) (r : GNode) : List GNode :=
  r :: (((shadowOf ns i).map (·.2)).filter (fun q => q.cls == r.cls)).toList

/-- Sources that an element word's inputs take arcs or lanes by (R165): none for an opcode that is not assigned. -/
def wordSources (w : BitVec 32) : List (Nat × Nat) :=
  if !isAluFamily (elemOp w) then []
  else if oneInput (elemOp w) then [(0, elemSrcA w)] else [(0, elemSrcA w), (1, elemSrcB w)]

/-- Inputs and outputs of a router operator's code (R61, R303). -/
def opPorts (op : Nat) : Nat × Nat :=
  match op with
  | 0 => (1, 1) | 1 => (1, 2) | 2 => (2, 2) | 3 => (3, 1) | 4 => (2, 1) | 5 => (1, 1) | 6 => (2, 1) | _ => (3, 2)

/-- The input port codes of a record that an arc may enter, and those that need one. -/
def inPorts (r : GNode) : List Nat × List Nat :=
  match r.cls with
  | 0 =>
    if isAluFamily (elemOp r.word) then
      let ps := ((wordSources r.word).filter (fun p => p.2 == 0)).map (·.1)
      (ps, ps)
    else ([0, 1], [])
  | 1 =>
    if elemOp r.word < 0x80 ∨ 0x8D < elemOp r.word then ([0, 1], [])
    else if memStores (elemOp r.word) then ([0, 1], [0, 1]) else ([0], [0])
  | 2 => if swOp r.word = 7 then ([0, 1, 2], []) else
      (List.range (opPorts (swOp r.word)).1, List.range (opPorts (swOp r.word)).1)
  | 3 => if loopTile r.word then ([], []) else ([0], [0])
  | 4 => ([0, 1], [0, 1])
  | _ => if portSink r.word then ([0], [0]) else ([], [])
/-- The same for output port codes. -/
def outPorts (r : GNode) : List Nat × List Nat :=
  match r.cls with
  | 1 => ([0], if memStores (elemOp r.word) then [] else [0])
  | 2 => if swOp r.word = 7 then ([0, 1], []) else
      (List.range (opPorts (swOp r.word)).2, List.range (opPorts (swOp r.word)).2)
  | 3 => ([0, 1], [])
  | 5 => if portSink r.word then ([], []) else ([0], [0])
  | _ => ([0], [0])

/-- Whether any record of a node allows, or needs, a port. -/
def allowsPort (g : GNode → List Nat × List Nat) (rs : List GNode) (p : Nat) : Bool := rs.any (fun r => (g r).1.contains p)
def needsPort (g : GNode → List Nat × List Nat) (rs : List GNode) (p : Nat) : Bool := rs.any (fun r => (g r).2.contains p)

/-- The records of the node at an index, where it takes arcs. -/
def arcEnd (ns : List GNode) (i : Nat) : Option (List GNode) :=
  match ns[i]? with
  | some r => if isShadow r then none else some (recordsOf ns i r)
  | none => none

/-- A load whose `b` has an arc: reason 3 (R292). -/
def loadWithB (rs : List GNode) (p : Nat) : Bool := rs.any (fun r => r.cls == 1) && p == 1

/-- Whether an arc breaks reason 2, among those before it (R394). -/
def badArc (ns : List GNode) (before : List GArc) (a : GArc) : Bool :=
  match arcEnd ns a.src, arcEnd ns a.dst with
  | some rs, some ts =>
    !allowsPort outPorts rs a.fport || !(allowsPort inPorts ts a.tport || loadWithB ts a.tport) ||
    before.any (fun b => decide ((b.src = a.src ∧ b.fport = a.fport) ∨ (b.dst = a.dst ∧ b.tport = a.tport)))
  | _, _ => true
def firstBadArc (ns : List GNode) (before : List GArc) : List GArc → Option GArc
  | [] => none
  | a :: rest => if badArc ns before a then some a else firstBadArc ns (before ++ [a]) rest

def hasInArc (g : Graph) (i p : Nat) : Bool := g.arcs.any (fun a => decide (a.dst = i ∧ a.tport = p))
def hasOutArc (g : Graph) (i p : Nat) : Bool := g.arcs.any (fun a => decide (a.src = i ∧ a.fport = p))

/-- The indices of a list's elements that a test holds of, from the first. -/
def indicesFrom {α : Type} (t : Nat → α → Bool) (k : Nat) : List α → List Nat
  | [] => []
  | x :: rest => if t k x then k :: indicesFrom t (k + 1) rest else indicesFrom t (k + 1) rest
/-- The nodes that take part, by index, of which a test holds. -/
def activeWhere (g : Graph) (t : Nat → GNode → Bool) : List Nat := indicesFrom (fun i r => !isShadow r && t i r) 0 g.nodes

def lacksArc (g : Graph) (i : Nat) (r : GNode) : Bool :=
  [0, 1, 2].any (fun p => needsPort inPorts (recordsOf g.nodes i r) p && !hasInArc g i p)

/-! Reason 3 (R279, R292). -/

/-- An element word with a source that R279 rejects; an opcode that is not assigned takes two inputs. -/
def badSources (r : GNode) : Bool :=
  let w := r.word
  let ss := if isAluFamily (elemOp w) then (wordSources w).map (·.2) else [elemSrcA w, elemSrcB w]
  decide (4 < elemSrcA w ∨ 4 < elemSrcB w) ||
  (isAluFamily (elemOp w) && oneInput (elemOp w) && decide (elemSrcB w ≠ 0)) || !ss.any (fun x => decide (x = 0 ∨ x = 2 ∨ x = 3)) ||
  (ss.contains 1 && decide (elemOp w = 0x48 ∨ (0x50 ≤ elemOp w ∧ elemOp w ≤ 0x55))) ||
  (ss.any (fun x => decide (x = 2 ∨ x = 3)) && decide (r.loop = 0xFFFF))

/-- The loop-control unit that a `loop` field means: a shadow's entry stands for the unit it overlays. -/
def loopOf (ns : List GNode) (k : Nat) : Option Nat :=
  match ns[k]? with
  | some r => some (if isShadow r then r.base else k)
  | none => none
/-- The lanes of an element: input, stream and loop-control unit of each source 2 or 3 (R59); an opcode that is not assigned takes two
inputs. -/
def wordLanes (ns : List GNode) (rs : List GNode) : List (Nat × Nat × Nat) :=
  rs.flatMap (fun r => (if isAluFamily (elemOp r.word) then wordSources r.word else [(0, elemSrcA r.word), (1, elemSrcB r.word)]).filterMap (fun p =>
    if p.2 = 2 ∨ p.2 = 3 then (loopOf ns r.loop).map (fun l => (p.1, p.2 - 2, l)) else none))
def nodeLanes (ns : List GNode) (i : Nat) (r : GNode) : List (Nat × Nat × Nat) :=
  if r.cls = 0 ∧ !isShadow r then wordLanes ns (recordsOf ns i r) else []
def lanesFrom (ns : List GNode) (k : Nat) : List GNode → List (Nat × Nat × Nat × Nat)
  | [] => []
  | r :: rest => (nodeLanes ns k r).map (fun l => (k, l)) ++ lanesFrom ns (k + 1) rest
def allLanes (ns : List GNode) : List (Nat × Nat × Nat × Nat) := lanesFrom ns 0 ns

/-- A load with an arc into its `b` (R292). -/
def strayB (g : Graph) (i : Nat) (r : GNode) : Bool := decide (r.cls = 1) && hasInArc g i 1 && !allowsPort inPorts (recordsOf g.nodes i r) 1
def badThree (g : Graph) (i : Nat) (r : GNode) : Bool :=
  let rs := recordsOf g.nodes i r
  (decide (r.cls = 0) && rs.any badSources) || strayB g i r ||
  (decide (r.cls ≠ 3) && [0, 1].any (fun p => needsPort outPorts rs p && !hasOutArc g i p)) ||
  (decide (r.cls = 3) && !hasOutArc g i 0 && !hasOutArc g i 1 && !(allLanes g.nodes).any (fun l => l.2.2.2 == i))

/-! The deadlock rule (R67, R393). -/

/-- Whether a node is a carry. DESIGN CHOICE (log 100): by its active word; a carry that stands only in a shadow word does not count. -/
def isCarry (ns : List GNode) (i : Nat) : Bool := (ns[i]?).any (fun r => decide (r.cls = 2 ∧ swOp r.word = 4 ∧ r.flags % 2 = 0))
def isBack (g : Graph) (a : GArc) : Bool := isCarry g.nodes a.dst && a.tport == 1
/-- The graph with every arc into a carry's back input removed. -/
def forward (g : Graph) : List GArc := g.arcs.filter (fun a => !isBack g a)

/-- The nodes that arcs reach from a set, in at most a number of steps. -/
def reach (as : List GArc) (l : NatSet) : Nat → NatSet
  | 0 => l
  | k + 1 =>
    let l' := as.foldl (fun m a => if setHas a.src m then setAdd a.dst m else m) l
    if l'.length = l.length then l else reach as l' k
def nextOf (as : List GArc) (i : Nat) : NatSet := (as.filter (fun a => a.src == i)).foldl (fun m a => setAdd a.dst m) []
def onCycle (as : List GArc) (n i : Nat) : Bool := setHas i (reach as (nextOf as i) n)

/-- The least sum of capacities of paths from a node to the others: each round lengthens the paths by one arc. -/
def lengths (as : List GArc) (d : Tbl Nat) : Nat → Tbl Nat
  | 0 => d
  | k + 1 =>
    let d' := as.foldl (fun m a =>
      match tblGet a.src m with
      | some x => if (tblGet a.dst m).all (fun y => decide (x + a.cap < y)) then tblSet a.dst (x + a.cap) m else m
      | none => m) d
    if d' = d then d else lengths as d' k

def carryOut (g : Graph) (c : Nat) : Option GArc := g.arcs.find? (fun a => decide (a.src = c ∧ a.fport = 0))
def carryBack (g : Graph) (c : Nat) : Option GArc := g.arcs.find? (fun a => decide (a.dst = c ∧ a.tport = 1))

/-- From a carry's `out`: where its paths lead, with their least sums, its own arc counted. -/
def outLengths (g : Graph) (c : Nat) : Tbl Nat :=
  match carryOut g c with
  | some a => if isBack g a then [(c, 0)] else lengths (forward g) [(a.dst, a.cap)] g.nodes.length
  | none => []
/-- The carries to which R393 draws an edge from a carry. -/
def carryEdges (g : Graph) (cs : List Nat) (c : Nat) : List Nat :=
  let d := outLengths g c
  cs.filter (fun k => (carryBack g k).any (fun b => (tblGet b.src d).isSome))
/-- Those edges as arcs, but for an edge of a carry to itself. -/
def carryArcs (g : Graph) (cs : List Nat) : List GArc :=
  cs.flatMap (fun c => ((carryEdges g cs c).filter (fun d => d != c)).map (fun d => ⟨c, 0, d, 0, 1, 0⟩))
def ringTight (g : Graph) (c : Nat) : Bool :=
  match carryOut g c, carryBack g c with
  | some o, some b =>
    match tblGet b.src (outLengths g c) with
    | some x => decide (x + b.cap < o.cap + 1)
    | none => false
  | _, _ => false

def deadlock (g : Graph) : Option Reject :=
  let n := g.nodes.length
  let cs := activeWhere g (fun i _ => isCarry g.nodes i)
  let cyc := activeWhere g (fun i _ => onCycle (forward g) n i)
  match (cyc.find? (fun i => isCarry g.nodes i)).or cyc.head? with
  | some i => some (rejectAt 4 (numAt g.nodes i))
  | none =>
    let h := carryArcs g cs
    match cs.find? (fun c => onCycle h n c) with
    | some c =>
      let d := (nextOf h c).find? (fun d => setHas c (reach h [d] n))
      some { rejectAt 5 (numAt g.nodes c) with second := (d.map (numAt g.nodes)).getD noNode }
    | none => (cs.find? (fun c => ringTight g c)).map (fun c => rejectAt 6 (numAt g.nodes c))

/-! Wave chains (R136) and the remaining reasons. -/

def waveLinked (r : GNode) : Bool := decide (r.cls = 1) && !isShadow r && linked r.word
/-- Whether the chain before a linked element has a head. -/
def chainHead (reg : List GNode) (r : GNode) : Nat → Bool
  | 0 => false
  | k + 1 =>
    if memPred r.word = 63 then true else
    match reg.find? (fun q => memOwn q.word == memPred r.word) with
    | some q => chainHead reg q k
    | none => true
/-- A linked element without an own number, or with another's (R136). -/
def waveClash (ns : List GNode) (r : GNode) : Bool :=
  waveLinked r && (decide (memOwn r.word = 63) ||
    decide (1 < (ns.filter (fun q => waveLinked q && q.loop == r.loop && memOwn q.word == memOwn r.word)).length))
/-- A linked element whose chain is not simple, or whose own number is another's (R136). DESIGN CHOICE (log 100): by the active words; the wave
fields of shadow words are not checked. -/
def badWave (ns : List GNode) (r : GNode) : Bool :=
  waveClash ns r || waveLinked r &&
  (let reg := ns.filter (fun q => waveLinked q && q.loop == r.loop)
   (decide (memPred r.word ≠ 63) && !reg.any (fun q => memOwn q.word == memPred r.word && memSucc q.word == memOwn r.word)) ||
   (decide (memSucc r.word ≠ 63) && !reg.any (fun q => memOwn q.word == memSucc r.word && memPred q.word == memOwn r.word)) ||
   !chainHead reg r (reg.length + 1))

/-- A shadow node that overlays what it may not (reason 8), among the records that are read. -/
def badShadow (ns : List GNode) (i : Nat) (r : GNode) : Bool :=
  isShadow r &&
  (match ns[r.base]? with
   | some o => decide (o.cls ≠ r.cls) || isShadow o || decide ((shadowOf ns r.base).map (·.1) ≠ some i)
   | none => false)

def needsHome (rs : List GNode) (r : GNode) : Bool :=
  decide (r.cls = 4 ∨ r.cls = 5) || (decide (r.cls = 1) && rs.any (fun q => decide (memSpace q.word = 2 ∨ memSpace q.word = 3)))

/-- The node that a record belongs to. -/
def ownerOf (i : Nat) (r : GNode) : Nat := if isShadow r then r.base else i
/-- A stream port's record, active or shadow, of another node that names the same fabric port. -/
def portTwin (ns : List GNode) (i : Nat) (r : GNode) : Option Nat :=
  (indicesFrom (fun j q => decide (ownerOf j q ≠ ownerOf i r ∧ q.cls = 5 ∧ portNum q.word = portNum r.word)) 0 ns).head?
def badPort (ns : List GNode) (i : Nat) (r : GNode) : Bool :=
  decide (r.cls = 5) && (decide (portFmt r.word = 11) || (portTwin ns i r).isSome)

/-- The reasons of R394, in their order, each with its first offender. -/
def reasonTwo (g : Graph) : Option Reject := (firstBadArc g.nodes [] g.arcs).map (fun a => rejectAt 2 (numAt g.nodes a.src))
def reasonAt (ns : List GNode) (reason : Nat) (l : List Nat) : Option Reject := l.head?.map (fun i => rejectAt reason (numAt ns i))
/-- Reasons 7 to 10, which the node table alone decides; reason 7 by a test, since a table that is read in part may lack the rest of a chain. -/
def nodeReasons (ns : List GNode) (home : Bool) (wave : GNode → Bool) : Option Reject :=
  ((ns.find? wave).map (fun r => rejectAt 7 r.num)).or <|
  ((indicesFrom (badShadow ns) 0 ns).head?.map (fun i =>
    { rejectAt 8 (numAt ns i) with second := ((ns[i]?).map (fun r => numAt ns r.base)).getD noNode })).or <|
  (if home then none else reasonAt ns 9 (indicesFrom (fun i r => !isShadow r && needsHome (recordsOf ns i r) r) 0 ns)).or <|
  ((indicesFrom (badPort ns) 0 ns).head?.map (fun i =>
    { rejectAt 10 (numAt ns i) with
      second := ((ns[i]?).bind (fun r => if portFmt r.word = 11 then none else portTwin ns i r)).elim noNode (numAt ns) }))
/-- The first reason of R394 that a graph's records meet, in the order of the reasons; reason 1 is found as they are read. -/
def checkRecords (g : Graph) (home : Bool) : Option Reject :=
  (reasonTwo g).or <|
  (reasonAt g.nodes 2 (activeWhere g (lacksArc g))).or <|
  (reasonAt g.nodes 3 (activeWhere g (badThree g))).or <|
  (deadlock g).or <|
  nodeReasons g.nodes home (badWave g.nodes)
/-- The reasons that a graph meets whose node table is read and whose arc table is read in part: those that no further arc lifts. -/
def checkPrefix (g : Graph) (home : Bool) : Option Reject :=
  (reasonTwo g).or <|
  (reasonAt g.nodes 3 (activeWhere g (fun i r => (decide (r.cls = 0) && (recordsOf g.nodes i r).any badSources) || strayB g i r))).or <|
  (deadlock g).or <|
  nodeReasons g.nodes home (badWave g.nodes)
/-- The reasons that records of a node table meet among themselves, the table being read in part. -/
def checkNodes (n : Nat) (home : Bool) (ns : List GNode) : Option Reject :=
  let first (reason : Nat) (t : GNode → Bool) : Option Reject := (ns.find? t).map (fun r => rejectAt reason r.num)
  (first 1 (badNode n ns)).or <| (first 3 (fun r => decide (r.cls = 0) && badSources r)).or <|
  nodeReasons ns home (waveClash ns)

/-- What `late` finds of a graph that is read as far as `g`, of a header with these counts: reasons 11 and 12. -/
abbrev Late := (nodes scratch : Nat) → Option Graph → Option Reject

/-- The records of a graph, each checked as it is read: a record that breaks R170 rejects the graph with reason 1. Where a read fails, what has
been read may meet a lower reason than 13, reasons 11 and 12 included, which `late` decides (R394). DESIGN CHOICE (log 110): all `nconst` entries
of the pool are read, entries 0 to 7 too, whose values are not used. `lost` is as in `placerRead`. -/
def readGraph (s : State) (f : Nat) (fm : Form) (lost : Option (Nat × Nat)) (late : Late) : State × Reading :=
  let home := fm.home.isSome
  thenImage s f fm lost 0 64 (fun s h =>
    let nn := field h 2 2
    let na := field h 4 4
    let nc := field h 8 2
    let on := field h 16 8
    if field h 0 2 ≠ 1 ∨ nn = 0 ∨ 2 ^ 20 < na ∨ nc < 8 ∨ 1024 < nc ∨ 16384 < field h 10 2 ∨ field h 12 4 ≠ 0 ∨
       field h 40 24 ≠ 0 ∨ on % 16 ≠ 0 ∨ field h 24 8 % 8 ≠ 0 ∨ field h 32 8 % 4 ≠ 0 then (s, .reject (rejectAt 1 noNode)) else
    let ends := late nn (field h 10 2)
    thenTable s f fm lost on 16 nn (fun b => (checkNodes nn home (b.map nodeOf)).or (ends none)) (fun s b =>
      let ns := b.map nodeOf
      match ns.find? (badNode nn ns) with
      | some r => (s, .reject (rejectAt 1 r.num))
      | none =>
        let graph (as : List GArc) (pool : List (BitVec 32)) : Graph := ⟨on, ns, as, pool, field h 10 2⟩
        let badArcs (as : List GArc) : Option Reject := (as.find? (fun a => a.rsv != 0)).map (fun a => rejectAt 1 (numAt ns a.src))
        thenTable s f fm lost (field h 24 8) 8 na (fun b =>
            let g := graph (b.map arcOf) []
            ((badArcs g.arcs).or (checkPrefix g home)).or (ends (some g))) (fun s b =>
          let as := b.map arcOf
          match badArcs as with
          | some r => (s, .reject r)
          | none =>
            thenTable s f fm lost (field h 32 8) 4 nc (fun _ => (checkRecords (graph as []) home).or (ends (some (graph as [])))) (fun s b =>
              (s, .ok (graph as (b.map (fun w => BitVec.ofNat 32 (leNat w)))))))))

end Sys2Proof.Machine
end

