-- ==== Sys2Proof/Machine/Placer.lean ====
section
/-! DEFINITION. Placement, arming and the drain of formations (R24, R47, R71 to R75, R123, R217, R248, R280, R295, R311, R315, R324,
R394 to R396; log 12). -/

namespace Sys2Proof.Machine

/-! Resources (R19, R71, R72, R123). -/

def whereClass (w : Nat) : Nat := bitsOf w 28 4
def siteX (site : Nat) : Nat := site % 256
def siteY (site : Nat) : Nat := site / 256
def siteQuad (site : Nat) : Nat := siteCluster site / 16
/-- The islands of the core scratchpad (R122). -/
def scratchpadSite (site : Nat) : Bool := decide (siteY site % 16 = 0 ∧ siteX site % 32 < 8)

/-- Formations that hold resources. -/
def standing_ (s : State) (f : Nat) : List Form := (s.forms.filter (fun p => p.1 != f && decide (p.2.phase ≠ .ready ∧ p.2.phase ≠ .saved))).map (·.2)
/-- Whether a formation keeps a site from the next one: until its drain has passed the site (R47 step 6, R72). -/
def keepsSite (fm : Form) (site : Nat) : Bool := if formLive fm then holdsSite fm site else setHas site (formSites fm)
/-- Whether the placer may use a site for a formation. -/
def siteFree (s : State) (f p site : Nat) : Bool :=
  decide (site < 32768) && (partClusters s p).contains (siteCluster site) && !setHas site s.unusable &&
  (standing_ s f).all (fun fm => !keepsSite fm site)
def isleFree (s : State) (f p site : Nat) : Bool :=
  decide (site < 32768) && (partClusters s p).contains (siteCluster site) && !scratchpadSite site &&
  (standing_ s f).all (fun fm => !fm.isles.contains site)
/-- A fabric port of a cluster is free of other formations (R248). DESIGN CHOICE (log 115): a formation keeps its ports until it leaves the
machine, its DRAIN having passed a port or not. -/
def portFree (s : State) (f cl p : Nat) : Bool :=
  (standing_ s f).all (fun fm => fm.nodes.all (fun nd => decide (portOf fm nd ≠ some (cl, p))))

/-! A placement, as the placer's choice of `where` values, routes and islands (R71 to R73; log 12). -/

/-- A node's place: its class and configuration, and a unit of a kind that its class has. Above bit 32, the place of a router operator
holds its placed switch word (R168). -/
def goodWhere (s : State) (f p : Nat) (home : Option Nat) (r : GNode) (w : Nat) : Bool :=
  decide (whereClass w = r.cls ∧ (if r.cls = 2 then w < 2 ^ 48 else w < 2 ^ 32) ∧ w % 64 = 0 ∧ bitsOf w 6 1 = r.flags % 2) &&
  (match r.cls with
   | 0 | 1 => siteFree s f p (whereSite w) && decide (whereUnit w < 8)
   | 2 => siteFree s f p (whereSite w) && decide (whereUnit w < 16)
   | 3 => siteFree s f p (whereSite w) && decide (whereUnit w = 0)
   | 4 => decide (some (whereSite w) = home ∧ whereUnit w = matStream r.word % 4)
   | _ => decide (some (whereSite w) = home ∧ whereUnit w = portNum r.word) && portFree s f (whereSite w) (portNum r.word))

/-- The nodes that take part, with their places. -/
def actives (ns : List GNode) (ws : List Nat) : List (GNode × Nat) := (ns.zip ws).filter (fun p => !isShadow p.1)
def countAt (l : List (GNode × Nat)) (t : GNode → Bool) (site : Nat) : Nat :=
  (l.filter (fun p => t p.1 && whereSite p.2 == site)).length

/-- The direction from a site to a neighbour: N, E, S, W as 0 to 3 (R20). -/
def direction (a b : Nat) : Option Nat :=
  if siteX a = siteX b ∧ siteY a = siteY b + 1 then some 0
  else if siteY a = siteY b ∧ siteX a + 1 = siteX b then some 1
  else if siteX a = siteX b ∧ siteY a + 1 = siteY b then some 2
  else if siteY a = siteY b ∧ siteX a = siteX b + 1 then some 3
  else none
/-- The port by which a token leaves site `a` of quadrant `q` for another quadrant `r`, and that by which one from quadrant `q` enters site `b` of
quadrant `r`, where the site lies on the edge that the token crosses there: the east-west edge comes first and the north-south edge after it
(R23). -/
def leavesBy (q r a : Nat) : Option Nat :=
  if q % 2 ≠ r % 2 then (if siteX a = (if q % 2 = 0 then 127 else 128) then some (if q % 2 = 0 then 1 else 3) else none)
  else if q / 2 ≠ r / 2 ∧ siteY a = (if q / 2 = 0 then 63 else 64) then some (if q / 2 = 0 then 2 else 0) else none
def entersBy (q r b : Nat) : Option Nat :=
  if q / 2 ≠ r / 2 then (if siteY b = (if r / 2 = 1 then 64 else 63) then some (if r / 2 = 1 then 0 else 2) else none)
  else if q % 2 ≠ r % 2 ∧ siteX b = (if r % 2 = 0 then 127 else 128) then some (if r % 2 = 0 then 1 else 3) else none
/-- The ports by which a token leaves one site and enters the next: those of neighbours; or, between quadrants without a shared edge, the
east-west edge of the one and the north-south edge of the other, with the quadrant between them crossed unseen (R23, R24). DESIGN CHOICE
(log 103): any site on those edges. -/
def meshStep (a b : Nat) : Option (Nat × Nat) :=
  match direction a b, direction b a with
  | some o, some i => some (o, i)
  | _, _ =>
    let q := siteQuad a
    let r := siteQuad b
    if q % 2 ≠ r % 2 ∧ q / 2 ≠ r / 2 then
      match leavesBy q r a, entersBy q r b with
      | some o, some i => some (o, i)
      | _, _ => none
    else none

/-- A pass-through switch word: its in and out ports and its capacity bit (R168). -/
def passWord (inDir outDir cap : Nat) : Nat := outDir * 1024 + inDir * 128 + (cap - 1) * 8

/-- What stands on an arc's way: an element or loop-control unit on its router's local lanes, a router operator, a pass-through hop; a matrix
node or stream port meets the mesh of its quadrant at a place that the spec does not give, and stands for the quadrant. -/
inductive StopKind where
  | elem | oper | hop | port
  deriving DecidableEq, Repr
/-- A stop of an arc's way, at its site, or, of a node or stream port, in its quadrant, with the router ports by which the token comes in and goes
out. -/
structure RouteStop where
  kind : StopKind
  site : Nat
  inp : Nat
  outp : Nat
  deriving DecidableEq, Repr

def stopQuad (a : RouteStop) : Nat := if a.kind = .port then a.site else siteQuad a.site
/-- A matrix node or stream port and a stop beside it: in one quadrant, or by the edges of R23 between their two. -/
def meetsPort (a b : RouteStop) : Bool :=
  let q := stopQuad a
  let r := stopQuad b
  decide (q = r) || (decide (a.kind = .port ∨ leavesBy q r a.site = some a.outp) && decide (b.kind = .port ∨ entersBy q r b.site = some b.inp))
/-- Two stops follow each other on an arc's way (R20): at one site by a local lane, and between routers by the mesh. DESIGN CHOICE (log 110): two
operators of one router hand tokens over by a local lane, whose ends R20 gives to elements, loop-control units and memory elements; and no
pass-through hop stands beside an operator at one site. -/
def joined (a b : RouteStop) : Bool :=
  if a.kind = .port ∨ b.kind = .port then decide (a.kind ≠ .elem ∧ b.kind ≠ .elem) && meetsPort a b
  else if a.site = b.site then
    (match a.kind, b.kind with
     | .elem, .hop | .elem, .oper => decide (4 ≤ b.inp)
     | .hop, .elem | .oper, .elem => decide (4 ≤ a.outp)
     | .oper, .oper => decide (4 ≤ a.outp ∧ 4 ≤ b.inp)
     | _, _ => false)
  else decide (a.kind ≠ .elem ∧ b.kind ≠ .elem ∧ meshStep a.site b.site = some (a.outp, b.inp))
def allJoined : List RouteStop → Bool
  | a :: b :: rest => joined a b && allJoined (b :: rest)
  | _ => true

/-- The field of an operator's switch word for an input or an output port (R61). -/
def inField (w p : Nat) : Nat := match p with
  | 0 => bitsOf w 7 3
  | 1 => bitsOf w 4 3
  | _ => bitsOf w 0 3
def outField (w p : Nat) : Nat := if p = 0 then bitsOf w 10 3 else bitsOf w 0 3
def endQuad (r : GNode) (w : Nat) : Nat := if r.cls ≤ 3 then siteQuad (whereSite w) else whereSite w / 16
/-- The stop that an end of an arc is. -/
def endStop (r : GNode) (w inp outp : Nat) : RouteStop :=
  if r.cls = 2 then ⟨.oper, whereSite w, inField (w / 2 ^ 32) inp, outField (w / 2 ^ 32) outp⟩
  else if r.cls ≤ 3 then ⟨.elem, whereSite w, 0, 0⟩ else ⟨.port, endQuad r w, 0, 0⟩
def hopStop (h : Nat) : RouteStop := ⟨.hop, h / 65536, bitsOf h 7 3, bitsOf h 10 3⟩

/-- The records of a node that use a port, with their places: its own, and its shadow's where that is an operator with the port too. -/
def endRecords (g : Graph) (ws : List Nat) (uses : GNode → Bool) (i : Nat) : List (GNode × Nat) :=
  let of_ (k : Nat) : List (GNode × Nat) := match g.nodes[k]?, ws[k]? with
    | some r, some w => [(r, w)]
    | _, _ => []
  let own := of_ i
  let sh := ((shadowOf g.nodes i).map (fun q => of_ q.1)).getD []
  if own.any (fun p => p.1.cls == 2) then (own ++ sh).filter (fun p => uses p.1) else own

/-- The route of an arc (R24, R58, R72): free sites of the partition in the quadrants of its ends, each hop a pass-through word with the
arc's capacity, and every stop joined to the next, for the active word of a router operator and for its shadow word, where these are valid. -/
def goodRoute (s : State) (f p : Nat) (g : Graph) (ws : List Nat) (a : GArc) (route : List Nat) : Bool :=
  match g.nodes[a.src]?, ws[a.src]?, g.nodes[a.dst]?, ws[a.dst]? with
  | some r, some w, some q, some v =>
    route.all (fun h => siteFree s f p (h / 65536) && decide (siteQuad (h / 65536) = endQuad r w ∨ siteQuad (h / 65536) = endQuad q v) &&
      decide (h % 65536 = passWord (bitsOf h 7 3) (bitsOf h 10 3) a.cap)) &&
    (endRecords g ws (fun r => decide (switchReason r.word = 0) && (outPorts r).1.contains a.fport) a.src).all (fun x =>
      (endRecords g ws (fun r => decide (switchReason r.word = 0) && (inPorts r).1.contains a.tport) a.dst).all (fun y =>
        allJoined (endStop x.1 x.2 0 a.fport :: route.map hopStop ++ [endStop y.1 y.2 a.tport 0])))
  | _, _, _, _ => false

/-- The placed switch word of a router operator (R58, R61, R168): the image's code and variant, its port fields, which the routes of its arcs
fix, with zeros where it has no such port, and its capacity bit. DESIGN CHOICE (log 102): where its out arcs declare different capacities, the
bit is that of either, and each arc keeps its own. A word that is not valid (R395) is placed as it comes. -/
def goodSlot (g : Graph) (i : Nat) (r : GNode) (w : Nat) : Bool :=
  if r.cls ≠ 2 ∨ switchReason r.word ≠ 0 then true else
  let x := w / 2 ^ 32
  let op := swOp r.word
  let caps := (g.arcs.filter (fun a => decide (a.src = ownerOf i r) && (outPorts r).1.contains a.fport)).map (·.cap)
  decide (bitsOf x 13 3 = op) &&
  (decide (op < 4) || decide (bitsOf x 0 3 = r.word.toNat % 8)) &&
  (decide ((opPorts op).1 ≠ 1) || decide (bitsOf x 4 3 = 0)) && (decide (op ≠ 0) || decide (bitsOf x 0 3 = 0)) &&
  (caps.isEmpty || caps.contains (bitsOf x 3 1 + 1))

/-- The limits of R71 at a site: 8 elements, 2 memory elements, a loop-control unit, 4 operators, 16 slots. -/
def goodSite (l : List (GNode × Nat)) (hops : List Nat) (site : Nat) : Bool :=
  decide (countAt l (fun r => decide (r.cls ≤ 1)) site ≤ 8 ∧ countAt l (fun r => decide (r.cls = 1)) site ≤ 2 ∧
    countAt l (fun r => decide (r.cls = 3)) site ≤ 1 ∧ countAt l (fun r => decide (r.cls = 2)) site ≤ 4 ∧
    countAt l (fun r => decide (r.cls = 2)) site + (hops.filter (fun h => h / 65536 == site)).length ≤ 16)

/-- A shadow node stands where the node it overlays stands. DESIGN CHOICE (log 110): a shadow stream port whose word names another fabric port
than the one it overlays can stand nowhere, so that its graph does not fit (reason 11). -/
def shadowPlaced (ns : List GNode) (ws : List Nat) (r : GNode) (w : Nat) : Bool :=
  !isShadow r || (ws[r.base]?).any (fun v => decide (whereSite v = whereSite w ∧ whereUnit v = whereUnit w)) || !(ns[r.base]?).isSome

/-- The clusters that a formation's nodes occupy (R123), its home among them. DESIGN CHOICE (log 115): a cluster that only pass-through
hops cross is none of them. -/
def occupied (g : Graph) (ws : List Nat) (home : Option Nat) : NatSet :=
  (actives g.nodes ws).foldl (fun l p => if p.1.cls ≤ 3 then setAdd (siteCluster (whereSite p.2)) l else l) home.toList
/-- The sites of a cluster. -/
def clusterSites (c : Nat) : List Nat := (List.range 16).flatMap (fun y => (List.range 32).map (fun x => siteId c x y))
/-- The islands (R123): free ones, from the clusters that the formation occupies as long as these have any. -/
def goodIsles (s : State) (f p : Nat) (occ : NatSet) (n : Nat) (isles : List Nat) : Bool :=
  decide (isles.length = n) && decide isles.Nodup && isles.all (isleFree s f p) &&
  (isles.all (fun i => setHas (siteCluster i) occ) ||
   occ.all (fun c => (clusterSites c).all (fun i => !isleFree s f p i || isles.contains i)))

/-- What a unit of a site is: an element, a router operator or a loop-control unit. -/
def unitKind (r : GNode) : Nat := min 1 (r.cls / 2) + r.cls / 3
/-- Units of one site are distinct. -/
def distinctUnits (l : List (GNode × Nat)) : Bool :=
  decide ((l.filter (fun p => decide (p.1.cls ≤ 3))).map (fun p => (unitKind p.1, whereSite p.2, whereUnit p.2))).Nodup

/-- Whether the placer's choice is a placement of the graph (R71, R72, R123, R248). -/
def goodPlacement (s : State) (f : Nat) (fm : Form) (g : Graph) (ws : List Nat) (routes : List (List Nat)) (isles : List Nat) : Bool :=
  let p := partNum s fm.ctx
  let l := actives g.nodes ws
  let hops := routes.flatMap (fun r => r)
  let sites := (l.filter (fun q => decide (q.1.cls ≤ 3))).foldl (fun m q => setAdd (whereSite q.2) m)
    (hops.foldl (fun m h => setAdd (h / 65536) m) [])
  decide (ws.length = g.nodes.length ∧ routes.length = g.arcs.length) &&
  (g.nodes.zip ws).all (fun q => goodWhere s f p fm.home q.1 q.2 && shadowPlaced g.nodes ws q.1 q.2) &&
  (indicesFrom (fun i r => !goodSlot g i r (ws.getD i 0)) 0 g.nodes).isEmpty && distinctUnits l && sites.all (goodSite l hops) &&
  (g.arcs.zip routes).all (fun a => goodRoute s f p g ws a.1 a.2) &&
  (allLanes g.nodes).all (fun a => decide ((ws[a.1]?).map whereSite = (ws[a.2.2.2]?).map whereSite)) &&
  goodIsles s f p (occupied g ws fm.home) g.scratch isles

/-! The placer's own choice (R71, R72, R315, R394). The search goes through every site for every node and every way for every arc, so that it finds
a placement wherever there is one. Units of a site, local lanes and islands that serve alike are taken in order, and a way passes a site once.
DESIGN CHOICE (log 12): which placement comes first. -/

/-- A choice of places. -/
structure Choice where
  ws : List Nat
  routes : List (List Nat)
  isles : List Nat
  deriving DecidableEq, Repr

/-- More nodes or islands than so many sites and islands have (R71). -/
def outnumbers (sites isles : Nat) (g : Graph) : Bool :=
  let count (t : GNode → Bool) : Nat := (g.nodes.filter (fun r => !isShadow r && t r)).length
  decide (8 * sites < count (fun r => decide (r.cls ≤ 1)) ∨ 2 * sites < count (fun r => decide (r.cls = 1)) ∨
    sites < count (fun r => decide (r.cls = 3)) ∨ 4 * sites < count (fun r => decide (r.cls = 2)) ∨ isles < g.scratch)

/-- The nodes seated at a site so far of which a test holds. -/
def seatedAt (g : Graph) (m : Tbl Nat) (site : Nat) (t : GNode → Bool) : Nat := (m.filter (fun q => q.2 == site && (g.nodes[q.1]?).any t)).length
/-- A site has a unit for a node, and the nodes at the other ends of its lanes stand there too (R59, R71). -/
def fitsSite (g : Graph) (m : Tbl Nat) (i : Nat) (r : GNode) (site : Nat) : Bool :=
  let at_ (t : GNode → Bool) : Nat := seatedAt g m site t
  (match r.cls with
   | 0 => decide (at_ (fun q => decide (q.cls ≤ 1)) < 8)
   | 1 => decide (at_ (fun q => decide (q.cls ≤ 1)) < 8 ∧ at_ (fun q => decide (q.cls = 1)) < 2)
   | 2 => decide (at_ (fun q => decide (q.cls = 2)) < 4)
   | _ => decide (at_ (fun q => decide (q.cls = 3)) = 0)) &&
  (allLanes g.nodes).all (fun l => (l.1 != i || (tblGet l.2.2.2 m).all (fun k => k == site)) && (l.2.2.2 != i || (tblGet l.1 m).all (fun k => k == site)))
/-- Every seating of nodes, by index, at free sites; `k` goes on from one. -/
def seatNodes {α : Type} (g : Graph) (free : List Nat) (k : Tbl Nat → Option α) : List Nat → Tbl Nat → Option α
  | [], m => k m
  | i :: rest, m =>
    match g.nodes[i]? with
    | some r => free.findSome? (fun site => if fitsSite g m i r site then seatNodes g free k rest (tblSet i site m) else none)
    | none => none

/-- The site of an arc's end; none of a matrix node or stream port. -/
def endSite (g : Graph) (m : Tbl Nat) (i : Nat) : Option Nat := if (classAt g.nodes i).any (fun c => decide (c ≤ 3)) then tblGet i m else none
def endLocal (g : Graph) (i : Nat) : Bool := (classAt g.nodes i).any (fun c => decide (c ≤ 1 ∨ c = 3))
/-- The quadrant of the home cluster, whose ports and matrix streams a formation's are. -/
def homeQuad (home : Option Nat) : Nat := home.getD 0 / 16
/-- Where a token comes to site `b` from a port of quadrant `q`, and where it leaves `a` for one: the router port, any in the quadrant itself. -/
def fromPort (q b : Nat) : Option Nat := if siteQuad b = q then some 0 else entersBy q (siteQuad b) b
def toPort (q a : Nat) : Option Nat := if siteQuad a = q then some 0 else leavesBy (siteQuad a) q a
/-- An end that meets its first or last hop at the hop's site: an element's by a local lane, an operator's over the mesh, a port's where `near`. -/
def meets (onSite : Bool) (link : Nat → Bool) (near : Bool) (b : Nat) : Option Nat → Bool
  | none => near
  | some a => if onSite then a == b else link a
/-- Two ends that need no hop between them. -/
def direct (g : Graph) (m : Tbl Nat) (home : Option Nat) (i j : Nat) : Bool :=
  match endSite g m i, endSite g m j with
  | some a, some b =>
    if a = b then !(endLocal g i && endLocal g j) else !endLocal g i && !endLocal g j && (meshStep a b).isSome
  | some a, none => !endLocal g i && (toPort (homeQuad home) a).isSome
  | none, some b => !endLocal g j && (fromPort (homeQuad home) b).isSome
  | none, none => true
/-- The quadrant of an arc's end. -/
def quadOf (g : Graph) (m : Tbl Nat) (home : Option Nat) (i : Nat) : Nat := ((endSite g m i).map siteQuad).getD (homeQuad home)
/-- Every way of so many hops, by its sites; `k` goes on from one. -/
def ways {α : Type} (free : List Nat) (next : List Nat → Nat → Bool) (ends : List Nat → Bool) (k : List Nat → Option α) :
    Nat → List Nat → Option α
  | 0, path => if ends path then k path else none
  | n + 1, path => free.findSome? (fun b => if !path.contains b && next path b then ways free next ends k n (path ++ [b]) else none)
/-- A way may go on to a site: a slot is left there (R71), and it is met by the stop before. -/
def mayPass (g : Graph) (m : Tbl Nat) (home : Option Nat) (acc : List (List Nat)) (i : Nat) (path : List Nat) (b : Nat) : Bool :=
  decide (seatedAt g m b (fun q => decide (q.cls = 2)) + (acc.flatten.filter (fun c => c == b)).length < 16) &&
  (match path.getLast? with
   | some a => (meshStep a b).isSome
   | none => meets (endLocal g i) (fun a => (meshStep a b).isSome) (fromPort (homeQuad home) b).isSome b (endSite g m i))
def arrives (g : Graph) (m : Tbl Nat) (home : Option Nat) (i j : Nat) (path : List Nat) : Bool :=
  match path.getLast? with
  | some a => meets (endLocal g j) (fun b => (meshStep a b).isSome) (toPort (homeQuad home) a).isSome a (endSite g m j)
  | none => direct g m home i j
/-- Every choice of ways for arcs, the shorter first; `k` goes on from one. -/
def layArcs {α : Type} (g : Graph) (free : List Nat) (m : Tbl Nat) (home : Option Nat) (k : List (List Nat) → Option α) : List GArc → List (List Nat) → Option α
  | [], acc => k acc
  | a :: rest, acc => (List.range (free.length + 1)).findSome? (fun n =>
      ways (free.filter (fun b => decide (siteQuad b = quadOf g m home a.src ∨ siteQuad b = quadOf g m home a.dst))) (mayPass g m home acc a.src)
        (arrives g m home a.src a.dst) (fun path => layArcs g free m home k rest (acc ++ [path])) n [])

/-- The router port by which a token comes to a stop from the one before, and leaves it to the next: a lane at one site. Without a site, it is
a port of the home cluster that stands there. -/
def portFrom (home : Option Nat) (c : Nat) : Option Nat → Nat
  | none => (fromPort (homeQuad home) c).getD 0
  | some b => if b = c then 4 else ((meshStep b c).map (·.2)).getD 0
def portTo (home : Option Nat) (c : Nat) : Option Nat → Nat
  | none => (toPort (homeQuad home) c).getD 0
  | some b => if b = c then 4 else ((meshStep c b).map (·.1)).getD 0
/-- The pass-through hops of a way. -/
def hopsOf (home : Option Nat) (cap : Nat) (dst : Option Nat) : Option Nat → List Nat → List Nat
  | _, [] => []
  | before, c :: rest =>
    (c * 65536 + passWord (portFrom home c before) (portTo home c (rest.head?.or dst)) cap) :: hopsOf home cap dst (some c) rest
/-- The placed switch word of the operator record `i` at a site (R168). -/
def slotWord (g : Graph) (m : Tbl Nat) (home : Option Nat) (paths : List (List Nat)) (i : Nat) (r : GNode) (site : Nat) : Nat :=
  let as := g.arcs.zip paths
  let o := ownerOf i r
  let out (p : Nat) : Nat := if (outPorts r).1.contains p then
      ((as.find? (fun a => decide (a.1.src = o ∧ a.1.fport = p))).map (fun a => portTo home site (a.2.head?.or (endSite g m a.1.dst)))).getD 0 else 0
  let inp (p : Nat) : Nat := if (inPorts r).1.contains p then
      ((as.find? (fun a => decide (a.1.dst = o ∧ a.1.tport = p))).map (fun a => portFrom home site (a.2.getLast?.or (endSite g m a.1.src)))).getD 0 else 0
  let cap := ((as.find? (fun a => decide (a.1.src = o) && (outPorts r).1.contains a.1.fport)).map (·.1.cap)).getD 1
  let op := swOp r.word
  op * 8192 + out 0 * 1024 + inp 0 * 128 + inp 1 * 16 + (cap - 1) * 8 + (if op < 4 ∨ op = 7 then (out 1 + inp 2) % 8 else r.word.toNat % 8)
/-- The `where` of record `i`, in the first unit of its site that no earlier node has. -/
def whereFor (g : Graph) (m : Tbl Nat) (home : Option Nat) (paths : List (List Nat)) (i : Nat) (r : GNode) : Nat :=
  let o := ownerOf i r
  let site := (tblGet o m).getD 0
  let unit := (m.filter (fun q => decide (q.1 < o ∧ q.2 = site) && (g.nodes[q.1]?).any (fun n => decide (unitKind n = unitKind r)))).length
  let place (site unit : Nat) : Nat := r.cls * 2 ^ 28 + site * 2 ^ 13 + unit * 2 ^ 7 + r.flags % 2 * 2 ^ 6
  match r.cls with
  | 2 => slotWord g m home paths i r site * 2 ^ 32 + place site unit
  | 4 => place (home.getD 0) (matStream r.word % 4)
  | 5 => place (home.getD 0) (portNum r.word)
  | _ => place site unit
/-- The places that a seating and its ways come to. -/
def chosen (g : Graph) (m : Tbl Nat) (home : Option Nat) (isles : List Nat) (paths : List (List Nat)) : Choice :=
  let ws := g.nodes.zipIdx.map (fun q => whereFor g m home paths q.2 q.1)
  let occ := occupied g ws home
  { ws := ws
    routes := (g.arcs.zip paths).map (fun a => hopsOf home a.1.cap (endSite g m a.1.dst) (endSite g m a.1.src) a.2)
    isles := (isles.filter (fun i => setHas (siteCluster i) occ) ++ isles.filter (fun i => !setHas (siteCluster i) occ)).take g.scratch }
/-- Every placement of a graph with what is free now; `k` goes on from one. -/
def searchPlacement {α : Type} (s : State) (f : Nat) (fm : Form) (g : Graph) (k : Choice → Option α) : Option α :=
  let p := partNum s fm.ctx
  let sites := (partClusters s p).flatMap clusterSites
  let free := sites.filter (siteFree s f p)
  let isles := sites.filter (isleFree s f p)
  let taken (r : GNode) : Bool := decide (r.cls = 5) && !fm.home.any (fun c => portFree s f c (portNum r.word))
  if outnumbers free.length isles.length g || g.nodes.any taken then none else
  seatNodes g free (fun m =>
      layArcs g free m fm.home (fun paths =>
        let c := chosen g m fm.home isles paths
        if goodPlacement s f fm g c.ws c.routes c.isles then k c else none) g.arcs [])
    (activeWhere g (fun _ r => decide (r.cls ≤ 3))) []
/-- The first placement. -/
def findPlacement (s : State) (f : Nat) (fm : Form) (g : Graph) : Option Choice := searchPlacement s f fm g some
/-- The state with nothing else placed (reason 11 of R394). -/
def alone (s : State) (f : Nat) : State := { s with forms := s.forms.filter (fun q => q.1 == f) }

/-! The formation as placed. -/

/-- The enclosing loop-control units of a record, innermost first, at most four (R73). -/
def enclosing (ns : List GNode) : Nat → Nat → List Nat
  | 0, _ => []
  | k + 1, l => match ns[l]? with
    | some r => l :: enclosing ns k r.loop
    | none => []

/-- A node as it stands when it is placed; at arming, the chase register holds DATA 0 (R280). A slot without a shadow node holds equal words
(R70). DESIGN CHOICE (log 110): bit 1 of the flags of its own record, and not of its shadow's, lets a memory element swap, whichever word is
active. -/
def placedNode (ns : List GNode) (all : List Nat) (i : Nat) (r : GNode) (w : Nat) : Node :=
  let sh := shadowOf ns i
  { num := r.num, cls := r.cls, memSwap := decide (r.flags / 2 = 1), shadowIdx := sh.map (·.1)
    overlay := if isShadow r then some r.base else none, word := r.word, shadow := (sh.map (·.2.word)).getD r.word
    slot := w / 2 ^ 32, slotShadow := ((sh.bind (fun q => all[q.1]?)).getD w) / 2 ^ 32, ii := r.ii
    loop := loopOf ns r.loop, loopShadow := (match sh with
      | some q => loopOf ns q.2.loop
      | none => loopOf ns r.loop)
    loops := enclosing ns 4 r.loop, wher := w % 2 ^ 32, sel := false, asked := false, loaded := false, blocked := false
    chase := dataTok false 0, grp := none, carry := .open_, slots := [], turn := 0, idx := .none, last := .none, idxGiven := []
    lastGiven := [], cur := none, accs := [], began := 0, ops := 0, inj := [], fires := 0, lastFire := none, passed := false, eos := false
    drained := false, marked := false, fetch := none, kept := [], held := [], offer := [], conds := [] }
def placedNodes (ns : List GNode) (all : List Nat) : Nat → List GNode → List Nat → List Node
  | i, r :: rs, w :: ws => placedNode ns all i r w :: placedNodes ns all (i + 1) rs ws
  | _, _, _ => []

/-- The arcs of the graph with their routes, then the local lanes of its loop-control units (R59, R301). -/
def placedArcs (g : Graph) (routes : List (List Nat)) : List Arc :=
  (g.arcs.zip routes).map (fun a => ⟨a.1.src, a.1.fport, a.1.dst, a.1.tport, a.1.cap, false, a.2, [], 0, [], []⟩) ++
  ((allLanes g.nodes).map (fun l => ⟨l.2.2.2, l.2.2.1, l.1, l.2.1, 1, true, [], [], 0, [], []⟩)).eraseDups

/-- Reasons 11 and 12 of R394: the graph as far as it has been read can be placed nowhere, even with nothing else placed; the formation record is
larger than the save area. -/
def lateReasons (s : State) (f : Nat) (fm : Form) : Late := fun nodes scratch g =>
  if g.any (fun g => (findPlacement (alone s f) f fm g).isNone) then some (rejectAt 11 noNode)
  else if (ctxOf s fm.ctx).any (fun c => decide (c.savesz < formRecordBytes nodes scratch)) then some (rejectAt 12 noNode)
  else none

/-- A formation's records are written into its sites: placing (R75, R311). The launch constants take pool entries 0 to 7 (R47). -/
def settlePlaced (s : State) (f : Nat) (g : Graph) (ws : List Nat) (routes : List (List Nat)) (isles : List Nat) : State :=
  let s := modForm { s with free := s.free + 1024 } f (fun fm => { fm with
    phase := .placing, nodeTable := fm.graph + g.table, pool := fm.consts ++ g.pool.drop 8, poolFree := s.free
    nodes := placedNodes g.nodes ws 0 g.nodes ws, arcs := placedArcs g routes, isles := isles, passed := false, fill := none, got := [] })
  match formAt s f with
  | some fm => if fm.arm.isSome then s else setTask s fm.launch fm.task .placing
  | none => s

/-- A graph is rejected (R392, R394): the record, and the end of its task or arm request. -/
def rejectForm (s : State) (f : Nat) (fm : Form) (r : Reject) : State :=
  let s := writeRecord s fm.ctx { plainRecord 0x22 r.reason 3 with
    launch := (formLaunch fm).1, task := (formLaunch fm).2, form := formId fm, node := r.node
    addr := r.addr.getD fm.graph, detail := r.second }
  finishForm s f false

/-- An item that has reached priority 7 and has been ready for 1,024,000 ns is served before every other (R315). -/
def reservedItem (now : Nat) (i : Item) : Bool := decide (effPrio now i.prio i.readyAt = 7 ∧ 1024000 ≤ now - i.readyAt)
/-- An item that the placer is still reading, for a page or a peer (R171). -/
def stillReading (s : State) (f : Nat) (fm : Form) : Bool :=
  fm.fill.any (fun p => (tblGet (fillKey fm.ctx p.1) s.fills).isSome) || pendingFor s (.image f 0)
/-- Every item of a partition ahead of one in the order of dispatch that needs sites has been passed over, is still being read, or wants for
clusters (R315, R325). DESIGN CHOICE (log 61): an item whose records wait for a page or a peer's reply holds back none behind it. -/
def aheadPassed (s : State) (p : Nat) (i : Item) : Bool :=
  s.forms.all (fun g => !(mayPlace s g.2 && inPartition s p g.2.ctx && itemBefore s.now (formItem g.2) i) || g.2.passed || stillReading s g.1 g.2) &&
  (suspendedItems s p).all (fun j => !(itemBefore s.now j i && !(savedForms s j.ctx).isEmpty) || lacksClusters s j.ctx ||
    (savedForms s j.ctx).any (fun f => f.2.passed))
/-- Whether it is a formation's turn at the placer (R315): the first reserved item's alone; else that of the first item that has not been
passed over. -/
def placeTurn (s : State) (fm : Form) : Bool :=
  let p := partNum s fm.ctx
  match firstItem s.now ((readyForms s p).filter (reservedItem s.now)) with
  | some i => decide (i = formItem fm)
  | none => aheadPassed s p (formItem fm)
/-- R71, R72, R315, R392 to R394: the placer checks and places formation `f` of the ready pool at `wheres`, `routes` and `isles`; where these are
no placement, at the first that its search finds (log 12). An item that cannot be placed now, for want of sites, slots, ports, islands or room in
the save area, is passed over until some are given up. -/
def execPlaceFormation (f : Nat) (wheres : List Nat) (routes : List (List Nat)) (isles : List Nat) (s : State) : Out :=
  .next (match formAt s f with
    | none => s
    | some fm =>
      if !mayPlace s fm || fm.passed || !placeTurn s fm || fm.fill.any (fun p => (tblGet (fillKey fm.ctx p.1) s.fills).isSome) then s else
      match readGraph s f fm none (lateReasons s f fm) with
      | (s, .reject r) => rejectForm s f fm r
      | (s, .pending) => s
      | (s, .absent p a) => modForm s f (fun fm => { fm with fill := some (p, a) })
      | (s, .ok g) =>
        match checkRecords g fm.home.isSome with
        | some r => rejectForm s f fm r
        | none =>
          let choice := if goodPlacement s f fm g wheres routes isles then some ⟨wheres, routes, isles⟩ else findPlacement s f fm g
          match lateReasons s f fm g.nodes.length g.scratch (if choice.isSome then none else some g) with
          | some r => rejectForm s f fm r
          | none => match choice.filter (fun _ => fitsSave s fm.ctx 0 0 [(g.nodes.length, g.scratch)]) with
            | some c => settlePlaced s f g c.ws c.routes c.isles
            | none => modForm s f (fun fm => { fm with passed := true, cramped := choice.isSome }))

/-! Arming and the drain (R47, R75, R123, R217, R395, R396). -/

/-- The first node whose word the placer writes and finds not valid. -/
def blockedFrom (fm : Form) (k : Nat) : List Node → Option (Nat × Nat × BitVec 32)
  | [] => none
  | nd :: rest =>
    let a := wordReason nd.cls nd.word fm.pool.length
    let b := wordReason nd.cls nd.shadow fm.pool.length
    if isActive nd ∧ 2 ≤ nd.cls ∧ (a ≠ 0 ∨ b ≠ 0) then some (if a ≠ 0 then (k, a, nd.word) else (k, 4, nd.shadow))
    else blockedFrom fm (k + 1) rest

/-- What a formation injects at a source when it is armed (R47): a tile loop's bound token, and EOS. DESIGN CHOICE (log 115): of a unit
whose two words differ in `tile` (R157), the active word's bit counts. -/
def firstTokens (tiles : Nat) (nd : Node) : List Tok :=
  if !isActive nd then []
  else if nd.cls = 3 ∧ loopTile nd.word then
    (if tiles = 0 then [eosTok false] else [dataTok false (BitVec.ofNat 32 tiles), eosTok false])
  else if nd.cls = 5 ∧ !portSink nd.word then (if tiles = 0 then [eosTok false] else [])
  else []

/-- The ports of a formation's stream-port nodes are its own (R217). A sink's bindings without accesses end (R216); those of a source hold no
launch back (R247). -/
def holdPorts (s : State) (f : Nat) (fm : Form) : Nat → List Node → State
  | _, [] => s
  | k, nd :: rest =>
    let s := match portOf fm nd with
      | some cp => if !isActive nd then s else
        let q := { portAt s cp.1 cp.2 with holder := some (f, k) }
        if portSink nd.word then movePort s cp q else easePort (setPort s cp.1 cp.2 q) cp.1 cp.2
      | none => s
    holdPorts s f fm (k + 1) rest

/-- A source, at which the formation injects (R47, R320). -/
def isSource (nd : Node) : Bool :=
  isActive nd && ((decide (nd.cls = 3) && loopTile nd.word) || (decide (nd.cls = 5) && !portSink nd.word))
/-- The sweeps of a formation begin anew for a halt (R400). -/
def freshSweep (w : Sweep) : Sweep := { w with half := false, quiet := false, found := none }
/-- An arc is put under hold `k`. -/
def holdArc (k : Nat) (a : Arc) : Arc := { a with holds := setAdd k a.holds }
/-- The arcs that leave a source of a formation are halted (R346). -/
def holdSources (k : Nat) (fm : Form) : Form :=
  { fm with
    arcs := fm.arcs.map (fun a => if (fm.nodes[a.src]?).any isSource && !a.lane then holdArc k a else a)
    sweep := freshSweep fm.sweep }
/-- A formation that begins or goes on stands under the halts of its whole context. -/
def underHolds (s : State) (fm : Form) : Form := (ctxHolds s fm.ctx).foldl (fun fm k => holdSources k fm) fm

/-- R47, R123, R248, R395: formation `f` is armed: its scratch islands are cleared, its ports bound to it, and its words of routers, loops,
matrix nodes and ports checked. -/
def execFormationArm (f : Nat) (s : State) : Out :=
  .next (match formAt s f with
    | none => s
    | some fm =>
      if fm.phase ≠ .placing || !ctxRuns s fm.ctx then s else
      let s := fm.isles.foldl (fun s i => memClear s (islandCell i 0) (islandCell i 65536)) s
      let s := holdPorts s f fm 0 fm.nodes
      let s := modForm s f (fun fm => underHolds s { fm with
        phase := .armed, masks := ctxMasks s fm.ctx, moves := fm.moves + 1
        nodes := fm.nodes.map (fun nd => { nd with inj := firstTokens fm.tiles nd }) })
      let s := if fm.arm.isSome then s else setTask s fm.launch fm.task .running
      match blockedFrom fm 0 fm.nodes with
      | some (n, r, w) =>
        let s := putNode s f n (fun nd => { nd with blocked := true })
        failNode s f n (fun fm nd => { nodeRecord fm nd 0x23 r with word := w.toNat })
      | none => s)

/-- A sink of a formation: a stream-port sink, or a memory element that stores and has no out arc (R295). -/
def isSink (fm : Form) (n : Nat) (nd : Node) : Bool :=
  isActive nd && ((decide (nd.cls = 5) && portSink nd.word) || (decide (nd.cls = 1) && memStores (elemOp (curWord nd)) && (outArc fm n 0).isNone))
def sinksDone (fm : Form) : Bool :=
  (indicesFrom (fun i nd => isSink fm i nd && (!nd.eos || !nd.accs.isEmpty)) 0 fm.nodes).isEmpty

/-- R47: an EOS without swap flag has reached every sink, and every store-acknowledgement count is zero: a DRAIN enters at every source. -/
def execDrainInject (f : Nat) (s : State) : Out :=
  .next (match formAt s f with
    | none => s
    | some fm =>
      if fm.phase = .armed && !fm.draining && sinksDone fm then
        modForm s f (fun fm => { fm with
          draining := true, moves := fm.moves + 1
          nodes := fm.nodes.map (fun nd => if isSource nd then { nd with inj := nd.inj ++ [drainTok] } else nd) })
      else s)

/-! Guard ports (R372, R441). -/

/-- The site that a router port faces (R20). -/
def facing (site port : Nat) : Option Nat :=
  match port with
  | 0 => if 0 < siteY site then some (site - 256) else none
  | 1 => if siteX site < 255 then some (site + 1) else none
  | 2 => if siteY site < 127 then some (site + 256) else none
  | _ => if 0 < siteX site then some (site - 1) else none
/-- The sites that a token may go to by a router port: the neighbour, and the sites behind an edge-adapter crossing (R23, R24; log 103). -/
def facedBy (site port : Nat) : List Nat :=
  (facing site port).toList ++ ((List.range 256).flatMap (fun x => [63 * 256 + x, 64 * 256 + x])).filter (fun b =>
    (direction site b).isNone && (meshStep site b).any (fun p => p.1 == port))
/-- The sites outside its partition to which a guard port leads: a router port of one of the partition's sites is one if there are any (R372). -/
def guardedFrom (s : State) (p site port : Nat) : List Nat :=
  let mine (k : Nat) : Bool := (partClusters s p).contains (siteCluster k)
  if site < 32768 ∧ port < 4 ∧ mine site then (facedBy site port).filter (fun k => !mine k) else []
/-- A switch word leads to a port. -/
def leadsTo (w port : Nat) : Bool :=
  decide (bitsOf w 10 3 = port) || (decide (bitsOf w 13 3 = 1 ∨ bitsOf w 13 3 = 2) && decide (bitsOf w 0 3 = port))
/-- The site of the router slot that a token of an arc stands at: an operator's, or that of a pass-through hop. -/
def slotSite (nd : Node) (a : Arc) (t : Flit) : Option Nat :=
  if t.hop = 0 then (if nd.cls = 2 then some (nodeSite nd) else none) else hopSite a t.hop
/-- R372, R441: the first token of an arc at a slot of `site` is offered to the guard port `port` there by the switch word `w`, which has been
altered; it is taken and discarded, and the first such token fails the formation: reason 2 where the port leads across a quadrant's edge. -/
def execGuardDiscard (f a site port w : Nat) (s : State) : Out :=
  .next (match formAt s f with
    | none => s
    | some fm =>
      match (fm.arcs[a]?).bind (fun ar => (fm.nodes[ar.src]?).map (fun nd => (ar, nd))) with
      | none => s
      | some (ar, nd) =>
        let here (t : Flit) : Bool := decide (slotSite nd ar t = some site)
        let out := guardedFrom s (partNum s fm.ctx) site port
        match ar.toks.find? here with
        | some t =>
          if !(formLive fm || lingers fm) || out.isEmpty || !leadsTo w port then s else
          let s := modForm s f (fun fm => { putArc fm a (fun ar => { ar with toks := ar.toks.eraseP here }) with guarded := true })
          failForm s f (fun fm => { nodeRecord fm nd 0x28 (if out.any (fun k => siteQuad k ≠ siteQuad site) then 2 else 1) with
            origin := 5, word := w % 65536, detail := tokBits t.tok + site * 2 ^ 38 + port * 2 ^ 53 })
        | none => s)

end Sys2Proof.Machine
end

