-- ==== Sys2Proof/Machine/Paging.lean ====
section
/-! DEFINITION. Flash fills, invalidations and fault holds (R108 to R111, R194, R206, R402 to R409). -/

namespace Sys2Proof.Machine

/-! Frozen parties: every party that waits on a page or an address, and what is done to it. -/

/-- What becomes of a frozen access: it stays, it is woken, it freezes again with another reason, or it ends with a reason and the
`detail` of its record. -/
inductive Thaw where
  | stay
  | wake
  | refreeze (reason : Nat)
  | fail (detail : Nat)
  deriving DecidableEq, Repr

/-- The record of a freeze of a command (R406); reasons 6 and 7 write none. -/
def cmdFreezeRecord (s : State) (c : Cmd) (z : Freeze) (reason : Nat) : State :=
  if 6 ≤ reason then s else
  writeRecord s c.ctx (cmdRecord s c 4 reason z.vaddr (8192 + (if z.store then 4096 else 0)))
/-- An access freezes again; its hold goes on (R405). -/
def refrozen (s : State) (reason : Nat) (z : Frost) : Frost :=
  { z with woken := false, frz := { z.frz with reason := reason, last := s.now, after := s.nextInval } }
/-- A node's memory port has had what it waited for (R343). -/
def portWoken (s : State) (f n : Nat) : State := putNode s f n (fun nd => { nd with conds := tblSet 5 s.tenths nd.conds })

/-- A frozen access of a node. -/
def thawAccess (g : Freeze → Thaw) (f n : Nat) (s : State) (seq : Nat) : State :=
  match (formAt s f).bind (fun fm => (fm.nodes[n]?).bind (fun nd => (accessAt nd seq).map (fun a => (fm, a)))) with
  | some (fm, a) =>
    match a.stage with
    | .frozen z =>
      if z.woken then s else
      (match g z.frz with
       | .stay => s
       | .wake => portWoken (setStage (countFrozen s fm.ctx z.frz) f n seq (.frozen { z with woken := true })) f n
       | .refreeze r =>
         let z' := refrozen s r z
         freezeRecord (setStage (countFrozen s fm.ctx z.frz) f n seq (.frozen z')) f n z'.frz .v
       | .fail d => nodeFault s f n 9 z.frz.vaddr d)
    | _ => s
  | none => s
/-- A frozen configuration fetch of a node (R76). -/
def thawFetch (g : Freeze → Thaw) (f : Nat) (s : State) (n : Nat) : State :=
  match (formAt s f).bind (fun fm => (fm.nodes[n]?).map (fun nd => (fm, nd))) with
  | some (fm, nd) =>
    match nd.fetch with
    | some z =>
      if z.woken then s else
      (match g z.frz with
       | .stay => s
       | .wake => putNode (countFrozen s fm.ctx z.frz) f n (fun nd => { nd with fetch := some { z with woken := true } })
       | .refreeze r =>
         let z' := refrozen s r z
         freezeRecord (putNode (countFrozen s fm.ctx z.frz) f n (fun nd => { nd with fetch := some z' })) f n z'.frz .v
       | .fail d => nodeFault s f n 9 z.frz.vaddr d)
    | none => s
  | none => s
def thawNode (g : Freeze → Thaw) (f : Nat) (s : State) (n : Nat) : State :=
  match (formAt s f).bind (fun fm => fm.nodes[n]?) with
  | some nd => thawFetch g f ((nd.accs.map (·.seq)).foldl (thawAccess g f n) s) n
  | none => s

/-- The frozen parts of a command. -/
def thawParts (g : Freeze → Thaw) (s : State) (c : Cmd) : List Frost → State × Cmd
  | [] => (s, c)
  | z :: rest =>
    let put (z' : Frost) : Cmd := { c with frost := c.frost.map (fun y => if y.idx = z.idx then z' else y) }
    if z.woken || decide (z.frz.reason = 0 ∨ z.frz.reason = 255) then thawParts g s c rest else
    match g z.frz with
    | .stay => thawParts g s c rest
    | .wake => thawParts g (countFrozen s c.ctx z.frz) (put { z with woken := true }) rest
    | .refreeze r => thawParts g (cmdFreezeRecord (countFrozen s c.ctx z.frz) c z.frz r) (put (refrozen s r z)) rest
    | .fail d => (cmdFault (countFrosts s c.ctx c.frost) c 9 z.frz.vaddr d, { c with frost := [], failed := true })
/-- The command in whose name a command accesses memory: a vector command's port access is its binding's (R402, R406). -/
def accessCmd (s : State) (cl : Nat) (c : Cmd) : Cmd :=
  if cmdMajor c = 0x33 then ((portAt s cl (vecPort c)).bindings.head?).elim c (ofBinding c) else c
/-- What its parts have come to is entered into a command; a vector command whose port access has failed goes on with poisoned lanes
(R408). -/
def enterParts (s : State) (cl u : Nat) (c d : Cmd) : State :=
  if cmdMajor c = 0x33 ∧ d.failed then
    let t := (accessCmd s cl c).tid
    let s := setPort s cl (vecPort c) { portAt s cl (vecPort c) with bindings := [], failed := true }
    modThread (modRunning s cl u (fun _ => { c with frost := [], froze := [], got := [], lanes := [] })) t (fun th => { th with failTask := true })
  else modRunning s cl u (fun _ => { d with tid := c.tid, word := c.word })
def thawUnit (g : Freeze → Thaw) (s : State) (cl u : Nat) : State :=
  match (unitAt s cl u).running with
  | some c =>
    if c.frost.isEmpty then s else
    let r := thawParts g s (accessCmd s cl c) c.frost
    enterParts r.1 cl u c r.2
  | none => s

/-- Every frozen access of the nodes and commands of a context. -/
def thawForms (g : Freeze → Thaw) (s : State) (x : Nat) : State :=
  (s.forms.filter (fun p => p.2.ctx == x)).foldl (fun s p => (List.range p.2.nodes.length).foldl (thawNode g p.1) s) s
def thawUnits (g : Freeze → Thaw) (s : State) (x : Nat) : State :=
  (s.clusters.filter (fun p => decide (p.2.bound = some x))).foldl (fun s p =>
    allUnits.foldl (fun s u => if ((unitAt s p.1 u).running.any (fun c => c.ctx == x)) then thawUnit g s p.1 u else s) s) s
def thawAll (g : Freeze → Thaw) (s : State) (x : Nat) : State := thawUnits g (thawForms g s x) x

/-! Fills (R110, R111, R194, R409). -/

/-- Freezes with reason 6 or 7 on a flash page. -/
def onPage (p : Nat) (t : Thaw) (z : Freeze) : Thaw := if 6 ≤ z.reason ∧ z.reason ≤ 7 ∧ z.fpage = p then t else .stay

/-- Freezes with reason 6 on a flash page whose fill finds no frame go on with reason 7 (R111). -/
def onFrameless (p : Nat) (z : Freeze) : Thaw := if z.reason = 6 ∧ z.fpage = p then .refreeze 7 else .stay

/-- A thread frozen on a page retries its access; where the fill has failed it takes the trap, unless an asynchronous trap is to be taken
first, with `epc` at the access, which is then executed again (R194, R433). -/
def thawThread (x p : Nat) (fail : Option Nat) (s : State) (t : Nat) : State :=
  match tblGet t s.threads with
  | some th =>
    match th.wait with
    | .fill q d a since =>
      if th.ctx = x ∧ q = p then
        let s := waitAt (addCounter s x 0x80 (s.now - since)) t .none
        match fail with
        | none => s
        | some r => if th.asyncs.isEmpty || inTrap th then raiseTrap s t ⟨4, d + r, a⟩ else s
      else s
    | _ => s
  | none => s

/-- A launch whose check waits for a page that cannot be filled is refused (R39, R391). -/
def failCheck (x p : Nat) (s : State) (n : Nat) : State :=
  match tblGet n s.launches with
  | some l =>
    match l.fill with
    | some (q, a, d) => if l.ctx = x ∧ q = p ∧ !l.admitted then refuseLaunch s n l ⟨10, d / 2 ^ 32, d % 2 ^ 32, a⟩ else s
    | none => s
  | none => s
/-- A graph whose page cannot be filled is rejected (R171), with a lower reason where the records that have been read meet one (R394); nothing
starts the fill anew (R409). -/
def failPlacing (x p r : Nat) (s : State) (f : Nat) : State :=
  match formAt s f with
  | some fm =>
    match fm.fill with
    | some (q, a) =>
      if fm.ctx = x ∧ q = p ∧ fm.phase = .ready then
        let q := readGraph s f fm (some (p, r)) (lateReasons s f fm)
        rejectForm { q.1 with fills := s.fills } f fm (match q.2 with
          | .reject j => j
          | _ => ⟨13, noNode, r, some a⟩)
      else s
    | none => s
  | none => s

/-- A fill ends, and everything frozen on its page is woken (R110 step 5). -/
def endFill (s : State) (x p : Nat) : State :=
  let s := { s with fills := tblDel (fillKey x p) s.fills }
  let s := thawAll (onPage p .wake) s x
  (s.threads.map (·.1)).foldl (thawThread x p none) s
/-- A fill ends with a fault: threads raise it, checks and placements that wait end; nodes and commands freeze with it or, for reason 8,
end (R194, R402, R409). -/
def failFill (s : State) (x p reason frame : Nat) : State :=
  let s := { s with fills := tblDel (fillKey x p) s.fills }
  let t : Thaw := if reason = 8 then .fail (8 + frame / 65536 * 65536) else .refreeze reason
  let s := thawAll (onPage p t) s x
  let s := (s.launches.map (·.1)).foldl (failCheck x p) s
  let s := (s.forms.map (·.1)).foldl (failPlacing x p reason) s
  (s.threads.map (·.1)).foldl (thawThread x p (some reason)) s

/-- The header of a context's fill ring. -/
structure RingHead where
  head : Nat
  tail : Nat
  lgsize : Nat
  deriving DecidableEq, Repr
def ringHead (s : State) (c : Ctx) : State × RingHead :=
  let r := hbmRead s c.masks c.fring 9
  (r.1, ⟨leNat (r.2.bytes.take 4), leNat ((r.2.bytes.drop 4).take 4), leNat ((r.2.bytes.drop 8).take 1)⟩)
def ringUsed (h : RingHead) : Nat := (h.tail + 2 ^ 32 - h.head) % 2 ^ 32
def ringMalformed (h : RingHead) : Bool := decide (h.lgsize < 4 ∨ 20 < h.lgsize ∨ 2 ^ h.lgsize < ringUsed h)

def setFill (s : State) (x p : Nat) (g : Fill → Fill) : State := { s with fills := tblMod (fillKey x p) g s.fills }
/-- A fill finds no frame: what is frozen on its page has the reason "no frame" (R111). -/
def frameless (s : State) (x p : Nat) : State := thawAll (onFrameless p) (setFill s x p (fun fl => { fl with noFrame := true })) x

/-- R110 step 2, R111, R413: the fill of page `p` for context `x` takes the next frame of the fill ring; a ring that is empty or malformed
leaves it without a frame, and an entry that is no frame address, or that is read with an error, fails it; so does an entry that lies outside
the partition's ranges, which is not read (R371; log 114). -/
def execFillRingTake (x p : Nat) (s : State) : Out :=
  .next (match ctxOf s x, tblGet (fillKey x p) s.fills with
    | some c, some fl =>
      if fl.frame.isSome then s else
      let r := ringHead s c
      let s := r.1
      let h := r.2
      if ringMalformed h then
        let s := frameless s x p
        if c.ringBad then s
        else modCtx (writeRecord s x { plainRecord 4 3 7 with addr := c.fring }) x (fun c => { c with ringBad := true })
      else
        let s := modCtx s x (fun c => { c with ringBad := false })
        if ringUsed h = 0 then frameless s x p else
        let at_ := c.fring + 64 + 8 * (h.head % 2 ^ h.lgsize)
        if !paAllowed s x at_ 8 then failFill s x p 5 0 else
        let e := hbmRead s c.masks at_ 8
        let frame := leNat e.2.bytes
        let s := hbmWrite e.1 c.masks c.fring (leBytes ((h.head + 1) % 2 ^ 32) 4) false
        if e.2.reason ≠ 0 ∨ frame % 65536 ≠ 0 ∨ hbmBytes ≤ frame then failFill s x p 3 frame
        else if !paAllowed s x frame 65536 then failFill s x p 5 frame
        else setFill s x p (fun fl => { fl with frame := some frame, noFrame := false })
    | _, _ => s)

/-- The first half of a leaf entry with `pres` set and its frame (R105, R110). -/
def filledEntry (e frame : Nat) : Nat := putBits (putBits e 9 31 (frame / 512)) 6 1 1
/-- The bits [63:0] of an entry as they stand. -/
def entryNow (s : State) (c : Ctx) (ea : Nat) : Nat := leNat (cellsRead s.cells (hbmCell c.masks ea) 8)
/-- The compare-and-write that completes a fill (R108, R110): against the value that the fill read; where that has changed, and the tree now
ends elsewhere, no entry is written. -/
def writeFilled (s : State) (x p : Nat) (c : Ctx) (fl : Fill) (frame : Nat) : State :=
  let put (s : State) (ea v : Nat) : State := memStore s (hbmCell c.masks ea) (leBytes (filledEntry v frame) 8) false
  let lost (s : State) : State := writeRecord s x { plainRecord 4 6 7 with addr := fl.vaddr, detail := 6 + frame / 65536 * 65536 }
  match fl.entry.filter (fun e => decide (entryNow s c e.1 = e.2)) with
  | some e => put s e.1 e.2
  | none =>
    match walk s x fl.vaddr with
    | (s, .leaf level ea e) =>
      let l := leafOf level e
      if l.kind = 3 ∧ !l.pres ∧ l.fpage = p then put s ea (bitsOf e.toNat 0 64) else lost s
    | (s, .fault _) => lost s

/-- R110 steps 3 to 5, R409: the flash page has been read into the frame; the entry is written, and everything frozen on the page is woken. A
page that cannot be corrected ends the fill with reason 8. -/
def execFillComplete (x p : Nat) (s : State) : Out :=
  .next (match ctxOf s x, tblGet (fillKey x p) s.fills with
    | some c, some fl =>
      (match fl.frame with
       | none => s
       | some frame =>
         if setHas p s.flashBad then failFill s x p 8 frame else
         endFill (writeFilled (hbmWrite s c.masks frame (cellsRead s.cells (flashCell p 0) 65536) false) x p c fl frame) x p)
    | _, _ => s)

/-! Invalidations (R206, R404). -/

/-- Whether an invalidation covers an address: it lies in the leaf page that holds the invalidation's (R206). DESIGN CHOICE (log 110): where the
tree as it stands has no leaf there, the page is one of 64 KiB, the smallest. -/
def invalCovers (s : State) (v : Inval) (a : Nat) : Bool :=
  match v.vaddr with
  | none => true
  | some b =>
    let bits := match (walk s v.ctx b).2 with
      | .leaf level _ _ => levelBits level
      | .fault _ => 16
    decide (a / 2 ^ bits = b / 2 ^ bits)

/-- Whether a translated access to an address used an entry that an invalidation covers: one of the leaves used, of which copies are held, holds
both addresses (R206). -/
def usedCovered (s : State) (v : Inval) (a : Nat) : Bool :=
  match v.vaddr with
  | none => true
  | some b => s.copies.any (fun c => copyCovers v.ctx a c && copyCovers v.ctx b c)

/-- An access of the context to V that has been translated by a covered entry and is not yet performed (R206): a thread's load, store or full/empty
wait, a peer request, or a node's wait on a word. -/
def threadUses (s : State) (v : Inval) (th : Thread) : Bool :=
  th.posted.any (fun p => p.vaddr.any (usedCovered s v)) ||
  (match th.wait with
   | .load _ _ _ _ .v a => usedCovered s v a.toNat
   | .word _ .v a => usedCovered s v a
   | _ => false)
def accessUses (s : State) (v : Inval) (a : Access) : Bool :=
  match a.stage with
  | .waiting c => isHbmCell c && usedCovered s v a.addr
  | _ => false
def usesOld (s : State) (v : Inval) : Bool :=
  s.threads.any (fun t => decide (t.2.ctx = v.ctx) && threadUses s v t.2) ||
  s.requests.any (fun r => decide (r.2.ctx = v.ctx ∧ r.2.who ≠ .none) && usedCovered s v r.2.addr) ||
  s.forms.any (fun f => decide (f.2.ctx = v.ctx) && f.2.nodes.any (fun nd => nd.accs.any (accessUses s v)))

/-- A node's access that has been translated by a covered entry and waits for its turn is translated again. -/
def retranslate (s : State) (v : Inval) (a : Access) : Access :=
  match a.stage with
  | .ready t c => if (isHbmCell c ∨ t.peer) ∧ usedCovered s v a.addr then { a with stage := .begun } else a
  | _ => a
def retranslateForm (s : State) (v : Inval) (fm : Form) : Form :=
  if fm.ctx = v.ctx then { fm with nodes := fm.nodes.map (fun nd => { nd with accs := nd.accs.map (retranslate s v) }) } else fm

/-- Freezes that invalidation `k` wakes: it began after they froze (R404). -/
def onInval (s : State) (k : Nat) (v : Inval) (z : Freeze) : Thaw :=
  if 2 ≤ z.reason ∧ z.reason ≤ 5 ∧ z.after ≤ k ∧ invalCovers s v z.vaddr then .wake else .stay

/-- R206, R404: the invalidation `k` completes: no copy of a covered entry is held, and every access that used one has been performed. It
wakes its thread and the accesses frozen on covered entries. -/
def execXinvDone (k : Nat) (s : State) : Out :=
  .next (match tblGet k s.invals with
    | none => s
    | some v =>
      if usesOld s v then s else
      let s := dropCopies { s with invals := tblDel k s.invals, forms := tblMap (fun _ fm => retranslateForm s v fm) s.forms } v.ctx v.vaddr
      let s := thawAll (onInval s k v) s v.ctx
      (s.threads.filter (fun t => decide (t.2.wait = .xinv k))).foldl (fun s t => retire s t.1) s)

/-! The fault hold (R405). -/

def holdOver (now : Nat) (z : Freeze) : Bool := decide (2 ≤ z.reason ∧ z.reason ≤ 5 ∧ 100000000 ≤ now - z.since)
def onHold (now : Nat) (z : Freeze) : Thaw := if holdOver now z then .fail (256 + z.reason) else .stay

/-- R405: an access frozen with reason 2 to 5 for 100 ms is ended: of a command on unit `y` of cluster `x`, or access `k` of node `y` of
formation `x`; `k` = 2^32 - 1 names the node's configuration fetch. -/
def execFaultHoldExpire (cmd : Bool) (x y k : Nat) (s : State) : Out :=
  .next (
    if cmd then thawUnit (onHold s.now) s x y
    else if k = 0xFFFFFFFF then thawFetch (onHold s.now) x s y
    else thawAccess (onHold s.now) x y s k)

end Sys2Proof.Machine
end

