-- ==== Sys2Proof/Machine/Preempt.lean ====
section
/-! DEFINITION. The save area, the seal, lost contexts and the restore (R174, R211, R319 to R325, R376, R420 to R422; log 13). -/

namespace Sys2Proof.Machine

/-! Names of threads of a pre-empted context (log 13). -/

def lookupNat (l : List (Nat × Nat)) (t : Nat) : Nat := ((l.find? (fun p => p.1 == t)).map (·.2)).getD t
def renameSet (g : Nat → Nat) (l : NatSet) : NatSet := l.foldl (fun m t => setAdd (g t) m) []
def renameObj (g : Nat → Nat) (o : SetObj) : SetObj :=
  { o with members := renameSet g o.members, required := renameSet g o.required, arrived := renameSet g o.arrived,
           arrivedNext := renameSet g o.arrivedNext }
def renameOwner (g : Nat → Nat) : TxnOwner → TxnOwner
  | .thread t => .thread (g t)
  | o => o
def renameTxn (x : Nat) (g : Nat → Nat) (t : Txn) : Txn := if t.ctx = x then { t with owner := renameOwner g t.owner } else t
def renameSource (g : Nat → Nat) : Source → Source
  | .thread t => .thread (g t)
  | q => q

/-- The synchronisation objects, launches and arm requests of a context name its threads by other numbers. -/
def renameThreads (s : State) (x : Nat) (l : List (Nat × Nat)) : State :=
  let g := lookupNat l
  { s with
    sets := tblMap (fun k o => if k / 256 = x then renameObj g o else o) s.sets
    txns := tblMap (fun _ t => renameTxn x g t) s.txns
    heirs := s.heirs.map (renameTxn x g)
    lockItems := s.lockItems.map (fun i => if i.ctx = x then { i with queue := i.queue.map (fun r => { r with tid := g r.tid }) } else i)
    launches := tblMap (fun _ n => if n.ctx = x then { n with source := renameSource g n.source } else n) s.launches
    lastOf := s.lastOf.map (fun p => (renameSource g p.1, p.2))
    forms := tblMap (fun _ f => if f.ctx = x then { f with arm := f.arm.map g } else f) s.forms }

/-! The save area's bytes (R321 to R323). -/

def padTo (n : Nat) (bs : List Byte) : List Byte := bs ++ List.replicate (n - bs.length) 0
def exactly (n : Nat) (bs : List Byte) : List Byte := padTo n (bs.take n)
/-- Records follow one another, each aligned to 4 KiB. -/
def aligned (bs : List Byte) : List Byte := padTo (roundUpTo 4096 bs.length) bs
def wordBytes (w : Word) : List Byte := leBytes w.toNat 8
def maskBytes (k : Masks) : List Byte :=
  wordBytes k.m0 ++ wordBytes k.m1 ++ wordBytes k.m2 ++ wordBytes k.m3 ++ wordBytes k.m4 ++ wordBytes k.m5 ++ wordBytes k.m6

/-- A pending trap's two bytes. -/
def trapBytes (a : AsyncTrap) : List Byte := leBytes (if a.code = 0x11 then 0x8000 else a.detail % 64) 2

/-- A thread record; `image` is the index of its cluster's image. -/
def threadRecord (quota : Nat) (image t : Nat) (th : Thread) : List Byte :=
  padTo 1024 (
    wordBytes th.pc ++ (List.range 31).flatMap (fun k => wordBytes (regGet th (BitVec.ofNat 5 (k + 1)))) ++
    wordBytes th.status ++ wordBytes th.cause ++ wordBytes th.epc ++ wordBytes th.tvec ++ wordBytes th.evaddr ++
    wordBytes th.escratch ++ wordBytes th.spillov ++ leBytes th.spillsz 8 ++ leBytes th.prio 8 ++ leBytes th.setid 8 ++
    leBytes th.icnt 8 ++ leBytes quota 8 ++ maskBytes th.masks ++ leBytes image 2 ++ leBytes (slotOf t) 1 ++ [0] ++
    leBytes th.task 4 ++ leBytes th.launch 4 ++ leBytes th.asyncs.length 2 ++ th.asyncs.flatMap trapBytes)

/-- A range of memory with its word map (R323): bit 0 full, bit 1 poisoned, for each 32-bit word. -/
def mapBits (s : State) (full : Bool) (c : Nat) : Nat :=
  (if full && setHas c s.full then 1 else 0) + (if setHas c s.marks then 2 else 0)
def mapByte (s : State) (full : Bool) (c j : Nat) : Byte :=
  let b (k : Nat) : Nat := mapBits s full (c + 16 * j + 4 * k)
  BitVec.ofNat 8 (b 0 + 4 * b 1 + 16 * b 2 + 64 * b 3)
def wordMap (s : State) (full : Bool) (c n : Nat) : List Byte := (List.range (n / 16)).map (mapByte s full c)

/-- Ranges read for a save: an uncorrectable error is detected, and its mark recorded (R420). -/
def saveRead (s : State) (c n : Nat) : State × List Byte :=
  let r := memRead s c n
  (r.1, r.2.bytes)
/-- The eight islands of a core scratchpad. -/
def islandCells (cl : Nat) : List Nat := (List.range 8).map (fun k => islandCell (siteId cl k 0) 0)
def readIslands (s : State) : List Nat → State × List Byte
  | [] => (s, [])
  | c :: rest =>
    let r := saveRead s c 65536
    let q := readIslands r.1 rest
    (q.1, r.2 ++ q.2)
def islandMaps (s : State) (cs : List Nat) : List Byte := cs.flatMap (fun c => wordMap s true c 65536)

/-- A command in 192 bytes, and a stream binding in 40, of the 160 of its port (R323; the order of the fields is that of log 13). -/
def cmdBytes (c : Cmd) : List Byte :=
  leBytes c.word 4 ++ leBytes c.tid 2 ++ leBytes c.handle 2 ++ wordBytes c.ga ++ wordBytes c.gb ++ (padTo 64 c.desc).take 64 ++ maskBytes c.masks ++
  leBytes c.step 8 ++ leBytes c.la.toNat 40
def bindBytes (b : Binding) : List Byte :=
  leBytes b.base 8 ++ ((b.counts.zip b.strides).flatMap (fun p => leBytes p.1 4 ++ leBytes (wrapInt 32 p.2) 4)) ++ leBytes b.pos 5 ++
  leBytes (b.tid + b.fmt * 2 ^ 10 + b.spaceV.toNat * 2 ^ 14 + b.eos.toNat * 2 ^ 15 + b.swap.toNat * 2 ^ 16 + b.wait.toNat * 2 ^ 17) 3
/-- The control area of a cluster image: handles, saturation flags, queued and stopped commands, bindings (R323). -/
def controlBytes (s : State) (cl : Nat) : List Byte :=
  let hs := (List.range 64).flatMap (fun h => leBytes (handleBits (handleAt s cl h)) 16)
  let sat := leBytes (((List.range 8).map (fun k => if satGet s cl k then 2 ^ k else 0)).sum) 1
  let cs := allUnits.flatMap (fun u => padTo 1536 ((unitCmds (unitAt s cl u)).flatMap cmdBytes))
  let bs := (List.range 72).flatMap (fun p => padTo 160 ((portAt s cl p).bindings.flatMap bindBytes))
  padTo 0x10000 (padTo 0x8000 (padTo 0x1000 (hs ++ sat) ++ cs) ++ bs)

/-- A cluster image (R323). -/
def clusterImage (s : State) (cl : Nat) : State × List Byte :=
  let control := controlBytes s cl
  let w := saveRead s (wCell cl 0) 0x200000
  let a := saveRead w.1 (aCell cl 0) 0x200000
  let c := saveRead a.1 (cCell cl 0) 0x100000
  let p := readIslands c.1 (islandCells cl)
  let s := p.1
  (s, control ++ w.2 ++ a.2 ++ c.2 ++ p.2 ++ wordMap s false (wCell cl 0) 0x200000 ++ wordMap s true (aCell cl 0) 0x200000 ++
      wordMap s true (cCell cl 0) 0x100000 ++ islandMaps s (islandCells cl))

/-- The accesses that a node gave up for the cut, and their tokens, ahead of those that it held (R320). -/
def keptTokens (nd : Node) : Nat × List (Nat × Tok) :=
  let open_ := nd.kept.filter (fun a => !performed a)
  (open_.length, open_.flatMap (fun a => (0, a.ta) :: (if takesPort nd 1 a then [(1, a.tb)] else [])))
def savedTokens (nd : Node) : List (Nat × Tok) := (keptTokens nd).2 ++ nd.held
/-- The turns, counted as firings, in which the MARK has passed a node: three of a carry, which takes it, emits it and takes it back (R307);
none of a matrix node or of a source port. -/
def markTurns (nd : Node) : Nat :=
  if !nd.marked || decide (nd.cls = 4) || (decide (nd.cls = 5) && !portSink nd.word) then 0
  else if nd.cls = 2 ∧ swOp (curWord nd) = 4 then 3 else 1
/-- A node's progress, and what its chase field holds (R323): the MARK is no firing of it, an access that was given up is not begun, and a
matrix node counts the operations that it has issued. -/
def nodePos (s : State) (fm : Form) (nd : Node) : Nat × Nat :=
  if nd.cls = 5 then
    match portOf fm nd with
    | some cp => ((((portAt s cp.1 cp.2).bindings.head?).map (·.pos)).getD 0, (portAt s cp.1 cp.2).ordinal % 2 ^ 32)
    | none => (0, 0)
  else (if nd.cls = 4 then nd.ops else if nd.cls = 1 then nd.began - (keptTokens nd).1 else nd.fires - markTurns nd, if nd.cls = 0 then tokBits nd.chase else 0)
def heldBytes (h : Nat × Tok) : List Byte := leBytes (tokBits h.2 + h.1 % 8 * 2 ^ 40) 8
def nodeRecordBytes (s : State) (fm : Form) (nd : Node) : List Byte :=
  let p := nodePos s fm nd
  leBytes nd.sel.toNat 1 ++ leBytes (savedTokens nd).length 1 ++ leBytes nd.grp.isNone.toNat 1 ++ leBytes 0 5 ++ leBytes p.1 8 ++ leBytes p.2 8 ++
  leBytes ((nd.grp.map (·.1.toNat)).getD 0) 40 ++ padTo 256 ((savedTokens nd).flatMap heldBytes)
def nodeMapBytes (nd : Node) : List Byte :=
  leBytes nd.num 4 ++ leBytes nd.wher 4 ++
  ((nd.loops ++ List.replicate (4 - nd.loops.length) 0xFFFF).flatMap (fun l => leBytes l 2))

def islesBytes (s : State) : List Nat → State × List Byte
  | [] => (s, [])
  | i :: rest =>
    let r := saveRead s (islandCell i 0) 65536
    let q := islesBytes r.1 rest
    (q.1, r.2 ++ wordMap r.1 true (islandCell i 0) 65536 ++ q.2)

/-- A formation record; `images` are the clusters that have an image, in order. -/
def formRecord (s : State) (images : List Nat) (fm : Form) : State × List Byte :=
  let home := (fm.home.bind (fun c => images.findIdx? (fun i => i == c))).getD 0xFFFF
  let r := islesBytes s fm.isles
  (r.1,
    leBytes fm.graph 8 ++ (if fm.arm.isSome then leBytes fm.num 8 else leBytes (fm.launch % 2 ^ 32 * 2 ^ 32 + fm.task) 8) ++
    leBytes home 2 ++ leBytes fm.nodes.length 2 ++ leBytes fm.isles.length 2 ++ leBytes 0 2 ++
    ((fm.consts ++ List.replicate (8 - fm.consts.length) 0).flatMap (fun (c : BitVec 32) => leBytes c.toNat 4)) ++ maskBytes fm.masks ++ List.replicate 144 0 ++
    fm.nodes.flatMap nodeMapBytes ++ fm.nodes.flatMap (nodeRecordBytes s fm) ++ r.2)

def joinRecords (s : State) {α : Type} (g : State → α → State × List Byte) : List α → State × List Byte
  | [] => (s, [])
  | x :: rest =>
    let r := g s x
    let q := joinRecords r.1 g rest
    (q.1, aligned r.2 ++ q.2)

/-- The header's bytes before its tag. -/
def saveHeader (x when_ nthread nclust nform epoch bytes : Nat) (tag : List Byte) : List Byte :=
  padTo 4096 ([0x53, 0x41, 0x56, 0x31] ++ leBytes 1 2 ++ leBytes x 2 ++ leBytes when_ 8 ++ leBytes nthread 2 ++ leBytes nclust 2 ++
    leBytes nform 2 ++ leBytes (epoch % 65536) 2 ++ leBytes bytes 8 ++ tag)

/-- The customisation string `LX400SAVE` of the save area's MAC (R376). -/
def saveName : List Byte := [0x4C, 0x58, 0x34, 0x30, 0x30, 0x53, 0x41, 0x56, 0x45]
/-- The 128-bit MAC of a save area under a save key (R322, R376). -/
def saveMac (key bs : List Byte) : List Byte := exactly 16 (Config.kmac256 key bs 128 saveName)

/-- The whole save area: its header with the tag over all of it (R322). -/
def saveArea (s : State) (x : Nat) (c : Ctx) (ts : Tbl Thread) (images : List Nat) (fs : List Form) : State × List Byte :=
  let quota := if c.quotaOn then (c.quota % 2 ^ 64).toNat else 0x7FFFFFFFFFFFFFFF
  let tb := ts.flatMap (fun t => aligned (threadRecord quota ((images.findIdx? (fun i => i == clusterOf t.1)).getD 0) t.1 t.2))
  let ib := joinRecords s clusterImage images
  let fb := joinRecords ib.1 (fun s fm => formRecord s images fm) fs
  let body := tb ++ ib.2 ++ fb.2
  let head (tag : List Byte) : List Byte :=
    saveHeader x s.now ts.length images.length fs.length c.epoch (4096 + body.length) tag
  (fb.1, head (saveMac c.saveKey (head (List.replicate 16 0) ++ body)) ++ body)

/-! The seal (R319 steps 5 and 6). -/

/-- A formation whose cut is complete: every node has passed the MARK, and every arc is empty (R320). -/
def cutDone (fm : Form) : Bool :=
  fm.nodes.all (fun nd => !isActive nd || nd.marked) && fm.arcs.all (fun a => a.toks.isEmpty)
/-- A thread stands at an instruction whose reply from a peer page pre-emption waits for (R252): `red.ladd`, `red.ldrain`, `lkreg`. -/
def waitsForReply (s : State) (t : Nat) : Bool := (tblGet t s.threads).any (fun th =>
  match decodeControl (BitVec.ofNat 32 th.word) with
  | .ok (.redLadd _ _ _) => true
  | .ok (.redLdrain _ _ _ _ _) => true
  | .ok (.lkreg _ _) => true
  | _ => false)
/-- A thread that can be saved: no store or atomic of it on a peer page is on its way, and no read that pre-emption waits for. -/
def threadStopped (s : State) (t : Nat) : Bool := !s.requests.any (fun r =>
  (match r.2.who with
   | .thread u _ => u == t && (r.2.type != 1 || waitsForReply s t)
   | _ => false))
def unitsStopped (s : State) (cl : Nat) : Bool := allUnits.all (fun u => (unitAt s cl u).running.isNone)
def maySeal (s : State) (x : Nat) : Bool :=
  (threadsOf s x).all (fun t => threadStopped s t.1) && (clustersOf s x).all (unitsStopped s) &&
  s.forms.all (fun f => decide (f.2.ctx ≠ x ∨ f.2.phase = .ready) || (decide (f.2.phase = .cutting) && cutDone f.2))

/-- A thread stops for a save: its posted stores are performed, what it waits in is abandoned, and its loads from peer devices are no
longer waited for (R174; log 13). -/
def stopForSave (s : State) (t : Nat) : State :=
  match tblGet t s.threads with
  | none => s
  | some th =>
    let s := th.posted.foldl (fun s p => putBytes s p.cell p.bytes false) (modThread s t (fun th => { th with posted := [] }))
    let s := abandonWait s t
    { s with requests := tblMap (fun _ r => match r.who with
        | .thread u _ => if u = t then { r with who := .none } else r
        | .fetch u => if u = t then { r with who := .none } else r
        | _ => r) s.requests }

/-- A cluster leaves its context. -/
def releaseCluster (x : Nat) (s : State) (c : Nat) : State :=
  modCluster s c (fun k => { k with
    bound := none, lastCtx := some x, units := k.units.map (fun u => (u.1, { u.2 with queue := [], running := none }))
    ports := k.ports.map (fun p => (p.1, { p.2 with holder := none, bindings := [], failed := false })) })

/-- Tasks of a context change state, from one to another. -/
def moveTasks (s : State) (x : Nat) (a b : ItemState) : State :=
  { s with launches := tblMap (fun _ l => if l.ctx = x then
      { l with tasks := l.tasks.map (fun t => if t.state = a then { t with state := b } else t) } else l) s.launches }

/-- R319, R321 to R323: everything of context `x` has stopped; its save area is written and sealed, and its clusters and sites are
released. -/
def execSaveSeal (x : Nat) (s : State) : Out :=
  .next (match ctxOf s x with
    | none => s
    | some c =>
      if c.phase ≠ .stopping || !maySeal s x then s else
      let s := ((threadsOf s x).map (·.1)).foldl stopForSave s
      let ts := threadsOf s x
      let images := clustersOf s x
      let fs := (s.forms.filter (fun f => decide (f.2.ctx = x ∧ f.2.phase = .cutting))).map (·.2)
      let r := saveArea s x c ts images fs
      let s := hbmWrite r.1 c.masks c.save r.2 false
      let snap : Save := ⟨s.now, ts, images.map (fun i => (i, clusterAt s i))⟩
      let s := images.foldl (releaseCluster x) { s with
        threads := s.threads.filter (fun t => t.2.ctx != x), saves := tblSet x snap s.saves,
        forms := tblMap (fun _ f => if f.ctx = x ∧ f.phase = .cutting then { f with phase := .saved } else f) s.forms }
      let s := renameThreads (moveTasks s x .running .suspended) x (ts.map (fun t => (t.1, parkedTid x t.1)))
      modCtx (offerPlaces s) x (fun c => { c with phase := .suspended, sealTime := s.now, seals := c.seals + 1 }))

/-! Lost contexts (R420, R421). -/

/-- A unit of a lost context: queued and stopped commands are discarded, and a running one too unless it is a copy. -/
def loseUnit (q : UnitQ) : UnitQ := { q with queue := [], running := q.running.filter (fun c => cmdMajor c == 0x31) }
def loseCluster (s : State) (c : Nat) : State :=
  let gone (q : UnitQ) : Bool := (loseUnit q).running.isNone
  let zs := (clusterAt s c).units.flatMap (fun u => if gone u.2 then (u.2.running.map (·.frost)).getD [] else [])
  let s := match (clusterAt s c).bound with
    | some x => countFrosts s x zs
    | none => s
  let s := modCluster s c (fun k => { k with units := k.units.map (fun u => (u.1, loseUnit u.2)), ports := k.ports.map (fun p => (p.1, { p.2 with bindings := [] })) })
  let leave (r : PeerReq) : PeerReq := match r.who with
    | .unit a b _ => if a = c ∧ (unitAt s a b).running.isNone then { r with who := .none } else r
    | _ => r
  unbindIfIdle { s with requests := tblMap (fun _ r => leave r) s.requests } c
def loseForm (s : State) (f : Nat) : State :=
  match formAt s f with
  | some fm => if formLive fm then tearDown s f else s
  | none => s

def dropThreadWaits (t : Nat) (s : State) : State :=
  { s with wordWaits := (s.wordWaits.map (fun p => (p.1, p.2.filter (fun w => match w.who with
      | .thread u _ => u != t
      | _ => true)))).filter (fun p => !p.2.isEmpty) }

/-- R421: a context is marked lost. Its sets, locks and tag entries stay, under names that no thread has. -/
def markLost (s : State) (x : Nat) : State :=
  match ctxOf s x with
  | none => s
  | some c =>
    if c.phase = .lost then s else
    let s := modCtx s x (fun c => { c with phase := .lost })
    let ts := (threadsOf s x).map (·.1)
    let s := ts.foldl (fun s t => (dropThreadWaits t (stopForSave s t))) s
    let s := { s with threads := s.threads.filter (fun t => t.2.ctx != x), saves := tblDel x s.saves }
    let s := renameThreads s x (ts.map (fun t => (t, parkedTid x t)))
    let s := loseLaunches s x
    let s : State := { s with forms := s.forms.filter (fun f : Nat × Form => !decide (f.2.ctx = x ∧ (f.2.phase = .ready ∨ f.2.phase = .placing ∨ f.2.phase = .saved))) }
    let s := ((s.forms.filter (fun f : Nat × Form => decide (f.2.ctx = x))).map (·.1)).foldl loseForm s
    offerPlaces ((clustersOf s x).foldl loseCluster s)
/-- R420: an error in state that the device holds for a context. -/
def hitContext (s : State) (x code : Nat) : State :=
  markLost (writeRecord s x { plainRecord 0x26 11 7 with detail := code }) x

/-- The contexts that a turn has struck are lost with its end (R420, R427). -/
def settleStruck (s : State) : State :=
  { s.struck.foldl (fun s x => if (ctxOf s x).any (fun c => decide (c.phase ≠ .lost)) then hitContext s x 5 else s) s with struck := [] }

/-! The restore (R325, R422). -/

/-- A range of memory and its bits put back from a save area (R325). -/
def putMap (c : Nat) (full : Bool) (s : State) (p : Nat × Byte) : State :=
  let v := p.2.toNat
  (List.range 4).foldl (fun s k =>
    let w := c + 16 * p.1 + 4 * k
    let b := v / 4 ^ k % 4
    { s with
      full := if full then setPut (decide (b % 2 = 1)) w s.full else s.full
      marks := setPut (decide (2 ≤ b)) w s.marks }) s
def putRange (s : State) (c : Nat) (full : Bool) (bs map : List Byte) : State :=
  let s := { s with cells := cellsWrite s.cells c bs, errs := setDelRange c (c + bs.length) s.errs }
  ((List.range map.length).zip map).foldl (putMap c full) s
def cut (bs : List Byte) (off n : Nat) : List Byte := (bs.drop off).take n
def putIslands (s : State) (bs maps : List Byte) : Nat → List Nat → State
  | _, [] => s
  | k, c :: rest => putIslands (putRange s c true (cut bs (65536 * k) 65536) (cut maps (4096 * k) 4096)) bs maps (k + 1) rest

/-- The threads of an image's cluster in the cluster that receives it. -/
def movedTid (cl t : Nat) : Nat := 16 * cl + t % 16
def moveCmd (cl : Nat) (c : Cmd) : Cmd := { c with tid := if c.node.isSome then c.tid else movedTid cl c.tid }
def moveHandle (cl : Nat) (h : Handle) : Handle := { h with owner := movedTid cl h.owner, claimed := h.claimed.map (movedTid cl) }
def carryPort (cl : Nat) (p : Port) : Port := { p with bindings := p.bindings.map (fun b => { b with tid := movedTid cl b.tid }) }

/-- An image is written into a cluster, which becomes bound to the context (R325 steps 3 and 6). -/
def putImage (x : Nat) (s : State) (img : Cluster) (bs : List Byte) (c : Nat) : State :=
  let s := putRange s (wCell c 0) false (cut bs 0x10000 0x200000) (cut bs 0x590000 0x20000)
  let s := putRange s (aCell c 0) true (cut bs 0x210000 0x200000) (cut bs 0x5B0000 0x20000)
  let s := putRange s (cCell c 0) true (cut bs 0x410000 0x100000) (cut bs 0x5D0000 0x10000)
  let s := putIslands s (cut bs 0x510000 0x80000) (cut bs 0x5E0000 0x8000) 0 (islandCells c)
  modCluster s c (fun k => { k with
    bound := some x, handles := img.handles.map (fun h => (h.1, moveHandle c h.2)), sat := img.sat
    units := img.units.map (fun u => (u.1, { u.2 with queue := u.2.queue.map (moveCmd c) }))
    ports := img.ports.map (fun p => (p.1, carryPort c p.2)) })
def putImages (x : Nat) (s : State) (bs : List Byte) (off : Nat) : List ((Nat × Cluster) × Nat) → State
  | [] => s
  | (img, c) :: rest => putImages x (putImage x s img.2 (cut bs off 0x5E8000) c) bs (off + 0x5E8000) rest

/-- The graph of a formation that stands, as the placer needs it to place it again. -/
def graphOf (fm : Form) : Graph :=
  { table := 0, pool := [], scratch := fm.isles.length
    nodes := fm.nodes.map (fun nd => ⟨nd.num, nd.cls, (if nd.overlay.isSome then 1 else 0) + (if nd.memSwap then 2 else 0),
      nd.overlay.getD 0xFFFF, nd.word, nd.ii, nd.loops.head?.getD 0xFFFF⟩)
    arcs := (fm.arcs.filter (fun a => !a.lane)).map (fun a => ⟨a.src, a.fport, a.dst, a.tport, a.cap, 0⟩) }

/-- An access that a cut gave up begins again, where the formation now stands (R325). -/
def beginAgain (s : State) (fm : Form) (nd : Node) (a : Access) : Access :=
  if performed a then a else
  let stage : Stage :=
    if nd.cls = 5 then
      match (portOf fm nd).bind (fun cp => ((portAt s cp.1 cp.2).bindings.head?).map (fun b => (cp.1, b))) with
      | some (cl, b) => if b.spaceV then .begun else .ready noTarget (aCell cl a.addr)
      | none => .begun
    else if memSpaceOf a.word = .v then .begun else .ready noTarget (nodeCell fm (memSpaceOf a.word) a.addr)
  { a with stage := stage, got := [] }
/-- New places, accesses begun again, held tokens offered again, and words to be loaded again (R75, R325 steps 4 to 6); `w` is the node's
place and `v` that of its shadow. -/
def rehomeNode (s : State) (fm : Form) (nd : Node) (w v : Nat) : Node :=
  { nd with
    wher := w % 2 ^ 32, slot := w / 2 ^ 32, slotShadow := v / 2 ^ 32, asked := !nd.held.isEmpty || !nd.kept.isEmpty, loaded := false, marked := false
    accs := nd.accs ++ nd.kept.map (beginAgain s fm nd), kept := [], offer := nd.offer ++ nd.held.map (fun h => (h.1, ⟨h.2, 0, s.tenths⟩)), held := []
    fetch := none, lastFire := none, conds := [], fires := nd.fires - markTurns nd }
def reroute : List Arc → List (List Nat) → List Arc
  | [], _ => []
  | a :: rest, rs => if a.lane then a :: reroute rest rs else match rs with
    | r :: rs => { a with route := r, swapped := [] } :: reroute rest rs
    | [] => a :: reroute rest []
/-- A formation placed again: its arcs' routes and its nodes' places. -/
def rehomeForm (cl : Nat → Nat) (fm : Form) (ws : List Nat) (routes : List (List Nat)) (isles : List Nat) : Form :=
  { fm with
    phase := .armed, home := fm.home.map cl, isles := isles, passed := false, moves := fm.moves + 1, arcs := reroute fm.arcs routes
    nodes := (fm.nodes.zip ws).map (fun p => { p.1 with wher := p.2 }) }
/-- Its nodes go on, once the bindings stand at its ports again. -/
def resumeNodes (s : State) (fm : Form) : List Node :=
  fm.nodes.map (fun nd => rehomeNode s fm nd nd.wher (((nd.shadowIdx.bind (fun k => fm.nodes[k]?)).map (·.wher)).getD nd.wher))
/-- A formation that a restore places again: its number, its places, and where its record begins. -/
structure Rehome where
  form : Nat
  ws : List Nat
  routes : List (List Nat)
  isles : List Nat
  off : Nat
  deriving DecidableEq, Repr
def rehomes (off : Nat) : List (Nat × Form) → List (List Nat) → List (List (List Nat)) → List (List Nat) → List Rehome
  | (f, fm) :: fs, w :: ws, r :: rs, i :: is =>
    ⟨f, w, r, i, off⟩ :: rehomes (off + roundUpTo 4096 (formRecordBytes fm.nodes.length fm.isles.length)) fs ws rs is
  | _, _, _, _ => []

/-- Every formation of the context can be placed as the placer chooses, one after another (R325 steps 1 and 4). -/
def placeAll (cl : Nat → Nat) (s : State) : List Rehome → Option State
  | [] => some s
  | h :: rest =>
    match formAt s h.form with
    | none => none
    | some fm =>
      let fm' := { fm with home := fm.home.map cl }
      if goodPlacement s h.form fm' (graphOf fm) h.ws h.routes h.isles then
        placeAll cl (modForm s h.form (fun fm => rehomeForm cl fm h.ws h.routes h.isles)) rest
      else none
def putIsles (s : State) (bs : List Byte) (off : Nat) : Nat → List Nat → State
  | _, [] => s
  | k, i :: rest =>
    putIsles (putRange s (islandCell i 0) true (cut bs (off + 69632 * k) 65536) (cut bs (off + 69632 * k + 65536) 4096)) bs off (k + 1) rest
def putFormIsles (bs : List Byte) (s : State) (h : Rehome) : State :=
  match formAt s h.form with
  | some fm => putIsles s bs (h.off + 256 + 336 * fm.nodes.length) 0 h.isles
  | none => s

/-- The checks of a save area (R422): its bytes, or the reason of the first that fails. -/
def checkSave (s : State) (x : Nat) (c : Ctx) : State × Except Nat (List Byte) :=
  let h := hbmRead s c.masks c.save 4096
  let b := h.2.bytes
  let bytes := field b 24 8
  if b.take 4 ≠ [0x53, 0x41, 0x56, 0x31] ∨ field b 4 2 ≠ 1 ∨ field b 6 2 ≠ x ∨ c.savesz < bytes then (h.1, .error 1)
  else if field b 8 8 ≠ c.sealTime then (h.1, .error 2) else
  let a := hbmRead h.1 c.masks c.save bytes
  if a.2.reason ≠ 0 ∨ h.2.reason ≠ 0 then (a.1, .error 4)
  else if saveMac c.saveKey (cut a.2.bytes 0 32 ++ List.replicate 16 0 ++ a.2.bytes.drop 48) ≠ cut a.2.bytes 32 16 then (a.1, .error 3)
  else (a.1, .ok a.2.bytes)

/-- The halts that hold a thread which is restored: those of its whole context, and its own that are still in force (R346). -/
def keptHolds (s : State) (th : Thread) : NatSet :=
  (ctxHolds s th.ctx).foldl (fun l k => setAdd k l) (th.halts.filter (fun k =>
    if k < 16 then (tblGet (th.ctx * 16 + k) s.halts).isSome else (tblGet (th.ctx * 8 + (k - 16)) s.breaks).isSome))
/-- The threads of a pre-empted context come back under the numbers of their new clusters (R173, R325 steps 3 and 7). -/
def restoreThread (cl : Nat → Nat) (s : State) (t : Nat × Thread) : State :=
  let n := 16 * cl (clusterOf t.1) + slotOf t.1
  { s with threads := tblSet n { t.2 with
      txnOwner := renameOwner (fun _ => n) t.2.txnOwner, halts := keptHolds s t.2, wait := .none, ifetch := none } s.threads }

/-- Every choice of so many of some clusters; `k` goes on from one. -/
def chooseClusters {α : Type} (k : List Nat → Option α) : Nat → List Nat → List Nat → Option α
  | 0, _, acc => k acc
  | n + 1, left, acc => left.findSome? (fun c => chooseClusters k n (left.filter (fun d => d != c)) (acc ++ [c]))
/-- Every way of placing saved formations, one after another; `k` goes on from one. -/
def searchForms {α : Type} (cl : Nat → Nat) (k : List Choice → Option α) : State → List (Nat × Form) → List Choice → Option α
  | _, [], acc => k acc
  | s, (f, fm) :: rest, acc => searchPlacement s f { fm with home := fm.home.map cl } (graphOf fm) (fun c =>
      searchForms cl k (modForm s f (fun fm => rehomeForm cl fm c.ws c.routes c.isles)) rest (acc ++ [c]))
/-- Where a pre-empted context can be restored (R325): the first clusters, and places for its formations, that a search finds (log 12). -/
def findRestore (s : State) (x : Nat) : Option (List Nat × List Choice) :=
  match tblGet x s.saves with
  | some v => chooseClusters (fun cs => searchForms (lookupNat ((v.images.map (·.1)).zip cs)) (fun ps => some (cs, ps)) s (savedForms s x) [])
      v.images.length (freeClusters s (partNum s x)) []
  | none => none
/-- A context that may be restored finds room; not one that has been passed over. -/
def mayReturn (s : State) (x : Nat) : Bool := !(savedForms s x).any (fun f => f.2.passed) && (findRestore s x).isSome
/-- Whether the placer serves a suspended context, whose first item is `i` (R315, R325): it has no formations to place, or no reserved item waits
and what is ahead has been passed over. -/
def placerServes (s : State) (i : Item) : Bool :=
  let p := partNum s i.ctx
  (savedForms s i.ctx).isEmpty || (((readyForms s p).filter (reservedItem s.now)).isEmpty && aheadPassed s p i)
/-- A suspended context ahead of an item can be restored before it (R313). -/
def returnsBefore (s : State) (i : Item) : Bool :=
  (suspendedItems s (partNum s i.ctx)).any (fun j => itemBefore s.now j i && placerServes s j && mayReturn s j.ctx)
/-- Whether it is a suspended context's turn (R313, R315, R325): no thread task ahead of its first item can be dispatched, and no context ahead
be restored, and the placer serves it. -/
def restoreTurn (s : State) (x : Nat) : Bool :=
  match firstItem s.now (ctxItems s x) with
  | none => true
  | some i =>
    (readyThreads s (partNum s x)).all (fun j => !(itemBefore s.now j i && (threadPlace s j).isSome)) && !returnsBefore s i && placerServes s i
/-- The formations of a context that could not be placed are passed over. -/
def passSaved (s : State) (x : Nat) : State :=
  { s with forms := tblMap (fun _ f => if f.ctx = x ∧ f.phase = .saved then { f with passed := true } else f) s.forms }
/-- An arm request that still waits goes to the cluster of its thread (R248, R325). -/
def followThread (x : Nat) (f : Form) : Form :=
  if f.ctx = x ∧ f.phase = .ready ∧ f.arm.isSome then { f with home := f.arm.map clusterOf } else f

/-- R325, R422: context `x` is restored as a whole: image i into cluster i of `clusters`, and its formations at the places given; where there is no
room so, as a search finds it (log 12). A save area that fails a check marks the context lost. -/
def execContextRestore (x : Nat) (clusters : List Nat) (wheres : List (List Nat)) (routes : List (List (List Nat)))
    (isles : List (List Nat)) (s : State) : Out :=
  .next (match ctxOf s x, tblGet x s.saves with
    | some c, some v =>
      let fs := savedForms s x
      let moved (cs : List Nat) : Nat → Nat := lookupNat ((v.images.map (·.1)).zip cs)
      let places (ws : List (List Nat)) (rs : List (List (List Nat))) (is : List (List Nat)) : List Rehome :=
        rehomes (4096 + 4096 * v.threads.length + 0x5E8000 * v.images.length) fs ws rs is
      if !mayRestore s x c || fs.any (fun f => f.2.passed) || !restoreTurn s x then s else
      let given := decide (clusters.length = v.images.length ∧ clusters.Nodup ∧ (places wheres routes isles).length = fs.length) &&
        clusters.all (fun k => (freeClusters s c.part).contains k) && (placeAll (moved clusters) s (places wheres routes isles)).isSome
      let choice := if given then some (clusters, places wheres routes isles)
        else (findRestore s x).map (fun q => (q.1, places (q.2.map (·.ws)) (q.2.map (·.routes)) (q.2.map (·.isles))))
      match choice.bind (fun q => (placeAll (moved q.1) s q.2).map (fun s' => (q, s'))) with
      | none => passSaved s x
      | some ((clusters, hs), s') =>
        let cl := moved clusters
        match checkSave s x c with
        | (s, .error r) => markLost (writeRecord s x { plainRecord 0x2A r 6 with addr := c.save }) x
        | (_, .ok bs) =>
          let s := (checkSave s' x c).1
          let s := putImages x s bs (4096 + 4096 * v.threads.length) (v.images.zip clusters)
          let s := hs.foldl (putFormIsles bs) s
          let s := hs.foldl (fun s h => modForm s h.form (fun fm => underHolds s { fm with nodes := resumeNodes s fm })) s
          let s := v.threads.foldl (restoreThread cl) s
          let s := renameThreads s x (v.threads.map (fun t => (parkedTid x t.1, 16 * cl (clusterOf t.1) + slotOf t.1)))
          let s := moveTasks { s with saves := tblDel x s.saves, forms := tblMap (fun _ f => followThread x f) s.forms } x .suspended .running
          let s := modCtx s x (fun c => { c with phase := .running, runSince := s.now })
          (v.threads.map (fun t => 16 * cl (clusterOf t.1) + slotOf t.1)).foldl (fun s t => finishThread (deliverWound s t) t) s
    | _, _ => s)

/-- R43, R313, R314, R324: thread task `k` of launch `l` is given a slot. It is not dispatched before an item of the partition that stands
ahead of it and can be dispatched too: a thread task, or a suspended item whose context can be restored. -/
def execThreadTaskDispatch (l k : Nat) (s : State) : Out :=
  .next (match tblGet l s.launches with
    | none => s
    | some n =>
      match taskAt n k with
      | none => s
      | some t =>
        let i : Item := ⟨n.ctx, n.prio, t.readyAt, l, k, 0⟩
        let items := readyThreads s (partNum s n.ctx)
        if !items.contains i || items.any (fun j => itemBefore s.now j i && (threadPlace s j).isSome) || returnsBefore s i then s else
        match threadPlace s i with
        | some c => dispatchThread s l k n t c
        | none => s)

end Sys2Proof.Machine
end

