-- ==== Sys2Proof/Machine/Objects.lean ====
section
/-! DEFINITION. The objects of the synchronisation engines: atomics, tickets, sequence cells and LA320 cells, and the checks of the overflow
area (R250 to R263, R427, R434, R435). -/

namespace Sys2Proof.Machine

/-! The lines that an engine reads back and writes (R427; log 87). -/

/-- An access of the engine for context `x` to `n` bytes from a cell, of which it reads lines back: where a check fails, the context is lost
(R420, R427). -/
def withLines (s : State) (x : Nat) (inS : Bool) (c n : Nat) (f : State → State) : State :=
  if (ovfLines inS c n).all (lineFits s x) then f s else hitContext s x 5
/-- Bytes that the engine writes for context `x`, with the checks of their lines. -/
def putObject (s : State) (x : Nat) (inS : Bool) (c : Nat) (bs : List Byte) (poison : Bool) : State :=
  noteLines (putBytes s c bs poison) x (ovfLines inS c bs.length)

/-- The place of an operand of the synchronisation engine (R251, R256): space V under R107 and the context's masks (R116), or S under
R250. -/
def syPlace (s : State) (t : Nat) (th : Thread) (inS : Bool) (x : Word) (n : Nat) (store : Bool) : State × Place :=
  if inS then sPlace s th x n store else place s t { th with masks := ctxMasks s th.ctx } .v x n needBoth store none
def sySpace (inS : Bool) : Space := if inS then .s else .v

/-! Atomics (R256 to R258). -/

/-- An atomic: on this device in one step; on a peer page as a request to its owner (R257). A poisoned word traps with reason 3, however
the poison was found (R387, R390; log 49). DEDUCED (log 50): the request for a peer's `amo.cas` carries the new value first and the
comparand second. -/
def amoInstr (s : State) (ok : Bool) (op n : Nat) (inS sx : Bool) (d a b : BitVec 5) : Out :=
  checked s ok (fun t th =>
    let x := regGet th a
    match syPlace s t th inS x n true with
    | (s, .at_ (.cell c)) =>
      withLines s th.ctx inS c n (fun s =>
        let r := memRead s c n
        if r.2.reason ≠ 0 then raiseTrap r.1 t (poisonTrap (sySpace inS) true 3 x.toNat) else
        let old := leNat r.2.bytes
        let s := match amoNew op n old (regGet th b).toNat (regGet th d).toNat with
          | some v => putObject r.1 th.ctx inS c (leBytes v n) false
          | none => r.1
        retireWith s t d (amoResult n sx old))
    | (s, .at_ (.peer dev pa)) =>
      let q := sendRequest s (.thread t d.toNat) th.ctx 5 dev pa n sx x.toNat
        (leBytes (regGet th b).toNat n ++ (if op = 9 then leBytes (regGet th d).toNat n else [])) false op
      waitAt q.1 t (.peer q.2)
    | (s, q) => stopAt s t q)

def amoInt (s : State) (op : Nat) (d a b : BitVec 5) (z : BitVec 2) (p x : BitVec 1) : Out :=
  amoInstr s (amoOk z x) op (2 ^ z.toNat) (decide (p = 1)) (decide (x = 1)) d a b

/-- R257: `amo.swap`. -/
def execAmoSwap (d a b : BitVec 5) (z : BitVec 2) (p x : BitVec 1) (s : State) : Out := amoInt s 0 d a b z p x
/-- R257: `amo.add`. -/
def execAmoAdd (d a b : BitVec 5) (z : BitVec 2) (p x : BitVec 1) (s : State) : Out := amoInt s 1 d a b z p x
/-- R257: `amo.and`. -/
def execAmoAnd (d a b : BitVec 5) (z : BitVec 2) (p x : BitVec 1) (s : State) : Out := amoInt s 2 d a b z p x
/-- R257: `amo.or`. -/
def execAmoOr (d a b : BitVec 5) (z : BitVec 2) (p x : BitVec 1) (s : State) : Out := amoInt s 3 d a b z p x
/-- R257: `amo.xor`. -/
def execAmoXor (d a b : BitVec 5) (z : BitVec 2) (p x : BitVec 1) (s : State) : Out := amoInt s 4 d a b z p x
/-- R257: `amo.min`. -/
def execAmoMin (d a b : BitVec 5) (z : BitVec 2) (p x : BitVec 1) (s : State) : Out := amoInt s 5 d a b z p x
/-- R257: `amo.max`. -/
def execAmoMax (d a b : BitVec 5) (z : BitVec 2) (p x : BitVec 1) (s : State) : Out := amoInt s 6 d a b z p x
/-- R257: `amo.minu`. -/
def execAmoMinu (d a b : BitVec 5) (z : BitVec 2) (p x : BitVec 1) (s : State) : Out := amoInt s 7 d a b z p x
/-- R257: `amo.maxu`. -/
def execAmoMaxu (d a b : BitVec 5) (z : BitVec 2) (p x : BitVec 1) (s : State) : Out := amoInt s 8 d a b z p x
/-- R257: `amo.cas`. -/
def execAmoCas (d a b : BitVec 5) (z : BitVec 2) (p x : BitVec 1) (s : State) : Out := amoInt s 9 d a b z p x
/-- R258: `amo.fmax`. -/
def execAmoFmax (d a b : BitVec 5) (z : BitVec 2) (p : BitVec 1) (s : State) : Out :=
  amoInstr s (amoFloatOk z) 10 (2 ^ z.toNat) (decide (p = 1)) false d a b
/-- R258: `amaxrr`. -/
def execAmaxrr (d a : BitVec 5) (z : BitVec 2) (p : BitVec 1) (s : State) : Out :=
  amoInstr s (amoFloatOk z) 11 (2 ^ z.toNat) (decide (p = 1)) false d a 0

/-! Tickets (R260). -/

/-- An operation on an object of `n` bytes in a cell; `f` is given what its `k` bytes hold, and whether they are poisoned. Of these
operations only `red.ldrain` traps on poison (R390; log 49): the others act on the bytes as they stand, and what they write stays marked.
`far` is what becomes of an object on a peer page. -/
def onObject (s : State) (t : Nat) (th : Thread) (inS : Bool) (x : Word) (n k : Nat) (store : Bool)
    (far : State → Nat → Nat → State) (f : State → Nat → Nat → Bool → State) : State :=
  match syPlace s t th inS x n store with
  | (s, .at_ (.cell c)) =>
    withLines s th.ctx inS c k (fun s =>
      let r := memRead s c k
      f r.1 c (leNat r.2.bytes) (decide (r.2.reason ≠ 0)))
  | (s, .at_ (.peer dev pa)) => far s dev pa
  | (s, q) => stopAt s t q
/-- An operand in space S lies on no peer page: one in an overflow area there is refused (R371, log 82). -/
def noPeer (t : Nat) (x : Word) (s : State) (_ _ : Nat) : State := raiseTrap s t (xlateTrap .s true 5 x.toNat)

/-- R260: `tkt`. -/
def execTkt (d a b : BitVec 5) (s : State) : Out :=
  onThread s (fun t th => onObject s t th true (regGet th a) 16 16 true (noPeer t (regGet th a)) (fun s c v bad =>
    let count := v % 2 ^ 64
    if v / 2 ^ 64 < count + (regGet th b).toNat then retireWith s t d 0xFFFFFFFFFFFFFFFF
    else retireWith (putObject s th.ctx true c (leBytes (count + (regGet th b).toNat) 8) bad) t d (BitVec.ofNat 64 count)))
/-- R260: `tkset`. -/
def execTkset (a b : BitVec 5) (s : State) : Out :=
  onThread s (fun t th => onObject s t th true (regGet th a) 16 16 true (noPeer t (regGet th a)) (fun s c _ _ =>
    retire (putObject s th.ctx true c (leBytes (min (regGet th b).toNat (2 ^ 63 - 1) * 2 ^ 64) 16) false) t))

/-! Sequence cells (R261, R262, R434, R435; log 20). The S bytes hold {next, value}; the waiting slots stand in `seqCells`. -/

/-- The sum of R261, rounded to nearest even. -/
def seqAdd (value slot : Nat) : Nat := rnd .f32 .rne false (xAdd .rne (floatVal .f32 value) (floatVal .f32 slot))

/-- Waiting contributions are applied while the slot of `next` is one (R261). -/
def seqApply (value next : Nat) (slots : Tbl (BitVec 32)) : Nat → Nat × Nat × Tbl (BitVec 32)
  | 0 => (value, next, slots)
  | f + 1 =>
    match tblGet next slots with
    | none => (value, next, slots)
    | some v => seqApply (seqAdd value v.toNat) ((next + 1) % 2 ^ 32) (tblDel next slots) f

/-- The reorder window of a cell; where nothing waits, what comes to wait does so from now on (R435). -/
def seqCellAt (s : State) (c : Nat) : SeqCell :=
  match tblGet c s.seqCells with
  | some q => if q.slots.isEmpty then { q with moved := s.now } else q
  | none => ⟨[], s.now, false⟩
/-- An empty window is kept only where its gap has been reported and `next` has not moved since. -/
def putSeqCell (s : State) (c : Nat) (q : SeqCell) : State :=
  { s with seqCells := if q.slots.isEmpty && !q.reported then tblDel c s.seqCells else tblSet c q s.seqCells }
/-- The record of a cell that is gapped and not yet reported: the `S:` operand value `a` names it, and its `next` is given (R435). -/
def settleGap (s : State) (x c a next : Nat) : State :=
  match tblGet c s.seqCells with
  | some q =>
    match q.slots with
    | (low, _) :: _ =>
      if q.reported ∨ s.now < q.moved + 1000000 then s else
      writeRecord { s with seqCells := tblSet c { q with reported := true } s.seqCells } x
        { plainRecord 0x25 5 7 with addr := a, detail := low * 2 ^ 32 + next }
    | [] => s
  | none => s

/-- The first 8 bytes of a sequence cell are written; the lines of all its 512 bytes, which hold the waiting contributions as well, get their
checks (R427). -/
def putSeqWords (s : State) (x c : Nat) (bs : List Byte) (poison : Bool) : State :=
  noteLines (putObject s x true c bs poison) x (ovfLines true c 512)

/-- R261, R435: `redinit`. The cell's window is emptied; a gap that has been reported stays so where `next` was 0 already, and does not move. -/
def execRedinit (a b : BitVec 5) (s : State) : Out :=
  onThread s (fun t th => onObject s t th true (regGet th a) 512 8 true (noPeer t (regGet th a)) (fun s c v _ =>
    let s := settleGap s th.ctx c (regGet th a).toNat (v / 2 ^ 32)
    let s := putSeqCell s c ⟨[], s.now, (seqCellAt s c).reported && decide (v / 2 ^ 32 = 0)⟩
    retire (putSeqWords s th.ctx c (leBytes ((regGet th b).toNat % 2 ^ 32) 8) false) t))
/-- R261, R262, R434: `red.fadd`. -/
def execRedFadd (d a b : BitVec 5) (s : State) : Out :=
  onThread s (fun t th => onObject s t th true (regGet th a) 512 8 true (noPeer t (regGet th a)) (fun s c v bad => withLines s th.ctx true c 512 (fun s =>
    let i := (regGet th d).toNat % 2 ^ 32
    let next := v / 2 ^ 32
    let s := settleGap s th.ctx c (regGet th a).toNat next
    let q := seqCellAt s c
    if i < next ∨ (tblGet i q.slots).isSome then raiseTrap s t ⟨8, i % 65536, 0⟩
    else if next + 56 ≤ i then waitAt s t .retry
    else
      let r := seqApply (v % 2 ^ 32) next (tblSet i ((regGet th b).truncate 32) q.slots) 57
      let still := decide (r.2.1 = next)
      let s := putSeqCell s c ⟨r.2.2, if still then q.moved else s.now, still && q.reported⟩
      retire (putSeqWords s th.ctx c (leBytes (r.2.1 * 2 ^ 32 + r.1) 8) bad) t)))
/-- R261: `redrd`. -/
def execRedrd (d a : BitVec 5) (s : State) : Out :=
  onThread s (fun t th => onObject s t th true (regGet th a) 512 8 false (noPeer t (regGet th a)) (fun s _ v _ => retireWith s t d (BitVec.ofNat 64 v)))

/-- The cell of an `S:` operand of a context, without the checks of a thread. -/
def sCellOf (s : State) (x a : Nat) : State × Option Nat :=
  match sOffset s x (a / 2 ^ 22) (a % 2 ^ 22) (ctxMasks s x) false with
  | (s, .at_ (.cell c)) => (s, some c)
  | (s, _) => (s, none)

/-- R435: a cell of context `x` at `S:` operand `a` is found gapped, and its record is written. -/
def execReductionGapped (x a : Nat) (s : State) : Out :=
  .next (match sCellOf s x a with
    | (s, some c) =>
      if (tblGet c s.seqCells).any (fun q => !q.slots.isEmpty && !q.reported && decide (q.moved + 1000000 ≤ s.now)) then
        withLines s x true c 512 (fun s => settleGap s x c a (readNat s (c + 4) 4))
      else s
    | (s, none) => s)

/-! LA320 cells (R259, R263). On a peer page, whose owner is reached by reads, writes and the atomics of R257 alone, `red.lclr` is a write
of the cell, `red.ldrain` a read, and `red.ladd` a read followed by a write, the read made again where this device has changed the cell in
between, so that its own additions take effect one at a time (log 88). -/

/-- The entry with an operand added (R263). -/
def laPlus (th : Thread) (b : BitVec 5) (f : BitVec 4) (old : Nat) : La :=
  laAdd (BitVec.ofNat 320 old) ⟨floatVal (scalarFmt f) (regBits th b (scalarFmt f)), false⟩
/-- A drain of an entry into a register, or its poison (R263). -/
def laDrainTo (s : State) (t : Nat) (d : BitVec 5) (inS : Bool) (x : Word) (f : BitVec 4) (r : BitVec 2) (v : Nat) (bad : Bool) : State :=
  let acc : La := BitVec.ofNat 320 v
  if bad || laPoison acc then raiseTrap s t (poisonTrap (sySpace inS) false 3 x.toNat)
  else retireWith s t d (BitVec.ofNat 64 (laDrain acc (scalarFmt f) (rndOfCode r.toNat) false))
/-- An LA320 cell on a peer page is read, or written as a whole. -/
def farRead (t : Nat) (th : Thread) (d : BitVec 5) (x : Word) (s : State) (dev pa : Nat) : State :=
  let q := sendRequest s (.thread t d.toNat) th.ctx 1 dev pa 64 false x.toNat [] false 0
  waitAt q.1 t (.peer q.2)
def farWrite (t : Nat) (th : Thread) (x : Word) (acc : La) (poison : Bool) (s : State) (dev pa : Nat) : State :=
  let q := sendRequest s (.thread t 0) th.ctx 3 dev pa 64 false x.toNat (laBytes acc) poison 0
  waitAt q.1 t (.peer q.2)

/-- R263: `red.ladd`. Bit 63 of `ga` chooses V (R259). -/
def execRedLadd (a b : BitVec 5) (f : BitVec 4) (s : State) : Out :=
  checked s (laFmtOk f) (fun t th =>
    let v := regGet th a
    let inS := !v.getLsbD 63
    let x := v &&& 0x7FFFFFFFFFFFFFFF
    onObject s t th inS x 64 40 true (if inS then noPeer t x else farRead t th 0 x) (fun s c old bad =>
      retire (putObject s th.ctx inS c (laBytes (laPlus th b f old)) bad) t))
/-- R263: `red.lclr`. -/
def execRedLclr (a : BitVec 5) (sp : BitVec 5) (s : State) : Out :=
  checked s (laSpaceOk sp) (fun t th =>
    let x := regGet th a
    let inS := decide (sp = 0)
    onObject s t th inS x 64 0 true (if inS then noPeer t x else farWrite t th x 0 false) (fun s c _ _ =>
      retire (putObject s th.ctx inS c (laBytes 0) false) t))
/-- R263: `red.ldrain`. -/
def execRedLdrain (d a sp : BitVec 5) (f : BitVec 4) (r : BitVec 2) (s : State) : Out :=
  checked s (laFmtOk f && laSpaceOk sp) (fun t th =>
    let x := regGet th a
    let inS := decide (sp = 0)
    onObject s t th inS x 64 40 false (if inS then noPeer t x else farRead t th d x) (fun s _ v bad => laDrainTo s t d inS x f r v bad))

end Sys2Proof.Machine
end

