-- ==== Sys2Proof/Machine/LockOps.lean ====
section
/-! DEFINITION. The lock instructions and fences (R146, R147, R268, R269, R275 to R277). -/

namespace Sys2Proof.Machine

/-- A lock operation that reads the records of items back: where the check of one that lies in the overflow area fails, the context is lost
(R420, R427). -/
def withItems (s : State) (x : Nat) (ws : List Nat) (f : State → State) : State :=
  if ws.all (fun w => (findItem s x w).line.all (lineFits s x)) then f s else hitContext s x 5

/-- An answer to a lock request in the thread's register, or the wait (R276). -/
def lockInstr (s : State) (d a : BitVec 5) (m : BitVec 3) (try_ : Bool) : Out :=
  onThread s (fun t th =>
    let w := (regGet th a).toNat
    withItems s th.ctx (w :: ((itemParent s th.ctx w).bind id).toList) (fun s =>
      match lockRequest s t th w m.toNat try_ with
      | (s, .status k) => retireWith s t d (BitVec.ofNat 64 k)
      | (s, .waits) => waitAt s t (.lock w d.toNat)))

/-- R273, R276: `lkacq`. -/
def execLkacq (d a : BitVec 5) (m : BitVec 3) (s : State) : Out := lockInstr s d a m false
/-- R276: `lktry`. -/
def execLktry (d a : BitVec 5) (m : BitVec 3) (s : State) : Out := lockInstr s d a m true

/-- The transaction that a thread's release acts on (R271, R277). -/
def releaseTxn (s : State) (t : Nat) (th : Thread) : Option Nat := txnOf s th.ctx (ownerFor s t th)

/-- Whether a transaction holds an item whose parent is `w`. -/
def holdsChild (s : State) (x n w : Nat) : Bool :=
  (itemsHeld s n).any (fun i => decide (itemParent s x i.word = some (some w)))

/-- The posted stores of every thread of a transaction are performed: what a release of its locks waits for, so that a later grantee sees
them (R148). -/
def holderStored (s : State) (n : Nat) : Bool :=
  (txnThreads s (txnAt s n)).all (fun t => ((tblGet t s.threads).map storesDone).getD true)

/-- R277, R148: `lkrel`. -/
def execLkrel (d a : BitVec 5) (s : State) : Out :=
  onThread s (fun t th =>
    let w := (regGet th a).toNat
    if (itemParent s th.ctx w).isNone then retireWith s t d 3 else
    match releaseTxn s t th with
    | none => retireWith s t d 5
    | some n => withItems s th.ctx [w] (fun s =>
      let i := findItem s th.ctx w
      if (heldMode i n).isNone then retireWith s t d 5
      else if holdsChild s th.ctx n w then retireWith s t d 6
      else if !holderStored s n then waitAt s t .retry
      else retireWith (endIfIdle (releaseItem s n i) n) t d 0))
/-- R277, R148: `lkrelall`. -/
def execLkrelall (d : BitVec 5) (s : State) : Out :=
  onThread s (fun t th =>
    match releaseTxn s t th with
    | none => retireWith s t d 0
    | some n =>
      if !holderStored s n then waitAt s t .retry else
      withItems s th.ctx ((itemsHeld s n).map (·.word)) (fun s =>
        let r := releaseAll s n t
        retireWith r.1 t d (BitVec.ofNat 64 r.2)))

/-- A lock tensor record (R269); `none` where it is bad. -/
def lockRecord (bs : List Byte) : Option LockTensor :=
  let f (o n : Nat) : Nat := leNat ((bs.drop o).take n)
  let r : LockTensor := ⟨f 0 8, f 8 8, f 16 4, f 20 4, f 24 2, f 26 2, f 28 1⟩
  if r.esize ∉ [1, 2, 4, 8] ∨ f 29 3 ≠ 0 ∨ r.rows = 0 ∨ r.cols = 0 ∨ r.th = 0 ∨ r.tw = 0 ∨ r.pitch = 0 ∨ 2 ^ 57 ≤ r.base then none
  else some r

/-- The record of `lkreg` has been read: the tensor takes a number free in its context (R269). DESIGN CHOICE (log 116): the
lowest. -/
def registerTensor (s : State) (t x : Nat) (d : BitVec 5) (bs : List Byte) : State :=
  match lockRecord bs with
  | none => retireWith s t d 0xFFFFFFFFFFFFFFFE
  | some k =>
    match tblFree (x * 4096) (x * 4096 + 4096) (s.lockTensors.filter (fun p => decide (x * 4096 ≤ p.1))) with
    | none => retireWith s t d 0xFFFFFFFFFFFFFFFF
    | some id => retireWith { s with lockTensors := tblSet id k s.lockTensors } t d (BitVec.ofNat 64 (id - x * 4096))

/-- R269, R275: `lkreg`. The record is read on the SY path, under the context's masks (R116). -/
def execLkreg (d a : BitVec 5) (s : State) : Out :=
  onThread s (fun t th =>
    let x := regGet th a
    if x.toNat % 32 ≠ 0 then raiseTrap s t (alignTrap .v false 4 x.toNat) else
    match place s t { th with masks := ctxMasks s th.ctx } .v x 32 needRead false none with
    | (s, .at_ (.cell c)) =>
      let r := memRead s c 32
      if r.2.reason ≠ 0 then raiseTrap r.1 t (poisonTrap .v false 1 x.toNat) else registerTensor r.1 t th.ctx d r.2.bytes
    | (s, .at_ (.peer dev pa)) =>
      let q := sendRequest s (.thread t d.toNat) th.ctx 1 dev pa 32 false x.toNat [] false 0
      waitAt q.1 t (.peer q.2)
    | (s, q) => stopAt s t q)

/-- R275: `lkunreg`. -/
def execLkunreg (d a : BitVec 5) (s : State) : Out :=
  onThread s (fun t th =>
    let id := (regGet th a).toNat
    let key := th.ctx * 4096 + id
    if 4096 ≤ id ∨ (tblGet key s.lockTensors).isNone then retireWith s t d 3
    else if s.lockItems.any (fun i => decide (i.ctx = th.ctx ∧ itemId i.word = id)) then retireWith s t d 10
    else retireWith { s with lockTensors := tblDel key s.lockTensors } t d 0)
/-- R270, R275: `lkmat`. -/
def execLkmat (d : BitVec 5) (s : State) : Out :=
  onThread s (fun t th => retireWith s t d (lockMatrixOf s th.ctx))

/-- Whether the before-set of a fence that names path `p` is performed (R146): CT, the thread's posted stores; an engine path,
the thread's commands on it; otherwise nothing. A `red.fadd` is performed once it is accepted: a contribution that still waits for its
index holds back no fence, no arrival and no task (log 89). -/
def beforeSetDone (s : State) (t : Nat) (th : Thread) (p : Nat) : Bool :=
  if p = 0 then storesDone th else !cmdsOn s t (pathUnits p)

/-- R146, R147, R268: `fence`. The thread waits at it, so that nothing of the after-set is performed before it completes. -/
def execFence (p q sc : BitVec 3) (s : State) : Out :=
  checked s (fenceOk p q sc) (fun t th =>
    if beforeSetDone s t th p.toNat then retire s t else waitAt s t .retry)

end Sys2Proof.Machine
end

