-- ==== Sys2Proof/Machine/Issue.lean ====
section
/-! DEFINITION. Time, and the issue of a control thread's next instruction (R16, R196, R316, R335). -/

namespace Sys2Proof.Machine

/-- Time passes: the interval timer counts 0.1 ns, the counter nanoseconds; a correction is slewed by one nanosecond in each
thousand (R335). -/
def passTime (s : State) (elapsed : Nat) : State :=
  let t := s.tenths + elapsed
  let dn := t / 10 - s.tenths / 10
  let k := min (t / 10000 - s.tenths / 10000) s.slew.natAbs
  if 0 < s.slew then { s with tenths := t, now := s.now + dn + k, slew := s.slew - k }
  else if s.slew < 0 then { s with tenths := t, now := s.now + (dn - k), slew := s.slew + k }
  else { s with tenths := t, now := s.now + dn }

/-- Whether the queue that a thread is stalled at has room (R25, R33, R209, R248). -/
def hasRoom (s : State) (t : Nat) (th : Thread) (q : FullQueue) : Bool :=
  match q with
  | .unit u => decide ((unitCmds (unitAt s (clusterOf t) u)).length < 8)
  | .port p => (portAt s (clusterOf t) p).failed || decide ((portAt s (clusterOf t) p).bindings.length < 4)
  | .armed => decide (th.openForms.length < 8)
  | .pool n => !poolFull s n
/-- Whether a thread's next instruction can issue (R316): it waits for nothing, or the queue that it is stalled at has room. -/
def runnable (s : State) (t : Nat) (th : Thread) : Bool :=
  mayRun s th && (match th.wait with
   | .none => true
   | .full q => hasRoom s t th q
   | _ => false)
/-- Whether a thread is stalled at a full queue. -/
def atFull (s : State) (t : Nat) : Bool :=
  (tblGet t s.threads).any (fun th => match th.wait with
   | .full _ => true
   | _ => false)
/-- Whether a thread's instruction waits for a condition at which it is tried again; such a thread takes no issue slot (R316). -/
def stalled (s : State) (th : Thread) : Bool :=
  mayRun s th && (match th.wait with
   | .retry | .kstep _ | .handle _ => true
   | _ => false)

/-- The thread that the next issue slot of a cluster goes to: the first that can issue after the slot that issued last (R316). -/
def nextThread (s : State) (c : Nat) : Option Nat :=
  ((List.range 16).map (fun i => 16 * c + ((clusterAt s c).lastSlot + 1 + i) % 16)).find? (fun t => (tblGet t s.threads).any (runnable s t))

/-- What an issue slot has for the thread: a pending asynchronous trap, the word that it was stalled with at a full queue, a fetch that stops, or
the word it fetches (R176, R196, R316, R381). -/
def issuePrep (s : State) (t : Nat) : State × Option (BitVec 32) :=
  match tblGet t s.threads with
  | none => (s, none)
  | some th =>
    if !runnable s t th then (s, none) else
    let s := modCluster s (clusterOf t) (fun k => { k with lastSlot := slotOf t })
    if !th.asyncs.isEmpty && !inTrap th then (enterAsync s t, none) else
    match (if atFull s t then some th.word else th.ifetch) with
    | some w => (modThread s t (fun th => { th with ifetch := none, word := w }), some (BitVec.ofNat 32 w))
    | none =>
      match fetchWord s th with
      | (s, .word w) => (modThread s t (fun th => { th with word := w }), some (BitVec.ofNat 32 w))
      | (s, .trap tr) => (raiseTrapWord s t tr 0, none)
      | (s, .frozen fp) => (waitAt (modThread s t (fun th => { th with word := 0 })) t (.fill fp (memDetail .v false 0) th.pc.toNat s.now), none)
      | (s, .peer dev pa) =>
        let r := sendRequest s (.fetch t) th.ctx 1 dev pa 4 false th.pc.toNat [] false 0
        (waitAt r.1 t (.peer r.2), none)

/-- What a thread that is stalled tries: a pending asynchronous trap, or its instruction again. -/
def retryPrep (s : State) (t : Nat) : State × Option (BitVec 32) :=
  match tblGet t s.threads with
  | none => (s, none)
  | some th =>
    if !stalled s th then (s, none)
    else if !th.asyncs.isEmpty && !inTrap th then (enterAsync s t, none)
    else (s, some (BitVec.ofNat 32 th.word))

/-- A word that is no instruction (R385, R386). -/
def notInstr (s : State) (t reason : Nat) : State := raiseTrap s t (illegalTrap reason)

end Sys2Proof.Machine
end

