-- ==== Sys2Proof/Machine/Watch.lean ====
section
/-! DEFINITION. The emptiness detector, stable halts, and samples (R344, R347, R399 to R401). -/

namespace Sys2Proof.Machine

/-! Quiescence of a formation (R399, R400). -/

/-- No token of an arc can move on by itself (R57). -/
def arcStill (fm : Form) (a : Arc) : Bool :=
  (List.range a.toks.length).all (fun k => (a.toks[k]?).all (fun t => !mayHop fm a k t))
/-- An access has its reply, or waits on a full/empty word; a frozen access counts as a request without its reply (R399). -/
def accessStill (a : Access) : Bool :=
  match a.stage with
  | .stand _ => true
  | .waiting _ => true
  | .done _ => true
  | _ => false
/-- An access of a memory element whose place is known, and which its order holds back: it has issued no request (R137, R294). -/
def heldBack (fm : Form) (nd : Node) (a : Access) : Bool :=
  match a.stage with
  | .ready _ _ => decide (nd.cls = 1) && !inOrder fm nd a
  | _ => false
/-- A node has no request outstanding: neither an access nor its words (R75, R399). -/
def nodeStill (fm : Form) (nd : Node) : Bool :=
  nd.accs.all (fun a => accessStill a || heldBack fm nd a) && nd.fetch.isNone && (nd.blocked || nd.loaded || !nd.asked || decide (2 ≤ nd.cls))
/-- Each sent total equals its received total (R399). -/
def formStill (fm : Form) : Bool := fm.arcs.all (arcStill fm) && fm.nodes.all (nodeStill fm)

def isWordWait (st : Stage) : Bool :=
  match st with
  | .waiting _ => true
  | _ => false
/-- A sink holds a token for want of a binding, or a source has no binding (R216, R400). -/
def wantsBinding (s : State) (fm : Form) (n : Nat) (nd : Node) : Bool :=
  match portOf fm nd with
  | some cp =>
    (portAt s cp.1 cp.2).bindings.isEmpty && !nd.eos && !nd.drained &&
    ((outArc fm n 0).isSome || (tokenAt fm n 0 0).isSome)
  | none => false
/-- The reason of a formation's `STALL` record (R400). -/
def stallReason (s : State) (fm : Form) : Nat :=
  if fm.nodes.any (fun nd => nd.accs.any (fun a => isWordWait a.stage)) then 1
  else if (List.range fm.nodes.length).any (fun n => (fm.nodes[n]?).any (wantsBinding s fm n)) then 2 else 3

/-- A halt or a matched breakpoint holds an arc of the formation, and whether one of them is not yet stable (R346, R400). -/
def formHeld (fm : Form) : Bool := fm.arcs.any (fun a => !a.holds.isEmpty)
def holdPending (s : State) (x k : Nat) : Bool :=
  if k < 16 then (tblGet (x * 16 + k) s.halts).any (fun h => h.since == 0)
  else (tblGet (x * 8 + (k - 16)) s.breaks).any (fun b => b.since == 0)
def formPending (s : State) (fm : Form) : Bool := fm.arcs.any (fun a => a.holds.any (holdPending s fm.ctx))
def totalFires (fm : Form) : Nat := (fm.nodes.map (·.fires)).sum

/-- Whether a sweep may begin: the second of a pair at least 1,000 ns after the first; a pair every 100 µs, and back to back while
a halt is pending (R399, R400). -/
def sweepDue (now : Nat) (w : Sweep) (pending : Bool) : Bool :=
  if w.half then decide (1000 ≤ now - w.last) else pending || decide (w.pair = 0 ∨ 100000 ≤ now - w.pair)
/-- A sweep: the counts it reads, and what a pair has found. -/
def sweepOne (now moves : Nat) (ok : Bool) (w : Sweep) : Sweep :=
  if w.half then
    let q := ok && w.quiet && decide (w.moves = moves)
    { w with last := now, half := false, moves := moves, quiet := q, found := if q then some moves else none }
  else { w with last := now, pair := now, half := true, moves := moves, quiet := ok }
/-- Two consecutive sweeps have found a formation quiescent, and it has not moved since. -/
def formQuiet (fm : Form) : Bool := decide (fm.sweep.found = some fm.moves)

/-- A sweep of a formation; a pair that finds it quiescent reports it once (R400). -/
def sweepForm (s : State) (f : Nat) : State :=
  match formAt s f with
  | none => s
  | some fm =>
    if fm.phase ≠ .armed || !sweepDue s.now fm.sweep (formPending s fm) then s else
    let w := sweepOne s.now fm.moves (formStill fm) fm.sweep
    let tell := w.quiet && !w.half && !formHeld fm && decide (fm.sweep.told ≠ some (totalFires fm))
    let s := modForm s f (fun fm => { fm with sweep := if tell then { w with told := some (totalFires fm) } else w })
    if tell then
      writeRecord s fm.ctx { plainRecord 0x25 (stallReason s fm) 2 with
        launch := (formLaunch fm).1, task := (formLaunch fm).2, form := formId fm }
    else s

/-! Quiescence of a context (R401). -/

/-- Whether the instruction that a thread fetched last is `fwait`, or `barw`. -/
def isFwait (w : Nat) : Bool :=
  match decodeControl (BitVec.ofNat 32 w) with
  | .ok (.fwait _ _) => true
  | _ => false
def isBarw (w : Nat) : Bool :=
  match decodeControl (BitVec.ofNat 32 w) with
  | .ok (.barw _ _) => true
  | _ => false
/-- A thread waits in one of the instructions of R401 (`barw` and `barwp` wait as a member or not, `barw` also for the phase to end before it
arrives, R265), or is frozen. -/
def threadWaits (th : Thread) : Bool :=
  decide (th.life = .running) && th.halts.isEmpty && (th.asyncs.isEmpty || inTrap th) &&
  (match th.wait with
   | .word _ _ _ => true
   | .phase _ _ _ _ => true
   | .lock _ _ => true
   | .fill _ _ _ _ => true
   | .retry => isFwait th.word
   | .arrive _ _ => isBarw th.word
   | _ => false)
/-- A vector command waits for a port vector: for a word of its port's binding, or, with `bsrc` 1 and more to take, for a binding with
vectors left (R237). -/
def awaitsVector (s : State) (cl : Nat) (c : Cmd) : Bool :=
  c.waiting || (decide (cmdMajor c = 0x33 ∧ vecSrc c = 1 ∧ c.step < vecN c) && c.lanes.isEmpty && !(portAt s cl (vecPort c)).failed &&
    (portAt s cl (vecPort c)).bindings.all (fun b => decide (bindAccesses b ≤ b.pos)))
def unitIdle (s : State) (cl : Nat) (q : UnitQ) : Bool := q.queue.isEmpty && q.running.all (awaitsVector s cl)
def clusterStill (s : State) (cl : Nat) : Bool :=
  (clusterAt s cl).units.all (fun u => unitIdle s cl u.2) &&
  (clusterAt s cl).handles.all (fun h => decide (h.2.state = 0 ∨ h.2.state = 2))
def ctxStill (s : State) (x : Nat) : Bool :=
  (threadsOf s x).all (fun t => threadWaits t.2) && (clustersOf s x).all (clusterStill s) &&
  s.forms.all (fun f => decide (f.2.ctx ≠ x) || (decide (f.2.phase = .armed) && formQuiet f.2))
/-- What the detector counts of a context: its instructions and the moves of its formations. -/
def ctxMoves (s : State) (x : Nat) (c : Ctx) : Nat :=
  c.instrs + (s.forms.map (fun f => if f.2.ctx = x then f.2.moves else 0)).sum

/-- A sweep of a context (R401). A context without threads has none that waits. -/
def sweepCtx (s : State) (x : Nat) : State :=
  match ctxOf s x with
  | none => s
  | some c =>
    if c.phase ≠ .running || !sweepDue s.now c.sweep false then s else
    match threadsOf s x with
    | [] => s
    | t :: _ =>
      let w := sweepOne s.now (ctxMoves s x c) (ctxStill s x) c.sweep
      let tell := w.quiet && !w.half && decide (c.sweep.told ≠ some w.moves)
      let s := modCtx s x (fun c => { c with sweep := if tell then { w with told := some w.moves } else w })
      if tell then writeRecord s x { plainRecord 0x25 4 7 with detail := t.1 % 1024 } else s

/-! Stable halts (R347). -/

/-- A halted thread that has stopped: only an access on a peer device that writes can still be on its way. -/
def haltedStill (s : State) (k t : Nat) : Bool :=
  match tblGet t s.threads with
  | none => true
  | some th => !setHas k th.halts || (decide (th.life ≠ .running) || (decide (th.wait = .none) && threadStopped s t))
/-- A copy of engine `u` that stands stopped with no line in flight: its engine's cluster holds a thread under freeze copies, and no peer
request of the engine is outstanding. -/
def copyFrozen (s : State) (cl u : Nat) (c : Cmd) : Bool :=
  copiesFrozen s cl && decide (cmdMajor c = 0x31) &&
  s.requests.all (fun r => match r.2.who with
    | .unit a b _ => !(a == cl && b == u)
    | _ => true)
def cmdsOf (s : State) (t : Nat) : List (Nat × Cmd) :=
  (clusterAt s (clusterOf t)).units.flatMap (fun u => ((unitCmds u.2).filter (fun c => c.tid == t && c.node.isNone)).map (fun c => (u.1, c)))
/-- Every command of a halted thread has completed, or is a copy that stands stopped. -/
def commandsStill (s : State) (t : Nat) : Bool := (cmdsOf s t).all (fun c => copyFrozen s (clusterOf t) c.1 c.2)
/-- Where copies are frozen, no line of any copy of a cluster is in flight, the copies of threads that are not halted included (R439). -/
def copiesStill (s : State) (cl : Nat) : Bool := !copiesFrozen s cl || s.requests.all (fun r => match r.2.who with
  | .unit a b _ => !(a == cl && (unitAt s a b).running.any (fun c => cmdMajor c == 0x31))
  | _ => true)
/-- The halted formations of a context: those with an arc under hold `k`. -/
def heldForms (s : State) (x k : Nat) : Tbl Form :=
  s.forms.filter (fun f => decide (f.2.ctx = x) && f.2.arcs.any (fun a => setHas k a.holds))
/-- The threads under hold `k`. -/
def threadsHeld (s : State) (x k : Nat) : List Nat := ((threadsOf s x).filter (fun t => setHas k t.2.halts)).map (·.1)
def haltSteady (s : State) (x k : Nat) : Bool :=
  (threadsHeld s x k).all (fun t => haltedStill s k t && commandsStill s t && copiesStill s (clusterOf t)) && (heldForms s x k).all (fun f => formQuiet f.2)

/-- The kind 5 record of a halt (log 31). A shadow node's firings are counted at the node that it overlays. -/
def steadyRecord (s : State) (x target form node : Nat) : TraceRec :=
  if target = 1 then ⟨5, 0, 0xFFFFFFFF, node, node / 16, noIdx, 0, 0, 0, 0⟩
  else if target = 2 then ⟨5, 0, 0xFFFFFFFF, 0xFFFFFFFF, 0, noIdx, 0, 0, 0, 0⟩
  else
    match s.forms.find? (fun f => decide (f.2.ctx = x ∧ formId f.2 = form) && f.2.nodes.any (fun nd => nd.num == node)) with
    | some f => match f.2.nodes.find? (fun nd => nd.num == node) with
      | some nd =>
        let base := (nd.overlay.bind (fun b => f.2.nodes[b]?)).getD nd
        ⟨5, 0, form, node, nd.wher, loopIdx f.2 nd, 0, nd.ii, base.fires, 0⟩
      | none => ⟨5, 0, form, node, 0, noIdx, 0, 0, 0, 0⟩
    | none => ⟨5, 0, form, node, 0, noIdx, 0, 0, 0, 0⟩
def settleHalt (s : State) (p : Nat × Halt) : State :=
  let x := p.1 / 16
  if p.2.since = 0 ∧ haltSteady s x (p.1 % 16) then
    writeTrace { s with halts := tblMod p.1 (fun h => { h with since := s.now }) s.halts } x
      (steadyRecord s x p.2.target p.2.form p.2.node)
  else s
def settleBreak (s : State) (p : Nat × Breakpoint) : State :=
  let x := p.1 / 8
  if p.2.hit && p.2.since == 0 && (heldForms s x (16 + p.1 % 8)).all (fun f => formQuiet f.2) then
    writeTrace { s with breaks := tblMod p.1 (fun b => { b with since := s.now }) s.breaks } x
      (steadyRecord s x 0 p.2.form p.2.node)
  else s
/-- R347: halts and breakpoints of a context that are now stable report so. -/
def settleHalts (s : State) (x : Nat) : State :=
  let s := (s.halts.filter (fun p => p.1 / 16 == x)).foldl settleHalt s
  (s.breaks.filter (fun p => p.1 / 8 == x)).foldl settleBreak s

/-- R399 to R401, R347: a sweep of formation `x`, or, with `whole`, of context `x`. -/
def execDetectorSweep (whole : Bool) (x : Nat) (s : State) : Out :=
  .next (if whole then settleHalts (sweepCtx s x) x
    else match formAt s x with
      | some fm => settleHalts (sweepForm s x) fm.ctx
      | none => s)

/-! Samples (R344; log 30). -/

/-- The state of a node: it fires at this moment, is halted, waits on its words, on memory, for an input, or for a free slot. -/
def nodeSample (s : State) (fm : Form) (n : Nat) (nd : Node) : Nat :=
  if nd.lastFire = some s.tenths then 5
  else if fm.arcs.any (fun a => decide (a.dst = n) && !a.holds.isEmpty && (standing a).isSome) then 4
  else if nd.fetch.isSome || (nd.asked && !nd.loaded && decide (nd.cls ≤ 1)) then 2
  else if nd.accs.any (fun a => match a.stage with
      | .stand _ => false
      | .done _ => false
      | _ => true) then 3
  else if fm.arcs.any (fun a => decide (a.src = n) && !a.lane && !room fm a) then 1 else 0
def sampleNode (f : Nat) (s : State) : State :=
  match formAt s f with
  | none => s
  | some fm =>
    let k := fm.samples % fm.nodes.length
    match fm.nodes[k]? with
    | none => s
    | some nd =>
      let b := nd.overlay.getD k
      let base := (fm.nodes[b]?).getD nd
      writeTrace (modForm s f (fun fm => { fm with samples := fm.samples + 1 })) fm.ctx
        ⟨2, nodeSample s fm b base, formId fm, nd.num, nd.wher, loopIdx fm nd, 0, nd.ii, base.fires, 0⟩
def threadSample (s : State) (t : Nat) (th : Thread) : Nat :=
  if !th.halts.isEmpty then 5 else
  match th.wait with
  | .none => if th.ifetch.isSome then 1 else 0
  | .fill _ _ _ _ => 4
  | .sleep _ => 2
  | .kstep _ => 3
  | .handle _ => 3
  | .full q => if hasRoom s t th q then 0 else 3
  | .retry => 3
  | _ => 1
def sampleThread (s : State) (t : Nat) : State :=
  match tblGet t s.threads with
  | some th => writeTrace s th.ctx ⟨3, threadSample s t th, 0xFFFFFFFF, t % 1024, clusterOf t, noIdx, 0, 0, th.pc.toNat, th.icnt⟩
  | none => s

/-- R344: the samples of a sample period of a context. -/
def execSamplePeriod (x : Nat) (s : State) : Out :=
  .next (match ctxOf s x with
    | none => s
    | some c => match c.ring with
      | none => s
      | some g =>
        if g.speriod = 0 ∨ c.phase ≠ .running ∨ s.now / 2 ^ g.speriod ≤ c.sampledAt / 2 ^ g.speriod then s else
        let s := modCtx s x (fun c => { c with sampledAt := s.now })
        let fs := (s.forms.filter (fun f => decide (f.2.ctx = x ∧ f.2.phase = .armed))).map (·.1)
        let s := if g.enable.testBit 1 then fs.foldl (fun s f => sampleNode f s) s else s
        if g.enable.testBit 2 then ((threadsOf s x).map (·.1)).foldl sampleThread s else s)

end Sys2Proof.Machine
end

