-- ==== Sys2Proof/Machine/PowerSteps.lean ====
section
/-! DEFINITION. The package arbiter, rack shares, thermal levels, current limits and the package's stop (R355 to R359, R361, R417,
R423, R425, R443 to R445). -/

namespace Sys2Proof.Machine

def modPower (s : State) (f : Power → Power) : State := { s with power := f s.power }

/-! Shares (R355, R356). -/

/-- The pool P′ in mW for a budget, a rack share and a thermal step (R355, R361, R444). -/
def poolOf (group budget rshare step : Nat) : Nat :=
  let b := if group = 0 then budget else min budget (rshare - 850)
  (b - 96) * 1000 * (10 - step) / 10

/-- The waiting matrix and vector requests of a cluster with their power: age, cluster, unit, power. -/
def clusterAsks (s : State) (cl : Nat) : List (Nat × Nat × Nat × Nat) :=
  (waitingAsks s cl).map (fun a => (a.1, cl, a.2, (((unitAt s cl a.2).queue.head?).map cmdPower).getD 0))
def clusterNums (s : State) : List Nat := s.clusters.map (·.1)
/-- The oldest waiting request of the package: among equal ages, the lower cluster and the lower arbiter number. -/
def oldestAsk : List (Nat × Nat × Nat × Nat) → Option (Nat × Nat × Nat × Nat)
  | [] => none
  | a :: rest =>
    match oldestAsk rest with
    | none => some a
    | some b => if b.1 < a.1 then some b else some a
/-- A cluster's demand D (R356). -/
def demandOf (s : State) (cl : Nat) : Nat := heldBy s cl + ((clusterAsks s cl).map (·.2.2.2)).sum

/-- What R356 reserves for a cluster whatever the level L. -/
def needOf (s : State) (r : Option (Nat × Nat × Nat × Nat)) (cl : Nat) : Nat :=
  heldBy s cl + (match r with
    | some a => if a.2.1 = cl then a.2.2.2 else 0
    | none => 0)
def shareAt (need : Nat → Nat) (demand : Nat → Nat) (l cl : Nat) : Nat := max (need cl) (min (demand cl) l)
/-- The largest level below 2^k more than `l` for which the shares fit in the pool. -/
def findLevel (fits : Nat → Bool) : Nat → Nat → Nat
  | 0, l => l
  | k + 1, l => findLevel fits k (if fits (l + 2 ^ k) then l + 2 ^ k else l)
/-- The shares of a period under a pool (R356). Where the pool has fallen below what is held, nothing is kept for a cluster whatever
the level (R357; log 32). -/
def sharesFor (s : State) (pool : Nat) : Nat → Nat :=
  let cs := clusterNums s
  let held := (cs.map (heldBy s)).sum
  let r := (oldestAsk (cs.flatMap (clusterAsks s))).filter (fun a => decide (held + a.2.2.2 ≤ pool))
  let need (cl : Nat) : Nat := if held ≤ pool then needOf s r cl else 0
  let fits (l : Nat) : Bool := decide ((cs.map (shareAt need (demandOf s) l)).sum ≤ pool)
  shareAt need (demandOf s) (findLevel fits 24 0)

/-! A period of the package arbiter (R356, R357, R444). -/

/-- The last of the pending changes that take effect by a period or an epoch, and those still to come. -/
def dueBy {α : Type} (k : Nat) (now : α) (l : List (Nat × α)) : α :=
  (l.filter (fun p => decide (p.1 ≤ k))).foldl (fun _ p => p.2) now
def later {α : Type} (k : Nat) (l : List (Nat × α)) : List (Nat × α) := l.filter (fun p => decide (k < p.1))
/-- The epoch whose share is in force by an epoch. -/
def epochBy (k now : Nat) (l : List (Nat × Nat)) : Nat := (l.filter (fun p => decide (p.1 ≤ k))).foldl (fun m p => max m p.1) now
/-- The thermal step after a period's readings (R444). -/
def nextStep (temps : List Nat) (m : Nat) : Nat :=
  if temps.any (fun t => decide (100 ≤ t)) then min 5 (m + 1) else if temps.all (fun t => decide (t ≤ 95)) then m - 1 else m
/-- The notice event of every context (R444). -/
def noticeAll (s : State) : State := (s.ctxs.map (·.1)).foldl signalNotice s

/-- The pool of a budget and rack group under the present rack share and step. -/
def poolNow (p : Power) (b : Nat × Nat) : Nat := poolOf b.2 b.1 p.rshare p.step
/-- The changes to come after `POWER` gives a new budget and group at a moment of period `k` (R357): a fall below the setting that is last to
come follows it, at the second boundary; any other setting takes the place of what was to come, at the next boundary where it is no fall
of the pool in force (log 104). -/
def changesAfter (p : Power) (k budget group : Nat) : List (Nat × Nat × Nat) :=
  let now := (p.budget, p.groupNow)
  let last := ((p.changes.getLast?).map (·.2)).getD now
  if poolNow p (budget, group) < poolNow p last || budget < last.1 then p.changes ++ [(k + 2, budget, group)]
  else [(if poolNow p (budget, group) < poolNow p now then k + 2 else k + 1, budget, group)]

/-- R356, R357, R444: a period boundary of the package arbiter; `temps` are the quadrants' junction temperatures in °C. A fall that
takes effect at the next boundary already bounds the shares of this period. -/
def execArbiterPeriod (temps : List Nat) (s : State) : Out :=
  .next (
    let k := s.now / 10000
    let p := s.power
    if k ≤ p.lastPeriod then s else
    let e := k / 10
    let b := dueBy k (p.budget, p.groupNow) p.changes
    let rshare := dueBy e p.rshare p.shares
    let step := nextStep temps p.step
    let b' := dueBy (k + 1) b p.changes
    let before := poolOf b.2 b.1 rshare p.step
    let after := poolOf b'.2 b'.1 (dueBy ((k + 1) / 10) rshare p.shares) step
    let share := sharesFor s (min before after)
    let s := { s with
      clusters := tblMap (fun c k => { k with share := share c }) s.clusters
      power := { p with
        budget := b.1, groupNow := b.2, changes := later k p.changes, rshare := rshare, epoch := epochBy e p.epoch p.shares
        shares := later e p.shares, step := step, lastPeriod := k } }
    if step = p.step then s else noticeAll s)

/-! Rack groups (R358, R359). -/

/-- Power held and asked for by all units, in mW (R361). -/
def unitHeld (q : UnitQ) : Nat := (q.running.map (·.power)).getD 0
def unitAsked (q : UnitQ) : Nat :=
  match q.running, q.queue with
  | none, c :: _ => if c.asked.isSome then cmdPower c else 0
  | _, _ => 0
def heldPower (s : State) : Nat := (s.clusters.map (fun c => (c.2.units.map (fun u => unitHeld u.2)).sum)).sum
def demandPower (s : State) : Nat := (s.clusters.map (fun c => (c.2.units.map (fun u => unitHeld u.2 + unitAsked u.2)).sum)).sum
/-- Watts, rounded up. -/
def wattsUp (mw : Nat) : Nat := (mw + 999) / 1000

/-- The 64 bytes of a reel message (R359). -/
def reelBytes (group hops dev epoch demand held share limit : Nat) : List Byte :=
  leBytes group 2 ++ leBytes hops 1 ++ [1] ++ leBytes dev 1 ++ leBytes 0 3 ++ leBytes epoch 8 ++ leBytes demand 4 ++ leBytes held 4 ++
  leBytes share 4 ++ leBytes limit 4 ++ List.replicate 32 0
/-- One member of the group for each port that leads to one. -/
def portFirsts (s : State) (l : List Nat) : List Nat :=
  l.foldl (fun m d => if m.any (fun c => routeTo s c == routeTo s d) then m else m ++ [d]) []
/-- A reel message on every peer port that leads to a member of the group. -/
def floodReel (s : State) (data : List Byte) : State :=
  (portFirsts s s.power.members).foldl
    (fun s d => sendMsg s ⟨7, s.power.dev, d, 0, 0, 0, 64, 0, data, []⟩) s

/-- R358 step 1: within the first 20 µs of an epoch the device sends its reel message. -/
def execReelSend (s : State) : Out :=
  .next (
    let p := s.power
    let e := s.now / 100000
    if p.group = 0 ∨ 20000 ≤ s.now % 100000 ∨ p.sentEpoch = some e then s else
    let demand := wattsUp (demandPower s)
    let s := modPower s (fun p => { p with sentEpoch := some e, reels := p.reels ++ [⟨p.dev, e, demand, p.limit⟩] })
    floodReel s (reelBytes p.group 16 p.dev e demand (wattsUp (heldPower s)) p.rshare p.limit))

/-- The demand of a member's message of an epoch; 1,150 where none arrived (R358). -/
def demandAt (p : Power) (e j : Nat) : Nat := ((p.reels.find? (fun r => decide (r.dev = j ∧ r.epoch = e))).map (·.demand)).getD 1150
/-- The rack share of this device (R358). -/
def rackShare (p : Power) (locked : Bool) (e : Nat) : Nat :=
  let n := p.members.length + 1
  let d := demandAt p e p.dev
  let sum := d + (p.members.map (demandAt p e)).sum
  let r := (p.reels.filter (fun r => decide (r.epoch = e))).foldl (fun m r => min m r.limit) p.limit
  if !locked || sum == 0 then p.floor else min 2000 (p.floor + (r - n * p.floor) * d / sum)

/-- R358 step 2: at 80 µs into epoch e the device computes its rack share for epoch e + 2. -/
def execReelShare (s : State) : Out :=
  .next (
    let p := s.power
    let e := s.now / 100000
    if p.group = 0 ∨ s.now % 100000 < 80000 ∨ p.sharedEpoch = some e then s else
    modPower s (fun p => { p with
      sharedEpoch := some e
      shares := p.shares ++ [(e + 2, rackShare p (decide (s.timeStatus.state = 2)) e)] }))

/-! Thermal levels of the stacks (R423, R425). -/

/-- The threshold of a level, in °C. -/
def levelTemp (l : Nat) : Nat := 75 + 10 * l
/-- The level that a temperature reaches. -/
def levelUp (t : Nat) : Nat := if 115 ≤ t then 4 else if 105 ≤ t then 3 else if 95 ≤ t then 2 else if 85 ≤ t then 1 else 0
/-- A level falls while the temperature lies 3 °C or more below its threshold. -/
def levelDown (t : Nat) : Nat → Nat
  | 0 => 0
  | l + 1 => if t + 3 ≤ levelTemp (l + 1) then levelDown t l else l + 1
def nextLevel (t cur : Nat) : Nat := if cur ≤ levelUp t then levelUp t else levelDown t cur

/-- R423, R425: a 10 µs window boundary of a stack, with its temperature in °C. -/
def execHbmThermalWindow (stack temp : Nat) (s : State) : Out :=
  .next (match s.levels[stack]? with
    | none => s
    | some cur =>
      let k := s.now / 10000
      if k ≤ (tblGet stack s.stackWin).getD 0 then s else
      let s := { s with stackWin := tblSet stack k s.stackWin }
      if nextLevel temp cur = cur then s else
      let s := { s with levels := listMod stack (fun _ => nextLevel temp cur) s.levels }
      let xs := (s.ctxs.filter (fun c => (tblGet c.2.part s.parts).any (fun p => p.bwshare != 0))).map (·.1)
      xs.foldl (fun s x => signalNotice (modCtx s x (fun c => { c with tchg := c.tchg + 1 })) x) s)

/-! Current limits and the package's stop (R417, R443, R445). -/

/-- R443: domain `d` (four to a quadrant) reaches its current limit. -/
def execCurrentLimit (d : Nat) (s : State) : Out := .next (if d < 16 then { s with limited := setAdd d s.limited } else s)
/-- R443: the domain has stayed below 90 % of its limit for 1,000 ns. -/
def execCurrentLimitClear (d : Nat) (s : State) : Out := .next { s with limited := setDel d s.limited }

/-- R417: the package stops; every context is marked lost with its record. -/
def stopPackage (s : State) (detail : State → State × Nat) : State :=
  let one (s : State) (x : Nat) : State :=
    if (ctxOf s x).any (fun c => decide (c.phase = .lost)) then writeStop s x else markLost (writeStop s x) x
  { (s.ctxs.map (·.1)).foldl one s with fw := { s.fw with phase := .stopped } }
where writeStop (s : State) (x : Nat) : State :=
  let d := detail s
  writeRecord d.1 x { plainRecord 0x26 11 7 with detail := d.2 }
/-- R445: a junction reaches 115 °C. -/
def execJunctionOvertemp (_d : Nat) (s : State) : Out := .next (stopPackage s (fun s => (s, 7)))
/-- R445: a domain's supply stays below 90 % of nominal for 100 ns. -/
def execSupplyUndervolt (_d : Nat) (s : State) : Out := .next (stopPackage s (fun s => (s, 7)))
/-- R417: an edge adapter has resent a flit for 1 ms. The record's `detail` is not stated: a free value (log 17). -/
def execEdgeResendTimeout (_d : Nat) (s : State) : Out := .next (stopPackage s freeNat)

end Sys2Proof.Machine
end

