-- ==== Sys2Proof/Machine/Peers.lean ====
section
/-! DEFINITION. The Limaux peer protocol: frames, requests of other devices, and replies (R112, R145, R359, R373, R374, R410, R415). -/

namespace Sys2Proof.Machine

/-! Frames (R373, R374; log 15). -/

/-- The bytes of data that a message carries, by type, length and atomic operation. -/
def msgBytes (type len aop : Nat) : Nat :=
  if type = 2 ∨ type = 3 ∨ type = 6 then len else if type = 5 then (if aop = 9 then 2 * len else len) else if type = 7 then 64 else 0
/-- The poison map of a message: a bit for each 32-byte half-line that its data touches, after the header (log 15). -/
def msgMap (map : Nat) (pa n : Nat) : List Bool := (List.range n).map (fun i => map.testBit ((pa % 32 + i) / 32))
/-- A message and the bytes that follow it in the frame: a flit with the header, and its data in whole flits. -/
def parseMsg (bs : List Byte) : Option (PeerMsg × List Byte) :=
  let type := field bs 0 1
  let w := field bs 8 8
  let pa := bitsOf w 0 40
  let len := bitsOf w 40 16
  let aop := bitsOf w 56 8
  let n := msgBytes type len aop
  let total := 64 + 64 * lines n
  if bs.length < total then none
  else some (⟨type, field bs 1 1, field bs 2 1, field bs 3 1, field bs 4 4, pa, len, aop, (bs.drop 64).take n,
    msgMap (field bs 16 33) pa n⟩, bs.drop total)
def parseMsgs : Nat → List Byte → Option (List PeerMsg)
  | 0, bs => if bs.isEmpty then some [] else none
  | k + 1, bs =>
    if bs.isEmpty then some [] else
    match parseMsg bs with
    | none => none
    | some (m, rest) => (parseMsgs k rest).map (fun l => m :: l)

/-- A message for this device waits in the order of arrival; one for another device is forwarded (R373). Types 0 and 9 to 255 are
discarded. -/
def deliverMsg (s : State) (m : PeerMsg) : State :=
  if m.dst ≠ s.power.dev then sendMsg s m
  else if m.type = 0 ∨ 9 ≤ m.type then s
  else { s with inbox := tblSet (((s.inbox.getLast?).map (fun p => p.1 + 1)).getD 0) m s.inbox }
/-- Whether a frame number lies at or before another, as numbers that wrap. -/
def acked (num ack : Nat) : Bool := decide ((ack + 2 ^ 32 - num) % 2 ^ 32 < 2 ^ 31)

/-- R373: a frame, from its link header on, arrives at a port: it acknowledges frames, and the frame that is next in order delivers its
messages. In recovery the ports are not up (R378). -/
def execPeerFrame (port : Nat) (frame : List (BitVec 8)) (s : State) : Out :=
  .next (
    match parseMsgs 128 (frame.drop 16) with
    | none => s
    | some ms =>
      if 12 ≤ port ∨ ms = [] ∨ s.fw.phase = .recovery then s else
      let p := (tblGet port s.ports).getD ⟨0, 0, []⟩
      let p := { p with unacked := p.unacked.filter (fun u => !acked u.1 (field frame 4 4)) }
      if field frame 0 4 ≠ p.expect then { s with ports := tblSet port p s.ports }
      else ms.foldl deliverMsg { s with ports := tblSet port { p with expect := (p.expect + 1) % 2 ^ 32 } s.ports })

/-- R373: the frames of a port that have gone 10 µs without acknowledgement are sent again, oldest first. -/
def execPeerFrameResend (port : Nat) (s : State) : Out :=
  .next (match tblGet port s.ports with
    | none => s
    | some p =>
      let due (u : Nat × Nat × List PeerMsg) : Bool := decide (u.2.1 + 10000 ≤ s.now)
      { s with
        sent := s.sent ++ (p.unacked.filter due).map (fun u => (port, ⟨u.1, lastFrame p, u.2.2⟩))
        ports := tblSet port { p with unacked := p.unacked.map (fun u => if due u then (u.1, s.now, u.2.2) else u) } s.ports })

/-! Requests of other devices (R374). -/

/-- A window admits `n` bytes for a kind of access: 0 read, 1 write, 2 atomic. -/
def windowAdmits (s : State) (m : PeerMsg) (n bit : Nat) (w : PeerWin) : Bool :=
  decide (w.dev = m.src ∧ w.rpart = m.part ∧ w.base ≤ m.pa ∧ m.pa + n ≤ w.base + w.size) && w.perm.testBit bit &&
  (tblGet w.lpart s.parts).any (fun p => decide (w.base + w.size ≤ hbmBytes) && inRanges p w.base w.size)
def admitted (s : State) (m : PeerMsg) (n bit : Nat) : Option PeerWin :=
  if n = 0 ∨ 8192 < n then none else (s.windows.map (·.2)).find? (windowAdmits s m n bit)
/-- The masks of an admitted request: those in the descriptor of the partition's lowest-numbered context. -/
def windowMasks (s : State) (w : PeerWin) : Masks :=
  match s.ctxs.find? (fun c => decide (c.2.part = w.lpart)) with
  | some c => c.2.initMasks
  | none => defaultMasks

/-- HBM read and written on the PR path, with poison by byte. -/
def prReadLoop (s : State) (k : Masks) (pa : Nat) : Nat → Nat → State × List Byte × List Bool
  | 0, _ => (s, [], [])
  | f + 1, n =>
    if n = 0 then (s, [], []) else
    let m := min n (256 - pa % 256)
    let r := memReadMap s (hbmCell k pa) m
    let q := prReadLoop r.1 k (pa + m) f (n - m)
    (q.1, r.2.1 ++ q.2.1, r.2.2 ++ q.2.2)
def prRead (s : State) (k : Masks) (pa n : Nat) : State × List Byte × List Bool := prReadLoop s k pa (n / 256 + 2) n
def prWriteLoop (s : State) (k : Masks) (pa : Nat) : Nat → List Byte → List Bool → State
  | 0, _, _ => s
  | f + 1, bs, pm =>
    if bs.isEmpty then s else
    let m := 256 - pa % 256
    prWriteLoop (putBytesMap s (hbmCell k pa) (bs.take m) (pm.take m)) k (pa + m) f (bs.drop m) (pm.drop m)
def prWrite (s : State) (k : Masks) (pa : Nat) (bs : List Byte) (pm : List Bool) : State := prWriteLoop s k pa (bs.length / 256 + 2) bs pm

/-- An earlier request of the same device waits for overlapping bytes (R145). -/
def overtakes (s : State) (k : Nat) (m : PeerMsg) : Bool :=
  s.inbox.any (fun p => decide (p.1 < k ∧ p.2.src = m.src ∧ (p.2.type = 1 ∨ p.2.type = 3 ∨ p.2.type = 5)) && overlaps p.2.pa p.2.len m.pa m.len)
def answer (s : State) (m : PeerMsg) (type : Nat) (data : List Byte) (pm : List Bool) : State :=
  sendMsg s ⟨type, s.power.dev, m.src, m.part, m.tag, m.pa, m.len, m.aop, data, pm⟩
/-- A request of another device, taken from the inbox: served where a window admits it, and else refused. -/
def serveRequest (s : State) (k type n bit : Nat) (g : State → PeerMsg → Masks → State) : Out :=
  .next (match tblGet k s.inbox with
    | none => s
    | some m =>
      if m.type ≠ type ∨ overtakes s k m then s else
      let s := { s with inbox := tblDel k s.inbox }
      match admitted s m (if n = 0 then m.len else n) bit with
      | none => answer s m 8 [] []
      | some w => g s m (windowMasks s w))

/-- R374: a read of another device. -/
def execPeerRead (k : Nat) (s : State) : Out :=
  serveRequest s k 1 0 0 (fun s m mk =>
    let r := prRead s mk m.pa m.len
    answer r.1 m 2 r.2.1 r.2.2)
/-- R374: a write of another device. -/
def execPeerWrite (k : Nat) (s : State) : Out :=
  serveRequest s k 3 0 1 (fun s m mk => answer (prWrite s mk m.pa m.data m.pm) m 4 [] [])
/-- An atomic operation, its width and its alignment can be applied (R256, R257). -/
def atomicOk (m : PeerMsg) : Bool := decide (m.aop ≤ 11 ∧ (m.len = 1 ∨ m.len = 2 ∨ m.len = 4 ∨ m.len = 8) ∧ m.pa % m.len = 0)
/-- R257, R374: an atomic of another device; a poisoned word is left as it is. -/
def execPeerAtomic (k : Nat) (s : State) : Out :=
  serveRequest s k 5 0 2 (fun s m mk =>
    if !atomicOk m then answer s m 8 [] [] else
    let c := hbmCell mk m.pa
    let r := memReadMap s c m.len
    if anyPoison r.2.2 then answer r.1 m 6 r.2.1 r.2.2 else
    let s := match amoNew m.aop m.len (leNat r.2.1) (field m.data 0 m.len) (field m.data m.len m.len) with
      | some v => putBytesMap r.1 c (leBytes v m.len) (m.pm.take m.len)
      | none => r.1
    answer s m 6 r.2.1 r.2.2)

/-! Replies (R112, R374, R410). -/

/-- What has come of a request: its reply with data and poison, a refusal, or nothing for 1 ms. -/
inductive Reply where
  | data (bs : List Byte) (pm : List Bool)
  | refused
  | lost
  deriving DecidableEq, Repr

/-- The reason of R388 that a reply without data gives. -/
def replyReason : Reply → Nat
  | .data _ _ => 0
  | .refused => 5
  | .lost => 9

/-- The reply of an instruction's access to a peer page: its load, store, atomic, the record that it reads, or its LA320 cell (R191, R247,
R257, R263, R269). -/
def threadData (s : State) (t : Nat) (th : Thread) (r : PeerReq) (gd : Nat) (bs : List Byte) (bad : Bool) : State :=
  let d := BitVec.ofNat 5 gd
  let w := decodeControl (BitVec.ofNat 32 th.word)
  if r.type = 3 then retire s t
  else if r.type = 5 then
    if bad then raiseTrap s t (poisonTrap .v true 3 r.addr) else retireWith s t d (amoResult r.len r.sx (leNat bs))
  else
    match w with
    | .ok (.lkreg _ _) => if bad then raiseTrap s t (poisonTrap .v false 1 r.addr) else registerTensor s t th.ctx d bs
    | .ok (.glaunch _) =>
      if gd = 1 then peekThread s t r.addr (headTasks bs bad)
      else if bad then raiseTrap s t (poisonTrap .v false 2 r.addr) else submitThread s t th bs r.addr
    | .ok (.redLadd _ b f) =>
      if r.stale then farRead t th 0 (BitVec.ofNat 64 r.addr) s r.dev r.pa else farWrite t th (BitVec.ofNat 64 r.addr) (laPlus th b f (leNat (bs.take 40))) bad s r.dev r.pa
    | .ok (.redLdrain d _ _ f rm) => laDrainTo s t d false (BitVec.ofNat 64 r.addr) f rm (leNat (bs.take 40)) bad
    | _ => if bad then raiseTrap s t (poisonTrap .v false 2 r.addr) else retireWith s t d (loadValue r.len r.sx bs)
/-- Whether the thread stands at a `glaunch`, which asks for its graph's header under 1 (R33). -/
def isGlaunch (th : Thread) : Bool :=
  match decodeControl (BitVec.ofNat 32 th.word) with
  | .ok (.glaunch _) => true
  | _ => false
def threadReply (s : State) (k t gd : Nat) (r : PeerReq) (y : Reply) : State :=
  match tblGet t s.threads with
  | none => s
  | some th =>
    if th.wait ≠ .peer k then s else
    let s := waitAt s t .none
    match y with
    | .data bs pm => threadData s t th r gd bs (anyPoison pm)
    | _ =>
      if gd = 1 ∧ isGlaunch th then peekThread s t r.addr 0
      else raiseTrap s t (xlateTrap .v (decide (r.type ≠ 1)) (replyReason y) r.addr)
/-- The reply of an instruction fetch (R196). -/
def fetchReply (s : State) (k t : Nat) (r : PeerReq) (y : Reply) : State :=
  match tblGet t s.threads with
  | none => s
  | some th =>
    if th.wait ≠ .peer k then s else
    let s := waitAt s t .none
    match y with
    | .data bs pm =>
      if anyPoison pm then raiseTrapWord s t (poisonTrap .v false 1 r.addr) 0
      else modThread s t (fun th => { th with ifetch := some (leNat bs) })
    | _ => raiseTrapWord s t (xlateTrap .v false (replyReason y) r.addr) 0

/-- The reply to an exchange of a byte by which access `a` changes one code on a peer page (R293, log 94): it is tried again with the byte
that the device found, where that differs; a poisoned byte, which no atomic changes (R257), is written. -/
def codeReply (s : State) (f n : Nat) (a : Access) (poison : Bool) (r : PeerReq) (bs : List Byte) (bad : Bool) : State :=
  let old := leNat bs
  let new := leBytes (putCode old (a.addr % 4) (a.tb.data.toNat % 4)) 1
  if !bad && a.got.any (fun g => decide (g.2.2.1 = bs)) then answerAccess s f n a.seq (dataTok poison 0) else
  let q := if bad then sendRequest s r.who r.ctx 3 r.dev r.pa 1 false r.addr new poison 0
    else sendRequest s r.who r.ctx 5 r.dev r.pa 1 false r.addr (new ++ bs) poison 9
  modAccess q.1 f n a.seq (fun a => { a with stage := .sent q.2, got := [(r.dev, r.pa, bs, [])] })

/-- The reply of a node's access (R295, R297, R402). What answers an access that stores is poisoned as what it stored (R55). -/
def nodeReply (s : State) (f n seq : Nat) (r : PeerReq) (y : Reply) : State :=
  match formAt s f with
  | none => s
  | some fm =>
    match (fm.nodes[n]?).bind (fun nd => (accessAt nd seq).map (fun a => (nd, a))) with
    | none => s
    | some (nd, a) =>
      if !formLive fm then s else
      let p := decide (nd.cls = 1) && (checkResidue s f n a.tb).2.poison
      match y with
      | .data bs pm =>
        if r.type = 1 then modAccess s f n seq (fun a => { a with got := a.got ++ [(r.dev, r.pa, bs, pm)] })
        else if r.type = 3 then answerAccess s f n seq (dataTok p 0)
        else if elemOp a.word = 0x82 then codeReply s f n a p r bs (anyPoison pm)
        else answerAccess s f n seq (dataTok (p || anyPoison pm) (BitVec.ofNat 32 (leNat bs)))
      | .refused => freezeAccess s f n seq r.addr 5 (accessStores nd a) 0
      | .lost => nodeFault s f n 9 r.addr 9

/-- Part `i` of a command has had a reply, the last that it waits for unless `more`, and is tried again; in a copy, whose parts may wait for one
line, every part that waits for replies is (R139). -/
def wakePending (i : Nat) (more : Bool) (c : Cmd) : Cmd :=
  { c with frost := c.frost.map (fun z =>
      if z.frz.reason = 0 ∧ (cmdMajor c = 0x31 ∨ (z.idx = i ∧ !more)) then { z with woken := true } else z) }
/-- The reply of a command's access: its part is tried again once it has all its replies (R402, R407). A command that a fault has ended makes no
access any more (R408). -/
def unitReply (s : State) (cl u item : Nat) (r : PeerReq) (y : Reply) : State :=
  match (unitAt s cl u).running with
  | none => s
  | some c =>
    if c.failed then s else
    let i := if cmdMajor c = 0x33 then 0 else item
    match y with
    | .data bs pm =>
      if r.type ≠ 1 then s else
      let more := pendingFor s (.unit cl u item)
      modRunning s cl u (fun c => wakePending i more { c with got := c.got ++ [(r.dev, r.pa, bs, pm)] })
    | .refused =>
      let q := notePart s (accessCmd s cl c) i (.stop 5 r.addr 0 (decide (r.type = 3)))
      enterParts q.1 cl u c (if cmdMajor c = 0x31 then wakePending i false q.2 else q.2)
    | .lost =>
      let q := notePart s (accessCmd s cl c) i (.ends 9 r.addr 9)
      enterParts q.1 cl u c q.2

/-- What a reader of several records keeps of a reply; an answer without bytes is a refusal, or, with a mark, a lost request. -/
def keptReply (r : PeerReq) : Reply → Nat × Nat × List Byte × List Bool
  | .data bs pm => (r.dev, r.pa, bs, pm)
  | .refused => (r.dev, r.pa, [], [])
  | .lost => (r.dev, r.pa, [], [true])

/-- The header of a graph has been read for the `LAUNCH` at the head of a host queue, which it is for while that names the graph (R33). -/
def queueReply (s : State) (q : Nat) (r : PeerReq) (y : Reply) : State :=
  let n := match y with
    | .data bs pm => headTasks bs (anyPoison pm)
    | _ => 0
  let mine (c : HostCmd) : Bool := decide (c.op = 0x02 ∧ c.stage = 0 ∧ descGraph (leNat c.body) + 4 = r.addr)
  { s with queues := tblMod q (fun h => { h with cmds := listMod 0 (fun c => if mine c then { c with stage := 1, note := n } else c) h.cmds }) s.queues }

/-- A request has had what came of it. -/
def settleRequest (s : State) (k : Nat) (r : PeerReq) (y : Reply) : State :=
  let s := easeLanding { s with requests := tblDel k s.requests } k
  match r.who with
  | .thread t gd => threadReply s k t gd r y
  | .fetch t => fetchReply s k t r y
  | .node f n seq => nodeReply s f n seq r y
  | .unit cl u i => unitReply s cl u i r y
  | .queue q => queueReply s q r y
  | .pool l => modLaunch s l (fun l => { l with got := l.got ++ [keptReply r y] })
  | .image f _ => modForm s f (fun fm => { fm with got := fm.got ++ [keptReply r y] })
  | .none => s

/-- A reply is taken from the inbox and settles the request that it answers; one that answers none is discarded (R410). -/
def takeReply (s : State) (k type : Nat) (fits : PeerReq → Bool) (y : PeerMsg → Reply) : Out :=
  .next (match tblGet k s.inbox with
    | none => s
    | some m =>
      if m.type ≠ type then s else
      let s := { s with inbox := tblDel k s.inbox }
      match tblGet m.tag s.requests with
      | some r => if r.dev = m.src ∧ fits r then settleRequest s m.tag r (y m) else s
      | none => s)

/-- R374: a read reply. -/
def execPeerReadReply (k : Nat) (s : State) : Out :=
  takeReply s k 2 (fun r => decide (r.type = 1)) (fun m => .data m.data m.pm)
/-- R374: a write acknowledgement. -/
def execPeerWriteAck (k : Nat) (s : State) : Out := takeReply s k 4 (fun r => decide (r.type = 3)) (fun _ => .data [] [])
/-- R374: an atomic reply. -/
def execPeerAtomicReply (k : Nat) (s : State) : Out :=
  takeReply s k 6 (fun r => decide (r.type = 5)) (fun m => .data m.data m.pm)
/-- R374: a refusal: the requester faults with the reason permission. -/
def execPeerRefusal (k : Nat) (s : State) : Out := takeReply s k 8 (fun _ => true) (fun _ => .refused)
/-- R410: a request has gone 1,000,000 ns without a reply. -/
def execPeerTimeout (k : Nat) (s : State) : Out :=
  .next (match tblGet k s.requests with
    | some r => if s.now < r.since + 1000000 then s else settleRequest s k r .lost
    | none => s)

/-! Reel messages (R358, R359). -/

/-- A reel message of the device's own group that is well formed. -/
def reelOk (s : State) (bs : List Byte) : Bool :=
  decide (s.power.group ≠ 0 ∧ field bs 0 2 = s.power.group ∧ field bs 3 1 = 1) && setHas (field bs 4 1) s.power.members &&
  decide (field bs 5 3 = 0 ∧ field bs 32 32 = 0)
/-- R359: a reel message is recorded, and forwarded with its hops lowered, the first time it is seen. -/
def execReelMessage (k : Nat) (s : State) : Out :=
  .next (match tblGet k s.inbox with
    | none => s
    | some m =>
      if m.type ≠ 7 then s else
      let s := { s with inbox := tblDel k s.inbox }
      let d := field m.data 4 1
      let e := field m.data 8 8
      if !reelOk s m.data || s.power.reels.any (fun r => decide (r.dev = d ∧ r.epoch = e)) then s else
      let s := modPower s (fun p => { p with reels := p.reels ++ [⟨d, e, field m.data 16 4, field m.data 28 4⟩] })
      if field m.data 2 1 = 0 then s
      else floodReel s (m.data.take 2 ++ leBytes (field m.data 2 1 - 1) 1 ++ m.data.drop 3))

end Sys2Proof.Machine
end

