-- ==== Sys2Proof/Machine/Host.lean ====
section
/-! DEFINITION. The host port: frames, queues, responses, and the commands on memory, events and launches (R362 to R367, R452). -/

namespace Sys2Proof.Machine

/-! Queues (R363, R364). A queue is numbered 8 times its function plus its own number. -/

def emptyQueue : HostQ := ⟨0, none, [], []⟩
def queueAt (s : State) (q : Nat) : HostQ := (tblGet q s.queues).getD emptyQueue
def putQueue (s : State) (q : Nat) (h : HostQ) : State := { s with queues := tblSet q h s.queues }

/-- The operations of R365. -/
def listedOps : List Nat :=
  [0x01, 0x02, 0x03, 0x04, 0x08, 0x09, 0x0A, 0x0B, 0x10, 0x11, 0x12, 0x13, 0x14, 0x15, 0x16, 0x18, 0x19, 0x20, 0x21, 0x22, 0x23, 0x24,
   0x28, 0x29, 0x2A, 0x30, 0x31, 0x32, 0x33, 0x34, 0x38, 0x3C, 0x3D]
/-- A command with a bad header has `stage` 255. -/
def badCmd (c : HostCmd) : Bool := decide (c.stage = 255) || !listedOps.contains c.op

/-- Fragments of a body of `len` bytes, and the bytes of one of them (R363). -/
def fragCount (len : Nat) : Nat := max 1 ((len + 8191) / 8192)
def fragBytes (len k : Nat) : Nat := min 8192 (len - 8192 * k)
/-- Fragment `k` of a response of queue `q`: the header of its command, with the response's `op`, `ctx`, `status` and length, and its part of
the body (R363). -/
def respFrame (q : Nat) (r : Resp) (k : Nat) : List Byte :=
  [1] ++ leBytes (q / 8) 1 ++ leBytes (q % 8) 1 ++ leBytes r.op 1 ++ leBytes r.seq 4 ++ leBytes k 2 ++ leBytes (fragCount r.body.length) 2 ++
  leBytes r.body.length 4 ++ leBytes r.ctx 2 ++ leBytes r.status 2 ++ leBytes 0 4 ++ (r.body.drop (8192 * k)).take 8192
/-- A response leaves by the host port, a frame for each fragment. -/
def sendResp (s : State) (q : Nat) (r : Resp) : State :=
  { s with outbox := s.outbox ++ (List.range (fragCount r.body.length)).map (respFrame q r) }
/-- A response leaves, and is stored among the last 64 (R364). -/
def respond (s : State) (q : Nat) (r : Resp) : State :=
  let h := queueAt s q
  putQueue (sendResp s q r) q { h with stored := (r :: h.stored).take 64 }
/-- The command at the head of a queue completes. -/
def popCmd (s : State) (q : Nat) (c : HostCmd) (status x : Nat) (body : List Byte) : State :=
  let h := queueAt s q
  respond (putQueue s q { h with cmds := h.cmds.tail }) q ⟨(c.op + 0x80) % 256, c.seq, x, status, body⟩
/-- Commands that are refused whatever the device's state, at the head of a queue: status 1 (R365, R366). -/
def dropBad (s : State) (q : Nat) : Nat → State
  | 0 => s
  | k + 1 =>
    match (queueAt s q).cmds with
    | c :: _ => if badCmd c then dropBad (popCmd s q c 1 c.ctx []) q k else s
    | [] => s
def finishCmd (s : State) (q : Nat) (c : HostCmd) (status x : Nat) (body : List Byte) : State :=
  dropBad (popCmd s q c status x body) q (queueAt s q).cmds.length

/-- A whole command joins its queue; the next number is expected. -/
def enqueueCmd (s : State) (q : Nat) (c : HostCmd) : State :=
  let h := queueAt s q
  let s := putQueue s q { h with next := (h.next + 1) % 2 ^ 32, assembling := none, cmds := h.cmds ++ [c] }
  dropBad s q (h.cmds.length + 1)

/-- What the header of a fragment must have: its version, status, reserved field, and a place among its command's fragments. DESIGN CHOICE
(log 105): R8 has software write zero to a reserved field, and R366 gives a bad header or body status 1; a command whose header or body
has a reserved byte that is not zero is taken as such. -/
def frameOk (b : List Byte) : Bool :=
  decide (field b 0 1 = 1 ∧ field b 18 2 = 0 ∧ field b 20 4 = 0 ∧ field b 10 2 = fragCount (field b 12 4) ∧
    field b 8 2 < field b 10 2 ∧ (b.drop 24).length = fragBytes (field b 12 4) (field b 8 2))

/-- A fragment of the command that a queue expects (R363, R364). -/
def takeFrag (s : State) (q : Nat) (h : HostQ) (b : List Byte) : State :=
  let op := field b 3 1
  let x := field b 16 2
  let p := h.assembling.getD ⟨op, x, field b 10 2, field b 12 4, []⟩
  if !frameOk b || decide (p.op ≠ op ∨ p.ctx ≠ x ∨ p.nfrag ≠ field b 10 2 ∨ p.len ≠ field b 12 4) then
    enqueueCmd s q ⟨op, h.next, x, [], 255, 0⟩
  else
    let fs := tblSet (field b 8 2) (b.drop 24) p.frags
    if fs.length = p.nfrag then enqueueCmd s q ⟨op, h.next, x, fs.flatMap (·.2), 0, 0⟩
    else putQueue s q { h with assembling := some { p with frags := fs } }

/-- The header and body of a frame that the host port takes (R362): an Ethernet II frame of up to 9,216 bytes for this port's address, whose
first byte sent is the lowest of `mac`, with EtherType 0x88B5 in network order; any other is discarded. -/
def portFrame (mac : Nat) (frame : List Byte) : Option (List Byte) :=
  if frame.length ≤ 9216 ∧ field frame 0 6 = mac ∧ field frame 12 2 = 0xB588 then some (frame.drop 14) else none
/-- R363, R364: a command fragment arrives. A duplicate has its stored response sent again; any other number, and a frame that names no
queue, is discarded. -/
def takeCommand (s : State) (b : List Byte) : State :=
  let func := field b 1 1
  let q := 8 * func + field b 2 1
  if b.length < 24 ∨ 96 ≤ func ∨ 8 ≤ field b 2 1 then s else
  let h := queueAt s q
  let seq := field b 4 4
  if seq = h.next then takeFrag s q h b
  else if (h.next + 2 ^ 32 - seq) % 2 ^ 32 ≤ 64 then
    match h.stored.find? (fun r => r.seq == seq) with
    | some r => sendResp s q r
    | none => s
  else s
/-- R362 to R364: a frame arrives at the host port. -/
def execHostFrame (frame : List (BitVec 8)) (s : State) : Out := .next ((portFrame s.mac frame).elim s (takeCommand s))

/-! Commands (R365, R366). -/

/-- What a command comes to: it completes with a status and a body, in the context that the response names; or it goes on later. -/
inductive HostEnd where
  | reply (status x : Nat) (body : List Byte)
  | wait (stage note : Nat)
  deriving DecidableEq, Repr

/-- Who may send a command, and what its `ctx` must name (R365): a context of the function; such a context, or none, where only function 0
may name none; such a context, or none; nothing; or the management commands of function 0. -/
inductive CmdKind where
  | ofCtx
  | ofAny
  | opt
  | free
  | mgmt
  deriving DecidableEq, Repr

/-- What the device accepts in recovery and after it has stopped (R379, R417). -/
def phaseAccepts (s : State) (op : Nat) : Bool :=
  match s.fw.phase with
  | .running => true
  | .recovery => op == 0x01 || op == 0x38 || op == 0x3C
  | .stopped => op == 0x01 || op == 0x38 || op == 0x3D
/-- The partition of a queue's function; function 0 has none. -/
def boundPart (s : State) (q : Nat) : Option Nat := tblGet (q / 8) s.binds
/-- A context that a queue may name. -/
def ownCtx (s : State) (q x : Nat) : Bool := (ctxOf s x).any (fun c => q / 8 == 0 || boundPart s q == some c.part)

/-- The status with which a command is refused before its own rules are looked at; 0 for none. -/
def refuseStatus (s : State) (q : Nat) (k : CmdKind) (c : HostCmd) : Nat :=
  if q / 8 ≠ 0 ∧ ((boundPart s q).isNone ∨ k = .mgmt) then 2
  else if !phaseAccepts s c.op then 5
  else
    match k with
    | .ofCtx => if ownCtx s q c.ctx then 0 else 3
    | .ofAny => if ownCtx s q c.ctx then 0 else if c.ctx ≠ 0xFFFF then 3 else if q / 8 = 0 then 0 else 2
    | .opt => if ownCtx s q c.ctx ∨ c.ctx = 0xFFFF then 0 else 3
    | .free => 0
    | .mgmt => 0

/-- The command of operation `op` at the head of queue `q` starts or goes on. -/
def onHost (q op : Nat) (k : CmdKind) (s : State) (g : State → HostCmd → State × HostEnd) : Out :=
  .next (match (queueAt s q).cmds with
    | c :: _ =>
      if c.op ≠ op ∨ badCmd c then s else
      let r := refuseStatus s q k c
      if r ≠ 0 then finishCmd s q c r c.ctx [] else
      (match g s c with
       | (s, .reply status x body) => finishCmd s q c status x body
       | (s, .wait stage note) =>
         let h := queueAt s q
         putQueue s q { h with cmds := { c with stage := stage, note := note } :: h.cmds.tail })
    | [] => s)

/-- A refused command has no effect (R366). -/
def refuse (s : State) (c : HostCmd) (status : Nat) : State × HostEnd := (s, .reply status c.ctx [])
def done (s : State) (c : HostCmd) (body : List Byte) : State × HostEnd := (s, .reply 0 c.ctx body)
/-- The first status whose condition holds; 0 for none. -/
def statusOf (l : List (Nat × Bool)) : Nat := ((l.find? (·.2)).map (·.1)).getD 0
/-- A command with its checks in order. -/
def withChecks (s : State) (c : HostCmd) (l : List (Nat × Bool)) (g : State × HostEnd) : State × HostEnd :=
  if statusOf l ≠ 0 then refuse s c (statusOf l) else g

/-- R365: `NOP`. -/
def execHostNop (q : Nat) (s : State) : Out := onHost q 0x01 .opt s (fun s c => done s c c.body)

/-- R365, R369: `LAUNCH` in a context that is not lost; it waits while the pool is full (R33). -/
def execHostLaunch (q : Nat) (s : State) : Out :=
  onHost q 0x02 .ofCtx s (fun s c =>
    withChecks s c [(1, decide (c.body.length ≠ 16)), (5, (ctxOf s c.ctx).any (fun x => decide (x.phase = .lost)))]
      (let d := leNat c.body
       if s.requests.any (fun r => decide (r.2.who = .queue q)) then (s, .wait c.stage c.note) else
       match if c.stage = 1 then (s, Peek.tasks c.note) else peekTasks s c.ctx (descGraph d) (.queue q) with
       | (s, .asks _) => (s, .wait 0 0)
       | (s, .tasks n) =>
         match submitLaunch s c.ctx (.queue q) d 0 [] n with
         | (s, true) => done s c []
         | (s, false) => (s, .wait c.stage c.note)))

/-- An event that a command names. -/
def eventBad (s : State) (x e : Nat) : Bool := !(ctxOf s x).any (fun c => decide (e < c.nevent))
/-- R365: `WAITEV`. -/
def execHostWaitev (q : Nat) (s : State) : Out :=
  onHost q 0x03 .ofCtx s (fun s c =>
    let e := field c.body 0 4
    withChecks s c [(1, decide (c.body.length ≠ 12)), (4, eventBad s c.ctx e)]
      (match ctxOf s c.ctx with
       | some x =>
         let r := hbmRead s x.masks (x.events + 16 * e) 8
         if field c.body 4 8 ≤ leNat r.2.bytes then done r.1 c [] else (r.1, .wait 0 0)
       | none => (s, .wait 0 0)))
/-- R365: `SIGEV`. -/
def execHostSigev (q : Nat) (s : State) : Out :=
  onHost q 0x04 .ofCtx s (fun s c =>
    let e := field c.body 0 4
    withChecks s c [(1, decide (c.body.length ≠ 4)), (4, eventBad s c.ctx e)] (done (signalEvent s c.ctx e 0) c []))

/-! Memory (R371, R452). -/

/-- The masks of a command's accesses, and whether it may reach a range of HBM or a flash page. -/
def hostMasks (s : State) (c : HostCmd) : Masks := if c.ctx = 0xFFFF then defaultMasks else ctxMasks s c.ctx
def hostReaches (s : State) (c : HostCmd) (pa n : Nat) : Bool :=
  if c.ctx = 0xFFFF then decide (pa + n ≤ hbmBytes) else paAllowed s c.ctx pa n
def hostPage (s : State) (c : HostCmd) (p : Nat) : Bool :=
  decide (p < flashPages) && (c.ctx == 0xFFFF || (partOf s c.ctx).any (fun x => decide (x.fbase ≤ p ∧ p < x.fbase + x.fcount)))

/-- Bits as bytes, the first bit lowest. -/
def packBits : Nat → List Bool → List Byte
  | 0, _ => []
  | n + 1, bs => BitVec.ofNat 8 ((bs.take 8).foldr (fun b v => b.toNat + 2 * v) 0) :: packBits n (bs.drop 8)
/-- The poison map of `MEMRD`: a bit for each half-line from the one that holds `pa` (R452). -/
def poisonBits (pa n : Nat) (pm : List Bool) : List Bool :=
  if n = 0 then [] else (List.range ((pa + n - 1) / 32 - pa / 32 + 1)).map (fun j =>
    let lo := (pa / 32 + j) * 32 - pa
    let hi := (pa / 32 + j + 1) * 32 - pa
    anyPoison ((pm.drop lo).take (hi - lo)))
def poisonMap (pa n : Nat) (pm : List Bool) : List Byte :=
  let b := poisonBits pa n pm
  packBits ((b.length + 7) / 8) b

/-- R452: `MEMRD`. -/
def execHostMemrd (q : Nat) (s : State) : Out :=
  onHost q 0x08 .ofAny s (fun s c =>
    let pa := field c.body 0 8
    let n := field c.body 8 4
    withChecks s c [(1, decide (c.body.length ≠ 12)), (4, decide (8192 < n)), (4, !hostReaches s c pa n)]
      (let r := prRead s (hostMasks s c) pa n
       done r.1 c (r.2.1 ++ poisonMap pa n r.2.2)))
/-- R452: `MEMWR`. -/
def execHostMemwr (q : Nat) (s : State) : Out :=
  onHost q 0x09 .ofAny s (fun s c =>
    let pa := field c.body 0 8
    let bs := c.body.drop 8
    withChecks s c [(1, decide (c.body.length < 8)), (4, !hostReaches s c pa bs.length)] (done (prWrite s (hostMasks s c) pa bs []) c []))
/-- R452: `FLASHRD`. -/
def execHostFlashrd (q : Nat) (s : State) : Out :=
  onHost q 0x18 .ofAny s (fun s c =>
    let p := field c.body 0 4
    let pa := field c.body 4 8
    withChecks s c [(1, decide (c.body.length ≠ 12)), (4, !hostPage s c p || !hostReaches s c pa 65536), (8, setHas p s.flashBad)]
      (done (prWrite s (hostMasks s c) pa (cellsRead s.cells (flashCell p 0) 65536) []) c []))
/-- R452: `FLASHWR`. -/
def execHostFlashwr (q : Nat) (s : State) : Out :=
  onHost q 0x19 .ofAny s (fun s c =>
    let p := field c.body 0 4
    let pa := field c.body 4 8
    withChecks s c [(1, decide (c.body.length ≠ 12)), (4, !hostPage s c p || !hostReaches s c pa 65536)]
      (let r := prRead s (hostMasks s c) pa 65536
       if anyPoison r.2.2 then refuse r.1 c 8
       else done { r.1 with cells := cellsWrite r.1.cells (flashCell p 0) r.2.1, flashBad := setDel p r.1.flashBad } c []))

/-- R206, R365: `XINV`; it completes once the invalidation has. -/
def execHostXinv (q : Nat) (s : State) : Out :=
  onHost q 0x0A .ofCtx s (fun s c =>
    if c.stage = 1 then (if (tblGet c.note s.invals).isSome then (s, .wait 1 c.note) else done s c []) else
    let v : Word := BitVec.ofNat 64 (field c.body 0 8)
    withChecks s c [(1, decide (c.body.length ≠ 8)), (4, (xinvCover v).isNone)]
      (let r := beginInval s c.ctx ((xinvCover v).getD none) true
       (r.1, .wait 1 r.2)))
/-- R116, R365: `SETMASK`. -/
def execHostSetmask (q : Nat) (s : State) : Out :=
  onHost q 0x0B .ofCtx s (fun s c =>
    withChecks s c [(1, decide (c.body.length ≠ 56))]
      (done (modCtx s c.ctx (fun x => { x with masks := masksOf ((List.range 7).map (fun k => field c.body (8 * k) 8)) })) c []))

end Sys2Proof.Machine
end

