-- ==== Sys2Proof/Machine/HostCtx.lean ====
section
/-! DEFINITION. Host commands on contexts: creation, pre-emption, quotas, policies, counters, trace (R116, R337 to R339, R345, R350 to
R352, R360, R368, R369, R421, R425, R438). -/

namespace Sys2Proof.Machine

/-! Creation and destruction (R368, R369). -/

/-- A context's descriptor: its fields by offset (R368). -/
def descWords (b : List Byte) (off n count : Nat) : List Nat := (List.range count).map (fun k => field b (off + n * k) n)
def zeroBytes (b : List Byte) (off n : Nat) : Bool := ((b.drop off).take n).all (fun v => v == 0)

/-- A random key of the device. -/
def drawKey (s : State) : State × List Byte :=
  ({ s with free := s.free + 32 }, (List.range 32).map (fun k => Config.randomByte (s.free + k)))

/-- A new context of a descriptor (R368); its energy count starts at 0 (log 33). -/
def newCtx (now : Nat) (b key : List Byte) : Ctx :=
  let masks := masksOf (descWords b 112 8 7)
  { root := field b 0 8, fring := field b 8 8, save := field b 16 8, savesz := field b 24 8, trace := field b 32 8, events := field b 40 8,
    nevent := field b 48 4, slack := field b 52 4, slice := field b 56 8, sovf := descWords b 64 8 4, sres := descWords b 96 2 4,
    quotaOn := (field b 104 1).testBit 0, part := field b 105 1, masks := masks, initMasks := masks, tkey := (b.drop 192).take 64,
    saveKey := key, quota := 0, policy := none, lastSerial := 0, phase := .running, sealTime := 0, epoch := 0, hostHold := false,
    seals := 0, quotaHold := false, runSince := now, nextForm := 1, ringBad := false, firings := 0, instrs := 0, paid := 0, counters := [], tchg := 0,
    sampledAt := now, sweep := ⟨0, 0, false, 0, none, false, none⟩, ring := none }

/-- A structure of `n` bytes lies in the partition's ranges, aligned to `k` (R368). -/
def placedIn (p : Part) (pa n k : Nat) : Bool := decide (pa % k = 0 ∧ pa + n ≤ hbmBytes) && inRanges p pa n
/-- The addresses, sizes and alignments of a descriptor (R111, R250, R321, R338, R367, R368, R382). -/
def descPlaced (p : Part) (c : Ctx) : Bool :=
  placedIn p c.root 8192 8192 && placedIn p c.fring 64 64 && placedIn p c.save c.savesz 4096 && decide (c.savesz % 4096 = 0) &&
  placedIn p c.trace 4096 4096 && placedIn p c.events (16 * c.nevent) 64 && decide (c.nevent ≤ 2 ^ 20) &&
  placedIn p (faultArea c) 4160 64 && c.sres.all (fun n => decide (1 ≤ n ∧ n ≤ 56)) &&
  c.sovf.all (fun a => decide (a % 0x400000 = 0 ∧ a < 2 ^ 57))
/-- The resident sizes of a partition's contexts fit in every quadrant, with one more (R368). -/
def residentFits (s : State) (c : Ctx) : Bool :=
  (List.range 4).all (fun k =>
    decide (((s.ctxs.filter (fun x => x.2.part == c.part)).map (fun x => x.2.sres.getD k 0)).sum + c.sres.getD k 0 ≤ 56))

/-- R365, R368: `CTXNEW`. -/
def execHostCtxnew (q : Nat) (s : State) : Out :=
  onHost q 0x10 .free s (fun s c =>
    let b := c.body
    let x := newCtx s.now b []
    let n := tblFree 0 256 s.ctxs
    withChecks s c [
      (1, decide (b.length ≠ 256)),
      (2, decide (q / 8 ≠ 0 ∧ boundPart s q ≠ some x.part)),
      (1, decide (2 ≤ field b 104 1) || !zeroBytes b 106 6 || !zeroBytes b 168 24),
      (4, decide (19 < x.part) || !(tblGet x.part s.parts).any (fun p => descPlaced p x)),
      (7, n.isNone || !residentFits s x)]
      (match drawKey s with
       | (s, key) => ({ s with ctxs := tblSet (n.getD 0) (newCtx s.now b key) s.ctxs }, .reply 0 (n.getD 0) [])))

/-- What the device keeps for a context is discarded, and its number is free (R369); a cluster it left serves a new context of that number as
any other (R314). -/
def dropCtx (s : State) (x : Nat) : State :=
  let s := memClear s (sCell x 0 0) (sCell (x + 1) 0 0)
  let s : State := { s with
    ctxs := tblDel x s.ctxs
    launches := s.launches.filter (fun l => l.2.ctx != x)
    lastOf := s.lastOf.filter (fun p => !s.launches.any (fun l => l.1 == p.2 && l.2.ctx == x))
    forms := s.forms.filter (fun f => f.2.ctx != x)
    sets := s.sets.filter (fun o => o.1 / 256 != x)
    seqCells := s.seqCells.filter (fun o => decide (o.1 < sCell x 0 0 ∨ sCell (x + 1) 0 0 ≤ o.1))
    lockTensors := s.lockTensors.filter (fun o => o.1 / 4096 != x)
    lockItems := s.lockItems.filter (fun i => i.ctx != x)
    txns := s.txns.filter (fun t => t.2.ctx != x)
    heirs := s.heirs.filter (fun t => t.ctx != x)
    tagEmpty := s.tagEmpty.filter (fun t => t.2 != x)
    saves := tblDel x s.saves
    copies := s.copies.filter (fun k => k.ctx != x)
    fills := s.fills.filter (fun f => f.1 / 0x8000000 != x)
    invals := s.invals.filter (fun v => v.2.ctx != x)
    requests := tblMap (fun _ r => if r.ctx = x then { r with who := .none } else r) s.requests
    halts := s.halts.filter (fun h => h.1 / 16 != x)
    breaks := s.breaks.filter (fun b => b.1 / 8 != x)
    ovfChecks := s.ovfChecks.filter (fun p => p.2.1 != x)
    clusters := tblMap (fun _ k => if k.lastCtx = some x then { k with lastCtx := none } else k) s.clusters }
  (s.launches.map (·.1)).foldl refreshLaunch s

/-- A context whose last work has left the clusters and sites. -/
def ctxGone (s : State) (x : Nat) : Bool :=
  (clustersOf s x).isEmpty && (threadsOf s x).isEmpty && !s.forms.any (fun f => decide (f.2.ctx = x ∧ f.2.phase = .failed))
/-- R369: `CTXDEL`. That of a lost context completes once its last copies and teardowns have. -/
def execHostCtxdel (q : Nat) (s : State) : Out :=
  onHost q 0x11 .ofCtx s (fun s c =>
    let idle := !s.launches.any (fun l => l.2.ctx == c.ctx)
    withChecks s c [(1, decide (c.body ≠ [])), (5, !(idle || (ctxOf s c.ctx).any (fun x => decide (x.phase = .suspended ∨ x.phase = .lost))))]
      (if ctxGone s c.ctx then done (dropCtx s c.ctx) c [] else (s, .wait 0 0)))

/-! Halts are released (R346 to R348, R440). -/

/-- Hold `k` of a context is released: its arcs' tokens can be consumed, and its threads issue again. -/
def releaseArc (k : Nat) (a : Arc) : Arc := if setHas k a.holds then { a with holds := setDel k a.holds } else a
def releaseForm (now k : Nat) (fm : Form) : Form :=
  let ds := (fm.arcs.filter (fun a => setHas k a.holds)).map (·.dst)
  { fm with
    arcs := fm.arcs.map (releaseArc k)
    nodes := ds.foldl (fun ns d => listMod d (fun nd => { nd with conds := tblSet 6 now nd.conds }) ns) fm.nodes }
def releaseHold (s : State) (x k : Nat) : State :=
  let ts := threadsHeld s x k
  let s := { s with
    forms := tblMap (fun _ f => if f.ctx = x then releaseForm s.tenths k f else f) s.forms
    threads := tblMap (fun _ t => if t.ctx = x then { t with halts := setDel k t.halts } else t) s.threads
    halts := if k < 16 then tblDel (x * 16 + k) s.halts else s.halts
    breaks := if k < 16 then s.breaks else tblDel (x * 8 + (k - 16)) s.breaks }
  ts.foldl deliverWound s
/-- Holds of a context, then a quota suspension that waited for them (R348). -/
def releaseHolds (s : State) (x : Nat) (ks : List Nat) : State :=
  let s := ks.foldl (fun s k => releaseHold s x k) s
  match ctxOf s x with
  | some c => if c.quotaHold ∧ c.phase = .running ∧ !haltsInForce s x then beginPreempt s x else s
  | none => s
/-- Every halt of a context, with its matched breakpoints; and every breakpoint. -/
def haltKeys (s : State) (x : Nat) : List Nat := (s.halts.filter (fun h => h.1 / 16 == x)).map (fun h => h.1 % 16)
def breakKeys (s : State) (x : Nat) (all : Bool) : List Nat :=
  (s.breaks.filter (fun b => b.1 / 8 == x && (all || b.2.hit))).map (fun b => 16 + b.1 % 8)

/-! Pre-emption and restore by the host (R319, R348, R369). -/

/-- R369: `SUSPEND`: every halt of the context is released first (R348); it completes when the save area is sealed, whatever becomes of the
context then. -/
def execHostSuspend (q : Nat) (s : State) : Out :=
  onHost q 0x12 .ofCtx s (fun s c =>
    withChecks s c [(1, decide (c.body ≠ [])), (5, (ctxOf s c.ctx).any (fun x => decide (x.phase = .lost)))]
      (if c.stage = 0 then
         let s := (haltKeys s c.ctx ++ breakKeys s c.ctx false).foldl (fun s k => releaseHold s c.ctx k) s
         let s := modCtx s c.ctx (fun x => { x with hostHold := true })
         let s := if (ctxOf s c.ctx).any (fun x => decide (x.phase = .running)) then beginPreempt s c.ctx else s
         if (ctxOf s c.ctx).any (fun x => decide (x.phase = .suspended)) then done s c []
         else (s, .wait 1 (((ctxOf s c.ctx).map (·.seals)).getD 0))
       else if (ctxOf s c.ctx).any (fun x => decide (x.phase = .suspended ∨ c.note < x.seals)) then done s c [] else (s, .wait 1 c.note)))
/-- R369: `RESUME`. -/
def execHostResume (q : Nat) (s : State) : Out :=
  onHost q 0x13 .ofCtx s (fun s c =>
    withChecks s c [(1, decide (c.body ≠ [])), (5, (ctxOf s c.ctx).any (fun x => decide (x.phase = .lost)))]
      (done (modCtx s c.ctx (fun x => { x with hostHold := false })) c []))

/-! Quotas (R360, R438). -/

/-- A signed 64-bit number. -/
def signed64 (v : Nat) : Int := signedOf 64 (v % 2 ^ 64)
def quotaCmd (q op : Nat) (s : State) (g : Int → Int → Int) : Out :=
  onHost q op .ofCtx s (fun s c =>
    withChecks s c [(1, decide (c.body.length ≠ 8))]
      (done (modCtx s c.ctx (fun x =>
        let v := signed64 ((g x.quota (signed64 (field c.body 0 8))) % 2 ^ 64).toNat
        { x with quota := v })) c []))
/-- R360: `QSET`. -/
def execHostQset (q : Nat) (s : State) : Out := quotaCmd q 0x14 s (fun _ v => v)
/-- R360: `QADD`. -/
def execHostQadd (q : Nat) (s : State) : Out := quotaCmd q 0x15 s (fun a v => a + v)

/-! Policies (R350, R352). -/

def policyOf (b : List Byte) : Policy :=
  { serial := field b 8 8, levels := (List.range 6).map (fun k => field b (48 + k) 1), tgran := field b 56 1, cgran := field b 57 1,
    agran := field b 58 1, notafter := field b 72 8 }
/-- The shape of a policy (R350). -/
def policyShape (b : List Byte) : Bool :=
  decide (b.length = 30048 ∧ b.take 4 = [0x44, 0x50, 0x4C, 0x31] ∧ field b 4 2 = 1) && zeroBytes b 6 2 && zeroBytes b 54 2 && zeroBytes b 59 5 &&
  zeroBytes b 80 176 && (policyOf b).levels.all (fun l => decide (l ≤ 2)) &&
  decide (field b 56 1 ≤ 30 ∧ field b 57 1 ≤ 40 ∧ 6 ≤ field b 58 1 ∧ field b 58 1 ≤ 30)
/-- Its signature, under the tenant's key that is registered with the context. -/
def policySigned (x : Ctx) (b : List Byte) : Bool :=
  x.tkey.any (fun v => v != 0) && decide ((b.drop 16).take 32 = Config.shake256 x.tkey 32) &&
  Config.slhDsaVerifies x.tkey (b.take 256) (b.drop 256)
/-- Its serial and its time. -/
def policyTimely (x : Ctx) (now : Nat) (b : List Byte) : Bool :=
  decide (x.lastSerial < field b 8 8 ∧ field b 64 8 ≤ now) && (field b 72 8 == 0 || decide (now ≤ field b 72 8))
/-- R350, R352: `POLICY`: it takes effect at once, with a kind 6 record; a lower class 3 releases every halt and breakpoint. -/
def execHostPolicy (q : Nat) (s : State) : Out :=
  onHost q 0x16 .ofCtx s (fun s c =>
    match ctxOf s c.ctx with
    | none => refuse s c 3
    | some x =>
      withChecks s c [(1, !policyShape c.body), (6, !policySigned x c.body), (5, !policyTimely x s.now c.body)]
        (let p := policyOf c.body
         let old := classLevel s c.ctx 3
         let s := modCtx s c.ctx (fun x => { x with policy := some p, lastSerial := p.serial })
         let s := writeTrace s c.ctx ⟨6, 0, 0xFFFFFFFF, 0xFFFFFFFF, 0, noIdx, 0, 0, 0, p.serial⟩
         done (if classLevel s c.ctx 3 < old then releaseHolds s c.ctx (haltKeys s c.ctx ++ breakKeys s c.ctx true) else s) c []))
/-- R350: the counter reaches a policy's `notafter`: a context whose partition requires policies has every class withheld again. -/
def execPolicyNotafter (x : Nat) (s : State) : Out :=
  .next (match ctxOf s x with
    | none => s
    | some c => match c.policy with
      | none => s
      | some p =>
        if p.notafter = 0 ∨ s.now < p.notafter ∨ !needsPolicy s c then s
        else modCtx s x (fun c => { c with policy := none }))

/-! Counters, time status, trace (R337 to R339, R345, R351, R425). -/

/-- A counter of R345 by its offset. -/
def counterAt (c : Ctx) (off : Nat) : Nat := if off = 0x78 then c.instrs else (tblGet off c.counters).getD 0
/-- The excess totals as one sum (R351). -/
def excessSum (c : Ctx) : Nat := ((List.range 8).map (fun k => counterAt c (0x10 + 8 * k))).sum
def coarseCounter (c : Ctx) (g off : Nat) : Nat :=
  if off = 0x10 then coarsen g (excessSum c) else if 0x18 ≤ off ∧ off ≤ 0x48 then 0 else coarsen g (counterAt c off)
/-- The response body of `CTRRD` under a level of class 0 (R351, R425). -/
def counterBytes (c : Ctx) (level g : Nat) (levels : List Nat) : List Byte :=
  let offs := (List.range 18).map (fun k => 8 * k)
  if level = 0 then List.replicate 0xA0 0
  else (offs.flatMap (fun o => leBytes (if level = 1 then coarseCounter c g o else counterAt c o) 8)) ++ levels.map (fun l => BitVec.ofNat 8 l) ++
    leBytes (if level = 1 then coarsen g c.tchg else c.tchg) 8
/-- R345, R425: `CTRRD`. -/
def execHostCtrrd (q : Nat) (s : State) : Out :=
  onHost q 0x28 .ofCtx s (fun s c =>
    withChecks s c [(1, decide (c.body ≠ []))]
      (match ctxOf s c.ctx with
       | some x => done s c (counterBytes x (classLevel s c.ctx 0) (policyGran s c.ctx).2.1 s.levels)
       | none => refuse s c 3))
/-- The time status under class 5 (R337, R351). -/
def timeBytes (t : TimeStatus) (level g : Nat) : List Byte :=
  let offs : Int := if level = 2 then t.offs else if level = 1 then t.offs / 2 ^ g * 2 ^ g else 0
  leBytes (t.state % 4 + t.port % 16 * 2 ^ 28) 4 ++ leBytes (offs % 2 ^ 32).toNat 4 ++ leBytes (if level = 0 then 0 else t.gm) 8
/-- R337: `TIMESTAT`. -/
def execHostTimestat (q : Nat) (s : State) : Out :=
  onHost q 0x29 .ofAny s (fun s c =>
    withChecks s c [(1, decide (c.body ≠ []))] (done s c (timeBytes s.timeStatus (classLevel s c.ctx 5) (policyGran s c.ctx).1)))

/-- The fields of `TRACESET` (R338, R339). -/
def traceOk (s : State) (x : Nat) (b : List Byte) : Bool :=
  decide (field b 0 8 % 4096 = 0 ∧ 6 ≤ field b 8 1 ∧ field b 8 1 ≤ 24 ∧ field b 9 1 < 8) && paAllowed s x (field b 0 8) (64 * 2 ^ field b 8 1) &&
  decide (field b 10 1 = 0 ∨ (10 ≤ field b 10 1 ∧ field b 10 1 ≤ 24))
/-- R339: `TRACESET`. What the device counts in the block goes on. -/
def execHostTraceset (q : Nat) (s : State) : Out :=
  onHost q 0x2A .ofCtx s (fun s c =>
    let b := c.body
    withChecks s c [(1, decide (b.length ≠ 24) || !zeroBytes b 11 5 || !zeroBytes b 20 4), (4, !traceOk s c.ctx b)]
      (match ctxOf s c.ctx with
       | none => refuse s c 3
       | some x =>
         let r := hbmRead s x.masks (x.trace + 24) 24
         let old := x.ring
         let s := hbmWrite r.1 x.masks x.trace b false
         let g : Ring :=
           { base := field b 0 8, lgsize := field b 8 1, enable := field b 9 1, speriod := field b 10 1, thresh := field b 16 4,
             head := (old.map (·.head)).getD (field r.2.bytes 0 8), lost := (old.map (·.lost)).getD (field r.2.bytes 16 8) }
         done (modCtx s c.ctx (fun x => { x with ring := some g })) c []))

end Sys2Proof.Machine
end

