-- ==== Sys2Proof/Machine/HostDebug.lean ====
section
/-! DEFINITION. Debug commands: halts, breakpoints, dumps, status (R346 to R349, R351). -/

namespace Sys2Proof.Machine

/-! Placing halts (R346). -/

/-- The arc of a formation that brings tokens to an input of the node with a compiler node number (R170). -/
def nodeNumbered (fm : Form) (num : Nat) : Option (Nat × Node) :=
  (fm.nodes.findIdx? (fun nd => nd.num == num)).bind (fun n => (fm.nodes[n]?).map (fun nd => (nd.overlay.getD n, nd)))
def namedArc (fm : Form) (num port : Nat) : Option Nat :=
  (nodeNumbered fm num).bind (fun n => fm.arcs.findIdx? (fun a => a.dst == n.1 && a.tport == port && !a.lane))
/-- A formation of a context that stands, by the `form` of R341. -/
def namedForm (s : State) (x form : Nat) : Option (Nat × Form) :=
  s.forms.find? (fun f => decide (f.2.ctx = x ∧ formId f.2 = form) && formLive f.2)

/-- A thread is halted: it stops at its next instruction boundary, and what it waits in is abandoned, but for a store or an atomic that is
on its way to a peer device (R174, R346). -/
def haltThread (k : Nat) (s : State) (t : Nat) : State :=
  let s := modThread s t (fun th => { th with halts := setAdd k th.halts })
  if !threadStopped s t then s else
  let quit (r : PeerReq) : PeerReq := match r.who with
    | .thread u _ => if u = t then { r with who := .none } else r
    | .fetch u => if u = t then { r with who := .none } else r
    | _ => r
  let s := abandonWait s t
  { s with requests := tblMap (fun _ r => quit r) s.requests }

/-- The conditions that refuse every debug command (R349, R351). -/
def debugRefused (s : State) (x : Nat) : List (Nat × Bool) :=
  [(2, decide (classLevel s x 3 = 0)), (5, (ctxOf s x).any (fun c => decide (c.phase = .suspended ∨ c.phase = .lost)))]
/-- The lowest free halt slot of a context. -/
def freeSlot (s : State) (x : Nat) : Option Nat := (List.range 16).find? (fun k => (tblGet (x * 16 + k) s.halts).isNone)

/-- A halt is placed in slot `k` (R346, R349). -/
def placeHalt (s : State) (x k : Nat) (h : Halt) : State :=
  let s := { s with halts := tblSet (x * 16 + k) h s.halts }
  if h.target = 0 then
    match namedForm s x h.form with
    | some f => modForm s f.1 (fun fm => { fm with
        arcs := ((namedArc fm h.node h.port).map (fun a => listMod a (holdArc k) fm.arcs)).getD fm.arcs, sweep := freshSweep fm.sweep })
    | none => s
  else if h.target = 1 then haltThread k s h.node
  else
    let s := { s with forms := tblMap (fun _ f => if f.ctx = x ∧ formLive f then holdSources k f else f) s.forms }
    ((threadsOf s x).map (·.1)).foldl (haltThread k) s
/-- What a halt names exists (R349). -/
def haltNamed (s : State) (x : Nat) (h : Halt) : Bool :=
  if h.target = 0 then (namedForm s x h.form).any (fun f => (namedArc f.2 h.node h.port).isSome)
  else if h.target = 1 then (tblGet h.node s.threads).any (fun t => t.ctx == x) else true

/-- R346, R349: `HALT`. -/
def execHostHalt (q : Nat) (s : State) : Out :=
  onHost q 0x20 .ofCtx s (fun s c =>
    let b := c.body
    let h : Halt := ⟨field b 0 1, field b 1 1, field b 4 4, if field b 0 1 = 1 then field b 8 4 % 1024 else field b 8 4, field b 12 1, 0⟩
    withChecks s c (
      [(1, decide (b.length ≠ 24 ∨ 2 < h.target ∨ 1 < h.opts ∨ (h.target = 0 ∧ h.opts ≠ 0)) || !zeroBytes b 2 2 || !zeroBytes b 13 11)] ++
      debugRefused s c.ctx ++ [(4, !haltNamed s c.ctx h), (7, (freeSlot s c.ctx).isNone)])
      (match freeSlot s c.ctx with
       | some k => done (placeHalt s c.ctx k h) c [BitVec.ofNat 8 k]
       | none => refuse s c 7))

/-- The holds that `what` and `num` name; `none` where the number does not exist (R349). -/
def namedHolds (s : State) (x what num : Nat) : Option (List Nat) :=
  if what = 0 then (if num < 16 ∧ (tblGet (x * 16 + num) s.halts).isSome then some [num] else none)
  else if what = 1 then (if num < 8 ∧ (tblGet (x * 8 + num) s.breaks).isSome then some [16 + num] else none)
  else some (haltKeys s x ++ breakKeys s x true)
/-- R346, R349: `RELEASE`. -/
def execHostRelease (q : Nat) (s : State) : Out :=
  onHost q 0x21 .ofCtx s (fun s c =>
    let b := c.body
    let ks := namedHolds s c.ctx (field b 0 1) (field b 1 1)
    withChecks s c ([(1, decide (b.length ≠ 4 ∨ 2 < field b 0 1) || !zeroBytes b 2 2)] ++ debugRefused s c.ctx ++ [(4, ks.isNone)])
      (done (releaseHolds s c.ctx (ks.getD [])) c []))

/-- R346, R349: `BREAK`: a breakpoint is armed in place of any of its number. -/
def execHostBreak (q : Nat) (s : State) : Out :=
  onHost q 0x22 .ofCtx s (fun s c =>
    let b := c.body
    let k := field b 10 1
    let p : Breakpoint := ⟨field b 0 4, field b 4 4, field b 8 1, field b 9 1, field b 12 4, field b 16 4, field b 20 4, false, 0⟩
    let named := (namedForm s c.ctx p.form).any (fun f => (namedArc f.2 p.node p.port).isSome)
    withChecks s c ([(1, decide (b.length ≠ 32 ∨ 32 ≤ p.kinds) || !zeroBytes b 11 1 || !zeroBytes b 24 8)] ++ debugRefused s c.ctx ++
        [(4, decide (7 < k) || !named)])
      (let s := releaseHolds s c.ctx (if (tblGet (c.ctx * 8 + k) s.breaks).isSome then [16 + k] else [])
       done { s with breaks := tblSet (c.ctx * 8 + k) p s.breaks } c []))

/-! Dumps (R323, R348). -/

/-- Hold `k` of a context has reported stable. -/
def holdSteady (s : State) (x k : Nat) : Bool :=
  if k < 16 then (tblGet (x * 16 + k) s.halts).any (fun h => h.since != 0) else (tblGet (x * 8 + (k - 16)) s.breaks).any (fun b => b.since != 0)
/-- The tokens on an arc as held tokens (R323, R349). -/
def arcDump (a : Arc) : List Byte := leBytes a.toks.length 1 ++ leBytes 0 7 ++ a.toks.flatMap (fun t => heldBytes (a.tport, t.tok))
/-- The thread record of a thread that stands (R323). -/
def threadDump (s : State) (x t : Nat) (th : Thread) : List Byte :=
  let quota := match ctxOf s x with
    | some c => if c.quotaOn then (c.quota % 2 ^ 64).toNat else 0x7FFFFFFFFFFFFFFF
    | none => 0
  threadRecord quota (((clustersOf s x).findIdx? (fun i => i == clusterOf t)).getD 0) t th
/-- What a dump holds, with whether its target lies under a stable halt; `none` where the target does not exist (R349). -/
def dumpOf (s : State) (x what form node port : Nat) : Option (Bool × List Byte) :=
  if what = 1 then
    match tblGet node s.threads with
    | some th => if th.ctx = x then some (th.halts.any (holdSteady s x), threadDump s x node th) else none
    | none => none
  else
    match namedForm s x form with
    | none => none
    | some f =>
      let steady := f.2.arcs.any (fun a => a.holds.any (holdSteady s x))
      if what = 0 then
        (nodeNumbered f.2 node).map (fun n => (steady, nodeMapBytes n.2 ++ nodeRecordBytes s f.2 ((f.2.nodes[n.1]?).getD n.2)))
      else ((namedArc f.2 node port).bind (fun a => f.2.arcs[a]?)).map (fun a => (steady, arcDump a))
/-- R348, R349: `DUMP`, which changes no state. -/
def execHostDump (q : Nat) (s : State) : Out :=
  onHost q 0x23 .ofCtx s (fun s c =>
    let b := c.body
    let what := field b 0 1
    let d := dumpOf s c.ctx what (field b 4 4) (if what = 1 then field b 8 4 % 1024 else field b 8 4) (field b 12 1)
    withChecks s c ([(1, decide (b.length ≠ 16 ∨ 2 < what) || !zeroBytes b 1 3 || !zeroBytes b 13 3)] ++ debugRefused s c.ctx ++
        [(2, decide (classLevel s c.ctx 3 ≠ 2)), (4, d.isNone), (5, d.any (fun d => !d.1))])
      (done s c ((d.map (·.2)).getD [])))

/-! Status (R349). -/

/-- The 32 bytes of `HSTAT`. -/
def statusBytes (state target opts left since threads copies pending : Nat) : List Byte :=
  leBytes state 1 ++ leBytes target 1 ++ leBytes opts 1 ++ [0] ++ leBytes left 4 ++ leBytes since 8 ++ leBytes threads 4 ++ leBytes copies 4 ++
  leBytes pending 4 ++ leBytes 0 4
/-- Copies that stand stopped on the engines of the halted threads' clusters (R346, R439). -/
def stoppedCopies (s : State) (ts : List Nat) : Nat :=
  let cls := ts.foldl (fun l t => setAdd (clusterOf t) l) []
  (cls.map (fun cl => (([6, 7] : List Nat).filter (fun u => (unitAt s cl u).running.any (fun c => copyFrozen s cl u c))).length)).sum
/-- The time of the record that reported a halt stable, rounded as the record's (R349, R351). -/
def sinceTime (s : State) (x since : Nat) : Nat := coarsen (policyGran s x).1 since
def haltStatus (s : State) (x num : Nat) : List Byte :=
  match tblGet (x * 16 + num) s.halts with
  | none => statusBytes 0 0 0 0 0 0 0 0
  | some h =>
    let ts := threadsHeld s x num
    statusBytes (if h.since = 0 then 2 else 3) h.target h.opts 0 (sinceTime s x h.since) ts.length (if h.opts = 1 then stoppedCopies s ts else 0)
      (ts.map (fun t => (cmdsOf s t).length)).sum
def breakStatus (s : State) (x num : Nat) : List Byte :=
  match tblGet (x * 8 + num) s.breaks with
  | none => statusBytes 0 3 0 0 0 0 0 0
  | some b =>
    let ts := threadsHeld s x (16 + num)
    statusBytes (if !b.hit then 1 else if b.since = 0 then 2 else 3) 3 0 b.skip (sinceTime s x b.since) ts.length 0 (ts.map (fun t => (cmdsOf s t).length)).sum
/-- R349: `HSTAT`. -/
def execHostHstat (q : Nat) (s : State) : Out :=
  onHost q 0x24 .ofCtx s (fun s c =>
    let b := c.body
    let num := field b 1 1
    withChecks s c ([(1, decide (b.length ≠ 4 ∨ 1 < field b 0 1) || !zeroBytes b 2 2)] ++ debugRefused s c.ctx ++
        [(4, decide ((if field b 0 1 = 0 then 16 else 8) ≤ num))])
      (done s c (if field b 0 1 = 0 then haltStatus s c.ctx num else breakStatus s c.ctx num)))

end Sys2Proof.Machine
end

