-- ==== Sys2Proof/Machine/HostMgmt.lean ====
section
/-! DEFINITION. Management commands, identity, bring-up and time (R121, R270, R335 to R337, R361, R370, R374 to R379, R424, R451). -/

namespace Sys2Proof.Machine

/-! Partitions (R370, R424). -/

/-- The matrix of a partition that no `LOCKMAT` has loaded (R270). -/
def defaultMatrix : Word := 0x000000100105030F
def partOfBytes (b : List Byte) (m : Word) : Part :=
  { clusters := field b 0 8, rangesList := (List.range 8).map (fun k => (field b (8 + 8 * k) 4, field b (12 + 8 * k) 4)),
    fbase := field b 72 4, fcount := field b 76 4, peers := field b 80 2, bwshare := field b 82 1, flags := field b 83 1, lockMatrix := m }
/-- Ranges, in GiB, that share a byte. -/
def rangesMeet (a b : Nat × Nat) : Bool := decide (a.2 ≠ 0 ∧ b.2 ≠ 0 ∧ a.1 < b.1 + b.2 ∧ b.1 < a.1 + a.2)
/-- Partitions that share a cluster or a byte of HBM (R370). -/
def partsMeet (a b : Part) : Bool := decide (a.clusters &&& b.clusters ≠ 0) || a.rangesList.any (fun r => b.rangesList.any (rangesMeet r))
def otherParts (s : State) (n : Nat) : List Part := (s.parts.filter (fun p => p.1 != n)).map (·.2)
/-- The SRAM of a cluster cleared when it is assigned to a partition (R121): the islands of its 16 rows of 32 sites, A, C and W. -/
def clearAssigned (s : State) (cl : Nat) : State :=
  clearCluster ((List.range 16).foldl (fun s y => memClear s (islandCell (siteId cl 0 y) 0) (islandCell (siteId cl 31 y) 65536)) s) cl

/-- R370: `PARTSET`. -/
def execHostPartset (q : Nat) (s : State) : Out :=
  onHost q 0x30 .mgmt s (fun s c =>
    let n := c.ctx % 32
    let old := tblGet n s.parts
    let p := partOfBytes c.body ((old.map (·.lockMatrix)).getD defaultMatrix)
    let others := otherParts s n
    withChecks s c [
      (1, decide (c.body.length ≠ 128 ∨ 2 ≤ p.flags) || !zeroBytes c.body 84 44),
      (4, decide (19 < n ∨ flashPages < p.fbase + p.fcount) || p.rangesList.any (fun r => decide (r.2 ≠ 0 ∧ 384 < r.1 + r.2))),
      (5, s.ctxs.any (fun x => x.2.part == n) || others.any (partsMeet p) || decide (256 < (others.map (·.bwshare)).sum + p.bwshare))]
      (let had := (old.map (·.clusters)).getD 0
       let fresh := (List.range 64).filter (fun k => p.clusters.testBit k && !had.testBit k)
       done (fresh.foldl clearAssigned { s with parts := tblSet n p s.parts }) c []))
/-- R270, R365: `LOCKMAT`. -/
def execHostLockmat (q : Nat) (s : State) : Out :=
  onHost q 0x31 .mgmt s (fun s c =>
    let n := c.ctx % 32
    withChecks s c [(1, decide (c.body.length ≠ 8)), (4, (tblGet n s.parts).isNone)]
      (done { s with parts := tblMod n (fun p => { p with lockMatrix := BitVec.ofNat 64 (field c.body 0 8) }) s.parts } c []))
/-- R374: `PEERWIN`. -/
def execHostPeerwin (q : Nat) (s : State) : Out :=
  onHost q 0x32 .mgmt s (fun s c =>
    let b := c.body
    let w : PeerWin := ⟨field b 0 1, field b 1 1, field b 2 1, field b 3 1, field b 8 8, field b 16 8⟩
    withChecks s c [
      (1, decide (b.length ≠ 32 ∨ 8 ≤ w.perm) || !zeroBytes b 4 4 || !zeroBytes b 24 8),
      (4, decide (w.base % 65536 ≠ 0 ∨ w.size % 65536 ≠ 0))]
      (done { s with windows := tblSet (c.ctx % 64) w s.windows } c []))
/-- R365: `FNBIND`. -/
def execHostFnbind (q : Nat) (s : State) : Out :=
  onHost q 0x33 .mgmt s (fun s c =>
    let f := field c.body 0 1
    let p := field c.body 1 1
    withChecks s c [(1, decide (c.body.length ≠ 2)), (4, decide (f = 0 ∨ 95 < f) || decide (p ≠ 255) && (tblGet p s.parts).isNone)]
      (done { s with binds := if p = 255 then tblDel f s.binds else tblSet f p s.binds } c []))

/-! Power (R357, R361). -/

/-- The block of R361. -/
def powerBytes (s : State) : List Byte :=
  let p := s.power
  leBytes p.pbudget 4 ++ leBytes p.rshare 4 ++ leBytes p.limit 4 ++ leBytes p.group 2 ++ leBytes p.floor 2 ++ leBytes p.epoch 8 ++
  leBytes (heldPower s) 4 ++ leBytes (demandPower s) 4
/-- R357, R361: `POWER`. A budget that falls takes effect at the second boundary, where the command completes; a rise, at the next
(`changesAfter`). -/
def execHostPower (q : Nat) (s : State) : Out :=
  onHost q 0x34 .mgmt s (fun s c =>
    if c.stage = 1 then (if c.note ≤ s.power.lastPeriod then done s c (powerBytes s) else (s, .wait 1 c.note)) else
    let b := c.body
    let v := field b 0 4
    let k := s.now / 10000
    withChecks s c [(1, decide (b.length ≠ 32)), (4, decide (1150 < v))]
      (let fall := decide (v < s.power.pbudget)
       let s := modPower s (fun p => { p with
         pbudget := v, changes := changesAfter p k v (field b 12 2), limit := field b 8 4, group := field b 12 2, floor := field b 14 2 })
       if fall then (s, .wait 1 (k + 2)) else done s c (powerBytes s)))

/-! Firmware images (R375, R379). -/

/-- The module's firmware region: its first byte in flash. -/
def firmwareCell : Nat := flashCell flashPages 0
def signatureBytes : Nat := 29792
/-- An image passes the check of R378 step 2: its form, its digest, its security version and its signature. -/
def imageOk (minSvn : Nat) (b : List Byte) : Bool :=
  let len := field b 8 8
  decide (b.length = 64 + len + signatureBytes ∧ b.take 4 = [0x46, 0x57, 0x49, 0x31] ∧ minSvn ≤ field b 4 4) && zeroBytes b 48 16 &&
  decide ((b.drop 16).take 32 = Config.shake256 ((b.drop 64).take len) 32) &&
  Config.slhDsaVerifies Config.signingPublicKey (b.take (64 + len)) (b.drop (64 + len))
/-- The stored image, which no uncorrectable flash error touches. -/
def storedImage (s : State) : List Byte :=
  let len := leNat (cellsRead s.cells (firmwareCell + 8) 8)
  if 2 ^ 30 < 64 + len + signatureBytes then [] else cellsRead s.cells firmwareCell (64 + len + signatureBytes)
def imageSound (s : State) (n : Nat) : Bool := (List.range ((n + 65535) / 65536)).all (fun k => !setHas (flashPages + k) s.flashBad)
def bootFirmware (s : State) : Firmware :=
  let b := storedImage s
  if imageSound s b.length && imageOk s.fw.minSvn b then ⟨.running, (b.drop 16).take 32, field b 4 4, s.fw.minSvn⟩
  else ⟨.recovery, [], 0, s.fw.minSvn⟩

/-! Bring-up (R378, R451). -/

/-- HBM as bring-up finds it: its contents are unspecified, and stand in the operand of the step (log 11). -/
def hbmCells (l : List (Nat × BitVec 8)) : Cells :=
  l.foldl (fun cs p => if p.1 < hbmBytes then cellsWrite cs p.1 [p.2] else cs) []
/-- The device after bring-up: flash, the counter, the state of the surroundings and what has been sent stay; everything else is as at
reset. -/
def bringUp (s : State) (hbm : List (Nat × BitVec 8)) : State :=
  { State.reset with
    now := s.now, tenths := s.tenths, slew := s.slew, cells := hbmCells hbm ++ cellsFrom flashBase s.cells, flashBad := s.flashBad
    sticking := s.sticking, outbox := s.outbox, sent := s.sent, levels := s.levels, stackWin := (List.range 8).map (fun k => (k, s.now / 10000)), limited := s.limited, fw := bootFirmware s
    routes := s.routes, mac := s.mac, leads := s.leads, agenda := s.agenda, free := s.free, nextSerial := s.nextSerial, nextInval := s.nextInval
    power := { State.reset.power with dev := s.power.dev, members := s.power.members, lastPeriod := s.now / 10000 } }
/-- R378: power-on: the counter counts from 0, and firmware sets it once, to `time`; in recovery no firmware runs, and it counts on. -/
def execPowerOn (time : Nat) (hbm : List (Nat × BitVec 8)) (s : State) : Out :=
  let now := if (bootFirmware s).phase = .recovery then 0 else time
  .next (bringUp { s with now := now, tenths := 10 * now, slew := 0 } hbm)
/-- R378: `RESET`: it has no response, as it is itself in flight. -/
def execHostReset (q : Nat) (hbm : List (Nat × BitVec 8)) (s : State) : Out :=
  match onHost q 0x3D .mgmt s (fun s c => withChecks s c [(1, decide (c.body ≠ []))] (s, .wait 1 0)) with
  | .next s' => .next (if (queueAt s' q).cmds.head?.any (fun c => decide (c.op = 0x3D ∧ c.stage = 1)) then bringUp s hbm else s')
  | o => o
/-- R379: `FWLOAD`: an image that passes is written to the firmware region, and the device resets. -/
def execHostFwload (q : Nat) (hbm : List (Nat × BitVec 8)) (s : State) : Out :=
  match onHost q 0x3C .mgmt s (fun s c =>
      withChecks s c [(5, decide (s.fw.phase ≠ .recovery)), (6, !imageOk s.fw.minSvn c.body)]
        (done { s with
          cells := cellsWrite s.cells firmwareCell c.body
          flashBad := setDelRange flashPages (flashPages + (c.body.length + 65535) / 65536) s.flashBad } c [])) with
  | .next s' =>
    .next (match (queueAt s q).cmds with
      | c :: _ => if c.op = 0x3C ∧ !badCmd c ∧ refuseStatus s q .mgmt c = 0 ∧ s.fw.phase = .recovery ∧ imageOk s.fw.minSvn c.body then bringUp s' hbm else s'
      | [] => s')
  | o => o

/-! Attestation (R376, R377). -/

def rangeBytes (r : Nat × Nat) : List Byte := leBytes r.1 4 ++ leBytes r.2 4
def partBytes (p : Part) : List Byte :=
  leBytes p.clusters 8 ++ p.rangesList.flatMap rangeBytes ++ leBytes p.fbase 4 ++ leBytes p.fcount 4 ++ leBytes p.peers 2 ++
  leBytes p.bwshare 1 ++ leBytes p.flags 1 ++ List.replicate 44 0
def windowBytes (w : PeerWin) : List Byte :=
  leBytes w.dev 1 ++ leBytes w.rpart 1 ++ leBytes w.lpart 1 ++ leBytes w.perm 1 ++ leBytes 0 4 ++ leBytes w.base 8 ++ leBytes w.size 8 ++ leBytes 0 8
/-- The partition entries, the peer windows and the function bindings, in that order; those not loaded as zeros, a function without a
partition as 0xFF. -/
def configBytes (s : State) : List Byte :=
  (List.range 20).flatMap (fun k => ((tblGet k s.parts).map partBytes).getD (List.replicate 128 0)) ++
  (List.range 64).flatMap (fun k => ((tblGet k s.windows).map windowBytes).getD (List.replicate 32 0)) ++
  (List.range 96).map (fun k => BitVec.ofNat 8 ((tblGet k s.binds).getD 255))
/-- The 192 bytes of a report (R377). -/
def reportBytes (s : State) (x : Nat) (nonce : List Byte) : List Byte :=
  let c := ctxOf s x
  let key := (c.map (·.tkey)).getD []
  [0x41, 0x54, 0x54, 0x31] ++ leBytes 1 2 ++ leBytes x 2 ++ leBytes s.now 8 ++ nonce ++ exactly 32 s.fw.digest ++ leBytes s.fw.svn 4 ++
  leBytes s.fw.minSvn 4 ++ exactly 32 (Config.shake256 (configBytes s) 32) ++
  leBytes (((c.bind (·.policy)).map (·.serial)).getD 0) 8 ++
  (if key.any (fun v => v != 0) then exactly 32 (Config.shake256 key 32) else List.replicate 32 0) ++ List.replicate 32 0
/-- R377: `ATTEST`: the report and its signature of 29,792 bytes. -/
def execHostAttest (q : Nat) (s : State) : Out :=
  onHost q 0x38 .opt s (fun s c =>
    withChecks s c [(1, decide (c.body.length ≠ 32))]
      (let r := reportBytes s c.ctx c.body
       done s c (r ++ exactly signatureBytes (Config.deviceSignature r))))

end Sys2Proof.Machine
end

