-- ==== Sys2Proof/Machine/LoopNodes.lean ====
section
/-! DEFINITION. Loop-control units (R63, R64, R301, R302). -/

namespace Sys2Proof.Machine

/-- The words and the loop of an element in the active (`false`) or shadow (`true`) configuration; one that does not swap keeps its
active word (R69). -/
def wordIn (nd : Node) (b : Bool) : BitVec 32 := if b && elemSwap nd.word then nd.shadow else nd.word
def loopIn (nd : Node) (b : Bool) : Option Nat := if b && elemSwap nd.word then nd.loopShadow else nd.loop

/-- Whether an element's input reads stream `st` (0 idx, 1 last) of the loop-control unit `n`, in the configuration that the unit is in
(R301; log 28). -/
def readsStream (fm : Form) (n : Nat) (b : Bool) (a : Arc) : Bool :=
  match fm.nodes[a.dst]? with
  | some nd =>
    let w := wordIn nd b
    let src := if a.tport = 0 then elemSrcA w else if oneInput (elemOp w) then 0 else elemSrcB w
    decide (src = 2 + a.fport) && decide (loopIn nd b = some n)
  | none => false

/-- The arcs and lanes that take a stream of a loop-control unit, by their numbers (R301). -/
def readersFrom (fm : Form) (n st : Nat) (b : Bool) (k : Nat) : List Arc → List Nat
  | [] => []
  | a :: rest =>
    let here := decide (a.src = n ∧ a.fport = st) && (!a.lane || readsStream fm n b a)
    (if here then [k] else []) ++ readersFrom fm n st b (k + 1) rest
def readers (fm : Form) (n st : Nat) (nd : Node) : List Nat := readersFrom fm n st nd.sel 0 fm.arcs

/-- The series that a token on `n` gives both streams (R63). -/
def seriesOf (start step : Int) (t : Tok) : Rest :=
  if t.kind = 0 then
    if t.poison then .one (dataTok true 0)
    else if t.data = 0 then .one nullTok else .run start step t.data.toNat 0
  else if t.kind = 1 then .one nullTok else .one t

/-- R63, R302: a loop-control unit consumes the next token of `n`, once both series of the one before are emitted. A tile loop takes
what the formation gives it (R47). -/
def execLoopNConsume (f n : Nat) (s : State) : Out :=
  .next (match formAt s f with
    | none => s
    | some fm =>
      match fm.nodes[n]? with
      | none => s
      | some nd =>
        if !able fm nd 3 || decide (nd.idx ≠ .none) || decide (nd.last ≠ .none) then s else
        let k := loopK (curWord nd)
        let take (s : State) (t : Tok) (g : Form → Form) : State :=
          let r := seriesOf (poolEntry fm k).toInt (poolEntry fm (k + 1)).toInt t
          modForm s f (fun fm => modNode (g fm) n (fun nd => { nd with idx := r, last := r }))
        match (if loopTile nd.word then injection s fm nd else none) with
        | some t =>
          take (noteFiring s f n [] [0, 1]) t (fun fm => modNode fm n (fun nd => injected nd t))
        | none =>
          match tokenAt fm n 0 0 with
          | some t =>
            if tokReason t.tok ≠ 0 then badToken s f n t.tok
            else take (noteFiring s f n [(0, t)] [0, 1]) t.tok (fun fm => takeAt s.tenths fm n 0 0)
          | none => s)

/-- The current token of a stream: `st` 0 for idx, 1 for last (R63). -/
def restTok (st : Nat) : Rest → Option Tok
  | .none => none
  | .one t => some t
  | .run start step cnt i =>
    some (dataTok false (if st = 0 then BitVec.ofInt 32 (start + (i : Int) * step) else if i + 1 = cnt then 1 else 0))
/-- The stream after its current token. -/
def restNext : Rest → Rest
  | .run start step cnt i => if i + 1 < cnt then .run start step cnt (i + 1) else .none
  | _ => .none
def streamRest (nd : Node) (st : Nat) : Rest := if st = 0 then nd.idx else nd.last
def streamGiven (nd : Node) (st : Nat) : NatSet := if st = 0 then nd.idxGiven else nd.lastGiven
def setStream (nd : Node) (st : Nat) (r : Rest) (g : NatSet) : Node :=
  if st = 0 then { nd with idx := r, idxGiven := g } else { nd with last := r, lastGiven := g }

/-- A control token has left on both streams (R302). -/
def endControl (t : Tok) (nd : Node) : Node :=
  if nd.idx = .none ∧ nd.last = .none then
    let nd := notePassed nd t
    if isSwapEos t then { nd with sel := !nd.sel } else nd
  else nd

/-- Whether an element has still to consume the token of a stream that the unit gave it last; an arc consumes one as it takes it (R301). -/
def unread (fm : Form) (n st : Nat) : Bool := fm.arcs.any (fun a => a.lane && decide (a.src = n ∧ a.fport = st) && !a.toks.isEmpty)
/-- R64, R301: the current token of a stream is given to each of its readers that can take it, once every reader has consumed the one before;
once all have it, it is emitted. A stream without a reader is discarded. -/
def execLoopEmit (f n : Nat) (last : Bool) (s : State) : Out :=
  .next (match formAt s f with
    | none => s
    | some fm =>
      match fm.nodes[n]? with
      | none => s
      | some nd =>
        let st := if last then 1 else 0
        let r := streamRest nd st
        match able fm nd 3, restTok st r with
        | true, some t =>
          let rs := readers fm n st nd
          let given := streamGiven nd st
          let takers := if given.isEmpty && unread fm n st then [] else rs.filter (fun k => !setHas k given && (fm.arcs[k]?).any (room fm))
          if !rs.isEmpty && takers.isEmpty then s else
          let given' := takers.foldl (fun g k => setAdd k g) given
          let whole := rs.all (fun k => setHas k given')
          let next := if rs.isEmpty then .none else if whole then restNext r else r
          let s := modForm s f (fun fm =>
            let fm := takers.foldl (fun fm k => putArc fm k (fun a => { a with toks := a.toks ++ [⟨t, 0, s.tenths⟩] })) fm
            modNode { fm with moves := fm.moves + 1 } n (fun nd =>
              let nd := if last then nd else { nd with cur := some t.data }
              let nd := setStream nd st next (if whole then [] else given')
              if isControl t && whole then endControl t nd else nd))
          settleDrain s f
        | _, _ => s)

end Sys2Proof.Machine
end

