-- ==== Sys2Proof/Machine/Ptp.lean ====
section
/-! DEFINITION. The alignment of the counter by IEEE 1588 (R335 to R337; log 14).

R336 names the standard and the parts of it that the device supports; what these do is taken from the standard (PRESUMED, log 14). -/

namespace Sys2Proof.Machine

/-- A correction of the counter: a step forward of more than 1 ms is taken at once, anything else is slewed (R335). -/
def correct (s : State) (d : Int) : State :=
  if 1000000 < d then { s with now := s.now + d.toNat, slew := 0 } else { s with slew := d }

def ptpAt (s : State) (p : Nat) : PtpPort := (tblGet p s.ptpPorts).getD ⟨none, none, none, none, 0, 0, 0⟩
def setPtp (s : State) (p : Nat) (q : PtpPort) : State := { s with ptpPorts := tblSet p q s.ptpPorts }
def sendPtp (s : State) (p : Nat) (ms : List PtpMsg) : State := { s with ptpOut := s.ptpOut ++ ms.map (fun m => (p, m)) }

/-! The best master (R336). -/

/-- The device's own data set, and the port identity of one of its ports. -/
def ownSet : PtpSet :=
  ⟨Config.ptpOwn 0, Config.ptpOwn 1, Config.ptpOwn 2, Config.ptpOwn 3, Config.ptpOwn 4, Config.ptpOwn 5 % 2 ^ 64, 0, 0⟩
def ownPort (p : Nat) : Nat := ownSet.gm * 65536 + p + 1
/-- The first list that is lower, number by number. -/
def lowerList : List Nat → List Nat → Bool
  | a :: as, b :: bs => decide (a < b) || (decide (a = b) && lowerList as bs)
  | _, _ => false
/-- The default best master clock algorithm: of two masters heard at ports, the better. Two ways to one grandmaster are compared by their length,
then by sender and port. -/
def ptpBetter (a b : Nat × PtpSet) : Bool :=
  let x := a.2
  let y := b.2
  if x.gm = y.gm then lowerList [x.steps, x.sender, a.1] [y.steps, y.sender, b.1]
  else lowerList [x.prio1, x.cls, x.accuracy, x.variance, x.prio2, x.gm] [y.prio1, y.cls, y.accuracy, y.variance, y.prio2, y.gm]
def ptpBest (s : State) : Option (Nat × PtpSet) :=
  (s.ptpPorts.filterMap (fun p => p.2.best.map (fun d => (p.1, d)))).foldl (fun b d => match b with
    | some c => if ptpBetter d c then some d else b
    | none => some d) none

/-- Whether a parent is followed: the counter is acquired or locked (R337). -/
def hasParent (s : State) : Bool := decide (s.timeStatus.state = 1 ∨ s.timeStatus.state = 2)
/-- The device's own clock class is of those that follow no other clock. -/
def ownPrimary : Bool := decide (1 ≤ ownSet.cls ∧ ownSet.cls ≤ 127)
/-- The device becomes grandmaster: it follows no one, and its status is as log 14 says. -/
def lead (s : State) : State := { s with timeStatus := ⟨ownSet.gm, 0, 15, 0⟩, slew := 0 }
/-- The port towards the parent is chosen (R336, R337). The device becomes grandmaster only where firmware lets it. -/
def chooseParent (s : State) : State :=
  match ptpBest s with
  | some (p, d) =>
    if s.leads && (ownPrimary || ptpBetter (13, ownSet) (p, d)) then lead s
    else if s.timeStatus.port = p ∧ s.timeStatus.gm = d.gm ∧ hasParent s then s
    else { s with timeStatus := ⟨d.gm, s.timeStatus.offs, p, 1⟩ }
  | none => if s.leads then lead s else s

/-- Whether a port that hears `d` is passive while `b` is the best master heard: `d` is another way to the same grandmaster, and no longer as
the standard compares two ways. -/
def ptpPassive (p : Nat) (b d : PtpSet) : Bool :=
  decide (d.gm = b.gm ∧ (d.steps ≤ b.steps ∨ (d.steps = b.steps + 1 ∧ d.sender < ownPort p)))
/-- What a port announces as master; none where it is not one: towards the parent, where another way to the same grandmaster is heard, and while the
device neither leads nor follows a parent. -/
def announced (s : State) (p : Nat) : Option PtpSet :=
  if s.leads ∧ s.timeStatus.port = 15 then
    if ownPrimary && (ptpAt s p).best.any (fun d => ptpBetter (p, d) (13, ownSet)) then none else some ownSet
  else if hasParent s ∧ s.timeStatus.port ≠ p then
    (ptpBest s).bind (fun b => if (ptpAt s p).best.any (ptpPassive p b.2) then none else some { b.2 with steps := b.2.steps + 1 })
  else none

/-! The messages (R336). -/

/-- An offset from the parent has been measured at a port (R335, R337). -/
def measured (s : State) (p : Nat) (offs : Int) : State :=
  if s.timeStatus.port = p ∧ hasParent s then
    correct { s with timeStatus := { s.timeStatus with offs := offs, state := if Config.ptpLocked offs then 2 else 1 } } (-offs)
  else s
/-- A message arrives at a port, stamped with the counter. -/
def ptpTake (s : State) (p : Nat) (m : PtpMsg) : State :=
  let q := ptpAt s p
  match m with
  | .announce d => if 255 ≤ d.steps ∨ d.gm = ownSet.gm ∨ d.sender / 65536 = ownSet.gm then s else chooseParent (setPtp s p { q with best := some d })
  | .sync n => setPtp s p { q with sync := some (n, s.now) }
  | .followUp n origin =>
    match q.sync with
    | some (k, t) =>
      if k ≠ n then s else
      let diff : Int := (t : Int) - origin
      measured (setPtp s p { q with sync := none, diff := diff }) p (diff - q.delay)
    | none => s
  | .delayReq n => if (announced s p).isSome then sendPtp s p [.delayResp n s.now] else s
  | .delayResp n received =>
    match q.asked with
    | some (k, t) => if k ≠ n then s else setPtp s p { q with asked := none, delay := (q.diff + ((received : Int) - t)) / 2 }
    | none => s
  | .pdelayReq n => sendPtp s p [.pdelayResp n s.now, .pdelayFollowUp n s.now]
  | .pdelayResp n received => if (q.asked.map (·.1)) = some n then setPtp s p { q with reply := some (received, s.now) } else s
  | .pdelayFollowUp n sent =>
    match q.asked, q.reply with
    | some (k, t), some (got, back) =>
      if k ≠ n then s else setPtp s p { q with asked := none, reply := none, delay := (((back : Int) - t) - ((sent : Int) - got)) / 2 }
    | _, _ => s
/-- R336: a message of IEEE 1588 arrives at one of the thirteen ports: 0 to 11 the peer ports, 12 the host port. Its header names a profile family
and a domain, of which the device takes part in the default ones, 0, alone. In recovery no firmware has started it (R378). -/
def execPtpFrame (port sdo domain : Nat) (m : PtpMsg) (s : State) : Out :=
  .next (if s.fw.phase = .recovery ∨ 13 ≤ port ∨ sdo ≠ 0 ∨ domain ≠ 0 then s else ptpTake s port m)

/-- A port of the boundary clock sends what is due (R336): towards the parent a delay request of one mechanism; as master an Announce message and a
two-step Sync; and with the peer-to-peer mechanism, on every port, a delay request. -/
def ptpSend (s : State) (p : Nat) (peerDelay : Bool) : State :=
  if s.fw.phase = .recovery ∨ 13 ≤ p then s else
  let q := ptpAt s p
  let asks (s : State) : State :=
    sendPtp (setPtp s p { q with asked := some (q.seq, s.now), reply := none, seq := (q.seq + 1) % 65536 }) p
      [if peerDelay then .pdelayReq q.seq else .delayReq q.seq]
  match announced s p with
  | some d =>
    let s := sendPtp s p [.announce { d with sender := ownPort p }, .sync q.seq, .followUp q.seq s.now]
    if peerDelay then asks s else setPtp s p { q with seq := (q.seq + 1) % 65536 }
  | none => if peerDelay || (hasParent s && decide (s.timeStatus.port = p)) then asks s else s

/-- R337: the parent is no longer heard: locked becomes holdover, acquiring free-running; the next best master is followed, where there is one. -/
def execHoldover (s : State) : Out :=
  .next (if hasParent s then
    let p := s.timeStatus.port
    let status : TimeStatus := if s.timeStatus.state = 2 then { s.timeStatus with state := 3 } else { s.timeStatus with port := 15, state := 0 }
    chooseParent { setPtp s p { ptpAt s p with best := none } with timeStatus := status }
  else s)

end Sys2Proof.Machine
end

