-- ==== Sys2Proof/Machine/Routers.lean ====
section
/-! DEFINITION. Router operators (R61, R62, R66, R69, R303 to R309). -/

namespace Sys2Proof.Machine

/-- An operator's firing (R303): the inputs it takes and what it emits; `pass` is the control token that has passed the node, where
one has. It fires once each out arc has a free slot. -/
def fireOp (s : State) (f n : Nat) (takes : List (Nat × Flit)) (emits : List (Nat × Tok)) (pass : Option Tok) (upd : Node → Node) :
    State :=
  match formAt s f with
  | none => s
  | some fm =>
    match fm.nodes[n]? with
    | none => s
    | some nd =>
      if emits.any (fun e => !canEmit fm n e.1) then s else
      let s := noteFiring s f n takes (emits.map (·.1))
      let s := modForm s f (fun fm =>
        let fm := takes.foldl (fun fm t => takeAt s.tenths fm n t.1 0) fm
        let fm := emits.foldl (fun fm e => emitOn s.tenths fm n e.1 e.2) fm
        let fm := modNode fm n (fun nd => match pass with
          | some t => notePassed (upd nd) t
          | none => upd nd)
        match pass with
        | some t => if isSwapEos t then passSwap fm n nd else fm
        | none => fm)
      settleDrain s f

/-- A turn of the current operator node: its inputs at the port codes of R170. A slot that has passed the swap EOS takes nothing
(R69), and a token that is no token of an arc fails the formation (R418). -/
def onOperator (s : State) (g : Nat → Nat → Form → Node → (Nat → Option Flit) → State) : Out :=
  onNode s (fun f fm n nd =>
    if !able fm nd 2 || nd.passed then s else
    match ([0, 1, 2].filterMap (fun p => tokenAt fm n p 0)).find? (fun t => tokReason t.tok ≠ 0) with
    | some t => badToken s f n t.tok
    | none => g f n fm nd (fun p => tokenAt fm n p 0))

/-- The control token that a firing passes on. -/
def passing (t : Tok) : Option Tok := if isControl t then some t else none

/-- R304: `pass`. -/
def execOpPass (_o _i : BitVec 3) (_c : BitVec 1) (s : State) : Out :=
  onOperator s (fun f n _ _ tok => match tok 0 with
    | some t => fireOp s f n [(0, t)] [(0, t.tok)] (passing t.tok) (fun nd => nd)
    | none => s)

/-- R304: `fork`. -/
def execOpFork (_o _i : BitVec 3) (_c : BitVec 1) (_v : BitVec 3) (s : State) : Out :=
  onOperator s (fun f n _ _ tok => match tok 0 with
    | some t => fireOp s f n [(0, t)] [(0, t.tok), (1, t.tok)] (passing t.tok) (fun nd => nd)
    | none => s)

/-- What a `steer` emits on `t` and `f` (R305); `none` for a stream mismatch. -/
def steerOut (d c : Tok) : Option (Tok × Tok) :=
  if isControl d || isControl c then (if matching d c then some (d, d) else none)
  else if c.kind = 1 ∨ d.kind = 1 then some (nullTok, nullTok)
  else if c.poison then some (poisoned d, poisoned d)
  else if c.data ≠ 0 then some (d, nullTok) else some (nullTok, d)
/-- R305: `steer`. -/
def execOpSteer (_o _i _j : BitVec 3) (_c : BitVec 1) (_v : BitVec 3) (s : State) : Out :=
  onOperator s (fun f n _ _ tok => match tok 0, tok 1 with
    | some d, some c => match steerOut d.tok c.tok with
      | some e => fireOp s f n [(0, d), (1, c)] [(0, e.1), (1, e.2)] (passing d.tok) (fun nd => nd)
      | none => mismatch s f n 2
    | _, _ => s)

/-- What a `merge` emits (R306); `none` for a stream mismatch. -/
def mergeOut (c t f : Tok) : Option Tok :=
  if isControl c || isControl t || isControl f then (if matching c t && matching c f then some c else none)
  else if c.kind = 1 then some nullTok
  else if c.poison then some (if t.kind = 0 then poisoned t else if f.kind = 0 then poisoned f else nullTok)
  else if c.data ≠ 0 then some t else some f
/-- R306: `merge`. -/
def execOpMerge (_o _i _j : BitVec 3) (_c : BitVec 1) (_v : BitVec 3) (s : State) : Out :=
  onOperator s (fun f n _ _ tok => match tok 0, tok 1, tok 2 with
    | some t, some e, some c => match mergeOut c.tok t.tok e.tok with
      | some o => fireOp s f n [(0, t), (1, e), (2, c)] [(0, o)] (passing c.tok) (fun nd => nd)
      | none => mismatch s f n 2
    | _, _, _ => s)

/-! Carries (R66, R307). -/

/-- The instance slots of a carry: the capacity of its out arc (R66). -/
def carrySlots (fm : Form) (n : Nat) : Nat :=
  match outArc fm n 0 with
  | some a => a.2.cap
  | none => 1
def slotActive (nd : Node) (i : Nat) : Bool := nd.slots.getD i false
def anyActive (nd : Node) : Bool := nd.slots.any (fun b => b)
/-- The slot whose turn it is: while the carry closes, the rotation skips empty slots. -/
def carryTurn (nd : Node) (k : Nat) : Nat :=
  match nd.carry with
  | .closing _ => if slotActive nd (nd.turn % k) then nd.turn % k else (nd.turn + 1) % k
  | _ => nd.turn % k
/-- A slot has been served. -/
def served (nd : Node) (k i : Nat) (active : Bool) : Node :=
  { nd with slots := listMod i (fun _ => active) (nd.slots ++ List.replicate (k - nd.slots.length) false), turn := (i + 1) % k }

/-- R307: `carry`. -/
def execOpCarry (_o _i _j : BitVec 3) (_c : BitVec 1) (s : State) : Out :=
  onOperator s (fun f n fm nd tok =>
    let k := carrySlots fm n
    let i := carryTurn nd k
    match nd.carry with
    | .returning t =>
      (match tok 1 with
       | some b =>
         if matching b.tok t then
           fireOp s f n [(1, b)] [] (some b.tok) (fun nd => { nd with carry := .open_, turn := 0 })
         else mismatch s f n 2
       | none => s)
    | st =>
      if (tok 1).any (fun b => isControl b.tok) then mismatch s f n 2 else
      let closing : Option Tok := match st with
        | .closing t => some t
        | _ => none
      match closing, anyActive nd with
      | some t, false => fireOp s f n [] [(0, t)] none (fun nd => { nd with carry := .returning t })
      | _, _ =>
        if slotActive nd i then
          match tok 1 with
          | some b =>
            if b.tok.kind = 0 then fireOp s f n [(1, b)] [(0, b.tok)] none (fun nd => served nd k i true)
            else fireOp s f n [(1, b)] [] none (fun nd => served nd k i false)
          | none => s
        else
          match tok 0 with
          | some t =>
            if isControl t.tok then
              fireOp s f n [(0, t)] [] none (fun nd => { served nd k i false with carry := .closing t.tok })
            else fireOp s f n [(0, t)] [(0, t.tok)] none (fun nd => served nd k i true)
          | none => s)

/-- The value of a null-fill variant (R308). -/
def fillValue (v : Nat) : BitVec 32 :=
  match v with
  | 1 => 1
  | 2 => 0xFFFFFFFF
  | 3 => 0xFF800000
  | 4 => 0x0000FF80
  | _ => 0
/-- R308: a null-fill. -/
def execOpNullFill (_o _i : BitVec 3) (_c : BitVec 1) (v : BitVec 3) (s : State) : Out :=
  onOperator s (fun f n _ _ tok => match tok 0 with
    | some t =>
      if 5 ≤ v.toNat then s
      else fireOp s f n [(0, t)] [(0, if t.tok.kind = 1 then dataTok false (fillValue v.toNat) else t.tok)] (passing t.tok) (fun nd => nd)
    | none => s)

/-- An eos-gate (R309): `sw` for variant 1. DESIGN CHOICE (log 115): where the gate gives the EOS another swap flag, the EOS that has
passed the slot for R69 is the one that leaves. -/
def fireGate (s : State) (sw : Bool) : Out :=
  onOperator s (fun f n _ _ tok => match tok 0 with
    | some t =>
      if !isControl t.tok then fireOp s f n [(0, t)] [(0, t.tok)] none (fun nd => nd)
      else match tok 1 with
        | some g =>
          if isControl g.tok then
            if matching t.tok g.tok then fireOp s f n [(0, t), (1, g)] [(0, t.tok)] (some t.tok) (fun nd => nd) else mismatch s f n 2
          else
            let o := if sw && decide (t.tok.kind = 2) then eosTok (decide (g.tok.kind = 0 ∧ g.tok.data ≠ 0) && !g.tok.poison) else t.tok
            fireOp s f n [(0, t), (1, g)] [(0, o)] (some o) (fun nd => nd)
        | none => s
    | none => s)
/-- R309: `egate`. -/
def execOpEgate (_o _i _j : BitVec 3) (_c : BitVec 1) (s : State) : Out := fireGate s false
/-- R309: `egate.sw`. -/
def execOpEgateSw (_o _i _j : BitVec 3) (_c : BitVec 1) (s : State) : Out := fireGate s true

end Sys2Proof.Machine
end

