-- ==== Sys2Proof/Machine/Scalar.lean ====
section
/-! DEFINITION. Integer arithmetic, logic, compares, fields, immediates and shifts (R177 to R182). -/

namespace Sys2Proof.Machine

/-- An instruction of two register operands and one result (R177). -/
def binary (s : State) (d a b : BitVec 5) (f : Word → Word → Word) : Out :=
  onThread s (fun t th => retireWith s t d (f (regGet th a) (regGet th b)))

/-- An instruction of one register operand and one result (R180 to R182). -/
def unary (s : State) (d a : BitVec 5) (f : Word → Word) : Out :=
  onThread s (fun t th => retireWith s t d (f (regGet th a)))

/-- The signed quotient, towards zero and clamped (R178). -/
def divSigned (x y : Word) : Word :=
  if y = 0 then (if x = 0 then 0 else if x.toInt < 0 then 0x8000000000000000 else 0x7FFFFFFFFFFFFFFF)
  else if x = 0x8000000000000000 ∧ y.toInt = -1 then 0x7FFFFFFFFFFFFFFF
  else BitVec.ofInt 64 (x.toInt.tdiv y.toInt)

/-- The signed remainder, which takes the sign of the dividend (R178). -/
def remSigned (x y : Word) : Word :=
  if y = 0 then 0
  else if x = 0x8000000000000000 ∧ y.toInt = -1 then 0
  else BitVec.ofInt 64 (x.toInt.tmod y.toInt)

/-- The unsigned quotient and remainder (R178). -/
def divUnsigned (x y : Word) : Word :=
  if y = 0 then (if x = 0 then 0 else 0xFFFFFFFFFFFFFFFF) else BitVec.ofNat 64 (x.toNat / y.toNat)
def remUnsigned (x y : Word) : Word := if y = 0 then 0 else BitVec.ofNat 64 (x.toNat % y.toNat)

/-- The shift amount of a register (R177). -/
def shiftOf (y : Word) : Nat := y.toNat % 64

/-- Position and length of a field that `b` selects (R180). -/
def fieldPos (b : Word) : Nat := b.toNat % 64
def fieldLen (b : Word) : Nat := min (bitsOf b.toNat 8 7) (64 - fieldPos b)

/-- A field of `a` (R180). -/
def extractField (a b : Word) : Nat := bitsOf a.toNat (fieldPos b) (fieldLen b)

/-- The byte reversal of a word (R180). -/
def reverseBytes (x : Word) : Word := BitVec.ofNat 64 (leNat (leBytes x.toNat 8).reverse)

/-- R177: `add`. -/
def execAdd (d a b : BitVec 5) (s : State) : Out := binary s d a b (fun x y => x + y)
/-- R177: `sub`. -/
def execSub (d a b : BitVec 5) (s : State) : Out := binary s d a b (fun x y => x - y)
/-- R177: `mul`. -/
def execMul (d a b : BitVec 5) (s : State) : Out := binary s d a b (fun x y => x * y)
/-- R177: `mulhs`, the high half of the signed product. -/
def execMulhs (d a b : BitVec 5) (s : State) : Out := binary s d a b (fun x y => BitVec.ofInt 64 (x.toInt * y.toInt / 2 ^ 64))
/-- R177: `mulhn`, the high half of the unsigned product. -/
def execMulhn (d a b : BitVec 5) (s : State) : Out := binary s d a b (fun x y => BitVec.ofNat 64 (x.toNat * y.toNat / 2 ^ 64))
/-- R178: `divs`. -/
def execDivs (d a b : BitVec 5) (s : State) : Out := binary s d a b (fun x y => divSigned x y)
/-- R178: `divn`. -/
def execDivn (d a b : BitVec 5) (s : State) : Out := binary s d a b (fun x y => divUnsigned x y)
/-- R178: `rems`. -/
def execRems (d a b : BitVec 5) (s : State) : Out := binary s d a b (fun x y => remSigned x y)
/-- R178: `remn`. -/
def execRemn (d a b : BitVec 5) (s : State) : Out := binary s d a b (fun x y => remUnsigned x y)
/-- R177: `and`. -/
def execAnd (d a b : BitVec 5) (s : State) : Out := binary s d a b (fun x y => x &&& y)
/-- R177: `or`. -/
def execOr (d a b : BitVec 5) (s : State) : Out := binary s d a b (fun x y => x ||| y)
/-- R177: `xor`. -/
def execXor (d a b : BitVec 5) (s : State) : Out := binary s d a b (fun x y => x ^^^ y)
/-- R177: `andn`. -/
def execAndn (d a b : BitVec 5) (s : State) : Out := binary s d a b (fun x y => x &&& ~~~y)
/-- R177: `shl`. -/
def execShl (d a b : BitVec 5) (s : State) : Out := binary s d a b (fun x y => x <<< shiftOf y)
/-- R177: `shr`. -/
def execShr (d a b : BitVec 5) (s : State) : Out := binary s d a b (fun x y => x >>> shiftOf y)
/-- R177: `sar`. -/
def execSar (d a b : BitVec 5) (s : State) : Out := binary s d a b (fun x y => x.sshiftRight (shiftOf y))
/-- R177: `rotl`. -/
def execRotl (d a b : BitVec 5) (s : State) : Out := binary s d a b (fun x y => x.rotateLeft (shiftOf y))
/-- R177: `mins`. -/
def execMins (d a b : BitVec 5) (s : State) : Out := binary s d a b (fun x y => if x.slt y then x else y)
/-- R177: `maxs`. -/
def execMaxs (d a b : BitVec 5) (s : State) : Out := binary s d a b (fun x y => if x.slt y then y else x)
/-- R177: `minn`. -/
def execMinn (d a b : BitVec 5) (s : State) : Out := binary s d a b (fun x y => if x.ult y then x else y)
/-- R177: `maxn`. -/
def execMaxn (d a b : BitVec 5) (s : State) : Out := binary s d a b (fun x y => if x.ult y then y else x)
/-- R179: `ceq`. -/
def execCeq (d a b : BitVec 5) (s : State) : Out := binary s d a b (fun x y => boolWord (x == y))
/-- R179: `cne`. -/
def execCne (d a b : BitVec 5) (s : State) : Out := binary s d a b (fun x y => boolWord (x != y))
/-- R179: `clt`. -/
def execClt (d a b : BitVec 5) (s : State) : Out := binary s d a b (fun x y => boolWord (x.slt y))
/-- R179: `cltn`. -/
def execCltn (d a b : BitVec 5) (s : State) : Out := binary s d a b (fun x y => boolWord (x.ult y))
/-- R179: `cge`. -/
def execCge (d a b : BitVec 5) (s : State) : Out := binary s d a b (fun x y => boolWord (!x.slt y))
/-- R179: `cgen`. -/
def execCgen (d a b : BitVec 5) (s : State) : Out := binary s d a b (fun x y => boolWord (!x.ult y))
/-- R179: `csel` reads the old value of `gd`. -/
def execCsel (d a b : BitVec 5) (s : State) : Out :=
  onThread s (fun t th => retireWith s t d (if regGet th d ≠ 0 then regGet th a else regGet th b))
/-- R180: `clz`, zero bits above the highest set bit. -/
def execClz (d a : BitVec 5) (s : State) : Out := unary s d a (fun x => BitVec.ofNat 64 (clzNat 64 x.toNat))
/-- R180: `ctz`, zero bits below the lowest set bit. -/
def execCtz (d a : BitVec 5) (s : State) : Out := unary s d a (fun x => BitVec.ofNat 64 (ctzNat 64 x.toNat))
/-- R180: `popc`, set bits. -/
def execPopc (d a : BitVec 5) (s : State) : Out := unary s d a (fun x => BitVec.ofNat 64 (popNat 64 x.toNat))
/-- R180: `brev`, the bits reversed. -/
def execBrev (d a : BitVec 5) (s : State) : Out := unary s d a (fun x => x.reverse)
/-- R180: `bswap`, the bytes reversed. -/
def execBswap (d a : BitVec 5) (s : State) : Out := unary s d a (fun x => reverseBytes x)
/-- R180: `extu`. -/
def execExtu (d a b : BitVec 5) (s : State) : Out := binary s d a b (fun x y => BitVec.ofNat 64 (extractField x y))
/-- R180: `exts`. -/
def execExts (d a b : BitVec 5) (s : State) : Out := binary s d a b (fun x y => if fieldLen y = 0 then 0 else BitVec.ofInt 64 (signedOf (fieldLen y) (extractField x y)))
/-- R180: `ins`; `gd` is a source and the destination. -/
def execIns (d a b : BitVec 5) (s : State) : Out :=
  onThread s (fun t th =>
    let y := regGet th b
    retireWith s t d (BitVec.ofNat 64 (putBits (regGet th d).toNat (fieldPos y) (fieldLen y) (regGet th a).toNat)))
/-- R181: `addk`. -/
def execAddk (d a : BitVec 5) (im : BitVec 16) (s : State) : Out := unary s d a (fun x => x + im.signExtend 64)
/-- R181: `andk`. -/
def execAndk (d a : BitVec 5) (im : BitVec 16) (s : State) : Out := unary s d a (fun x => x &&& im.zeroExtend 64)
/-- R181: `ork`. -/
def execOrk (d a : BitVec 5) (im : BitVec 16) (s : State) : Out := unary s d a (fun x => x ||| im.zeroExtend 64)
/-- R181: `xork`. -/
def execXork (d a : BitVec 5) (im : BitVec 16) (s : State) : Out := unary s d a (fun x => x ^^^ im.zeroExtend 64)
/-- R181: `cltk`. -/
def execCltk (d a : BitVec 5) (im : BitVec 16) (s : State) : Out := unary s d a (fun x => boolWord (x.slt (im.signExtend 64)))
/-- R181: `cltnk`. -/
def execCltnk (d a : BitVec 5) (im : BitVec 16) (s : State) : Out := unary s d a (fun x => boolWord (x.ult (im.signExtend 64)))
/-- R181: `hik`. -/
def execHik (d : BitVec 5) (im : BitVec 16) (s : State) : Out :=
  onThread s (fun t _ => retireWith s t d ((im ++ 0#16).signExtend 64))
/-- R182: `shlk`. -/
def execShlk (d a : BitVec 5) (n : BitVec 6) (s : State) : Out := unary s d a (fun x => x <<< n.toNat)
/-- R182: `shrk`. -/
def execShrk (d a : BitVec 5) (n : BitVec 6) (s : State) : Out := unary s d a (fun x => x >>> n.toNat)
/-- R182: `sark`. -/
def execSark (d a : BitVec 5) (n : BitVec 6) (s : State) : Out := unary s d a (fun x => x.sshiftRight n.toNat)
/-- R182: `rotlk`. -/
def execRotlk (d a : BitVec 5) (n : BitVec 6) (s : State) : Out := unary s d a (fun x => x.rotateLeft n.toNat)

end Sys2Proof.Machine
end

