-- ==== Sys2Proof/Machine/Selection.lean ====
section
/-! DEFINITION. Top-k selection and row prediction (R238 to R243, R407, R413, R415). -/

namespace Sys2Proof.Machine

/-! Top-k (R238, R239). -/

def topkQuery (c : Cmd) : Nat := gaBits c 0 21
def topkK (c : Cmd) : Nat := gaBits c 21 8 + 1
def topkN (c : Cmd) : Nat := gaBits c 29 16 + 1
def topkBound (c : Cmd) : Bool := decide (cmdMinor c % 2 = 1)
def selOp (c : Cmd) : Nat := bitsOf (cmdMinor c) 8 2

def topkReason (c : Cmd) : Nat :=
  issueReason [
    (1, outside c.ga (fieldMask 0 45)),
    (3, decide (bufSize 0 < topkQuery c + 256)),
    (4, decide (topkQuery c % 64 ≠ 0 ∨ c.gb.toNat % 64 ≠ 0))]

/-- R238: `topk`. -/
def execTopk (a b : BitVec 5) (m : BitVec 1) (s : State) : Out :=
  onThread s (fun t th =>
    let c := newCmd t th (formE 0x34 0 a.toNat b.toNat m.toNat) (regGet th a) (regGet th b) []
    issueCmd s t 8 (topkReason c) c (fun s => s))

/-- A score: an exact number, or none for a poisoned one (R239). -/
abbrev Score := Option XVal

def xAbs (x : XVal) : XVal := xWithSign false x

/-- The score of a query against the summaries of a page (R239). -/
def scoreOf (bound : Bool) (q h : List Elem) : Score :=
  if q.any (·.poison) || h.any (·.poison) then none
  else some (exactSum ((q.zip h).map (fun p => xMul (if bound then xAbs p.1.val else p.1.val) p.2.val)))

/-- What the command keeps of candidate `i` (R212): the table's entry, from 2^20 upward, and the 256 bytes of its summaries, plus 1, or 0 for
a poisoned score; and, at 2^21, the query. -/
def candKey (i : Nat) : Nat := 2 ^ 20 + i
def queryKey : Nat := 2 ^ 21
def memoPut (c : Cmd) (k v : Nat) : Cmd := { c with memo := tblSet k v c.memo }

/-- The entry of the candidate table, or the end of the candidate (R239). -/
def topkEntryOf (s : State) (c : Cmd) (who : PeerWho) (i : Nat) : State × Cmd × (Nat ⊕ Part1) :=
  match tblGet (candKey i) c.memo with
  | some va => (s, c, .inl va)
  | none =>
    match vGet s c who (c.gb.toNat + 8 * i) 8 with
    | (s, .fail r a p) => (s, c, .inr (.stop r a p false))
    | (s, .ok bs pm) =>
      if pendingFor s who then (s, c, .inr .pending)
      else if anyPoison pm then (s, memoPut c i 0, .inr (.done false))
      else (s, memoPut c (candKey i) (leNat bs), .inl (leNat bs))

/-- Candidate `i`: its summaries are read (R239). -/
def topkRead (cl : Nat) (s : State) (c : Cmd) (i : Nat) : State × Cmd × Part1 :=
  let who : PeerWho := .unit cl 8 i
  match topkEntryOf s c who i with
  | (s, c, .inr p) => (s, c, p)
  | (s, c, .inl va) =>
    if va % 65536 ≠ 0 then (s, c, .ends 6 va i) else
    if 2 ^ 57 ≤ va then (s, c, .stop 1 va 0 false) else
    match cmdXlat s c who va needRead with
    | (s, .fault r) => (s, c, .stop r va 0 false)
    | (s, .absent p) => (startFill s c.ctx p va, c, .stop (absentReason s c.ctx p) va p false)
    | (s, .ok t) =>
      if t.fmt ≠ 14 then (s, c, .ends 6 va i) else
      match vGet s c who (va + (if topkBound c then 256 else 0)) 256 with
      | (s, .fail r a p) => (s, c, .stop r a p false)
      | (s, .ok hs hm) =>
        if pendingFor s who then (s, c, .pending)
        else (s, memoPut c i (if anyPoison hm then 0 else 1 + leNat hs), .done false)

/-- The score of candidate `i` from what has been read of it (R239). -/
def topkScore (c : Cmd) (q : List Elem) (i : Nat) : Score :=
  match tblGet i c.memo with
  | some (v + 1) => scoreOf (topkBound c) q (elemsOf .bf16 (leBytes v 256) (List.replicate 256 false))
  | _ => none

/-- A ranked list with a further candidate, which comes after those that rank before it. -/
def rankInsert (i : Nat) (v : Score) : List (Nat × Score) → List (Nat × Score)
  | [] => [(i, v)]
  | (j, w) :: t =>
    let ahead := match v, w with
      | some x, some y => !xIsNan x && (xIsNan y || xLt y x)
      | some x, none => !xIsNan x
      | none, _ => false
    if ahead then (i, v) :: (j, w) :: t else (j, w) :: rankInsert i v t
def ranked (vs : List Score) : List (Nat × Score) :=
  ((List.range vs.length).zip vs).foldl (fun l p => rankInsert p.1 p.2 l) []

/-- The 8 bytes of an entry of the result list (R239). -/
def topkEntry (e : Option (Nat × Score)) : List Byte :=
  match e with
  | none => leBytes (0x7FC00000 * 2 ^ 32 + 0xFFFFFFFF) 8
  | some (i, v) =>
    let w := match v with
      | some x => rnd .f32 .rne false x
      | none => 0x7FC00000
    leBytes (w * 2 ^ 32 + i) 8

/-- The list, which is the part after the candidates, is written line by line; or a line of it that could not be written before (R212,
R239). -/
def topkWrite (cl : Nat) (s : State) (c : Cmd) (i : Nat) : State × Cmd × Part1 :=
  let r : State × Cmd :=
    match tblGet queryKey c.memo with
    | some _ => (s, c)
    | none =>
      let q := memReadMap s (wCell cl (topkQuery c)) 256
      (q.1, memoPut c queryKey (rowCode q.2.1 q.2.2))
  let s := r.1
  let c := r.2
  let q := rowOf 256 ((tblGet queryKey c.memo).getD 0)
  let order := ranked ((List.range (topkN c)).map (topkScore c (elemsOf .bf16 q.1 q.2)))
  let bs := (List.range (topkK c)).flatMap (fun j => topkEntry order[j]?)
  writeOut cl (topkN c) (c.gb.toNat + 64 * ((8 * topkN c + 63) / 64)) bs s c i

/-- A selection command has run as far as it can. -/
def selectionEnd (s : State) (cl : Nat) (c : Cmd) : State :=
  let s := modRunning s cl 8 (fun _ => c)
  if cmdEnds s cl 8 c then completeCmd s cl 8 else s

/-- R239: the `topk` that runs in cluster `c`: once every candidate has been read, the list is written. -/
def execTopkExecute (c : Nat) (s : State) : Out :=
  .next (
    match (unitAt s c 8).running with
    | some k =>
      if cmdMajor k ≠ 0x34 ∨ selOp k ≠ 0 then s else
      if k.step = 2 then
        let q := runParts (topkWrite c) s k (partsToTry k 0 true)
        selectionEnd q.1 c q.2
      else
        let r := runParts (topkRead c) s { k with step := 1 } (partsToTry k (topkN k) (decide (k.step = 1)))
        let q := if r.2.failed || !r.2.frost.isEmpty then r else runParts (topkWrite c) r.1 { r.2 with step := 2 } [topkN k]
        selectionEnd q.1 c q.2
    | none => s)

/-! Row prediction (R240 to R243). -/

def prM (c : Cmd) : Nat := descField c 8 2
def prRows (c : Cmd) : Nat := descField c 10 2
def prMaxsel (c : Cmd) : Nat := descField c 12 2
def prSketch (c : Cmd) : Nat := descField c 0 4
def prX (c : Cmd) : Nat := descField c 4 4
def prRowBytes (c : Cmd) : Nat := descField c 40 4
def prDest (c : Cmd) : Nat := descField c 36 4

def predReason (c : Cmd) : Nat :=
  issueReason [
    (1, decide (descField c 14 2 ≠ 0 ∨ descField c 44 20 ≠ 0)),
    (3, decide (bufSize 0 < prSketch c + prRows c * (prM c / 4) + 4 * prRows c ∨ bufSize 0 < prX c + 2 * prM c)),
    (4, decide (prX c % 64 ≠ 0 ∨ c.gb.toNat % 64 ≠ 0 ∨ prDest c % 64 ≠ 0)),
    (5, decide (prM c < 32 ∨ 8192 < prM c ∨ prM c % 32 ≠ 0 ∨ prRows c = 0 ∨ prRows c < prMaxsel c ∨ prRowBytes c = 0 ∨
        65536 < prRowBytes c ∨ prRowBytes c % 64 ≠ 0))]

def issuePred (s : State) (a b : BitVec 5) (minor : Nat) : Out :=
  onThread s (fun t th =>
    readDesc s t th (regGet th a) 64 (fun s bs =>
      let c := newCmd t th (formE 0x34 0 a.toNat b.toNat minor) (regGet th a) (regGet th b) bs
      issueCmd s t 8 (predReason c) c (fun s => s)))
/-- R240: `predrows`. -/
def execPredrows (a b : BitVec 5) (s : State) : Out := issuePred s a b 256
/-- R240: `prcheck`. -/
def execPrcheck (a b : BitVec 5) (s : State) : Out := issuePred s a b 512

/-- The bound of row `j` (R242): infinite where it is not a finite number or an input is poisoned. -/
def rowBound (s : State) (cl : Nat) (c : Cmd) (xs : List Elem) (j : Nat) : State × XVal :=
  let t := memReadMap s (wCell cl (prSketch c + j * (prM c / 4))) (prM c / 4)
  let k := memReadMap t.1 (wCell cl (prSketch c + prRows c * (prM c / 4) + 4 * j)) 4
  let ts := elemsOf .t2 t.2.1 t.2.2
  let sc := elemsOf .f32 k.2.1 k.2.2
  let b := xMul (xAbs (exactSum ((ts.zip xs).map (fun p => xMul p.1.val p.2.val)))) (xAbs ((sc.head?.map (·.val)).getD .nan))
  let bad := xs.any (·.poison) || ts.any (·.poison) || sc.any (·.poison)
  (k.1, match b, bad with
    | .fin _ n d, false => .fin false n d
    | _, _ => .inf false)
def rowBounds (s : State) (cl : Nat) (c : Cmd) (xs : List Elem) : List Nat → State × List XVal
  | [] => (s, [])
  | j :: rest =>
    let r := rowBound s cl c xs j
    let q := rowBounds r.1 cl c xs rest
    (q.1, r.2 :: q.2)
/-- The bounds of every row (R242). -/
def allBounds (s : State) (cl : Nat) (c : Cmd) : State × List XVal :=
  let x := memReadMap s (wCell cl (prX c)) (2 * prM c)
  rowBounds x.1 cl c (elemsOf .bf16 x.2.1 x.2.2) (List.range (prRows c))

/-- Rows in decreasing bound, lower index first among equals (R241, R242). -/
def boundInsert (p : Nat × XVal) : List (Nat × XVal) → List (Nat × XVal)
  | [] => [p]
  | q :: t => if xLt q.2 p.2 then p :: q :: t else q :: boundInsert p t
def byBound (l : List (Nat × XVal)) : List (Nat × XVal) := l.foldl (fun m p => boundInsert p m) []

/-- A bound as a record gives it (R241). -/
def boundBits (x : XVal) : Nat := rnd .f32 .ru false x

/-- The header of a selection record (R241). -/
def recordHead (nsel nomit nrep bsum : Nat) : List Byte :=
  leBytes nsel 4 ++ leBytes nomit 4 ++ leBytes nrep 4 ++ leBytes 0 4 ++ leBytes bsum 4 ++ leBytes 0 44

/-- The rows that `predrows` selects, in increasing index, and those it omits, in decreasing bound (R242). -/
def selectRows (c : Cmd) (bs : List XVal) : List (Nat × XVal) × List (Nat × XVal) :=
  let rows := (List.range bs.length).zip bs
  let cand := rows.filter (fun p => xLt (floatVal .f32 (descField c 16 4)) p.2)
  let kept := ((byBound cand).take (prMaxsel c)).map (·.1)
  let keep := kept.foldl (fun l j => setAdd j l) []
  (rows.filter (fun p => setHas p.1 keep), byBound (rows.filter (fun p => !setHas p.1 keep)))

/-- A row of the record is gathered to its place in W (R240, R242). -/
def gatherRow (cl : Nat) (s : State) (c : Cmd) (part e : Nat) : State × Part1 :=
  let who : PeerWho := .unit cl 8 part
  let j := (c.rows.getD e (0, 0)).1
  let n := prRowBytes c
  let dst := prDest c + e * n
  if bufSize 0 < dst + n then (s, .ends 7 dst j) else
  match vGet s c who (descField c 24 8 + j * descField c 32 4) n with
  | (s, .fail r a p) => (s, .stop r a p false)
  | (s, .ok bs pm) =>
    if pendingFor s who then (s, .pending)
    else (putBytesMap s (wCell cl dst) bs pm, .done (anyPoison pm))

/-- Part 0 of `predrows` writes the record line by line (R212); the others gather the selected rows. -/
def predPart (cl : Nat) (s : State) (c : Cmd) (i : Nat) : State × Cmd × Part1 :=
  if idxPart i = 0 then
    writeOut cl 0 c.gb.toNat (recordHead c.best (c.rows.length - c.best) 0 c.sum.toNat ++
      c.rows.flatMap (fun r => leBytes (r.2 * 2 ^ 32 + r.1) 8)) s c i
  else
    let r := gatherRow cl s c i (i - 1)
    (r.1, c, r.2)

/-- R242: the `predrows` that runs in cluster `c`. -/
def execPredrowsExecute (c : Nat) (s : State) : Out :=
  .next (
    match (unitAt s c 8).running with
    | some k =>
      if cmdMajor k ≠ 0x34 ∨ selOp k ≠ 1 then s
      else if k.step = 0 then
        let b := allBounds s c k
        let r := selectRows k b.2
        let k := { k with
          step := 1, best := r.1.length, sum := boundBits (exactSum (r.2.map (·.2)))
          rows := (r.1 ++ r.2).map (fun p => (p.1, boundBits p.2)) }
        let q := runParts (predPart c) b.1 k (List.range (r.1.length + 1))
        selectionEnd q.1 c q.2
      else
        let q := runParts (predPart c) s k (partsToTry k 0 true)
        selectionEnd q.1 c q.2
    | none => s)

/-- The entry of the record at which poison is met, or 0xFFFFFFFF for its header. -/
def poisonEntry (pm : List Bool) : Nat :=
  if (pm.take 64).any (fun b => b) then 0xFFFFFFFF else ((pm.drop 64).takeWhile (fun b => !b)).length / 8

/-- How many omitted rows are replayed, and the exact rest (R243); `bs` are the bounds in the record's order. -/
def replayCount (e : XVal) : List XVal → Nat → Nat × XVal
  | [], n => (n, .fin false 0 1)
  | b :: rest, n =>
    let rem := exactSum (b :: rest)
    if xIsNan e || xLt e (.fin false 0 1) || xLt e rem then replayCount e rest (n + 1) else (n, rem)

/-- What `prcheck` keeps in its memo (R212): the record that it has read, and, plus 1, the bound sum that it writes; `chargedKey` says that
the lines it gathers are debited. -/
def recordKey : Nat := 0
def sumKey : Nat := 1
def chargedKey : Nat := 2
/-- The record, read once. -/
def recordRead (cl : Nat) (s : State) (c : Cmd) : State × Cmd × ((List Byte × List Bool) ⊕ Part1) :=
  let who : PeerWho := .unit cl 8 0
  let n := 64 + 8 * prRows c
  match tblGet recordKey c.memo with
  | some v => (s, c, .inl (rowOf n v))
  | none =>
    match vGet s c who c.gb.toNat n with
    | (s, .fail r a p) => (s, c, .inr (.stop r a p false))
    | (s, .ok bs pm) => if pendingFor s who then (s, c, .inr .pending) else (s, memoPut c recordKey (rowCode bs pm), .inl (bs, pm))

/-- The record is checked, and its bounds are computed again (R243): the command then holds the rows, `nsel` and `nrep`. -/
def checkRows (cl : Nat) (s : State) (c : Cmd) : State × Cmd × Option Part1 :=
  match recordRead cl s c with
  | (s, c, .inr p) => (s, c, some p)
  | (s, c, .inl (bs, pm)) =>
    let f (o : Nat) : Nat := leNat ((bs.drop o).take 4)
    let idx := (List.range (prRows c)).map (fun e => f (64 + 8 * e))
    if anyPoison pm then
      let e := poisonEntry pm
      (s, c, some (.ends 12 (if e = 0xFFFFFFFF then c.gb.toNat else c.gb.toNat + 64 + 8 * e) e))
    else if f 0 + f 4 ≠ prRows c ∨ prMaxsel c < f 0 then (s, c, some (.ends 12 c.gb.toNat 0xFFFFFFFF))
    else match idx.findIdx? (fun j => decide (prRows c ≤ j)) with
      | some e => (s, c, some (.ends 12 (c.gb.toNat + 64 + 8 * e) e))
      | none =>
        let b := allBounds s cl c
        let r := replayCount (floatVal .f32 (descField c 20 4)) ((idx.drop (f 0)).map (fun j => b.2.getD j (.inf false))) 0
        (b.1, memoPut { c with rows := idx.map (fun j => (j, 0)), best := f 0, sum := r.1 } sumKey (boundBits r.2), none)

/-- Lines of a selection command that are gathered, in pJ (R353). -/
def gatherCharge (c : Cmd) (rows : Nat) : Nat := 40 * lines (rows * prRowBytes c)

/-- The header with `nrep` and `bsum` is written line by line, or a line of it that could not be written before (R212, R243). -/
def headOut (cl : Nat) (s : State) (c : Cmd) (i : Nat) : State × Cmd × Part1 :=
  writeOut cl 0 c.gb.toNat (recordHead c.best (c.rows.length - c.best) c.sum.toNat ((tblGet sumKey c.memo).getD 0)) s c i
/-- Part 0 of `prcheck` reads the record, checks it, and writes `nrep` and `bsum`; the others replay rows (R243). -/
def checkRecord (cl : Nat) (s : State) (c : Cmd) : State × Cmd × Part1 :=
  let r : State × Cmd × Option Part1 := if (tblGet sumKey c.memo).isSome then (s, c, none) else checkRows cl s c
  match r with
  | (s, c, some p) => (s, c, p)
  | (s, c, none) =>
    let paid := (tblGet chargedKey c.memo).isSome
    let s := if paid then s else debit s c.ctx (gatherCharge c c.sum.toNat)
    let c := memoPut c chargedKey 1
    headOut cl s c 0

/-- A part of `prcheck` once its record is checked: a line of the header that could not be written before, or the replay of a row. -/
def checkPart (cl : Nat) (s : State) (c : Cmd) (i : Nat) : State × Cmd × Part1 :=
  if idxPart i = 0 then headOut cl s c i
  else
    let r := gatherRow cl s c i (c.best + i - 1)
    (r.1, c, r.2)

/-- R243: the `prcheck` that runs in cluster `c`. -/
def execPrcheckExecute (c : Nat) (s : State) : Out :=
  .next (
    match (unitAt s c 8).running with
    | some k =>
      if cmdMajor k ≠ 0x34 ∨ selOp k ≠ 2 then s
      else if k.step = 0 then
        if (frostAt k 0).any (fun f => !f.woken) then s else
        let r := checkRecord c s k
        let q := notePart r.1 r.2.1 0 r.2.2
        if (tblGet sumKey q.2.memo).isNone then selectionEnd q.1 c q.2
        else
          let g := runParts (checkPart c) q.1 { q.2 with step := 1 } ((List.range q.2.sum.toNat).map (fun i => i + 1))
          selectionEnd g.1 c g.2
      else
        let g := runParts (checkPart c) s k (partsToTry k 0 true)
        selectionEnd g.1 c g.2
    | none => s)

/-! The grant of a reservation (R353, R354, R360). -/

/-- The rows that a selection command will gather, where that can be told at its grant (log 96). -/
def rowsToGather (s : State) (cl : Nat) (c : Cmd) : Option Nat :=
  if cmdMajor c ≠ 0x34 ∨ selOp c = 0 then none
  else if selOp c = 1 then some (selectRows c (allBounds s cl c).2).1.length
  else match checkRows cl s c with
    | (_, k, none) => some k.sum.toNat
    | _ => none

/-- R354, R360: the cluster arbiter grants the request of unit `u`, and the segment's charge is debited. -/
def execReservationGrant (c u : Nat) (s : State) : Out :=
  .next (
    let q := unitAt s c u
    match q.running, q.queue with
    | none, k :: rest =>
      if grantable s c u k then
        let rows := rowsToGather s c k
        let k' := { k with granted := true, asked := none, power := cmdPower k }
        let s := setUnit s c u { q with running := some (if rows.isSome then memoPut k' chargedKey 1 else k'), queue := rest }
        debit (addCounter s k.ctx 0x88 (s.now - k.asked.getD s.now)) k.ctx (cmdCharge k + gatherCharge k (rows.getD 0))
      else s
    | _, _ => s)

end Sys2Proof.Machine
end

