-- ==== Sys2Proof/Machine/Dispatch.lean ====
section
/-! DEFINITION. The dispatch: one arm per constructor of `Instr`, each a call of that step's own meaning. -/

namespace Sys2Proof.Machine

def exec (i : Instr) (s : State) : Host.Outcome State Fault Refusal :=
  match i with
  | .add d a b => Sys2Proof.Machine.execAdd d a b s
  | .sub d a b => Sys2Proof.Machine.execSub d a b s
  | .mul d a b => Sys2Proof.Machine.execMul d a b s
  | .mulhs d a b => Sys2Proof.Machine.execMulhs d a b s
  | .mulhn d a b => Sys2Proof.Machine.execMulhn d a b s
  | .divs d a b => Sys2Proof.Machine.execDivs d a b s
  | .divn d a b => Sys2Proof.Machine.execDivn d a b s
  | .rems d a b => Sys2Proof.Machine.execRems d a b s
  | .remn d a b => Sys2Proof.Machine.execRemn d a b s
  | .and d a b => Sys2Proof.Machine.execAnd d a b s
  | .or d a b => Sys2Proof.Machine.execOr d a b s
  | .xor d a b => Sys2Proof.Machine.execXor d a b s
  | .andn d a b => Sys2Proof.Machine.execAndn d a b s
  | .shl d a b => Sys2Proof.Machine.execShl d a b s
  | .shr d a b => Sys2Proof.Machine.execShr d a b s
  | .sar d a b => Sys2Proof.Machine.execSar d a b s
  | .rotl d a b => Sys2Proof.Machine.execRotl d a b s
  | .mins d a b => Sys2Proof.Machine.execMins d a b s
  | .maxs d a b => Sys2Proof.Machine.execMaxs d a b s
  | .minn d a b => Sys2Proof.Machine.execMinn d a b s
  | .maxn d a b => Sys2Proof.Machine.execMaxn d a b s
  | .ceq d a b => Sys2Proof.Machine.execCeq d a b s
  | .cne d a b => Sys2Proof.Machine.execCne d a b s
  | .clt d a b => Sys2Proof.Machine.execClt d a b s
  | .cltn d a b => Sys2Proof.Machine.execCltn d a b s
  | .cge d a b => Sys2Proof.Machine.execCge d a b s
  | .cgen d a b => Sys2Proof.Machine.execCgen d a b s
  | .csel d a b => Sys2Proof.Machine.execCsel d a b s
  | .clz d a => Sys2Proof.Machine.execClz d a s
  | .ctz d a => Sys2Proof.Machine.execCtz d a s
  | .popc d a => Sys2Proof.Machine.execPopc d a s
  | .brev d a => Sys2Proof.Machine.execBrev d a s
  | .bswap d a => Sys2Proof.Machine.execBswap d a s
  | .extu d a b => Sys2Proof.Machine.execExtu d a b s
  | .exts d a b => Sys2Proof.Machine.execExts d a b s
  | .ins d a b => Sys2Proof.Machine.execIns d a b s
  | .addk d a iv => Sys2Proof.Machine.execAddk d a iv s
  | .andk d a iv => Sys2Proof.Machine.execAndk d a iv s
  | .ork d a iv => Sys2Proof.Machine.execOrk d a iv s
  | .xork d a iv => Sys2Proof.Machine.execXork d a iv s
  | .cltk d a iv => Sys2Proof.Machine.execCltk d a iv s
  | .cltnk d a iv => Sys2Proof.Machine.execCltnk d a iv s
  | .hik d iv => Sys2Proof.Machine.execHik d iv s
  | .shlk d a n => Sys2Proof.Machine.execShlk d a n s
  | .shrk d a n => Sys2Proof.Machine.execShrk d a n s
  | .sark d a n => Sys2Proof.Machine.execSark d a n s
  | .rotlk d a n => Sys2Proof.Machine.execRotlk d a n s
  | .cvt d a x y r sv => Sys2Proof.Machine.execCvt d a x y r sv s
  | .fadd d a b f r => Sys2Proof.Machine.execFadd d a b f r s
  | .fsub d a b f r => Sys2Proof.Machine.execFsub d a b f r s
  | .fmul d a b f r => Sys2Proof.Machine.execFmul d a b f r s
  | .fdiv d a b f r => Sys2Proof.Machine.execFdiv d a b f r s
  | .fmac d a b f r => Sys2Proof.Machine.execFmac d a b f r s
  | .fsqrt d a f r => Sys2Proof.Machine.execFsqrt d a f r s
  | .fmin d a b f => Sys2Proof.Machine.execFmin d a b f s
  | .fmax d a b f => Sys2Proof.Machine.execFmax d a b f s
  | .fabs d a f => Sys2Proof.Machine.execFabs d a f s
  | .fneg d a f => Sys2Proof.Machine.execFneg d a f s
  | .feq d a b f => Sys2Proof.Machine.execFeq d a b f s
  | .flt d a b f => Sys2Proof.Machine.execFlt d a b f s
  | .fle d a b f => Sys2Proof.Machine.execFle d a b f s
  | .bEq a b o => Sys2Proof.Machine.execBEq a b o s
  | .bNe a b o => Sys2Proof.Machine.execBNe a b o s
  | .bLt a b o => Sys2Proof.Machine.execBLt a b o s
  | .bGe a b o => Sys2Proof.Machine.execBGe a b o s
  | .bLtn a b o => Sys2Proof.Machine.execBLtn a b o s
  | .bGen a b o => Sys2Proof.Machine.execBGen a b o s
  | .jmp o => Sys2Proof.Machine.execJmp o s
  | .call o => Sys2Proof.Machine.execCall o s
  | .callr d a => Sys2Proof.Machine.execCallr d a s
  | .jmpr a => Sys2Proof.Machine.execJmpr a s
  | .ldV d a b z x o => Sys2Proof.Machine.execLdV d a b z x o s
  | .stV d a b z o => Sys2Proof.Machine.execStV d a b z o s
  | .ldI d a b z x o => Sys2Proof.Machine.execLdI d a b z x o s
  | .stI d a b z o => Sys2Proof.Machine.execStI d a b z o s
  | .ldW d a b z x o => Sys2Proof.Machine.execLdW d a b z x o s
  | .ldA d a b z x o => Sys2Proof.Machine.execLdA d a b z x o s
  | .ldC d a b z x o => Sys2Proof.Machine.execLdC d a b z x o s
  | .stC d a b z o => Sys2Proof.Machine.execStC d a b z o s
  | .spld d sv => Sys2Proof.Machine.execSpld d sv s
  | .spst d sv => Sys2Proof.Machine.execSpst d sv s
  | .crd c a => Sys2Proof.Machine.execCrd c a s
  | .cwr c a => Sys2Proof.Machine.execCwr c a s
  | .cset c a => Sys2Proof.Machine.execCset c a s
  | .cclr c a => Sys2Proof.Machine.execCclr c a s
  | .sleep a => Sys2Proof.Machine.execSleep a s
  | .yield => Sys2Proof.Machine.execYield s
  | .exit => Sys2Proof.Machine.execExit s
  | .tret => Sys2Proof.Machine.execTret s
  | .xinv a => Sys2Proof.Machine.execXinv a s
  | .brk n => Sys2Proof.Machine.execBrk n s
  | .sbind t a b k sv f => Sys2Proof.Machine.execSbind t a b k sv f s
  | .swait t k => Sys2Proof.Machine.execSwait t k s
  | .sclear t k => Sys2Proof.Machine.execSclear t k s
  | .copyIn h a b u e => Sys2Proof.Machine.execCopyIn h a b u e s
  | .copyOut h a b u => Sys2Proof.Machine.execCopyOut h a b u s
  | .copyBb h a b u v => Sys2Proof.Machine.execCopyBb h a b u v s
  | .hwait h => Sys2Proof.Machine.execHwait h s
  | .hrel h => Sys2Proof.Machine.execHrel h s
  | .hstat h a b => Sys2Proof.Machine.execHstat h a b s
  | .mma t a b p => Sys2Proof.Machine.execMma t a b p s
  | .mmaz t a b p => Sys2Proof.Machine.execMmaz t a b p s
  | .mdrain t a b sv f => Sys2Proof.Machine.execMdrain t a b sv f s
  | .msatr t a => Sys2Proof.Machine.execMsatr t a s
  | .mwait t => Sys2Proof.Machine.execMwait t s
  | .vadd t a b sv => Sys2Proof.Machine.execVadd t a b sv s
  | .vsub t a b sv => Sys2Proof.Machine.execVsub t a b sv s
  | .vmul t a b sv => Sys2Proof.Machine.execVmul t a b sv s
  | .vmulh t a b sv => Sys2Proof.Machine.execVmulh t a b sv s
  | .vmin t a b sv => Sys2Proof.Machine.execVmin t a b sv s
  | .vmax t a b sv => Sys2Proof.Machine.execVmax t a b sv s
  | .vabs t a b => Sys2Proof.Machine.execVabs t a b s
  | .vneg t a b => Sys2Proof.Machine.execVneg t a b s
  | .vavg t a b sv => Sys2Proof.Machine.execVavg t a b sv s
  | .vabsd t a b sv => Sys2Proof.Machine.execVabsd t a b sv s
  | .vdiv t a b sv => Sys2Proof.Machine.execVdiv t a b sv s
  | .vrem t a b sv => Sys2Proof.Machine.execVrem t a b sv s
  | .vand t a b sv => Sys2Proof.Machine.execVand t a b sv s
  | .vor t a b sv => Sys2Proof.Machine.execVor t a b sv s
  | .vxor t a b sv => Sys2Proof.Machine.execVxor t a b sv s
  | .vnot t a b => Sys2Proof.Machine.execVnot t a b s
  | .vshl t a b sv => Sys2Proof.Machine.execVshl t a b sv s
  | .vshr t a b sv => Sys2Proof.Machine.execVshr t a b sv s
  | .vsra t a b sv => Sys2Proof.Machine.execVsra t a b sv s
  | .vrotl t a b sv => Sys2Proof.Machine.execVrotl t a b sv s
  | .vclz t a b => Sys2Proof.Machine.execVclz t a b s
  | .vctz t a b => Sys2Proof.Machine.execVctz t a b s
  | .vpopc t a b => Sys2Proof.Machine.execVpopc t a b s
  | .vbrev t a b => Sys2Proof.Machine.execVbrev t a b s
  | .vceq t a b sv => Sys2Proof.Machine.execVceq t a b sv s
  | .vcne t a b sv => Sys2Proof.Machine.execVcne t a b sv s
  | .vclt t a b sv => Sys2Proof.Machine.execVclt t a b sv s
  | .vcle t a b sv => Sys2Proof.Machine.execVcle t a b sv s
  | .vcgt t a b sv => Sys2Proof.Machine.execVcgt t a b sv s
  | .vcge t a b sv => Sys2Proof.Machine.execVcge t a b sv s
  | .vcnan t a b => Sys2Proof.Machine.execVcnan t a b s
  | .vmov t a b => Sys2Proof.Machine.execVmov t a b s
  | .vfadd t a b sv => Sys2Proof.Machine.execVfadd t a b sv s
  | .vfsub t a b sv => Sys2Proof.Machine.execVfsub t a b sv s
  | .vfmul t a b sv => Sys2Proof.Machine.execVfmul t a b sv s
  | .vfdiv t a b sv => Sys2Proof.Machine.execVfdiv t a b sv s
  | .vfmin t a b sv => Sys2Proof.Machine.execVfmin t a b sv s
  | .vfmax t a b sv => Sys2Proof.Machine.execVfmax t a b sv s
  | .vfabs t a b => Sys2Proof.Machine.execVfabs t a b s
  | .vfneg t a b => Sys2Proof.Machine.execVfneg t a b s
  | .vfsqrt t a b => Sys2Proof.Machine.execVfsqrt t a b s
  | .vfrcp t a b => Sys2Proof.Machine.execVfrcp t a b s
  | .vfrsqrt t a b => Sys2Proof.Machine.execVfrsqrt t a b s
  | .vfscale t a b sv => Sys2Proof.Machine.execVfscale t a b sv s
  | .vfexp2 t a b => Sys2Proof.Machine.execVfexp2 t a b s
  | .vflog2 t a b => Sys2Proof.Machine.execVflog2 t a b s
  | .vftanh t a b => Sys2Proof.Machine.execVftanh t a b s
  | .vfsigm t a b => Sys2Proof.Machine.execVfsigm t a b s
  | .vfgelu t a b => Sys2Proof.Machine.execVfgelu t a b s
  | .vfsilu t a b => Sys2Proof.Machine.execVfsilu t a b s
  | .vferf t a b => Sys2Proof.Machine.execVferf t a b s
  | .vfsoftp t a b => Sys2Proof.Machine.execVfsoftp t a b s
  | .vcvt t a b => Sys2Proof.Machine.execVcvt t a b s
  | .vsum t a b => Sys2Proof.Machine.execVsum t a b s
  | .vmaxr t a b => Sys2Proof.Machine.execVmaxr t a b s
  | .vamaxr t a b => Sys2Proof.Machine.execVamaxr t a b s
  | .topk a b m => Sys2Proof.Machine.execTopk a b m s
  | .predrows a b => Sys2Proof.Machine.execPredrows a b s
  | .prcheck a b => Sys2Proof.Machine.execPrcheck a b s
  | .gath a b w e => Sys2Proof.Machine.execGath a b w e s
  | .scat a b => Sys2Proof.Machine.execScat a b s
  | .glaunch a => Sys2Proof.Machine.execGlaunch a s
  | .sarm a b => Sys2Proof.Machine.execSarm a b s
  | .fwait a b => Sys2Proof.Machine.execFwait a b s
  | .ldwF d a sv o => Sys2Proof.Machine.execLdwF d a sv o s
  | .stwE d a sv o => Sys2Proof.Machine.execStwE d a sv o s
  | .ldwFt d a sv o => Sys2Proof.Machine.execLdwFt d a sv o s
  | .stwEt d a b sv o => Sys2Proof.Machine.execStwEt d a b sv o s
  | .ldwFk d a sv o => Sys2Proof.Machine.execLdwFk d a sv o s
  | .ldwQ d a sv o => Sys2Proof.Machine.execLdwQ d a sv o s
  | .fclr a sv o => Sys2Proof.Machine.execFclr a sv o s
  | .amoSwap d a b z p x => Sys2Proof.Machine.execAmoSwap d a b z p x s
  | .amoAdd d a b z p x => Sys2Proof.Machine.execAmoAdd d a b z p x s
  | .amoAnd d a b z p x => Sys2Proof.Machine.execAmoAnd d a b z p x s
  | .amoOr d a b z p x => Sys2Proof.Machine.execAmoOr d a b z p x s
  | .amoXor d a b z p x => Sys2Proof.Machine.execAmoXor d a b z p x s
  | .amoMin d a b z p x => Sys2Proof.Machine.execAmoMin d a b z p x s
  | .amoMax d a b z p x => Sys2Proof.Machine.execAmoMax d a b z p x s
  | .amoMinu d a b z p x => Sys2Proof.Machine.execAmoMinu d a b z p x s
  | .amoMaxu d a b z p x => Sys2Proof.Machine.execAmoMaxu d a b z p x s
  | .amoCas d a b z p x => Sys2Proof.Machine.execAmoCas d a b z p x s
  | .amoFmax d a b z p => Sys2Proof.Machine.execAmoFmax d a b z p s
  | .amaxrr d a z p => Sys2Proof.Machine.execAmaxrr d a z p s
  | .tkt d a b => Sys2Proof.Machine.execTkt d a b s
  | .tkset a b => Sys2Proof.Machine.execTkset a b s
  | .redinit a b => Sys2Proof.Machine.execRedinit a b s
  | .redFadd d a b => Sys2Proof.Machine.execRedFadd d a b s
  | .redrd d a => Sys2Proof.Machine.execRedrd d a s
  | .redLadd a b f => Sys2Proof.Machine.execRedLadd a b f s
  | .redLclr a sv => Sys2Proof.Machine.execRedLclr a sv s
  | .redLdrain d a sv f r => Sys2Proof.Machine.execRedLdrain d a sv f r s
  | .sjoin d a => Sys2Proof.Machine.execSjoin d a s
  | .sleave d a => Sys2Proof.Machine.execSleave d a s
  | .barw d a => Sys2Proof.Machine.execBarw d a s
  | .bara d a => Sys2Proof.Machine.execBara d a s
  | .barwp d a b => Sys2Proof.Machine.execBarwp d a b s
  | .binit d a => Sys2Proof.Machine.execBinit d a s
  | .sstat d a => Sys2Proof.Machine.execSstat d a s
  | .lkacq d a m => Sys2Proof.Machine.execLkacq d a m s
  | .lktry d a m => Sys2Proof.Machine.execLktry d a m s
  | .lkrel d a => Sys2Proof.Machine.execLkrel d a s
  | .lkrelall d => Sys2Proof.Machine.execLkrelall d s
  | .lkreg d a => Sys2Proof.Machine.execLkreg d a s
  | .lkunreg d a => Sys2Proof.Machine.execLkunreg d a s
  | .lkmat d => Sys2Proof.Machine.execLkmat d s
  | .fence p q sv => Sys2Proof.Machine.execFence p q sv s
  | .elemAdd a b f sv w k => Sys2Proof.Machine.execElemAdd a b f sv w k s
  | .elemSub a b f sv w k => Sys2Proof.Machine.execElemSub a b f sv w k s
  | .elemMul a b f sv w k => Sys2Proof.Machine.execElemMul a b f sv w k s
  | .elemMulh a b f w k => Sys2Proof.Machine.execElemMulh a b f w k s
  | .elemMin a b f w k => Sys2Proof.Machine.execElemMin a b f w k s
  | .elemMax a b f w k => Sys2Proof.Machine.execElemMax a b f w k s
  | .elemAbs a f sv w k => Sys2Proof.Machine.execElemAbs a f sv w k s
  | .elemNeg a f sv w k => Sys2Proof.Machine.execElemNeg a f sv w k s
  | .elemAvg a b f r w k => Sys2Proof.Machine.execElemAvg a b f r w k s
  | .elemAbsd a b f sv w k => Sys2Proof.Machine.execElemAbsd a b f sv w k s
  | .elemDiv a b f sv w k => Sys2Proof.Machine.execElemDiv a b f sv w k s
  | .elemRem a b f w k => Sys2Proof.Machine.execElemRem a b f w k s
  | .elemAnd a b f w k => Sys2Proof.Machine.execElemAnd a b f w k s
  | .elemOr a b f w k => Sys2Proof.Machine.execElemOr a b f w k s
  | .elemXor a b f w k => Sys2Proof.Machine.execElemXor a b f w k s
  | .elemNot a f w k => Sys2Proof.Machine.execElemNot a f w k s
  | .elemShl a b f w k => Sys2Proof.Machine.execElemShl a b f w k s
  | .elemShr a b f w k => Sys2Proof.Machine.execElemShr a b f w k s
  | .elemSra a b f w k => Sys2Proof.Machine.execElemSra a b f w k s
  | .elemRotl a b f w k => Sys2Proof.Machine.execElemRotl a b f w k s
  | .elemClz a f w k => Sys2Proof.Machine.execElemClz a f w k s
  | .elemCtz a f w k => Sys2Proof.Machine.execElemCtz a f w k s
  | .elemPopc a f w k => Sys2Proof.Machine.execElemPopc a f w k s
  | .elemBrev a f w k => Sys2Proof.Machine.execElemBrev a f w k s
  | .elemCeq a b f w k => Sys2Proof.Machine.execElemCeq a b f w k s
  | .elemCne a b f w k => Sys2Proof.Machine.execElemCne a b f w k s
  | .elemClt a b f w k => Sys2Proof.Machine.execElemClt a b f w k s
  | .elemCle a b f w k => Sys2Proof.Machine.execElemCle a b f w k s
  | .elemCgt a b f w k => Sys2Proof.Machine.execElemCgt a b f w k s
  | .elemCge a b f w k => Sys2Proof.Machine.execElemCge a b f w k s
  | .elemCnan a f w k => Sys2Proof.Machine.execElemCnan a f w k s
  | .elemMov a f w k => Sys2Proof.Machine.execElemMov a f w k s
  | .elemFadd a b f r sv w k => Sys2Proof.Machine.execElemFadd a b f r sv w k s
  | .elemFsub a b f r sv w k => Sys2Proof.Machine.execElemFsub a b f r sv w k s
  | .elemFmul a b f r sv w k => Sys2Proof.Machine.execElemFmul a b f r sv w k s
  | .elemFdiv a b f r sv w k => Sys2Proof.Machine.execElemFdiv a b f r sv w k s
  | .elemFmin a b f w k => Sys2Proof.Machine.execElemFmin a b f w k s
  | .elemFmax a b f w k => Sys2Proof.Machine.execElemFmax a b f w k s
  | .elemFabs a f w k => Sys2Proof.Machine.execElemFabs a f w k s
  | .elemFneg a f w k => Sys2Proof.Machine.execElemFneg a f w k s
  | .elemFsqrt a f r sv w k => Sys2Proof.Machine.execElemFsqrt a f r sv w k s
  | .elemFrcp a f r sv w k => Sys2Proof.Machine.execElemFrcp a f r sv w k s
  | .elemFrsqrt a f r sv w k => Sys2Proof.Machine.execElemFrsqrt a f r sv w k s
  | .elemFscale a b f r sv w k => Sys2Proof.Machine.execElemFscale a b f r sv w k s
  | .elemFexp2 a f r sv w k => Sys2Proof.Machine.execElemFexp2 a f r sv w k s
  | .elemFlog2 a f r sv w k => Sys2Proof.Machine.execElemFlog2 a f r sv w k s
  | .elemFtanh a f r sv w k => Sys2Proof.Machine.execElemFtanh a f r sv w k s
  | .elemFsigm a f r sv w k => Sys2Proof.Machine.execElemFsigm a f r sv w k s
  | .elemFgelu a f r sv w k => Sys2Proof.Machine.execElemFgelu a f r sv w k s
  | .elemFsilu a f r sv w k => Sys2Proof.Machine.execElemFsilu a f r sv w k s
  | .elemFerf a f r sv w k => Sys2Proof.Machine.execElemFerf a f r sv w k s
  | .elemFsoftp a f r sv w k => Sys2Proof.Machine.execElemFsoftp a f r sv w k s
  | .elemCvt a f r sv w t => Sys2Proof.Machine.execElemCvt a f r sv w t s
  | .elemPack a b f wk => Sys2Proof.Machine.execElemPack a b f wk s
  | .elemUnpklo a f w => Sys2Proof.Machine.execElemUnpklo a f w s
  | .elemUnpkhi a f w => Sys2Proof.Machine.execElemUnpkhi a f w s
  | .elemFround a f r w => Sys2Proof.Machine.execElemFround a f r w s
  | .elemFsign a f w => Sys2Proof.Machine.execElemFsign a f w s
  | .elemIacc a b f sv w => Sys2Proof.Machine.execElemIacc a b f sv w s
  | .elemFacc a b f r sv w => Sys2Proof.Machine.execElemFacc a b f r sv w s
  | .elemImaxr a b f w => Sys2Proof.Machine.execElemImaxr a b f w s
  | .elemFmaxr a b f w => Sys2Proof.Machine.execElemFmaxr a b f w s
  | .elemFamaxr a b f w => Sys2Proof.Machine.execElemFamaxr a b f w s
  | .elemCnt a b f w => Sys2Proof.Machine.execElemCnt a b f w s
  | .memLd o p q w sv => Sys2Proof.Machine.execMemLd o p q w sv s
  | .memLds o p q w sv => Sys2Proof.Machine.execMemLds o p q w sv s
  | .memSt o p q w sv => Sys2Proof.Machine.execMemSt o p q w sv s
  | .memLdwf o p q sv => Sys2Proof.Machine.execMemLdwf o p q sv s
  | .memStwe o p q sv => Sys2Proof.Machine.execMemStwe o p q sv s
  | .memLdwk o p q sv => Sys2Proof.Machine.execMemLdwk o p q sv s
  | .memAadd o p q sv => Sys2Proof.Machine.execMemAadd o p q sv s
  | .memAmax o p q sv => Sys2Proof.Machine.execMemAmax o p q sv s
  | .memAmin o p q sv => Sys2Proof.Machine.execMemAmin o p q sv s
  | .memAswp o p q sv => Sys2Proof.Machine.execMemAswp o p q sv s
  | .memAand o p q sv => Sys2Proof.Machine.execMemAand o p q sv s
  | .memAor o p q sv => Sys2Proof.Machine.execMemAor o p q sv s
  | .memAxor o p q sv => Sys2Proof.Machine.execMemAxor o p q sv s
  | .memPfch o p q => Sys2Proof.Machine.execMemPfch o p q s
  | .opPass o iv c => Sys2Proof.Machine.execOpPass o iv c s
  | .opFork o iv c v => Sys2Proof.Machine.execOpFork o iv c v s
  | .opSteer o iv j c v => Sys2Proof.Machine.execOpSteer o iv j c v s
  | .opMerge o iv j c v => Sys2Proof.Machine.execOpMerge o iv j c v s
  | .opCarry o iv j c => Sys2Proof.Machine.execOpCarry o iv j c s
  | .opNullFill o iv c v => Sys2Proof.Machine.execOpNullFill o iv c v s
  | .opEgate o iv j c => Sys2Proof.Machine.execOpEgate o iv j c s
  | .opEgateSw o iv j c => Sys2Proof.Machine.execOpEgateSw o iv j c s
  | .arcHop f a k => Sys2Proof.Machine.execArcHop f a k s
  | .configWordLoad f n => Sys2Proof.Machine.execConfigWordLoad f n s
  | .loopNConsume f n => Sys2Proof.Machine.execLoopNConsume f n s
  | .loopEmit f n last => Sys2Proof.Machine.execLoopEmit f n last s
  | .memAccessReply f n k => Sys2Proof.Machine.execMemAccessReply f n k s
  | .matrixNodeFire f n => Sys2Proof.Machine.execMatrixNodeFire f n s
  | .sportSourceAccess f n => Sys2Proof.Machine.execSportSourceAccess f n s
  | .sportSinkAccess f n => Sys2Proof.Machine.execSportSinkAccess f n s
  | .launchAdmit l => Sys2Proof.Machine.execLaunchAdmit l s
  | .threadTaskDispatch l k => Sys2Proof.Machine.execThreadTaskDispatch l k s
  | .placeFormation f wheres routes isles => Sys2Proof.Machine.execPlaceFormation f wheres routes isles s
  | .formationArm f => Sys2Proof.Machine.execFormationArm f s
  | .drainInject f => Sys2Proof.Machine.execDrainInject f s
  | .ctLoadReply t => Sys2Proof.Machine.execCtLoadReply t s
  | .storePerform t k => Sys2Proof.Machine.execStorePerform t k s
  | .pageWalk cmd x y k => Sys2Proof.Machine.execPageWalk cmd x y k s
  | .fillRingTake x p => Sys2Proof.Machine.execFillRingTake x p s
  | .fillComplete x p => Sys2Proof.Machine.execFillComplete x p s
  | .xinvDone k => Sys2Proof.Machine.execXinvDone k s
  | .syOperationApply f n k => Sys2Proof.Machine.execSyOperationApply f n k s
  | .asyncTrapEntry t => Sys2Proof.Machine.execAsyncTrapEntry t s
  | .sleepWake t => Sys2Proof.Machine.execSleepWake t s
  | .copyPromiseExpire c h => Sys2Proof.Machine.execCopyPromiseExpire c h s
  | .copyAccept c u => Sys2Proof.Machine.execCopyAccept c u s
  | .copyLand c u => Sys2Proof.Machine.execCopyLand c u s
  | .reservationRequest c u => Sys2Proof.Machine.execReservationRequest c u s
  | .reservationGrant c u => Sys2Proof.Machine.execReservationGrant c u s
  | .kStep c u => Sys2Proof.Machine.execKStep c u s
  | .mdrainExecute c u => Sys2Proof.Machine.execMdrainExecute c u s
  | .vectorStep c u => Sys2Proof.Machine.execVectorStep c u s
  | .topkExecute c => Sys2Proof.Machine.execTopkExecute c s
  | .predrowsExecute c => Sys2Proof.Machine.execPredrowsExecute c s
  | .prcheckExecute c => Sys2Proof.Machine.execPrcheckExecute c s
  | .gathExecute c => Sys2Proof.Machine.execGathExecute c s
  | .scatExecute c => Sys2Proof.Machine.execScatExecute c s
  | .faultHoldExpire cmd x y k => Sys2Proof.Machine.execFaultHoldExpire cmd x y k s
  | .reductionGapped x a => Sys2Proof.Machine.execReductionGapped x a s
  | .saveSeal x => Sys2Proof.Machine.execSaveSeal x s
  | .contextRestore x clusters wheres routes isles => Sys2Proof.Machine.execContextRestore x clusters wheres routes isles s
  | .guardDiscard f a site port w => Sys2Proof.Machine.execGuardDiscard f a site port w s
  | .teardownComplete f => Sys2Proof.Machine.execTeardownComplete f s
  | .detectorSweep whole x => Sys2Proof.Machine.execDetectorSweep whole x s
  | .samplePeriod x => Sys2Proof.Machine.execSamplePeriod x s
  | .arbiterPeriod temps => Sys2Proof.Machine.execArbiterPeriod temps s
  | .reelSend => Sys2Proof.Machine.execReelSend s
  | .reelShare => Sys2Proof.Machine.execReelShare s
  | .hbmThermalWindow stack temp => Sys2Proof.Machine.execHbmThermalWindow stack temp s
  | .currentLimit d => Sys2Proof.Machine.execCurrentLimit d s
  | .currentLimitClear d => Sys2Proof.Machine.execCurrentLimitClear d s
  | .junctionOvertemp d => Sys2Proof.Machine.execJunctionOvertemp d s
  | .supplyUndervolt d => Sys2Proof.Machine.execSupplyUndervolt d s
  | .edgeResendTimeout d => Sys2Proof.Machine.execEdgeResendTimeout d s
  | .powerOn time hbm => Sys2Proof.Machine.execPowerOn time hbm s
  | .hostFrame frame => Sys2Proof.Machine.execHostFrame frame s
  | .ptpFrame port sdo domain m => Sys2Proof.Machine.execPtpFrame port sdo domain m s
  | .peerFrame port frame => Sys2Proof.Machine.execPeerFrame port frame s
  | .peerFrameResend port => Sys2Proof.Machine.execPeerFrameResend port s
  | .peerTimeout k => Sys2Proof.Machine.execPeerTimeout k s
  | .peerRead k => Sys2Proof.Machine.execPeerRead k s
  | .peerReadReply k => Sys2Proof.Machine.execPeerReadReply k s
  | .peerWrite k => Sys2Proof.Machine.execPeerWrite k s
  | .peerWriteAck k => Sys2Proof.Machine.execPeerWriteAck k s
  | .peerAtomic k => Sys2Proof.Machine.execPeerAtomic k s
  | .peerAtomicReply k => Sys2Proof.Machine.execPeerAtomicReply k s
  | .reelMessage k => Sys2Proof.Machine.execReelMessage k s
  | .peerRefusal k => Sys2Proof.Machine.execPeerRefusal k s
  | .policyNotafter x => Sys2Proof.Machine.execPolicyNotafter x s
  | .hostNop q => Sys2Proof.Machine.execHostNop q s
  | .hostLaunch q => Sys2Proof.Machine.execHostLaunch q s
  | .hostWaitev q => Sys2Proof.Machine.execHostWaitev q s
  | .hostSigev q => Sys2Proof.Machine.execHostSigev q s
  | .hostMemrd q => Sys2Proof.Machine.execHostMemrd q s
  | .hostMemwr q => Sys2Proof.Machine.execHostMemwr q s
  | .hostXinv q => Sys2Proof.Machine.execHostXinv q s
  | .hostSetmask q => Sys2Proof.Machine.execHostSetmask q s
  | .hostCtxnew q => Sys2Proof.Machine.execHostCtxnew q s
  | .hostCtxdel q => Sys2Proof.Machine.execHostCtxdel q s
  | .hostSuspend q => Sys2Proof.Machine.execHostSuspend q s
  | .hostResume q => Sys2Proof.Machine.execHostResume q s
  | .hostQset q => Sys2Proof.Machine.execHostQset q s
  | .hostQadd q => Sys2Proof.Machine.execHostQadd q s
  | .hostPolicy q => Sys2Proof.Machine.execHostPolicy q s
  | .hostFlashrd q => Sys2Proof.Machine.execHostFlashrd q s
  | .hostFlashwr q => Sys2Proof.Machine.execHostFlashwr q s
  | .hostHalt q => Sys2Proof.Machine.execHostHalt q s
  | .hostRelease q => Sys2Proof.Machine.execHostRelease q s
  | .hostBreak q => Sys2Proof.Machine.execHostBreak q s
  | .hostDump q => Sys2Proof.Machine.execHostDump q s
  | .hostHstat q => Sys2Proof.Machine.execHostHstat q s
  | .hostCtrrd q => Sys2Proof.Machine.execHostCtrrd q s
  | .hostTimestat q => Sys2Proof.Machine.execHostTimestat q s
  | .hostTraceset q => Sys2Proof.Machine.execHostTraceset q s
  | .hostPartset q => Sys2Proof.Machine.execHostPartset q s
  | .hostLockmat q => Sys2Proof.Machine.execHostLockmat q s
  | .hostPeerwin q => Sys2Proof.Machine.execHostPeerwin q s
  | .hostFnbind q => Sys2Proof.Machine.execHostFnbind q s
  | .hostPower q => Sys2Proof.Machine.execHostPower q s
  | .hostAttest q => Sys2Proof.Machine.execHostAttest q s
  | .hostFwload q hbm => Sys2Proof.Machine.execHostFwload q hbm s
  | .hostReset q hbm => Sys2Proof.Machine.execHostReset q hbm s
  | .timeSliceDecision p => Sys2Proof.Machine.execTimeSliceDecision p s
  | .holdover => Sys2Proof.Machine.execHoldover s

end Sys2Proof.Machine
end

