-- ==== Sys2Proof/Machine/Run.lean ====
section
/-! DEFINITION. A firing of a node runs the word that the node holds. The functions below read a word as `decodeElement` and
`decodeSwitch` read it and call the meaning of the row at once, which is `exec` of the decoded instruction: the obligation
StepRunsDecodedInstruction says so. They exist because Lean's compiler has no tags for the constructors beyond the 244th, so a step that built those would
not run. A word that is no node word does nothing: a node that holds one is blocked (R396). -/

namespace Sys2Proof.Machine

/-- R165, R166: an element operation word runs. -/
def runElemWord (w : BitVec 32) (s : State) : Out :=
  match (w.extractLsb' 24 8).toNat with
  | 1 => if w.extractLsb' 12 2 ≠ 0#2 then .next s else execElemAdd (w.extractLsb' 21 3) (w.extractLsb' 18 3) (w.extractLsb' 14 4) (w.extractLsb' 11 1) (w.extractLsb' 10 1) (w.extractLsb' 0 10) s
  | 2 => if w.extractLsb' 12 2 ≠ 0#2 then .next s else execElemSub (w.extractLsb' 21 3) (w.extractLsb' 18 3) (w.extractLsb' 14 4) (w.extractLsb' 11 1) (w.extractLsb' 10 1) (w.extractLsb' 0 10) s
  | 3 => if w.extractLsb' 12 2 ≠ 0#2 then .next s else execElemMul (w.extractLsb' 21 3) (w.extractLsb' 18 3) (w.extractLsb' 14 4) (w.extractLsb' 11 1) (w.extractLsb' 10 1) (w.extractLsb' 0 10) s
  | 4 => if w.extractLsb' 11 3 ≠ 0#3 then .next s else execElemMulh (w.extractLsb' 21 3) (w.extractLsb' 18 3) (w.extractLsb' 14 4) (w.extractLsb' 10 1) (w.extractLsb' 0 10) s
  | 5 => if w.extractLsb' 11 3 ≠ 0#3 then .next s else execElemMin (w.extractLsb' 21 3) (w.extractLsb' 18 3) (w.extractLsb' 14 4) (w.extractLsb' 10 1) (w.extractLsb' 0 10) s
  | 6 => if w.extractLsb' 11 3 ≠ 0#3 then .next s else execElemMax (w.extractLsb' 21 3) (w.extractLsb' 18 3) (w.extractLsb' 14 4) (w.extractLsb' 10 1) (w.extractLsb' 0 10) s
  | 7 => if w.extractLsb' 18 3 ≠ 0#3 ∨ w.extractLsb' 12 2 ≠ 0#2 then .next s else execElemAbs (w.extractLsb' 21 3) (w.extractLsb' 14 4) (w.extractLsb' 11 1) (w.extractLsb' 10 1) (w.extractLsb' 0 10) s
  | 8 => if w.extractLsb' 18 3 ≠ 0#3 ∨ w.extractLsb' 12 2 ≠ 0#2 then .next s else execElemNeg (w.extractLsb' 21 3) (w.extractLsb' 14 4) (w.extractLsb' 11 1) (w.extractLsb' 10 1) (w.extractLsb' 0 10) s
  | 9 => if w.extractLsb' 11 1 ≠ 0#1 then .next s else execElemAvg (w.extractLsb' 21 3) (w.extractLsb' 18 3) (w.extractLsb' 14 4) (w.extractLsb' 12 2) (w.extractLsb' 10 1) (w.extractLsb' 0 10) s
  | 10 => if w.extractLsb' 12 2 ≠ 0#2 then .next s else execElemAbsd (w.extractLsb' 21 3) (w.extractLsb' 18 3) (w.extractLsb' 14 4) (w.extractLsb' 11 1) (w.extractLsb' 10 1) (w.extractLsb' 0 10) s
  | 11 => if w.extractLsb' 12 2 ≠ 0#2 then .next s else execElemDiv (w.extractLsb' 21 3) (w.extractLsb' 18 3) (w.extractLsb' 14 4) (w.extractLsb' 11 1) (w.extractLsb' 10 1) (w.extractLsb' 0 10) s
  | 12 => if w.extractLsb' 11 3 ≠ 0#3 then .next s else execElemRem (w.extractLsb' 21 3) (w.extractLsb' 18 3) (w.extractLsb' 14 4) (w.extractLsb' 10 1) (w.extractLsb' 0 10) s
  | 16 => if w.extractLsb' 11 3 ≠ 0#3 then .next s else execElemAnd (w.extractLsb' 21 3) (w.extractLsb' 18 3) (w.extractLsb' 14 4) (w.extractLsb' 10 1) (w.extractLsb' 0 10) s
  | 17 => if w.extractLsb' 11 3 ≠ 0#3 then .next s else execElemOr (w.extractLsb' 21 3) (w.extractLsb' 18 3) (w.extractLsb' 14 4) (w.extractLsb' 10 1) (w.extractLsb' 0 10) s
  | 18 => if w.extractLsb' 11 3 ≠ 0#3 then .next s else execElemXor (w.extractLsb' 21 3) (w.extractLsb' 18 3) (w.extractLsb' 14 4) (w.extractLsb' 10 1) (w.extractLsb' 0 10) s
  | 19 => if w.extractLsb' 18 3 ≠ 0#3 ∨ w.extractLsb' 11 3 ≠ 0#3 then .next s else execElemNot (w.extractLsb' 21 3) (w.extractLsb' 14 4) (w.extractLsb' 10 1) (w.extractLsb' 0 10) s
  | 20 => if w.extractLsb' 11 3 ≠ 0#3 then .next s else execElemShl (w.extractLsb' 21 3) (w.extractLsb' 18 3) (w.extractLsb' 14 4) (w.extractLsb' 10 1) (w.extractLsb' 0 10) s
  | 21 => if w.extractLsb' 11 3 ≠ 0#3 then .next s else execElemShr (w.extractLsb' 21 3) (w.extractLsb' 18 3) (w.extractLsb' 14 4) (w.extractLsb' 10 1) (w.extractLsb' 0 10) s
  | 22 => if w.extractLsb' 11 3 ≠ 0#3 then .next s else execElemSra (w.extractLsb' 21 3) (w.extractLsb' 18 3) (w.extractLsb' 14 4) (w.extractLsb' 10 1) (w.extractLsb' 0 10) s
  | 23 => if w.extractLsb' 11 3 ≠ 0#3 then .next s else execElemRotl (w.extractLsb' 21 3) (w.extractLsb' 18 3) (w.extractLsb' 14 4) (w.extractLsb' 10 1) (w.extractLsb' 0 10) s
  | 24 => if w.extractLsb' 18 3 ≠ 0#3 ∨ w.extractLsb' 11 3 ≠ 0#3 then .next s else execElemClz (w.extractLsb' 21 3) (w.extractLsb' 14 4) (w.extractLsb' 10 1) (w.extractLsb' 0 10) s
  | 25 => if w.extractLsb' 18 3 ≠ 0#3 ∨ w.extractLsb' 11 3 ≠ 0#3 then .next s else execElemCtz (w.extractLsb' 21 3) (w.extractLsb' 14 4) (w.extractLsb' 10 1) (w.extractLsb' 0 10) s
  | 26 => if w.extractLsb' 18 3 ≠ 0#3 ∨ w.extractLsb' 11 3 ≠ 0#3 then .next s else execElemPopc (w.extractLsb' 21 3) (w.extractLsb' 14 4) (w.extractLsb' 10 1) (w.extractLsb' 0 10) s
  | 27 => if w.extractLsb' 18 3 ≠ 0#3 ∨ w.extractLsb' 11 3 ≠ 0#3 then .next s else execElemBrev (w.extractLsb' 21 3) (w.extractLsb' 14 4) (w.extractLsb' 10 1) (w.extractLsb' 0 10) s
  | 32 => if w.extractLsb' 11 3 ≠ 0#3 then .next s else execElemCeq (w.extractLsb' 21 3) (w.extractLsb' 18 3) (w.extractLsb' 14 4) (w.extractLsb' 10 1) (w.extractLsb' 0 10) s
  | 33 => if w.extractLsb' 11 3 ≠ 0#3 then .next s else execElemCne (w.extractLsb' 21 3) (w.extractLsb' 18 3) (w.extractLsb' 14 4) (w.extractLsb' 10 1) (w.extractLsb' 0 10) s
  | 34 => if w.extractLsb' 11 3 ≠ 0#3 then .next s else execElemClt (w.extractLsb' 21 3) (w.extractLsb' 18 3) (w.extractLsb' 14 4) (w.extractLsb' 10 1) (w.extractLsb' 0 10) s
  | 35 => if w.extractLsb' 11 3 ≠ 0#3 then .next s else execElemCle (w.extractLsb' 21 3) (w.extractLsb' 18 3) (w.extractLsb' 14 4) (w.extractLsb' 10 1) (w.extractLsb' 0 10) s
  | 36 => if w.extractLsb' 11 3 ≠ 0#3 then .next s else execElemCgt (w.extractLsb' 21 3) (w.extractLsb' 18 3) (w.extractLsb' 14 4) (w.extractLsb' 10 1) (w.extractLsb' 0 10) s
  | 37 => if w.extractLsb' 11 3 ≠ 0#3 then .next s else execElemCge (w.extractLsb' 21 3) (w.extractLsb' 18 3) (w.extractLsb' 14 4) (w.extractLsb' 10 1) (w.extractLsb' 0 10) s
  | 38 => if w.extractLsb' 18 3 ≠ 0#3 ∨ w.extractLsb' 11 3 ≠ 0#3 then .next s else execElemCnan (w.extractLsb' 21 3) (w.extractLsb' 14 4) (w.extractLsb' 10 1) (w.extractLsb' 0 10) s
  | 39 => if w.extractLsb' 18 3 ≠ 0#3 ∨ w.extractLsb' 11 3 ≠ 0#3 then .next s else execElemMov (w.extractLsb' 21 3) (w.extractLsb' 14 4) (w.extractLsb' 10 1) (w.extractLsb' 0 10) s
  | 48 => execElemFadd (w.extractLsb' 21 3) (w.extractLsb' 18 3) (w.extractLsb' 14 4) (w.extractLsb' 12 2) (w.extractLsb' 11 1) (w.extractLsb' 10 1) (w.extractLsb' 0 10) s
  | 49 => execElemFsub (w.extractLsb' 21 3) (w.extractLsb' 18 3) (w.extractLsb' 14 4) (w.extractLsb' 12 2) (w.extractLsb' 11 1) (w.extractLsb' 10 1) (w.extractLsb' 0 10) s
  | 50 => execElemFmul (w.extractLsb' 21 3) (w.extractLsb' 18 3) (w.extractLsb' 14 4) (w.extractLsb' 12 2) (w.extractLsb' 11 1) (w.extractLsb' 10 1) (w.extractLsb' 0 10) s
  | 51 => execElemFdiv (w.extractLsb' 21 3) (w.extractLsb' 18 3) (w.extractLsb' 14 4) (w.extractLsb' 12 2) (w.extractLsb' 11 1) (w.extractLsb' 10 1) (w.extractLsb' 0 10) s
  | 52 => if w.extractLsb' 11 3 ≠ 0#3 then .next s else execElemFmin (w.extractLsb' 21 3) (w.extractLsb' 18 3) (w.extractLsb' 14 4) (w.extractLsb' 10 1) (w.extractLsb' 0 10) s
  | 53 => if w.extractLsb' 11 3 ≠ 0#3 then .next s else execElemFmax (w.extractLsb' 21 3) (w.extractLsb' 18 3) (w.extractLsb' 14 4) (w.extractLsb' 10 1) (w.extractLsb' 0 10) s
  | 54 => if w.extractLsb' 18 3 ≠ 0#3 ∨ w.extractLsb' 11 3 ≠ 0#3 then .next s else execElemFabs (w.extractLsb' 21 3) (w.extractLsb' 14 4) (w.extractLsb' 10 1) (w.extractLsb' 0 10) s
  | 55 => if w.extractLsb' 18 3 ≠ 0#3 ∨ w.extractLsb' 11 3 ≠ 0#3 then .next s else execElemFneg (w.extractLsb' 21 3) (w.extractLsb' 14 4) (w.extractLsb' 10 1) (w.extractLsb' 0 10) s
  | 56 => if w.extractLsb' 18 3 ≠ 0#3 then .next s else execElemFsqrt (w.extractLsb' 21 3) (w.extractLsb' 14 4) (w.extractLsb' 12 2) (w.extractLsb' 11 1) (w.extractLsb' 10 1) (w.extractLsb' 0 10) s
  | 57 => if w.extractLsb' 18 3 ≠ 0#3 then .next s else execElemFrcp (w.extractLsb' 21 3) (w.extractLsb' 14 4) (w.extractLsb' 12 2) (w.extractLsb' 11 1) (w.extractLsb' 10 1) (w.extractLsb' 0 10) s
  | 58 => if w.extractLsb' 18 3 ≠ 0#3 then .next s else execElemFrsqrt (w.extractLsb' 21 3) (w.extractLsb' 14 4) (w.extractLsb' 12 2) (w.extractLsb' 11 1) (w.extractLsb' 10 1) (w.extractLsb' 0 10) s
  | 59 => execElemFscale (w.extractLsb' 21 3) (w.extractLsb' 18 3) (w.extractLsb' 14 4) (w.extractLsb' 12 2) (w.extractLsb' 11 1) (w.extractLsb' 10 1) (w.extractLsb' 0 10) s
  | 64 => if w.extractLsb' 18 3 ≠ 0#3 then .next s else execElemFexp2 (w.extractLsb' 21 3) (w.extractLsb' 14 4) (w.extractLsb' 12 2) (w.extractLsb' 11 1) (w.extractLsb' 10 1) (w.extractLsb' 0 10) s
  | 65 => if w.extractLsb' 18 3 ≠ 0#3 then .next s else execElemFlog2 (w.extractLsb' 21 3) (w.extractLsb' 14 4) (w.extractLsb' 12 2) (w.extractLsb' 11 1) (w.extractLsb' 10 1) (w.extractLsb' 0 10) s
  | 66 => if w.extractLsb' 18 3 ≠ 0#3 then .next s else execElemFtanh (w.extractLsb' 21 3) (w.extractLsb' 14 4) (w.extractLsb' 12 2) (w.extractLsb' 11 1) (w.extractLsb' 10 1) (w.extractLsb' 0 10) s
  | 67 => if w.extractLsb' 18 3 ≠ 0#3 then .next s else execElemFsigm (w.extractLsb' 21 3) (w.extractLsb' 14 4) (w.extractLsb' 12 2) (w.extractLsb' 11 1) (w.extractLsb' 10 1) (w.extractLsb' 0 10) s
  | 68 => if w.extractLsb' 18 3 ≠ 0#3 then .next s else execElemFgelu (w.extractLsb' 21 3) (w.extractLsb' 14 4) (w.extractLsb' 12 2) (w.extractLsb' 11 1) (w.extractLsb' 10 1) (w.extractLsb' 0 10) s
  | 69 => if w.extractLsb' 18 3 ≠ 0#3 then .next s else execElemFsilu (w.extractLsb' 21 3) (w.extractLsb' 14 4) (w.extractLsb' 12 2) (w.extractLsb' 11 1) (w.extractLsb' 10 1) (w.extractLsb' 0 10) s
  | 70 => if w.extractLsb' 18 3 ≠ 0#3 then .next s else execElemFerf (w.extractLsb' 21 3) (w.extractLsb' 14 4) (w.extractLsb' 12 2) (w.extractLsb' 11 1) (w.extractLsb' 10 1) (w.extractLsb' 0 10) s
  | 71 => if w.extractLsb' 18 3 ≠ 0#3 then .next s else execElemFsoftp (w.extractLsb' 21 3) (w.extractLsb' 14 4) (w.extractLsb' 12 2) (w.extractLsb' 11 1) (w.extractLsb' 10 1) (w.extractLsb' 0 10) s
  | 72 => if w.extractLsb' 18 3 ≠ 0#3 ∨ w.extractLsb' 4 6 ≠ 0#6 then .next s else execElemCvt (w.extractLsb' 21 3) (w.extractLsb' 14 4) (w.extractLsb' 12 2) (w.extractLsb' 11 1) (w.extractLsb' 10 1) (w.extractLsb' 0 4) s
  | 73 => if w.extractLsb' 11 3 ≠ 0#3 then .next s else execElemPack (w.extractLsb' 21 3) (w.extractLsb' 18 3) (w.extractLsb' 14 4) (w.extractLsb' 0 11) s
  | 74 => if w.extractLsb' 18 3 ≠ 0#3 ∨ w.extractLsb' 11 3 ≠ 0#3 ∨ w.extractLsb' 0 10 ≠ 0#10 then .next s else execElemUnpklo (w.extractLsb' 21 3) (w.extractLsb' 14 4) (w.extractLsb' 10 1) s
  | 75 => if w.extractLsb' 18 3 ≠ 0#3 ∨ w.extractLsb' 11 3 ≠ 0#3 ∨ w.extractLsb' 0 10 ≠ 0#10 then .next s else execElemUnpkhi (w.extractLsb' 21 3) (w.extractLsb' 14 4) (w.extractLsb' 10 1) s
  | 76 => if w.extractLsb' 18 3 ≠ 0#3 ∨ w.extractLsb' 11 1 ≠ 0#1 ∨ w.extractLsb' 0 10 ≠ 0#10 then .next s else execElemFround (w.extractLsb' 21 3) (w.extractLsb' 14 4) (w.extractLsb' 12 2) (w.extractLsb' 10 1) s
  | 77 => if w.extractLsb' 18 3 ≠ 0#3 ∨ w.extractLsb' 11 3 ≠ 0#3 ∨ w.extractLsb' 0 10 ≠ 0#10 then .next s else execElemFsign (w.extractLsb' 21 3) (w.extractLsb' 14 4) (w.extractLsb' 10 1) s
  | 80 => if w.extractLsb' 12 2 ≠ 0#2 ∨ w.extractLsb' 0 10 ≠ 0#10 then .next s else execElemIacc (w.extractLsb' 21 3) (w.extractLsb' 18 3) (w.extractLsb' 14 4) (w.extractLsb' 11 1) (w.extractLsb' 10 1) s
  | 81 => if w.extractLsb' 0 10 ≠ 0#10 then .next s else execElemFacc (w.extractLsb' 21 3) (w.extractLsb' 18 3) (w.extractLsb' 14 4) (w.extractLsb' 12 2) (w.extractLsb' 11 1) (w.extractLsb' 10 1) s
  | 82 => if w.extractLsb' 11 3 ≠ 0#3 ∨ w.extractLsb' 0 10 ≠ 0#10 then .next s else execElemImaxr (w.extractLsb' 21 3) (w.extractLsb' 18 3) (w.extractLsb' 14 4) (w.extractLsb' 10 1) s
  | 83 => if w.extractLsb' 11 3 ≠ 0#3 ∨ w.extractLsb' 0 10 ≠ 0#10 then .next s else execElemFmaxr (w.extractLsb' 21 3) (w.extractLsb' 18 3) (w.extractLsb' 14 4) (w.extractLsb' 10 1) s
  | 84 => if w.extractLsb' 11 3 ≠ 0#3 ∨ w.extractLsb' 0 10 ≠ 0#10 then .next s else execElemFamaxr (w.extractLsb' 21 3) (w.extractLsb' 18 3) (w.extractLsb' 14 4) (w.extractLsb' 10 1) s
  | 85 => if w.extractLsb' 11 3 ≠ 0#3 ∨ w.extractLsb' 0 10 ≠ 0#10 then .next s else execElemCnt (w.extractLsb' 21 3) (w.extractLsb' 18 3) (w.extractLsb' 14 4) (w.extractLsb' 10 1) s
  | _ => .next s

/-- R167: a memory element word runs. -/
def runMemWord (w : BitVec 32) (s : State) : Out :=
  match (w.extractLsb' 24 8).toNat with
  | 128 => execMemLd (w.extractLsb' 18 6) (w.extractLsb' 12 6) (w.extractLsb' 6 6) (w.extractLsb' 3 3) (w.extractLsb' 0 3) s
  | 129 => execMemLds (w.extractLsb' 18 6) (w.extractLsb' 12 6) (w.extractLsb' 6 6) (w.extractLsb' 3 3) (w.extractLsb' 0 3) s
  | 130 => execMemSt (w.extractLsb' 18 6) (w.extractLsb' 12 6) (w.extractLsb' 6 6) (w.extractLsb' 3 3) (w.extractLsb' 0 3) s
  | 131 => if w.extractLsb' 3 3 ≠ 2#3 then .next s else execMemLdwf (w.extractLsb' 18 6) (w.extractLsb' 12 6) (w.extractLsb' 6 6) (w.extractLsb' 0 3) s
  | 132 => if w.extractLsb' 3 3 ≠ 2#3 then .next s else execMemStwe (w.extractLsb' 18 6) (w.extractLsb' 12 6) (w.extractLsb' 6 6) (w.extractLsb' 0 3) s
  | 133 => if w.extractLsb' 3 3 ≠ 2#3 then .next s else execMemLdwk (w.extractLsb' 18 6) (w.extractLsb' 12 6) (w.extractLsb' 6 6) (w.extractLsb' 0 3) s
  | 134 => if w.extractLsb' 3 3 ≠ 2#3 then .next s else execMemAadd (w.extractLsb' 18 6) (w.extractLsb' 12 6) (w.extractLsb' 6 6) (w.extractLsb' 0 3) s
  | 135 => if w.extractLsb' 3 3 ≠ 2#3 then .next s else execMemAmax (w.extractLsb' 18 6) (w.extractLsb' 12 6) (w.extractLsb' 6 6) (w.extractLsb' 0 3) s
  | 136 => if w.extractLsb' 3 3 ≠ 2#3 then .next s else execMemAmin (w.extractLsb' 18 6) (w.extractLsb' 12 6) (w.extractLsb' 6 6) (w.extractLsb' 0 3) s
  | 137 => if w.extractLsb' 3 3 ≠ 2#3 then .next s else execMemAswp (w.extractLsb' 18 6) (w.extractLsb' 12 6) (w.extractLsb' 6 6) (w.extractLsb' 0 3) s
  | 138 => if w.extractLsb' 3 3 ≠ 2#3 then .next s else execMemAand (w.extractLsb' 18 6) (w.extractLsb' 12 6) (w.extractLsb' 6 6) (w.extractLsb' 0 3) s
  | 139 => if w.extractLsb' 3 3 ≠ 2#3 then .next s else execMemAor (w.extractLsb' 18 6) (w.extractLsb' 12 6) (w.extractLsb' 6 6) (w.extractLsb' 0 3) s
  | 140 => if w.extractLsb' 3 3 ≠ 2#3 then .next s else execMemAxor (w.extractLsb' 18 6) (w.extractLsb' 12 6) (w.extractLsb' 6 6) (w.extractLsb' 0 3) s
  | 141 => if w.extractLsb' 0 6 ≠ 1#6 then .next s else execMemPfch (w.extractLsb' 18 6) (w.extractLsb' 12 6) (w.extractLsb' 6 6) s
  | _ => .next s

/-- A node word of class element or memory element runs (R166). -/
def runElement (w : BitVec 32) (s : State) : Out :=
  if w.extractLsb' 31 1 = 0#1 then runElemWord w s else runMemWord w s

/-- R168: a switch word runs. -/
def runSwitch (w : BitVec 16) (s : State) : Out :=
  match (w.extractLsb' 13 3).toNat with
  | 0 => if w.extractLsb' 4 3 ≠ 0#3 ∨ w.extractLsb' 0 3 ≠ 0#3 then .next s else execOpPass (w.extractLsb' 10 3) (w.extractLsb' 7 3) (w.extractLsb' 3 1) s
  | 1 => if w.extractLsb' 4 3 ≠ 0#3 then .next s else execOpFork (w.extractLsb' 10 3) (w.extractLsb' 7 3) (w.extractLsb' 3 1) (w.extractLsb' 0 3) s
  | 2 => execOpSteer (w.extractLsb' 10 3) (w.extractLsb' 7 3) (w.extractLsb' 4 3) (w.extractLsb' 3 1) (w.extractLsb' 0 3) s
  | 3 => execOpMerge (w.extractLsb' 10 3) (w.extractLsb' 7 3) (w.extractLsb' 4 3) (w.extractLsb' 3 1) (w.extractLsb' 0 3) s
  | 4 => if w.extractLsb' 0 3 ≠ 0#3 then .next s else execOpCarry (w.extractLsb' 10 3) (w.extractLsb' 7 3) (w.extractLsb' 4 3) (w.extractLsb' 3 1) s
  | 5 => if w.extractLsb' 4 3 ≠ 0#3 then .next s else execOpNullFill (w.extractLsb' 10 3) (w.extractLsb' 7 3) (w.extractLsb' 3 1) (w.extractLsb' 0 3) s
  | 6 => match (w.extractLsb' 0 3).toNat with
    | 0 => execOpEgate (w.extractLsb' 10 3) (w.extractLsb' 7 3) (w.extractLsb' 4 3) (w.extractLsb' 3 1) s
    | 1 => execOpEgateSw (w.extractLsb' 10 3) (w.extractLsb' 7 3) (w.extractLsb' 4 3) (w.extractLsb' 3 1) s
    | _ => .next s
  | _ => .next s

/-- The turn of a node: an element, a memory element or a router operator runs its current word (R59, R69). The nodes of the other
classes act by steps of their own. -/
def runNode (f n : Nat) (s : State) : Out :=
  match (formAt s f).bind (fun fm => fm.nodes[n]?) with
  | some nd =>
    if nd.cls ≤ 1 then runElement (curWord nd) { s with cur := .node f n }
    else if nd.cls = 2 then runSwitch ((curWord nd).truncate 16) { s with cur := .node f n }
    else .next s
  | none => .next s

end Sys2Proof.Machine
end

