-- ==== Sys2Proof/Machine/Turn.lean ====
section
/-! DEFINITION. Turns: what happens in one step of the machine (R16, R51, R316; log 1).

The parts of the device act side by side, and the order of their steps is open (R51). Plain data in the state settles it: the agenda lists the turns
to come. Where the agenda is empty, a policy of the model's own looks for a part that can act, so that the device goes on by itself. -/

namespace Sys2Proof.Machine

/-- After a step no agent is current, and no context is still to be lost (R420). -/
def settled (s : State) : State := { s with cur := .none }
def settleOut (o : Out) : Out :=
  match o with
  | .next s => .next (settled (settleStruck s))
  | .fault r => .fault r
  | .refused r => .refused r

/-- A word that a thread has at hand is executed; one that is no instruction raises `ILLEGAL` (R385). -/
def runWord (t : Nat) (p : State × Option (BitVec 32)) : Out :=
  match p with
  | (s, none) => .next s
  | (s, some w) =>
    match decodeControl w with
    | .ok i => exec i { s with cur := .thread t }
    | .error r => .next (notInstr s t r)
/-- An issue slot of a cluster (R316): the first thread that can issue fetches its next word and executes it; without one the slot is idle. A
thread that finds its queue full does not issue, and the slot goes to the next (R25). -/
def issueFrom : Nat → Nat → State → Out
  | 0, _, s => .next s
  | k + 1, c, s =>
    match nextThread s c with
    | none => .next s
    | some t =>
      match runWord t (issuePrep s t) with
      | .next r => if atFull r t then issueFrom k c (modCluster r c (fun x => { x with lastSlot := (clusterAt s c).lastSlot })) else .next r
      | o => o
def issueTurn (c : Nat) (s : State) : Out := issueFrom 16 c s
/-- A thread that is stalled at an instruction tries it again. -/
def retryTurn (t : Nat) (s : State) : Out := runWord t (retryPrep s t)

/-- What the surroundings do (R54, R409, R411, R419, R420, R442), and what firmware sets (R336, R358, R362, R373, R375). -/
def envStep (s : State) (e : Env) : State :=
  match e with
  | .damage c => if c < flashBase then { s with errs := setAdd (c / errSize c * errSize c) s.errs } else s
  | .damageCache c f n =>
    if (clusterAt s c).cache.contains (f, n) then modCluster s c (fun k => { k with cacheBad := (f, n) :: k.cacheBad.filter (· ≠ (f, n)) }) else s
  | .setAddress mac => { s with mac := mac % 2 ^ 48 }
  | .setRoutes ports => { s with routes := (List.range 256).map (fun d => ports.getD d 0 % 12) }
  | .setMembers members dev => modPower s (fun p => { p with dev := dev % 256, members := setDel (dev % 256) (members.foldl (fun l m => setAdd m l) []) })
  | .setLeads on => chooseParent { s with leads := on }
  | .ptpSend p peer => ptpSend s p peer
  | .raiseSvn v => { s with fw := { s.fw with minSvn := max s.fw.minSvn (v % 2 ^ 32) } }
  | .damageFlash p => { s with flashBad := setAdd p s.flashBad }
  | .healFlash p => { s with flashBad := setDel p s.flashBad }
  | .hitToken f a k t =>
    modForm s f (fun fm => { fm with arcs := listMod a (fun ar => { ar with toks := listMod k (fun u => { u with tok := t }) ar.toks }) fm.arcs })
  | .hitContext x code => if (ctxOf s x).isSome then hitContext s x code else s
  | .sticks site => { s with sticking := setAdd site s.sticking }

/-- What happens in a turn. -/
def runAct (a : Act) (s : State) : Out :=
  match a with
  | .issue c => issueTurn c s
  | .retry t => retryTurn t s
  | .fire f n => runNode f n s
  | .event i => exec i s
  | .env e => .next (envStep s e)
  | .idle => .next s

/-! The policy of an empty agenda (log 1). A turn of it lasts 1 ns. The groups of candidates below, and the members of a group, are tried
from a place that moves on with the time; the first candidate that changes the state is what happens. -/

/-- Something that could happen in a turn. -/
abbrev Candidate := State → Out

def rotate {α : Type} (k : Nat) (l : List α) : List α := l.drop (k % max 1 l.length) ++ l.take (k % max 1 l.length)

/-- The first candidate that changes the state, and what it comes to. -/
def firstMove (s : State) : List Candidate → Option State
  | [] => none
  | g :: gs =>
    match settleOut (g s) with
    | .next t => if t = s then firstMove s gs else some t
    | _ => firstMove s gs

/-- The issue slots of the clusters that have threads. -/
def issueCands (s : State) : List Candidate :=
  (rotate (s.now / 5) ((s.threads.map (fun t => t.1 / 16)).eraseDups.filter (fun c => decide (c < 64)))).map issueTurn

/-- What a thread waits for, and what it has posted. -/
def threadCands (s : State) : List Candidate :=
  (rotate (s.now / 5) ((s.threads.map (·.1)).filter (fun t => decide (t < 1024)))).flatMap (fun t =>
    [execCtLoadReply t, execStorePerform t 0, execSleepWake t, execAsyncTrapEntry t, retryTurn t])

/-- The units of a cluster. -/
def clusterCands (c : Nat) (k : Cluster) : List Candidate :=
  k.handles.map (fun h => execCopyPromiseExpire c h.1) ++
  k.units.flatMap (fun u => [execReservationRequest c u.1, execReservationGrant c u.1]) ++
  (List.range 4).flatMap (fun u => [execKStep c u, execMdrainExecute c u]) ++
  [execVectorStep c 4, execVectorStep c 5, execCopyAccept c 6, execCopyLand c 6, execCopyAccept c 7, execCopyLand c 7,
   execTopkExecute c, execPredrowsExecute c, execPrcheckExecute c, execGathExecute c, execScatExecute c]
def unitCands (s : State) : List Candidate :=
  (rotate (s.now / 5) s.clusters).flatMap (fun k => if k.2.units.isEmpty then [] else clusterCands k.1 k.2)

/-- A node of a formation, by its class. -/
def nodeCands (f : Nat) (fm : Form) (n : Nat) : List Candidate :=
  match fm.nodes[n]? with
  | none => []
  | some nd =>
    let own : List Candidate := match nd.cls with
      | 3 => [execLoopNConsume f n, execLoopEmit f n false, execLoopEmit f n true]
      | 4 => [execMatrixNodeFire f n]
      | 5 => [execSportSourceAccess f n, execSportSinkAccess f n]
      | 2 => [runNode f n]
      | _ => [execConfigWordLoad f n, runNode f n]
    own ++ nd.accs.flatMap (fun a => [execPageWalk false f n a.seq, execMemAccessReply f n a.seq, execSyOperationApply f n a.seq])
def arcCands (f : Nat) (a : Nat) (ar : Arc) : List Candidate := (List.range ar.toks.length).map (fun k => execArcHop f a k)
def formCands (s : State) : List Candidate :=
  (rotate (s.now / 5) s.forms).flatMap (fun p =>
    rotate (s.now / 5) ((List.range p.2.nodes.length).flatMap (nodeCands p.1 p.2) ++
      (p.2.arcs.zipIdx).flatMap (fun a => arcCands p.1 a.2 a.1)) ++
    [execFormationArm p.1, execDrainInject p.1, execTeardownComplete p.1, execPlaceFormation p.1 [] [] []])

/-- The command at the head of a queue, by its operation (R365). -/
def hostCands (q op : Nat) : List Candidate :=
  match op with
  | 0x01 => [execHostNop q] | 0x02 => [execHostLaunch q] | 0x03 => [execHostWaitev q] | 0x04 => [execHostSigev q]
  | 0x08 => [execHostMemrd q] | 0x09 => [execHostMemwr q] | 0x0A => [execHostXinv q] | 0x0B => [execHostSetmask q]
  | 0x10 => [execHostCtxnew q] | 0x11 => [execHostCtxdel q] | 0x12 => [execHostSuspend q] | 0x13 => [execHostResume q]
  | 0x14 => [execHostQset q] | 0x15 => [execHostQadd q] | 0x16 => [execHostPolicy q]
  | 0x18 => [execHostFlashrd q] | 0x19 => [execHostFlashwr q]
  | 0x20 => [execHostHalt q] | 0x21 => [execHostRelease q] | 0x22 => [execHostBreak q] | 0x23 => [execHostDump q]
  | 0x24 => [execHostHstat q] | 0x28 => [execHostCtrrd q] | 0x29 => [execHostTimestat q] | 0x2A => [execHostTraceset q]
  | 0x30 => [execHostPartset q] | 0x31 => [execHostLockmat q] | 0x32 => [execHostPeerwin q] | 0x33 => [execHostFnbind q]
  | 0x34 => [execHostPower q] | 0x38 => [execHostAttest q] | 0x3C => [execHostFwload q []] | 0x3D => [execHostReset q []]
  | _ => []
def queueCands (s : State) : List Candidate :=
  s.queues.flatMap (fun q => match q.2.cmds with
    | c :: _ => hostCands q.1 c.op
    | [] => [])
/-- A message of another device (R374). -/
def messageCands (k type : Nat) : List Candidate :=
  match type with
  | 1 => [execPeerRead k] | 2 => [execPeerReadReply k] | 3 => [execPeerWrite k] | 4 => [execPeerWriteAck k]
  | 5 => [execPeerAtomic k] | 6 => [execPeerAtomicReply k] | 7 => [execReelMessage k] | _ => [execPeerRefusal k]
def launchCands (s : State) : List Candidate :=
  s.launches.flatMap (fun l => execLaunchAdmit l.1 :: (List.range l.2.tasks.length).map (fun k => execThreadTaskDispatch l.1 k))
def fillCands (s : State) : List Candidate :=
  s.fills.flatMap (fun p => [execFillRingTake (p.1 / 0x8000000) (p.1 % 0x8000000), execFillComplete (p.1 / 0x8000000) (p.1 % 0x8000000)])
/-- The steps of the device as a whole. -/
def deviceCands (s : State) : List Candidate :=
  launchCands s ++ s.saves.map (fun v => execContextRestore v.1 [] [] [] []) ++ fillCands s ++ s.invals.map (fun v => execXinvDone v.1) ++ queueCands s ++
  s.inbox.flatMap (fun m => messageCands m.1 m.2.type) ++ s.ctxs.map (fun c => execSaveSeal c.1)

/-- Frozen parts that have been held too long (R405). -/
def holdCands (s : State) : List Candidate :=
  s.clusters.flatMap (fun k => k.2.units.map (fun u => execFaultHoldExpire true k.1 u.1 0)) ++
  s.forms.flatMap (fun f => (f.2.nodes.zipIdx).flatMap (fun nd =>
    (0xFFFFFFFF :: nd.1.accs.map (·.seq)).map (fun k => execFaultHoldExpire false f.1 nd.2 k)))
/-- Gapped sequence cells in the engines' SRAM (R435). -/
def gapCands (s : State) : List Candidate :=
  s.seqCells.flatMap (fun c => if sBase ≤ c.1 ∧ c.1 < flashBase then
    [execReductionGapped ((c.1 - sBase) / 0x1000000) ((c.1 - sBase) % 0x1000000)] else [])
/-- The steps that time brings about. -/
def timedCands (s : State) : List Candidate :=
  execArbiterPeriod [25, 25, 25, 25] :: execReelSend :: execReelShare ::
  (s.ctxs.flatMap (fun c => [execPolicyNotafter c.1, execSamplePeriod c.1, execDetectorSweep true c.1]) ++
   s.forms.map (fun f => execDetectorSweep false f.1) ++ s.requests.map (fun r => execPeerTimeout r.1) ++
   s.ports.map (fun p => execPeerFrameResend p.1) ++ holdCands s ++ gapCands s ++ s.parts.map (fun p => execTimeSliceDecision p.1))

/-- A turn where the agenda is empty. -/
def freeTurn (s : State) : Out :=
  let s := settled (passTime s 10)
  let groups := rotate s.now [issueCands s, threadCands s, unitCands s, formCands s, deviceCands s]
  .next ((firstMove s (timedCands s ++ groups.flatten)).getD s)

end Sys2Proof.Machine
end

