-- ==== Sys2Proof/Machine/Step.lean ====
section
/-! DEFINITION. One step of the machine, and where the next instruction stands. -/

namespace Sys2Proof.Machine

/-- One step: the next turn of the agenda, or a turn of the device's own (log 1). -/
def step (s : State) : Host.Outcome State Fault Refusal :=
  match s.agenda with
  | [] => freeTurn s
  | t :: rest => settleOut (runAct t.act (passTime { s with agenda := rest } t.elapsed))

/-! A word at the place from which the next step takes its instruction (log 1). The program is loaded from outside, as by a host: partition 0
holds the first GiB of memory, context 0 maps it at virtual address 0, and a control word lies at 0x10000, the pc of thread 0. A word
that is no control word is that of the only node of formation 0, which stands armed with a DATA 0 at every input. -/

/-- The partition of the first cluster and the first GiB. -/
def loadPart : Part := { clusters := 1, rangesList := [(0, 1)], fbase := 0, fcount := 0, peers := 0, bwshare := 0, flags := 0, lockMatrix := 0 }
/-- The context, whose page table lies at 0. -/
def loadCtx (s : State) : Ctx := { newCtx s.now [] [] with masks := defaultMasks, initMasks := defaultMasks }
/-- A table of the tree at 0x2000, one at 0x4000, and a page of 1 GiB at 0 with every permission (R104, R105). -/
def loadTree (s : State) : State :=
  let put (s : State) (pa e : Nat) : State := memStore s (hbmCell defaultMasks pa) (leBytes e 16) false
  put (put (put s 0 0x2001) 0x2000 0x4001) 0x4000 0xBA
def loadCtxOf (s : State) : State :=
  loadTree { s with parts := tblSet 0 loadPart s.parts, ctxs := tblSet 0 (loadCtx s) s.ctxs }

/-- Thread 0 with its pc at the word. -/
def loadThread (s : State) (w : BitVec 32) : State :=
  let th : Thread :=
    { ctx := 0, launch := 0, task := 0, regs := [], pc := 0x10000, status := 0, cause := 0, epc := 0, tvec := 0, evaddr := 0, escratch := 0,
      spillov := 0, spillsz := 0, prio := 0, prioCap := 0, setid := 0xFFFF, txnOwner := .thread 0, masks := defaultMasks, icnt := 0,
      wait := .none, asyncs := [], woundDue := false, posted := [], armed := [], openForms := [], life := .running, failTask := false,
      halts := [], barwHeld := [], peek := none, slotSince := s.now, word := 0, ifetch := none }
  let s := memStore s (hbmCell defaultMasks 0x10000) (leBytes w.toNat 4) false
  { modCluster s 0 (fun k => { k with bound := some 0, lastSlot := 15 }) with threads := tblSet 0 th s.threads, agenda := ⟨0, .issue 0⟩ :: s.agenda }

/-- An input of the node with a DATA 0 standing: of an arc, or of a loop-control unit's lane. -/
def loadArc (p fp : Nat) (lane : Bool) : Arc := ⟨1, fp, 0, p, 1, lane, [], [⟨dataTok false 0, 1, 0⟩], 0, [], []⟩
/-- Formation 0 with the word in its only node, of class `cls`. -/
def loadNode (s : State) (cls : Nat) (w : BitVec 32) : State :=
  let nd : Node :=
    { num := 0, cls := cls, memSwap := false, shadowIdx := none, overlay := none, word := w, shadow := w, slot := 0, slotShadow := 0, ii := 0, loop := some 1,
      loopShadow := some 1, loops := [], wher := 0, sel := false, asked := true, loaded := true, blocked := false, chase := dataTok false 0,
      grp := none, carry := .open_, slots := [], turn := 0, idx := .none, last := .none, idxGiven := [], lastGiven := [], cur := none,
      accs := [], began := 0, ops := 0, inj := [], fires := 0, lastFire := none, passed := false, eos := false, drained := false, marked := false,
      fetch := none, kept := [], held := [], offer := [], conds := [] }
  let fm := newForm s 0 0 0 0 none none 0 0 [] 0
  let arcs := [0, 1, 2].flatMap (fun p => [loadArc p 0 false, loadArc p 0 true, loadArc p 1 true])
  { s with forms := tblSet 0 { fm with phase := .armed, nodes := [nd], arcs := arcs } s.forms, agenda := ⟨0, .fire 0 0⟩ :: s.agenda }

/-- The state with an instruction where the next step takes it from; `w` is numbered as the opcode table numbers it. -/
def State.withFetchWord (s : State) (nbits w : Nat) : State :=
  let s := loadCtxOf s
  if nbits = 16 then loadNode s 2 (BitVec.ofNat 32 (w % 65536))
  else
    match decodeControl (BitVec.ofNat 32 w) with
    | .ok _ => loadThread s (BitVec.ofNat 32 w)
    | .error _ => loadNode s (if (BitVec.ofNat 32 w).getLsbD 31 then 1 else 0) (BitVec.ofNat 32 w)

end Sys2Proof.Machine
end

