-- ==== Sys2Proof/Safety.lean ====
section
/-! DEFINITION. The terms that the statements about single steps use: the thread or node whose turn it is, the state after an
instruction has completed, and what a completion may not touch. -/

namespace Sys2Proof.Machine

/-- It is the turn of thread `t`, which is `th`. -/
def Running (s : State) (t : Nat) (th : Thread) : Prop := s.cur = .thread t ∧ tblGet t s.threads = some th

/-- An instruction of thread `t` has completed: the thread is `th` with its pc at `pc`, waiting for nothing, with one more
instruction in `icnt`, and the context has counted the instruction (R174, R197, R360). -/
def completedAt (s : State) (t : Nat) (th : Thread) (pc : Word) : State :=
  countInstr { s with threads := tblSet t { th with pc := pc, wait := .none, icnt := th.icnt + 1 } s.threads } th.ctx

/-- The same with the pc at the next instruction. -/
def completed (s : State) (t : Nat) (th : Thread) : State := completedAt s t th (th.pc + 4)

/-- The same with a result in a general register. -/
def resulted (s : State) (t : Nat) (th : Thread) (d : BitVec 5) (v : Word) : State := completed s t (regSet th d v)

/-- The thread has issued and waits at its instruction; nothing else of it has changed (R174). -/
def waiting (s : State) (t : Nat) (th : Thread) (w : Wait) : State := { s with threads := tblSet t { th with wait := w } s.threads }

/-- Counting one more instruction of a context does not use up its quota (R360). -/
def Funded (s : State) (x : Nat) : Prop :=
  match ctxOf s x with
  | none => True
  | some c => c.quotaOn = false ∨ c.quota ≤ 0 ∨ 256 < c.quota ∨ (c.paid + 1) % 1024 ≠ 0

/-- Control words of the six forms (R160). -/
def wordA (major : BitVec 6) (d a b : BitVec 5) (minor : BitVec 11) : BitVec 32 := major ++ d ++ a ++ b ++ minor
def wordB (major : BitVec 6) (d a : BitVec 5) (imm : BitVec 16) : BitVec 32 := major ++ d ++ a ++ imm
def wordC (major : BitVec 6) (a b : BitVec 5) (off : BitVec 16) : BitVec 32 := major ++ a ++ b ++ off
def wordD (major : BitVec 6) (off : BitVec 26) : BitVec 32 := major ++ off
def wordE (major target : BitVec 6) (a b : BitVec 5) (minor : BitVec 10) : BitVec 32 := major ++ target ++ a ++ b ++ minor
def wordF (code : BitVec 10) (a : BitVec 5) (minor : BitVec 11) : BitVec 32 := 0x3F#6 ++ code ++ a ++ minor

/-- The control word `w` is the instruction `i`, and executing it in `s` gives `s'`. -/
def Runs (w : BitVec 32) (i : Instr) (s s' : State) : Prop := decodeControl w = .ok i ∧ exec i s = .next s'

/-- Command `c` has joined the queue of unit `u` of a cluster (R25, R209). -/
def queued (s : State) (cl u : Nat) (c : Cmd) : State := setQueue s cl u { unitAt s cl u with queue := (unitAt s cl u).queue ++ [c] }

/-- The instruction `i` issues command `c` to unit `u` of its thread's cluster (R209, R389): refused for a reason other than 0 it
raises ISSUE with that reason; while the unit holds eight commands the thread stalls; otherwise the command is queued, `after` is done
(a claim of a handle), and the instruction completes. -/
def Issues (i : Instr) (s : State) (t : Nat) (th : Thread) (u reason : Nat) (c : Cmd) (after : State → State) : Prop :=
  (reason ≠ 0 → exec i s = .next (raiseTrap s t ⟨6, reason, 0⟩)) ∧
  (reason = 0 → 8 ≤ (unitCmds (unitAt s (clusterOf t) u)).length → exec i s = .next (waiting s t th (.full (.unit u)))) ∧
  (reason = 0 → (unitCmds (unitAt s (clusterOf t) u)).length < 8 →
    exec i s = .next (completed (after (queued s (clusterOf t) u c)) t th))

/-- The thread can read a descriptor of `n` bytes at the scratchpad address `a`, and its bytes are `bs` (R210): aligned, within the
scratchpad, in no carve-out, with no own store to it still posted, and with no poison. -/
def DescAt (s : State) (t : Nat) (th : Thread) (a : Word) (n : Nat) (bs : List Byte) : Prop :=
  let c := scratchpadCell (clusterOf t) a.toNat
  a.toNat % n = 0 ∧ a.toNat < 0x80000 ∧ inCarve s (clusterOf t) a.toNat n none = false ∧ postedOn th c n = false ∧
  (memRead s c n).2 = ⟨bs, 0⟩

/-- The machine's memory has its canonical form, holds no poison and no error, and nothing waits on one of its words. -/
def Sound (s : State) : Prop := Memory.wf s.cells = true ∧ s.errs = [] ∧ s.marks = [] ∧ s.wordWaits = []

/-- An access at `va` of context `x` is served on this device, at target `t`: its walk succeeds and leaves the machine as it is, as one does
that has been made before (R104, R107, R108). -/
def Lies (s : State) (x : Nat) (need : Need) (va : Nat) (t : Target) : Prop :=
  va < 2 ^ 57 ∧ translate s x va need = (s, .ok t) ∧ t.peer = false

/-- It is the turn of node `n` of formation `f`; they are `nd` and `fm`. -/
def AtNode (s : State) (f : Nat) (fm : Form) (n : Nat) (nd : Node) : Prop :=
  s.cur = .node f n ∧ formAt s f = some fm ∧ fm.nodes[n]? = some nd

/-- An element has fired (R278, R280, R342): the firing is measured and counted, the tokens `ins`, each with its port and source, are
consumed, `t` is emitted on its output, the node is left as the emission leaves it with the group state `grp`, and a formation whose
last node DRAIN has passed ends. -/
def fired (s : State) (f : Nat) (fm : Form) (n : Nat) (w : BitVec 32) (ins : List ((Nat × Nat) × Flit)) (t : Tok)
    (grp : Option (BitVec 320 × Bool)) : State :=
  let s := noteFiring s f n (ins.map (fun i => (i.1.1, i.2))) [0]
  let took (fm : Form) : Form := ins.foldl (fun fm i => takeAt s.tenths fm n i.1.1 i.1.2) fm
  settleDrain (countEmitted (modForm s f (fun fm => modNode (emitOn s.tenths (took fm) n 0 t) n (afterEmit w grp t))) fm.ctx t) f

/-- Command `c`, of operation `op`, stands at the head of host queue `q`, its header good (R363, R364). -/
def HeadCommand (s : State) (q op : Nat) (c : HostCmd) : Prop :=
  (queueAt s q).cmds.head? = some c ∧ c.op = op ∧ badCmd c = false

/-- The command at the head of queue `q` has completed with a status and a body, in its own context (R364, R366). -/
def Completes (i : Instr) (s s' : State) (q : Nat) (c : HostCmd) (status : Nat) (body : List Byte) : Prop :=
  exec i s = .next (finishCmd s' q c status c.ctx body)

/-- The command at the head of queue `q` goes on later. -/
def GoesOn (i : Instr) (s s' : State) (q : Nat) (c : HostCmd) (stage note : Nat) : Prop :=
  exec i s = .next (putQueue s' q { queueAt s' q with cmds := { c with stage := stage, note := note } :: (queueAt s' q).cmds.tail })

/-- The command at the head of queue `q` is refused with the status of the first of the conditions that holds, with no other effect; where
none does, `ok` (R366). -/
def Checked (i : Instr) (s : State) (q : Nat) (c : HostCmd) : List (Nat × Prop) → Prop → Prop
  | [], ok => ok
  | (status, p) :: rest, ok => (p → Completes i s s q c status []) ∧ (¬p → Checked i s q c rest ok)

end Sys2Proof.Machine
end

