-- ==== Sys2Proof/Certificates/Slice0/Obligations.lean ====
section
/-! DEFINITION. The statements of this model, for the provers. A statement says of every instruction it names, under hypotheses on
the state and the operands alone, that `exec` answers the next state that the spec gives. -/

open Sys2Proof Sys2Proof.Machine

/-- R173: the 32 general registers. -/
def Obligations.GeneralRegisters : Prop :=
  ∀ (th : Thread) (d k : BitVec 5) (v : Word),
    regGet th 0 = 0 ∧ regSet th 0 v = th ∧
    (d ≠ 0 → regGet (regSet th d v) d = v) ∧ (k ≠ d → regGet (regSet th d v) k = regGet th k) ∧
    { regSet th d v with regs := th.regs } = th

/-- R174, R197, R360: the frame of every completion that the other statements write as `completed` or `resulted`. R360, R437, R348. -/
def Obligations.InstructionCompletion : Prop :=
  (∀ (s : State) (t : Nat) (th : Thread) (pc : Word), tblGet t s.threads = some th →
     let s' := completedAt s t th pc
     s'.threads = tblSet t { th with pc := pc, wait := .none, icnt := th.icnt + 1 } s.threads ∧
     (Funded s th.ctx →
       s' = { s with
         threads := tblSet t { th with pc := pc, wait := .none, icnt := th.icnt + 1 } s.threads,
         ctxs := tblMod th.ctx (fun c => { c with
           instrs := c.instrs + 1,
           paid := if c.quotaOn ∧ 0 < c.quota then c.paid + 1 else c.paid,
           quota := if c.quotaOn ∧ 0 < c.quota ∧ (c.paid + 1) % 1024 = 0 then c.quota - 256 else c.quota }) s.ctxs } ∧
       ∀ a, cellGet a s'.cells = cellGet a s.cells)) ∧
  (∀ (s : State) (t : Nat) (th : Thread) (pc : Word) (c : Ctx), tblGet t s.threads = some th → ctxOf s th.ctx = some c →
     c.quotaOn = true → 0 < c.quota → c.quota ≤ 256 → (c.paid + 1) % 1024 = 0 →
     let x := th.ctx
     let s1 := { s with
       threads := tblSet t { th with pc := pc, wait := .none, icnt := th.icnt + 1 } s.threads,
       ctxs := tblSet x { c with instrs := c.instrs + 1, paid := c.paid + 1, quota := c.quota - 256 } s.ctxs }
     let s2 := signalNotice (writeRecord s1 x { plainRecord 0x29 1 7 with detail := (BitVec.ofInt 64 (c.quota - 256)).toNat }) x
     let s' := completedAt s t th pc
     s' = (if haltsInForce s x then modCtx s2 x (fun c => { c with quotaHold := true }) else beginPreempt s2 x) ∧
     (haltsInForce s x = false → c.phase = .running →
       ∃ c2, ctxOf s' x = some c2 ∧ c2.phase = .stopping ∧ c2.quota = c.quota - 256))

/-- R176, R198, R199: the entry of a synchronous trap, and the end of a thread that cannot take it. R176, R383, R431, R432, R433: an asynchronous trap raised, and entered at an instruction boundary or in a wait; the word 0 of its record is
the model's (log 46). -/
def Obligations.TrapEntries : Prop :=
  (∀ (s : State) (t : Nat) (th : Thread) (tr : Trap), tblGet t s.threads = some th → tr.code < 2 ^ 16 →
     let cause : Word := 0#1 ++ 0#15 ++ BitVec.ofNat 16 tr.detail ++ 0#16 ++ BitVec.ofNat 16 tr.code
     (th.status.getLsbD 0 = false → th.tvec ≠ 0 →
       raiseTrap s t tr = { s with
         threads := tblSet t { th with
         epc := th.pc &&& 0x01FFFFFFFFFFFFFC#64, cause := cause, evaddr := BitVec.ofNat 64 tr.evaddr,
         status := (if th.asyncs = [] then 1 else 3), pc := th.tvec, wait := .none, ifetch := none } s.threads }) ∧
     (th.status.getLsbD 0 = true ∨ th.tvec = 0 →
       raiseTrap s t tr = stopThread (writeRecord s th.ctx { plainRecord 0x20 0 0 with
         launch := th.launch, task := th.task, node := t, wher := clusterOf t, word := th.word, addr := tr.evaddr,
         detail := cause.toNat, pc := th.pc.toNat }) t true)) ∧
  (∀ (s : State) (t : Nat) (th : Thread), tblGet t s.threads = some th → th.life = .running →
     (∀ code detail, raiseAsync s t code detail = { s with
         threads := tblSet t { th with
       asyncs := th.asyncs ++ [⟨code, detail⟩],
       status := (if th.status.getLsbD 0 then 3 else 0) } s.threads }) ∧
     (th.status.getLsbD 0 = true → exec (.asyncTrapEntry t) s = .next s) ∧
     (∀ a rest c, th.asyncs = a :: rest → th.status.getLsbD 0 = false → th.halts = [] → ctxOf s th.ctx = some c → c.phase = .running →
       a.code < 2 ^ 16 →
       let cause : Word := 1#1 ++ 0#15 ++ BitVec.ofNat 16 a.detail ++ 0#16 ++ BitVec.ofNat 16 a.code
       let enters (s1 : State) (th1 : Thread) : Prop :=
         (th.tvec ≠ 0 → exec (.asyncTrapEntry t) s = .next { s1 with
           threads := tblSet t { th1 with
           asyncs := rest, wait := .none, ifetch := none, epc := th.pc &&& 0x01FFFFFFFFFFFFFC#64,
           cause := cause, evaddr := 0, status := (if rest = [] then 1 else 3), pc := th.tvec } s.threads }) ∧
         (th.tvec = 0 → exec (.asyncTrapEntry t) s = .next (stopThread (writeRecord
           { s1 with threads := tblSet t { th1 with asyncs := rest, wait := .none } s.threads } th.ctx { plainRecord 0x20 0 0 with
             launch := th.launch, task := th.task, node := t, wher := clusterOf t, word := 0, addr := 0,
             detail := cause.toNat, pc := th.pc.toNat }) t true))
       let mine (w : Waiter) : Bool := match w.who with
         | .thread u _ => u == t
         | _ => false
       ((th.wait = .none ∨ th.wait = .retry ∨ (∃ u, th.wait = .sleep u) ∨ (∃ h, th.wait = .handle h) ∨ (∃ q, th.wait = .full q) ∨
         (∃ k p, th.wait = .arrive k p) ∨ ∃ k p g, th.wait = .phase k p false g) → enters s th) ∧
       (∀ k p g, th.wait = .phase k p true g →
         enters s { th with barwHeld := (th.pc.toNat, k, p) :: th.barwHeld.filter (fun e => !decide (e.1 = th.pc.toNat ∧ e.2.1 = k)) }) ∧
       (∀ c sp ad, th.wait = .word c sp ad → enters { s with
         wordWaits := (s.wordWaits.map (fun p => (p.1, p.2.filter (fun w => !mine w)))).filter (fun p => !p.2.isEmpty) } th) ∧
       (∀ k, th.wait = .xinv k → enters { s with invals := tblDel k s.invals } th) ∧
       (∀ p d ad since, th.wait = .fill p d ad since → enters (addCounter s th.ctx 0x80 (s.now - since)) th) ∧
       (∀ n, th.wait = .kstep n → enters (dropMarkers s t) th) ∧
       (∀ w g, th.wait = .lock w g → itemFits s (findItem s th.ctx w) = true → th.tvec ≠ 0 → ∃ s' th',
         exec (.asyncTrapEntry t) s = .next s' ∧ tblGet t s'.threads = some th' ∧ th'.pc = th.tvec ∧ th'.wait = .none ∧
         th'.epc = th.pc &&& 0x01FFFFFFFFFFFFFC#64 ∧ th'.cause = cause ∧ th'.evaddr = 0 ∧ th'.regs = th.regs ∧
         (∀ r ∈ (findItem s' th.ctx w).queue, r.tid ≠ t)) ∧
       ((∃ l n x d p v, th.wait = .load l n x d p v) ∨ (∃ k, th.wait = .peer k) → exec (.asyncTrapEntry t) s = .next s)) ∧
     (∀ u, u < 4 → (unitAt (dropMarkers s t) (clusterOf t) u).queue.map (·.word) =
       ((unitAt s (clusterOf t) u).queue.filter (fun k => !(isMarker k && k.tid == t))).map (·.word)) ∧
     (∀ c, ctxOf s th.ctx = some c → c.phase ≠ .running → exec (.asyncTrapEntry t) s = .next s))

/-- R177: the words of major 0x01 and what they write to `gd`; R178: the quotients and remainders, over exact integers. -/
def Obligations.IntegerArithmetic : Prop :=
  ∀ (s : State) (t : Nat) (th : Thread) (d a b : BitVec 5), Running s t th →
    let x := regGet th a
    let y := regGet th b
    let n := (y.extractLsb' 0 6).toNat
    let xs := x.toInt
    let ys := y.toInt
    let xu : Int := x.toNat
    let yu : Int := y.toNat
    let qs : Int := if ys = 0 then (if xs = 0 then 0 else if 0 < xs then 2 ^ 63 - 1 else -(2 ^ 63))
      else if xs = -(2 ^ 63) ∧ ys = -1 then 2 ^ 63 - 1 else xs.tdiv ys
    let rs : Int := if ys = 0 ∨ (xs = -(2 ^ 63) ∧ ys = -1) then 0 else xs - xs.tdiv ys * ys
    let qu : Int := if yu = 0 then (if xu = 0 then 0 else 2 ^ 64 - 1) else xu / yu
    let ru : Int := if yu = 0 then 0 else xu - xu / yu * yu
    Runs (wordA 0x01 d a b 0x000) (.add d a b) s (resulted s t th d (x + y)) ∧
    Runs (wordA 0x01 d a b 0x001) (.sub d a b) s (resulted s t th d (x - y)) ∧
    Runs (wordA 0x01 d a b 0x002) (.mul d a b) s (resulted s t th d (BitVec.ofInt 64 (x.toInt * y.toInt))) ∧
    Runs (wordA 0x01 d a b 0x003) (.mulhs d a b) s
      (resulted s t th d ((x.signExtend 128 * y.signExtend 128).extractLsb' 64 64)) ∧
    Runs (wordA 0x01 d a b 0x004) (.mulhn d a b) s
      (resulted s t th d ((x.zeroExtend 128 * y.zeroExtend 128).extractLsb' 64 64)) ∧
    Runs (wordA 0x01 d a b 0x005) (.divs d a b) s (resulted s t th d (BitVec.ofInt 64 qs)) ∧
    Runs (wordA 0x01 d a b 0x006) (.divn d a b) s (resulted s t th d (BitVec.ofInt 64 qu)) ∧
    Runs (wordA 0x01 d a b 0x007) (.rems d a b) s (resulted s t th d (BitVec.ofInt 64 rs)) ∧
    Runs (wordA 0x01 d a b 0x008) (.remn d a b) s (resulted s t th d (BitVec.ofInt 64 ru)) ∧
    (0 < rs → 0 < xs) ∧ (rs < 0 → xs < 0) ∧
    Runs (wordA 0x01 d a b 0x010) (.and d a b) s (resulted s t th d (x &&& y)) ∧
    Runs (wordA 0x01 d a b 0x011) (.or d a b) s (resulted s t th d (x ||| y)) ∧
    Runs (wordA 0x01 d a b 0x012) (.xor d a b) s (resulted s t th d (x ^^^ y)) ∧
    Runs (wordA 0x01 d a b 0x013) (.andn d a b) s (resulted s t th d (x &&& ~~~y)) ∧
    Runs (wordA 0x01 d a b 0x018) (.shl d a b) s (resulted s t th d (x <<< n)) ∧
    Runs (wordA 0x01 d a b 0x019) (.shr d a b) s (resulted s t th d (x >>> n)) ∧
    Runs (wordA 0x01 d a b 0x01A) (.sar d a b) s (resulted s t th d (BitVec.ofInt 64 (x.toInt / 2 ^ n))) ∧
    Runs (wordA 0x01 d a b 0x01B) (.rotl d a b) s (resulted s t th d ((x <<< n) ||| (x >>> (64 - n)))) ∧
    Runs (wordA 0x01 d a b 0x020) (.mins d a b) s (resulted s t th d (if x.toInt ≤ y.toInt then x else y)) ∧
    Runs (wordA 0x01 d a b 0x021) (.maxs d a b) s (resulted s t th d (if x.toInt ≤ y.toInt then y else x)) ∧
    Runs (wordA 0x01 d a b 0x022) (.minn d a b) s (resulted s t th d (if x.toNat ≤ y.toNat then x else y)) ∧
    Runs (wordA 0x01 d a b 0x023) (.maxn d a b) s (resulted s t th d (if x.toNat ≤ y.toNat then y else x))

/-- R179: the compares, over the signed and unsigned values, and the select. -/
def Obligations.ComparesAndSelect : Prop :=
  ∀ (s : State) (t : Nat) (th : Thread) (d a b : BitVec 5), Running s t th →
    let x := regGet th a
    let y := regGet th b
    Runs (wordA 0x02 d a b 0x000) (.ceq d a b) s (resulted s t th d (if x = y then 1 else 0)) ∧
    Runs (wordA 0x02 d a b 0x001) (.cne d a b) s (resulted s t th d (if x ≠ y then 1 else 0)) ∧
    Runs (wordA 0x02 d a b 0x002) (.clt d a b) s (resulted s t th d (if x.toInt < y.toInt then 1 else 0)) ∧
    Runs (wordA 0x02 d a b 0x003) (.cltn d a b) s (resulted s t th d (if x.toNat < y.toNat then 1 else 0)) ∧
    Runs (wordA 0x02 d a b 0x004) (.cge d a b) s (resulted s t th d (if y.toInt ≤ x.toInt then 1 else 0)) ∧
    Runs (wordA 0x02 d a b 0x005) (.cgen d a b) s (resulted s t th d (if y.toNat ≤ x.toNat then 1 else 0)) ∧
    Runs (wordA 0x02 d a b 0x010) (.csel d a b) s (resulted s t th d (if regGet th d ≠ 0 then x else y))

/-- R180, bit by bit. -/
def Obligations.BitFields : Prop :=
  ∀ (s : State) (t : Nat) (th : Thread) (d a b : BitVec 5), Running s t th →
    let x := regGet th a
    let y := regGet th b
    let old := regGet th d
    let pos := (y.extractLsb' 0 6).toNat
    let e := min (y.extractLsb' 8 7).toNat (64 - pos)
    (∃ n : Nat, n ≤ 64 ∧ (∀ j, j < 64 → 64 - n ≤ j → x.getLsbD j = false) ∧ (n < 64 → x.getLsbD (63 - n) = true) ∧
      Runs (wordA 0x03 d a 0 0x000) (.clz d a) s (resulted s t th d (BitVec.ofNat 64 n))) ∧
    (∃ n : Nat, n ≤ 64 ∧ (∀ j, j < n → x.getLsbD j = false) ∧ (n < 64 → x.getLsbD n = true) ∧
      Runs (wordA 0x03 d a 0 0x001) (.ctz d a) s (resulted s t th d (BitVec.ofNat 64 n))) ∧
    Runs (wordA 0x03 d a 0 0x002) (.popc d a) s
      (resulted s t th d (BitVec.ofNat 64 ((List.range 64).filter (fun j => x.getLsbD j)).length)) ∧
    (∃ v : Word, (∀ j, j < 64 → v.getLsbD j = x.getLsbD (63 - j)) ∧
      Runs (wordA 0x03 d a 0 0x003) (.brev d a) s (resulted s t th d v)) ∧
    (∃ v : Word, (∀ j, j < 8 → v.extractLsb' (8 * j) 8 = x.extractLsb' (8 * (7 - j)) 8) ∧
      Runs (wordA 0x03 d a 0 0x004) (.bswap d a) s (resulted s t th d v)) ∧
    (∃ v : Word, (∀ j, j < 64 → v.getLsbD j = (decide (j < e) && x.getLsbD (pos + j))) ∧
      Runs (wordA 0x03 d a b 0x008) (.extu d a b) s (resulted s t th d v)) ∧
    (∃ v : Word, (∀ j, j < 64 → v.getLsbD j = (decide (0 < e) && x.getLsbD (pos + min j (e - 1)))) ∧
      Runs (wordA 0x03 d a b 0x009) (.exts d a b) s (resulted s t th d v)) ∧
    (∃ v : Word, (∀ j, j < 64 → v.getLsbD j = if pos ≤ j ∧ j < pos + e then x.getLsbD (j - pos) else old.getLsbD j) ∧
      Runs (wordA 0x03 d a b 0x00A) (.ins d a b) s (resulted s t th d v))

/-- R181 and R182. -/
def Obligations.ImmediatesAndShifts : Prop :=
  ∀ (s : State) (t : Nat) (th : Thread) (d a : BitVec 5) (i : BitVec 16) (n : BitVec 6), Running s t th →
    let x := regGet th a
    Runs (wordB 0x04 d a i) (.addk d a i) s (resulted s t th d (x + i.signExtend 64)) ∧
    Runs (wordB 0x05 d a i) (.andk d a i) s (resulted s t th d (x &&& i.zeroExtend 64)) ∧
    Runs (wordB 0x06 d a i) (.ork d a i) s (resulted s t th d (x ||| i.zeroExtend 64)) ∧
    Runs (wordB 0x07 d a i) (.xork d a i) s (resulted s t th d (x ^^^ i.zeroExtend 64)) ∧
    Runs (wordB 0x08 d a i) (.cltk d a i) s (resulted s t th d (if x.toInt < i.toInt then 1 else 0)) ∧
    Runs (wordB 0x09 d a i) (.cltnk d a i) s (resulted s t th d (if x.toNat < (i.signExtend 64).toNat then 1 else 0)) ∧
    Runs (wordB 0x0A d 0 i) (.hik d i) s (resulted s t th d ((i ++ 0#16).signExtend 64)) ∧
    Runs (wordA 0x0B d a 0 (0#3 ++ 0#2 ++ n)) (.shlk d a n) s (resulted s t th d (x <<< n.toNat)) ∧
    Runs (wordA 0x0B d a 0 (1#3 ++ 0#2 ++ n)) (.shrk d a n) s (resulted s t th d (x >>> n.toNat)) ∧
    Runs (wordA 0x0B d a 0 (2#3 ++ 0#2 ++ n)) (.sark d a n) s (resulted s t th d (BitVec.ofInt 64 (x.toInt / 2 ^ n.toNat))) ∧
    Runs (wordA 0x0B d a 0 (3#3 ++ 0#2 ++ n)) (.rotlk d a n) s
      (resulted s t th d ((x <<< n.toNat) ||| (x >>> (64 - n.toNat))))

/-- R183 to R185: the words of majors 0x0C and 0x0D; `rnd` is the rounding of R78 and `fill64` the fill of R79. -/
def Obligations.ScalarFloat : Prop :=
  ∀ (s : State) (t : Nat) (th : Thread) (d a b : BitVec 5) (f x y : BitVec 4) (r : BitVec 2) (st : BitVec 1), Running s t th →
    let bits (k : Fmt) (g : BitVec 5) : Nat := (regGet th g).toNat % 2 ^ fmtWidth k
    let m := rndOfCode r.toNat
    let trap := raiseTrap s t ⟨1, 4, 0⟩
    (∀ dst src, fmtOfCode x.toNat = some dst → fmtOfCode y.toNat = some src →
      Runs (wordA 0x0C d a 0 (x ++ y ++ r ++ st)) (.cvt d a x y r st) s
        (resulted s t th d (fill64 dst (convert src dst m (decide (st = 1)) (bits src a))))) ∧
    (12 ≤ x.toNat ∨ 12 ≤ y.toNat → exec (.cvt d a x y r st) s = .next trap) ∧
    (∀ k, fmtOfCode f.toNat = some k → (k = .bf16 ∨ k = .f16 ∨ k = .f32) →
      let u := fmtVal k (bits k a)
      let v := fmtVal k (bits k b)
      let w := fmtVal k (bits k d)
      let word (op : BitVec 5) (g : BitVec 5) (q : BitVec 2) : BitVec 32 := wordA 0x0D d a g (op ++ f ++ q)
      let gives (e : XVal) : State := resulted s t th d (fill64 k (rnd k m false e))
      let pattern (p : Nat) : State := resulted s t th d (fill64 k p)
      Runs (word 0 b r) (.fadd d a b f r) s (gives (xAdd m u v)) ∧
      Runs (word 1 b r) (.fsub d a b f r) s (gives (xAdd m u (xNegate v))) ∧
      Runs (word 2 b r) (.fmul d a b f r) s (gives (xMul u v)) ∧
      Runs (word 3 b r) (.fdiv d a b f r) s (gives (xDiv u v)) ∧
      Runs (word 4 b r) (.fmac d a b f r) s (gives (xAdd m w (xMul u v))) ∧
      Runs (word 5 0 r) (.fsqrt d a f r) s (gives (xSqrt u)) ∧
      Runs (word 6 b 0) (.fmin d a b f) s (pattern (floatMinMax k false (bits k a) (bits k b))) ∧
      Runs (word 7 b 0) (.fmax d a b f) s (pattern (floatMinMax k true (bits k a) (bits k b))) ∧
      Runs (word 8 0 0) (.fabs d a f) s (pattern (floatAbs k (bits k a))) ∧
      Runs (word 9 0 0) (.fneg d a f) s (pattern (floatNeg k (bits k a))) ∧
      Runs (word 10 b 0) (.feq d a b f) s (resulted s t th d (if xEq u v then 1 else 0)) ∧
      Runs (word 11 b 0) (.flt d a b f) s (resulted s t th d (if xLt u v then 1 else 0)) ∧
      Runs (word 12 b 0) (.fle d a b f) s (resulted s t th d (if xLt u v ∨ xEq u v then 1 else 0))) ∧
    (f.toNat < 6 ∨ 8 < f.toNat →
      exec (.fadd d a b f r) s = .next trap ∧ exec (.fsub d a b f r) s = .next trap ∧ exec (.fmul d a b f r) s = .next trap ∧
      exec (.fdiv d a b f r) s = .next trap ∧ exec (.fmac d a b f r) s = .next trap ∧ exec (.fsqrt d a f r) s = .next trap ∧
      exec (.fmin d a b f) s = .next trap ∧ exec (.fmax d a b f) s = .next trap ∧ exec (.fabs d a f) s = .next trap ∧
      exec (.fneg d a f) s = .next trap ∧ exec (.feq d a b f) s = .next trap ∧ exec (.flt d a b f) s = .next trap ∧
      exec (.fle d a b f) s = .next trap)

/-- R186, over patterns: `fmtVal` reads one, `rnd` writes one; `nanOf` and `infOf` are the patterns of R82 and R83. -/
def Obligations.FloatSpecialOperands : Prop :=
  ∀ (k : Fmt) (m : Rnd) (p q : Nat), (k = .bf16 ∨ k = .f16 ∨ k = .f32) → p < 2 ^ fmtWidth k → q < 2 ^ fmtWidth k →
    let x := fmtVal k p
    let y := fmtVal k q
    let put (e : XVal) : Nat := rnd k m false e
    let sign (b : Nat) : Bool := decide (2 ^ (fmtWidth k - 1) ≤ b)
    let zero (b : Nat) : Prop := b % 2 ^ (fmtWidth k - 1) = 0
    let inf (b : Nat) : Prop := b = infOf k (sign b)
    let nan (b : Nat) : Prop := infOf k false < b % 2 ^ (fmtWidth k - 1)
    let finite (b : Nat) : Prop := ¬ nan b ∧ ¬ inf b
    (nan p ∨ nan q → put (xAdd m x y) = nanOf k ∧ put (xAdd m x (xNegate y)) = nanOf k ∧ put (xMul x y) = nanOf k ∧
      put (xDiv x y) = nanOf k ∧ ∀ z, put (xAdd m z (xMul x y)) = nanOf k) ∧
    (nan p → put (xSqrt x) = nanOf k ∧ floatAbs k p = nanOf k ∧ floatNeg k p = nanOf k ∧
      ∀ u v, put (xAdd m x (xMul u v)) = nanOf k) ∧
    (inf p → inf q → sign p = sign q → put (xAdd m x (xNegate y)) = nanOf k) ∧
    (inf p → inf q → sign p ≠ sign q → put (xAdd m x y) = nanOf k) ∧
    (zero p → inf q → put (xMul x y) = nanOf k ∧ put (xMul y x) = nanOf k ∧ ∀ z, put (xAdd m z (xMul x y)) = nanOf k) ∧
    (finite p → ¬ zero p → zero q → put (xDiv x y) = infOf k (sign p != sign q)) ∧
    ((zero p ∧ zero q) ∨ (inf p ∧ inf q) → put (xDiv x y) = nanOf k) ∧
    (zero p → put (xSqrt x) = p) ∧ (inf p → sign p = false → put (xSqrt x) = p) ∧
    (¬ nan p → ¬ zero p → sign p = true → put (xSqrt x) = nanOf k) ∧
    (∀ big, nan p → ¬ nan q → floatMinMax k big p q = q ∧ floatMinMax k big q p = q) ∧
    (∀ big, nan p → nan q → floatMinMax k big p q = nanOf k) ∧
    (zero p → zero q → sign p = true → sign q = false →
      floatMinMax k false p q = p ∧ floatMinMax k false q p = p ∧ floatMinMax k true p q = q ∧ floatMinMax k true q p = q) ∧
    (nan p ∨ nan q → xEq x y = false ∧ xLt x y = false ∧ xLe x y = false) ∧
    (zero p → zero q → xEq x y = true) ∧
    (let mb := if k = .bf16 then 7 else if k = .f16 then 10 else 23
     let bias := if k = .f16 then 15 else 127
     let e := p / 2 ^ mb % 2 ^ (fmtWidth k - 1 - mb)
     finite p → ∃ n d, 0 < d ∧ x = .fin (sign p) n d ∧
       n * 2 ^ (bias + mb) = d * (if e = 0 then p % 2 ^ mb * 2 else (2 ^ mb + p % 2 ^ mb) * 2 ^ e)) ∧
    (finite p → put x = p) ∧
    (finite p → finite q → xLt x y = true → floatMinMax k false p q = p ∧ floatMinMax k false q p = p ∧
      floatMinMax k true p q = q ∧ floatMinMax k true q p = q) ∧
    (∀ big, finite p → floatMinMax k big p p = p) ∧
    (∀ (a b : Bool) (n d i j : Nat), 0 < d → 0 < j →
      let num (neg : Bool) (v : Nat) : Int := if neg then -(v : Int) else v
      let u : XVal := .fin a n d
      let v : XVal := .fin b i j
      (∃ g r c, 0 < c ∧ xAdd m u v = .fin g r c ∧ num g r * (d * j) = (num a n * j + num b i * d) * c ∧
        (r = 0 → g = if a = b then a else decide (m = .rd))) ∧
      (∃ r c, 0 < c ∧ xMul u v = .fin (a != b) r c ∧ r * (d * j) = n * i * c) ∧
      (0 < i → ∃ r c, 0 < c ∧ xDiv u v = .fin (a != b) r c ∧ r * (d * i) = n * j * c) ∧
      (a = false → 0 < n → ∃ r c, 0 < c ∧ xSqrt u = .fin false r c ∧
        (2 ^ 200 * r - c) ^ 2 * d ≤ n * (2 ^ 200 * c) ^ 2 ∧ n * (2 ^ 200 * c) ^ 2 ≤ (2 ^ 200 * r + c) ^ 2 * d ∧
        (c ∣ 2 ^ 200 * r → r ^ 2 * d = n * c ^ 2)) ∧
      (xLt u v = true ↔ num a n * j < num b i * d) ∧ (xEq u v = true ↔ num a n * j = num b i * d)) ∧
    (¬ nan p → floatAbs k p = p % 2 ^ (fmtWidth k - 1) ∧ floatNeg k p = p % 2 ^ (fmtWidth k - 1) + (if sign p then 0 else 2 ^ (fmtWidth k - 1)))

/-- R187 to R189. -/
def Obligations.BranchesAndJumps : Prop :=
  ∀ (s : State) (t : Nat) (th : Thread) (d a b : BitVec 5) (o : BitVec 16) (w : BitVec 26), Running s t th →
    let x := regGet th a
    let y := regGet th b
    let go (taken : Prop) [Decidable taken] : State :=
      completedAt s t th (if taken then th.pc + BitVec.ofInt 64 (4 * o.toInt) else th.pc + 4)
    let target := th.pc + BitVec.ofInt 64 (4 * w.toInt)
    Runs (wordC 0x10 a b o) (.bEq a b o) s (go (x = y)) ∧
    Runs (wordC 0x11 a b o) (.bNe a b o) s (go (x ≠ y)) ∧
    Runs (wordC 0x12 a b o) (.bLt a b o) s (go (x.toInt < y.toInt)) ∧
    Runs (wordC 0x13 a b o) (.bGe a b o) s (go (y.toInt ≤ x.toInt)) ∧
    Runs (wordC 0x14 a b o) (.bLtn a b o) s (go (x.toNat < y.toNat)) ∧
    Runs (wordC 0x15 a b o) (.bGen a b o) s (go (y.toNat ≤ x.toNat)) ∧
    Runs (wordD 0x16 w) (.jmp w) s (completedAt s t th target) ∧
    Runs (wordD 0x17 w) (.call w) s (completedAt s t (regSet th 31 (th.pc + 4)) target) ∧
    decodeControl (wordA 0x18 d a 0 0x000) = .ok (.callr d a) ∧ decodeControl (wordA 0x18 0 a 0 0x001) = .ok (.jmpr a) ∧
    (x.toNat % 4 = 0 → exec (.callr d a) s = .next (completedAt s t (regSet th d (th.pc + 4)) x) ∧
      exec (.jmpr a) s = .next (completedAt s t th x)) ∧
    (x.toNat % 4 ≠ 0 → ∀ i, (i = .callr d a ∨ i = .jmpr a) →
      exec i s = .next (raiseTrap s t ⟨2, memDetail .v false 2, x.toNat⟩)) ∧
    (b ≠ 0 → ∀ k : BitVec 11, k = 0 ∨ k = 1 → decodeControl (wordA 0x18 d a b k) = .error 3) ∧
    (d ≠ 0 → decodeControl (wordA 0x18 d a 0 1) = .error 3) ∧
    (∀ k : BitVec 11, 2 ≤ k.toNat → decodeControl (wordA 0x18 d a b k) = .error 2)

/-- R163, R191, R192, R194: what a load does when it issues. `Obligations.LoadRepliesAndStoresPerformed` says how it ends. -/
def Obligations.Loads : Prop :=
  ∀ (s : State) (t : Nat) (th : Thread) (d a b : BitVec 5) (z : BitVec 2) (x : BitVec 1) (o : BitVec 8), Running s t th →
    let n : Nat := 2 ^ z.toNat
    let addr := regGet th a + regGet th b + BitVec.ofInt 64 (o.toInt * (n : Int))
    let v := addr.toNat
    let sx := decide (x = 1)
    ∀ (p : Space) (i : Instr) (major : BitVec 6) (size : Nat),
      (p, i, major, size) ∈ [(Space.v, Instr.ldV d a b z x o, 0x20#6, 0), (.i, .ldI d a b z x o, 0x22#6, 0x80000),
        (.w, .ldW d a b z x o, 0x24#6, 0x200000), (.a, .ldA d a b z x o, 0x25#6, 0x200000), (.c, .ldC d a b z x o, 0x26#6, 0x100000)] →
      decodeControl (wordA major d a b (z ++ x ++ o)) = .ok i ∧
      (z = 3 ∧ x = 1 → exec i s = .next (raiseTrap s t ⟨1, 4, 0⟩)) ∧
      (¬(z = 3 ∧ x = 1) → v % n ≠ 0 → exec i s = .next (raiseTrap s t ⟨2, memDetail p false 1, v⟩)) ∧
      (¬(z = 3 ∧ x = 1) → v % n = 0 → p ≠ .v →
        (size ≤ v → exec i s = .next (raiseTrap s t ⟨3, memDetail p false 1, v⟩)) ∧
        (v < size → p = .i → inCarve s (clusterOf t) v n none = true → exec i s = .next (raiseTrap s t ⟨3, memDetail .i false 2, v⟩)) ∧
        (v < size → (p = .i → inCarve s (clusterOf t) v n none = false) →
          exec i s = .next (waiting s t th (.load (.cell (localCell (clusterOf t) p v)) n sx d.toNat p addr)))) ∧
      (¬(z = 3 ∧ x = 1) → v % n = 0 → p = .v → ∀ s2 : State,
        (∀ g, translateWord s th.ctx addr needRead = (s2, .ok g) →
          (g.peer = false → exec i s = .next (waitAt s2 t (.load (.cell (hbmCell th.masks g.pa)) n sx d.toNat .v addr))) ∧
          (g.peer = true →
            let r := sendRequest s2 (.thread t d.toNat) th.ctx 1 g.dev g.pa n sx v [] false 0
            exec i s = .next (waitAt r.1 t (.peer r.2)))) ∧
        (∀ r, translateWord s th.ctx addr needRead = (s2, .fault r) → exec i s = .next (raiseTrap s2 t ⟨4, memDetail .v false r, v⟩)) ∧
        (∀ fp, translateWord s th.ctx addr needRead = (s2, .absent fp) →
          (tblGet (fillKey th.ctx fp) s2.fills = none →
            exec i s = .next (raiseTrap (startFill s2 th.ctx fp v) t ⟨4, memDetail .v false 6, v⟩)) ∧
          (tblGet (fillKey th.ctx fp) s2.fills ≠ none →
            exec i s = .next (waitAt s2 t (.fill fp (memDetail .v false 0) v s2.now)))))

/-- R135, R191, R192 step 4, R413. R174, R135, R120, with the frame over every byte of memory. -/
def Obligations.LoadRepliesAndStoresPerformed : Prop :=
  (∀ (s : State) (t : Nat) (th : Thread) (c n : Nat) (sx : Bool) (d : BitVec 5) (p : Space) (x : Word),
     tblGet t s.threads = some th → th.wait = .load (.cell c) n sx d.toNat p x → (n = 1 ∨ n = 2 ∨ n = 4 ∨ n = 8) →
     let v := leNat (cellsRead s.cells c n)
     let r := memRead s c n
     (postedOn th c n = true → exec (.ctLoadReply t) s = .next s) ∧
     (postedOn th c n = false → r.2.reason = 0 →
       exec (.ctLoadReply t) s = .next (resulted s t th d
         (if sx ∧ 2 ^ (8 * n - 1) ≤ v then BitVec.ofInt 64 ((v : Int) - 2 ^ (8 * n)) else BitVec.ofNat 64 v))) ∧
     (postedOn th c n = false → r.2.reason ≠ 0 →
       exec (.ctLoadReply t) s = .next (raiseTrap (waitAt r.1 t .none) t ⟨5, memDetail p false r.2.reason, x.toNat⟩))) ∧
  (∀ (s : State) (t k : Nat) (th : Thread) (p : Posted), tblGet t s.threads = some th → th.posted[k]? = some p →
     ((∃ q ∈ th.posted.take k, overlaps q.cell q.bytes.length p.cell p.bytes.length = true) → exec (.storePerform t k) s = .next s) ∧
     ((∀ q ∈ th.posted.take k, overlaps q.cell q.bytes.length p.cell p.bytes.length = false) → th.life = .running →
       s.wordWaits = [] → (∀ u ∈ unitsOf (errSize p.cell) p.cell p.bytes.length, setHas u s.errs = false) →
       Memory.wf s.cells = true →
       ∃ s', exec (.storePerform t k) s = .next s' ∧
         s'.threads = tblSet t { th with posted := th.posted.eraseIdx k } s.threads ∧
         { s' with threads := s.threads, cells := s.cells, marks := s.marks, full := s.full, errs := s.errs } = s ∧
         (∀ a, cellGet a s'.cells =
           if p.cell ≤ a ∧ a < p.cell + p.bytes.length then p.bytes.getD (a - p.cell) 0 else cellGet a s.cells) ∧
         Memory.wf s'.cells = true ∧
         (isTaggedCell p.cell = true → ∀ u ∈ unitsOf 4 p.cell p.bytes.length, setHas u s'.full = true) ∧
         (isTaggedCell p.cell = false → s'.full = s.full)))

/-- R163, R174, R191, R192, R194: what a store does when it issues. `Obligations.LoadRepliesAndStoresPerformed` says how it is performed. A
flash-backed leaf that grants a write is bad (R106), so that a tree answers no store with an absent page: the last clause says what the model does where a
held copy of a leaf, which no tree has given, would. -/
def Obligations.Stores : Prop :=
  ∀ (s : State) (t : Nat) (th : Thread) (d a b : BitVec 5) (z : BitVec 2) (o : BitVec 8), Running s t th →
    let n : Nat := 2 ^ z.toNat
    let addr := regGet th a + regGet th b + BitVec.ofInt 64 (o.toInt * (n : Int))
    let v := addr.toNat
    let bytes := leBytes (regGet th d).toNat n
    ∀ (p : Space) (i : Instr) (major : BitVec 6) (size : Nat),
      (p, i, major, size) ∈ [(Space.v, Instr.stV d a b z o, 0x21#6, 0), (.i, .stI d a b z o, 0x23#6, 0x80000),
        (.c, .stC d a b z o, 0x27#6, 0x100000)] →
      decodeControl (wordA major d a b (z ++ 0#1 ++ o)) = .ok i ∧
      decodeControl (wordA major d a b (z ++ 1#1 ++ o)) = .error 4 ∧
      (v % n ≠ 0 → exec i s = .next (raiseTrap s t ⟨2, memDetail p true 1, v⟩)) ∧
      (v % n = 0 → p ≠ .v →
        (size ≤ v → exec i s = .next (raiseTrap s t ⟨3, memDetail p true 1, v⟩)) ∧
        (v < size → p = .i → inCarve s (clusterOf t) v n none = true → exec i s = .next (raiseTrap s t ⟨3, memDetail .i true 2, v⟩)) ∧
        (v < size → (p = .i → inCarve s (clusterOf t) v n none = false) →
          exec i s = .next (completed s t { th with posted := th.posted ++ [⟨localCell (clusterOf t) p v, bytes, none⟩] }))) ∧
      (v % n = 0 → p = .v → ∀ s2 : State,
        (∀ g, translateWord s th.ctx addr needWrite = (s2, .ok g) → s2.threads = s.threads →
          (g.peer = false →
            exec i s = .next (completed s2 t { th with posted := th.posted ++ [⟨hbmCell th.masks g.pa, bytes, some v⟩] })) ∧
          (g.peer = true →
            let r := sendRequest s2 (.thread t 0) th.ctx 3 g.dev g.pa n false v bytes false 0
            exec i s = .next (waitAt r.1 t (.peer r.2)))) ∧
        (∀ r, translateWord s th.ctx addr needWrite = (s2, .fault r) → exec i s = .next (raiseTrap s2 t ⟨4, memDetail .v true r, v⟩)) ∧
        (∀ fp, translateWord s th.ctx addr needWrite = (s2, .absent fp) →
          (tblGet (fillKey th.ctx fp) s2.fills = none →
            exec i s = .next (raiseTrap (startFill s2 th.ctx fp v) t ⟨4, memDetail .v true 6, v⟩)) ∧
          (tblGet (fillKey th.ctx fp) s2.fills ≠ none →
            exec i s = .next (waitAt s2 t (.fill fp (memDetail .v true 0) v s2.now)))))

/-- R125, R163, R195. -/
def Obligations.Spills : Prop :=
  ∀ (s : State) (t : Nat) (th : Thread) (d : BitVec 5) (f : BitVec 17), Running s t th → th.spillsz ≤ 0x8000 →
    let off := 8 * f.toNat
    let local_ := 0x8000 * (t % 16 + 1) - th.spillsz + off
    let ovf := th.spillov + BitVec.ofNat 64 (off - th.spillsz)
    decodeControl (wordB 0x28 d ((0#4 ++ f).extractLsb' 16 5) (f.extractLsb' 0 16)) = .ok (.spld d f) ∧
    decodeControl (wordB 0x29 d ((0#4 ++ f).extractLsb' 16 5) (f.extractLsb' 0 16)) = .ok (.spst d f) ∧
    (off < th.spillsz → local_ % 8 = 0 → inCarve s (clusterOf t) local_ 8 (some t) = false →
      exec (.spld d f) s = .next (waiting s t th (.load (.cell (scratchpadCell (clusterOf t) local_)) 8 false d.toNat .i (BitVec.ofNat 64 local_))) ∧
      exec (.spst d f) s = .next (completed s t { th with
        posted := th.posted ++ [⟨scratchpadCell (clusterOf t) local_, leBytes (regGet th d).toNat 8, none⟩] })) ∧
    (th.spillsz ≤ off → th.spillov = 0 →
      exec (.spld d f) s = .next (raiseTrap s t ⟨3, memDetail .i false 3, off⟩) ∧
      exec (.spst d f) s = .next (raiseTrap s t ⟨3, memDetail .i true 3, off⟩)) ∧
    (th.spillsz ≤ off → th.spillov ≠ 0 → th.spillov.toNat % 64 ≠ 0 →
      exec (.spld d f) s = .next (raiseTrap s t ⟨2, memDetail .v false 3, ovf.toNat⟩) ∧
      exec (.spst d f) s = .next (raiseTrap s t ⟨2, memDetail .v true 3, ovf.toNat⟩)) ∧
    (th.spillsz ≤ off → th.spillov ≠ 0 → th.spillov.toNat % 64 = 0 → ovf.toNat % 8 = 0 → ∀ s2 g,
      translateWord s th.ctx ovf needBoth = (s2, .ok g) → g.peer = false → s2.threads = s.threads →
      exec (.spld d f) s = .next (waitAt s2 t (.load (.cell (hbmCell th.masks g.pa)) 8 false d.toNat .v ovf)) ∧
      exec (.spst d f) s = .next (completed s2 t { th with
        posted := th.posted ++ [⟨hbmCell th.masks g.pa, leBytes (regGet th d).toNat 8, some ovf.toNat⟩] }))

/-- R197, R200, R201, R114, R202 to R207; R42, R44 of the end of a thread, of a task and of a launch. -/
def Obligations.SystemInstructions : Prop :=
  (∀ (s : State) (t : Nat) (th : Thread) (k : BitVec 10) (a : BitVec 5), Running s t th →
     let v := regGet th a
     let quota : Word := match ctxOf s th.ctx with
       | some c => if c.quotaOn then BitVec.ofInt 64 c.quota else 0x7FFFFFFFFFFFFFFF
       | none => 0x7FFFFFFFFFFFFFFF
     let readable : List (BitVec 10 × Word) :=
       [(0x000, th.status), (0x001, th.cause), (0x002, th.epc), (0x003, th.tvec), (0x004, th.evaddr), (0x005, th.escratch),
        (0x010, th.spillov), (0x011, BitVec.ofNat 64 th.spillsz), (0x020, quota), (0x021, BitVec.ofNat 64 th.prio),
        (0x022, BitVec.ofNat 64 th.setid), (0x030, th.masks.m0), (0x031, th.masks.m1), (0x032, th.masks.m2), (0x033, th.masks.m3),
        (0x034, th.masks.m4), (0x035, th.masks.m5), (0x036, th.masks.m6), (0x040, BitVec.ofNat 64 s.now), (0x041, BitVec.ofNat 64 t),
        (0x042, BitVec.ofNat 64 th.ctx), (0x043, BitVec.ofNat 64 (partNum s th.ctx)), (0x050, BitVec.ofNat 64 th.icnt)]
     let code (w : Word) : Word := (w >>> 2 <<< 2) &&& 0x01FFFFFFFFFFFFFF
     let mask (i : Nat) (w : Word) : Word := (w.extractLsb' 15 22).zeroExtend 64 <<< 15 ||| 1#64 <<< (8 + i)
     let writable : List (BitVec 10 × Word × (Word → Thread)) :=
       [(0x002, th.epc, fun w => { th with epc := code w }), (0x003, th.tvec, fun w => { th with tvec := code w }),
        (0x005, th.escratch, fun w => { th with escratch := w }), (0x010, th.spillov, fun w => { th with spillov := w }),
        (0x021, BitVec.ofNat 64 th.prio, fun w => { th with prio := min (w.extractLsb' 0 3).toNat th.prioCap }),
        (0x030, th.masks.m0, fun w => { th with masks := { th.masks with m0 := mask 0 w } }),
        (0x031, th.masks.m1, fun w => { th with masks := { th.masks with m1 := mask 1 w } }),
        (0x032, th.masks.m2, fun w => { th with masks := { th.masks with m2 := mask 2 w } }),
        (0x033, th.masks.m3, fun w => { th with masks := { th.masks with m3 := mask 3 w } }),
        (0x034, th.masks.m4, fun w => { th with masks := { th.masks with m4 := mask 4 w } }),
        (0x035, th.masks.m5, fun w => { th with masks := { th.masks with m5 := mask 5 w } }),
        (0x036, th.masks.m6, fun w => { th with masks := { th.masks with m6 := mask 6 w } })]
     let trap := raiseTrap s t ⟨1, 5, 0⟩
     decodeControl (wordF k a 0x001) = .ok (.crd k a) ∧ decodeControl (wordF k a 0x002) = .ok (.cwr k a) ∧
     decodeControl (wordF k a 0x003) = .ok (.cset k a) ∧ decodeControl (wordF k a 0x004) = .ok (.cclr k a) ∧
     (∀ w, (k, w) ∈ readable → exec (.crd k a) s = .next (resulted s t th a w)) ∧
     ((∀ w, (k, w) ∉ readable) → exec (.crd k a) s = .next trap) ∧
     (∀ old put, (k, old, put) ∈ writable →
       exec (.cwr k a) s = .next (completed s t (put v)) ∧ exec (.cset k a) s = .next (completed s t (put (old ||| v))) ∧
       exec (.cclr k a) s = .next (completed s t (put (old &&& ~~~v)))) ∧
     (k = 0x022 → ∀ (i : Instr) (w : Word),
       (i, w) ∈ [(Instr.cwr k a, v), (.cset k a, BitVec.ofNat 64 th.setid ||| v), (.cclr k a, BitVec.ofNat 64 th.setid &&& ~~~v)] →
       let n := w.toNat % 2 ^ 16
       ((n < 256 ∨ n = 65535) → exec i s = .next (completed s t { th with setid := n })) ∧
       (¬(n < 256 ∨ n = 65535) → exec i s = .next trap)) ∧
     (k ≠ 0x022 → (∀ old put, (k, old, put) ∉ writable) →
       exec (.cwr k a) s = .next trap ∧ exec (.cset k a) s = .next trap ∧ exec (.cclr k a) s = .next trap)) ∧
  (∀ (s : State) (t : Nat) (th : Thread) (a : BitVec 5) (k : BitVec 10), Running s t th →
     let v := regGet th a
     decodeControl (wordF 0 a 0x010) = .ok (.sleep a) ∧ decodeControl (wordF 0 0 0x011) = .ok .yield ∧
     decodeControl (wordF 0 0 0x012) = .ok .exit ∧ decodeControl (wordF 0 0 0x013) = .ok .tret ∧
     decodeControl (wordF 0 a 0x020) = .ok (.xinv a) ∧ decodeControl (wordF k 0 0x030) = .ok (.brk k) ∧
     (v.toNat ≤ s.now → exec (.sleep a) s = .next (completed s t th)) ∧
     (s.now < v.toNat → exec (.sleep a) s = .next (waiting s t th (.sleep v.toNat))) ∧
     (∀ u, th.wait = .sleep u → u ≤ s.now → (th.asyncs = [] ∨ th.status.getLsbD 0 = true) → exec (.sleepWake t) s = .next (completed s t th)) ∧
     (∀ u, th.wait = .sleep u → th.asyncs ≠ [] → th.status.getLsbD 0 = false → exec (.sleepWake t) s = .next s) ∧
     (∀ u, th.wait = .sleep u → s.now < u → exec (.sleepWake t) s = .next s) ∧
     exec .yield s = .next (completed s t th) ∧
     exec .exit s = .next (stopThread (completed s t th) t false) ∧
     (th.status.getLsbD 0 = true → th.asyncs = [] → exec .tret s = .next (completedAt s t { th with status := 0 } th.epc)) ∧
     (th.status.getLsbD 0 = true → exec .tret s = .next (enterAsync (completedAt s t { th with status := 0 } th.epc) t)) ∧
     (th.status.getLsbD 0 = false → exec .tret s = .next (raiseTrap s t ⟨1, 6, 0⟩)) ∧
     (∀ cover : Option Nat, (v = 0x8000000000000000 ∧ cover = none) ∨ (v.toNat < 2 ^ 57 ∧ cover = some v.toNat) →
       exec (.xinv a) s = .next { s with
         threads := tblSet t { th with wait := .xinv s.nextInval } s.threads,
         invals := tblSet s.nextInval ⟨th.ctx, cover, s.now, false⟩ s.invals,
         nextInval := s.nextInval + 1 }) ∧
     (v ≠ 0x8000000000000000 → 2 ^ 57 ≤ v.toNat → exec (.xinv a) s = .next (raiseTrap s t ⟨4, memDetail .v false 1, v.toNat⟩)) ∧
     (∀ h, armedHalt s th.ctx = some h → exec (.brk k) s = .next (modThread (completed s t th) t (fun u => { u with halts := setAdd h th.halts }))) ∧
     (armedHalt s th.ctx = none → th.status.getLsbD 0 = false → th.tvec ≠ 0 →
       exec (.brk k) s = .next (modThread (completed s t th) t (fun u => { u with
         epc := (th.pc + 4) &&& 0x01FFFFFFFFFFFFFC#64, cause := 0#16 ++ BitVec.ofNat 16 k.toNat ++ 0#16 ++ 7#16, evaddr := 0,
         status := (if th.asyncs = [] then 1 else 3), pc := th.tvec, ifetch := none })))) ∧
  (∀ (s : State) (t : Nat) (th : Thread) (failed : Bool), tblGet t s.threads = some th → th.life = .leaving failed →
     let left := releaseOwn ((setsOf s t).foldl (fun s k => quitSet s k t) s) th.ctx t
     let gone := { left with threads := tblDel t left.threads, lastOf := left.lastOf.filter (fun p => !decide (p.1 = .thread t)) }
     (th.posted ≠ [] → finishThread s t = s) ∧
     (th.posted = [] → commandsDone left t = false → finishThread s t = left) ∧
     (th.posted = [] → commandsDone left t = true →
       finishThread s t = endTask (offerPlaces (unbindIfIdle gone (clusterOf t))) th.launch th.task (!failed && !th.failTask))) ∧
  (∀ (s : State) (n : Nat) (l : Launch), tblGet n s.launches = some l →
     let ended (status : Nat) : State := endLaunch s n l status
     let settled_ : Prop := ∀ ts ∈ l.tasks, ts.state = .completed
     let idle : Prop := ∀ ts ∈ l.tasks, ts.state ≠ .running ∧ ts.state ≠ .placing ∧ ts.state ≠ .suspended
     (settled_ → settleLaunch s n = ended 0) ∧ (¬settled_ → l.anyFailed = true → idle → settleLaunch s n = ended 2) ∧
     (¬settled_ → l.anyFailed = false ∨ ¬idle → settleLaunch s n = s) ∧
     (∀ status, (∀ p ∈ s.launches, p.2.prev = some n → p.2.overlap = true) → ended status = signalEvent { s with
       launches := tblDel n s.launches
       forms := s.forms.filter (fun f => !decide (f.2.arm = none ∧ f.2.launch = n ∧ f.2.phase = .ready)) } l.ctx l.event status) ∧
     (∀ j ts ok, l.tasks[j]? = some ts →
       let l' := { l with
         anyFailed := l.anyFailed || !ok
         tasks := l.tasks.set j { ts with state := if ok then .completed else .failed } }
       endTask s n j ok = settleLaunch (refreshLaunch { s with launches := tblMod n (fun _ => l') s.launches } n) n)) ∧
  (∀ (s : State) (x e status : Nat) (c : Ctx), ctxOf s x = some c →
     let count := leNat (hbmRead s c.masks (c.events + 16 * e) 8).2.bytes
     (c.nevent ≤ e → signalEvent s x e status = s) ∧
     (e < c.nevent → signalEvent s x e status = hbmWrite (hbmWrite s c.masks (c.events + 16 * e + 8) (leBytes (status % 256) 8) false)
       c.masks (c.events + 16 * e) (leBytes ((count + 1) % 2 ^ 64) 8) false))

/-- R25, R209, R210, R317: what every engine command does when it issues. R317, R353, R354, R360, R443. Which commands go while their context is
pre-empted is the model's reading of R299, R319 and R140 (log 29), and so is the charge for the rows that a selection command gathers (logs 24, 96). -/
def Obligations.CommandQueuesAndReservations : Prop :=
  ((∀ (s : State) (cl u : Nat) (c : Cmd),
     let s' := queued s cl u c
     { s' with clusters := s.clusters } = s ∧
     (∀ cl' u', cl' ≠ cl ∨ u' ≠ u → unitAt s' cl' u' = unitAt s cl' u') ∧
     (∀ cl' p, portAt s' cl' p = portAt s cl' p ∧ handleAt s' cl' p = handleAt s cl' p) ∧
     (unitAt s' cl u).running = (unitAt s cl u).running ∧
     (unitAt s' cl u).queue.map (fun k => { k with headAt := none }) =
       ((unitAt s cl u).queue ++ [c]).map (fun k => { k with headAt := none }) ∧
     ((unitAt s cl u).running = none → (unitAt s cl u).queue = [] → c.headAt = none →
       (unitAt s' cl u).queue = [{ c with headAt := some s.now }])) ∧
   (∀ (s : State) (t : Nat) (th : Thread) (a : Word) (n : Nat) (f : State → List Byte → State),
     tblGet t s.threads = some th → 0 < n →
     let c := scratchpadCell (clusterOf t) a.toNat
     let ok := a.toNat % n = 0 ∧ a.toNat < 0x80000 ∧ inCarve s (clusterOf t) a.toNat n none = false
     (a.toNat % n ≠ 0 → readDesc s t th a n f = raiseTrap s t ⟨2, memDetail .i false 4, a.toNat⟩) ∧
     (a.toNat % n = 0 → 0x80000 ≤ a.toNat → readDesc s t th a n f = raiseTrap s t ⟨3, memDetail .i false 1, a.toNat⟩) ∧
     (a.toNat % n = 0 → a.toNat < 0x80000 → inCarve s (clusterOf t) a.toNat n none = true →
       readDesc s t th a n f = raiseTrap s t ⟨3, memDetail .i false 2, a.toNat⟩) ∧
     (ok → postedOn th c n = true → readDesc s t th a n f = waiting s t th .retry) ∧
     (ok → postedOn th c n = false → (memRead s c n).2.reason ≠ 0 →
       readDesc s t th a n f = raiseTrap (memRead s c n).1 t ⟨5, memDetail .i false (memRead s c n).2.reason, a.toNat⟩) ∧
     (∀ bs, DescAt s t th a n bs → readDesc s t th a n f = f s bs))) ∧
  (∀ (s : State) (c u : Nat) (k : Cmd) (rest : List Cmd),
     let q := nodesFirst s (unitAt s c u)
     q.running = none → q.queue = k :: rest →
     (isMarker k = false → k.asked = none → cmdGoes s rest k = true → cmdSteps k ≠ 0 →
       exec (.reservationRequest c u) s = .next (setUnit s c u { q with queue := { k with asked := some s.now } :: rest })) ∧
     (isMarker k = false → k.asked = none → cmdGoes s rest k = true → cmdSteps k = 0 →
       exec (.reservationRequest c u) s = .next (setUnit s c u { q with running := some { k with granted := true }, queue := rest })) ∧
     (isMarker k = true ∨ k.asked ≠ none ∨ cmdGoes s rest k = false → exec (.reservationRequest c u) s = .next s)) ∧
  (∀ (s : State) (behind : List Cmd) (k : Cmd) (x : Ctx), ctxOf s k.ctx = some x →
     let stream (j : Cmd) : Prop := cmdMajor k = 0x32 ∧ cmdMajor j = 0x32 ∧ cmdTarget k % 8 = cmdTarget j % 8
     (x.phase = .running → cmdGoes s behind k = true) ∧
     (x.phase = .stopping → (cmdGoes s behind k = true ↔ k.node ≠ none ∨ ∃ j ∈ behind, j.node ≠ none ∧ stream j)) ∧
     (x.phase ≠ .running → x.phase ≠ .stopping → cmdGoes s behind k = false)) ∧
  (∀ (s : State) (c u : Nat) (k : Cmd) (rest : List Cmd),
     let q := unitAt s c u
     let q' := nodesFirst s q
     let go (p : Cmd × Nat) : Bool := cmdGoes s (q.queue.drop (p.2 + 1)) p.1
     q.queue = k :: rest →
     (q.running ≠ none ∨ ctxStops s k.ctx = false ∨ cmdGoes s rest k = true → q' = q) ∧
     (q.running = none → ctxStops s k.ctx = true → cmdGoes s rest k = false →
       q'.running = none ∧
       q'.queue.map (·.word) = ((q.queue.zipIdx.filter go) ++ (q.queue.zipIdx.filter (fun p => !go p))).map (·.1.word) ∧
       ((∀ j ∈ rest, j.ctx = k.ctx) → ∀ n,
         let inStream (j : Cmd) : Bool := decide (cmdMajor j = 0x32 ∧ cmdTarget j % 8 = n)
         (q'.queue.filter inStream).map (·.word) = (q.queue.filter inStream).map (·.word)))) ∧
  (∀ (s : State) (c u : Nat) (k : Cmd) (rest : List Cmd), (unitAt s c u).running = none → (unitAt s c u).queue = k :: rest →
     let q := unitAt s c u
     (let allowed := k.asked ≠ none ∧ cmdGoes s rest k = true ∧
         (∃ x, ctxOf s k.ctx = some x ∧ (x.quotaOn = false ∨ 0 < x.quota)) ∧
         (u ≤ 5 → (∀ d ∈ s.limited, d / 4 ≠ c / 16) ∧ heldBy s c + cmdPower k ≤ (clusterAt s c).share ∧
           ∀ a ∈ waitingAsks s c, a.2 = u ∨ k.headAt.getD 0 < a.1 ∨ (k.headAt.getD 0 = a.1 ∧ u < a.2));
       (allowed → ∀ at_, k.asked = some at_ →
         let run := { k with granted := true, asked := none, power := cmdPower k }
         let counted (run : Cmd) : State := addCounter (setUnit s c u { q with running := some run, queue := rest }) k.ctx 0x88 (s.now - at_)
         (rowsToGather s c k = none → exec (.reservationGrant c u) s = .next (debit (counted run) k.ctx (cmdCharge k))) ∧
         (∀ n, rowsToGather s c k = some n → ∃ run', { run' with memo := run.memo } = run ∧
           exec (.reservationGrant c u) s = .next (debit (counted run') k.ctx (cmdCharge k + 40 * ((n * prRowBytes k + 63) / 64))))) ∧
       (¬allowed → exec (.reservationGrant c u) s = .next s)))

/-- R213, R214, R216, R218, R389. The model's own: a binding for a port that a fault has ended ends at once (log 25), and a binding's accesses
use the masks of its thread (log 109). -/
def Obligations.StreamBindings : Prop :=
  ∀ (s : State) (t : Nat) (th : Thread) (p : BitVec 6) (a b : BitVec 5) (k : BitVec 1) (sp : BitVec 3) (f : BitVec 4), Running s t th →
    let cl := clusterOf t
    let port := if k = 1 then 64 + p.toNat else p.toNat
    let q := portAt s cl port
    let legal := (k = 0 ∨ p.toNat < 8) ∧ (sp = 1 ∨ sp = 2) ∧ f.toNat ≤ 10 ∧ (k = 1 ∨ f = 0)
    decodeControl (wordE 0x30 p a b (0#2 ++ k ++ sp ++ f)) = .ok (.sbind p a b k sp f) ∧
    decodeControl (wordE 0x30 p 0 0 (1#2 ++ k ++ 0#7)) = .ok (.swait p k) ∧
    decodeControl (wordE 0x30 p 0 0 (2#2 ++ k ++ 0#7)) = .ok (.sclear p k) ∧
    (¬legal → exec (.sbind p a b k sp f) s = .next (raiseTrap s t ⟨1, 4, 0⟩)) ∧
    (k = 1 → 8 ≤ p.toNat →
      exec (.swait p k) s = .next (raiseTrap s t ⟨1, 4, 0⟩) ∧ exec (.sclear p k) s = .next (raiseTrap s t ⟨1, 4, 0⟩)) ∧
    (∀ bs, legal → DescAt s t th (regGet th a) 32 bs →
      let fld (o n : Nat) : Nat := leNat ((bs.drop o).take n)
      let w0 := BitVec.ofNat 64 (fld 0 8)
      let eos := w0.getLsbD 57
      let swap := w0.getLsbD 58
      let wait_ := w0.getLsbD 59
      let binding : Binding :=
        { tid := t, ctx := th.ctx, word := th.word, spaceV := decide (sp = 1)
          base := (fld 0 8 + (regGet th b).toNat) % 2 ^ 57, counts := [fld 8 4, fld 16 4, fld 24 4]
          strides := [signedOf 32 (fld 12 4), signedOf 32 (fld 20 4), signedOf 32 (fld 28 4)]
          eos := eos, swap := swap, wait := wait_, fmt := f.toNat, masks := th.masks, pos := 0, failed := false }
      let odd := if k = 1 then eos ∨ swap ∨ (wait_ ∧ sp = 1) else wait_ = true
      (fld 0 8 / 2 ^ 60 % 16 ≠ 0 → exec (.sbind p a b k sp f) s = .next (raiseTrap s t ⟨6, 1, 0⟩)) ∧
      (fld 0 8 / 2 ^ 60 % 16 = 0 → odd → exec (.sbind p a b k sp f) s = .next (raiseTrap s t ⟨6, 8, 0⟩)) ∧
      (fld 0 8 / 2 ^ 60 % 16 = 0 → ¬odd → q.failed = true → exec (.sbind p a b k sp f) s = .next (completed s t th)) ∧
      (fld 0 8 / 2 ^ 60 % 16 = 0 → ¬odd → q.failed = false → 4 ≤ q.bindings.length →
        exec (.sbind p a b k sp f) s = .next (waiting s t th (.full (.port port)))) ∧
      (fld 0 8 / 2 ^ 60 % 16 = 0 → ¬odd → q.failed = false → q.bindings.length < 4 →
        exec (.sbind p a b k sp f) s = .next (completed (setPort s cl port (settlePort s port { q with bindings := q.bindings ++ [binding] })) t th))) ∧
    (∀ q' : Port, (∀ x, q'.bindings.head? = some x → bindAccesses x ≠ 0) → settlePort s port q' = q') ∧
    (k = 1 → ∀ (q' : Port) (x : Binding) (rest : List Binding), q'.bindings = x :: rest → bindAccesses x = 0 →
      settlePort s port q' = settlePort s port { q' with bindings := rest, ordinal := q'.ordinal + 1 }) ∧
    (k = 0 ∨ p.toNat < 8 →
      ((∃ x ∈ q.bindings, x.tid = t) ∨ (∃ l ∈ q.landing, l.1 = t ∧ (tblGet l.2 s.requests).isSome) →
        exec (.swait p k) s = .next (waiting s t th .retry)) ∧
      ((∀ x ∈ q.bindings, x.tid ≠ t) → (∀ l ∈ q.landing, l.1 = t → tblGet l.2 s.requests = none) →
        exec (.swait p k) s = .next (completed s t th)) ∧
      let begun : Bool := q.holder.isSome || (q.bindings.head?).any (fun x => decide (0 < x.pos)) || takesFrom s cl port
      let kept := (if begun then q.bindings.take 1 else []) ++ (if begun then q.bindings.drop 1 else q.bindings).filter (fun x => x.tid != t)
      let q' := settlePort s port { q with bindings := kept }
      exec (.sclear p k) s = .next (completed (dropBindings s cl port t q') t th) ∧
        { q' with bindings := q.bindings, ordinal := q.ordinal } = q ∧
        (∀ x ∈ q.bindings, x.tid ≠ t → bindAccesses x ≠ 0 → x ∈ q'.bindings) ∧ (∀ x ∈ q'.bindings, x ∈ q.bindings) ∧
        (∀ x ∈ q'.bindings, x.tid = t → q.bindings.head? = some x ∧ (q.holder.isSome ∨ 0 < x.pos ∨ takesFrom s cl port = true)) ∧
        (∀ x, q.bindings.head? = some x → begun = true → bindAccesses x ≠ 0 → q'.bindings.head? = some x) ∧
        ((∀ x, kept.head? = some x → bindAccesses x ≠ 0) → q'.ordinal = q.ordinal ∧ q'.bindings = kept) ∧
        ((∀ l ∈ s.launches, l.2.source = .thread t → l.2.hold = []) → dropBindings s cl port t q' = setPort s cl port q'))

/-- R126, R220, R221, R224. -/
def Obligations.CopyCommands : Prop :=
  ∀ (s : State) (t : Nat) (th : Thread) (h : BitVec 6) (a b : BitVec 5) (u v : BitVec 2) (e : BitVec 4), Running s t th →
    let cl := clusterOf t
    let x := regGet th a
    let y := regGet th b
    let hd := handleAt s cl h.toNat
    let off := (y.extractLsb' 0 21).toNat
    let len := (y.extractLsb' 32 25).toNat
    let size (k : BitVec 2) : Nat := if k = 2 then 0x100000 else 0x200000
    let free := hd.claimed = none ∧ hd.state = 0
    let cmd (w : BitVec 32) : Cmd := { newCmd t th w.toNat x y [] with handle := h.toNat }
    let claim (s : State) : State := setHandle s cl h.toNat { handleAt s cl h.toNat with claimed := some t }
    let reserved := y.extractLsb' 21 11 ≠ 0 ∨ y.extractLsb' 57 7 ≠ 0
    let bytes := fmtWidth ((fmtOfCode (e.toNat - 1)).getD .i8) / 8
    let inWord := wordE 0x31 h a b (0#2 ++ u ++ 0#2 ++ e)
    let outWord := wordE 0x31 h a b (1#2 ++ u ++ 0#6)
    let bbWord := wordE 0x31 h a b (2#2 ++ u ++ v ++ 0#4)
    decodeControl inWord = .ok (.copyIn h a b u e) ∧ decodeControl outWord = .ok (.copyOut h a b u) ∧
    decodeControl bbWord = .ok (.copyBb h a b u v) ∧
    decodeControl (wordE 0x31 h 0 0 (3#2 ++ 0#5 ++ 0#3)) = .ok (.hwait h) ∧ decodeControl (wordE 0x31 h 0 0 (3#2 ++ 0#5 ++ 1#3)) = .ok (.hrel h) ∧
    decodeControl (wordE 0x31 h a b (3#2 ++ 0#5 ++ 2#3)) = .ok (.hstat h a b) ∧
    (u ≠ 3 → e.toNat ≤ 11 → Issues (.copyIn h a b u e) s t th (6 + h.toNat % 2)
      (issueReason [(1, decide reserved), (3, decide (size u < off + len)), (5, decide (len = 0 ∨ 2 ^ 24 < len)),
        (6, decide (¬free)), (7, decide (e ≠ 0 ∧ len % bytes ≠ 0))]) (cmd inWord) claim) ∧
    (u ≠ 3 → Issues (.copyOut h a b u) s t th (6 + h.toNat % 2)
      (issueReason [(1, decide reserved), (2, decide (u = 0)), (3, decide (size u < off + len)), (5, decide (len = 0 ∨ 2 ^ 24 < len)),
        (6, decide (¬(hd.claimed = none ∧ (hd.state = 0 ∨ hd.state = 2))))]) (cmd outWord) claim) ∧
    (u ≠ 3 → v = 1 ∨ v = 2 → Issues (.copyBb h a b u v) s t th (6 + h.toNat % 2)
      (issueReason [(1, decide (reserved ∨ x.extractLsb' 21 43 ≠ 0)), (2, decide (u = 0)),
        (3, decide (size u < off + len ∨ size v < (x.extractLsb' 0 21).toNat + len)), (5, decide (len = 0 ∨ 2 ^ 24 < len)),
        (6, decide (¬free))]) (cmd bbWord) claim) ∧
    (u = 3 ∨ 12 ≤ e.toNat → exec (.copyIn h a b u e) s = .next (raiseTrap s t ⟨1, 4, 0⟩)) ∧
    (u = 3 → exec (.copyOut h a b u) s = .next (raiseTrap s t ⟨1, 4, 0⟩)) ∧
    (u = 3 ∨ v = 0 ∨ v = 3 → exec (.copyBb h a b u v) s = .next (raiseTrap s t ⟨1, 4, 0⟩)) ∧
    (hd.state = 1 ∨ hd.state = 3 → exec (.hwait h) s = .next (waiting s t th (.handle h.toNat))) ∧
    (hd.state ≠ 1 → hd.state ≠ 3 → exec (.hwait h) s = .next (completed s t th)) ∧
    (hd.state = 2 → hd.claimed = none →
      exec (.hrel h) s = .next (completed (setHandle s cl h.toNat { hd with state := 0 }) t th)) ∧
    (hd.state ≠ 2 ∨ hd.claimed ≠ none → exec (.hrel h) s = .next (raiseTrap s t ⟨6, 6, 0⟩)) ∧
    (a ≠ b ∨ a = 0 → hd.state < 4 → hd.owner < 1024 → hd.engine < 2 → hd.bytes < 2 ^ 25 →
      exec (.hstat h a b) s = .next (completed s t (regSet (regSet th a
        (BitVec.ofNat 2 hd.state ++ BitVec.ofBool hd.late ++ BitVec.ofBool hd.err ++ BitVec.ofNat 10 hd.owner ++
          BitVec.ofNat 1 hd.engine ++ BitVec.ofNat 25 hd.bytes ++ 0#24)) b (BitVec.ofNat 64 hd.promise)))) ∧
    (a = b → a ≠ 0 → exec (.hstat h a b) s = .next (raiseTrap s t ⟨1, 4, 0⟩))

/-- R126 to R128, R221, R222, R408, R436. When a copy that a fault has ended is over is log 113 (DEDUCED). -/
def Obligations.CopyEvents : Prop :=
  ∀ (s : State) (c u h : Nat) (k : Cmd) (x : Ctx) (v : Handle),
    ((unitAt s c u).running = some k → k.step = 0 → cmdMajor k = 0x31 → ctxOf s k.ctx = some x →
      let len := (k.gb.extractLsb' 32 25).toNat
      let promise := max s.now (unitAt s c u).prev + x.slack + (len + 127) / 128
      let state := if copyDir k = 1 then 3 else 1
      exec (.copyAccept c u) s = .next (setHandle
        (setUnit s c u { unitAt s c u with running := some { k with step := 1 }, prev := promise }) c k.handle
        { promise := promise, state := state, late := false, err := false, owner := k.tid, engine := u - 6, bytes := len, claimed := none })) ∧
    ((unitAt s c u).running = none → exec (.copyAccept c u) s = .next s ∧ exec (.copyLand c u) s = .next s) ∧
    (handleAt s c h = v →
      ((v.state = 1 ∨ v.state = 3) → v.late = false → v.promise < s.now →
        exec (.copyPromiseExpire c h) s = .next (raiseAsync (setHandle s c h { v with late := true }) v.owner 0x10 h)) ∧
      (v.late = true ∨ s.now ≤ v.promise ∨ v.state = 0 ∨ v.state = 2 → exec (.copyPromiseExpire c h) s = .next s)) ∧
    ((unitAt s c u).running = some k → k.step = 1 → cmdMajor k = 0x31 → copiesFrozen s c = false →
      let r := runParts (copyPart c u) s k (List.range (copyParts k))
      let s1 := modRunning r.1 c u (fun _ => { r.2 with step := 2 })
      let w := handleAt s1 c r.2.handle
      let s2 := if (w.state = 1 ∨ w.state = 3) ∧ w.late = false ∧ w.promise < s1.now then
          raiseAsync (setHandle s1 c r.2.handle { w with late := true }) w.owner 0x10 r.2.handle
        else s1
      let old : Handle := handleAt s2 c r.2.handle
      let s3 := setHandle s2 c r.2.handle ({ old with
        state := if copyDir r.2 = 1 then 0 else 2, err := old.err || r.2.bad || r.2.failed })
      let mine (w : PeerWho) : Prop := ∃ i, w = .unit c u i
      let done : Prop := r.2.frost = [] ∧ ∀ p ∈ s1.requests, ¬mine p.2.who
      let ended : Prop := r.2.failed = true ∧ ∀ p ∈ s1.requests, p.2.type = 1 ∨ ¬mine p.2.who
      (done ∨ ended →
        exec (.copyLand c u) s = .next (completeCmd (modRunning s3 c u (fun q => { q with failed := false })) c u)) ∧
      (¬done → ¬ended → exec (.copyLand c u) s = .next s1)) ∧
    ((unitAt s c u).running = some k → cmdMajor k = 0x31 → copiesFrozen s c = true → exec (.copyLand c u) s = .next s)

/-- R139, R222, R223: the bytes a copy moves, with the frame over all memory. That a copy with nothing in its way lands in one step is log 5. -/
def Obligations.CopyMovesBytes : Prop :=
  (∀ (s : State) (c u : Nat) (k : Cmd) (th : Thread) (src dst soff doff len : Nat),
    (unitAt s c u).running = some k → k.step = 1 → cmdMajor k = 0x31 → copyDir k = 2 → copyDec k = 0 → copyBuf k = dst → copySrcBuf k = src →
    copyOff k = doff → gaBits k 0 21 = soff → copyLen k = len → src ≠ dst → (src = 1 ∨ src = 2) → (dst = 1 ∨ dst = 2) →
    doff + len ≤ bufSize dst → soff + len ≤ bufSize src → c < 64 → k.frost = [] → k.memo = [] → k.failed = false → k.node = none →
    tblGet k.tid s.threads = some th → th.life = .running → s.errs = [] → s.marks = [] → s.wordWaits = [] → s.requests = [] →
    s.launches = [] → (∀ p ∈ s.threads, p.2.woundDue = false) → copiesFrozen s c = false → Memory.wf s.cells = true →
    ∃ s', exec (.copyLand c u) s = .next s' ∧ Memory.wf s'.cells = true ∧
      (∀ j, j < len → cellGet (bufCell c dst (doff + j)) s'.cells = cellGet (bufCell c src (soff + j)) s.cells) ∧
      (∀ a, a < bufCell c dst doff ∨ bufCell c dst (doff + len) ≤ a → cellGet a s'.cells = cellGet a s.cells) ∧
      (∀ j, j < len → setHas (bufCell c dst (doff + j) / 4 * 4) s'.full = true)) ∧
  (∀ (s : State) (c u j : Nat) (k : Cmd) (src : Nat → Byte) (x : Target), Sound s → s.requests = [] → c < 64 → cmdMajor k = 0x31 → copyDir k = 0 →
    copyDec k = 0 → copyBuf k < 3 → copyOff k + copyLen k ≤ bufSize (copyBuf k) → k.froze = [] → j < lineCount k.ga.toNat (copyLen k) →
    j < 2 ^ 32 →
    let l := lineAt k.ga.toNat (copyLen k) j
    let bytes (i : Nat) : List Byte := (List.range (lineAt k.ga.toNat (copyLen k) i).2).map (fun b => src ((lineAt k.ga.toNat (copyLen k) i).1 + b))
    let bad (i : Nat) : List Bool := List.replicate (lineAt k.ga.toNat (copyLen k) i).2 false
    let cell (a : Nat) : Nat := bufCell c (copyBuf k) (copyOff k + (a - k.ga.toNat))
    Lies s k.ctx needRead l.1 x → (∀ b, b < l.2 → src (l.1 + b) = cellGet (hbmCell k.masks x.pa + b) s.cells) →
    (∀ i v, tblGet i k.memo = some v → v = rowCode (bytes i) (bad i)) →
    let whole (d : Nat) : Prop := ∀ a, k.ga.toNat ≤ a → a < k.ga.toNat + copyLen k → (copyOff k + (a - k.ga.toNat)) / 64 = d →
      a / 64 - k.ga.toNat / 64 = j ∨ tblGet (a / 64 - k.ga.toNat / 64) k.memo ≠ none
    let put (a : Nat) : Prop := k.ga.toNat ≤ a ∧ a < k.ga.toNat + copyLen k ∧ whole ((copyOff k + (a - k.ga.toNat)) / 64) ∧
      ∃ b, b < l.2 ∧ (copyOff k + (l.1 + b - k.ga.toNat)) / 64 = (copyOff k + (a - k.ga.toNat)) / 64
    ∃ s', copyPart c u s k j = (s', if k.ga.toNat % 64 = copyOff k % 64 then k else { k with memo := tblSet j (rowCode (bytes j) (bad j)) k.memo },
        .done false) ∧
      (∀ a, put a → cellGet (cell a) s'.cells = src a ∧ (copyBuf k ≠ 0 → setHas (cell a / 4 * 4) s'.full = true)) ∧
      (∀ d, (∀ a, put a → d ≠ cell a) → cellGet d s'.cells = cellGet d s.cells)) ∧
  (∀ (s : State) (c u j : Nat) (k : Cmd) (x : Target), Sound s → s.requests = [] → cmdMajor k = 0x31 → copyDir k = 1 → k.froze = [] → k.memo = [] →
    x.pa < hbmBytes → j < 2 ^ 32 →
    let l := lineAt k.ga.toNat (copyLen k) j
    l.2 ≠ 0 → Lies s k.ctx needWrite l.1 x →
    ∃ s', copyPart c u s k j = (s', k, .done false) ∧
      (∀ b, b < l.2 → cellGet (hbmCell k.masks x.pa + b) s'.cells = cellGet (bufCell c (copyBuf k) (copyOff k + (l.1 - k.ga.toNat) + b)) s.cells) ∧
      (∀ d, d < hbmCell k.masks x.pa ∨ hbmCell k.masks x.pa + l.2 ≤ d → cellGet d s'.cells = cellGet d s.cells))

/-- R100, R225, R227, R231, R232. The entry that holds a place in a stream is the model's (log 48). -/
def Obligations.MatrixCommands : Prop :=
  ∀ (s : State) (t : Nat) (th : Thread) (m p : BitVec 6) (a b : BitVec 5) (sr : BitVec 2) (f : BitVec 4), Running s t th →
    let cl := clusterOf t
    let u := m.toNat % 4
    let q := unitAt s cl u
    let cmd (w : BitVec 32) : Cmd := newCmd t th w.toNat (regGet th a) (regGet th b) []
    let trap := raiseTrap s t ⟨1, 4, 0⟩
    let mine (k : Cmd) : Prop := isMarker k = true ∧ k.tid = t
    let mark (op : Nat) : Cmd := newCmd t th (0x32 * 2 ^ 26 + m.toNat * 2 ^ 20 + 64 * op) 0 0 []
    let flag : Word := if setHas m.toNat (clusterAt s cl).sat then 1 else 0
    let cleared := modCluster s cl (fun k => { k with sat := setDel m.toNat k.sat })
    decodeControl (wordE 0x32 m a b (0#4 ++ p)) = .ok (.mma m a b p) ∧ decodeControl (wordE 0x32 m a b (1#4 ++ p)) = .ok (.mmaz m a b p) ∧
    decodeControl (wordE 0x32 m a b (2#4 ++ sr ++ f)) = .ok (.mdrain m a b sr f) ∧
    decodeControl (wordE 0x32 m a 0 (3#4 ++ 0#6)) = .ok (.msatr m a) ∧ decodeControl (wordE 0x32 m 0 0 (4#4 ++ 0#6)) = .ok (.mwait m) ∧
    (m.toNat < 8 → p.toNat < 16 →
      Issues (.mma m a b p) s t th u (mmaReason (cmd (wordE 0x32 m a b (0#4 ++ p)))) (cmd (wordE 0x32 m a b (0#4 ++ p))) (fun s => s) ∧
      Issues (.mmaz m a b p) s t th u (mmaReason (cmd (wordE 0x32 m a b (1#4 ++ p)))) (cmd (wordE 0x32 m a b (1#4 ++ p))) (fun s => s)) ∧
    (8 ≤ m.toNat ∨ 16 ≤ p.toNat → exec (.mma m a b p) s = .next trap ∧ exec (.mmaz m a b p) s = .next trap) ∧
    (m.toNat < 8 → sr ≠ 3 → f.toNat ≤ 10 → (sr = 1 → 6 ≤ f.toNat) →
      Issues (.mdrain m a b sr f) s t th u (drainReason (cmd (wordE 0x32 m a b (2#4 ++ sr ++ f))))
        (cmd (wordE 0x32 m a b (2#4 ++ sr ++ f))) (fun s => s)) ∧
    (8 ≤ m.toNat ∨ sr = 3 ∨ 10 < f.toNat ∨ (sr = 1 ∧ f.toNat < 6) → exec (.mdrain m a b sr f) s = .next trap) ∧
    (8 ≤ m.toNat → exec (.msatr m a) s = .next trap ∧ exec (.mwait m) s = .next trap) ∧
    (m.toNat < 8 → q.running = none → q.queue = [] → (∀ u', u' < 4 → ∀ k ∈ (unitAt s cl u').queue, ¬mine k) →
      exec (.msatr m a) s = .next (resulted cleared t th a flag) ∧ exec (.mwait m) s = .next (completed s t th)) ∧
    (m.toNat < 8 → q.running = none → (∃ k, q.queue.head? = some k ∧ mine k) →
      exec (.mwait m) s = .next (completed (dropMarkers s t) t th) ∧
      exec (.msatr m a) s =
        .next (resulted (modCluster (dropMarkers s t) cl (fun k => { k with sat := setDel m.toNat k.sat })) t th a flag)) ∧
    (m.toNat < 8 → (q.running ≠ none ∨ ∃ k, q.queue.head? = some k ∧ ¬mine k) →
      ((∃ k ∈ q.queue, mine k) →
        exec (.msatr m a) s = .next (waiting s t th (.kstep m.toNat)) ∧ exec (.mwait m) s = .next (waiting s t th (.kstep m.toNat))) ∧
      ((∀ k ∈ q.queue, ¬mine k) → 8 ≤ (unitCmds q).length →
        exec (.msatr m a) s = .next (waiting s t th (.full (.unit u))) ∧ exec (.mwait m) s = .next (waiting s t th (.full (.unit u)))) ∧
      ((∀ k ∈ q.queue, ¬mine k) → (unitCmds q).length < 8 →
        exec (.msatr m a) s = .next (waiting (setUnit s cl u { q with queue := q.queue ++ [mark 3] }) t th (.kstep m.toNat)) ∧
        exec (.mwait m) s = .next (waiting (setUnit s cl u { q with queue := q.queue ++ [mark 4] }) t th (.kstep m.toNat))))

/-- R228, R229, R231, R100, R141. -/
def Obligations.MatrixSteps : Prop :=
  (∀ (s : State) (c u : Nat) (k : Cmd), (unitAt s c u).running = some k → cmdMajor k = 0x32 →
    (matOp k ≤ 1 → mmaSteps k = 0 →
      exec (.kStep c u) s = .next (completeCmd
        (if matOp k = 1 then writeTile s c (pairEntry (mmaPair k)) (mmaCoff k) (List.replicate 1024 ⟨0, false⟩) else s) c u)) ∧
    (matOp k ≤ 1 → mmaSteps k ≠ 0 →
      let s1 := modRunning (kStep s c k k.step) c u (fun k => { k with step := k.step + 1 })
      (mmaSteps k ≤ k.step + 1 → exec (.kStep c u) s = .next (completeCmd s1 c u)) ∧
      (k.step + 1 < mmaSteps k → exec (.kStep c u) s = .next (stepBoundary (woundAtStep s1 c (cmdTarget k)) c u))) ∧
    (1 < matOp k → exec (.kStep c u) s = .next s) ∧
    (matOp k = 2 →
      let fmt := (fmtOfCode (k.word % 16)).getD .f32
      let ty := k.word / 16 % 4
      let mode := rndOfCode (k.ga.extractLsb' 21 2).toNat
      let sat := (k.ga.extractLsb' 23 1) = 1
      let tile := readTile s c ty (k.ga.extractLsb' 0 20).toNat
      let w := fmtWidth fmt / 8
      exec (.mdrainExecute c u) s = .next (completeCmd (putBytesMap tile.1 (cCell c (k.gb.extractLsb' 0 20).toNat)
        (tile.2.flatMap (fun e => leBytes (convertEntry ty fmt mode sat e.bits) w))
        (tile.2.flatMap (fun e => List.replicate w e.poison))) c u)) ∧
    (matOp k ≠ 2 → exec (.mdrainExecute c u) s = .next s)) ∧
  (∀ (s : State) (c n : Nat) (k : Cmd), Sound s → c < 64 → mmaPair k < 16 → mmaCoff k % 64 = 0 →
    let p := mmaPair k
    let steps := pairK p
    let ty := pairEntry p
    let e := if ty = 1 then 64 else 4
    let at_ (cell n : Nat) : Nat := leNat (cellsRead s.cells cell n)
    let element (cell : Nat) (f : Fmt) (row i kk : Nat) : Elem :=
      let w := fmtWidth f / 8
      let code := at_ (cell + i * row + kk / 4) 1 / 4 ^ (kk % 4) % 4
      if f = .t2 then ⟨fmtVal .t2 code, fmtPoison .t2 code⟩ else
      let v := fmtVal f (at_ (cell + i * row + kk * w) w)
      ⟨if 14 ≤ p then xMul v (fmtVal .f32 (at_ (cell + 2048 + 8 * i + 4 * (kk / 32)) 4)) else v, false⟩
    let entry (cell ty : Nat) : Entry :=
      let v := at_ cell (if ty = 1 then 40 else 4)
      ⟨v, decide (ty = 1) && laPoison (BitVec.ofNat 320 v)⟩
    let fromC (i kk : Nat) : Elem :=
      let ec := if mmaCtype k = 1 then 64 else 4
      let x := entry (cCell c (mmaAoff k + (n * (steps / 32) + kk / 32) * (1024 * ec) + (32 * i + kk % 32) * ec)) (mmaCtype k)
      ⟨fmtVal (pairA p) (convertEntry (mmaCtype k) (pairA p) (rndOfCode (mmaDrnd k)) (mmaDsat k) x.bits), x.poison⟩
    let a (i kk : Nat) : Elem :=
      if mmaFromC k then fromC i kk else element (aCell c (mmaAoff k + n * blockA p)) (pairA p) (if p = 13 then 128 else 64) i kk
    let b (kk j : Nat) : Elem := element (wCell c (mmaBoff k + n * blockB p)) (pairB p) (if p = 13 then 32 else 64) j kk
    let value (x : Elem) : XVal := if x.poison then .fin false 0 1 else x.val
    let terms (i j : Nat) : List Product :=
      (List.range steps).map (fun kk => ⟨xMul (value (a i kk)) (value (b kk j)), (a i kk).poison || (b kk j).poison⟩)
    let place (i j : Nat) : Nat := cCell c (mmaCoff k + (32 * i + j) * e)
    let old (i j : Nat) : Entry := if matOp k = 1 ∧ n = 0 then ⟨0, false⟩ else entry (place i j) ty
    let new (i j : Nat) : Entry × Bool := stepEntry k (old i j) (terms i j)
    let s' := kStep s c k n
    (∀ i j, i < 32 → j < 32 → cellsRead s'.cells (place i j) e = leBytes (new i j).1.bits e ∧
      (ty ≠ 1 → setHas (place i j) s'.marks = (new i j).1.poison)) ∧
    (∀ d, d < cCell c (mmaCoff k) ∨ cCell c (mmaCoff k) + 1024 * e ≤ d → cellGet d s'.cells = cellGet d s.cells) ∧
    ((∃ i j, i < 32 ∧ j < 32 ∧ (new i j).2 = true) → setHas (cmdTarget k % 8) (clusterAt s' c).sat = true) ∧
    ((∀ i j, i < 32 → j < 32 → (new i j).2 = false) → (clusterAt s' c).sat = (clusterAt s c).sat)) ∧
  (∀ (c : Cmd) (e : Entry) (ps : List Product), pairEntry (mmaPair c) = 2 →
    (∀ p ∈ ps, ∃ neg n, p.val = .fin neg n 1) → e.bits < 2 ^ 32 →
    let value (p : Product) : Int := match p.val with
      | .fin true n _ => -(n : Int)
      | .fin false n _ => (n : Int)
      | _ => 0
    let total := (BitVec.ofNat 32 e.bits).toInt + (ps.map value).sum
    let kept := max (-(2 ^ 31)) (min (2 ^ 31 - 1) total)
    stepEntry c e ps = (⟨(BitVec.ofInt 32 kept).toNat, e.poison || ps.any (·.poison)⟩, decide (total ≠ kept))) ∧
  (∀ (c : Cmd) (e : Entry) (ps : List Product), pairEntry (mmaPair c) = 0 → e.bits < 2 ^ 32 →
    let terms := fmtVal .f32 e.bits :: ps.map (·.val)
    let unit (x : XVal) : Int := match x with
      | .fin neg n d => if neg then -((n * 2 ^ 300 / d : Nat) : Int) else (n * 2 ^ 300 / d : Nat)
      | _ => 0
    let total := (terms.map unit).sum
    let mode := rndOfCode (c.gb.extractLsb' 52 2).toNat
    let sat := decide (c.gb.extractLsb' 54 1 = 1)
    let gives (v : Nat) : Prop := stepEntry c e ps = (⟨v, e.poison || ps.any (·.poison)⟩, false)
    (.nan ∈ terms ∨ (.inf true ∈ terms ∧ .inf false ∈ terms) → gives 0x7FC00000) ∧
    (∀ neg, .nan ∉ terms → .inf neg ∈ terms → .inf (!neg) ∉ terms → gives (rnd .f32 mode sat (.inf neg))) ∧
    (.nan ∉ terms → .inf true ∉ terms → .inf false ∉ terms →
      (total = 0 → gives 0) ∧
      (total ≠ 0 → gives (rnd .f32 mode sat (.fin (decide (total < 0)) total.natAbs (2 ^ 300)))))) ∧
  (∀ (c : Cmd) (e : Entry) (ps : List Product), pairEntry (mmaPair c) = 1 → ps ≠ [] → e.bits < 2 ^ 320 →
    let r := stepEntry c e ps
    let old := BitVec.ofNat 320 e.bits
    let acc := BitVec.ofNat 320 r.1.bits
    let sum (v : BitVec 320) : Int := (v.extractLsb' 312 8 ++ v.extractLsb' 0 304 : BitVec 312).toInt
    let clean := ps.filter (fun p => !p.poison)
    let part (p : Product) : Int := match p.val with
      | .fin neg n d => if n < 2 ^ 143 * d then (if neg then -((n * 2 ^ 160 / d : Nat) : Int) else (n * 2 ^ 160 / d : Nat)) else 0
      | _ => 0
    let large (sign : Bool) (p : Product) : Bool := match p.val with
      | .fin neg n d => neg == sign && decide (2 ^ 143 * d ≤ n)
      | _ => false
    let fine (p : Product) : Bool := match p.val with
      | .fin _ n d => decide (n < 2 ^ 143 * d ∧ n * 2 ^ 160 % d ≠ 0)
      | _ => false
    let seen (k : Nat) (b : Bool) : Prop := acc.getLsbD k = (old.getLsbD k || b)
    r.2 = false ∧ r.1.poison = false ∧ r.1.bits < 2 ^ 320 ∧ acc.getLsbD 311 = false ∧
    sum acc = (BitVec.ofInt 312 (sum old + (clean.map part).sum)).toInt ∧
    seen 310 (e.poison || ps.any (·.poison)) ∧ seen 307 (clean.any (fun p => decide (p.val = .nan))) ∧
    seen 306 (clean.any (fun p => decide (p.val = .inf true))) ∧ seen 305 (clean.any (fun p => decide (p.val = .inf false))) ∧
    seen 309 (clean.any (large true)) ∧ seen 308 (clean.any (large false)) ∧ seen 304 (clean.any fine))

/-- R233 to R236: the operations of two inputs, then those of one, with their opcodes. -/
def Obligations.VectorCommands : Prop :=
  ∀ (s : State) (t : Nat) (th : Thread) (p : BitVec 6) (a b : BitVec 5) (sr : BitVec 2), Running s t th →
    let cmd (w : BitVec 32) : Cmd := newCmd t th w.toNat (regGet th a) (regGet th b) []
    let two : List (Instr × BitVec 8) :=
      [(Instr.vadd p a b sr, 0x01#8), (.vsub p a b sr, 0x02#8), (.vmul p a b sr, 0x03#8), (.vmulh p a b sr, 0x04#8),
       (.vmin p a b sr, 0x05#8), (.vmax p a b sr, 0x06#8), (.vavg p a b sr, 0x09#8), (.vabsd p a b sr, 0x0A#8),
       (.vdiv p a b sr, 0x0B#8), (.vrem p a b sr, 0x0C#8), (.vand p a b sr, 0x10#8), (.vor p a b sr, 0x11#8),
       (.vxor p a b sr, 0x12#8), (.vshl p a b sr, 0x14#8), (.vshr p a b sr, 0x15#8), (.vsra p a b sr, 0x16#8),
       (.vrotl p a b sr, 0x17#8), (.vceq p a b sr, 0x20#8), (.vcne p a b sr, 0x21#8), (.vclt p a b sr, 0x22#8),
       (.vcle p a b sr, 0x23#8), (.vcgt p a b sr, 0x24#8), (.vcge p a b sr, 0x25#8), (.vfadd p a b sr, 0x30#8),
       (.vfsub p a b sr, 0x31#8), (.vfmul p a b sr, 0x32#8), (.vfdiv p a b sr, 0x33#8), (.vfmin p a b sr, 0x34#8),
       (.vfmax p a b sr, 0x35#8), (.vfscale p a b sr, 0x3B#8)]
    let one : List (Instr × BitVec 8) :=
      [(Instr.vabs p a b, 0x07#8), (.vneg p a b, 0x08#8), (.vnot p a b, 0x13#8), (.vclz p a b, 0x18#8), (.vctz p a b, 0x19#8),
       (.vpopc p a b, 0x1A#8), (.vbrev p a b, 0x1B#8), (.vcnan p a b, 0x26#8), (.vmov p a b, 0x27#8), (.vfabs p a b, 0x36#8),
       (.vfneg p a b, 0x37#8), (.vfsqrt p a b, 0x38#8), (.vfrcp p a b, 0x39#8), (.vfrsqrt p a b, 0x3A#8), (.vfexp2 p a b, 0x40#8),
       (.vflog2 p a b, 0x41#8), (.vftanh p a b, 0x42#8), (.vfsigm p a b, 0x43#8), (.vfgelu p a b, 0x44#8), (.vfsilu p a b, 0x45#8),
       (.vferf p a b, 0x46#8), (.vfsoftp p a b, 0x47#8), (.vcvt p a b, 0xC0#8), (.vsum p a b, 0xC1#8), (.vmaxr p a b, 0xC2#8),
       (.vamaxr p a b, 0xC3#8)]
    (∀ i op, (i, op) ∈ two →
      let w := wordE 0x33 p a b (op ++ sr)
      decodeControl w = .ok i ∧
      (p.toNat < 8 → sr ≠ 3 → Issues i s t th (4 + p.toNat / 4) (vecReason (cmd w)) (cmd w) (fun s => s)) ∧
      (8 ≤ p.toNat ∨ sr = 3 → exec i s = .next (raiseTrap s t ⟨1, 4, 0⟩))) ∧
    (∀ i op, (i, op) ∈ one →
      let w := wordE 0x33 p a b (op ++ 3#2)
      decodeControl w = .ok i ∧
      (p.toNat < 8 → Issues i s t th (4 + p.toNat / 4) (vecReason (cmd w)) (cmd w) (fun s => s)) ∧
      (8 ≤ p.toNat → exec i s = .next (raiseTrap s t ⟨1, 4, 0⟩)))

/-- R235, R236, R142, R415. -/
def Obligations.VectorSteps : Prop :=
  (∀ (s : State) (c u : Nat) (k : Cmd), (unitAt s c u).running = some k → cmdMajor k = 0x33 →
    let n := (k.gb.extractLsb' 24 16).toNat
    let w := bytesOf (vecFmt k)
    let reduce := 0xC1 ≤ vecOp k
    (n = 0 → exec (.vectorStep c u) s = .next (completeCmd (if reduce then writeReduced s c k else s) c u)) ∧
    (n ≠ 0 → ∀ y : State × List Lane,
      (vecSrc k = 0 ∧ y = bufVector s c (vecB k) w k.step) ∨
      (vecSrc k = 1 ∧ takeLanes s c u 200 = (y.1, .ready y.2)) ∨
      (vecSrc k = 2 ∧ y = (match k.bk with
        | some l => (s, List.replicate 64 l)
        | none =>
          let r := memReadMap s (bufCell c (vecB k).1 (vecB k).2) w
          let l : Lane := (leNat r.2.1, r.2.2.any (fun b => b))
          (modRunning r.1 c u (fun k => { k with bk := some l }), List.replicate 64 l))) ∨
      (vecSrc k = 3 ∧ y = (s, List.replicate 64 (0, false))) →
      let x := bufVector (addCounter y.1 k.ctx 0x68 64) c (vecA k) w k.step
      let s1 := if reduce then modRunning x.1 c u (fun k => reduceVector k x.2)
        else writeVector x.1 c k k.step ((x.2.zip y.2).map (fun p => laneOp k p.1 p.2))
      let s2 := modRunning s1 c u (fun k => { k with step := k.step + 1 })
      (k.step + 1 < n → exec (.vectorStep c u) s = .next (stepBoundary s2 c u)) ∧
      (n ≤ k.step + 1 → exec (.vectorStep c u) s = .next
        (completeCmd (if reduce then writeReduced s2 c (((unitAt s2 c u).running).getD k) else s2) c u))) ∧
    (n ≠ 0 → vecSrc k = 1 → ∀ s', takeLanes s c u 200 = (s', .later) →
      exec (.vectorStep c u) s = .next (stopWaiting s' c u (((unitAt s' c u).running).getD k))) ∧
    (∀ x, ctxOf s k.ctx = some x → x.phase = .running → stopWaiting s c u k = s) ∧
    (let p := 64 + cmdTarget k
     let q := portAt s c p
     let blocked := k.waiting = true ∨ ∃ f ∈ k.frost, f.woken = false
     ∀ fuel,
       (q.failed = true → takeLanes s c u (fuel + 1) = (s, .ready (List.replicate 64 (0, true)))) ∧
       (q.failed = false → blocked → takeLanes s c u (fuel + 1) = (s, .later)) ∧
       (q.failed = false → ¬blocked → q.bindings = [] → k.lanes.length < 64 → takeLanes s c u (fuel + 1) = (setPort s c p q, .later)) ∧
       (∀ b rest, q.failed = false → ¬blocked → q.bindings = b :: rest →
         let ended := bindAccesses b ≤ b.pos ∧ k.lanes ≠ []
         let from_ := (fmtOfCode b.fmt).getD (vecFmt k)
         let bw := bytesOf ((fmtOfCode b.fmt).getD .i32)
         let a := bindAddr b b.pos
         (k.lanes.length = 64 ∨ (k.lanes.length < 64 ∧ ended) →
           takeLanes s c u (fuel + 1) = (setPort (modRunning s c u (fun k => { k with lanes := [] })) c p (dropSpent q),
             .ready (k.lanes.map (toFormat from_ (vecFmt k)) ++ List.replicate (64 - k.lanes.length) (0, false)))) ∧
         (k.lanes.length < 64 → b.pos < bindAccesses b → b.spaceV = false → b.wait = false → a % (bw : Int) = 0 → 0 ≤ a → a < 0x200000 →
           let r := memReadMap s (aCell c a.toNat) bw
           takeLanes s c u (fuel + 1) = takeLanes (modRunning
             (setPort r.1 c p { q with bindings := { b with pos := b.pos + 1 } :: rest, ordinal := if b.pos = 0 then q.ordinal + 1 else q.ordinal }) c u
             (fun k => { k with lanes := k.lanes ++ [(leNat r.2.1, r.2.2.any (fun b => b))], frost := [], froze := [], got := [] })) c u fuel)))) ∧
  (∀ (c u : Nat) (s : State), (unitAt s c u).running = none → exec (.vectorStep c u) s = .next s) ∧
  (∀ (k : Cmd) (x y : Lane), x.2 = true ∨ (y.2 = true ∧ vecSrc k ≠ 3 ∧ vecOp k ≠ 0xC0) → (laneOp k x y).2 = true) ∧
  (∀ (k : Cmd) (x y : Nat), vecFmtCode k = 2 → x < 2 ^ 32 → y < 2 ^ 32 → vecSat k = false →
    (vecOp k = 0x01 → laneOp k (x, false) (y, false) = ((x + y) % 2 ^ 32, false)) ∧
    (vecOp k = 0x02 → laneOp k (x, false) (y, false) = ((x + 2 ^ 32 - y) % 2 ^ 32, false)) ∧
    (vecOp k = 0x10 → laneOp k (x, false) (y, false) = (x &&& y, false)) ∧
    (vecOp k = 0x12 → laneOp k (x, false) (y, false) = (x ^^^ y, false)))

/-- R238, R240, R244. -/
def Obligations.SelectionCommands : Prop :=
  ∀ (s : State) (t : Nat) (th : Thread) (a b : BitVec 5) (m w : BitVec 1) (e : BitVec 4), Running s t th →
    let x := regGet th a
    let y := regGet th b
    let cmd (w : BitVec 32) (bs : List Byte) : Cmd := newCmd t th w.toNat x y bs
    let top := wordE 0x34 0 a b (0#2 ++ 0#7 ++ m)
    let rows := wordE 0x34 0 a b (1#2 ++ 0#8)
    let chk := wordE 0x34 0 a b (2#2 ++ 0#8)
    let ga := wordE 0x35 0 a b (0#2 ++ w ++ 0#3 ++ e)
    let sc := wordE 0x35 0 a b (1#2 ++ 0#8)
    decodeControl top = .ok (.topk a b m) ∧ decodeControl rows = .ok (.predrows a b) ∧ decodeControl chk = .ok (.prcheck a b) ∧
    decodeControl ga = .ok (.gath a b w e) ∧ decodeControl sc = .ok (.scat a b) ∧
    Issues (.topk a b m) s t th 8
      (issueReason [(1, decide (x.extractLsb' 45 19 ≠ 0)), (3, decide (0x200000 < (x.extractLsb' 0 21).toNat + 256)),
        (4, decide ((x.extractLsb' 0 21).toNat % 64 ≠ 0 ∨ y.toNat % 64 ≠ 0))]) (cmd top []) (fun s => s) ∧
    (∀ bs, DescAt s t th x 64 bs →
      Issues (.predrows a b) s t th 8 (predReason (cmd rows bs)) (cmd rows bs) (fun s => s) ∧
      Issues (.prcheck a b) s t th 8 (predReason (cmd chk bs)) (cmd chk bs) (fun s => s)) ∧
    (∀ bs, DescAt s t th x 32 bs →
      let fld (o n : Nat) : Nat := leNat ((bs.drop o).take n)
      let count := fld 24 4
      let row := fld 28 4
      let list := fld 16 8
      let limits := [(4, decide (y.toNat % 64 ≠ 0 ∨ list % 4 ≠ 0)), (5, decide (2 ^ 24 < count ∨ row = 0 ∨ 2 ^ 16 < row))]
      (e.toNat ≤ 11 → Issues (.gath a b w e) s t th 9
        (issueReason ((3, decide (w = 1 ∧ 0x200000 < y.toNat + count * row)) :: limits ++
          [(7, decide (e ≠ 0 ∧ row % (fmtWidth ((fmtOfCode (e.toNat - 1)).getD .i8) / 8) ≠ 0))])) (cmd ga bs) (fun s => s)) ∧
      Issues (.scat a b) s t th 9 (issueReason limits) (cmd sc bs) (fun s => s)) ∧
    (12 ≤ e.toNat → exec (.gath a b w e) s = .next (raiseTrap s t ⟨1, 4, 0⟩))

/-- R239, R241 to R243, R245, R143, R408. When a command that a fault has ended is over is log 113 (DEDUCED). -/
def Obligations.SelectionRuns : Prop :=
  (∀ (s : State) (c : Nat) (k : Cmd), (unitAt s c 8).running = some k → cmdMajor k = 0x34 →
    (selOp k = 0 →
      let write (s : State) (k : Cmd) : State × Cmd := runParts (topkWrite c) s { k with step := 2 } [topkN k]
      let r := runParts (topkRead c) s { k with step := 1 } (partsToTry k (topkN k) (decide (k.step = 1)))
      let w := write r.1 r.2
      let again := runParts (topkWrite c) s k (partsToTry k 0 true)
      (k.step ≠ 2 → r.2.failed = true ∨ r.2.frost ≠ [] → exec (.topkExecute c) s = .next (selectionEnd r.1 c r.2)) ∧
      (k.step ≠ 2 → r.2.failed = false → r.2.frost = [] → exec (.topkExecute c) s = .next (selectionEnd w.1 c w.2)) ∧
      (k.step = 2 → exec (.topkExecute c) s = .next (selectionEnd again.1 c again.2))) ∧
    (tblGet queryKey k.memo = none →
      let q := memReadMap s (wCell c (topkQuery k)) 256
      let order := ranked ((List.range (topkN k)).map (topkScore k (elemsOf .bf16 q.2.1 q.2.2)))
      let bytes := (List.range (topkK k)).flatMap (fun j => topkEntry order[j]?)
      let kept := memoPut k queryKey (rowCode q.2.1 q.2.2)
      let at_ := k.gb.toNat + 64 * ((8 * topkN k + 63) / 64)
      let p := putLines neverHeld c 8 (topkN k) at_ bytes (List.replicate bytes.length false) q.1 kept (List.range (lineCount at_ bytes.length))
      topkWrite c s k (topkN k) = (p.1, p.2, .done false)) ∧
    (selOp k = 1 → k.step = 0 →
      let b := allBounds s c k
      let sel := selectRows k b.2
      let k1 := { k with
        step := 1, best := sel.1.length, sum := boundBits (exactSum (sel.2.map (·.2)))
        rows := (sel.1 ++ sel.2).map (fun p => (p.1, boundBits p.2)) }
      let q := runParts (predPart c) b.1 k1 (List.range (sel.1.length + 1))
      exec (.predrowsExecute c) s = .next (selectionEnd q.1 c q.2)) ∧
    (selOp k = 1 → k.step ≠ 0 →
      let q := runParts (predPart c) s k (partsToTry k 0 true)
      exec (.predrowsExecute c) s = .next (selectionEnd q.1 c q.2)) ∧
    (selOp k = 2 → k.step = 0 → k.frost = [] →
      let r := checkRecord c s k
      (∀ bad, r.2.2 = .done bad →
        let k1 := { dropFrost r.2.1 0 with bad := r.2.1.bad || bad, step := 1 }
        let g := runParts (checkPart c) r.1 k1 ((List.range r.2.1.sum.toNat).map (fun i => i + 1))
        exec (.prcheckExecute c) s = .next (selectionEnd g.1 c g.2)) ∧
      (tblGet sumKey k.memo = none → ∀ reason addr detail, r.2.2 = .ends reason addr detail →
        exec (.prcheckExecute c) s =
          .next (selectionEnd (cmdFault r.1 r.2.1 reason addr detail) c { r.2.1 with frost := [], failed := true }))) ∧
    (selOp k = 2 → k.step ≠ 0 →
      let g := runParts (checkPart c) s k (partsToTry k 0 true)
      exec (.prcheckExecute c) s = .next (selectionEnd g.1 c g.2))) ∧
  (∀ (s : State) (c u : Nat) (k : Cmd),
    let mine (w : PeerWho) : Prop := ∃ i, w = .unit c u i
    cmdEnds s c u k = true ↔ (k.frost = [] ∧ ∀ p ∈ s.requests, ¬mine p.2.who) ∨
      (k.failed = true ∧ ∀ p ∈ s.requests, p.2.type = 1 ∨ ¬mine p.2.who)) ∧
  (∀ (s : State) (c : Nat) (k : Cmd),
    let s1 := modRunning s c 8 (fun _ => k)
    (cmdEnds s1 c 8 k = true → selectionEnd s c k = completeCmd s1 c 8) ∧ (cmdEnds s1 c 8 k = false → selectionEnd s c k = s1)) ∧
  (∀ (f : State → Cmd → Nat → State × Cmd × Part1) (s : State) (k : Cmd) (i : Nat) (rest : List Nat),
    runParts f s k [] = (s, k) ∧ (k.failed = true → runParts f s k (i :: rest) = (s, k)) ∧
    (k.failed = false → ∀ s1 k1 bad, f s k i = (s1, k1, .done bad) → runParts f s k (i :: rest) =
      runParts f s1 { k1 with frost := k1.frost.filter (fun z => z.idx != i), bad := k1.bad || bad } rest)) ∧
  (∀ (s : State) (k : Cmd) (who : PeerWho) (va n : Nat) (t : Nat → Target), Sound s → k.froze = [] →
    let pieces := vPieces va n (n / 256 + 2)
    (∀ p ∈ pieces, Lies s k.ctx needRead p.1 (t p.1)) →
      vGet s k who va n = (s, .ok (pieces.flatMap (fun p => cellsRead s.cells (hbmCell k.masks (t p.1).pa) p.2)) (List.replicate n false))) ∧
  (∀ (s : State) (k : Cmd) (who : PeerWho) (va : Nat) (bs : List Byte) (t : Target), Sound s → k.froze = [] → bs ≠ [] →
    va % 256 + bs.length ≤ 256 → Lies s k.ctx needWrite va t → t.pa < hbmBytes →
      vPut s k who va bs (List.replicate bs.length false) = ({ s with cells := cellsWrite s.cells (hbmCell k.masks t.pa) bs }, none)) ∧
  (∀ (s : State) (c e : Nat) (k : Cmd), e < 2 ^ 32 →
    let who : PeerWho := .unit c 9 e
    let n := gathRow k
    let flat := k.gb.toNat + e * n
    let left (k : Cmd) : Cmd := { k with memo := tblDel e (tblDel (2 ^ 32 + e) k.memo) }
    let known (v : Nat) : Cmd := { k with memo := tblSet e v k.memo }
    let out (held : State → Cmd → Nat → Nat → Bool) (va : Nat) (bs : List Byte) (pm : List Bool) (s : State) : State × Cmd × Part1 :=
      let r := putLines held c 9 e va bs pm s { k with memo := tblSet (2 ^ 32 + e) (rowCode bs pm) k.memo } (List.range (lineCount va bs.length))
      (r.1, if linesOpen r.1 c 9 r.2 e then r.2 else left r.2, .done false)
    (tblGet e k.memo = none → ∀ s1 bs, vGet s k who (gathList k + 4 * e) 4 = (s1, .ok bs (List.replicate 4 false)) → pendingFor s1 who = false →
      bs.length = 4 → gathPart c s k e = gathPart c s1 (known (leNat bs)) e ∧ scatPart c s k e = scatPart c s1 (known (leNat bs)) e) ∧
    (tblGet e k.memo = some 0xFFFFFFFF → gathPart c s k e = (s, left k, .done false) ∧ scatPart c s k e = (s, left k, .done false)) ∧
    (∀ v, tblGet e k.memo = some v → v < 0xFFFFFFFF →
      let row : Int := (descField k 0 8 : Int) + (v : Int) * (BitVec.ofNat 64 (descField k 8 8)).toInt
      (row < 0 ∨ 2 ^ 57 ≤ row → gathPart c s k e = (s, k, .stop 1 (row % 2 ^ 64).toNat 0 false)) ∧
      (0 ≤ row → row < 2 ^ 57 → gathDec k = 0 → ∀ s1 bs pm, vGet s k who row.toNat n = (s1, .ok bs pm) → pendingFor s1 who = false →
        (gathToW k = true → gathPart c s k e = (putBytesMap s1 (wCell c flat) bs pm, left k, .done (pm.any (fun b => b)))) ∧
        (gathToW k = false → gathPart c s k e = out neverHeld flat bs pm s1)) ∧
      (∀ s1 bs pm, vGet s k who flat n = (s1, .ok bs pm) → pendingFor s1 who = false →
        (row < 0 ∨ 2 ^ 57 ≤ row → scatPart c s k e = (s1, k, .stop 1 (row % 2 ^ 64).toNat 0 true)) ∧
        (0 ≤ row → row < 2 ^ 57 → scatPart c s k e = out (scatHeld c e) row.toNat bs pm s1)))) ∧
  (∀ (s : State) (c : Nat) (k : Cmd) (ti : Target) (tr : Nat → Target), (unitAt s c 9).running = some k → cmdMajor k = 0x35 → gathDec k = 0 →
    gathCount k = 1 → k.step = 0 → k.frost = [] → k.froze = [] → k.memo = [] → k.failed = false → Sound s → s.requests = [] → c < 64 →
    gathList k % 4 = 0 → k.gb.toNat % 64 = 0 → 0 < gathRow k → Lies s k.ctx needRead (gathList k) ti →
    let v := leNat (cellsRead s.cells (hbmCell k.masks ti.pa) 4)
    let row : Int := (descField k 0 8 : Int) + (v : Int) * (BitVec.ofNat 64 (descField k 8 8)).toInt
    let bytes (va : Nat) : List Byte :=
      (vPieces va (gathRow k) (gathRow k / 256 + 2)).flatMap (fun p => cellsRead s.cells (hbmCell k.masks (tr p.1).pa) p.2)
    let wrote (cell : Nat) (bs : List Byte) : State :=
      completeCmd (modRunning { s with cells := cellsWrite s.cells cell bs } c 9 (fun _ => { k with step := 1 })) c 9
    v ≠ 0xFFFFFFFF → 0 ≤ row → row < 2 ^ 57 →
    (isScat k = false → gathToW k = true → k.gb.toNat + gathRow k ≤ 0x200000 →
      (∀ p ∈ vPieces row.toNat (gathRow k) (gathRow k / 256 + 2), Lies s k.ctx needRead p.1 (tr p.1)) →
      exec (.gathExecute c) s = .next (wrote (wCell c k.gb.toNat) (bytes row.toNat))) ∧
    (isScat k = true → row.toNat % 64 + gathRow k ≤ 64 → Lies s k.ctx needRead k.gb.toNat (tr k.gb.toNat) →
      ∀ td, Lies s k.ctx needWrite row.toNat td → td.pa < hbmBytes →
        exec (.scatExecute c) s = .next (wrote (hbmCell k.masks td.pa) (cellsRead s.cells (hbmCell k.masks (tr k.gb.toNat).pa) (gathRow k))))) ∧
  (∀ (s s1 : State) (c e : Nat) (k : Cmd) (bs : List Byte) (pm : List Bool),
    let who : PeerWho := .unit c 8 (e + 1)
    let j := (k.rows.getD e (0, 0)).1
    let dst := prDest k + e * prRowBytes k
    e + 1 < 2 ^ 32 → dst + prRowBytes k ≤ 0x200000 → vGet s k who (descField k 24 8 + j * descField k 32 4) (prRowBytes k) = (s1, .ok bs pm) →
    pendingFor s1 who = false → predPart c s k (e + 1) = (putBytesMap s1 (wCell c dst) bs pm, k, .done (pm.any (fun b => b))) ∧
      (∀ e', k.best + e' = e → ∀ s2, vGet s k (.unit c 8 (e' + 1)) (descField k 24 8 + j * descField k 32 4) (prRowBytes k) = (s2, .ok bs pm) →
        pendingFor s2 (.unit c 8 (e' + 1)) = false →
        checkPart c s k (e' + 1) = (putBytesMap s2 (wCell c dst) bs pm, k, .done (pm.any (fun b => b))))) ∧
  (∀ (s : State) (c : Nat) (k : Cmd),
    let put (head : List Byte) (l : List Byte) : State × Cmd × Part1 :=
      let bs := head ++ l
      let r := putLines neverHeld c 8 0 k.gb.toNat bs (List.replicate bs.length false) s k (List.range (lineCount k.gb.toNat bs.length))
      (r.1, r.2, .done false)
    let head (nrep bsum : Nat) : List Byte :=
      leBytes k.best 4 ++ leBytes (k.rows.length - k.best) 4 ++ leBytes nrep 4 ++ leBytes 0 4 ++ leBytes bsum 4 ++ leBytes 0 44
    predPart c s k 0 = put (head 0 k.sum.toNat) (k.rows.flatMap (fun r => leBytes (r.2 * 2 ^ 32 + r.1) 8)) ∧
    (∀ v, tblGet sumKey k.memo = some v → checkPart c s k 0 = put (head k.sum.toNat v) [])) ∧
  (∀ (k : Cmd) (bs : List XVal), (∀ b ∈ bs, (∃ n d, b = .fin false n d ∧ 0 < d) ∨ b = .inf false) → bs.length < 2 ^ 16 →
    let r := selectRows k bs
    let above (j : Nat) : Prop := ∃ b, bs[j]? = some b ∧ xLt (floatVal .f32 (descField k 16 4)) b = true
    let ahead (i j : Nat) : Prop := ∃ x y, bs[i]? = some x ∧ bs[j]? = some y ∧ (xLt y x = true ∨ (xLt x y = false ∧ i < j))
    (r.1 ++ r.2).Perm ((List.range bs.length).zip bs) ∧ r.1.Pairwise (fun p q => p.1 < q.1) ∧ r.2.Pairwise (fun p q => ahead p.1 q.1) ∧
    r.1.length ≤ prMaxsel k ∧ (∀ p ∈ r.1, above p.1) ∧
    (∀ p ∈ r.2, above p.1 → r.1.length = prMaxsel k ∧ ∀ q ∈ r.1, ahead q.1 p.1)) ∧
  (∀ (e : XVal) (bs : List XVal),
    let rest (m : Nat) : XVal := if m = bs.length then .fin false 0 1 else exactSum (bs.drop m)
    let within (m : Nat) : Prop := xIsNan e = false ∧ xLt e (.fin false 0 1) = false ∧ xLt e (rest m) = false
    let r := replayCount e bs 0
    r.1 ≤ bs.length ∧ r.2 = rest r.1 ∧ (∀ m, m < r.1 → ¬within m) ∧ (r.1 < bs.length → within r.1)) ∧
  (∀ (s : State) (c : Nat) (k : Cmd), (unitAt s c 9).running = some k → cmdMajor k = 0x35 →
    let part := if isScat k then scatPart c else gathPart c
    let r := runParts part s k (partsToTry k (gathCount k) (decide (k.step = 1)))
    let s1 := modRunning r.1 c 9 (fun _ => { r.2 with step := 1 })
    let i := if isScat k then Instr.scatExecute c else .gathExecute c
    (cmdEnds s1 c 9 r.2 = true → exec i s = .next (completeCmd s1 c 9)) ∧ (cmdEnds s1 c 9 r.2 = false → exec i s = .next s1)) ∧
  (∀ (held : State → Cmd → Nat → Nat → Bool) (s s' : State) (c u i va n : Nat) (bs : List Byte) (pm : List Bool) (k : Cmd),
    let lo := if n = 0 then va else (va / 64 + n) * 64
    let len := min (va + bs.length) ((va / 64 + n + 1) * 64) - lo
    let cut (l : List Byte) : List Byte := (l.drop (lo - va)).take len
    let bad := (pm.drop (lo - va)).take len
    (held s k lo len = true → linePart held c u i va bs pm s k n = (s, .held)) ∧
    (held s k lo len = false → vPut s k (.unit c u (lineIdx i n)) lo (cut bs) bad = (s', none) →
      linePart held c u i va bs pm s k n = (s', .done (bad.any (fun b => b)))) ∧
    (∀ reason addr page, held s k lo len = false → vPut s k (.unit c u (lineIdx i n)) lo (cut bs) bad = (s', some (reason, addr, page)) →
      linePart held c u i va bs pm s k n = (s', .stop reason addr page true))) ∧
  (∀ (s : State) (c : Nat), (unitAt s c 8).running = none → (unitAt s c 9).running = none →
    ∀ i ∈ [Instr.topkExecute c, .predrowsExecute c, .prcheckExecute c, .gathExecute c, .scatExecute c], exec i s = .next s) ∧
  (∀ vs : List Score, (∀ neg n d, some (.fin neg n d) ∈ vs → 0 < d) →
    let key (p : Nat × Score) : Option XVal := p.2.bind (fun x => if xIsNan x then none else some x)
    let above (p q : Nat × Score) : Prop := match key p, key q with
      | some x, some y => xLt y x = true ∨ (xLt x y = false ∧ p.1 < q.1)
      | some _, none => True
      | none, some _ => False
      | none, none => p.1 < q.1
    (ranked vs).Perm ((List.range vs.length).zip vs) ∧ (ranked vs).Pairwise above)

/-- R247 to R249. The number of a formation is the context's counter. How a launch counts before it is admitted, and that an unreadable
descriptor traps, are the model's readings (logs 54, 59, 98, 99). -/
def Obligations.LaunchInstructions : Prop :=
  ∀ (s : State) (t : Nat) (th : Thread) (a b : BitVec 5), Running s t th →
    let x := regGet th a
    decodeControl (wordE 0x36 0 a 0 0) = .ok (.glaunch a) ∧ decodeControl (wordE 0x36 0 a b 1) = .ok (.sarm a b) ∧
    decodeControl (wordE 0x36 0 a b 2) = .ok (.fwait a b) ∧
    (x.toNat % 16 ≠ 0 → exec (.glaunch a) s = .next (raiseTrap s t ⟨2, memDetail .v false 4, x.toNat⟩)) ∧
    (x.toNat % 16 = 0 → th.posted ≠ [] → exec (.glaunch a) s = .next (waiting s t th .retry)) ∧
    (x.toNat % 16 = 0 → th.posted = [] → ∀ c, place s t th .v x 16 ⟨true, false, false, false⟩ false none = (s, .at_ (.cell c)) →
      let r := memRead s c 16
      let d := leNat r.2.bytes
      let graph := bitsOf d 6 51 * 64
      let ask := peekTasks s th.ctx graph (.thread t 1)
      let unknown : Prop := ∀ m, th.peek ≠ some (graph, m)
      let last := s.lastOf.find? (fun q => decide (q.1 = .thread t))
      let l (n : Nat) : Launch :=
        { ctx := th.ctx, source := .thread t, event := bitsOf d 96 32, prio := bitsOf d 64 3, graph := graph, overlap := decide (d % 2 = 1),
          admitted := false, anyFailed := false, prev := last.map (·.2), tasks := [],
          descBad := decide (bitsOf d 67 29 ≠ 0 ∨ bitsOf d 57 7 ≠ 0 ∨ bitsOf d 1 5 ≠ 0), daddr := x.toNat, resv := n,
          hold := commandCounts r.1 t, fill := none, got := [] }
      let full (n : Nat) : Prop := 64 ≤ s.launches.length ∨ 16384 < poolTasks s + n
      (r.2.reason ≠ 0 → exec (.glaunch a) s = .next (raiseTrap r.1 t ⟨5, memDetail .v false r.2.reason, x.toNat⟩)) ∧
      (∀ n, r.2.reason = 0 → r.1 = s → (th.peek = some (graph, n) ∨ (unknown ∧ ask = (s, .tasks n))) →
        (full n → exec (.glaunch a) s = .next (waiting s t th (.full (.pool n)))) ∧
        (¬full n → exec (.glaunch a) s = .next (completed
        { s with
            launches := tblSet s.nextLaunch (l n) s.launches
            lastOf := (.thread t, s.nextLaunch) :: s.lastOf.filter (fun q => decide (q.1 ≠ .thread t))
            nextLaunch := s.nextLaunch + 1 } t { th with peek := none }))) ∧
      (∀ s' key, r.2.reason = 0 → r.1 = s → unknown → ask = (s', .asks key) →
        exec (.glaunch a) s = .next (waitAt s' t (.peer key)))) ∧
    (∀ bs c, DescAt s t th x 64 bs → ctxOf s th.ctx = some c →
      let g := leNat (bs.take 8)
      let r := issueReason [(1, ((bs.drop 12).take 20).any (fun v => v ≠ 0)), (9, decide (g % 64 ≠ 0))]
      let consts := (List.range 8).map (fun k => BitVec.ofNat 32 (leNat ((bs.drop (32 + 4 * k)).take 4)))
      let fm := newForm s th.ctx th.launch th.task c.nextForm (some t) (some (clusterOf t)) g (leNat ((bs.drop 8).take 4)) consts th.prio
      let th1 := { th with armed := lastN 16 (th.armed ++ [(c.nextForm, 3)]), openForms := setAdd c.nextForm th.openForms }
      (r ≠ 0 → exec (.sarm a b) s = .next (raiseTrap s t ⟨6, r, 0⟩)) ∧
      (r = 0 → 8 ≤ th.openForms.length → exec (.sarm a b) s = .next (waiting s t th (.full .armed))) ∧
      (r = 0 → th.openForms.length < 8 → exec (.sarm a b) s = .next (resulted
        (modCtx (addForm s fm) th.ctx (fun c => { c with nextForm := c.nextForm + 1 })) t th1 b (BitVec.ofNat 64 c.nextForm)))) ∧
    (let known := th.armed.find? (fun p => decide (p.1 = x.toNat))
     (known = none → exec (.fwait a b) s = .next (resulted s t th b 2)) ∧
     (∀ p, known = some p → p.2 ≠ 3 → exec (.fwait a b) s = .next (resulted s t th b (BitVec.ofNat 64 p.2))) ∧
     (∀ p, known = some p → p.2 = 3 → exec (.fwait a b) s = .next (waiting s t th .retry)))

/-- R253 to R255. -/
def Obligations.FullEmptyForms : Prop :=
  ∀ (s : State) (t : Nat) (th : Thread) (d a b : BitVec 5) (sp : BitVec 2) (o : BitVec 5) (c : Nat), Running s t th → s.wordWaits = [] →
    let p : Space := if sp = 0 then .i else if sp = 1 then .v else if sp = 2 then .a else .c
    let x := regGet th a + BitVec.ofInt 64 (4 * o.toInt)
    let word (op : BitVec 3) (d b : BitVec 5) : BitVec 32 := wordA 0x38 d a b (op ++ sp ++ 0#1 ++ o)
    let k := wordKey th.masks c
    let r := memRead s c 4
    let v := leNat r.2.bytes
    let parked (op : WordOp) (gd : Nat) : State :=
      { waiting s t th (.word k p x.toNat) with wordWaits := [(k, [⟨.thread t gd, op, c⟩])] }
    let emptied := setEmpty s th.ctx k
    let filled := setFull (memStore s c (leBytes ((regGet th d).toNat % 2 ^ 32) 4) false) k
    let trap (store : Bool) := raiseTrap r.1 t ⟨5, memDetail p store r.2.reason, x.toNat⟩
    let there (w store : Bool) : Prop := place s t th p x 4 ⟨true, w, false, true⟩ store none = (s, .at_ (.cell c))
    let own := postedOn th c 4 = true
    decodeControl (word 0 d 0) = .ok (.ldwF d a sp o) ∧ decodeControl (word 1 d 0) = .ok (.stwE d a sp o) ∧
    decodeControl (word 2 d 0) = .ok (.ldwFt d a sp o) ∧ decodeControl (word 3 d b) = .ok (.stwEt d a b sp o) ∧
    decodeControl (word 4 d 0) = .ok (.ldwFk d a sp o) ∧ decodeControl (word 5 d 0) = .ok (.ldwQ d a sp o) ∧
    decodeControl (word 6 0 0) = .ok (.fclr a sp o) ∧
    (there true false → own → ∀ i ∈ [Instr.ldwF d a sp o, .ldwFt d a sp o, .ldwFk d a sp o, .fclr a sp o],
      exec i s = .next (waiting s t th .retry)) ∧
    (there true false → ¬own →
      (wordFull s k = true → r.2.reason = 0 →
        (tagRoom s k = true → exec (.ldwF d a sp o) s = .next (resulted emptied t th d (BitVec.ofNat 64 v)) ∧
          exec (.ldwFt d a sp o) s = .next (resulted emptied t th d (BitVec.ofNat 64 (2 ^ 32 + v)))) ∧
        (tagRoom s k = false → exec (.ldwF d a sp o) s = .next (parked .takeFull d.toNat) ∧
          exec (.ldwFt d a sp o) s = .next (waiting s t th .retry)) ∧
        exec (.ldwFk d a sp o) s = .next (resulted s t th d (BitVec.ofNat 64 v))) ∧
      (wordFull s k = true → r.2.reason ≠ 0 → tagRoom s k = true → exec (.ldwFt d a sp o) s = .next (trap false)) ∧
      (wordFull s k = true → r.2.reason ≠ 0 → th.status.getLsbD 0 = false → th.tvec ≠ 0 →
        exec (.ldwF d a sp o) s = .next (trap false) ∧ exec (.ldwFk d a sp o) s = .next (trap false)) ∧
      (wordFull s k = false → exec (.ldwF d a sp o) s = .next (parked .takeFull d.toNat) ∧
        exec (.ldwFk d a sp o) s = .next (parked .keepFull d.toNat) ∧ exec (.ldwFt d a sp o) s = .next (resulted s t th d 0)) ∧
      (wordFull s k = false ∨ tagRoom s k = true → exec (.fclr a sp o) s = .next (completed emptied t th)) ∧
      (wordFull s k = true → tagRoom s k = false → exec (.fclr a sp o) s = .next (waiting s t th .retry))) ∧
    (there true true → own → exec (.stwE d a sp o) s = .next (waiting s t th .retry) ∧
      exec (.stwEt d a b sp o) s = .next (waiting s t th .retry)) ∧
    (there true true → ¬own →
      (wordFull s k = false → exec (.stwE d a sp o) s = .next (completed filled t th) ∧
        exec (.stwEt d a b sp o) s = .next (resulted filled t th b 1)) ∧
      (wordFull s k = true → exec (.stwE d a sp o) s = .next (parked (.fillEmpty ((regGet th d).extractLsb' 0 32) false) 0) ∧
        exec (.stwEt d a b sp o) s = .next (resulted s t th b 0))) ∧
    (there false false → ¬own →
      (r.2.reason = 0 → exec (.ldwQ d a sp o) s =
        .next (resulted s t th d (BitVec.ofNat 64 ((if wordFull s k then 2 ^ 32 else 0) + v)))) ∧
      (r.2.reason ≠ 0 → exec (.ldwQ d a sp o) s = .next (trap false)))

/-- R256 to R258; R427 for an overflow line that fits no longer. The model's choices: the reason 3 of a poisoned word, however the poison was
found (log 49, DEDUCED), and which lines have a check, and when they get it (log 87, DESIGN CHOICE). -/
def Obligations.Atomics : Prop :=
  ∀ (s : State) (t : Nat) (th : Thread) (d a b : BitVec 5) (z : BitVec 2) (p x : BitVec 1) (c : Nat), Running s t th →
    let n : Nat := 2 ^ z.toNat
    let w := 8 * n
    let addr := regGet th a
    let r := memRead s c n
    let old := leNat r.2.bytes
    let v := (regGet th b).toNat % 2 ^ w
    let cmp := (regGet th d).toNat % 2 ^ w
    let sgn (k : Nat) : Int := if k < 2 ^ (w - 1) then k else (k : Int) - 2 ^ w
    let result : Word := if x = 1 ∧ 2 ^ (w - 1) ≤ old then BitVec.ofInt 64 ((old : Int) - 2 ^ w) else BitVec.ofNat 64 old
    let word (op : BitVec 5) (b : BitVec 5) (x : BitVec 1) : BitVec 32 := wordA 0x39 d a b (op ++ z ++ p ++ x ++ 0#2)
    let ops : List (Instr × BitVec 5 × Option Nat) :=
      [(.amoSwap d a b z p x, 0, some v), (.amoAdd d a b z p x, 1, some ((old + v) % 2 ^ w)), (.amoAnd d a b z p x, 2, some (old &&& v)),
       (.amoOr d a b z p x, 3, some (old ||| v)), (.amoXor d a b z p x, 4, some (old ^^^ v)),
       (.amoMin d a b z p x, 5, some (if sgn old ≤ sgn v then old else v)), (.amoMax d a b z p x, 6, some (if sgn old ≤ sgn v then v else old)),
       (.amoMinu d a b z p x, 7, some (if old ≤ v then old else v)), (.amoMaxu d a b z p x, 8, some (if old ≤ v then v else old)),
       (.amoCas d a b z p x, 9, if old = cmp then some v else none)]
    let put (e : Option Nat) : State := match e with
      | some e => putObject s th.ctx (decide (p = 1)) c (leBytes e n) false
      | none => s
    let trap := raiseTrap s t ⟨1, 4, 0⟩
    let poison := raiseTrap r.1 t ⟨5, memDetail (if p = 1 then .s else .v) true 3, addr.toNat⟩
    let placed : Prop := syPlace s t th (decide (p = 1)) addr n true = (s, .at_ (.cell c))
    let fits : Prop := (ovfLines (decide (p = 1)) c n).all (lineFits s th.ctx) = true
    let there : Prop := placed ∧ fits
    decodeControl (word 10 b 0) = .ok (.amoFmax d a b z p) ∧ decodeControl (word 11 0 0) = .ok (.amaxrr d a z p) ∧
    (∀ i op e, (i, op, e) ∈ ops →
      decodeControl (word op b x) = .ok i ∧
      ((z = 2 ∨ (z = 3 ∧ x = 0)) → there →
        (r.2.reason = 0 → exec i s = .next (resulted (put e) t th d result)) ∧ (r.2.reason ≠ 0 → exec i s = .next poison)) ∧
      ((z = 2 ∨ (z = 3 ∧ x = 0)) → placed → ¬fits → exec i s = .next (hitContext s th.ctx 5)) ∧
      (¬(z = 2 ∨ (z = 3 ∧ x = 0)) → exec i s = .next trap)) ∧
    (z = 1 ∨ z = 2 → there → r.2.reason = 0 →
      let f : Fmt := if z = 1 then .bf16 else .f32
      let big := if xIsNan (floatVal f old) ∨ xIsNan (floatVal f v) then nanOf f else floatMinMax f true old v
      exec (.amoFmax d a b z p) s = .next (resulted (put (some big)) t th d (BitVec.ofNat 64 old)) ∧
      exec (.amaxrr d a z p) s = .next (resulted (put (some 0)) t th d (BitVec.ofNat 64 old))) ∧
    (z = 1 ∨ z = 2 → there → r.2.reason ≠ 0 → exec (.amoFmax d a b z p) s = .next poison ∧ exec (.amaxrr d a z p) s = .next poison) ∧
    (z = 1 ∨ z = 2 → placed → ¬fits →
      exec (.amoFmax d a b z p) s = .next (hitContext s th.ctx 5) ∧ exec (.amaxrr d a z p) s = .next (hitContext s th.ctx 5)) ∧
    (z = 0 ∨ z = 3 → exec (.amoFmax d a b z p) s = .next trap ∧ exec (.amaxrr d a z p) s = .next trap)

/-- R250, R251, R259 to R263, R427, R434, R435. The model's choices: where a cell's waiting contributions stand, and what a `red.fadd` that stalls
is (log 20), that only `red.ldrain` traps on poison (log 49), which lines have a check (log 87), and how a cell on a peer page is reached (log 88). -/
def Obligations.TicketsAndReductions : Prop :=
  (∀ (s : State) (t : Nat) (th : Thread) (d a b sp : BitVec 5) (f : BitVec 4) (r : BitVec 2) (c : Nat), Running s t th →
    let x := regGet th a
    let y := regGet th b
    let read (n : Nat) : Nat := leNat (memRead s c n).2.bytes
    let after (n : Nat) : State := (memRead s c n).1
    let bad (n : Nat) : Bool := decide ((memRead s c n).2.reason ≠ 0)
    let fits (inS : Bool) (n : Nat) : Prop := (ovfLines inS c n).all (lineFits s th.ctx) = true
    let put (n : Nat) (bs : List (BitVec 8)) (p : Bool) : State := putObject (after n) th.ctx true c bs p
    let word (op : BitVec 5) (d b : BitVec 5) (f : BitVec 4) (r : BitVec 2) : BitVec 32 := wordA 0x3A d a b (op ++ f ++ r)
    let ill := raiseTrap s t ⟨1, 4, 0⟩
    decodeControl (word 0 d b 0 0) = .ok (.tkt d a b) ∧ decodeControl (word 1 0 b 0 0) = .ok (.tkset a b) ∧
    decodeControl (word 2 0 b 0 0) = .ok (.redinit a b) ∧ decodeControl (word 3 d b 0 0) = .ok (.redFadd d a b) ∧
    decodeControl (word 4 d 0 0 0) = .ok (.redrd d a) ∧ decodeControl (word 5 0 b f 0) = .ok (.redLadd a b f) ∧
    decodeControl (word 6 0 sp 0 0) = .ok (.redLclr a sp) ∧ decodeControl (word 7 d sp f r) = .ok (.redLdrain d a sp f r) ∧
    (sPlace s th x 16 true = (s, .at_ (.cell c)) → fits true 16 →
      (read 16 % 2 ^ 64 + y.toNat ≤ read 16 / 2 ^ 64 → exec (.tkt d a b) s =
        .next (resulted (put 16 (leBytes (read 16 % 2 ^ 64 + y.toNat) 8) (bad 16)) t th d (BitVec.ofNat 64 (read 16 % 2 ^ 64)))) ∧
      (read 16 / 2 ^ 64 < read 16 % 2 ^ 64 + y.toNat →
        exec (.tkt d a b) s = .next (resulted (after 16) t th d 0xFFFFFFFFFFFFFFFF)) ∧
      exec (.tkset a b) s = .next (completed
        (put 16 (leBytes 0 8 ++ leBytes (if y.toNat < 2 ^ 63 then y.toNat else 2 ^ 63 - 1) 8) false) t th)) ∧
    (sPlace s th x 16 true = (s, .at_ (.cell c)) → ¬fits true 16 →
      exec (.tkt d a b) s = .next (hitContext s th.ctx 5) ∧ exec (.tkset a b) s = .next (hitContext s th.ctx 5)) ∧
    (sPlace s th x 512 true = (s, .at_ (.cell c)) → ¬fits true 8 →
      exec (.redinit a b) s = .next (hitContext s th.ctx 5) ∧ exec (.redFadd d a b) s = .next (hitContext s th.ctx 5)) ∧
    (sPlace s th x 512 true = (s, .at_ (.cell c)) → fits true 8 →
      let whole : Prop := (ovfLines true c 512).all (lineFits (after 8) th.ctx) = true
      let i := (regGet th d).toNat % 2 ^ 32
      let next := read 8 / 2 ^ 32
      let value := read 8 % 2 ^ 32
      let told := settleGap (after 8) th.ctx c x.toNat next
      let q0 := (tblGet c told.seqCells).getD ⟨[], s.now, false⟩
      let q : SeqCell := { q0 with moved := if q0.slots = [] then s.now else q0.moved }
      let add := rnd .f32 .rne false (xAdd .rne (floatVal .f32 value) (floatVal .f32 (y.toNat % 2 ^ 32)))
      let store (cells : Tbl SeqCell) (bs : List (BitVec 8)) (p : Bool) : State :=
        noteLines (putObject { told with seqCells := cells } th.ctx true c bs p) th.ctx (ovfLines true c 512)
      exec (.redinit a b) s = .next (completed (store
        (if q0.reported ∧ next = 0 then tblSet c ⟨[], s.now, true⟩ told.seqCells else tblDel c told.seqCells) (leBytes (y.toNat % 2 ^ 32) 8) false) t th) ∧
      (¬whole → exec (.redFadd d a b) s = .next (hitContext (after 8) th.ctx 5)) ∧
      (whole → i < next ∨ tblGet i q.slots ≠ none → exec (.redFadd d a b) s = .next (raiseTrap told t ⟨8, i % 65536, 0⟩)) ∧
      (whole → next + 56 ≤ i → tblGet i q.slots = none → exec (.redFadd d a b) s = .next (waitAt told t .retry)) ∧
      (whole → i = next → q.slots = [] → exec (.redFadd d a b) s = .next (completed
        (store (tblDel c told.seqCells) (leBytes ((next + 1) % 2 ^ 32 * 2 ^ 32 + add) 8) (bad 8)) t th)) ∧
      (whole → next < i → i < next + 56 → tblGet i q.slots = none → tblGet next q.slots = none →
        exec (.redFadd d a b) s = .next (completed (store
          (tblSet c { q with slots := tblSet i (y.extractLsb' 0 32) q.slots } told.seqCells) (leBytes (read 8) 8) (bad 8)) t th))) ∧
    (sPlace s th x 512 false = (s, .at_ (.cell c)) →
      (fits true 8 → exec (.redrd d a) s = .next (resulted (after 8) t th d (BitVec.ofNat 64 (read 8)))) ∧
      (¬fits true 8 → exec (.redrd d a) s = .next (hitContext s th.ctx 5))) ∧
    (let inS := x.getLsbD 63 = false
     let y' := x &&& 0x7FFFFFFFFFFFFFFF
     let k : Fmt := if f = 6 then .bf16 else if f = 7 then .f16 else if f = 8 then .f32 else if f = 9 then .e4m3 else .e5m2
     let acc : La := BitVec.ofNat 320 (read 40)
     6 ≤ f.toNat → f.toNat ≤ 10 →
     (syPlace s t th (decide inS) y' 64 true = (s, .at_ (.cell c)) →
        (fits (decide inS) 40 → exec (.redLadd a b f) s = .next (completed (putObject (after 40) th.ctx (decide inS) c
          (leBytes (laAdd acc ⟨floatVal k (y.toNat % 2 ^ fmtWidth k), false⟩).toNat 64) (bad 40)) t th)) ∧
        (¬fits (decide inS) 40 → exec (.redLadd a b f) s = .next (hitContext s th.ctx 5))) ∧
     (¬inS → ∀ dev pa, syPlace s t th false y' 64 true = (s, .at_ (.peer dev pa)) →
        let q := sendRequest s (.thread t 0) th.ctx 1 dev pa 64 false y'.toNat [] false 0
        exec (.redLadd a b f) s = .next (waitAt q.1 t (.peer q.2))) ∧
     (sp = 1 → ∀ dev pa, syPlace s t th false x 64 false = (s, .at_ (.peer dev pa)) →
        let q := sendRequest s (.thread t d.toNat) th.ctx 1 dev pa 64 false x.toNat [] false 0
        exec (.redLdrain d a sp f r) s = .next (waitAt q.1 t (.peer q.2))) ∧
     (sp.toNat ≤ 1 → syPlace s t th (decide (sp = 0)) x 64 false = (s, .at_ (.cell c)) →
        (fits (decide (sp = 0)) 40 → laPoison acc = false → bad 40 = false → exec (.redLdrain d a sp f r) s =
          .next (resulted (after 40) t th d (BitVec.ofNat 64 (laDrain acc k (rndOfCode r.toNat) false)))) ∧
        (fits (decide (sp = 0)) 40 → laPoison acc = true ∨ bad 40 = true → exec (.redLdrain d a sp f r) s =
          .next (raiseTrap (after 40) t ⟨5, memDetail (if sp = 0 then .s else .v) false 3, x.toNat⟩)) ∧
        (¬fits (decide (sp = 0)) 40 → exec (.redLdrain d a sp f r) s = .next (hitContext s th.ctx 5)))) ∧
    (sp.toNat ≤ 1 → syPlace s t th (decide (sp = 0)) x 64 true = (s, .at_ (.cell c)) →
      exec (.redLclr a sp) s = .next (completed (putObject s th.ctx (decide (sp = 0)) c (List.replicate 64 0) false) t th)) ∧
    (sp = 1 → ∀ dev pa, syPlace s t th false x 64 true = (s, .at_ (.peer dev pa)) →
      let q := sendRequest s (.thread t 0) th.ctx 3 dev pa 64 false x.toNat (List.replicate 64 0) false 0
      exec (.redLclr a sp) s = .next (waitAt q.1 t (.peer q.2))) ∧
    (f.toNat < 6 ∨ 10 < f.toNat → exec (.redLadd a b f) s = .next ill ∧ exec (.redLdrain d a sp f r) s = .next ill) ∧
    (2 ≤ sp.toNat → exec (.redLclr a sp) s = .next ill ∧ exec (.redLdrain d a sp f r) s = .next ill)) ∧
  (∀ (s : State) (th : Thread) (x : Word) (n : Nat) (store : Bool), 0 < n →
    let v := x.toNat
    (v % n ≠ 0 → sPlace s th x n store = (s, .trap ⟨2, memDetail .s store 1, v⟩)) ∧
    (v % n = 0 → 2 ^ 24 ≤ v → sPlace s th x n store = (s, .trap ⟨3, memDetail .s store 5, v⟩)) ∧
    (v % n = 0 → v < 2 ^ 24 → v % 2 ^ 22 < 0x1000 → sPlace s th x n store = (s, .trap ⟨3, memDetail .s store 4, v⟩)) ∧
    (v % n = 0 → v < 2 ^ 24 → 0x1000 ≤ v % 2 ^ 22 → v % 2 ^ 22 < sResident s th.ctx (v / 2 ^ 22) →
      sPlace s th x n store = (s, .at_ (.cell (sCell th.ctx (v / 2 ^ 22) (v % 2 ^ 22)))))) ∧
  (∀ (value next n : Nat) (vs : List (BitVec 32)), next + vs.length < 2 ^ 32 → vs.length ≤ n →
    let slots : Tbl (BitVec 32) := (List.range vs.length).zip vs |>.map (fun p => (next + p.1, p.2))
    seqApply value next slots (n + 1) = (vs.foldl (fun v e => seqAdd v e.toNat) value, next + vs.length, [])) ∧
  (∀ (s : State) (x a c : Nat) (q : SeqCell) (low : Nat) (v : BitVec 32) (more : Tbl (BitVec 32)),
    sCellOf s x a = (s, some c) → tblGet c s.seqCells = some q → q.slots = (low, v) :: more →
    (q.reported = false → q.moved + 1000000 ≤ s.now → (ovfLines true c 512).all (lineFits s x) = true → exec (.reductionGapped x a) s = .next (writeRecord
      { s with seqCells := tblSet c { q with reported := true } s.seqCells } x
      { plainRecord 0x25 5 7 with addr := a, detail := low * 2 ^ 32 + leNat (cellsRead s.cells (c + 4) 4) })) ∧
    (q.reported = false → q.moved + 1000000 ≤ s.now → (ovfLines true c 512).all (lineFits s x) = false →
      exec (.reductionGapped x a) s = .next (hitContext s x 5)) ∧
    (q.reported = true ∨ s.now < q.moved + 1000000 → exec (.reductionGapped x a) s = .next s)) ∧
  (∀ (s : State) (x c a next : Nat),
    (∀ q low v more, tblGet c s.seqCells = some q → q.slots = (low, v) :: more →
      (q.reported = false → q.moved + 1000000 ≤ s.now → settleGap s x c a next = writeRecord
        { s with seqCells := tblSet c { q with reported := true } s.seqCells } x
        { plainRecord 0x25 5 7 with addr := a, detail := low * 2 ^ 32 + next }) ∧
      (q.reported = true ∨ s.now < q.moved + 1000000 → settleGap s x c a next = s)) ∧
    ((∀ q, tblGet c s.seqCells = some q → q.slots = []) → settleGap s x c a next = s))

/-- R45, R46, R264 to R267, R428, R429. That a `barw` after a `bara` arrives for the next phase, and that one executed again waits for the
arrival it left, is the model's reading (log 19, DEDUCED). -/
def Obligations.SetsAndPhases : Prop :=
  ∀ (s : State) (t : Nat) (th : Thread) (d a b : BitVec 5), Running s t th →
    let n := (regGet th a).toNat
    let key := th.ctx * 256 + n
    let word (op : BitVec 5) (b : BitVec 5) : BitVec 32 := wordA 0x3B d a b (op ++ 0#6)
    let status (k p : Nat) : Word := BitVec.ofNat 64 (k * 2 ^ 32 + p)
    let p := (regGet th b).toNat % 2 ^ 32
    let past (cur p : Nat) : Bool := decide (1 ≤ (cur + 2 ^ 32 - p % 2 ^ 32) % 2 ^ 32 ∧ (cur + 2 ^ 32 - p % 2 ^ 32) % 2 ^ 32 ≤ 2 ^ 31)
    decodeControl (word 0 0) = .ok (.sjoin d a) ∧ decodeControl (word 1 0) = .ok (.sleave d a) ∧
    decodeControl (word 2 0) = .ok (.barw d a) ∧ decodeControl (word 3 0) = .ok (.bara d a) ∧
    decodeControl (word 4 b) = .ok (.barwp d a b) ∧ decodeControl (word 5 0) = .ok (.binit d a) ∧
    decodeControl (word 6 0) = .ok (.sstat d a) ∧
    (256 ≤ n → (∀ i ∈ [Instr.sjoin d a, .sleave d a, .binit d a, .sstat d a], exec i s = .next (resulted s t th d 3)) ∧
      exec (.barw d a) s = .next (resulted s t th d (status 3 0)) ∧ exec (.bara d a) s = .next (resulted s t th d (status 3 0)) ∧
      exec (.barwp d a b) s = .next (resulted s t th d (status 3 p))) ∧
    (n < 256 → tblGet key s.sets = none →
      ((setsOf s t).length < 8 → exec (.sjoin d a) s =
        .next (resulted { s with sets := tblSet key ⟨[t], 0, [t], [], []⟩ s.sets } t th d 0)) ∧
      (8 ≤ (setsOf s t).length → exec (.sjoin d a) s = .next (resulted s t th d 2)) ∧
      exec (.sleave d a) s = .next (resulted s t th d 1) ∧ exec (.binit d a) s = .next (resulted s t th d 1) ∧
      exec (.sstat d a) s = .next (resulted s t th d 0) ∧
      exec (.barw d a) s = .next (resulted s t th d (status 2 0)) ∧ exec (.bara d a) s = .next (resulted s t th d (status 2 0)) ∧
      exec (.barwp d a b) s = .next (resulted s t th d (status 2 p))) ∧
    (n < 256 → ∀ o, tblGet key s.sets = some o → o.phase < 2 ^ 32 →
      (setHas t o.members = false → (setsOf s t).length < 8 → exec (.sjoin d a) s =
        .next (resulted { s with sets := tblSet key { o with members := setAdd t o.members } s.sets } t th d 0)) ∧
      (setHas t o.members = true → exec (.sjoin d a) s = .next (resulted s t th d 1)) ∧
      (setHas t o.members = false → exec (.sleave d a) s = .next (resulted s t th d 1) ∧
        exec (.barw d a) s = .next (resulted s t th d (status 2 o.phase)) ∧
        exec (.bara d a) s = .next (resulted s t th d (status 2 o.phase))) ∧
      (setHas t o.members = true → th.posted = [] → exec (.sleave d a) s = .next (quitSet (resulted s t th d 0) key t)) ∧
      (setHas t o.members = true → th.posted ≠ [] → exec (.sleave d a) s = .next (waiting s t th .retry)) ∧
      exec (.binit d a) s = .next (revokePhase (resulted s t th d 0) key) ∧
      (∀ s' : State, tblGet key s'.sets = some o → tblGet key (revokePhase s' key).sets =
        some { o with phase := (o.phase + 1) % 2 ^ 32, required := o.members, arrived := [], arrivedNext := [] } ∧
        revokePhase s' key = resumeWaiters
          { s' with sets := tblSet key { o with phase := (o.phase + 1) % 2 ^ 32, required := o.members, arrived := [], arrivedNext := [] } s'.sets } key 1
          (fun q member => if past o.phase q then none else some (if member then o.phase else q))) ∧
      exec (.sstat d a) s = .next (resulted s t th d (BitVec.ofNat 64 (o.members.length * 2 ^ 32 + o.phase))) ∧
      let stands (e : Nat × Nat × Nat) : Prop := e.1 = th.pc.toNat ∧ e.2.1 = key ∧
        ((e.2.2 = o.phase ∧ setHas t o.arrived = true) ∨ (e.2.2 = (o.phase + 1) % 2 ^ 32 ∧ setHas t o.arrivedNext = true))
      let fresh := ∀ e ∈ th.barwHeld, ¬stands e
      (setHas t o.members = true → ∀ e ∈ th.barwHeld, stands e → (∀ e' ∈ th.barwHeld, stands e' → e' = e) →
        exec (.barw d a) s = .next (waiting s t th (.phase key e.2.2 true d.toNat))) ∧
      (setHas t o.members = true → th.posted ≠ [] →
        (fresh → exec (.barw d a) s = .next (waiting s t th .retry)) ∧ exec (.bara d a) s = .next (waiting s t th .retry)) ∧
      (setHas t o.members = true → th.posted = [] →
        let cur := setHas t o.required && !setHas t o.arrived
        let twice := !cur && setHas t o.arrivedNext
        let q := if cur then o.phase else (o.phase + 1) % 2 ^ 32
        let o1 : SetObj := if q = o.phase then { o with arrived := setAdd t o.arrived } else { o with arrivedNext := setAdd t o.arrivedNext }
        let s1 : State := { s with sets := tblSet key o1 s.sets }
        (twice = true → (fresh → exec (.barw d a) s = .next (waiting s t th (.arrive key o.phase))) ∧
          exec (.bara d a) s = .next (waiting s t th (.arrive key o.phase))) ∧
        (twice = false → (fresh → exec (.barw d a) s = .next (settleSet (waiting s1 t th (.phase key q true d.toNat)) key)) ∧
          exec (.bara d a) s = .next (settleSet (resulted s1 t th d (status 0 q)) key))) ∧
      (past o.phase p = true → exec (.barwp d a b) s = .next (resulted s t th d (status 0 p))) ∧
      (past o.phase p = false → exec (.barwp d a b) s = .next (waiting s t th (.phase key p false d.toNat))) ∧
      (∀ s' : State, tblGet key s'.sets = some o →
        let next (o : SetObj) (late : NatSet) : SetObj :=
          { o with phase := (o.phase + 1) % 2 ^ 32, required := o.members, arrived := late, arrivedNext := [] }
        let moved (s' : State) (o' : SetObj) : State := resumeWaiters { s' with sets := tblSet key o' s'.sets } key 0
          (fun q _ => if past o'.phase q then some q else none)
        let o1 := next o o.arrivedNext
        let all := o.required.all (fun m => setHas m o.arrived)
        let again := !o.members.isEmpty && o.members.all (fun m => setHas m o.arrivedNext)
        (all = false → settleSet s' key = s') ∧
        (all = true → again = false → settleSet s' key = moved s' o1) ∧
        (all = true → again = true → settleSet s' key = moved (moved s' o1) (next o1 [])) ∧
        (∀ u : Nat,
          let left : SetObj := { o with
            members := setDel u o.members
            required := if setHas u o.arrived then o.required else setDel u o.required
            arrivedNext := setDel u o.arrivedNext }
          (left.members ≠ [] → quitSet s' key u = settleSet { s' with sets := tblSet key left s'.sets } key) ∧
          (left.members = [] → keysAbove 0 s'.sets = true → quitSet s' key u = releaseOwner
            (resumeWaiters { s' with sets := tblDel key s'.sets } key 1 (fun q _ => some q)) (key / 256) u (.set key)))) ∧
      (∀ (s' : State) (k : Nat) (told : Nat → Bool → Option Nat) (u : Nat) (v : Thread) (q gd : Nat) (member : Bool),
        tblGet u s'.threads = some v → v.wait = .phase key q member gd →
        resumeOne key k told s' u = match told q member with
          | some r => retireWith { s' with threads := tblSet u { v with
              barwHeld := v.barwHeld.filter (fun e => !decide (e.1 = v.pc.toNat ∧ e.2.1 = key)) } s'.threads } u
              (BitVec.ofNat 5 gd) (BitVec.ofNat 64 (k * 2 ^ 32 + r % 2 ^ 32))
          | none => s'))

/-- R270 to R276; a lock request's answer, in the order of the conditions. The model's choices: that order (log 44, DEDUCED), what an escalation is
tested against (log 106, DEDUCED), and which items' overflow lines are checked (log 87, DESIGN CHOICE). -/
def Obligations.LockRequests : Prop :=
  (∀ (s : State) (t : Nat) (th : Thread) (d a : BitVec 5) (m : BitVec 3), Running s t th →
    let w := (regGet th a).toNat
    let o := ownerFor s t th
    let known := txnOf s th.ctx o
    let mat := lockMatrixOf s th.ctx
    let heldIn (v : Nat) : Option Nat := known.bind (fun n => heldMode (findItem s th.ctx v) n)
    let s0 := { s with threads := tblSet t { th with txnOwner := o } s.threads }
    let u0 := { th with txnOwner := o }
    let r := m.toNat
    let both (k : Nat) (s' : State) (u : Thread) : Prop := ∀ i ∈ [Instr.lkacq d a m, .lktry d a m],
      exec i s = .next (resulted s' t u d (BitVec.ofNat 64 k))
    let wounded := ∃ n, known = some n ∧ (txnAt s n).wounded = true
    decodeControl (wordA 0x3C d a 0 (0#5 ++ m ++ 0#3)) = .ok (.lkacq d a m) ∧
    decodeControl (wordA 0x3C d a 0 (1#5 ++ m ++ 0#3)) = .ok (.lktry d a m) ∧
    let fit := ∀ v ∈ w :: ((itemParent s th.ctx w).bind id).toList, ∀ l, (findItem s th.ctx v).line = some l → lineFits s th.ctx l = true
    (¬fit → ∀ i ∈ [Instr.lkacq d a m, .lktry d a m], exec i s = .next (hitContext s th.ctx 5)) ∧
    (fit → wounded → both 1 s th) ∧
    (fit → ¬wounded → itemParent s th.ctx w = none → both 3 s th) ∧
    (fit → ¬wounded → ∀ parent, itemParent s th.ctx w = some parent →
      let owned := ∃ h, heldIn w = some h ∧ covers h r = true
      let barred := ∃ v, parent = some v ∧ ∀ h, heldIn v = some h → parentPermits h r = false
      let above := ∃ v h, parent = some v ∧ heldIn v = some h ∧ covers h r = true
      let stuck := ∃ h, heldIn w = some h ∧ escalated h r = none
      let many := heldIn w = none ∧ ∃ n, known = some n ∧ 64 ≤ (itemsHeld s n).length
      (owned → both 0 s0 u0) ∧
      (¬owned → barred → both 2 s th) ∧
      (¬owned → ¬barred → above → both 0 s0 u0) ∧
      (¬owned → ¬barred → ¬above → stuck → both 7 s th) ∧
      (¬owned → ¬barred → ¬above → ¬stuck → many → both 8 s th) ∧
      (¬owned → ¬barred → ¬above → ¬stuck → ¬many →
        let i := findItem s th.ctx w
        let mode := ((heldIn w).bind (fun h => escalated h r)).getD r
        let b := beginTxn s0 th.ctx o
        let free := (∀ h ∈ i.holders, h.txn = b.2 ∨ mat.getLsbD (8 * h.mode + mode) = true) ∧
          (heldIn w = none → ∀ q ∈ i.queue, older b.1 q.txn b.2 = true → mat.getLsbD (8 * requestMode i q + r) = true)
        let settled (s : State) : State :=
          let j := findItem s th.ctx w
          (j.queue.flatMap (fun q => (j.holders.filter (fun h => h.txn != q.txn && !compatible mat h.mode (requestMode j q) &&
            older s q.txn h.txn)).map (·.txn))).foldl wound s
        (free → ∀ i' ∈ [Instr.lkacq d a m, .lktry d a m], exec i' s = .next (retireWith (settled
          (putItem b.1 { i with holders := i.holders.filter (fun h => h.txn != b.2) ++ [⟨b.2, mode⟩] })) t d 0)) ∧
        (¬free → exec (.lktry d a m) s = .next (resulted s t th d 4)) ∧
        (¬free →
          exec (.lkacq d a m) s = .next (waitAt (settled (putItem b.1 (enqueue b.1 mat i ⟨b.2, r, t⟩)))
            t (.lock w d.toNat)))))) ∧
  (∀ (s : State) (t : Nat) (th : Thread) (w mode : Nat) (try_ : Bool), tblGet t s.threads = some th →
    let agree (s : State) : Prop := ∀ i ∈ s.lockItems, i.holders.Pairwise (fun h k => h.txn ≠ k.txn ∧
      ((lockMatrixOf s i.ctx).getLsbD (8 * h.mode + k.mode) = true ∨ (lockMatrixOf s i.ctx).getLsbD (8 * k.mode + h.mode) = true))
    agree s → agree (lockRequest s t th w mode try_).1)

/-- R269, R270, R273, R275, R277. The model's choices: a release waits for the stores of every thread of the transaction (log 101), the answer 7 to a
waiting request (log 111, DESIGN CHOICE), and which items' overflow lines are checked (log 87). -/
def Obligations.LockReleases : Prop :=
  ∀ (s : State) (t : Nat) (th : Thread) (d a : BitVec 5), Running s t th →
    let w := (regGet th a).toNat
    let txn := txnOf s th.ctx (ownerFor s t th)
    let holds (n v : Nat) : Prop := heldMode (findItem s th.ctx v) n ≠ none
    let stored (n : Nat) : Prop := ∀ u ∈ txnThreads s (txnAt s n), ∀ v, tblGet u s.threads = some v → v.posted = []
    let word (op a : BitVec 5) : BitVec 32 := wordA 0x3C d a 0 (op ++ 0#6)
    decodeControl (word 2 a) = .ok (.lkrel d a) ∧ decodeControl (word 3 0) = .ok (.lkrelall d) ∧
    decodeControl (word 4 a) = .ok (.lkreg d a) ∧ decodeControl (word 5 a) = .ok (.lkunreg d a) ∧
    decodeControl (word 6 0) = .ok (.lkmat d) ∧
    (itemParent s th.ctx w = none → exec (.lkrel d a) s = .next (resulted s t th d 3)) ∧
    (itemParent s th.ctx w ≠ none →
      (txn = none → exec (.lkrel d a) s = .next (resulted s t th d 5)) ∧
      (∀ n, txn = some n →
        let i := findItem s th.ctx w
        let under := ∃ j ∈ s.lockItems, heldMode j n ≠ none ∧ itemParent s th.ctx j.word = some (some w)
        let fit := ∀ l, i.line = some l → lineFits s th.ctx l = true
        (¬fit → exec (.lkrel d a) s = .next (hitContext s th.ctx 5)) ∧
        (fit → ¬holds n w → exec (.lkrel d a) s = .next (resulted s t th d 5)) ∧
        (fit → holds n w → under → exec (.lkrel d a) s = .next (resulted s t th d 6)) ∧
        (fit → holds n w → ¬under → ¬stored n → exec (.lkrel d a) s = .next (waiting s t th .retry)) ∧
        (fit → holds n w → ¬under → stored n → exec (.lkrel d a) s = .next (retireWith (endIfIdle (rescan
          (putItem s { i with holders := i.holders.filter (fun h => h.txn != n) }) i.ctx i.word) n) t d 0)))) ∧
    (txn = none → exec (.lkrelall d) s = .next (resulted s t th d 0)) ∧
    (∀ n, txn = some n →
      (¬stored n → exec (.lkrelall d) s = .next (waiting s t th .retry)) ∧
      let fit := ∀ i ∈ s.lockItems, heldMode i n ≠ none → ∀ l, (findItem s th.ctx i.word).line = some l → lineFits s th.ctx l = true
      (stored n → ¬fit → exec (.lkrelall d) s = .next (hitContext s th.ctx 5)) ∧
      (stored n → fit → exec (.lkrelall d) s = .next (retireWith (releaseAll s n t).1 t d
        (BitVec.ofNat 64 (s.lockItems.filter (fun i => (heldMode i n).isSome)).length)))) ∧
    (∀ (s' : State) (k v gd : Nat) (u : Nat) (h : Thread), tblGet u s'.threads = some h → h.wait = .lock v gd →
      answerLock s' u (BitVec.ofNat 64 k) = retireWith s' u (BitVec.ofNat 5 gd) (BitVec.ofNat 64 k)) ∧
    (∀ (s' : State) (mat : Word) (i : LockItem) (r : LockReq) (rest : List LockReq) (f : Nat), i.queue = r :: rest →
      let held := (i.holders.find? (fun h => h.txn == r.txn)).map (·.mode)
      let mode := match held with
        | some h => if covers h r.mode then h else (escalated h r.mode).getD r.mode
        | none => r.mode
      let stuck := ∃ h, held = some h ∧ covers h r.mode = false ∧ escalated h r.mode = none
      let free := ∀ h ∈ i.holders, h.txn = r.txn ∨ mat.getLsbD (8 * h.mode + mode) = true
      (stuck → scanQueue s' mat i (f + 1) = scanQueue (answerLock s' r.tid 7) mat { i with queue := rest } f) ∧
      (¬stuck → free → scanQueue s' mat i (f + 1) = scanQueue (answerLock s' r.tid 0) mat
        { i with queue := rest, holders := i.holders.filter (fun h => h.txn != r.txn) ++ [⟨r.txn, mode⟩] } f) ∧
      (¬stuck → ¬free → scanQueue s' mat i (f + 1) = (s', i))) ∧
    (∀ (s' : State) (x v : Nat),
      let i := findItem s' x v
      let q := scanQueue s' (lockMatrixOf s' x) i i.queue.length
      let p := putItem q.1 q.2
      let j := findItem p x v
      rescan s' x v = (j.queue.flatMap (fun r => (j.holders.filter (fun h => h.txn != r.txn &&
        !compatible (lockMatrixOf p x) h.mode (requestMode j r) && older p r.txn h.txn)).map (·.txn))).foldl wound p) ∧
    ((regGet th a).toNat % 32 ≠ 0 → exec (.lkreg d a) s = .next (raiseTrap s t ⟨2, memDetail .v false 4, (regGet th a).toNat⟩)) ∧
    ((regGet th a).toNat % 32 = 0 → ∀ (s' : State) (q : Place),
      place s t { th with masks := ctxMasks s th.ctx } .v (regGet th a) 32 needRead false none = (s', q) →
      (∀ tr, q = .trap tr → exec (.lkreg d a) s = .next (raiseTrap s' t tr)) ∧
      (∀ fp e at', q = .frozen fp e at' → exec (.lkreg d a) s = .next (waitAt s' t (.fill fp e at' s'.now))) ∧
      (∀ dev pa, q = .at_ (.peer dev pa) →
        let r := sendRequest s' (.thread t d.toNat) th.ctx 1 dev pa 32 false (regGet th a).toNat [] false 0
        exec (.lkreg d a) s = .next (waitAt r.1 t (.peer r.2))) ∧
      (∀ c, q = .at_ (.cell c) → (memRead s' c 32).2.reason ≠ 0 → exec (.lkreg d a) s =
        .next (raiseTrap (memRead s' c 32).1 t ⟨5, memDetail .v false 1, (regGet th a).toNat⟩))) ∧
    (∀ c bs, (regGet th a).toNat % 32 = 0 →
      place s t { th with masks := ctxMasks s th.ctx } .v (regGet th a) 32 needRead false none = (s, .at_ (.cell c)) →
      (memRead s c 32).2 = ⟨bs, 0⟩ →
      let fld (o n : Nat) : Nat := leNat ((bs.drop o).take n)
      let k : LockTensor := ⟨fld 0 8, fld 8 8, fld 16 4, fld 20 4, fld 24 2, fld 26 2, fld 28 1⟩
      let legal := (k.esize = 1 ∨ k.esize = 2 ∨ k.esize = 4 ∨ k.esize = 8) ∧ fld 29 3 = 0 ∧ k.rows ≠ 0 ∧ k.cols ≠ 0 ∧ k.th ≠ 0 ∧
        k.tw ≠ 0 ∧ k.pitch ≠ 0 ∧ k.base < 2 ^ 57
      let taken (id : Nat) : Prop := tblGet (th.ctx * 4096 + id) s.lockTensors ≠ none
      (¬legal → exec (.lkreg d a) s = .next (resulted s t th d 0xFFFFFFFFFFFFFFFE)) ∧
      (legal → keysAbove 0 s.lockTensors = true → (∀ id, id < 4096 → taken id) →
        exec (.lkreg d a) s = .next (resulted s t th d 0xFFFFFFFFFFFFFFFF)) ∧
      (legal → keysAbove 0 s.lockTensors = true → ∀ id, id < 4096 → ¬taken id → (∀ j, j < id → taken j) →
        exec (.lkreg d a) s = .next (resulted
          { s with lockTensors := tblSet (th.ctx * 4096 + id) k s.lockTensors } t th d (BitVec.ofNat 64 id)))) ∧
    (let key := th.ctx * 4096 + w
     let used := ∃ i ∈ s.lockItems, i.ctx = th.ctx ∧ i.word / 2 ^ 32 % 2 ^ 12 = w
     (4096 ≤ w ∨ tblGet key s.lockTensors = none → exec (.lkunreg d a) s = .next (resulted s t th d 3)) ∧
     (w < 4096 → tblGet key s.lockTensors ≠ none → used → exec (.lkunreg d a) s = .next (resulted s t th d 10)) ∧
     (w < 4096 → tblGet key s.lockTensors ≠ none → ¬used →
       exec (.lkunreg d a) s = .next (resulted { s with lockTensors := tblDel key s.lockTensors } t th d 0))) ∧
    exec (.lkmat d) s = .next (resulted s t th d (lockMatrixOf s th.ctx))

/-- R130, R146, R147, R268. The model's choices: the thread stands at the fence (log 6), and a `red.fadd` is performed once it is accepted
(log 89). -/
def Obligations.Fences : Prop :=
  ∀ (s : State) (t : Nat) (th : Thread) (p q sc : BitVec 3), Running s t th →
    let units : List Nat := if p = 2 then [6, 7] else if p = 3 then [0, 1, 2, 3, 8] else if p = 4 then [4, 5] else if p = 5 then [8, 9] else []
    let open_ := if p = 0 then th.posted ≠ [] else
      ∃ u ∈ units, ∃ k ∈ unitCmds (unitAt s (clusterOf t) u), k.tid = t ∧ k.node = none
    decodeControl (wordA 0x3D 0 0 0 (p ++ q ++ sc ++ 0#2)) = .ok (.fence p q sc) ∧
    (4 < sc.toNat → exec (.fence p q sc) s = .next (raiseTrap s t ⟨1, 4, 0⟩)) ∧
    (sc.toNat ≤ 4 → ¬open_ → exec (.fence p q sc) s = .next (completed s t th)) ∧
    (sc.toNat ≤ 4 → open_ → exec (.fence p q sc) s = .next (waiting s t th .retry))

/-- R278 and R280 with R59, R60, R54 and R69. -/
def Obligations.ElementFirings : Prop :=
  ∀ (s : State) (f : Nat) (fm : Form) (n : Nat) (nd : Node) (a b : BitVec 3) (fc : BitVec 4) (r : BitVec 2) (x w : BitVec 1)
    (k : BitVec 10) (y : BitVec 4), AtNode s f fm n nd →
    let ops : List (Instr × BitVec 32) :=
      [(.elemAdd a b fc x w k, elemWord 0x01 a b fc 0 x w k), (.elemSub a b fc x w k, elemWord 0x02 a b fc 0 x w k),
       (.elemMul a b fc x w k, elemWord 0x03 a b fc 0 x w k), (.elemMulh a b fc w k, elemWord 0x04 a b fc 0 0 w k),
       (.elemMin a b fc w k, elemWord 0x05 a b fc 0 0 w k), (.elemMax a b fc w k, elemWord 0x06 a b fc 0 0 w k),
       (.elemAbs a fc x w k, elemWord 0x07 a 0 fc 0 x w k), (.elemNeg a fc x w k, elemWord 0x08 a 0 fc 0 x w k),
       (.elemAvg a b fc r w k, elemWord 0x09 a b fc r 0 w k), (.elemAbsd a b fc x w k, elemWord 0x0A a b fc 0 x w k),
       (.elemDiv a b fc x w k, elemWord 0x0B a b fc 0 x w k), (.elemRem a b fc w k, elemWord 0x0C a b fc 0 0 w k),
       (.elemAnd a b fc w k, elemWord 0x10 a b fc 0 0 w k), (.elemOr a b fc w k, elemWord 0x11 a b fc 0 0 w k),
       (.elemXor a b fc w k, elemWord 0x12 a b fc 0 0 w k), (.elemNot a fc w k, elemWord 0x13 a 0 fc 0 0 w k),
       (.elemShl a b fc w k, elemWord 0x14 a b fc 0 0 w k), (.elemShr a b fc w k, elemWord 0x15 a b fc 0 0 w k),
       (.elemSra a b fc w k, elemWord 0x16 a b fc 0 0 w k), (.elemRotl a b fc w k, elemWord 0x17 a b fc 0 0 w k),
       (.elemClz a fc w k, elemWord 0x18 a 0 fc 0 0 w k), (.elemCtz a fc w k, elemWord 0x19 a 0 fc 0 0 w k),
       (.elemPopc a fc w k, elemWord 0x1A a 0 fc 0 0 w k), (.elemBrev a fc w k, elemWord 0x1B a 0 fc 0 0 w k),
       (.elemCeq a b fc w k, elemWord 0x20 a b fc 0 0 w k), (.elemCne a b fc w k, elemWord 0x21 a b fc 0 0 w k),
       (.elemClt a b fc w k, elemWord 0x22 a b fc 0 0 w k), (.elemCle a b fc w k, elemWord 0x23 a b fc 0 0 w k),
       (.elemCgt a b fc w k, elemWord 0x24 a b fc 0 0 w k), (.elemCge a b fc w k, elemWord 0x25 a b fc 0 0 w k),
       (.elemCnan a fc w k, elemWord 0x26 a 0 fc 0 0 w k), (.elemMov a fc w k, elemWord 0x27 a 0 fc 0 0 w k),
       (.elemFadd a b fc r x w k, elemWord 0x30 a b fc r x w k), (.elemFsub a b fc r x w k, elemWord 0x31 a b fc r x w k),
       (.elemFmul a b fc r x w k, elemWord 0x32 a b fc r x w k), (.elemFdiv a b fc r x w k, elemWord 0x33 a b fc r x w k),
       (.elemFmin a b fc w k, elemWord 0x34 a b fc 0 0 w k), (.elemFmax a b fc w k, elemWord 0x35 a b fc 0 0 w k),
       (.elemFabs a fc w k, elemWord 0x36 a 0 fc 0 0 w k), (.elemFneg a fc w k, elemWord 0x37 a 0 fc 0 0 w k),
       (.elemFsqrt a fc r x w k, elemWord 0x38 a 0 fc r x w k), (.elemFrcp a fc r x w k, elemWord 0x39 a 0 fc r x w k),
       (.elemFrsqrt a fc r x w k, elemWord 0x3A a 0 fc r x w k), (.elemFscale a b fc r x w k, elemWord 0x3B a b fc r x w k),
       (.elemFexp2 a fc r x w k, elemWord 0x40 a 0 fc r x w k), (.elemFlog2 a fc r x w k, elemWord 0x41 a 0 fc r x w k),
       (.elemFtanh a fc r x w k, elemWord 0x42 a 0 fc r x w k), (.elemFsigm a fc r x w k, elemWord 0x43 a 0 fc r x w k),
       (.elemFgelu a fc r x w k, elemWord 0x44 a 0 fc r x w k), (.elemFsilu a fc r x w k, elemWord 0x45 a 0 fc r x w k),
       (.elemFerf a fc r x w k, elemWord 0x46 a 0 fc r x w k), (.elemFsoftp a fc r x w k, elemWord 0x47 a 0 fc r x w k),
       (.elemCvt a fc r x w y, elemWord 0x48 a 0 fc r x w (0#6 ++ y)), (.elemPack a b fc (w ++ k), elemWord 0x49 a b fc 0 0 w k),
       (.elemUnpklo a fc w, elemWord 0x4A a 0 fc 0 0 w 0), (.elemUnpkhi a fc w, elemWord 0x4B a 0 fc 0 0 w 0),
       (.elemFround a fc r w, elemWord 0x4C a 0 fc r 0 w 0), (.elemFsign a fc w, elemWord 0x4D a 0 fc 0 0 w 0),
       (.elemIacc a b fc x w, elemWord 0x50 a b fc 0 x w 0), (.elemFacc a b fc r x w, elemWord 0x51 a b fc r x w 0),
       (.elemImaxr a b fc w, elemWord 0x52 a b fc 0 0 w 0), (.elemFmaxr a b fc w, elemWord 0x53 a b fc 0 0 w 0),
       (.elemFamaxr a b fc w, elemWord 0x54 a b fc 0 0 w 0), (.elemCnt a b fc w, elemWord 0x55 a b fc 0 0 w 0)]
    ∀ i word, (i, word) ∈ ops → decodeElement word = some i ∧
      (able fm nd 0 = true → elemReason word = 0 →
        let srcs := if oneInput (elemOp word) then [(0, elemSrcA word)] else [(0, elemSrcA word), (1, elemSrcB word)]
        let ports := srcs.filter (fun p => decide (p.2 = 0 ∨ p.2 = 2 ∨ p.2 = 3))
        ((∃ p ∈ ports, tokenAt fm n p.1 p.2 = none) ∨ canEmit fm n 0 = false → exec i s = .next s) ∧
        (∀ ins : List ((Nat × Nat) × Flit), ins ≠ [] → ins.map (·.1) = ports → (∀ j ∈ ins, tokenAt fm n j.1.1 j.1.2 = some j.2) →
          (∀ j ∈ ins, tokReason j.2.tok = 0) → canEmit fm n 0 = true →
          let toks := ins.map (·.2.tok)
          let wrong (t : Tok) : Bool := decide (t.res ≠ residue t.data)
          let operand (p src : Nat) : BitVec 32 × Bool :=
            if src = 1 then (poolEntry fm (elemK word), false) else if src = 4 then (nd.chase.data, nd.chase.poison)
            else match (ins.find? (fun j => j.1.1 == p)).map (·.2.tok) with
              | some t => (t.data, t.poison || wrong t)
              | none => (0, false)
          let v := elemResult word nd.grp (operand 0 (elemSrcA word)) (operand 1 (elemSrcB word))
          let quiet (s' : State) : Prop := s' = { s with forms := s'.forms, ctxs := s'.ctxs }
          ((∀ t ∈ toks, t.kind = 0) → exec i s = .next (fired (checkResidues s f n toks).1 f fm n word ins v.1 v.2)) ∧
          ((∀ t ∈ toks, t.kind = 0 ∧ wrong t = false) → (checkResidues s f n toks).1 = s) ∧
          ((∀ t ∈ toks, t.kind ≤ 1) → (∃ t ∈ toks, t.kind = 1) →
            exec i s = .next (fired (checkResidues s f n toks).1 f fm n word ins nullTok nd.grp)) ∧
          (∀ t rest, toks = t :: rest → 2 ≤ t.kind → (∀ u ∈ rest, u.kind = t.kind ∧ u.data = t.data) →
            exec i s = .next (fired s f fm n word ins t nd.grp)) ∧
          ((∃ t ∈ toks, 2 ≤ t.kind) → (∃ t ∈ toks, ∃ u ∈ toks, t.kind ≠ u.kind ∨ t.data ≠ u.data) → exec i s = .next (mismatch s f n 1)) ∧
          (∀ t g t0, t.kind ≤ 1 → nd.lastFire = some t0 → s.tenths ≤ t0 + (namedNode fm nd).ii →
            (∀ c, ctxOf s fm.ctx = some c → c.quotaOn = false) → quiet (fired s f fm n word ins t g)))) ∧
      (∀ t g, (t.kind = 0 → afterEmit word g t nd = { nd with chase := t, grp := g }) ∧
        (t.kind = 1 → afterEmit word g t nd = nd) ∧
        (t.kind = 2 → afterEmit word g t nd = { nd with
          chase := dataTok false 0, grp := none, sel := if t.data.getLsbD 0 && word.getLsbD 10 then !nd.sel else nd.sel }) ∧
        (t.kind = 3 → afterEmit word g t nd = { nd with drained := true, chase := dataTok false 0, grp := none }) ∧
        (t.kind = 4 → afterEmit word g t nd = { nd with marked := true }))

/-- R282 and R283, over exact integers; formats 0 to 5 are codes `c`. -/
def Obligations.IntegerElementResults : Prop :=
  (∀ (c rc : Nat) (sat : Bool) (k : Nat) (a b : BitVec 32), c ≤ 5 → rc ≤ 3 →
    let w : Nat := if c = 0 ∨ c = 3 then 8 else if c = 1 ∨ c = 4 then 16 else 32
    let p := a.toNat % 2 ^ w
    let q := b.toNat % 2 ^ w
    let n := b.toNat % 256
    let sgn (v : Nat) : Int := if 2 ^ (w - 1) ≤ v then (v : Int) - 2 ^ w else v
    let x : Int := if c ≤ 2 then sgn p else p
    let y : Int := if c ≤ 2 then sgn q else q
    let lo : Int := if c ≤ 2 then -(2 ^ (w - 1)) else 0
    let hi : Int := if c ≤ 2 then 2 ^ (w - 1) - 1 else 2 ^ w - 1
    let fill (v : Nat) : BitVec 32 := if c ≤ 1 then BitVec.ofInt 32 (sgn v) else BitVec.ofNat 32 v
    let bits (r : Int) : Nat := (r % 2 ^ w).toNat
    let ranged (r : Int) : Nat := bits (if sat ∧ r < lo then lo else if sat ∧ hi < r then hi else r)
    let gives (op : Nat) (v : Nat) : Prop := aluResult op c rc sat k a b = some ⟨fill v, false⟩
    let s := x + y
    let half : Int := if s % 2 = 0 then s / 2 else
      if rc = 0 then (if s / 2 % 2 = 0 then s / 2 else s / 2 + 1) else if rc = 1 then (if s < 0 then s / 2 + 1 else s / 2)
      else if rc = 2 then s / 2 + 1 else s / 2
    gives 0x01 (ranged (x + y)) ∧ gives 0x02 (ranged (x - y)) ∧ gives 0x03 (ranged (x * y)) ∧ gives 0x04 (bits (x * y / 2 ^ w)) ∧
    gives 0x05 (if x ≤ y then p else q) ∧ gives 0x06 (if x ≤ y then q else p) ∧
    gives 0x07 (ranged (if x < 0 then -x else x)) ∧ gives 0x08 (ranged (-x)) ∧ gives 0x09 (bits half) ∧
    gives 0x0A (ranged (if x < y then y - x else x - y)) ∧ gives 0x0B (if y = 0 then 2 ^ w - 1 else ranged (x.tdiv y)) ∧
    gives 0x0C (if y = 0 then p else bits (x - x.tdiv y * y)) ∧
    lo ≤ x * y / 2 ^ w ∧ x * y / 2 ^ w ≤ hi ∧ lo ≤ half ∧ half ≤ hi ∧
    gives 0x10 (p &&& q) ∧ gives 0x11 (p ||| q) ∧ gives 0x12 (p ^^^ q) ∧ gives 0x13 (2 ^ w - 1 - p) ∧
    gives 0x14 (if w ≤ n then 0 else p * 2 ^ n % 2 ^ w) ∧ gives 0x15 (if w ≤ n then 0 else p / 2 ^ n) ∧
    gives 0x16 (bits (sgn p / 2 ^ min n (w - 1))) ∧ gives 0x17 (p * 2 ^ (n % w) % 2 ^ w ||| p / 2 ^ (w - n % w)) ∧
    (∃ z, z ≤ w ∧ (∀ j, j < w → w - z ≤ j → p.testBit j = false) ∧ (z < w → p.testBit (w - 1 - z) = true) ∧ gives 0x18 z) ∧
    (∃ z, z ≤ w ∧ (∀ j, j < z → p.testBit j = false) ∧ (z < w → p.testBit z = true) ∧ gives 0x19 z) ∧
    gives 0x1A (((List.range w).filter (fun j => p.testBit j)).length) ∧
    (∃ v, v < 2 ^ w ∧ (∀ j, j < w → v.testBit j = p.testBit (w - 1 - j)) ∧ gives 0x1B v)) ∧
  (∀ op, 0x01 ≤ op → op ≤ 0x1B →
    (oneInput op = true ↔ op ∈ [0x07, 0x08, 0x13, 0x18, 0x19, 0x1A, 0x1B]) ∧
    (usesSat op = true ↔ op ∈ [0x01, 0x02, 0x03, 0x07, 0x08, 0x0A, 0x0B]) ∧ (usesRnd op = true ↔ op = 0x09))

/-- R84. A magnitude pattern `p` stands for the number `floatVal g p`; patterns of neighbouring magnitudes are neighbouring numbers. -/
def Obligations.Rounding : Prop :=
  ∀ (g : Fmt) (m : Rnd) (sat : Bool), fmtIsFloat g = true →
    let sh := floatShape g
    let sign (neg : Bool) : Nat := if neg then 2 ^ (fmtWidth g - 1) else 0
    let inf (neg : Bool) : Nat := match sh.infinity with
      | some b => sign neg + b
      | none => sh.canonNan
    let away (neg : Bool) : Bool := match m with
      | .rne => true
      | .rz => false
      | .ru => !neg
      | .rd => neg
    let overflow (neg : Bool) : Nat := if sat then sign neg + sh.largest else if away neg then inf neg else sign neg + sh.largest
    let up (neg : Bool) (p : Nat) (twice below above : Nat) : Bool := match m with
      | .rne => decide (below + above < twice ∨ (twice = below + above ∧ p % 2 = 1))
      | .rz => false
      | .ru => !neg && decide (below * 2 ≠ twice)
      | .rd => neg && decide (below * 2 ≠ twice)
    rnd g m sat .nan = sh.canonNan ∧
    (∀ neg, rnd g m sat (.inf neg) = if sat then sign neg + sh.largest else inf neg) ∧
    (∀ neg d, 0 < d → rnd g m sat (.fin neg 0 d) = sign neg) ∧
    (∀ neg n d p lo lod hi hid, 0 < n → 0 < d → p < sh.largest → floatVal g p = .fin false lo lod → floatVal g (p + 1) = .fin false hi hid →
      lo * d ≤ n * lod → n * hid < hi * d →
      let below := lo * hid * d
      let above := hi * lod * d
      rnd g m sat (.fin neg n d) = sign neg + (if up neg p (2 * n * lod * hid) below above then p + 1 else p)) ∧
    (∀ neg n d top topd sub subd, 0 < d → floatVal g sh.largest = .fin false top topd → floatVal g (sh.largest - 1) = .fin false sub subd →
      top * d ≤ n * topd →
      let below := top * subd * d
      let above := (2 * top * subd - sub * topd) * d
      rnd g m sat (.fin neg n d) =
        if above ≤ n * topd * subd ∨ up neg sh.largest (2 * n * topd * subd) below above = true then overflow neg else sign neg + sh.largest)

/-- R284 to R288; `rnd` is the rounding of R84, `fill32` the fill of R79. -/
def Obligations.FloatElementResults : Prop :=
  ∀ (g : Fmt) (c rc : Nat) (sat : Bool) (k : Nat) (a b : BitVec 32), fmtOfCode c = some g →
    let w := fmtWidth g
    let p := a.toNat % 2 ^ w
    let q := b.toNat % 2 ^ w
    let m := rndOfCode rc
    let x := fmtVal g p
    let y := fmtVal g q
    let reserved (v : Nat) : Bool := decide (g = .t2 ∧ v = 2)
    let isNan (v : Nat) : Bool := fmtIsFloat g && decide (fmtVal g v = .nan)
    let gives (op : Nat) (v : Nat) : Prop := aluResult op c rc sat k a b = some ⟨fill32 g v, false⟩
    let tells (op : Nat) (t : Bool) : Prop := aluResult op c rc sat k a b = some ⟨if t then 1 else 0, reserved p || reserved q⟩
    tells 0x20 (xEq x y) ∧ tells 0x21 (!xEq x y) ∧ tells 0x22 (xLt x y) ∧ tells 0x23 (xLt x y || xEq x y) ∧ tells 0x24 (xLt y x) ∧
    tells 0x25 (xLt y x || xEq x y) ∧
    aluResult 0x26 c rc sat k a b = some ⟨if isNan p then 1 else 0, reserved p⟩ ∧
    aluResult 0x27 c rc sat k a b = some ⟨fill32 g (if reserved p then 0 else if isNan p then nanOf g else p), reserved p⟩ ∧
    (fmtIsFloat g = false → xLt x y = decide (intVal g p < intVal g q) ∧ xEq x y = decide (intVal g p = intVal g q)) ∧
    (isNan p = true ∨ isNan q = true → xEq x y = false ∧ xLt x y = false) ∧
    (fmtIsFloat g = true → p % 2 ^ (w - 1) = 0 → q % 2 ^ (w - 1) = 0 → xEq x y = true) ∧
    (fmtIsFloat g = true →
      let z : Int := b.toInt
      let round (e : XVal) : Nat := rnd g m sat e
      gives 0x30 (round (xAdd m x y)) ∧ gives 0x31 (round (xAdd m x (xNegate y))) ∧ gives 0x32 (round (xMul x y)) ∧
      gives 0x33 (round (xDiv x y)) ∧ gives 0x34 (floatMinMax g false p q) ∧ gives 0x35 (floatMinMax g true p q) ∧
      gives 0x36 (if isNan p then nanOf g else p % 2 ^ (w - 1)) ∧ gives 0x37 (if isNan p then nanOf g else p ^^^ 2 ^ (w - 1)) ∧
      gives 0x38 (round (xSqrt x)) ∧ gives 0x39 (round (xDiv (.fin false 1 1) x)) ∧ gives 0x3A (round (xRsqrt x)) ∧
      gives 0x3B (round (xScale x z)) ∧
      (∀ neg, (∀ d, 0 < d → x = .fin neg 0 d → xDiv (.fin false 1 1) x = .inf neg ∧ xRsqrt x = .inf neg ∧ round (xScale x z) = p) ∧
        (x = .inf neg → round (xDiv (.fin false 1 1) x) = signBit g neg ∧ xScale x z = .inf neg ∧ xRsqrt x = if neg then .nan else .fin false 0 1)) ∧
      (∀ n d, 0 < n → x = .fin true n d → xRsqrt x = .nan) ∧
      (x = .nan → xDiv (.fin false 1 1) x = .nan ∧ xRsqrt x = .nan ∧ xScale x z = .nan) ∧
      (let one : XVal := .fin false 1 1
       let minusOne : XVal := .fin true 1 1
       let zero : XVal := .fin false 0 1
       (∀ op, 0x40 ≤ op → op ≤ 0x47 → x = .nan → gives op (nanOf g)) ∧
       (x = .inf false → (∀ op ∈ [0x40, 0x41, 0x44, 0x45, 0x47], gives op (round (.inf false))) ∧
         (∀ op ∈ [0x42, 0x43, 0x46], gives op (round one))) ∧
       (x = .inf true → (∀ op ∈ [0x40, 0x43, 0x47], gives op (round zero)) ∧ (∀ op ∈ [0x42, 0x46], gives op (round minusOne)) ∧
         (∀ op ∈ [0x44, 0x45], gives op (signBit g true)) ∧ gives 0x41 (nanOf g)) ∧
       (∀ neg d, x = .fin neg 0 d → gives 0x40 (round one) ∧ gives 0x41 (round (.inf true)) ∧ gives 0x43 (round (.fin false 1 2)) ∧
         (∀ op ∈ [0x42, 0x44, 0x45, 0x46], gives op (signBit g neg))) ∧
       (∀ n d, 0 < n → x = .fin true n d → gives 0x41 (nanOf g)) ∧ (∀ n, 0 < n → x = .fin false n n → gives 0x41 0) ∧
       (∀ op e, specialKnown op x = some (.within e) → rnd g m sat (encEnd e.lo) = rnd g m sat (encEnd e.hi) →
         gives op (rnd g m sat (encEnd e.lo)))) ∧
      gives 0x4C (match x with
        | .fin neg n d => rnd g .rz false (.fin neg (roundNat m neg n d) 1)
        | e => rnd g .rz false e) ∧
      gives 0x4D (if isNan p then nanOf g else if p % 2 ^ (w - 1) = 0 then p else rnd g .rne false (.fin (decide (2 ^ (w - 1) ≤ p)) 1 1))) ∧
    (c ≤ 2 → gives 0x4D (wrapInt w (if intVal g p < 0 then -1 else if intVal g p = 0 then 0 else 1))) ∧
    (w = 8 ∨ w = 16 → 
      let high := a.toNat / 2 ^ w % 2 ^ w
      aluResult 0x49 c rc sat k a b = some ⟨BitVec.ofNat 32 (q * 2 ^ w + p), false⟩ ∧
      gives 0x4A (if isNan p then nanOf g else p) ∧ gives 0x4B (if isNan high then nanOf g else high)) ∧
    (∀ h, fmtOfCode k = some h →
      aluResult 0x48 c rc sat k a b = some ⟨fill32 h (convert g h m sat p), reserved p⟩ ∧
      (h = g → convert g h m sat p = if reserved p then 0 else if isNan p then nanOf g else p) ∧
      (h ≠ g → fmtIsFloat h = true → fmtIsFloat g = true → convert g h m sat p = rnd h m (sat && !widensExactly g h) x) ∧
      (h ≠ g → fmtIsFloat h = true → fmtIsFloat g = false → convert g h m sat p = rnd h m sat (xOfInt (intVal g p))) ∧
      (h ≠ g → h = .t2 → convert g h m sat p = t2Code (xToInt m (-1) 1 x)) ∧
      (h ≠ g → fmtIsInt h = true → fmtIsFloat g = true → convert g h m sat p = wrapInt (fmtWidth h) (xToInt m (intMin h) (intMax h) x)) ∧
      (h ≠ g → fmtIsInt h = true → fmtIsFloat g = false → convert g h m sat p = intResult h sat (intVal g p)))

/-- R289, R281; `st` is the group state with its poison, `x` the value and `y` the marker. -/
def Obligations.AccumulationResults : Prop :=
  ∀ (sa sb : BitVec 3) (fc : BitVec 4) (r : BitVec 2) (sat sw : BitVec 1) (kf : BitVec 10) (g : Fmt)
    (st : Option (BitVec 320 × Bool)) (x y : BitVec 32) (px py : Bool), fmtOfCode fc.toNat = some g →
    let word (op : Nat) : BitVec 32 := elemWord op sa sb fc r sat sw kf
    let p := x.toNat % 2 ^ fmtWidth g
    let bad := (st.map (·.2)).getD false || px || decide (g = .t2 ∧ p = 2)
    let ends : Bool := decide (y ≠ 0) || py
    let result (op : Nat) (v : BitVec 32) (state : BitVec 320) : Prop :=
      elemResult (word op) st (x, px) (y, py) = (dataTok (bad || py) v, if ends then none else some (state, bad))
    let canon (v : Nat) : Nat := if fmtVal g v = .nan then nanOf g else v
    let best (v : Nat) : Nat := match st with
      | some u =>
        let u := u.1.toNat % 2 ^ fmtWidth g
        if fmtVal g u = .nan ∨ fmtVal g v = .nan then nanOf g else if orderedLe (fmtVal g v) (fmtVal g u) then u else v
      | none => v
    (∀ op o, op < 0x50 → aluResult op fc.toNat r.toNat (decide (sat = 1)) (kf.toNat % 16) x y = some o →
      elemResult (word op) st (x, px) (y, py) = (dataTok (px || (py && !oneInput op) || o.poison) o.data, st)) ∧
    (fmtIsInt g = true →
      let sum : Int := (match st with
        | some u => u.1.toInt
        | none => 0) + intVal g p
      result 0x50 (fill32 g (intResult g (decide (sat = 1)) sum)) (BitVec.ofInt 320 sum) ∧
      (let m := match st with
        | some u => if intVal g p ≤ intVal g u.1.toNat then u.1.toNat else p
        | none => p
       result 0x52 (fill32 g m) (BitVec.ofNat 320 m))) ∧
    (fmtIsFloat g = true →
      let acc := laAdd (match st with
        | some u => u.1
        | none => 0) ⟨fmtVal g p, false⟩
      result 0x51 (fill32 g (laDrain acc g (rndOfCode r.toNat) (decide (sat = 1)))) acc ∧
      (let m := best p
       result 0x53 (fill32 g (canon m)) (BitVec.ofNat 320 m)) ∧
      (let m := best (if fmtVal g p = .nan then nanOf g else p % 2 ^ (fmtWidth g - 1))
       result 0x54 (fill32 g (canon m)) (BitVec.ofNat 320 m))) ∧
    (let n : Nat := (match st with
        | some u => u.1.toNat
        | none => 0) + (if isZeroVal g p then 0 else 1)
     result 0x55 (BitVec.ofNat 32 (min n 0xFFFFFFFF)) (BitVec.ofNat 320 n))

/-- R291 to R293 and R298, for the words of R167. -/
def Obligations.MemoryElementFirings : Prop :=
  ∀ (s : State) (f : Nat) (fm : Form) (n : Nat) (nd : Node) (o p q : BitVec 6) (z sp : BitVec 3), AtNode s f fm n nd →
    let word (op : Nat) (z sp : BitVec 3) : BitVec 32 := BitVec.ofNat 8 op ++ o ++ p ++ q ++ z ++ sp
    let ops : List (Instr × Nat × BitVec 3 × BitVec 3) :=
      [(.memLd o p q z sp, 0x80, z, sp), (.memLds o p q z sp, 0x81, z, sp), (.memSt o p q z sp, 0x82, z, sp),
       (.memLdwf o p q sp, 0x83, 2, sp), (.memStwe o p q sp, 0x84, 2, sp), (.memLdwk o p q sp, 0x85, 2, sp), (.memAadd o p q sp, 0x86, 2, sp),
       (.memAmax o p q sp, 0x87, 2, sp), (.memAmin o p q sp, 0x88, 2, sp), (.memAswp o p q sp, 0x89, 2, sp), (.memAand o p q sp, 0x8A, 2, sp),
       (.memAor o p q sp, 0x8B, 2, sp), (.memAxor o p q sp, 0x8C, 2, sp), (.memPfch o p q, 0x8D, 0, 1)]
    ∀ i op z sp, (i, op, z, sp) ∈ ops → decodeElement (word op z sp) = some i ∧
      (able fm nd 1 = true → memReason (word op z sp) = 0 → holding fm nd = false →
        let ports : List Nat := if op ∈ [0x82, 0x84, 0x86, 0x87, 0x88, 0x89, 0x8A, 0x8B, 0x8C] then [0, 1] else [0]
        ((∃ j ∈ ports, tokenAt fm n j 0 = none) → exec i s = .next s) ∧
        (∀ ins : List (Nat × Flit), ins.map (·.1) = ports → (∀ j ∈ ins, tokenAt fm n j.1 0 = some j.2) → (∀ j ∈ ins, tokReason j.2.tok = 0) →
          let toks := ins.map (·.2.tok)
          let ta := toks.getD 0 nullTok
          let tb := toks.getD 1 (dataTok false 0)
          let addr : Nat := if sp = 1 then ((poolEntry fm 1).toNat * 2 ^ 32 + (poolEntry fm 0).toNat + ta.data.toNat) % 2 ^ 64 else ta.data.toNat
          let stage : Stage := if ta.kind = 1 ∨ tb.kind = 1 then .stand nullTok else if ta.poison then .stand (dataTok true 0)
            else if sp = 1 then .begun else .ready noTarget (nodeCell fm (if sp = 0 then .i else if sp = 2 then .a else .c) addr)
          let reason : Nat := if op = 0x8D ∨ ta.kind = 1 ∨ tb.kind = 1 ∨ ta.poison then 0
            else if z.toNat ≤ 2 ∧ addr % 2 ^ z.toNat ≠ 0 then 1
            else if sp = 0 then (if fm.isles.length * 65536 ≤ addr then 2 else 0)
            else if sp = 1 then (if 2 ^ 57 ≤ addr then 3 else 0)
            else if sp = 2 then (if 0x200000 ≤ addr then 2 else 0)
            else if 0x100000 ≤ addr then 2 else 0
          let access : Access := { seq := nd.began, word := word op z sp, ta := ta, tb := tb, addr := addr, stage := stage, froze := none, got := [] }
          let begun := modForm (noteFiring s f n ins [0]) f (fun fm => dateFreed s.tenths fm (modNode (ins.foldl (fun fm j => takeFrom fm n j.1 0) fm) n
            (fun nd => { nd with began := nd.began + 1, accs := nd.accs ++ [access] })) n)
          let open_ := (nd.accs.filter (fun a => !performed a)).length
          ((∀ t ∈ toks, t.kind ≤ 1) → open_ < 16 →
            exec i s = .next (if reason ≠ 0 then nodeFault begun f n reason addr 0 else emitReplies begun f n (nd.accs.length + 1))) ∧
          ((∀ t ∈ toks, t.kind ≤ 1) → 16 ≤ open_ → exec i s = .next s) ∧
          (∀ t rest, toks = t :: rest → 2 ≤ t.kind → (∀ u ∈ rest, u.kind = t.kind ∧ u.data = t.data) →
            exec i s = .next (if nd.accs = [] ∧ canEmit fm n 0 = true then passMem s f n (word op z sp) ins t else s)) ∧
          ((∃ t ∈ toks, 2 ≤ t.kind) → (∃ t ∈ toks, ∃ u ∈ toks, t.kind ≠ u.kind ∨ t.data ≠ u.data) →
            exec i s = .next (mismatch s f n 3))))

/-- R294 to R297. -/
def Obligations.MemoryElementAccesses : Prop :=
  ∀ (s : State) (f : Nat) (fm : Form) (n : Nat) (nd : Node) (k : Nat) (a : Access) (t : Target) (c : Nat),
    formAt s f = some fm → formLive fm = true → fm.nodes[n]? = some nd → nd.cls = 1 → accessAt nd k = some a → a.seq = k → a.stage = .ready t c →
    t.peer = false →
      let op := (a.word.extractLsb' 24 8).toNat
      let w := (a.word.extractLsb' 3 3).toNat
      let onV := a.word.extractLsb' 0 3 = 1#3
      let atomic := 0x86 ≤ op ∧ op ≤ 0x8C
      let answered (s : State) (t : Tok) : State := emitReplies (answerAccess s f n k t) f n 17
      let reply := exec (.memAccessReply f n k) s
      let sync := exec (.syOperationApply f n k) s
      let chk := if op ∈ [0x82, 0x84, 0x86, 0x87, 0x88, 0x89, 0x8A, 0x8B, 0x8C] then checkResidue s f n a.tb else (s, a.tb)
      let p := chk.2.poison
      let word := wordKey fm.masks c
      let r := memRead chk.1 c (2 ^ w)
      let v := leNat r.2.bytes
      let shown (x : BitVec 32) : Tok := dataTok (decide (r.2.reason ≠ 0)) (if r.2.reason = 1 then 0 else x)
      (inOrder fm nd a = false → reply = .next (emitReplies s f n 17) ∧ sync = .next s) ∧
      (inOrder fm nd a = true → pendingFor s (.node f n k) = false →
        (op = 0x80 → w ≤ 2 → reply = .next (answered r.1 (shown (BitVec.ofNat 32 v)))) ∧
        (op = 0x81 → w ≤ 2 → reply = .next (answered r.1 (shown (BitVec.ofInt 32 (signedOf (8 * r.2.bytes.length) v))))) ∧
        (op = 0x82 → w ≤ 2 →
          reply = .next (answered (putBytes chk.1 c (leBytes a.tb.data.toNat (2 ^ w)) p) (dataTok p 0))) ∧
        (op = 0x80 ∨ op = 0x81 → w = 3 → let d := decodeLoad s (nodeRead fm.masks f n fm.ctx a t) t; reply = .next (answered d.1 d.2)) ∧
        (op = 0x82 → w = 3 → t.fmt ≤ 8 →
          reply = .next (answered (putBytes chk.1 c (leBytes a.tb.data.toNat (plainSize t.fmt)) p) (dataTok p 0))) ∧
        (op = 0x82 → w = 3 → t.fmt = 9 →
          let at_ := hbmCell fm.masks (codePlace t)
          let old := memRead chk.1 at_ 1
          let e := t.pa % 2 ^ t.bits % 4
          reply = .next (answered (putBytes old.1 at_ (leBytes (putBits (leNat old.2.bytes) (2 * e) 2 (a.tb.data.toNat % 4)) 1) p) (dataTok p 0))) ∧
        (0x83 ≤ op → op ≤ 0x85 →
          let wants : WordOp := if op = 0x83 then .takeFull else if op = 0x85 then .keepFull else .fillEmpty a.tb.data p
          reply = .next (emitReplies (settleTags (waitWord (setStage chk.1 f n k (.waiting word)) word ⟨.node f n k, wants, c⟩) word) f n 17)) ∧
        (atomic → w = 2 → 
          let b := a.tb.data.toNat
          let sgn (x : Nat) : Int := if x < 2 ^ 31 then x else (x : Int) - 2 ^ 32
          let x : Nat := if op = 0x86 then (v + b) % 2 ^ 32 else if op = 0x87 then (if sgn v ≤ sgn b then b else v)
            else if op = 0x88 then (if sgn v ≤ sgn b then v else b) else if op = 0x89 then b else if op = 0x8A then v &&& b
            else if op = 0x8B then v ||| b else v ^^^ b
          let put := putBytes r.1 c (leBytes x 4) p
          let made := if isHbmCell c then settleTags (settleWord (setFull put word) word) word else put
          let out := if onV then sync else reply
          (r.2.reason = 0 → out = .next (answered made (dataTok p (BitVec.ofNat 32 v)))) ∧
          (r.2.reason ≠ 0 → out = .next (answered r.1 (shown (BitVec.ofNat 32 v)))) ∧
          (if onV then reply = .next (emitReplies s f n 17) else sync = .next s)))

/-- R303 to R309. `fireOp` consumes the tokens `takes` and emits `emits`, unless an output has no room. -/
def Obligations.RouterOperators : Prop :=
  ∀ (s : State) (f : Nat) (fm : Form) (n : Nat) (nd : Node) (o i j : BitVec 3) (c : BitVec 1) (v : BitVec 3), AtNode s f fm n nd →
    let word (op i j v : BitVec 3) : BitVec 16 := op ++ o ++ i ++ j ++ c ++ v
    let tok (p : Nat) : Option Flit := tokenAt fm n p 0
    let ctl (t : Flit) : Prop := 2 ≤ t.tok.kind
    let same (t u : Flit) : Prop := t.tok.kind = u.tok.kind ∧ t.tok.data = u.tok.data
    let id (nd : Node) : Node := nd
    let pass (t : Flit) : Option Tok := if t.tok.kind < 2 then none else some t.tok
    let poison (t : Flit) : Tok := { t.tok with poison := true }
    decodeSwitch (word 0 i 0 0) = some (.opPass o i c) ∧ decodeSwitch (word 1 i 0 v) = some (.opFork o i c v) ∧
    decodeSwitch (word 2 i j v) = some (.opSteer o i j c v) ∧ decodeSwitch (word 3 i j v) = some (.opMerge o i j c v) ∧
    decodeSwitch (word 4 i j 0) = some (.opCarry o i j c) ∧ (v.toNat ≤ 4 → decodeSwitch (word 5 i 0 v) = some (.opNullFill o i c v)) ∧
    decodeSwitch (word 6 i j 0) = some (.opEgate o i j c) ∧ decodeSwitch (word 6 i j 1) = some (.opEgateSw o i j c) ∧
    (able fm nd 2 = true → nd.passed = false → (∀ p, p ≤ 2 → ∀ t, tok p = some t → tokReason t.tok = 0) →
      (tok 0 = none → ∀ e ∈ [Instr.opPass o i c, .opFork o i c v, .opSteer o i j c v, .opMerge o i j c v, .opNullFill o i c v, .opEgate o i j c,
        .opEgateSw o i j c], exec e s = .next s) ∧
      (∀ t, tok 0 = some t →
        exec (.opPass o i c) s = .next (fireOp s f n [(0, t)] [(0, t.tok)] (pass t) id) ∧
        exec (.opFork o i c v) s = .next (fireOp s f n [(0, t)] [(0, t.tok), (1, t.tok)] (pass t) id) ∧
        (v.toNat ≤ 4 →
          let fill : BitVec 32 := [0, 1, 0xFFFFFFFF, 0xFF800000, 0x0000FF80].getD v.toNat 0
          exec (.opNullFill o i c v) s = .next (fireOp s f n [(0, t)] [(0, if t.tok.kind = 1 then dataTok false fill else t.tok)] (pass t) id)) ∧
        (¬ctl t → ∀ e ∈ [Instr.opEgate o i j c, .opEgateSw o i j c], exec e s = .next (fireOp s f n [(0, t)] [(0, t.tok)] none id)) ∧
        (ctl t → tok 1 = none → ∀ e ∈ [Instr.opEgate o i j c, .opEgateSw o i j c], exec e s = .next s) ∧
        (∀ g, tok 1 = some g →
          let both := [(0, t), (1, g)]
          let flag : Tok := let b := decide (g.tok.kind = 0 ∧ g.tok.data ≠ 0 ∧ g.tok.poison = false); ⟨2, false, if b then 1 else 0, if b then 1 else 0⟩
          (ctl t → ctl g → same t g → ∀ e ∈ [Instr.opEgate o i j c, .opEgateSw o i j c],
            exec e s = .next (fireOp s f n both [(0, t.tok)] (some t.tok) id)) ∧
          (ctl t → ctl g → ¬same t g → ∀ e ∈ [Instr.opEgate o i j c, .opEgateSw o i j c], exec e s = .next (mismatch s f n 2)) ∧
          (ctl t → ¬ctl g → exec (.opEgate o i j c) s = .next (fireOp s f n both [(0, t.tok)] (some t.tok) id)) ∧
          (ctl t → ¬ctl g → t.tok.kind ≠ 2 → exec (.opEgateSw o i j c) s = .next (fireOp s f n both [(0, t.tok)] (some t.tok) id)) ∧
          (t.tok.kind = 2 → ¬ctl g → exec (.opEgateSw o i j c) s = .next (fireOp s f n both [(0, flag)] (some flag) id)) ∧
          (let steer (x y : Tok) (p : Option Tok) : Prop := exec (.opSteer o i j c v) s = .next (fireOp s f n both [(0, x), (1, y)] p id)
           (t.tok.kind = 0 → g.tok.kind = 0 → g.tok.poison = false → g.tok.data ≠ 0 → steer t.tok nullTok none) ∧
           (t.tok.kind = 0 → g.tok.kind = 0 → g.tok.poison = false → g.tok.data = 0 → steer nullTok t.tok none) ∧
           (t.tok.kind = 0 → g.tok.kind = 0 → g.tok.poison = true → steer (poison t) (poison t) none) ∧
           (¬ctl t → ¬ctl g → t.tok.kind = 1 ∨ g.tok.kind = 1 → steer nullTok nullTok none) ∧
           (ctl t → ctl g → same t g → steer t.tok t.tok (some t.tok)) ∧
           (ctl t ∨ ctl g → ¬same t g → exec (.opSteer o i j c v) s = .next (mismatch s f n 2))) ∧
          (tok 2 = none → exec (.opMerge o i j c v) s = .next s) ∧
          (∀ k, tok 2 = some k →
            let merge (x : Tok) : Prop := exec (.opMerge o i j c v) s = .next (fireOp s f n [(0, t), (1, g), (2, k)] [(0, x)] (pass k) id)
            (¬ctl t → ¬ctl g → k.tok.kind = 0 → k.tok.poison = false → merge (if k.tok.data ≠ 0 then t.tok else g.tok)) ∧
            (¬ctl t → ¬ctl g → k.tok.kind = 0 → k.tok.poison = true →
              merge (if t.tok.kind = 0 then poison t else if g.tok.kind = 0 then poison g else nullTok)) ∧
            (¬ctl t → ¬ctl g → k.tok.kind = 1 → merge nullTok) ∧
            (ctl k → same k t → same k g → merge k.tok) ∧
            (ctl t ∨ ctl g ∨ ctl k → ¬(same k t ∧ same k g) → exec (.opMerge o i j c v) s = .next (mismatch s f n 2)))) ∧
        (tok 1 = none → exec (.opSteer o i j c v) s = .next s ∧ exec (.opMerge o i j c v) s = .next s)) ∧
      (let slots := carrySlots fm n
       let turn := carryTurn nd slots
       let full := nd.slots.getD turn false
       let some_ := nd.slots.any (fun b => b)
       let carry (s' : State) : Prop := exec (.opCarry o i j c) s = .next s'
       let turned (active : Bool) (nd : Node) : Node := served nd slots turn active
       let clear := ∀ b, tok 1 = some b → ¬ctl b
       (nd.carry = .open_ ∨ (∃ k, nd.carry = .closing k) → ∀ b, tok 1 = some b → ctl b → carry (mismatch s f n 2)) ∧
       (nd.carry = .open_ → full = false → clear → tok 0 = none → carry s) ∧
       (nd.carry = .open_ → full = false → clear → ∀ t, tok 0 = some t →
         (¬ctl t → carry (fireOp s f n [(0, t)] [(0, t.tok)] none (turned true))) ∧
         (ctl t → carry (fireOp s f n [(0, t)] [] none (fun nd => { turned false nd with carry := .closing t.tok })))) ∧
       ((nd.carry = .open_ ∨ (∃ k, nd.carry = .closing k) ∧ some_ = true) → full = true →
         (tok 1 = none → carry s) ∧
         (∀ b, tok 1 = some b →
           (b.tok.kind = 0 → carry (fireOp s f n [(1, b)] [(0, b.tok)] none (turned true))) ∧
           (b.tok.kind = 1 → carry (fireOp s f n [(1, b)] [] none (turned false))))) ∧
       (∀ k, nd.carry = .closing k → some_ = false → clear → carry (fireOp s f n [] [(0, k)] none (fun nd => { nd with carry := .returning k }))) ∧
       (∀ k, nd.carry = .returning k →
         (tok 1 = none → carry s) ∧
         (∀ b, tok 1 = some b →
           (ctl b → b.tok.kind = k.kind → b.tok.data = k.data →
             carry (fireOp s f n [(1, b)] [] (some b.tok) (fun nd => { nd with carry := .open_, turn := 0 }))) ∧
           (¬(ctl b ∧ b.tok.kind = k.kind ∧ b.tok.data = k.data) → carry (mismatch s f n 2))))))

/-- R56, R57, R69, R75, R47, R441, R398, R442. The model's choices: which slots a swap exchanges (log 27, DEDUCED), the order in which a cache drops
words (log 37, DEDUCED), the diagonal crossings that a port faces (log 103), and that the sticking routers are given from outside (log 85). -/
def Obligations.FabricMoves : Prop :=
  ∀ (s : State) (f : Nat) (fm : Form), formAt s f = some fm →
    (formLive fm = true ∨ lingers fm = true → ∀ a ar k t, fm.arcs[a]? = some ar → ar.toks[k]? = some t →
      let last := ar.route.length + 1
      let free := t.hop < last ∧ t.hop ∉ ar.swapped ∧
        (k = 0 → t.hop + 1 < last ∨ offeredOn fm ar = 0) ∧
        (k ≠ 0 → t.hop + 1 < last ∧ ∃ u, ar.toks[k - 1]? = some u ∧ t.hop + 1 ≤ u.hop)
      let hopped : Form := { fm with
        moves := fm.moves + 1, arcs := listMod a (fun ar => { ar with
          toks := listMod k (fun t => { t with hop := t.hop + 1, since := s.tenths }) ar.toks }) fm.arcs }
      let moved := { s with forms := tblSet f (if t.tok.kind = 2 ∧ t.tok.data.getLsbD 0 = true then passHop hopped a ar t.hop else hopped) s.forms }
      (free → exec (.arcHop f a k) s = .next (if t.hop + 1 = last then arriveTok moved f a t.tok else moved)) ∧
      (¬free → exec (.arcHop f a k) s = .next s) ∧
      (s.breaks = [] → t.hop + 1 = last → free → arriveTok moved f a t.tok =
        putNode moved f ar.dst (fun nd => if nd.cls ≤ 1 ∧ nd.loaded = false then { nd with asked := true } else nd))) ∧
    (∀ a ar h site, fm.arcs[a]? = some ar → hopSite ar h = some site →
      let marked : Form := { fm with arcs := listMod a (fun ar => { ar with swapped := setAdd h ar.swapped }) fm.arcs }
      let slots := (∀ nd ∈ fm.nodes, isActive nd = true → nd.cls = 2 → nodeSite nd = site → nd.passed = true) ∧
        (∀ b ∈ marked.arcs, ∀ k, k ≤ b.route.length → hopSite b k = some site → k ∈ b.swapped)
      (¬slots → passHop fm a ar h = marked) ∧
      (slots → passHop fm a ar h = { marked with
        nodes := fm.nodes.map (fun nd => if isActive nd = true ∧ nd.cls = 2 ∧ nodeSite nd = site then
          { nd with passed := false, sel := !nd.sel } else nd)
        arcs := marked.arcs.map (fun b => { b with swapped := b.swapped.filter (fun k => !decide (hopSite b k = some site)) }) })) ∧
    (∀ n p src now t, 
      (∀ k a, outArc fm n p = some (k, a) → fm.arcs[k]? = some a ∧ a.src = n ∧ a.fport = p ∧ a.lane = false ∧
        (emitOn now fm n p t).arcs = listMod k (fun a => { a with toks := a.toks ++ [⟨t, 0, now⟩] }) fm.arcs) ∧
      (∀ k a, inArc fm n p src = some (k, a) → fm.arcs[k]? = some a ∧ a.dst = n ∧ a.tport = p ∧
        (offered fm n p = none → (takeAt now fm n p src).arcs = listMod k (fun a => { a with
          toks := a.toks.tail
          freed := if a.cap ≤ a.toks.length + withheld fm a ∧ a.toks.tail.length + withheld fm a < a.cap then now else a.freed }) fm.arcs)) ∧
      (∀ nd o, fm.nodes[n]? = some nd → offered fm n p = some o → (∃ q, (p, o) = q ∧ nd.offer.find? (fun q => q.1 == p) = some q) ∧
        (takeAt now fm n p src).arcs = fm.arcs.map (fun a =>
          if a.dst = n ∧ a.tport = p ∧ feeds nd a = true ∧ a.toks.length + withheld fm a + offeredOn fm a = a.cap then { a with freed := now } else a) ∧
        (takeAt now fm n p src).nodes = listMod n (fun nd => { nd with offer := nd.offer.eraseP (fun q => q.1 == p) }) fm.nodes) ∧
      (∀ u, tokenAt fm n p src = some u → ∃ k a, inArc fm n p src = some (k, a) ∧ a.holds = [] ∧
        (offered fm n p = some u ∨ offered fm n p = none ∧ a.toks.head? = some u ∧ u.hop = a.route.length + 1))) ∧
    (∀ n nd, fm.nodes[n]? = some nd → formLive fm = true →
      let cl := siteCluster (nodeSite nd)
      let cached := (f, n) ∈ (clusterAt s cl).cache ∧ (f, n) ∉ (clusterAt s cl).cacheBad
      let load := exec (.configWordLoad f n) s
      let kept (s : State) (w v : BitVec 32) (ii : Nat) : State :=
        modForm s f (fun fm => { modNode fm n (fun nd => { nd with word := w, shadow := v, ii := ii }) with got := [] })
      (nd.asked = false ∨ nd.loaded = true ∨ nd.blocked = true → load = .next s) ∧
      (nd.asked = true → nd.loaded = false → nd.blocked = false → nd.fetch = none →
        (cached → load = .next (loadWords (cacheTouch s cl f n) f n)) ∧
        (¬cached → ∀ s1 w v ii, fetchWords s f fm n nd = (s1, .ok (w, v, ii)) →
          load = .next (loadWords (cacheTouch (kept s1 w v ii) cl f n) f n)) ∧
        (¬cached → ∀ s1 r a p, fetchWords s f fm n nd = (s1, .error (.stop r a p)) → r = 1 ∨ 8 ≤ r → load = .next (nodeFault s1 f n 9 a r)) ∧
        (¬cached → ∀ s1 r a p, fetchWords s f fm n nd = (s1, .error (.stop r a p)) → r ≠ 1 → r < 8 →
          let z : Freeze := ⟨a, r, false, s1.now, s1.now, p, s1.nextInval⟩
          load = .next (freezeRecord (modForm s1 f (fun fm => { modNode fm n (fun nd => { nd with fetch := some ⟨0, false, z⟩ }) with got := [] }))
            f n z .v)) ∧
        (¬cached → ∀ s1 a, fetchWords s f fm n nd = (s1, .error (.damaged a)) → load = .next (nodeFault s1 f n 10 a 0))) ∧
      (let a := wordReason nd.cls nd.word fm.pool.length
       let b := wordReason nd.cls nd.shadow fm.pool.length
       (a = 0 ∧ b = 0 → loadWords s f n = { s with forms := tblSet f { fm with
          moves := fm.moves + 1
          nodes := listMod n (fun nd => { nd with loaded := true, fetch := none, conds := tblSet 4 s.tenths nd.conds }) fm.nodes } s.forms }) ∧
       (¬(a = 0 ∧ b = 0) → loadWords s f n = failNode (putNode s f n (fun nd => { nd with blocked := true })) f n (fun fm nd =>
          { nodeRecord fm nd 0x23 (if a ≠ 0 then a else 4) with word := (if a ≠ 0 then nd.word else nd.shadow).toNat })))) ∧
    (let drained := { fm with
      draining := true, moves := fm.moves + 1, nodes := fm.nodes.map (fun nd => if isSource nd then { nd with inj := nd.inj ++ [drainTok] } else nd) }
     let ready := fm.phase = .armed ∧ fm.draining = false ∧ sinksDone fm = true
     (ready → exec (.drainInject f) s = .next { s with forms := tblSet f drained s.forms }) ∧ (¬ready → exec (.drainInject f) s = .next s)) ∧
    (∀ a ar nd site port w, fm.arcs[a]? = some ar → fm.nodes[ar.src]? = some nd → formLive fm = true ∨ lingers fm = true →
      let mine (k : Nat) : Prop := siteCluster k ∈ partClusters s (partNum s fm.ctx)
      let out (k : Nat) : Prop := k ∈ facedBy site port ∧ ¬mine k
      let guards := site < 32768 ∧ port < 4 ∧ mine site ∧ (∃ k, out k) ∧
        (bitsOf w 10 3 = port ∨ (bitsOf w 13 3 = 1 ∨ bitsOf w 13 3 = 2) ∧ bitsOf w 0 3 = port)
      let crosses := ∃ k, out k ∧ siteQuad k ≠ siteQuad site
      let here (t : Flit) : Prop := (t.hop = 0 → nd.cls = 2 ∧ nodeSite nd = site) ∧
        (t.hop ≠ 0 → ∃ r, ar.route[t.hop - 1]? = some r ∧ r / 65536 = site)
      (¬guards ∨ (∀ t ∈ ar.toks, ¬here t) → exec (.guardDiscard f a site port w) s = .next s) ∧
      (guards → ∀ k t, ar.toks[k]? = some t → here t → (∀ j u, j < k → ar.toks[j]? = some u → ¬here u) →
        ∀ r, (crosses → r = 2) → (¬crosses → r = 1) → exec (.guardDiscard f a site port w) s = .next (failForm
          { s with forms := tblSet f { fm with
            guarded := true, moves := fm.moves + 1, arcs := listMod a (fun ar => { ar with toks := ar.toks.eraseIdx k }) fm.arcs } s.forms } f
          (fun fm => { nodeRecord fm nd 0x28 r with
            origin := 5, word := w % 65536, detail := tokBits t.tok + site * 2 ^ 38 + port * 2 ^ 53 })))) ∧
    (let done := exec (.teardownComplete f) s
     let lost := { s with unusable := (formSites fm).foldl (fun u k => if setHas k s.sticking then setAdd k u else u) s.unusable }
     (tornDown s f fm = false → done = .next s) ∧
     (tornDown s f fm = true → fm.guarded = false → done = .next (finishForm s f false)) ∧
     (tornDown s f fm = true → fm.guarded = true → done = .next (finishForm lost f false)))

/-- R63, R64, R301, R302. The model's choices: by which word an element reads a stream (log 28, DEDUCED), and that a stream without readers is
dropped at once (log 41, DEDUCED). -/
def Obligations.LoopUnits : Prop :=
  ∀ (s : State) (f : Nat) (fm : Form) (n : Nat) (nd : Node), formAt s f = some fm → fm.nodes[n]? = some nd →
    able fm nd 3 = true →
    let k := ((curWord nd).extractLsb' 0 10).toNat
    let start := poolEntry fm k
    let step := poolEntry fm (k + 1)
    let consume := exec (.loopNConsume f n) s
    let series (t : Tok) : Rest :=
      if t.kind = 0 ∧ t.poison = false ∧ t.data ≠ 0 then .run start.toInt step.toInt t.data.toNat 0
      else .one (if t.kind = 0 ∧ t.poison then dataTok true 0 else if t.kind ≤ 1 then nullTok else t)
    let own := if nd.word.getLsbD 31 then injection s fm nd else none
    let taken (s : State) (t : Tok) (g : Form → Form) : State :=
      modForm s f (fun fm => modNode (g fm) n (fun nd => { nd with idx := series t, last := series t }))
    (nd.idx ≠ .none ∨ nd.last ≠ .none → consume = .next s) ∧
    (nd.idx = .none → nd.last = .none →
      (∀ t, own = some t → consume = .next (taken (noteFiring s f n [] [0, 1]) t (fun fm => modNode fm n (fun nd => injected nd t)))) ∧
      (own = none → tokenAt fm n 0 0 = none → consume = .next s) ∧
      (∀ t, own = none → tokenAt fm n 0 0 = some t → tokReason t.tok = 0 →
        consume = .next (taken (noteFiring s f n [(0, t)] [0, 1]) t.tok (fun fm => takeAt s.tenths fm n 0 0)))) ∧
    (∀ (i c : Nat), 0 < c → i < c → c < 2 ^ 32 →
      let r : Rest := .run start.toInt step.toInt c i
      restTok 0 r = some (dataTok false (start + BitVec.ofNat 32 i * step)) ∧
      restTok 1 r = some (dataTok false (if i + 1 = c then 1 else 0)) ∧
      restNext r = if i + 1 = c then .none else .run start.toInt step.toInt c (i + 1)) ∧
    (∀ (last : Bool) t, restTok (if last then 1 else 0) (if last then nd.last else nd.idx) = some t →
      let st : Nat := if last then 1 else 0
      let emit := exec (.loopEmit f n last) s
      let rs := readers fm n st nd
      let given := if last then nd.lastGiven else nd.idxGiven
      let unread := given = [] ∧ ∃ a ∈ fm.arcs, a.lane = true ∧ a.src = n ∧ a.fport = st ∧ a.toks ≠ []
      let takers := if unread then [] else
        rs.filter (fun k => !setHas k given && (fm.arcs[k]?).any (fun a => decide (a.toks.length + withheld fm a + offeredOn fm a < a.cap)))
      let given' := takers.foldl (fun g k => setAdd k g) given
      let whole := rs.all (fun k => setHas k given')
      let rest : Rest := if rs = [] then .none else if whole then restNext (if last then nd.last else nd.idx) else (if last then nd.last else nd.idx)
      let left (nd : Node) : Node := if last then { nd with last := rest, lastGiven := if whole then [] else given' }
        else { nd with cur := some t.data, idx := rest, idxGiven := if whole then [] else given' }
      let fed (fm : Form) : Form := takers.foldl (fun fm k => putArc fm k (fun a => { a with toks := a.toks ++ [⟨t, 0, s.tenths⟩] })) fm
      (rs ≠ [] → takers = [] → emit = .next s) ∧
      (rs = [] ∨ takers ≠ [] → emit = .next (settleDrain (modForm s f (fun fm =>
        modNode { fed fm with moves := (fed fm).moves + 1 } n (fun nd => if isControl t && whole then endControl t (left nd) else left nd))) f)))

/-- R215 to R217, R300; `w` is the element's size. Outside V a port's place is in A of the home cluster. The model's choices: a port has one access
at a time (log 35, DESIGN CHOICE), and the reason of an address of 2^57 or more (log 51, DEDUCED). -/
def Obligations.StreamPorts : Prop :=
  ∀ (s : State) (f : Nat) (fm : Form) (n : Nat) (nd : Node) (cl : Nat), formAt s f = some fm → fm.nodes[n]? = some nd → fm.home = some cl →
    able fm nd 5 = true →
    let p := (nd.word.extractLsb' 25 6).toNat
    let sink := nd.word.getLsbD 31
    let full := nd.word.getLsbD 20
    let k := (fmtOfCode (nd.word.extractLsb' 21 4).toNat).getD .i32
    let w := fmtWidth k / 8
    let q := portAt s cl p
    let word (c : Nat) : Nat := wordKey fm.masks (c / 4 * 4)
    let turn := if sink then exec (.sportSinkAccess f n) s else exec (.sportSourceAccess f n) s
    let emits (s : State) (t : Tok) : State := modForm s f (fun fm => emitOn s.tenths fm n 0 t)
    let eats (s : State) (g : Node → Node) : State := modForm s f (fun fm => modNode (takeAt s.tenths fm n 0 0) n g)
    let ended (s : State) (b : Binding) (rest : List Binding) : State :=
      movePort s (cl, p) { q with bindings := rest, ordinal := if b.pos = 0 then q.ordinal + 1 else q.ordinal }
    let moved (b : Binding) (rest : List Binding) : State :=
      movePort s (cl, p) { q with
        bindings := if bindAccesses b ≤ b.pos + 1 ∧ (sink ∨ b.eos = false) then rest else { b with pos := b.pos + 1 } :: rest
        ordinal := if b.pos = 0 then q.ordinal + 1 else q.ordinal }
    let starts (s0 s1 : State) (b : Binding) (t : Tok) : Prop :=
      let a := bindAddr b b.pos
      let at_ (st : Stage) : Access := { seq := nd.began, word := nd.word, ta := t, tb := nullTok, addr := (a % 2 ^ 64).toNat, stage := st, froze := none, got := [] }
      let begun (st : Stage) (nd : Node) : Node := { nd with began := nd.began + 1, accs := nd.accs ++ [at_ st] }
      let failsWith (r d : Nat) : Prop := turn = .next (nodeFault s0 f n r (a % 2 ^ 64).toNat d)
      let fails (r : Nat) : Prop := failsWith r 0
      let begins (st : Stage) : Prop := turn = .next (modForm s1 f (fun fm =>
        dateFreed s.tenths fm (modNode (if sink then takeFrom fm n 0 0 else fm) n (begun st)) n))
      (a % w ≠ 0 → fails 1) ∧ (a % w = 0 → b.spaceV = true → full = true → fails 8) ∧
      (a % w = 0 → b.spaceV = true → full = false → 0 ≤ a ∧ a < 2 ^ 57 → begins .begun) ∧
      (a % w = 0 → b.spaceV = true → full = false → a < 0 ∨ 2 ^ 57 ≤ a → failsWith 9 1) ∧
      (a % w = 0 → b.spaceV = false → a < 0 ∨ 0x200000 ≤ a → fails 2) ∧
      (a % w = 0 → b.spaceV = false → 0 ≤ a → a < 0x200000 → begins (.ready noTarget (aCell cl a.toNat)))
    (sink = false →
      (nd.accs = [] →
        (∀ t, injection s fm nd = some t → canEmit fm n 0 = true →
          turn = .next (settleDrain (modForm (if t.kind = 3 then freePort s (cl, p) else s) f (fun fm =>
            modNode (emitOn s.tenths fm n 0 t) n (fun nd => notePassed (injected nd t) t))) f)) ∧
        (injection s fm nd = none → q.bindings = [] → turn = .next s) ∧
        (∀ b rest, injection s fm nd = none → q.bindings = b :: rest → fm.tiles ≠ 0 → fm.phase = .armed →
          (b.pos < bindAccesses b → canEmit fm n 0 = true → starts (noteFiring s f n [] [0]) (noteFiring s f n [] [0]) b nullTok) ∧
          (bindAccesses b ≤ b.pos → b.eos = false → turn = .next (ended s b rest)) ∧
          (bindAccesses b ≤ b.pos → b.eos = true → canEmit fm n 0 = true →
            let flag := if b.swap then 1 else 0
            turn = .next (emits (ended s b rest) ⟨2, false, flag, BitVec.ofNat 32 flag⟩)) ∧
          (canEmit fm n 0 = false → b.pos < bindAccesses b ∨ b.eos = true → turn = .next s))) ∧
      (∀ a more, nd.accs = a :: more →
        (∀ t, a.stage = .done t → canEmit fm n 0 = false → turn = .next s) ∧
        (∀ t b rest, a.stage = .done t → t.kind = 0 → canEmit fm n 0 = true → q.bindings = b :: rest →
          let d := if full then t.data.toNat / 2 ^ (8 * (a.addr % 4)) else t.data.toNat
          let out := dataTok t.poison (fill32 k (d % 2 ^ fmtWidth k))
          turn = .next (modForm (moved b rest) f (fun fm => modNode (emitOn s.tenths fm n 0 out) n (fun nd => { nd with accs := nd.accs.tail })))) ∧
        (∀ g c, a.stage = .ready g c → g.peer = false → pendingFor s (.node f n a.seq) = false →
          let r := memRead s c w
          let v := BitVec.ofNat 32 (leNat r.2.bytes)
          (full = false → turn = .next
            (answerAccess r.1 f n a.seq (dataTok (decide (r.2.reason ≠ 0)) (if r.2.reason = 1 then 0 else v)))) ∧
          (full = true → turn = .next (waitWord (setStage s f n a.seq (.waiting (word c))) (word c) ⟨.node f n a.seq, .takeFull, c / 4 * 4⟩))))) ∧
    (sink = true → holding fm nd = false →
      (nd.accs = [] →
        (tokenAt fm n 0 0 = none → turn = .next s) ∧
        (∀ t, tokenAt fm n 0 0 = some t → tokReason t.tok = 0 →
          let noted := noteFiring s f n [(0, t)] []
          (t.tok.kind = 3 ∨ t.tok.kind = 4 →
            let s1 := noteFiring (if t.tok.kind = 3 then freePort s (cl, p) else s) f n [(0, t)] []
            turn = .next (settleDrain (eats s1 (fun nd => notePassed nd t.tok)) f)) ∧
          (t.tok.kind ≤ 2 → q.bindings = [] → fm.phase = .armed → turn = .next s) ∧
          (∀ b rest, q.bindings = b :: rest →
            (t.tok.kind = 0 → b.pos < bindAccesses b → starts noted noted b t.tok) ∧
            (t.tok.kind = 1 → b.pos < bindAccesses b → turn = .next (eats
              (movePort noted (cl, p) { q with
                bindings := if bindAccesses b ≤ b.pos + 1 then rest else { b with pos := b.pos + 1 } :: rest
                ordinal := if b.pos = 0 then q.ordinal + 1 else q.ordinal }) (fun nd => { nd with eos := nd.eos || false }))) ∧
            (t.tok.kind = 2 → b.pos < bindAccesses b → turn = .next (eats
              (movePort noted (cl, p) { q with bindings := rest, ordinal := if b.pos = 0 then q.ordinal + 1 else q.ordinal })
              (fun nd => { nd with eos := nd.eos || !t.tok.data.getLsbD 0 })))))) ∧
      (∀ a more, nd.accs = a :: more →
        (∀ t b rest, a.stage = .done t → q.bindings = b :: rest →
          turn = .next (putNode (moved b rest) f n (fun nd => { nd with accs := nd.accs.tail }))) ∧
        (∀ g c, a.stage = .ready g c → g.peer = false → pendingFor s (.node f n a.seq) = false →
          let chk := checkResidue s f n a.ta
          let bad := chk.2.poison
          (full = false → turn = .next
            (answerAccess (putBytes chk.1 c (leBytes a.ta.data.toNat w) bad) f n a.seq (dataTok false 0))) ∧
          (full = true → turn = .next (waitWord (setStage chk.1 f n a.seq (.waiting (word c))) (word c)
            ⟨.node f n a.seq, .putEmpty (c % 4) w (a.ta.data.toNat % 2 ^ (8 * w)) bad, c / 4 * 4⟩)))))

/-- R299. The command is that of `mma`, with its operands taken from the two tokens. The model's choices: the bound of sixteen operations, which
R294 gives for memory elements alone (log 35), and which address a failing operand range is recorded with (log 97). -/
def Obligations.MatrixNodes : Prop :=
  ∀ (s : State) (f : Nat) (fm : Form) (n : Nat) (nd : Node), formAt s f = some fm → fm.nodes[n]? = some nd → able fm nd 4 = true →
    let fire := exec (.matrixNodeFire f n) s
    (tokenAt fm n 0 0 = none ∨ tokenAt fm n 1 0 = none → fire = .next s) ∧
    (∀ a b, tokenAt fm n 0 0 = some a → tokenAt fm n 1 0 = some b → tokReason a.tok = 0 → tokReason b.tok = 0 →
      let x := a.tok.data
      let y := b.tok.data
      let cl := fm.home.getD 0
      let w := curWord nd
      let u := (w.extractLsb' 23 2).toNat
      let q := unitAt s cl u
      let fld (v : BitVec 32) (lo n : Nat) : Nat := (v.extractLsb' lo n).toNat
      let cmd : Cmd :=
        { word := formE 0x32 (fld w 23 3) 0 0 (fld x 25 1 * 64 + fld w 26 6)
          ga := BitVec.ofNat 64 (fld x 0 15 * 64 + fld x 15 10 * 2 ^ 32)
          gb := BitVec.ofNat 64 (fld y 0 15 * 64 + fld y 15 14 * 64 * 2 ^ 32 + fld w 21 2 * 2 ^ 52 + fld w 20 1 * 2 ^ 54)
          desc := [], masks := fm.masks, tid := 0, ctx := fm.ctx, node := some (f, n), handle := 0, headAt := none, asked := none
          granted := false, power := 0, step := 0, la := 0, sum := 0, best := 0, bad := false, bk := none, waiting := false, frost := []
          froze := [], memo := [], got := [], lanes := [], rows := [], failed := false }
      let consumed (s : State) (st : Stage) : State :=
        let s := noteFiring s f n [(0, a), (1, b)] [0]
        emitReplies (modForm s f (fun fm => modNode (takeAt s.tenths (takeAt s.tenths fm n 0 0) n 1 0) n (fun nd => { nd with
          began := nd.began + 1
          ops := nd.ops + (if st = .sent 0 then 1 else 0)
          accs := nd.accs ++ [{ seq := nd.began, word := w, ta := a.tok, tb := b.tok, addr := 0, stage := st, froze := none, got := [] }] }))) f n 17
      let passed := settleDrain (modForm s f (fun fm =>
        modNode (emitOn s.tenths (takeAt s.tenths (takeAt s.tenths fm n 0 0) n 1 0) n 0 a.tok) n (fun nd => { notePassed nd a.tok with
          sel := if decide (a.tok.kind = 2) && x.getLsbD 0 && nd.shadowIdx.isSome then !nd.sel else nd.sel }))) f
      let same := a.tok.kind = b.tok.kind ∧ x = y
      (2 ≤ a.tok.kind → same → nd.accs = [] → canEmit fm n 0 = true → fire = .next passed) ∧
      (2 ≤ a.tok.kind → same → nd.accs ≠ [] ∨ canEmit fm n 0 = false → fire = .next s) ∧
      (2 ≤ a.tok.kind ∨ 2 ≤ b.tok.kind → ¬same → fire = .next (mismatch s f n 4)) ∧
      (a.tok.kind ≤ 1 → b.tok.kind ≤ 1 →
        let open_ := (nd.accs.filter (fun a => !performed a)).length
        (16 ≤ open_ → fire = .next s) ∧
        (open_ < 16 →
          (a.tok.kind = 1 ∨ b.tok.kind = 1 → fire = .next (consumed s (.stand nullTok))) ∧
          (a.tok.kind = 0 → b.tok.kind = 0 → a.tok.poison = true ∨ b.tok.poison = true → fire = .next (consumed s (.stand (dataTok true 0)))) ∧
          (a.tok.kind = 0 → b.tok.kind = 0 → a.tok.poison = false → b.tok.poison = false →
            (fld x 26 6 ≠ 0 → fire = .next (nodeFault s f n 13 0 (tokBits a.tok))) ∧
            (fld x 26 6 = 0 → fld y 29 3 ≠ 0 → fire = .next (nodeFault s f n 13 0 (tokBits b.tok))) ∧
            (fld x 26 6 = 0 → fld y 29 3 = 0 → mmaInRange cmd = false → fire = .next (nodeFault s f n 2 (badOperand cmd) 0)) ∧
            (fld x 26 6 = 0 → fld y 29 3 = 0 → mmaInRange cmd = true → 8 ≤ (unitCmds q).length → fire = .next s) ∧
            (fld x 26 6 = 0 → fld y 29 3 = 0 → mmaInRange cmd = true → (unitCmds q).length < 8 →
              fire = .next (consumed (setQueue s cl u { q with queue := q.queue ++ [cmd] }) (.sent 0)))))))

/-- R33, R39, R43, R313 to R315, R318, R311, R47. The model's choices: which placement is taken, and the search for one (log 12), the refusals that
no list names (log 55), by which words a graph is judged (log 100), and that an item still being read holds back none (log 61). -/
def Obligations.Dispatching : Prop :=
  ∀ (s : State),
    (∀ l k, tblGet l s.launches = some k → k.admitted = false → k.fill = none →
      let admits := exec (.launchAdmit l) s
      ∀ s1, (∀ ts, checkGraph l k s = (s1, .ok ts) →
          (16384 < poolTasks s1 - k.resv + ts.length → admits = .next s1) ∧
          (poolTasks s1 - k.resv + ts.length ≤ 16384 →
            admits = .next (refreshLaunch (modLaunch s1 l (fun k => { k with admitted := true, tasks := ts, fill := none, got := [] })) l))) ∧
        (∀ r, checkGraph l k s = (s1, .refuse r) → admits = .next (endLaunch (writeRecord s1 k.ctx { plainRecord 0x21 r.reason 4 with
          launch := l, addr := r.addr, detail := r.idx % 2 ^ 32 + r.table * 2 ^ 32 }) l k 1)) ∧
        (∀ p r, checkGraph l k s = (s1, .absent p r) →
          admits = .next (modLaunch s1 l (fun k => { k with fill := some (p, r.addr, r.idx % 2 ^ 32 + r.table * 2 ^ 32) }))) ∧
        (checkGraph l k s = (s1, .pending) → admits = .next s1)) ∧
    (∀ l k, tblGet l s.launches = some k → k.admitted = true → exec (.launchAdmit l) s = .next s) ∧
    (∀ l j n t, tblGet l s.launches = some n → taskAt n j = some t →
      let i : Item := ⟨n.ctx, n.prio, t.readyAt, l, j, 0⟩
      let items := readyThreads s (partNum s n.ctx)
      let go := exec (.threadTaskDispatch l j) s
      let behind := (∃ b ∈ items, itemBefore s.now b i = true ∧ threadPlace s b ≠ none) ∨
        ∃ b ∈ suspendedItems s (partNum s n.ctx), itemBefore s.now b i = true ∧ placerServes s b = true ∧ mayReturn s b.ctx = true
      (i ∉ items ∨ threadPlace s i = none → go = .next s) ∧
      (i ∈ items → behind → go = .next s) ∧
      (∀ c, i ∈ items → ¬behind → threadPlace s i = some c →
        c ∈ partClusters s (partNum s n.ctx) ∧ (usedSlots s c).length < 16 ∧
        ((clusterAt s c).bound = none ∨ (clusterAt s c).bound = some n.ctx) ∧
        (∀ d ∈ partClusters s (partNum s n.ctx), (usedSlots s d).length < 16 → (clusterAt s d).bound = some n.ctx →
          (clusterAt s c).bound = some n.ctx ∧ (usedSlots s c).length ≤ (usedSlots s d).length ∧
          ((usedSlots s c).length = (usedSlots s d).length → c ≤ d)) ∧
        (∀ a1 a2 a3 a4 slot, t.args = [a1, a2, a3, a4] → slot < 16 → slot ∉ usedSlots s c → (∀ k < slot, k ∈ usedSlots s c) →
          ∃ s' th, go = .next s' ∧ tblGet (16 * c + slot) s'.threads = some th ∧ th.pc = BitVec.ofNat 64 t.entry ∧ th.ctx = n.ctx ∧
            th.spillov = BitVec.ofNat 64 t.ovf ∧ th.spillsz = t.size ∧ th.prio = n.prio ∧ th.status = 0 ∧ th.icnt = 0 ∧ th.wait = .none ∧
            regGet th 1 = BitVec.ofNat 64 a1 ∧ regGet th 2 = BitVec.ofNat 64 a2 ∧ regGet th 3 = BitVec.ofNat 64 a3 ∧
            regGet th 4 = BitVec.ofNat 64 a4 ∧ regGet th 5 = BitVec.ofNat 64 j ∧ regGet th 6 = BitVec.ofNat 64 (l % 2 ^ 32) ∧
            (∀ r : BitVec 5, r = 0 ∨ 6 < r.toNat → regGet th r = 0) ∧
            (∀ u, u ≠ 16 * c + slot → tblGet u s'.threads = tblGet u s.threads)))) ∧
    (∀ j, placerServes s j = true ↔ savedForms s j.ctx = [] ∨
      (((readyForms s (partNum s j.ctx)).filter (reservedItem s.now)) = [] ∧ aheadPassed s (partNum s j.ctx) j = true)) ∧
    (∀ now a b, effPrio now a b = (if 7 ≤ a + (now - b) / 256000 then 7 else a + (now - b) / 256000)) ∧
    (∀ p, 
      let first := firstItem s.now ((stuckItems s p).filter (fun i => s.ctxs.any (fun q => mayVictim s i q.1 q.2)))
      let slice := exec (.timeSliceDecision p) s
      (first = none → slice = .next s) ∧
      (∀ i, first = some i → ∃ q ∈ s.ctxs, mayVictim s i q.1 q.2 = true ∧ slice = .next (beginPreempt s q.1) ∧
        ∀ r ∈ s.ctxs, mayVictim s i r.1 r.2 = true → q.2.runSince ≤ r.2.runSince)) ∧
    (∀ f fm wheres routes isles, formAt s f = some fm →
      let place := exec (.placeFormation f wheres routes isles) s
      (mayPlace s fm = false ∨ fm.passed = true ∨ placeTurn s fm = false → place = .next s) ∧
      (mayPlace s fm = true → fm.passed = false → placeTurn s fm = true → fm.fill = none → ∀ s1,
        (∀ r, readGraph s f fm none (lateReasons s f fm) = (s1, .reject r) → place = .next (rejectForm s1 f fm r)) ∧
        (readGraph s f fm none (lateReasons s f fm) = (s1, .pending) → place = .next s1) ∧
        (∀ p a, readGraph s f fm none (lateReasons s f fm) = (s1, .absent p a) → place = .next (modForm s1 f (fun fm => { fm with fill := some (p, a) }))) ∧
        (∀ g r, readGraph s f fm none (lateReasons s f fm) = (s1, .ok g) → checkRecords g fm.home.isSome = some r → place = .next (rejectForm s1 f fm r)) ∧
        (∀ g, readGraph s f fm none (lateReasons s f fm) = (s1, .ok g) → checkRecords g fm.home.isSome = none →
          let given := goodPlacement s1 f fm g wheres routes isles
          let found := findPlacement s1 f fm g
          let never := given = false ∧ found = none ∧ findPlacement { s1 with forms := s1.forms.filter (fun q => q.1 == f) } f fm g = none
          let deep := ∃ c, ctxOf s1 fm.ctx = some c ∧ c.savesz < formRecordBytes g.nodes.length g.scratch
          let room := fitsSave s1 fm.ctx 0 0 [(g.nodes.length, g.scratch)]
          (never → place = .next (rejectForm s1 f fm (rejectAt 11 noNode))) ∧
          (¬never → deep → place = .next (rejectForm s1 f fm (rejectAt 12 noNode))) ∧
          (¬never → ¬deep → room = true → given = true → place = .next (settlePlaced s1 f g wheres routes isles)) ∧
          (¬never → ¬deep → room = true → given = false → ∀ c, found = some c → place = .next (settlePlaced s1 f g c.ws c.routes c.isles)) ∧
          (¬never → ¬deep → room = false ∨ (given = false ∧ found = none) →
            place = .next (modForm s1 f (fun fm => { fm with passed := true, cramped := given || found.isSome }))))) ∧
      (∀ nodes scratch g,
        let late := lateReasons s f fm nodes scratch
        let deep := ∃ c, ctxOf s fm.ctx = some c ∧ c.savesz < formRecordBytes nodes scratch
        let apart := findPlacement { s with forms := s.forms.filter (fun q => q.1 == f) } f fm g
        (apart = none → late (some g) = some (rejectAt 11 noNode)) ∧ (apart ≠ none → late (some g) = late none) ∧
        (deep → late none = some (rejectAt 12 noNode)) ∧ (¬deep → late none = none)) ∧
      (∀ g c, findPlacement s f fm g = some c → goodPlacement s f fm g c.ws c.routes c.isles = true) ∧
      (placeTurn s fm = true → firstItem s.now ((readyForms s (partNum s fm.ctx)).filter (reservedItem s.now)) = none →
        ∀ j ∈ suspendedItems s (partNum s fm.ctx), itemBefore s.now j (formItem fm) = true → savedForms s j.ctx ≠ [] →
          lacksClusters s j.ctx = true ∨ ∃ q ∈ savedForms s j.ctx, q.2.passed = true) ∧
      (placeTurn s fm = true → firstItem s.now ((readyForms s (partNum s fm.ctx)).filter (reservedItem s.now)) = none → ∀ g gm,
        formAt s g = some gm → mayPlace s gm = true → partNum s gm.ctx = partNum s fm.ctx →
        itemBefore s.now (formItem gm) (formItem fm) = true → gm.passed = true ∨ stillReading s g gm = true) ∧
      (placeTurn s fm = true → ∀ i, firstItem s.now ((readyForms s (partNum s fm.ctx)).filter (reservedItem s.now)) = some i →
        i = formItem fm)) ∧
    (∀ f fm, formAt s f = some fm →
      let arm := exec (.formationArm f) s
      (fm.phase ≠ .placing ∨ ctxRuns s fm.ctx = false → arm = .next s) ∧
      (fm.phase = .placing → ctxRuns s fm.ctx = true →
        let clear := fm.isles.foldl (fun s i => memClear s (islandCell i 0) (islandCell i 65536)) s
        let held := holdPorts clear f fm 0 fm.nodes
        let armed := modForm held f (fun fm => underHolds held { fm with
          phase := .armed, masks := ctxMasks held fm.ctx, moves := fm.moves + 1
          nodes := fm.nodes.map (fun nd => { nd with inj := firstTokens fm.tiles nd }) })
        let told := if fm.arm.isSome then armed else setTask armed fm.launch fm.task .running
        (blockedFrom fm 0 fm.nodes = none → arm = .next told) ∧
        (∀ n r w, blockedFrom fm 0 fm.nodes = some (n, r, w) → arm = .next (failNode (putNode told f n (fun nd => { nd with blocked := true })) f n
          (fun fm nd => { nodeRecord fm nd 0x23 r with word := w.toNat })))))

/-- R104, R106 to R108, R110, R206, R405. The model's choices: the masks of the device's own reads and writes (log 21, DEDUCED), that an access frozen
after an invalidation began is woken by a later one (log 81, DEDUCED), and an entry of the fill ring outside the partition's ranges (log 114, DEDUCED). -/
def Obligations.Paging : Prop :=
  (∀ (s : State) (x va : Nat) (c : Ctx) (need : Need) (table : Nat → Nat) (L : Nat), Sound s → s.copies = [] → ctxOf s x = some c → va < 2 ^ 57 → L ≤ 4 →
    table 4 = c.root →
    let place (l : Nat) : Nat := table l + 16 * (if l = 0 then va / 2 ^ 16 % 32 else va / 2 ^ (12 + 9 * l) % 512)
    let entry (l : Nat) : BitVec 128 := BitVec.ofNat 128 (leNat (cellsRead s.cells (hbmCell c.masks (place l)) 16))
    let walked := translate s x va need
    let e := entry L
    let kind := (e.extractLsb' 0 3).toNat
    let pa := (e.extractLsb' 9 31).toNat * 512
    let bits := if L = 0 then 16 else if L = 1 then 21 else if L = 2 then 30 else 39
    let fmt := (e.extractLsb' 40 5).toNat
    let geom := (e.extractLsb' 45 4).toNat
    let top := 384 * 2 ^ 30
    let bad : Prop := 5 ≤ kind ∨ e.extractLsb' 91 29 ≠ 0 ∨ e.extractLsb' 49 15 ≠ 0 ∨ e.getLsbD 8 = true ∨
      (kind = 1 ∧ (L = 0 ∨ e.extractLsb' 64 64 ≠ 0 ∨ e.extractLsb' 40 9 ≠ 0 ∨ e.extractLsb' 3 5 ≠ 0 ∨
        pa % (if L = 1 then 512 else 8192) ≠ 0 ∨ top ≤ pa)) ∨
      (kind = 3 ∧ (L ≠ 0 ∨ e.getLsbD 4 = true ∨ e.extractLsb' 120 8 ≠ 0 ∨ (e.getLsbD 6 = true ∧ (pa % 65536 ≠ 0 ∨ top ≤ pa)))) ∨
      ((kind = 2 ∨ kind = 4) ∧ (2 < L ∨ e.extractLsb' 64 27 ≠ 0 ∨ e.getLsbD 6 = true ∨ pa % 2 ^ bits ≠ 0)) ∨
      (kind = 2 ∧ (e.extractLsb' 120 8 ≠ 0 ∨ top ≤ pa))
    let strange : Prop := 15 ≤ fmt ∨ ((fmt < 10 ∨ 13 < fmt) ∧ geom ≠ 0) ∨ ((fmt = 12 ∨ fmt = 13) ∧ 3 ≤ geom) ∨ (fmt = 14 ∧ L ≠ 0)
    let granted : Prop := (need.r = true → e.getLsbD 3 = true) ∧ (need.w = true → e.getLsbD 4 = true) ∧ (need.x = true → e.getLsbD 5 = true)
    let held : LeafCopy := ⟨x, L, va / 2 ^ bits, e ||| 128#128⟩
    let served (t : Target) : Prop := walked = ({ s with
      cells := if e.getLsbD 7 = true then s.cells else
        cellsWrite s.cells (hbmCell c.masks (place L)) (leBytes ((e.extractLsb' 0 64).toNat + 128) 8)
      copies := [held] }, .ok t)
    (∀ l, L < l → l ≤ 4 → paAllowed s x (place l) 16 = true ∧ (entry l).toNat = table (l - 1) + 1 ∧
      table (l - 1) % (if l = 1 then 512 else 8192) = 0 ∧ table (l - 1) < top) →
    (paAllowed s x (place L) 16 = false → walked = (s, .fault 5)) ∧
    (paAllowed s x (place L) 16 = true →
      (kind = 0 → walked = (s, .fault 2)) ∧ (kind ≠ 0 → bad → walked = (s, .fault 3)) ∧
      (2 ≤ kind → ¬bad →
        (strange → walked = (s, .fault 4)) ∧ (¬strange → ¬granted → walked = (s, .fault 5)) ∧
        (¬strange → granted →
          (kind = 2 ∨ (kind = 3 ∧ e.getLsbD 6 = true) →
            (paAllowed s x (pa + va % 2 ^ bits) 1 = true → served ⟨false, 0, pa + va % 2 ^ bits, fmt, geom, bits⟩) ∧
            (paAllowed s x (pa + va % 2 ^ bits) 1 = false → walked = (s, .fault 5))) ∧
          (kind = 3 → e.getLsbD 6 = false → ∀ p, partOf s x = some p →
            let page := (e.extractLsb' 64 27).toNat
            let mine : Prop := p.fbase ≤ page ∧ page < p.fbase + p.fcount ∧ page < 0x8000000 - 16384
            (mine → walked = (s, .absent page)) ∧ (¬mine → walked = (s, .fault 5))) ∧
          (kind = 4 → ∀ p, partOf s x = some p →
            let dev := (e.extractLsb' 120 8).toNat
            let reached : Prop := need.tagged = false ∧ p.peers.testBit (s.routes.getD dev 0) = true
            (reached → served ⟨true, dev, pa + va % 2 ^ bits, fmt, geom, bits⟩) ∧ (¬reached → walked = (s, .fault 5))))))) ∧
  (∀ (s : State) (x : Nat) (va : Word) (need : Need), translateWord s x va need = if va.toNat < 2 ^ 57 then translate s x va.toNat need else (s, .fault 1)) ∧
  ∀ (s : State),
    (∀ f fm n nd k a, formAt s f = some fm → fm.nodes[n]? = some nd → accessAt nd k = some a → formLive fm = true → nd.cls = 1 →
      a.stage = .begun → a.addr < 2 ^ 57 →
      let pfch := a.word.extractLsb' 24 8 = 0x8D#8
      let walked := exec (.pageWalk false f n k) s
      let answered (s : State) : State := dateSlots fm f n (answerAccess s f n k (dataTok false 0))
      let xlat := if a.froze = none then translate else freshXlat
      ∀ s1, (pfch → ∀ r, xlat s fm.ctx a.addr ⟨false, false, false, false⟩ = (s1, r) →
          (∀ t, r = .ok t → walked = .next (answered s1)) ∧ (∀ e, r = .fault e → walked = .next (answered s1)) ∧
          (∀ p, r = .absent p → walked = .next (answered (startFill s1 fm.ctx p a.addr)))) ∧
        (¬pfch → ∀ r, xlat s fm.ctx a.addr (accessNeed nd a) = (s1, r) →
          (∀ t, r = .ok t → decodeReason a t = (0, 0) →
            walked = .next (dateSlots fm f n (setStage s1 f n k (.ready t (if t.peer then 0 else hbmCell (nodeMasks s1 fm nd) t.pa))))) ∧
          (∀ t, r = .ok t → (decodeReason a t).1 ≠ 0 →
            walked = .next (nodeFault s1 f n (decodeReason a t).1 a.addr (decodeReason a t).2)) ∧
          (∀ p, r = .absent p → let s2 := startFill s1 fm.ctx p a.addr
            walked = .next (freezeAccess s2 f n k a.addr
              (if (tblGet (fillKey fm.ctx p) s2.fills).any (fun fl => fl.noFrame) then 7 else 6) (accessStores nd a) p)) ∧
          (∀ e, r = .fault e → e = 1 ∨ 8 ≤ e → walked = .next (nodeFault s1 f n 9 a.addr e)) ∧
          (∀ e, r = .fault e → e ≠ 1 → e < 8 → walked = .next (freezeAccess s1 f n k a.addr e (accessStores nd a) 0))) ∧
        (∀ addr e store page,
          let z : Freeze := ⟨addr, e, store, a.froze.getD s.now, s.now, page, s.nextInval⟩
          let frozen (fm : Form) : Form := dateFreed s.tenths fm { modNode fm n (fun nd => { nd with accs := nd.accs.map (fun b =>
            if b.seq = k then { b with stage := .frozen ⟨0, false, z⟩, froze := some z.since } else b) }) with moves := fm.moves + 1 } n
          (6 ≤ e → freezeAccess s f n k addr e store page = modForm s f frozen) ∧
          (e < 6 → freezeAccess s f n k addr e store page = writeRecord (modForm s f frozen) fm.ctx
            { nodeRecord (frozen fm) ((frozen fm).nodes.getD n nd) 4 e with addr := addr, detail := 8192 + if store then 4096 else 0 }))) ∧
    (∀ x p c fl, ctxOf s x = some c → tblGet (fillKey x p) s.fills = some fl →
      let take := exec (.fillRingTake x p) s
      let r := hbmRead s c.masks c.fring 9
      let head := leNat (r.2.bytes.take 4)
      let tail := leNat ((r.2.bytes.drop 4).take 4)
      let lg := leNat ((r.2.bytes.drop 8).take 1)
      let used := (tail + 2 ^ 32 - head) % 2 ^ 32
      let bad := lg < 4 ∨ 20 < lg ∨ 2 ^ lg < used
      let starved (s : State) : State := thawAll (fun z => if z.reason = 6 ∧ z.fpage = p then .refreeze 7 else .stay)
        { s with fills := tblMod (fillKey x p) (fun fl => { fl with noFrame := true }) s.fills } x
      let sound := modCtx r.1 x (fun c => { c with ringBad := false })
      let ring := c.fring + 64 + 8 * (head % 2 ^ lg)
      let e := hbmRead sound c.masks ring 8
      let frame := leNat e.2.bytes
      let advanced := hbmWrite e.1 c.masks c.fring (leBytes ((head + 1) % 2 ^ 32) 4) false
      (fl.frame ≠ none → take = .next s) ∧
      (fl.frame = none →
        (bad → c.ringBad = true → take = .next (starved r.1)) ∧
        (bad → c.ringBad = false → take = .next (modCtx (writeRecord (starved r.1) x { plainRecord 4 3 7 with addr := c.fring }) x
          (fun c => { c with ringBad := true }))) ∧
        (¬bad → used = 0 → take = .next (starved sound)) ∧
        (¬bad → used ≠ 0 → paAllowed sound x ring 8 = false → take = .next (failFill sound x p 5 0)) ∧
        (¬bad → used ≠ 0 → paAllowed sound x ring 8 = true → e.2.reason ≠ 0 ∨ frame % 65536 ≠ 0 ∨ hbmBytes ≤ frame →
          take = .next (failFill advanced x p 3 frame)) ∧
        (¬bad → used ≠ 0 → paAllowed sound x ring 8 = true → e.2.reason = 0 → frame % 65536 = 0 → frame < hbmBytes → paAllowed advanced x frame 65536 = false →
          take = .next (failFill advanced x p 5 frame)) ∧
        (¬bad → used ≠ 0 → paAllowed sound x ring 8 = true → e.2.reason = 0 → frame % 65536 = 0 → frame < hbmBytes → paAllowed advanced x frame 65536 = true → take = .next
          { advanced with fills := tblMod (fillKey x p) (fun fl => { fl with frame := some frame, noFrame := false }) advanced.fills })) ∧
      (let done := exec (.fillComplete x p) s
       (fl.frame = none → done = .next s) ∧
       (∀ frame, fl.frame = some frame → setHas p s.flashBad = true → done = .next (failFill s x p 8 frame)) ∧
       (∀ frame, fl.frame = some frame → setHas p s.flashBad = false →
         let copied := hbmWrite s c.masks frame (cellsRead s.cells (flashCell p 0) 65536) false
         let lost (s : State) : State := writeRecord s x { plainRecord 4 6 7 with addr := fl.vaddr, detail := 6 + frame / 65536 * 65536 }
         let put (s : State) (ea v : Nat) : State :=
           memStore s (hbmCell c.masks ea) (leBytes (putBits (putBits v 9 31 (frame / 512)) 6 1 1) 8) false
         let same (ea v : Nat) : Prop := leNat (cellsRead copied.cells (hbmCell c.masks ea) 8) = v
         (∀ ea v, fl.entry = some (ea, v) → same ea v → done = .next (endFill (put copied ea v) x p)) ∧
         ((∀ ea v, fl.entry = some (ea, v) → ¬same ea v) → ∀ s1, (∀ e, walk copied x fl.vaddr = (s1, .fault e) → done = .next (endFill (lost s1) x p)) ∧
           (∀ level ea w, walk copied x fl.vaddr = (s1, .leaf level ea w) →
             let l := leafOf level w
             let absent := l.kind = 3 ∧ l.pres = false ∧ l.fpage = p
             (absent → done = .next (endFill (put s1 ea (bitsOf w.toNat 0 64)) x p)) ∧
             (¬absent → done = .next (endFill (lost s1) x p))))))) ∧
    (∀ k v, tblGet k s.invals = some v →
      let done := exec (.xinvDone k) s
      (usesOld s v = true → done = .next s) ∧
      (usesOld s v = false →
        let dropped := dropCopies { s with invals := tblDel k s.invals, forms := tblMap (fun _ fm => retranslateForm s v fm) s.forms } v.ctx v.vaddr
        let woken := thawAll (fun z => if 2 ≤ z.reason ∧ z.reason ≤ 5 ∧ z.after ≤ k ∧ invalCovers dropped v z.vaddr then .wake else .stay)
          dropped v.ctx
        done = .next ((woken.threads.filter (fun t => decide (t.2.wait = .xinv k))).foldl (fun s t => retire s t.1) woken))) ∧
    (∀ f fm n nd k a z, formAt s f = some fm → fm.nodes[n]? = some nd → accessAt nd k = some a → a.stage = .frozen z → z.woken = false →
      k ≠ 0xFFFFFFFF →
      let expire := exec (.faultHoldExpire false f n k) s
      let due := 2 ≤ z.frz.reason ∧ z.frz.reason ≤ 5 ∧ 100000000 ≤ s.now - z.frz.since
      (due → expire = .next (nodeFault s f n 9 z.frz.vaddr (256 + z.frz.reason))) ∧ (¬due → expire = .next s)) ∧
    (∀ cl u c, (unitAt s cl u).running = some c →
      let due (z : Frost) : Prop := z.woken = false ∧ 2 ≤ z.frz.reason ∧ z.frz.reason ≤ 5 ∧ 100000000 ≤ s.now - z.frz.since
      (∀ k, (∀ z ∈ c.frost, z.idx ≠ k) → exec (.pageWalk true cl u k) s = .next s) ∧
      (∀ k z, c.frost.find? (fun z => z.idx == k) = some z →
        (z.woken = true → z.frz.vaddr < 2 ^ 57 → exec (.pageWalk true cl u k) s =
          .next (translate s c.ctx z.frz.vaddr (if z.frz.store then ⟨false, true, false, false⟩ else ⟨true, false, false, false⟩)).1) ∧
        (z.woken = false ∨ 2 ^ 57 ≤ z.frz.vaddr → exec (.pageWalk true cl u k) s = .next s)) ∧
      (∀ k, (∀ z ∈ c.frost, ¬due z) → exec (.faultHoldExpire true cl u k) s = .next s) ∧
      (∀ k pre z post, c.frost = pre ++ z :: post → (∀ y ∈ pre, ¬due y) → due z →
        let named := accessCmd s cl c
        let told := cmdFault s named 9 z.frz.vaddr (256 + z.frz.reason)
        let left (s : State) (c : Cmd) : State := setUnit s cl u { unitAt s cl u with running := some c }
        let expire := exec (.faultHoldExpire true cl u k) s
        (cmdMajor c ≠ 0x33 → expire = .next (left told { c with frost := [], failed := true })) ∧
        (cmdMajor c = 0x33 → expire = .next (modThread
          (left (setPort told cl (vecPort c) { portAt told cl (vecPort c) with bindings := [], failed := true })
            { c with frost := [], froze := [], got := [], lanes := [] }) named.tid (fun th => { th with failTask := true }))))) ∧
    (∀ f fm n nd z, formAt s f = some fm → fm.nodes[n]? = some nd → formLive fm = true → nd.fetch = some z →
      let expire := exec (.faultHoldExpire false f n 0xFFFFFFFF) s
      let load := exec (.configWordLoad f n) s
      let due := 2 ≤ z.frz.reason ∧ z.frz.reason ≤ 5 ∧ 100000000 ≤ s.now - z.frz.since
      let cl := siteCluster (nodeSite nd)
      let cached := (f, n) ∈ (clusterAt s cl).cache ∧ (f, n) ∉ (clusterAt s cl).cacheBad
      (z.woken = false → due → expire = .next (nodeFault s f n 9 z.frz.vaddr (256 + z.frz.reason))) ∧
      (z.woken = true ∨ ¬due → expire = .next s) ∧
      (z.woken = false → load = .next s) ∧
      (nd.shadowIdx = none → ∀ s1 bs, readImage true s fm (.image f n) (fm.nodeTable + 16 * n) 16 = (s1, .ok bs) →
        let w : BitVec 32 := BitVec.ofNat 32 (leNat ((bs.drop 8).take 4))
        fetchWords s f fm n nd = (s1, .ok (w, w, leNat ((bs.drop 12).take 2)))) ∧
      (z.woken = true → nd.asked = true → nd.loaded = false → nd.blocked = false → ¬cached → ∀ s1,
        (∀ w v ii, fetchWords s f fm n nd = (s1, .ok (w, v, ii)) → load = .next (loadWords (cacheTouch (modForm s1 f (fun fm =>
          { modNode fm n (fun nd => { nd with word := w, shadow := v, ii := ii }) with got := [] })) cl f n) f n)) ∧
        (∀ r a p, fetchWords s f fm n nd = (s1, .error (.stop r a p)) → r = 1 ∨ 8 ≤ r → load = .next (nodeFault s1 f n 9 a r)) ∧
        (∀ r a p, fetchWords s f fm n nd = (s1, .error (.stop r a p)) → r ≠ 1 → r < 8 →
          let z' : Freeze := ⟨a, r, false, z.frz.since, s1.now, p, s1.nextInval⟩
          load = .next (freezeRecord (modForm s1 f (fun fm =>
            { modNode fm n (fun nd => { nd with fetch := some ⟨0, false, z'⟩ }) with got := [] })) f n z' .v))))

/-- R319 to R325, R399 to R401, R344, R350. The model's choices: what a save keeps outside memory (log 13), the order of a sample's state codes (log 30),
what the report of a whole context waits for (log 77), and the moments of the sweeps (log 80). -/
def Obligations.SavingAndWatching : Prop :=
  ∀ (s : State) (x : Nat),
    (∀ c, ctxOf s x = some c →
      (c.phase ≠ .stopping ∨ maySeal s x = false → exec (.saveSeal x) s = .next s) ∧
      (c.phase = .stopping → maySeal s x = true → ∃ s' c', exec (.saveSeal x) s = .next s' ∧
        ctxOf s' x = some c' ∧ c'.phase = .suspended ∧ c'.sealTime = s.now ∧ c'.seals = c.seals + 1 ∧ (∃ v, tblGet x s'.saves = some v ∧ v.stamp = s.now) ∧
        (∀ t th, tblGet t s'.threads = some th → th.ctx ≠ x) ∧
        (∀ k, (clusterAt s' k).bound ≠ some x) ∧ s'.now = s.now ∧ s'.tenths = s.tenths)) ∧
    (∀ c v clusters wheres routes isles, ctxOf s x = some c → tblGet x s.saves = some v →
      let restore := exec (.contextRestore x clusters wheres routes isles) s
      let fs := s.forms.filter (fun f => decide (f.2.ctx = x ∧ f.2.phase = .saved))
      let moves (cs : List Nat) : Nat → Nat := lookupNat ((v.images.map (·.1)).zip cs)
      let rehoming (ws : List (List Nat)) (rs : List (List (List Nat))) (is : List (List Nat)) : List Rehome :=
        rehomes (4096 + 4096 * v.threads.length + 0x5E8000 * v.images.length) fs ws rs is
      let free (k : Nat) : Prop := k ∈ partClusters s c.part ∧ (clusterAt s k).bound = none ∧ usedSlots s k = []
      let apt := mayRestore s x c = true ∧ restoreTurn s x = true ∧ ∀ f ∈ fs, f.2.passed = false
      let given := clusters.length = v.images.length ∧ clusters.Nodup ∧ (∀ k ∈ clusters, free k) ∧
        (rehoming wheres routes isles).length = fs.length ∧ placeAll (moves clusters) s (rehoming wheres routes isles) ≠ none
      let picked (cs : List Nat) (hs : List Rehome) : Prop := (given ∧ cs = clusters ∧ hs = rehoming wheres routes isles) ∨
        (¬given ∧ ∃ q, findRestore s x = some q ∧ cs = q.1 ∧ hs = rehoming (q.2.map (·.ws)) (q.2.map (·.routes)) (q.2.map (·.isles)))
      (¬apt → restore = .next s) ∧
      (apt → (∀ cs hs, picked cs hs → placeAll (moves cs) s hs = none) → restore = .next { s with
        forms := tblMap (fun _ f => if f.ctx = x ∧ f.phase = .saved then { f with passed := true } else f) s.forms }) ∧
      (∀ cs hs s1 s2 r, apt → picked cs hs → placeAll (moves cs) s hs = some s1 → checkSave s x c = (s2, .error r) →
        restore = .next (markLost (writeRecord s2 x { plainRecord 0x2A r 6 with addr := c.save }) x)) ∧
      (∀ cs hs s1 s2 bs, apt → picked cs hs → placeAll (moves cs) s hs = some s1 → checkSave s x c = (s2, .ok bs) →
        let moved (t : Nat) : Nat := 16 * moves cs (clusterOf t) + slotOf t
        let islands := hs.foldl (putFormIsles bs) (putImages x (checkSave s1 x c).1 bs (4096 + 4096 * v.threads.length) (v.images.zip cs))
        let formed := hs.foldl (fun s h => modForm s h.form (fun fm => underHolds s { fm with nodes := resumeNodes s fm })) islands
        let named := renameThreads (v.threads.foldl (restoreThread (moves cs)) formed) x (v.threads.map (fun t => (parkedTid x t.1, moved t.1)))
        let homed (f : Form) : Form := if f.ctx = x ∧ f.phase = .ready ∧ f.arm.isSome then { f with home := f.arm.map clusterOf } else f
        let going := modCtx (moveTasks { named with
            saves := tblDel x named.saves, forms := tblMap (fun _ f => homed f) named.forms } x .suspended .running) x
          (fun c => { c with phase := .running, runSince := named.now })
        restore = .next ((v.threads.map (fun t => moved t.1)).foldl (fun s t => finishThread (deliverWound s t) t) going))) ∧
    (∀ fm, formAt s x = some fm →
      let sweep := exec (.detectorSweep false x) s
      let w := fm.sweep
      let pending := fm.arcs.any (fun a => a.holds.any (holdPending s fm.ctx))
      let due := if w.half then 1000 ≤ s.now - w.last else pending = true ∨ w.pair = 0 ∨ 100000 ≤ s.now - w.pair
      let still := fm.arcs.all (arcStill fm) && fm.nodes.all (nodeStill fm)
      let quiet := still && w.quiet && decide (w.moves = fm.moves)
      let fires := (fm.nodes.map (·.fires)).sum
      let held := fm.arcs.any (fun a => !a.holds.isEmpty)
      let swept (w : Sweep) : State := modForm s x (fun fm => { fm with sweep := w })
      let second : Sweep := { w with last := s.now, half := false, moves := fm.moves, quiet := quiet, found := if quiet then some fm.moves else none }
      let reason : Nat := if fm.nodes.any (fun nd => nd.accs.any (fun a => isWordWait a.stage)) then 1
        else if (List.range fm.nodes.length).any (fun n => (fm.nodes[n]?).any (wantsBinding s fm n)) then 2 else 3
      (fm.phase ≠ .armed ∨ ¬due → sweep = .next (settleHalts s fm.ctx)) ∧
      (fm.phase = .armed → due → w.half = false →
        sweep = .next (settleHalts (swept { w with last := s.now, pair := s.now, half := true, moves := fm.moves, quiet := still }) fm.ctx)) ∧
      (fm.phase = .armed → due → w.half = true → quiet = false ∨ held = true ∨ w.told = some fires → sweep = .next (settleHalts (swept second) fm.ctx)) ∧
      (fm.phase = .armed → due → w.half = true → quiet = true → held = false → w.told ≠ some fires →
        sweep = .next (settleHalts (writeRecord (swept { second with told := some fires }) fm.ctx { plainRecord 0x25 reason 2 with
          launch := (formLaunch fm).1, task := (formLaunch fm).2, form := formId fm }) fm.ctx))) ∧
    exec (.detectorSweep true x) s = .next (settleHalts (sweepCtx s x) x) ∧
    (∀ c g, ctxOf s x = some c → c.ring = some g →
      let due := g.speriod ≠ 0 ∧ c.phase = .running ∧ c.sampledAt / 2 ^ g.speriod < s.now / 2 ^ g.speriod
      let noted := modCtx s x (fun c => { c with sampledAt := s.now })
      let fs := (s.forms.filter (fun f => decide (f.2.ctx = x ∧ f.2.phase = .armed))).map (·.1)
      let nodes := if g.enable.testBit 1 then fs.foldl (fun s f => sampleNode f s) noted else noted
      (¬due → exec (.samplePeriod x) s = .next s) ∧
      (due → exec (.samplePeriod x) s =
        .next (if g.enable.testBit 2 then ((threadsOf nodes x).map (·.1)).foldl sampleThread nodes else nodes))) ∧
    (∀ c p, ctxOf s x = some c → c.policy = some p →
      let over_ := p.notafter ≠ 0 ∧ p.notafter ≤ s.now ∧ ∃ a, tblGet c.part s.parts = some a ∧ a.flags.testBit 0 = true
      (over_ → exec (.policyNotafter x) s = .next (modCtx s x (fun c => { c with policy := none }))) ∧
      (¬over_ → exec (.policyNotafter x) s = .next s))

/-- R355 to R359, R423 to R425, R443 to R445, R417, R336, R337. What the messages of IEEE 1588 do, the correction of the counter and the status of a
grandmaster are taken from outside the spec (log 14, PRESUMED). The model's choices besides: the share of a fall (log 32, DEDUCED), when a share
takes effect (log 74, DEDUCED), and whose level changes are counted (log 75, DEDUCED). -/
def Obligations.PowerAndTime : Prop :=
  ∀ (s : State),
    (∀ temps,
      let k := s.now / 10000
      let p := s.power
      let e := k / 10
      let due (k now : Nat) (l : List (Nat × Nat)) : Nat := (l.filter (fun q => decide (q.1 ≤ k))).foldl (fun _ q => q.2) now
      let change (k : Nat) (now : Nat × Nat) : Nat × Nat := (p.changes.filter (fun q => decide (q.1 ≤ k))).foldl (fun _ q => q.2) now
      let now := change k (p.budget, p.groupNow)
      let next := change (k + 1) now
      let rshare := due e p.rshare p.shares
      let step := if temps.any (fun t => decide (100 ≤ t)) then min 5 (p.step + 1) else if temps.all (fun t => decide (t ≤ 95)) then p.step - 1 else p.step
      let pool (b : Nat × Nat) (rshare step : Nat) : Nat := ((if b.2 = 0 then b.1 else min b.1 (rshare - 850)) - 96) * 1000 * (10 - step) / 10
      let share := sharesFor s (min (pool now rshare p.step) (pool next (due ((k + 1) / 10) rshare p.shares) step))
      let set := { s with
        clusters := tblMap (fun c k => { k with share := share c }) s.clusters
        power := { p with
          budget := now.1, groupNow := now.2, changes := p.changes.filter (fun q => decide (k < q.1)), rshare := rshare
          epoch := (p.shares.filter (fun q => decide (q.1 ≤ e))).foldl (fun m q => max m q.1) p.epoch
          shares := p.shares.filter (fun q => decide (e < q.1)), step := step, lastPeriod := k } }
      (k ≤ p.lastPeriod → exec (.arbiterPeriod temps) s = .next s) ∧
      (p.lastPeriod < k → exec (.arbiterPeriod temps) s = .next (if step = p.step then set else noticeAll set))) ∧
    (∀ q r, s.clusters.map (·.1) = q → (q.map (fun c => heldBy s c)).sum ≤ r → ∀ c ∈ q,
      heldBy s c ≤ sharesFor s r c) ∧
    (let p := s.power
     let e := s.now / 100000
     let sends := p.group ≠ 0 ∧ s.now % 100000 < 20000 ∧ p.sentEpoch ≠ some e
     let demand := (demandPower s + 999) / 1000
     let held := (heldPower s + 999) / 1000
     let noted := { s with power := { p with sentEpoch := some e, reels := p.reels ++ [⟨p.dev, e, demand, p.limit⟩] } }
     (¬sends → exec .reelSend s = .next s) ∧
     (sends → exec .reelSend s = .next (floodReel noted (reelBytes p.group 16 p.dev e demand held p.rshare p.limit))) ∧
     (let shares := p.group ≠ 0 ∧ 80000 ≤ s.now % 100000 ∧ p.sharedEpoch ≠ some e
      let of_ (j : Nat) : Nat := ((p.reels.find? (fun r => decide (r.dev = j ∧ r.epoch = e))).map (·.demand)).getD 1150
      let sum := of_ p.dev + (p.members.map of_).sum
      let limit := (p.reels.filter (fun r => decide (r.epoch = e))).foldl (fun m r => min m r.limit) p.limit
      let mine := if s.timeStatus.state ≠ 2 ∨ sum = 0 then p.floor
        else min 2000 (p.floor + (limit - (p.members.length + 1) * p.floor) * of_ p.dev / sum)
      (¬shares → exec .reelShare s = .next s) ∧
      (shares → exec .reelShare s = .next { s with power := { p with
        sharedEpoch := some e, shares := p.shares ++ [(e + 2, mine)] } }))) ∧
    (∀ stack temp cur, s.levels[stack]? = some cur →
      let up := if 115 ≤ temp then 4 else if 105 ≤ temp then 3 else if 95 ≤ temp then 2 else if 85 ≤ temp then 1 else 0
      let next := nextLevel temp cur
      let told := (s.ctxs.filter (fun c => (tblGet c.2.part s.parts).any (fun p => p.bwshare != 0))).map (·.1)
      (cur ≤ up → next = up) ∧ (up < cur → next ≤ cur ∧ (next < cur → temp + 3 ≤ 75 + 10 * (next + 1)) ∧ (0 < next → 75 + 10 * next < temp + 3)) ∧
      let k := s.now / 10000
      let seen := { s with stackWin := tblSet stack k s.stackWin }
      let open_ := (tblGet stack s.stackWin).getD 0 < k
      (¬open_ → exec (.hbmThermalWindow stack temp) s = .next s) ∧
      (open_ → next = cur → exec (.hbmThermalWindow stack temp) s = .next seen) ∧
      (open_ → next ≠ cur → exec (.hbmThermalWindow stack temp) s = .next (told.foldl (fun s x => signalNotice (modCtx s x (fun c => { c with tchg := c.tchg + 1 })) x)
        { seen with levels := listMod stack (fun _ => next) s.levels }))) ∧
    (∀ d, exec (.currentLimit d) s = .next (if d < 16 then { s with limited := setAdd d s.limited } else s) ∧
      exec (.currentLimitClear d) s = .next { s with limited := setDel d s.limited } ∧
      exec (.junctionOvertemp d) s = .next (stopPackage s (fun s => (s, 7))) ∧ exec (.supplyUndervolt d) s = .next (stopPackage s (fun s => (s, 7))) ∧
      exec (.edgeResendTimeout d) s = .next (stopPackage s freeNat) ∧
      ∀ w, (stopPackage s w).fw.phase = .stopped) ∧
    (∀ port sdo domain m, s.fw.phase = .recovery ∨ 13 ≤ port ∨ sdo ≠ 0 ∨ domain ≠ 0 → exec (.ptpFrame port sdo domain m) s = .next s) ∧
    (∀ port, s.fw.phase ≠ .recovery → port < 13 →
      let q := ptpAt s port
      let took (m : PtpMsg) (s' : State) : Prop := exec (.ptpFrame port 0 0 m) s = .next s'
      let put (q : PtpPort) : State := { s with ptpPorts := tblSet port q s.ptpPorts }
      let sends (s : State) (ms : List PtpMsg) : State := { s with ptpOut := s.ptpOut ++ ms.map (fun m => (port, m)) }
      let towards := s.timeStatus.port = port
      let follow := s.timeStatus.state = 1 ∨ s.timeStatus.state = 2
      let leading := s.leads = true ∧ s.timeStatus.port = 15
      let heard := q.best
      let passive (b d : PtpSet) : Prop := d.gm = b.gm ∧ (d.steps ≤ b.steps ∨ (d.steps = b.steps + 1 ∧ d.sender < ownPort port))
      let asks (peer : Bool) : State := sends (put { q with asked := some (q.seq, s.now), reply := none, seq := (q.seq + 1) % 65536 })
        [if peer then .pdelayReq q.seq else .delayReq q.seq]
      let masters (d : PtpSet) : Prop := took (.delayReq 0) (sends s [.delayResp 0 s.now]) ∧
        ptpSend s port false = setPtp (sends s [.announce { d with sender := ownPort port }, .sync q.seq, .followUp q.seq s.now]) port
          { q with seq := (q.seq + 1) % 65536 }
      let silent : Prop := took (.delayReq 0) s ∧ ptpSend s port false = s ∧ ptpSend s port true = asks true
      (leading → (ownPrimary = true → ∀ d, heard = some d → ptpBetter (port, d) (13, ownSet) = false) → masters ownSet) ∧
      (∀ d, leading → ownPrimary = true → heard = some d → ptpBetter (port, d) (13, ownSet) = true → silent) ∧
      (∀ p b, ¬leading → follow → ¬towards → ptpBest s = some (p, b) →
        ((∀ d, heard = some d → ¬passive b d) → masters { b with steps := b.steps + 1 }) ∧ (∀ d, heard = some d → passive b d → silent)) ∧
      (¬leading → ¬follow → silent) ∧
      (∀ d, d.steps < 255 → d.gm ≠ ownSet.gm → d.sender / 65536 ≠ ownSet.gm → took (.announce d) (chooseParent (put { q with best := some d }))) ∧
      (∀ d, 255 ≤ d.steps ∨ d.gm = ownSet.gm ∨ d.sender / 65536 = ownSet.gm → took (.announce d) s) ∧
      (∀ n, took (.sync n) (put { q with sync := some (n, s.now) })) ∧
      (∀ n (origin : Nat), (∀ t, q.sync ≠ some (n, t)) → took (.followUp n origin) s) ∧
      (∀ n (origin t : Nat), q.sync = some (n, t) →
        let diff : Int := (t : Int) - (origin : Int)
        let offs := diff - q.delay
        let got := put { q with sync := none, diff := diff }
        let shown := { got with timeStatus := { s.timeStatus with offs := offs, state := if Config.ptpLocked offs then 2 else 1 } }
        let follows := towards ∧ (s.timeStatus.state = 1 ∨ s.timeStatus.state = 2)
        (follows → offs < -1000000 → took (.followUp n origin) { shown with now := s.now + (-offs).toNat, slew := 0 }) ∧
        (follows → -1000000 ≤ offs → took (.followUp n origin) { shown with slew := -offs }) ∧
        (¬follows → took (.followUp n origin) got)) ∧
      (∀ n, (follow → towards → took (.delayReq n) s) ∧ took (.pdelayReq n) (sends s [.pdelayResp n s.now, .pdelayFollowUp n s.now])) ∧
      (∀ n u, (∀ t, q.asked ≠ some (n, t)) → took (.delayResp n u) s ∧ took (.pdelayResp n u) s ∧ took (.pdelayFollowUp n u) s) ∧
      (∀ n u t, q.asked = some (n, t) →
        took (.delayResp n u) (put { q with asked := none, delay := (q.diff + ((u : Int) - t)) / 2 }) ∧
        took (.pdelayResp n u) (put { q with reply := some (u, s.now) }) ∧
        (q.reply = none → took (.pdelayFollowUp n u) s) ∧
        (∀ got back : Nat, q.reply = some (got, back) → took (.pdelayFollowUp n u) (put { q with
          asked := none, reply := none, delay := (((back : Int) - t) - ((u : Int) - got)) / 2 }))) ∧
      (∀ peer : Bool, follow → towards → ptpSend s port peer = asks peer)) ∧
    (let alone := { s with timeStatus := ⟨ownSet.gm, 0, 15, 0⟩, slew := 0 }
     let follows := s.timeStatus.state = 1 ∨ s.timeStatus.state = 2
     let choice := chooseParent s
     (ptpBest s = none → choice = if s.leads then alone else s) ∧
     (∀ p d, ptpBest s = some (p, d) →
       let own := s.leads = true ∧ (ownPrimary = true ∨ ptpBetter (13, ownSet) (p, d) = true)
       let same := s.timeStatus.port = p ∧ s.timeStatus.gm = d.gm ∧ follows
       (∃ q, (p, q) ∈ s.ptpPorts ∧ q.best = some d) ∧
       (own → choice = alone) ∧ (¬own → same → choice = s) ∧
       (¬own → ¬same → choice = { s with timeStatus := ⟨d.gm, s.timeStatus.offs, p, 1⟩ })) ∧
     (follows → exec .holdover s = .next (chooseParent { s with
       ptpPorts := tblSet s.timeStatus.port { ptpAt s s.timeStatus.port with best := none } s.ptpPorts
       timeStatus := if s.timeStatus.state = 2 then { s.timeStatus with state := 3 } else { s.timeStatus with port := 15, state := 0 } })) ∧
     (¬follows → exec .holdover s = .next s))

/-- R373, R374, R410, R359, R112. The model's choices: one message to a frame, and what stands in `sent` (log 15, DESIGN CHOICE), the order of an
atomic's operands (log 50, DEDUCED), what becomes of a refused or lost request of a command (log 83, DEDUCED), how a cell on a peer page is added to
(log 88, DESIGN CHOICE), and the header of a launch (log 99, DESIGN CHOICE). -/
def Obligations.Peers : Prop :=
  ∀ (s : State),
    (∀ port frame ms, parseMsgs 128 (frame.drop 16) = some ms →
      let fld (o : Nat) : Nat := leNat ((frame.drop o).take 4)
      let p := (tblGet port s.ports).getD ⟨0, 0, []⟩
      let told := { p with unacked := p.unacked.filter (fun u => decide (2 ^ 31 ≤ (fld 4 + 2 ^ 32 - u.1) % 2 ^ 32)) }
      let got := exec (.peerFrame port frame) s
      (12 ≤ port ∨ ms = [] ∨ s.fw.phase = .recovery → got = .next s) ∧
      (port < 12 → ms ≠ [] → s.fw.phase ≠ .recovery → fld 0 ≠ p.expect → got = .next { s with ports := tblSet port told s.ports }) ∧
      (port < 12 → ms ≠ [] → s.fw.phase ≠ .recovery → fld 0 = p.expect →
        got = .next (ms.foldl deliverMsg { s with ports := tblSet port { told with expect := (p.expect + 1) % 2 ^ 32 } s.ports }))) ∧
    (∀ port frame, parseMsgs 128 (frame.drop 16) = none → exec (.peerFrame port frame) s = .next s) ∧
    (∀ m : PeerMsg, (m.dst ≠ s.power.dev → deliverMsg s m = sendMsg s m) ∧
      (m.dst = s.power.dev → m.type = 0 ∨ 9 ≤ m.type → deliverMsg s m = s) ∧
      (m.dst = s.power.dev → 1 ≤ m.type → m.type ≤ 8 → s.inbox = [] → deliverMsg s m = { s with inbox := tblSet 0 m [] }) ∧
      (∀ k n, m.dst = s.power.dev → 1 ≤ m.type → m.type ≤ 8 → s.inbox.getLast? = some (k, n) →
        deliverMsg s m = { s with inbox := tblSet (k + 1) m s.inbox })) ∧
    (∀ port p, tblGet port s.ports = some p →
      let due (u : Nat × Nat × List PeerMsg) : Bool := decide (u.2.1 + 10000 ≤ s.now)
      exec (.peerFrameResend port) s = .next { s with
        sent := s.sent ++ (p.unacked.filter due).map (fun u => (port, { num := u.1, ack := (p.expect + 2 ^ 32 - 1) % 2 ^ 32, msgs := u.2.2 }))
        ports := tblSet port { p with unacked := p.unacked.map (fun u => if due u then (u.1, s.now, u.2.2) else u) } s.ports }) ∧
    (∀ m : PeerMsg,
      let p := routeTo s m.dst
      let q := (tblGet p s.ports).getD ⟨0, 0, []⟩
      sendMsg s m = { s with
        sent := s.sent ++ [(p, { num := q.next, ack := (q.expect + 2 ^ 32 - 1) % 2 ^ 32, msgs := [m] })]
        ports := tblSet p { q with next := (q.next + 1) % 2 ^ 32, unacked := q.unacked ++ [(q.next, s.now, [m])] } s.ports }) ∧
    (∀ k m, tblGet k s.inbox = some m →
      let rest := { s with inbox := tblDel k s.inbox }
      let held := ∃ q ∈ s.inbox, q.1 < k ∧ q.2.src = m.src ∧ (q.2.type = 1 ∨ q.2.type = 3 ∨ q.2.type = 5) ∧ overlaps q.2.pa q.2.len m.pa m.len = true
      let reply (s : State) (type : Nat) (data : List Byte) (pm : List Bool) : State :=
        sendMsg s ⟨type, s.power.dev, m.src, m.part, m.tag, m.pa, m.len, m.aop, data, pm⟩
      let fits (w : PeerWin) (bit : Nat) : Prop := 0 < m.len ∧ m.len ≤ 8192 ∧ w.dev = m.src ∧ w.rpart = m.part ∧ w.base ≤ m.pa ∧
        m.pa + m.len ≤ w.base + w.size ∧ w.perm.testBit bit = true
      (∀ i type bit, (i, type, bit) ∈ [(Instr.peerRead k, 1, 0), (.peerWrite k, 3, 1), (.peerAtomic k, 5, 2)] →
        (m.type ≠ type ∨ held → exec i s = .next s) ∧
        (m.type = type → ¬held → (∀ w ∈ s.windows, ¬fits w.2 bit) → exec i s = .next (reply rest 8 [] [])) ∧
        (m.type = type → ¬held → admitted rest m m.len bit = none → exec i s = .next (reply rest 8 [] [])) ∧
        (∀ w, admitted rest m m.len bit = some w → fits w bit)) ∧
      (¬held → ∀ w bit, admitted rest m m.len bit = some w →
        let mask := windowMasks rest w
        (m.type = 1 → bit = 0 → let r := prRead rest mask m.pa m.len; exec (.peerRead k) s = .next (reply r.1 2 r.2.1 r.2.2)) ∧
        (m.type = 3 → bit = 1 → exec (.peerWrite k) s = .next (reply (prWrite rest mask m.pa m.data m.pm) 4 [] [])) ∧
        (m.type = 5 → bit = 2 →
          let sound := m.aop ≤ 11 ∧ (m.len = 1 ∨ m.len = 2 ∨ m.len = 4 ∨ m.len = 8) ∧ m.pa % m.len = 0
          let c := hbmCell mask m.pa
          let r := memReadMap rest c m.len
          let out := exec (.peerAtomic k) s
          (¬sound → out = .next (reply rest 8 [] [])) ∧
          (sound → anyPoison r.2.2 = true → out = .next (reply r.1 6 r.2.1 r.2.2)) ∧
          (∀ v, sound → anyPoison r.2.2 = false → amoNew m.aop m.len (leNat r.2.1) (leNat ((m.data.drop 0).take m.len)) (leNat ((m.data.drop m.len).take m.len)) = some v →
            out = .next (reply (putBytesMap r.1 c (leBytes v m.len) (m.pm.take m.len)) 6 r.2.1 r.2.2)))) ∧
      (∀ i type, (i, type) ∈ [(Instr.peerReadReply k, 2), (.peerWriteAck k, 4), (.peerAtomicReply k, 6), (.peerRefusal k, 8)] →
        (m.type ≠ type → exec i s = .next s) ∧ (m.type = type → tblGet m.tag s.requests = none → exec i s = .next rest) ∧
        (∀ r, m.type = type → tblGet m.tag s.requests = some r → r.dev = m.src → (type ≠ 8 → r.type + 1 = type) →
          exec i s = .next (settleRequest rest m.tag r (if type = 8 then .refused else if type = 4 then .data [] [] else .data m.data m.pm)))) ∧
      (m.type = 7 →
        let d := leNat ((m.data.drop 4).take 1)
        let e := leNat ((m.data.drop 8).take 8)
        let hops := leNat ((m.data.drop 2).take 1)
        let stale := reelOk s m.data = false ∨ ∃ r ∈ s.power.reels, r.dev = d ∧ r.epoch = e
        let noted := { rest with power := { s.power with
          reels := s.power.reels ++ [⟨d, e, leNat ((m.data.drop 16).take 4), leNat ((m.data.drop 28).take 4)⟩] } }
        (stale → exec (.reelMessage k) s = .next rest) ∧ (¬stale → hops = 0 → exec (.reelMessage k) s = .next noted) ∧
        (¬stale → hops ≠ 0 → exec (.reelMessage k) s =
          .next (floodReel noted (m.data.take 2 ++ leBytes (hops - 1) 1 ++ m.data.drop 3))))) ∧
    (∀ k r, tblGet k s.requests = some r →
      (s.now < r.since + 1000000 → exec (.peerTimeout k) s = .next s) ∧
      (r.since + 1000000 ≤ s.now → exec (.peerTimeout k) s = .next (settleRequest s k r .lost)) ∧
      (∀ t gd th y, r.who = .thread t gd → tblGet t s.threads = some th → th.wait = .peer k →
        let rest := { s with requests := tblDel k s.requests }
        let freed := waiting rest t th .none
        let d := BitVec.ofNat 5 gd
        let poison (y : Reply) : Bool := match y with
          | .data _ pm => anyPoison pm
          | _ => false
        let reason : Nat := match y with
          | .data _ _ => 0
          | .refused => 5
          | .lost => 9
        (reason ≠ 0 → gd = 1 ∧ isGlaunch th = true → settleRequest s k r y =
          { rest with threads := tblSet t { th with wait := .none, peek := some (r.addr - 4, 0) } rest.threads }) ∧
        (reason ≠ 0 → ¬(gd = 1 ∧ isGlaunch th = true) → settleRequest s k r y = raiseTrap freed t ⟨4, memDetail .v (decide (r.type ≠ 1)) reason, r.addr⟩) ∧
        (r.type = 3 → reason = 0 → settleRequest s k r y = completed rest t th) ∧
        (∀ bs pm a b f, r.type = 1 → y = .data bs pm → decodeControl (BitVec.ofNat 32 th.word) = .ok (.redLadd a b f) →
          let at_ := (BitVec.ofNat 64 r.addr).toNat
          let sum := laAdd (BitVec.ofNat 320 (leNat (bs.take 40))) ⟨floatVal (scalarFmt f) (regBits th b (scalarFmt f)), false⟩
          let q := if r.stale then sendRequest freed (.thread t 0) th.ctx 1 r.dev r.pa 64 false at_ [] false 0
            else sendRequest freed (.thread t 0) th.ctx 3 r.dev r.pa 64 false at_ (laBytes sum) (anyPoison pm) 0
          settleRequest s k r y = waitAt q.1 t (.peer q.2)) ∧
        (∀ bs pm, r.type = 5 → y = .data bs pm → poison y = false →
          settleRequest s k r y = resulted rest t th d (amoResult r.len r.sx (leNat bs))) ∧
        (∀ bs pm g a b z x o, r.type = 1 → y = .data bs pm → poison y = false → decodeControl (BitVec.ofNat 32 th.word) = .ok (.ldV g a b z x o) →
          settleRequest s k r y = resulted rest t th d (loadValue r.len r.sx bs))))

/-- R362 to R366, R371, R452. The model's choices: what stands in `outbox` (log 15, DESIGN CHOICE), statuses that no rule names (log 62, log 63 and
log 64, DEDUCED), the refusal of reserved bytes (log 105, DESIGN CHOICE), and when a launch's header is read (log 99, DESIGN CHOICE). -/
def Obligations.HostQueues : Prop :=
  (∀ (s : State) (eth : List Byte),
    let frame := eth.drop 14
    let taken := eth.length ≤ 9216 ∧ leNat (eth.take 6) = s.mac ∧ (eth.drop 12).take 2 = [0x88, 0xB5]
    let fld (o n : Nat) : Nat := leNat ((frame.drop o).take n)
    let q := 8 * fld 1 1 + fld 2 1
    let h := queueAt s q
    let got := exec (.hostFrame eth) s
    let odd := ¬taken ∨ frame.length < 24 ∨ 96 ≤ fld 1 1 ∨ 8 ≤ fld 2 1
    (odd → got = .next s) ∧ (¬odd → fld 4 4 = h.next → got = .next (takeFrag s q h frame)) ∧
    (¬odd → fld 4 4 ≠ h.next → 64 < (h.next + 2 ^ 32 - fld 4 4) % 2 ^ 32 → got = .next s) ∧
    (∀ r, ¬odd → fld 4 4 ≠ h.next → (h.next + 2 ^ 32 - fld 4 4) % 2 ^ 32 ≤ 64 → h.stored.find? (fun r => r.seq == fld 4 4) = some r →
      got = .next { s with outbox := s.outbox ++ (List.range (max 1 ((r.body.length + 8191) / 8192))).map (respFrame q r) }) ∧
    (frameOk frame = true → h.assembling = none → h.cmds = [] → fld 12 4 ≤ 8192 → listedOps.contains (fld 3 1) = true →
      takeFrag s q h frame = { s with queues := tblSet q { h with
        next := (h.next + 1) % 2 ^ 32, assembling := none, cmds := [⟨fld 3 1, h.next, fld 16 2, frame.drop 24, 0, 0⟩] } s.queues })) ∧
  (∀ (s : State) (q : Nat) (c : HostCmd) (status x : Nat) (body : List Byte),
    (queueAt s q).cmds = [c] →
      let r : Resp := ⟨(c.op + 0x80) % 256, c.seq, x, status, body⟩
      (∀ k, respFrame q r k = [1] ++ leBytes (q / 8) 1 ++ leBytes (q % 8) 1 ++ leBytes r.op 1 ++ leBytes r.seq 4 ++ leBytes k 2 ++
        leBytes (max 1 ((body.length + 8191) / 8192)) 2 ++ leBytes body.length 4 ++ leBytes x 2 ++ leBytes status 2 ++ [0, 0, 0, 0] ++
        (body.drop (8192 * k)).take 8192) ∧
      finishCmd s q c status x body = { s with
        outbox := s.outbox ++ (List.range (max 1 ((body.length + 8191) / 8192))).map (respFrame q r), queues := tblSet q { queueAt s q with cmds := [], stored := (r :: (queueAt s q).stored).take 64 } s.queues }) ∧
  (∀ (s : State) (q : Nat) (k : CmdKind) (c : HostCmd),
    let bound := tblGet (q / 8) s.binds
    let accepts := s.fw.phase = .running ∨ c.op = 0x01 ∨ c.op = 0x38 ∨ (s.fw.phase = .recovery ∧ c.op = 0x3C) ∨ (s.fw.phase = .stopped ∧ c.op = 0x3D)
    let own := ∃ x, ctxOf s c.ctx = some x ∧ (q / 8 = 0 ∨ bound = some x.part)
    let foreign := q / 8 ≠ 0 ∧ (bound = none ∨ k = .mgmt)
    (foreign → refuseStatus s q k c = 2) ∧ (¬foreign → ¬accepts → refuseStatus s q k c = 5) ∧
    (¬foreign → accepts → (k = .free ∨ k = .mgmt ∨ own ∨ k = .opt ∧ c.ctx = 0xFFFF) → refuseStatus s q k c = 0) ∧
    (¬foreign → accepts → ¬own → k = .ofCtx ∨ ((k = .ofAny ∨ k = .opt) ∧ c.ctx ≠ 0xFFFF) → refuseStatus s q k c = 3) ∧
    (¬foreign → accepts → ¬own → k = .ofAny → c.ctx = 0xFFFF → refuseStatus s q k c = if q / 8 = 0 then 0 else 2)) ∧
  (∀ (s : State) (q : Nat),
    let rows : List (Instr × Nat × CmdKind) :=
      [(.hostNop q, 0x01, .opt), (.hostLaunch q, 0x02, .ofCtx), (.hostWaitev q, 0x03, .ofCtx), (.hostSigev q, 0x04, .ofCtx),
       (.hostMemrd q, 0x08, .ofAny), (.hostMemwr q, 0x09, .ofAny), (.hostXinv q, 0x0A, .ofCtx), (.hostSetmask q, 0x0B, .ofCtx),
       (.hostFlashrd q, 0x18, .ofAny), (.hostFlashwr q, 0x19, .ofAny)]
    (∀ i op k, (i, op, k) ∈ rows →
      ((¬∃ c, HeadCommand s q op c) → exec i s = .next s) ∧
      (∀ c, HeadCommand s q op c → refuseStatus s q k c ≠ 0 → Completes i s s q c (refuseStatus s q k c) [])) ∧
    (∀ op c, HeadCommand s q op c →
      let fld (o n : Nat) : Nat := leNat ((c.body.drop o).take n)
      let ready (k : CmdKind) : Prop := refuseStatus s q k c = 0
      let tells (i : Instr) (status : Nat) : Prop := Completes i s s q c status []
      (op = 0x01 → ready .opt → Completes (.hostNop q) s s q c 0 c.body) ∧
      (op = 0x02 → ready .ofCtx →
        let lost := ∃ x, ctxOf s c.ctx = some x ∧ x.phase = .lost
        let asked := ∃ r ∈ s.requests, r.2.who = .queue q
        let ready := c.body.length = 16 ∧ ¬lost
        (c.body.length ≠ 16 → tells (.hostLaunch q) 1) ∧ (c.body.length = 16 → lost → tells (.hostLaunch q) 5) ∧
        (ready → asked → GoesOn (.hostLaunch q) s s q c c.stage c.note) ∧
        (ready → ¬asked → c.stage ≠ 1 → ∀ s1 k, peekTasks s c.ctx (descGraph (leNat c.body)) (.queue q) = (s1, .asks k) →
          GoesOn (.hostLaunch q) s s1 q c 0 0) ∧
        (ready → ¬asked → ∀ s1 n,
          (c.stage = 1 ∧ s1 = s ∧ n = c.note) ∨ (c.stage ≠ 1 ∧ peekTasks s c.ctx (descGraph (leNat c.body)) (.queue q) = (s1, .tasks n)) →
          let r := submitLaunch s1 c.ctx (.queue q) (leNat c.body) 0 [] n
          (r.2 = true → Completes (.hostLaunch q) s r.1 q c 0 []) ∧ (r.2 = false → GoesOn (.hostLaunch q) s r.1 q c c.stage c.note))) ∧
      (∀ x, ctxOf s c.ctx = some x → op = 0x03 → ready .ofCtx →
        let r := hbmRead s x.masks (x.events + 16 * fld 0 4) 8
        (c.body.length ≠ 12 → tells (.hostWaitev q) 1) ∧ (c.body.length = 12 → x.nevent ≤ fld 0 4 → tells (.hostWaitev q) 4) ∧
        (c.body.length = 12 → fld 0 4 < x.nevent → fld 4 8 ≤ leNat r.2.bytes → Completes (.hostWaitev q) s r.1 q c 0 []) ∧
        (c.body.length = 12 → fld 0 4 < x.nevent → leNat r.2.bytes < fld 4 8 → GoesOn (.hostWaitev q) s r.1 q c 0 0)) ∧
      (∀ x, ctxOf s c.ctx = some x → op = 0x04 → ready .ofCtx →
        (c.body.length ≠ 4 → tells (.hostSigev q) 1) ∧ (c.body.length = 4 → x.nevent ≤ fld 0 4 → tells (.hostSigev q) 4) ∧
        (c.body.length = 4 → fld 0 4 < x.nevent → Completes (.hostSigev q) s (signalEvent s c.ctx (fld 0 4) 0) q c 0 [])) ∧
      (op = 0x08 → ready .ofAny →
        let r := prRead s (hostMasks s c) (fld 0 8) (fld 8 4)
        (c.body.length ≠ 12 → tells (.hostMemrd q) 1) ∧
        (c.body.length = 12 → 8192 < fld 8 4 ∨ hostReaches s c (fld 0 8) (fld 8 4) = false → tells (.hostMemrd q) 4) ∧
        (c.body.length = 12 → fld 8 4 ≤ 8192 → hostReaches s c (fld 0 8) (fld 8 4) = true →
          Completes (.hostMemrd q) s r.1 q c 0 (r.2.1 ++ poisonMap (fld 0 8) (fld 8 4) r.2.2))) ∧
      (op = 0x09 → ready .ofAny →
        let bs := c.body.drop 8
        (c.body.length < 8 → tells (.hostMemwr q) 1) ∧
        (8 ≤ c.body.length → hostReaches s c (fld 0 8) bs.length = false → tells (.hostMemwr q) 4) ∧
        (8 ≤ c.body.length → hostReaches s c (fld 0 8) bs.length = true →
          Completes (.hostMemwr q) s (prWrite s (hostMasks s c) (fld 0 8) bs []) q c 0 [])) ∧
      (op = 0x0A → ready .ofCtx →
        let v := BitVec.ofNat 64 (fld 0 8)
        (c.stage = 1 → tblGet c.note s.invals = none → tells (.hostXinv q) 0) ∧
        (c.stage = 1 → tblGet c.note s.invals ≠ none → GoesOn (.hostXinv q) s s q c 1 c.note) ∧
        (c.stage ≠ 1 → c.body.length ≠ 8 → tells (.hostXinv q) 1) ∧ (c.stage ≠ 1 → c.body.length = 8 → xinvCover v = none → tells (.hostXinv q) 4) ∧
        (∀ w, c.stage ≠ 1 → c.body.length = 8 → xinvCover v = some w →
          let r := beginInval s c.ctx w true
          GoesOn (.hostXinv q) s r.1 q c 1 r.2)) ∧
      (op = 0x0B → ready .ofCtx →
        (c.body.length ≠ 56 → tells (.hostSetmask q) 1) ∧
        (c.body.length = 56 → Completes (.hostSetmask q) s
          (modCtx s c.ctx (fun x => { x with masks := masksOf ((List.range 7).map (fun k => fld (8 * k) 8)) })) q c 0 [])) ∧
      (op = 0x18 → ready .ofAny →
        let reach := hostPage s c (fld 0 4) && hostReaches s c (fld 4 8) 65536
        (c.body.length ≠ 12 → tells (.hostFlashrd q) 1) ∧ (c.body.length = 12 → reach = false → tells (.hostFlashrd q) 4) ∧
        (c.body.length = 12 → reach = true → setHas (fld 0 4) s.flashBad = true → tells (.hostFlashrd q) 8) ∧
        (c.body.length = 12 → reach = true → setHas (fld 0 4) s.flashBad = false →
          Completes (.hostFlashrd q) s (prWrite s (hostMasks s c) (fld 4 8) (cellsRead s.cells (flashCell (fld 0 4) 0) 65536) []) q c 0 [])) ∧
      (op = 0x19 → ready .ofAny →
        let reach := hostPage s c (fld 0 4) && hostReaches s c (fld 4 8) 65536
        let r := prRead s (hostMasks s c) (fld 4 8) 65536
        (c.body.length ≠ 12 → tells (.hostFlashwr q) 1) ∧ (c.body.length = 12 → reach = false → tells (.hostFlashwr q) 4) ∧
        (c.body.length = 12 → reach = true → anyPoison r.2.2 = true → Completes (.hostFlashwr q) s r.1 q c 8 []) ∧
        (c.body.length = 12 → reach = true → anyPoison r.2.2 = false → Completes (.hostFlashwr q) s
          { r.1 with cells := cellsWrite r.1.cells (flashCell (fld 0 4) 0) r.2.1, flashBad := setDel (fld 0 4) r.1.flashBad } q c 0 []))))

/-- R339, R346 to R350, R360, R368, R369, R425. The model's readings (DEDUCED): RESUME in any phase (log 66), halts across a SUSPEND and of later
threads and formations (log 67), what a deletion waits for (log 68), the arithmetic of QADD (log 70), the head of a second ring (log 73), and the
masks of a new context (log 107). -/
def Obligations.HostContexts : Prop :=
  (∀ (s : State) (q : Nat) (i : Instr) (op : Nat) (k : CmdKind),
    (i, op, k) ∈ ([(.hostCtxnew q, 0x10, .free), (.hostCtxdel q, 0x11, .ofCtx), (.hostSuspend q, 0x12, .ofCtx), (.hostResume q, 0x13, .ofCtx),
       (.hostQset q, 0x14, .ofCtx), (.hostQadd q, 0x15, .ofCtx), (.hostPolicy q, 0x16, .ofCtx), (.hostHalt q, 0x20, .ofCtx),
       (.hostRelease q, 0x21, .ofCtx), (.hostBreak q, 0x22, .ofCtx), (.hostDump q, 0x23, .ofCtx), (.hostHstat q, 0x24, .ofCtx),
       (.hostCtrrd q, 0x28, .ofCtx), (.hostTimestat q, 0x29, .ofAny), (.hostTraceset q, 0x2A, .ofCtx)] : List (Instr × Nat × CmdKind)) →
      ((¬∃ c, HeadCommand s q op c) → exec i s = .next s) ∧
      (∀ c, HeadCommand s q op c → refuseStatus s q k c ≠ 0 → Completes i s s q c (refuseStatus s q k c) [])) ∧
  (∀ (s : State) (q op : Nat) (c : HostCmd), HeadCommand s q op c →
    let b := c.body
    let fld (o n : Nat) : Nat := leNat ((b.drop o).take n)
    let zeros (o n : Nat) : Prop := ∀ v ∈ (b.drop o).take n, v = 0
    (op = 0x10 → refuseStatus s q .free c = 0 →
      let key := (List.range 32).map (fun k => Config.randomByte (s.free + k))
      let fresh := newCtx s.now b key
      Checked (.hostCtxnew q) s q c [
        (1, b.length ≠ 256), (2, q / 8 ≠ 0 ∧ tblGet (q / 8) s.binds ≠ some (fld 105 1)), (1, 2 ≤ fld 104 1 ∨ ¬zeros 106 6 ∨ ¬zeros 168 24),
        (4, 19 < fld 105 1 ∨ ¬∃ p, tblGet (fld 105 1) s.parts = some p ∧ descPlaced p fresh = true),
        (7, tblFree 0 256 s.ctxs = none ∨ residentFits s fresh = false)]
        (∀ n, tblFree 0 256 s.ctxs = some n →
          exec (.hostCtxnew q) s = .next (finishCmd { s with free := s.free + 32, ctxs := tblSet n fresh s.ctxs } q c 0 n []))) ∧
    (op = 0x29 → refuseStatus s q .ofAny c = 0 → Checked (.hostTimestat q) s q c [(1, b ≠ [])]
      (Completes (.hostTimestat q) s s q c 0 (timeBytes s.timeStatus (classLevel s c.ctx 5) (policyGran s c.ctx).1))) ∧
    (∀ x, ctxOf s c.ctx = some x → refuseStatus s q .ofCtx c = 0 →
      let does (i : Instr) (l : List (Nat × Prop)) (s' : State) (body : List Byte) : Prop := Checked i s q c l (Completes i s s' q c 0 body)
      let held : List (Nat × Prop) := [(2, classLevel s c.ctx 3 = 0), (5, x.phase = .suspended ∨ x.phase = .lost)]
      (op = 0x11 → Checked (.hostCtxdel q) s q c
        [(1, b ≠ []), (5, (∃ l ∈ s.launches, l.2.ctx = c.ctx) ∧ x.phase ≠ .suspended ∧ x.phase ≠ .lost)]
        ((ctxGone s c.ctx = true → Completes (.hostCtxdel q) s (dropCtx s c.ctx) q c 0 []) ∧
         (ctxGone s c.ctx = false → GoesOn (.hostCtxdel q) s s q c 0 0))) ∧
      (op = 0x12 → Checked (.hostSuspend q) s q c [(1, b ≠ []), (5, x.phase = .lost)]
        (let freed := (haltKeys s c.ctx ++ breakKeys s c.ctx false).foldl (fun s k => releaseHold s c.ctx k) s
         let kept := modCtx freed c.ctx (fun x => { x with hostHold := true })
         let waits (s' : State) : Prop := GoesOn (.hostSuspend q) s s' q c 1 (((ctxOf s' c.ctx).map (fun y => y.seals)).getD 0)
         let sealed_ := x.phase = .suspended ∨ c.note < x.seals
         (c.stage = 0 → (∀ y, ctxOf kept c.ctx = some y → y.phase = .running → waits (beginPreempt kept c.ctx)) ∧
           (∀ y, ctxOf kept c.ctx = some y → y.phase = .suspended → Completes (.hostSuspend q) s kept q c 0 []) ∧
           (∀ y, ctxOf kept c.ctx = some y → y.phase ≠ .running → y.phase ≠ .suspended → waits kept)) ∧
         (c.stage ≠ 0 → sealed_ → Completes (.hostSuspend q) s s q c 0 []) ∧
         (c.stage ≠ 0 → ¬sealed_ → GoesOn (.hostSuspend q) s s q c 1 c.note))) ∧
      (op = 0x13 → does (.hostResume q) [(1, b ≠ []), (5, x.phase = .lost)] (modCtx s c.ctx (fun x => { x with hostHold := false })) []) ∧
      (let credit (x : Ctx) (v : Int) : Ctx := { x with quota := v }
       (op = 0x14 → does (.hostQset q) [(1, b.length ≠ 8)] (modCtx s c.ctx (fun x => credit x (BitVec.ofNat 64 (fld 0 8)).toInt)) []) ∧
       (op = 0x15 → does (.hostQadd q) [(1, b.length ≠ 8)]
         (modCtx s c.ctx (fun x => credit x (BitVec.ofInt 64 (x.quota + (BitVec.ofNat 64 (fld 0 8)).toInt)).toInt)) [])) ∧
      (op = 0x16 →
        let p := policyOf b
        let took := writeTrace (modCtx s c.ctx (fun x => { x with policy := some p, lastSerial := p.serial })) c.ctx
          ⟨6, 0, 0xFFFFFFFF, 0xFFFFFFFF, 0, noIdx, 0, 0, 0, p.serial⟩
        does (.hostPolicy q) [(1, policyShape b = false), (6, policySigned x b = false), (5, policyTimely x s.now b = false)]
          (if classLevel took c.ctx 3 < classLevel s c.ctx 3 then releaseHolds took c.ctx (haltKeys took c.ctx ++ breakKeys took c.ctx true) else took) []) ∧
      (op = 0x28 → does (.hostCtrrd q) [(1, b ≠ [])] s (counterBytes x (classLevel s c.ctx 0) (policyGran s c.ctx).2.1 s.levels)) ∧
      (op = 0x2A →
        let r := hbmRead s x.masks (x.trace + 24) 24
        let ring : Ring :=
          { base := fld 0 8, lgsize := fld 8 1, enable := fld 9 1, speriod := fld 10 1, thresh := fld 16 4
            head := match x.ring with
              | some g => g.head
              | none => leNat (r.2.bytes.take 8)
            lost := match x.ring with
              | some g => g.lost
              | none => leNat ((r.2.bytes.drop 16).take 8) }
        does (.hostTraceset q) [(1, b.length ≠ 24 ∨ ¬zeros 11 5 ∨ ¬zeros 20 4), (4, traceOk s c.ctx b = false)]
          (modCtx (hbmWrite r.1 x.masks x.trace b false) c.ctx (fun x => { x with ring := some ring })) []) ∧
      (op = 0x20 →
        let node := if fld 0 1 = 1 then fld 8 4 % 1024 else fld 8 4
        let h : Halt := ⟨fld 0 1, fld 1 1, fld 4 4, node, fld 12 1, 0⟩
        Checked (.hostHalt q) s q c
          ([(1, b.length ≠ 24 ∨ 2 < fld 0 1 ∨ 1 < fld 1 1 ∨ (fld 0 1 = 0 ∧ fld 1 1 ≠ 0) ∨ ¬zeros 2 2 ∨ ¬zeros 13 11)] ++ held ++
            [(4, haltNamed s c.ctx h = false), (7, freeSlot s c.ctx = none)])
          (∀ k, freeSlot s c.ctx = some k → Completes (.hostHalt q) s (placeHalt s c.ctx k h) q c 0 [BitVec.ofNat 8 k])) ∧
      (op = 0x21 → Checked (.hostRelease q) s q c
        ([(1, b.length ≠ 4 ∨ 2 < fld 0 1 ∨ ¬zeros 2 2)] ++ held ++ [(4, namedHolds s c.ctx (fld 0 1) (fld 1 1) = none)])
        (∀ ks, namedHolds s c.ctx (fld 0 1) (fld 1 1) = some ks → Completes (.hostRelease q) s (releaseHolds s c.ctx ks) q c 0 [])) ∧
      (op = 0x22 →
        let p : Breakpoint := ⟨fld 0 4, fld 4 4, fld 8 1, fld 9 1, fld 12 4, fld 16 4, fld 20 4, false, 0⟩
        let k := fld 10 1
        let old := releaseHolds s c.ctx (if (tblGet (c.ctx * 8 + k) s.breaks).isSome then [16 + k] else [])
        does (.hostBreak q) ([(1, b.length ≠ 32 ∨ 32 ≤ fld 9 1 ∨ ¬zeros 11 1 ∨ ¬zeros 24 8)] ++ held ++
            [(4, 7 < k ∨ ¬∃ f a, namedForm s c.ctx p.form = some f ∧ namedArc f.2 p.node p.port = some a)])
          { old with breaks := tblSet (c.ctx * 8 + k) p old.breaks } []) ∧
      (op = 0x23 →
        let node := if fld 0 1 = 1 then fld 8 4 % 1024 else fld 8 4
        let d := dumpOf s c.ctx (fld 0 1) (fld 4 4) node (fld 12 1)
        Checked (.hostDump q) s q c ([(1, b.length ≠ 16 ∨ 2 < fld 0 1 ∨ ¬zeros 1 3 ∨ ¬zeros 13 3)] ++ held ++
            [(2, classLevel s c.ctx 3 ≠ 2), (4, d = none), (5, ∃ bytes, d = some (false, bytes))])
          (∀ bytes, d = some (true, bytes) → Completes (.hostDump q) s s q c 0 bytes)) ∧
      (op = 0x24 → does (.hostHstat q) ([(1, b.length ≠ 4 ∨ 1 < fld 0 1 ∨ ¬zeros 2 2)] ++ held ++
          [(4, (fld 0 1 = 0 ∧ 16 ≤ fld 1 1) ∨ (fld 0 1 ≠ 0 ∧ 8 ≤ fld 1 1))])
        s (if fld 0 1 = 0 then haltStatus s c.ctx (fld 1 1) else breakStatus s c.ctx (fld 1 1)))))

/-- R365, R370, R374, R376 to R379, R424. The model's choices: the contents of HBM after bring-up stand in the operand (log 11, DESIGN CHOICE), no
response to RESET (log 65, DEDUCED), the matrix after a second PARTSET (log 71, DEDUCED), a function bound to no partition (log 72, DEDUCED), a
setting's changes to come (log 104, DEDUCED), and the refusal of reserved bytes (log 105, DESIGN CHOICE). -/
def Obligations.HostManagement : Prop :=
  (∀ (s : State) (q : Nat) (i : Instr) (op : Nat) (k : CmdKind) (hbm : List (Nat × BitVec 8)),
    (i, op, k) ∈ ([(.hostPartset q, 0x30, .mgmt), (.hostLockmat q, 0x31, .mgmt), (.hostPeerwin q, 0x32, .mgmt), (.hostFnbind q, 0x33, .mgmt),
       (.hostPower q, 0x34, .mgmt), (.hostAttest q, 0x38, .opt), (.hostFwload q hbm, 0x3C, .mgmt)] : List (Instr × Nat × CmdKind)) →
      ((¬∃ c, HeadCommand s q op c) → exec i s = .next s) ∧
      (∀ c, HeadCommand s q op c → refuseStatus s q k c ≠ 0 → Completes i s s q c (refuseStatus s q k c) [])) ∧
  (∀ (s : State) (q op : Nat) (c : HostCmd), HeadCommand s q op c →
    let b := c.body
    let fld (o n : Nat) : Nat := leNat ((b.drop o).take n)
    let zeros (o n : Nat) : Prop := ∀ v ∈ (b.drop o).take n, v = 0
    let does (i : Instr) (l : List (Nat × Prop)) (s' : State) (body : List Byte) : Prop := Checked i s q c l (Completes i s s' q c 0 body)
    (op = 0x38 → refuseStatus s q .opt c = 0 →
      let r := reportBytes s c.ctx b
      does (.hostAttest q) [(1, b.length ≠ 32)] s (r ++ exactly 29792 (Config.deviceSignature r)) ∧
      (b.length = 32 → r.length = 192 ∧ (r ++ exactly 29792 (Config.deviceSignature r)).length = 29984)) ∧
    (refuseStatus s q .mgmt c = 0 →
      (op = 0x30 →
        let n := c.ctx % 32
        let kept := match tblGet n s.parts with
          | some p => p.lockMatrix
          | none => 0x000000100105030F
        let p := partOfBytes b kept
        let others := (s.parts.filter (fun p => p.1 != n)).map (·.2)
        let had := match tblGet n s.parts with
          | some p => p.clusters
          | none => 0
        does (.hostPartset q) [
          (1, b.length ≠ 128 ∨ 2 ≤ fld 83 1 ∨ ¬zeros 84 44),
          (4, 19 < n ∨ flashPages < fld 72 4 + fld 76 4 ∨ ∃ r ∈ p.rangesList, r.2 ≠ 0 ∧ 384 < r.1 + r.2),
          (5, (∃ x ∈ s.ctxs, x.2.part = n) ∨ (∃ o ∈ others, partsMeet p o = true) ∨ 256 < (others.map (·.bwshare)).sum + fld 82 1)]
          (((List.range 64).filter (fun k => p.clusters.testBit k && !had.testBit k)).foldl clearAssigned
            { s with parts := tblSet n p s.parts }) []) ∧
      (op = 0x31 → does (.hostLockmat q) [(1, b.length ≠ 8), (4, tblGet (c.ctx % 32) s.parts = none)]
        { s with parts := tblMod (c.ctx % 32) (fun p => { p with lockMatrix := BitVec.ofNat 64 (fld 0 8) }) s.parts } []) ∧
      (op = 0x32 → does (.hostPeerwin q)
        [(1, b.length ≠ 32 ∨ 8 ≤ fld 3 1 ∨ ¬zeros 4 4 ∨ ¬zeros 24 8), (4, fld 8 8 % 65536 ≠ 0 ∨ fld 16 8 % 65536 ≠ 0)]
        { s with windows := tblSet (c.ctx % 64) ⟨fld 0 1, fld 1 1, fld 2 1, fld 3 1, fld 8 8, fld 16 8⟩ s.windows } []) ∧
      (op = 0x33 → does (.hostFnbind q)
        [(1, b.length ≠ 2), (4, fld 0 1 = 0 ∨ 95 < fld 0 1 ∨ (fld 1 1 ≠ 255 ∧ tblGet (fld 1 1) s.parts = none))]
        { s with binds := if fld 1 1 = 255 then tblDel (fld 0 1) s.binds else tblSet (fld 0 1) (fld 1 1) s.binds } []) ∧
      (op = 0x34 → c.stage = 1 →
        (c.note ≤ s.power.lastPeriod → Completes (.hostPower q) s s q c 0 (powerBytes s)) ∧
        (s.power.lastPeriod < c.note → GoesOn (.hostPower q) s s q c 1 c.note)) ∧
      (op = 0x34 → c.stage ≠ 1 →
        let k := s.now / 10000
        let pool (b : Nat × Nat) : Nat := poolOf b.2 b.1 s.power.rshare s.power.step
        let last := ((s.power.changes.getLast?).map (fun v => v.2)).getD (s.power.budget, s.power.groupNow)
        let new := (fld 0 4, fld 12 2)
        let lower := pool new < pool last ∨ fld 0 4 < last.1
        let due := modPower s (fun p => { p with
          pbudget := fld 0 4, limit := fld 8 4, group := fld 12 2, floor := fld 14 2
          changes := if lower then p.changes ++ [(k + 2, new)]
            else [(if pool new < pool (p.budget, p.groupNow) then k + 2 else k + 1, new)] })
        Checked (.hostPower q) s q c [(1, b.length ≠ 32), (4, 1150 < fld 0 4)]
          ((fld 0 4 < s.power.pbudget → GoesOn (.hostPower q) s due q c 1 (k + 2)) ∧
           (s.power.pbudget ≤ fld 0 4 → Completes (.hostPower q) s due q c 0 (powerBytes due)))) ∧
      (∀ hbm, op = 0x3C → Checked (.hostFwload q hbm) s q c [(5, s.fw.phase ≠ .recovery), (6, imageOk s.fw.minSvn b = false)]
        (exec (.hostFwload q hbm) s = .next (bringUp (finishCmd { s with
          cells := cellsWrite s.cells firmwareCell b
          flashBad := setDelRange flashPages (flashPages + (b.length + 65535) / 65536) s.flashBad } q c 0 c.ctx []) hbm))))) ∧
  (∀ (s : State) (q : Nat) (c : HostCmd) (hbm : List (Nat × BitVec 8)), (queueAt s q).cmds = [c] → c.op = 0x3D → badCmd c = false →
    let refused := refuseStatus s q .mgmt c
    (refused ≠ 0 → Completes (.hostReset q hbm) s s q c refused []) ∧ (refused = 0 → c.body ≠ [] → Completes (.hostReset q hbm) s s q c 1 []) ∧
    (refused = 0 → c.body = [] → exec (.hostReset q hbm) s = .next (bringUp s hbm))) ∧
  (∀ (s : State) (time : Nat) (hbm : List (Nat × BitVec 8)),
    (let up := imageSound s (storedImage s).length = true ∧ imageOk s.fw.minSvn (storedImage s) = true
     let now := if up then time else 0
     exec (.powerOn time hbm) s = .next (bringUp { s with now := now, tenths := 10 * now, slew := 0 } hbm)) ∧
    (let t := bringUp s hbm
     t.now = s.now ∧ t.parts = [] ∧ t.ctxs = [] ∧ t.binds = [] ∧ t.queues = [] ∧ t.threads = [] ∧ t.clusters = [] ∧ t.launches = [] ∧
     t.fw.minSvn = s.fw.minSvn ∧ (t.fw.phase = .running ↔ imageSound s (storedImage s).length = true ∧ imageOk s.fw.minSvn (storedImage s) = true) ∧
     (t.fw.phase = .running ∨ t.fw.phase = .recovery) ∧ cellsFrom flashBase t.cells = cellsFrom flashBase s.cells))

/-- R365, R370, R378; unwritten HBM is log 3, the power settings log 10. -/
def Obligations.ResetState : Prop :=
  let s := State.reset
  (∀ p, tblGet p s.parts = none) ∧ (∀ f, tblGet f s.binds = none) ∧ (∀ x, ctxOf s x = none) ∧ (∀ t, tblGet t s.threads = none) ∧
  (∀ f, formAt s f = none) ∧ (∀ l, tblGet l s.launches = none) ∧ (∀ c, (clusterAt s c).bound = none) ∧ s.halts = [] ∧ s.breaks = [] ∧
  (∀ q, (queueAt s q).next = 0 ∧ (queueAt s q).cmds = []) ∧ s.outbox = [] ∧ s.sent = [] ∧
  Memory.wf s.cells = true ∧ (∀ a, cellGet a s.cells = 0) ∧ (∀ a, setHas a s.full = false) ∧ (∀ a, setHas a s.errs = false) ∧
  s.now = 0 ∧ s.fw.phase = .running ∧ s.power.members = [] ∧ s.power.pbudget = 1150 ∧
  (∀ op c, c.op = op → refuseStatus s 0 .free c = 0)

/-- The form in which equal memories are equal data; a whole-machine invariant over every turn. -/
def Obligations.StepKeepsMemoryCanonical : Prop :=
  ∀ s s' : State, Memory.wf s.cells = true → step s = .next s' → Memory.wf s'.cells = true

/-- R196, R316, R385, R166, R168; turns and the policy are the model's (log 1, DESIGN CHOICE), and so is what a thread at a full queue does with a slot
(log 108). -/
def Obligations.StepRunsDecodedInstruction : Prop :=
  (∀ (s : State) (e c : Nat) (rest : List Turn), s.agenda = ⟨e, .issue c⟩ :: rest →
    let s0 := passTime { s with agenda := rest } e
    let turn (i : Nat) : Nat := 16 * c + ((clusterAt s0 c).lastSlot + 1 + i) % 16
    let ready (t : Nat) : Prop := ∃ th, tblGet t s0.threads = some th ∧ runnable s0 t th = true
    ((∀ i < 16, ¬ready (turn i)) → step s = settleOut (.next s0)) ∧
    (∀ i th, i < 16 → (∀ j < i, ¬ready (turn j)) → tblGet (turn i) s0.threads = some th → runnable s0 (turn i) th = true →
      let t := turn i
      let s1 := modCluster s0 c (fun k => { k with lastSlot := t % 16 })
      let hand : Option Nat := match th.wait with
        | .full _ => some th.word
        | _ => th.ifetch
      (th.asyncs ≠ [] → inTrap th = false → step s = settleOut (.next (enterAsync s1 t))) ∧
      (th.asyncs = [] ∨ inTrap th = true → ∀ n s3,
        (hand = some n ∧ s3 = modThread s1 t (fun th => { th with ifetch := none, word := n })) ∨
          (hand = none ∧ ∃ s2, fetchWord s1 th = (s2, .word n) ∧ s3 = modThread s2 t (fun th => { th with word := n })) →
        (∀ i, decodeControl (BitVec.ofNat 32 n) = .ok i →
          let out := exec i { s3 with cur := .thread t }
          (∀ r, out = .next r → atFull r t = true →
            step s = settleOut (issueFrom 15 c (modCluster r c (fun k => { k with lastSlot := (clusterAt s0 c).lastSlot })))) ∧
          ((∀ r, out = .next r → atFull r t = false) → step s = settleOut out)) ∧
        (∀ r, decodeControl (BitVec.ofNat 32 n) = .error r → step s = settleOut (.next (raiseTrap s3 t ⟨1, r, 0⟩)))) ∧
      (∀ s2 g, translateWord s1 th.ctx th.pc needExec = (s2, .ok g) → g.peer = false → (memRead s2 (hbmCell th.masks g.pa) 4).2.reason = 0 →
        fetchWord s1 th = ((memRead s2 (hbmCell th.masks g.pa) 4).1, .word (leNat (memRead s2 (hbmCell th.masks g.pa) 4).2.bytes))))) ∧
  (∀ (s : State) (e t : Nat) (rest : List Turn), s.agenda = ⟨e, .retry t⟩ :: rest →
    let s0 := passTime { s with agenda := rest } e
    ((¬∃ th, tblGet t s0.threads = some th ∧ stalled s0 th = true) → step s = settleOut (.next s0)) ∧
    (∀ th i, tblGet t s0.threads = some th → stalled s0 th = true → th.asyncs = [] ∨ inTrap th = true →
      decodeControl (BitVec.ofNat 32 th.word) = .ok i → step s = settleOut (exec i { s0 with cur := .thread t }))) ∧
  (∀ (s : State) (e f n : Nat) (rest : List Turn) (fm : Form) (nd : Node), s.agenda = ⟨e, .fire f n⟩ :: rest →
    let s0 := passTime { s with agenda := rest } e
    formAt s0 f = some fm → fm.nodes[n]? = some nd →
    (∀ i, nd.cls ≤ 1 → decodeElement (curWord nd) = some i → step s = settleOut (exec i { s0 with cur := .node f n })) ∧
    (∀ i, nd.cls = 2 → decodeSwitch ((curWord nd).truncate 16) = some i → step s = settleOut (exec i { s0 with cur := .node f n })) ∧
    (nd.cls ≤ 1 → decodeElement (curWord nd) = none → step s = settleOut (.next s0))) ∧
  (∀ (s : State) (e : Nat) (i : Instr) (rest : List Turn), s.agenda = ⟨e, .event i⟩ :: rest →
    step s = settleOut (exec i (passTime { s with agenda := rest } e))) ∧
  (∀ s s' : State, step s = .next s' → s'.cur = .none ∧ s'.struck = []) ∧
  (∀ r : State, r.struck = [] → settleOut (.next r) = .next { r with cur := .none }) ∧
  (∀ (r : State) (x : Nat), r.struck = [x] → settleOut (.next r) = .next { (if (ctxOf r x).any (fun c => decide (c.phase ≠ .lost)) then
    hitContext r x 5 else r) with struck := [], cur := .none }) ∧
  (∀ r : Fault, settleOut (.fault r) = .fault r) ∧ ∀ r : Refusal, settleOut (.refused r) = .refused r

/-- R160 to R164, R385: each word has one meaning. -/
def Obligations.ControlWordsRoundTrip : Prop :=
  (∀ (i : Instr) (w : BitVec 32), encodeControl i = some w ↔ decodeControl w = .ok i) ∧
  (∀ (i : Instr) (w : BitVec 32), encodeControl i = some w → decodeTableWord 32 w.toNat = some i) ∧
  (∀ i : Instr, (encodeControl i = none ∨ encodeElement i = none) ∧ (encodeControl i = none ∨ encodeSwitch i = none) ∧
    (encodeElement i = none ∨ encodeSwitch i = none))

/-- R165 to R168: each word has one meaning. -/
def Obligations.NodeWordsRoundTrip : Prop :=
  (∀ (i : Instr) (w : BitVec 32), encodeElement i = some w ↔ decodeElement w = some i) ∧
  (∀ (i : Instr) (w : BitVec 16), encodeSwitch i = some w ↔ decodeSwitch w = some i) ∧
  (∀ (i : Instr) (w : BitVec 16), encodeSwitch i = some w → decodeTableWord 16 w.toNat = some i)

/-- R160 to R168. -/
def Obligations.SampleWords : Prop :=
  decodeControl 0x94A21D03 = .ok (.ldA 5 2 3 2 1 3) ∧ decodeControl 0x4480FFFD = .ok (.bNe 4 0 0xFFFD) ∧
  decodeControl 0xA4E00202 = .ok (.spst 7 0x202) ∧ decodeControl 0xFC000012 = .ok .exit ∧
  decodeControl 0x0D290002 = .ok (.popc 9 9) ∧ decodeControl 0xFC303002 = .ok (.cwr 0x30 6) ∧
  decodeElement 0x01048008 = some (.elemAdd 0 1 2 0 0 8) ∧ decodeElement 0x8003F051 = some (.memLd 0 63 1 2 1) ∧
  decodeSwitch 0x4652 = some (.opSteer 1 4 5 0 2) ∧ decodeSwitch 0x7835 = some (.opMerge 6 0 3 0 5) ∧ decodeControl 0 = .error 1
end

