-- ==== Sys2Proof/Laws/Cells.lean ====
section
/-! SUPPORT. The byte store: its canonical form, what a write leaves in every cell, and what a read gives. -/

namespace Sys2Proof.Machine

theorem cellsWfFrom_mono {lo m : Nat} {c : Cells} (h : cellsWfFrom m c = true) (hm : lo ≤ m) : cellsWfFrom lo c = true := by
  cases c with
  | nil => rfl
  | cons p t =>
    simp only [cellsWfFrom, Bool.and_eq_true, decide_eq_true_eq] at h ⊢
    exact ⟨⟨le_trans hm h.1.1, h.1.2⟩, h.2⟩

/-- No cell below the bound is listed. -/
theorem cellGet_below {lo a : Nat} {c : Cells} (h : cellsWfFrom lo c = true) (ha : a < lo) : cellGet a c = 0 := by
  cases c with
  | nil => rfl
  | cons p t =>
    simp only [cellsWfFrom, Bool.and_eq_true, decide_eq_true_eq] at h
    have : ¬ p.1 = a := by omega
    have : a < p.1 := by omega
    simp [cellGet, *]

theorem cellGet_cons {lo a : Nat} {p : Nat × Byte} {t : Cells} (h : cellsWfFrom lo (p :: t) = true) :
    cellGet a (p :: t) = if p.1 = a then p.2 else cellGet a t := by
  simp only [cellsWfFrom, Bool.and_eq_true, decide_eq_true_eq] at h
  simp only [cellGet]
  split
  · rfl
  · split
    · exact (cellGet_below h.2 (by omega)).symm
    · rfl

theorem skipCell_wf {a : Nat} {c : Cells} (h : cellsWfFrom a c = true) : cellsWfFrom (a + 1) (skipCell a c) = true := by
  cases c with
  | nil => rfl
  | cons p t =>
    have h' := h
    simp only [cellsWfFrom, Bool.and_eq_true, decide_eq_true_eq] at h
    simp only [skipCell]
    split
    · next e => exact e ▸ h.2
    · simp only [cellsWfFrom, Bool.and_eq_true, decide_eq_true_eq]
      exact ⟨⟨by omega, h.1.2⟩, h.2⟩

theorem skipCell_get {a j : Nat} {c : Cells} (h : cellsWfFrom a c = true) (hj : j ≠ a) : cellGet j (skipCell a c) = cellGet j c := by
  cases c with
  | nil => rfl
  | cons p t =>
    rw [cellGet_cons h]
    simp only [skipCell]
    split
    · next e => rw [if_neg (by omega)]
    · rw [cellGet_cons h]

theorem consCell_wf {a : Nat} {v : Byte} {c : Cells} (h : cellsWfFrom (a + 1) c = true) : cellsWfFrom a (consCell a v c) = true := by
  unfold consCell
  split
  · exact cellsWfFrom_mono h (by omega)
  · next hv =>
    simp only [cellsWfFrom, Bool.and_eq_true, decide_eq_true_eq]
    exact ⟨⟨le_refl _, hv⟩, h⟩

theorem consCell_get {a j : Nat} {v : Byte} {c : Cells} (h : cellsWfFrom (a + 1) c = true) :
    cellGet j (consCell a v c) = if j = a then v else cellGet j c := by
  unfold consCell
  split
  · next e =>
    split
    · next hj => rw [cellGet_below h (by omega), e]
    · rfl
  · by_cases hj : j = a
    · simp [cellGet, hj]
    · rw [if_neg hj]
      simp only [cellGet]
      rw [if_neg (by omega)]
      split
      · exact (cellGet_below h (by omega)).symm
      · rfl

theorem cellsPut_wf {c : Cells} {a : Nat} (bs : List Byte) (h : cellsWfFrom a c = true) : cellsWfFrom a (cellsPut c a bs) = true := by
  induction bs generalizing a c with
  | nil => exact h
  | cons b t ih => exact consCell_wf (ih (skipCell_wf h))

theorem cellsPut_get {c : Cells} {a j : Nat} (bs : List Byte) (h : cellsWfFrom a c = true) :
    cellGet j (cellsPut c a bs) = if a ≤ j ∧ j < a + bs.length then bs.getD (j - a) 0 else cellGet j c := by
  induction bs generalizing a c with
  | nil =>
    simp only [cellsPut, List.length_nil]
    rw [if_neg (by omega)]
  | cons b t ih =>
    simp only [cellsPut, List.length_cons]
    rw [consCell_get (cellsPut_wf t (skipCell_wf h)), ih (skipCell_wf h)]
    by_cases hj : j = a
    · subst hj
      simp
    · rw [if_neg hj]
      by_cases hr : a + 1 ≤ j ∧ j < a + 1 + t.length
      · rw [if_pos hr, if_pos (by omega), show j - a = (j - (a + 1)) + 1 by omega]
        rfl
      · rw [if_neg hr, if_neg (by omega), skipCell_get h hj]

theorem cellsFrom_wf {lo : Nat} {c : Cells} (a : Nat) (h : cellsWfFrom lo c = true) : cellsWfFrom a (cellsFrom a c) = true := by
  induction c generalizing lo with
  | nil => rfl
  | cons p t ih =>
    have h' := h
    simp only [cellsWfFrom, Bool.and_eq_true, decide_eq_true_eq] at h
    unfold cellsFrom at ih ⊢
    by_cases hp : p.1 < a
    · simpa [List.dropWhile_cons, hp] using ih h.2
    · rw [List.dropWhile_cons_of_neg (by simpa using hp)]
      simp only [cellsWfFrom, Bool.and_eq_true, decide_eq_true_eq]
      exact ⟨⟨by omega, h.1.2⟩, h.2⟩

/-- Entries below a cell, followed by a store from that cell upward. -/
theorem cellsBelow_append_wf {lo : Nat} {c d : Cells} (a : Nat) (hl : lo ≤ a) (h : cellsWfFrom lo c = true) (hd : cellsWfFrom a d = true) :
    cellsWfFrom lo (cellsBelow a c ++ d) = true := by
  induction c generalizing lo with
  | nil => exact cellsWfFrom_mono hd hl
  | cons p t ih =>
    simp only [cellsWfFrom, Bool.and_eq_true, decide_eq_true_eq] at h
    unfold cellsBelow at ih ⊢
    by_cases hp : p.1 < a
    · rw [List.takeWhile_cons_of_pos (by simpa using hp)]
      simp only [List.cons_append, cellsWfFrom, Bool.and_eq_true, decide_eq_true_eq]
      exact ⟨h.1, ih (by omega) h.2⟩
    · rw [List.takeWhile_cons_of_neg (by simpa using hp)]
      exact cellsWfFrom_mono hd hl

theorem cellsBelow_append_get {lo : Nat} {c d : Cells} (a j : Nat) (h : cellsWfFrom lo c = true) (hd : cellsWfFrom a d = true) :
    cellGet j (cellsBelow a c ++ d) = if j < a then cellGet j c else cellGet j d := by
  induction c generalizing lo with
  | nil =>
    simp only [cellsBelow, List.takeWhile_nil, List.nil_append, cellGet]
    split
    · exact cellGet_below hd ‹_›
    · rfl
  | cons p t ih =>
    have h' := h
    simp only [cellsWfFrom, Bool.and_eq_true, decide_eq_true_eq] at h
    unfold cellsBelow at ih ⊢
    by_cases hp : p.1 < a
    · have hc := cellsBelow_append_wf a (by omega : p.1 + 1 ≤ a) h.2 hd
      have hall : cellsWfFrom lo (p :: (t.takeWhile (fun p => decide (p.1 < a)) ++ d)) = true := by
        simp only [cellsWfFrom, Bool.and_eq_true, decide_eq_true_eq]
        exact ⟨h.1, hc⟩
      rw [List.takeWhile_cons_of_pos (by simpa using hp), List.cons_append, cellGet_cons hall, cellGet_cons h', ih h.2]
      by_cases hj : p.1 = j
      · rw [if_pos hj, if_pos hj, if_pos (by omega)]
      · rw [if_neg hj, if_neg hj]
    · rw [List.takeWhile_cons_of_neg (by simpa using hp), List.nil_append]
      split
      · rw [cellGet_below hd ‹_›]
        exact (cellGet_below (lo := p.1) (by simp only [cellsWfFrom, Bool.and_eq_true, decide_eq_true_eq]; exact ⟨⟨le_refl _, h.1.2⟩, h.2⟩)
          (by omega)).symm
      · rfl

theorem cellsFrom_get {lo : Nat} {c : Cells} (a j : Nat) (h : cellsWfFrom lo c = true) (hj : a ≤ j) : cellGet j (cellsFrom a c) = cellGet j c := by
  induction c generalizing lo with
  | nil => rfl
  | cons p t ih =>
    have h' := h
    simp only [cellsWfFrom, Bool.and_eq_true, decide_eq_true_eq] at h
    unfold cellsFrom at ih ⊢
    by_cases hp : p.1 < a
    · rw [List.dropWhile_cons_of_pos (by simpa using hp), ih h.2, cellGet_cons h', if_neg (by omega)]
    · rw [List.dropWhile_cons_of_neg (by simpa using hp)]

/-- A write keeps the canonical form. -/
theorem cellsWrite_wf {c : Cells} (a : Nat) (bs : List Byte) (h : Memory.wf c = true) : Memory.wf (cellsWrite c a bs) = true :=
  cellsBelow_append_wf a (by omega) h (cellsPut_wf bs (cellsFrom_wf a h))

/-- After a write a cell reads as the byte written to it, and every other cell as before. -/
theorem cellsWrite_get {c : Cells} (a j : Nat) (bs : List Byte) (h : Memory.wf c = true) :
    cellGet j (cellsWrite c a bs) = if a ≤ j ∧ j < a + bs.length then bs.getD (j - a) 0 else cellGet j c := by
  rw [cellsWrite, cellsBelow_append_get a j h (cellsPut_wf bs (cellsFrom_wf a h))]
  split
  · rw [if_neg (by omega)]
  · rw [cellsPut_get bs (cellsFrom_wf a h), cellsFrom_get a j h (by omega)]

theorem cellsWrite_get_other {c : Cells} {a j : Nat} {bs : List Byte} (h : Memory.wf c = true) (hj : j < a ∨ a + bs.length ≤ j) :
    cellGet j (cellsWrite c a bs) = cellGet j c := by
  rw [cellsWrite_get a j bs h, if_neg (by omega)]

/-- Cells taken off the list. -/
theorem cellsClear_wfFrom {m : Nat} {c : Cells} (lo hi : Nat) (h : cellsWfFrom m c = true) : cellsWfFrom m (cellsClear lo hi c) = true := by
  induction c generalizing m with
  | nil => rfl
  | cons p t ih =>
    simp only [cellsWfFrom, Bool.and_eq_true, decide_eq_true_eq] at h
    unfold cellsClear at ih ⊢
    rw [List.filter_cons]
    split
    · simp only [cellsWfFrom, Bool.and_eq_true, decide_eq_true_eq]
      exact ⟨h.1, ih h.2⟩
    · exact cellsWfFrom_mono (ih h.2) (by omega)

theorem cellsClear_wf {c : Cells} (lo hi : Nat) (h : Memory.wf c = true) : Memory.wf (cellsClear lo hi c) = true := cellsClear_wfFrom lo hi h

theorem cellsClear_get {m : Nat} {c : Cells} (lo hi j : Nat) (h : cellsWfFrom m c = true) :
    cellGet j (cellsClear lo hi c) = if lo ≤ j ∧ j < hi then 0 else cellGet j c := by
  induction c generalizing m with
  | nil => simp [cellsClear, cellGet]
  | cons p t ih =>
    have h' := h
    simp only [cellsWfFrom, Bool.and_eq_true, decide_eq_true_eq] at h
    have e := ih h.2
    unfold cellsClear at e ⊢
    rw [List.filter_cons]
    split
    · next hp =>
      simp only [Bool.or_eq_true, decide_eq_true_eq] at hp
      have hall : cellsWfFrom m (p :: t.filter (fun p => decide (p.1 < lo) || decide (hi ≤ p.1))) = true := by
        simp only [cellsWfFrom, Bool.and_eq_true, decide_eq_true_eq]
        exact ⟨h.1, cellsClear_wfFrom lo hi h.2⟩
      rw [cellGet_cons hall, cellGet_cons h', e]
      by_cases hj : p.1 = j
      · rw [if_pos hj, if_neg (by omega), if_pos hj]
      · rw [if_neg hj, if_neg hj]
    · next hp =>
      simp only [Bool.or_eq_true, decide_eq_true_eq] at hp
      rw [e, cellGet_cons h']
      by_cases hj : p.1 = j
      · rw [if_pos (by omega), if_pos (by omega)]
      · rw [if_neg hj]

theorem cellsReadFrom_length (c : Cells) (a n : Nat) : (cellsReadFrom c a n).length = n := by
  induction n generalizing c a with
  | zero => rfl
  | succ n ih => simp [cellsReadFrom, ih]

theorem cellsRead_length (c : Cells) (a n : Nat) : (cellsRead c a n).length = n := cellsReadFrom_length _ _ _

theorem cellsReadFrom_get {c : Cells} {a n k : Nat} (h : cellsWfFrom a c = true) (hk : k < n) :
    (cellsReadFrom c a n).getD k 0 = cellGet (a + k) c := by
  induction n generalizing c a k with
  | zero => omega
  | succ n ih =>
    cases k with
    | zero => rfl
    | succ k =>
      rw [cellsReadFrom, List.getD_cons_succ, ih (skipCell_wf h) (by omega), skipCell_get h (by omega)]
      congr 1
      omega

/-- A read gives the cells' bytes, lowest first. -/
theorem cellsRead_get {c : Cells} {a n k : Nat} (h : Memory.wf c = true) (hk : k < n) : (cellsRead c a n).getD k 0 = cellGet (a + k) c := by
  rw [cellsRead, cellsReadFrom_get (cellsFrom_wf a h) hk, cellsFrom_get a (a + k) h (by omega)]

/-- A read of what was written there gives it back. -/
theorem cellsRead_cellsWrite {c : Cells} (a : Nat) (bs : List Byte) (h : Memory.wf c = true) :
    cellsRead (cellsWrite c a bs) a bs.length = bs := by
  apply List.ext_getElem
  · exact cellsRead_length _ _ _
  · intro k h1 h2
    have := cellsRead_get (c := cellsWrite c a bs) (a := a) (n := bs.length) (k := k) (cellsWrite_wf a bs h) h2
    rw [cellsWrite_get a (a + k) bs h, if_pos (by omega), Nat.add_sub_cancel_left] at this
    simpa [List.getD_eq_getElem?_getD, List.getElem?_eq_getElem, h1, h2] using this

/-- A read that meets none of the cells written gives what it gave before. -/
theorem cellsRead_cellsWrite_other {c : Cells} {a b n : Nat} {bs : List Byte} (h : Memory.wf c = true) (hd : b + n ≤ a ∨ a + bs.length ≤ b) :
    cellsRead (cellsWrite c a bs) b n = cellsRead c b n := by
  apply List.ext_getElem
  · simp [cellsRead_length]
  · intro k h1 h2
    rw [cellsRead_length] at h1
    have e1 := cellsRead_get (c := cellsWrite c a bs) (a := b) (n := n) (k := k) (cellsWrite_wf a bs h) h1
    have e2 := cellsRead_get (c := c) (a := b) (n := n) (k := k) h h1
    rw [cellsWrite_get_other h (by omega), ← e2] at e1
    simpa [List.getD_eq_getElem?_getD, List.getElem?_eq_getElem, cellsRead_length, h1] using e1

end Sys2Proof.Machine
end

