-- ==== Sys2Proof/Laws/Memory.lean ====
section
/-! SUPPORT. The memory operations: each keeps the canonical form of the memory, and each changes only what it stores to. -/

namespace Sys2Proof.Machine

theorem foldl_wf {α : Type} {g : State → α → State} (hg : ∀ s a, Memory.wf s.cells = true → Memory.wf (g s a).cells = true) (l : List α)
    {s : State} (h : Memory.wf s.cells = true) : Memory.wf (l.foldl g s).cells = true := by
  induction l generalizing s with
  | nil => exact h
  | cons a t ih => exact ih (hg s a h)

theorem freeBytes_length (k n : Nat) : (freeBytes k n).length = n := by
  induction n with
  | zero => rfl
  | succ n ih => simp [freeBytes, ih]

theorem detectUnit_wf {s : State} (u : Nat) (h : Memory.wf s.cells = true) : Memory.wf (detectUnit s u).cells = true := by
  unfold detectUnit
  split
  · exact cellsWrite_wf _ _ h
  · exact h

/-- Where a unit has no undetected error, nothing happens. -/
theorem detectUnit_of_sound {s : State} {u : Nat} (h : setHas u s.errs = false) : detectUnit s u = s := by simp [detectUnit, h]

theorem settleErr_wf {s : State} (c n u : Nat) (h : Memory.wf s.cells = true) : Memory.wf (settleErr c n s u).cells = true := by
  unfold settleErr
  split
  · exact h
  · exact detectUnit_wf u h

theorem memRead_wf {s : State} (c n : Nat) (h : Memory.wf s.cells = true) : Memory.wf (memRead s c n).1.cells = true := by
  simp only [memRead]
  split
  · exact foldl_wf (fun _ u hs => detectUnit_wf u hs) _ h
  · exact h

/-- A read that meets no undetected error leaves the machine as it is. -/
theorem memRead_of_sound {s : State} {c n : Nat} (h : anyIn (unitsOf (errSize c) c n) s.errs = false) : (memRead s c n).1 = s := by
  simp [memRead, h]

/-- The bytes of such a read are those of the cells. -/
theorem memRead_bytes_of_sound {s : State} {c n : Nat} (h : anyIn (unitsOf (errSize c) c n) s.errs = false) :
    (memRead s c n).2.bytes = cellsRead s.cells c n := by
  simp [memRead, h]

theorem memReadMap_wf {s : State} (c n : Nat) (h : Memory.wf s.cells = true) : Memory.wf (memReadMap s c n).1.cells = true :=
  memRead_wf c n h

theorem memStore_wf {s : State} (c : Nat) (bs : List Byte) (p : Bool) (h : Memory.wf s.cells = true) :
    Memory.wf (memStore s c bs p).cells = true :=
  cellsWrite_wf _ _ (foldl_wf (fun _ u hs => settleErr_wf _ _ u hs) _ h)

theorem memStoreMap_wf {s : State} (c : Nat) (bs : List Byte) (pm : List Bool) (h : Memory.wf s.cells = true) :
    Memory.wf (memStoreMap s c bs pm).cells = true :=
  cellsWrite_wf _ _ (foldl_wf (fun _ u hs => settleErr_wf _ _ u hs) _ h)

theorem memWrite_wf {s : State} (c : Nat) (bs : List Byte) (p : Bool) (h : Memory.wf s.cells = true) :
    Memory.wf (memWrite s c bs p).cells = true := by
  simp only [memWrite]
  split <;> exact memStore_wf c bs p h

theorem memClear_wf {s : State} (lo hi : Nat) (h : Memory.wf s.cells = true) : Memory.wf (memClear s lo hi).cells = true :=
  cellsClear_wf lo hi h

theorem setFull_cells (s : State) (c : Nat) : (setFull s c).cells = s.cells := by
  unfold setFull
  split <;> rfl

theorem setEmpty_cells (s : State) (x c : Nat) : (setEmpty s x c).cells = s.cells := by
  unfold setEmpty
  split <;> rfl

theorem hbmReadLoop_wf {s : State} (k : Masks) (pa f n : Nat) (acc : List Byte) (r : Nat) (h : Memory.wf s.cells = true) :
    Memory.wf (hbmReadLoop s k pa f n acc r).1.cells = true := by
  induction f generalizing s pa n acc r with
  | zero => exact h
  | succ f ih =>
    unfold hbmReadLoop
    split
    · exact h
    · exact ih _ _ _ _ (memRead_wf _ _ h)

theorem hbmRead_wf {s : State} (k : Masks) (pa n : Nat) (h : Memory.wf s.cells = true) : Memory.wf (hbmRead s k pa n).1.cells = true :=
  hbmReadLoop_wf k pa _ n [] 0 h

theorem hbmWriteLoop_wf {s : State} (k : Masks) (pa : Nat) (bs : List Byte) (p : Bool) (f : Nat) (h : Memory.wf s.cells = true) :
    Memory.wf (hbmWriteLoop s k pa bs p f).cells = true := by
  induction f generalizing s pa bs with
  | zero => exact h
  | succ f ih =>
    unfold hbmWriteLoop
    split
    · exact h
    · exact ih _ _ (memWrite_wf _ _ _ h)

theorem hbmWrite_wf {s : State} (k : Masks) (pa : Nat) (bs : List Byte) (p : Bool) (h : Memory.wf s.cells = true) :
    Memory.wf (hbmWrite s k pa bs p).cells = true := hbmWriteLoop_wf k pa bs p _ h

theorem setAcc_wf {s : State} (k : Masks) (ea : Nat) (e : BitVec 128) (h : Memory.wf s.cells = true) :
    Memory.wf (setAcc s k ea e).cells = true := by
  unfold setAcc
  split
  · exact h
  · exact cellsWrite_wf _ _ h

/-- What a store leaves in every cell, where no undetected error lies in its units. -/
theorem memStore_get {s : State} {c : Nat} {bs : List Byte} {p : Bool} (a : Nat) (h : Memory.wf s.cells = true)
    (he : ∀ u ∈ unitsOf (errSize c) c bs.length, setHas u s.errs = false) (hc : ∀ u ∈ unitsOf (errSize c) c bs.length, setDel u s.errs = s.errs) :
    cellGet a (memStore s c bs p).cells = if c ≤ a ∧ a < c + bs.length then bs.getD (a - c) 0 else cellGet a s.cells := by
  have hs : ∀ l : List Nat, (∀ u ∈ l, setHas u s.errs = false ∧ setDel u s.errs = s.errs) → l.foldl (settleErr c bs.length) s = s := by
    intro l hl
    induction l with
    | nil => rfl
    | cons u t ih =>
      have hu := hl u (List.mem_cons_self ..)
      have : settleErr c bs.length s u = s := by
        unfold settleErr
        split
        · rw [hu.2]
        · exact detectUnit_of_sound hu.1
      rw [List.foldl_cons, this]
      exact ih (fun v hv => hl v (List.mem_cons_of_mem _ hv))
  simp only [memStore, hs _ (fun u hu => ⟨he u hu, hc u hu⟩)]
  exact cellsWrite_get c a bs h

end Sys2Proof.Machine
end

