-- ==== Sys2Proof/Laws/State.lean ====
section
/-! SUPPORT. What each update of the state leaves in each of its fields. -/

namespace Sys2Proof.Machine

variable (s : State)

/-! A thread is changed. -/

@[simp] theorem modThread_now (t : Nat) (f : Thread → Thread) : (modThread s t f).now = s.now := rfl
@[simp] theorem modThread_tenths (t : Nat) (f : Thread → Thread) : (modThread s t f).tenths = s.tenths := rfl
@[simp] theorem modThread_cells (t : Nat) (f : Thread → Thread) : (modThread s t f).cells = s.cells := rfl
@[simp] theorem modThread_full (t : Nat) (f : Thread → Thread) : (modThread s t f).full = s.full := rfl
@[simp] theorem modThread_marks (t : Nat) (f : Thread → Thread) : (modThread s t f).marks = s.marks := rfl
@[simp] theorem modThread_errs (t : Nat) (f : Thread → Thread) : (modThread s t f).errs = s.errs := rfl
@[simp] theorem modThread_flashBad (t : Nat) (f : Thread → Thread) : (modThread s t f).flashBad = s.flashBad := rfl
@[simp] theorem modThread_tagEmpty (t : Nat) (f : Thread → Thread) : (modThread s t f).tagEmpty = s.tagEmpty := rfl
@[simp] theorem modThread_wordWaits (t : Nat) (f : Thread → Thread) : (modThread s t f).wordWaits = s.wordWaits := rfl
@[simp] theorem modThread_ovfChecks (t : Nat) (f : Thread → Thread) : (modThread s t f).ovfChecks = s.ovfChecks := rfl
@[simp] theorem modThread_struck (t : Nat) (f : Thread → Thread) : (modThread s t f).struck = s.struck := rfl
@[simp] theorem modThread_copies (t : Nat) (f : Thread → Thread) : (modThread s t f).copies = s.copies := rfl
@[simp] theorem modThread_fills (t : Nat) (f : Thread → Thread) : (modThread s t f).fills = s.fills := rfl
@[simp] theorem modThread_invals (t : Nat) (f : Thread → Thread) : (modThread s t f).invals = s.invals := rfl
@[simp] theorem modThread_nextInval (t : Nat) (f : Thread → Thread) : (modThread s t f).nextInval = s.nextInval := rfl
@[simp] theorem modThread_parts (t : Nat) (f : Thread → Thread) : (modThread s t f).parts = s.parts := rfl
@[simp] theorem modThread_ctxs (t : Nat) (f : Thread → Thread) : (modThread s t f).ctxs = s.ctxs := rfl
@[simp] theorem modThread_threads (t : Nat) (f : Thread → Thread) : (modThread s t f).threads = tblMod t f s.threads := rfl
@[simp] theorem modThread_clusters (t : Nat) (f : Thread → Thread) : (modThread s t f).clusters = s.clusters := rfl
@[simp] theorem modThread_sets (t : Nat) (f : Thread → Thread) : (modThread s t f).sets = s.sets := rfl
@[simp] theorem modThread_seqCells (t : Nat) (f : Thread → Thread) : (modThread s t f).seqCells = s.seqCells := rfl
@[simp] theorem modThread_lockTensors (t : Nat) (f : Thread → Thread) : (modThread s t f).lockTensors = s.lockTensors := rfl
@[simp] theorem modThread_lockItems (t : Nat) (f : Thread → Thread) : (modThread s t f).lockItems = s.lockItems := rfl
@[simp] theorem modThread_txns (t : Nat) (f : Thread → Thread) : (modThread s t f).txns = s.txns := rfl
@[simp] theorem modThread_heirs (t : Nat) (f : Thread → Thread) : (modThread s t f).heirs = s.heirs := rfl
@[simp] theorem modThread_nextSerial (t : Nat) (f : Thread → Thread) : (modThread s t f).nextSerial = s.nextSerial := rfl
@[simp] theorem modThread_launches (t : Nat) (f : Thread → Thread) : (modThread s t f).launches = s.launches := rfl
@[simp] theorem modThread_nextLaunch (t : Nat) (f : Thread → Thread) : (modThread s t f).nextLaunch = s.nextLaunch := rfl
@[simp] theorem modThread_lastOf (t : Nat) (f : Thread → Thread) : (modThread s t f).lastOf = s.lastOf := rfl
@[simp] theorem modThread_forms (t : Nat) (f : Thread → Thread) : (modThread s t f).forms = s.forms := rfl
@[simp] theorem modThread_saves (t : Nat) (f : Thread → Thread) : (modThread s t f).saves = s.saves := rfl
@[simp] theorem modThread_unusable (t : Nat) (f : Thread → Thread) : (modThread s t f).unusable = s.unusable := rfl
@[simp] theorem modThread_sticking (t : Nat) (f : Thread → Thread) : (modThread s t f).sticking = s.sticking := rfl
@[simp] theorem modThread_halts (t : Nat) (f : Thread → Thread) : (modThread s t f).halts = s.halts := rfl
@[simp] theorem modThread_breaks (t : Nat) (f : Thread → Thread) : (modThread s t f).breaks = s.breaks := rfl
@[simp] theorem modThread_queues (t : Nat) (f : Thread → Thread) : (modThread s t f).queues = s.queues := rfl
@[simp] theorem modThread_outbox (t : Nat) (f : Thread → Thread) : (modThread s t f).outbox = s.outbox := rfl
@[simp] theorem modThread_mac (t : Nat) (f : Thread → Thread) : (modThread s t f).mac = s.mac := rfl
@[simp] theorem modThread_binds (t : Nat) (f : Thread → Thread) : (modThread s t f).binds = s.binds := rfl
@[simp] theorem modThread_windows (t : Nat) (f : Thread → Thread) : (modThread s t f).windows = s.windows := rfl
@[simp] theorem modThread_ports (t : Nat) (f : Thread → Thread) : (modThread s t f).ports = s.ports := rfl
@[simp] theorem modThread_sent (t : Nat) (f : Thread → Thread) : (modThread s t f).sent = s.sent := rfl
@[simp] theorem modThread_inbox (t : Nat) (f : Thread → Thread) : (modThread s t f).inbox = s.inbox := rfl
@[simp] theorem modThread_requests (t : Nat) (f : Thread → Thread) : (modThread s t f).requests = s.requests := rfl
@[simp] theorem modThread_nextTag (t : Nat) (f : Thread → Thread) : (modThread s t f).nextTag = s.nextTag := rfl
@[simp] theorem modThread_routes (t : Nat) (f : Thread → Thread) : (modThread s t f).routes = s.routes := rfl
@[simp] theorem modThread_power (t : Nat) (f : Thread → Thread) : (modThread s t f).power = s.power := rfl
@[simp] theorem modThread_levels (t : Nat) (f : Thread → Thread) : (modThread s t f).levels = s.levels := rfl
@[simp] theorem modThread_stackWin (t : Nat) (f : Thread → Thread) : (modThread s t f).stackWin = s.stackWin := rfl
@[simp] theorem modThread_limited (t : Nat) (f : Thread → Thread) : (modThread s t f).limited = s.limited := rfl
@[simp] theorem modThread_timeStatus (t : Nat) (f : Thread → Thread) : (modThread s t f).timeStatus = s.timeStatus := rfl
@[simp] theorem modThread_leads (t : Nat) (f : Thread → Thread) : (modThread s t f).leads = s.leads := rfl
@[simp] theorem modThread_ptpPorts (t : Nat) (f : Thread → Thread) : (modThread s t f).ptpPorts = s.ptpPorts := rfl
@[simp] theorem modThread_ptpOut (t : Nat) (f : Thread → Thread) : (modThread s t f).ptpOut = s.ptpOut := rfl
@[simp] theorem modThread_slew (t : Nat) (f : Thread → Thread) : (modThread s t f).slew = s.slew := rfl
@[simp] theorem modThread_fw (t : Nat) (f : Thread → Thread) : (modThread s t f).fw = s.fw := rfl
@[simp] theorem modThread_agenda (t : Nat) (f : Thread → Thread) : (modThread s t f).agenda = s.agenda := rfl
@[simp] theorem modThread_free (t : Nat) (f : Thread → Thread) : (modThread s t f).free = s.free := rfl
@[simp] theorem modThread_cur (t : Nat) (f : Thread → Thread) : (modThread s t f).cur = s.cur := rfl

/-! A context is changed. -/

@[simp] theorem modCtx_now (x : Nat) (f : Ctx → Ctx) : (modCtx s x f).now = s.now := rfl
@[simp] theorem modCtx_tenths (x : Nat) (f : Ctx → Ctx) : (modCtx s x f).tenths = s.tenths := rfl
@[simp] theorem modCtx_cells (x : Nat) (f : Ctx → Ctx) : (modCtx s x f).cells = s.cells := rfl
@[simp] theorem modCtx_full (x : Nat) (f : Ctx → Ctx) : (modCtx s x f).full = s.full := rfl
@[simp] theorem modCtx_marks (x : Nat) (f : Ctx → Ctx) : (modCtx s x f).marks = s.marks := rfl
@[simp] theorem modCtx_errs (x : Nat) (f : Ctx → Ctx) : (modCtx s x f).errs = s.errs := rfl
@[simp] theorem modCtx_flashBad (x : Nat) (f : Ctx → Ctx) : (modCtx s x f).flashBad = s.flashBad := rfl
@[simp] theorem modCtx_tagEmpty (x : Nat) (f : Ctx → Ctx) : (modCtx s x f).tagEmpty = s.tagEmpty := rfl
@[simp] theorem modCtx_wordWaits (x : Nat) (f : Ctx → Ctx) : (modCtx s x f).wordWaits = s.wordWaits := rfl
@[simp] theorem modCtx_ovfChecks (x : Nat) (f : Ctx → Ctx) : (modCtx s x f).ovfChecks = s.ovfChecks := rfl
@[simp] theorem modCtx_struck (x : Nat) (f : Ctx → Ctx) : (modCtx s x f).struck = s.struck := rfl
@[simp] theorem modCtx_copies (x : Nat) (f : Ctx → Ctx) : (modCtx s x f).copies = s.copies := rfl
@[simp] theorem modCtx_fills (x : Nat) (f : Ctx → Ctx) : (modCtx s x f).fills = s.fills := rfl
@[simp] theorem modCtx_invals (x : Nat) (f : Ctx → Ctx) : (modCtx s x f).invals = s.invals := rfl
@[simp] theorem modCtx_nextInval (x : Nat) (f : Ctx → Ctx) : (modCtx s x f).nextInval = s.nextInval := rfl
@[simp] theorem modCtx_parts (x : Nat) (f : Ctx → Ctx) : (modCtx s x f).parts = s.parts := rfl
@[simp] theorem modCtx_ctxs (x : Nat) (f : Ctx → Ctx) : (modCtx s x f).ctxs = tblMod x f s.ctxs := rfl
@[simp] theorem modCtx_threads (x : Nat) (f : Ctx → Ctx) : (modCtx s x f).threads = s.threads := rfl
@[simp] theorem modCtx_clusters (x : Nat) (f : Ctx → Ctx) : (modCtx s x f).clusters = s.clusters := rfl
@[simp] theorem modCtx_sets (x : Nat) (f : Ctx → Ctx) : (modCtx s x f).sets = s.sets := rfl
@[simp] theorem modCtx_seqCells (x : Nat) (f : Ctx → Ctx) : (modCtx s x f).seqCells = s.seqCells := rfl
@[simp] theorem modCtx_lockTensors (x : Nat) (f : Ctx → Ctx) : (modCtx s x f).lockTensors = s.lockTensors := rfl
@[simp] theorem modCtx_lockItems (x : Nat) (f : Ctx → Ctx) : (modCtx s x f).lockItems = s.lockItems := rfl
@[simp] theorem modCtx_txns (x : Nat) (f : Ctx → Ctx) : (modCtx s x f).txns = s.txns := rfl
@[simp] theorem modCtx_heirs (x : Nat) (f : Ctx → Ctx) : (modCtx s x f).heirs = s.heirs := rfl
@[simp] theorem modCtx_nextSerial (x : Nat) (f : Ctx → Ctx) : (modCtx s x f).nextSerial = s.nextSerial := rfl
@[simp] theorem modCtx_launches (x : Nat) (f : Ctx → Ctx) : (modCtx s x f).launches = s.launches := rfl
@[simp] theorem modCtx_nextLaunch (x : Nat) (f : Ctx → Ctx) : (modCtx s x f).nextLaunch = s.nextLaunch := rfl
@[simp] theorem modCtx_lastOf (x : Nat) (f : Ctx → Ctx) : (modCtx s x f).lastOf = s.lastOf := rfl
@[simp] theorem modCtx_forms (x : Nat) (f : Ctx → Ctx) : (modCtx s x f).forms = s.forms := rfl
@[simp] theorem modCtx_saves (x : Nat) (f : Ctx → Ctx) : (modCtx s x f).saves = s.saves := rfl
@[simp] theorem modCtx_unusable (x : Nat) (f : Ctx → Ctx) : (modCtx s x f).unusable = s.unusable := rfl
@[simp] theorem modCtx_sticking (x : Nat) (f : Ctx → Ctx) : (modCtx s x f).sticking = s.sticking := rfl
@[simp] theorem modCtx_halts (x : Nat) (f : Ctx → Ctx) : (modCtx s x f).halts = s.halts := rfl
@[simp] theorem modCtx_breaks (x : Nat) (f : Ctx → Ctx) : (modCtx s x f).breaks = s.breaks := rfl
@[simp] theorem modCtx_queues (x : Nat) (f : Ctx → Ctx) : (modCtx s x f).queues = s.queues := rfl
@[simp] theorem modCtx_outbox (x : Nat) (f : Ctx → Ctx) : (modCtx s x f).outbox = s.outbox := rfl
@[simp] theorem modCtx_mac (x : Nat) (f : Ctx → Ctx) : (modCtx s x f).mac = s.mac := rfl
@[simp] theorem modCtx_binds (x : Nat) (f : Ctx → Ctx) : (modCtx s x f).binds = s.binds := rfl
@[simp] theorem modCtx_windows (x : Nat) (f : Ctx → Ctx) : (modCtx s x f).windows = s.windows := rfl
@[simp] theorem modCtx_ports (x : Nat) (f : Ctx → Ctx) : (modCtx s x f).ports = s.ports := rfl
@[simp] theorem modCtx_sent (x : Nat) (f : Ctx → Ctx) : (modCtx s x f).sent = s.sent := rfl
@[simp] theorem modCtx_inbox (x : Nat) (f : Ctx → Ctx) : (modCtx s x f).inbox = s.inbox := rfl
@[simp] theorem modCtx_requests (x : Nat) (f : Ctx → Ctx) : (modCtx s x f).requests = s.requests := rfl
@[simp] theorem modCtx_nextTag (x : Nat) (f : Ctx → Ctx) : (modCtx s x f).nextTag = s.nextTag := rfl
@[simp] theorem modCtx_routes (x : Nat) (f : Ctx → Ctx) : (modCtx s x f).routes = s.routes := rfl
@[simp] theorem modCtx_power (x : Nat) (f : Ctx → Ctx) : (modCtx s x f).power = s.power := rfl
@[simp] theorem modCtx_levels (x : Nat) (f : Ctx → Ctx) : (modCtx s x f).levels = s.levels := rfl
@[simp] theorem modCtx_stackWin (x : Nat) (f : Ctx → Ctx) : (modCtx s x f).stackWin = s.stackWin := rfl
@[simp] theorem modCtx_limited (x : Nat) (f : Ctx → Ctx) : (modCtx s x f).limited = s.limited := rfl
@[simp] theorem modCtx_timeStatus (x : Nat) (f : Ctx → Ctx) : (modCtx s x f).timeStatus = s.timeStatus := rfl
@[simp] theorem modCtx_leads (x : Nat) (f : Ctx → Ctx) : (modCtx s x f).leads = s.leads := rfl
@[simp] theorem modCtx_ptpPorts (x : Nat) (f : Ctx → Ctx) : (modCtx s x f).ptpPorts = s.ptpPorts := rfl
@[simp] theorem modCtx_ptpOut (x : Nat) (f : Ctx → Ctx) : (modCtx s x f).ptpOut = s.ptpOut := rfl
@[simp] theorem modCtx_slew (x : Nat) (f : Ctx → Ctx) : (modCtx s x f).slew = s.slew := rfl
@[simp] theorem modCtx_fw (x : Nat) (f : Ctx → Ctx) : (modCtx s x f).fw = s.fw := rfl
@[simp] theorem modCtx_agenda (x : Nat) (f : Ctx → Ctx) : (modCtx s x f).agenda = s.agenda := rfl
@[simp] theorem modCtx_free (x : Nat) (f : Ctx → Ctx) : (modCtx s x f).free = s.free := rfl
@[simp] theorem modCtx_cur (x : Nat) (f : Ctx → Ctx) : (modCtx s x f).cur = s.cur := rfl

/-! A cluster is changed. -/

@[simp] theorem modCluster_now (c : Nat) (f : Cluster → Cluster) : (modCluster s c f).now = s.now := rfl
@[simp] theorem modCluster_tenths (c : Nat) (f : Cluster → Cluster) : (modCluster s c f).tenths = s.tenths := rfl
@[simp] theorem modCluster_cells (c : Nat) (f : Cluster → Cluster) : (modCluster s c f).cells = s.cells := rfl
@[simp] theorem modCluster_full (c : Nat) (f : Cluster → Cluster) : (modCluster s c f).full = s.full := rfl
@[simp] theorem modCluster_marks (c : Nat) (f : Cluster → Cluster) : (modCluster s c f).marks = s.marks := rfl
@[simp] theorem modCluster_errs (c : Nat) (f : Cluster → Cluster) : (modCluster s c f).errs = s.errs := rfl
@[simp] theorem modCluster_flashBad (c : Nat) (f : Cluster → Cluster) : (modCluster s c f).flashBad = s.flashBad := rfl
@[simp] theorem modCluster_tagEmpty (c : Nat) (f : Cluster → Cluster) : (modCluster s c f).tagEmpty = s.tagEmpty := rfl
@[simp] theorem modCluster_wordWaits (c : Nat) (f : Cluster → Cluster) : (modCluster s c f).wordWaits = s.wordWaits := rfl
@[simp] theorem modCluster_ovfChecks (c : Nat) (f : Cluster → Cluster) : (modCluster s c f).ovfChecks = s.ovfChecks := rfl
@[simp] theorem modCluster_struck (c : Nat) (f : Cluster → Cluster) : (modCluster s c f).struck = s.struck := rfl
@[simp] theorem modCluster_copies (c : Nat) (f : Cluster → Cluster) : (modCluster s c f).copies = s.copies := rfl
@[simp] theorem modCluster_fills (c : Nat) (f : Cluster → Cluster) : (modCluster s c f).fills = s.fills := rfl
@[simp] theorem modCluster_invals (c : Nat) (f : Cluster → Cluster) : (modCluster s c f).invals = s.invals := rfl
@[simp] theorem modCluster_nextInval (c : Nat) (f : Cluster → Cluster) : (modCluster s c f).nextInval = s.nextInval := rfl
@[simp] theorem modCluster_parts (c : Nat) (f : Cluster → Cluster) : (modCluster s c f).parts = s.parts := rfl
@[simp] theorem modCluster_ctxs (c : Nat) (f : Cluster → Cluster) : (modCluster s c f).ctxs = s.ctxs := rfl
@[simp] theorem modCluster_threads (c : Nat) (f : Cluster → Cluster) : (modCluster s c f).threads = s.threads := rfl
@[simp] theorem modCluster_clusters (c : Nat) (f : Cluster → Cluster) : (modCluster s c f).clusters = tblSet c (f (clusterAt s c)) s.clusters := rfl
@[simp] theorem modCluster_sets (c : Nat) (f : Cluster → Cluster) : (modCluster s c f).sets = s.sets := rfl
@[simp] theorem modCluster_seqCells (c : Nat) (f : Cluster → Cluster) : (modCluster s c f).seqCells = s.seqCells := rfl
@[simp] theorem modCluster_lockTensors (c : Nat) (f : Cluster → Cluster) : (modCluster s c f).lockTensors = s.lockTensors := rfl
@[simp] theorem modCluster_lockItems (c : Nat) (f : Cluster → Cluster) : (modCluster s c f).lockItems = s.lockItems := rfl
@[simp] theorem modCluster_txns (c : Nat) (f : Cluster → Cluster) : (modCluster s c f).txns = s.txns := rfl
@[simp] theorem modCluster_heirs (c : Nat) (f : Cluster → Cluster) : (modCluster s c f).heirs = s.heirs := rfl
@[simp] theorem modCluster_nextSerial (c : Nat) (f : Cluster → Cluster) : (modCluster s c f).nextSerial = s.nextSerial := rfl
@[simp] theorem modCluster_launches (c : Nat) (f : Cluster → Cluster) : (modCluster s c f).launches = s.launches := rfl
@[simp] theorem modCluster_nextLaunch (c : Nat) (f : Cluster → Cluster) : (modCluster s c f).nextLaunch = s.nextLaunch := rfl
@[simp] theorem modCluster_lastOf (c : Nat) (f : Cluster → Cluster) : (modCluster s c f).lastOf = s.lastOf := rfl
@[simp] theorem modCluster_forms (c : Nat) (f : Cluster → Cluster) : (modCluster s c f).forms = s.forms := rfl
@[simp] theorem modCluster_saves (c : Nat) (f : Cluster → Cluster) : (modCluster s c f).saves = s.saves := rfl
@[simp] theorem modCluster_unusable (c : Nat) (f : Cluster → Cluster) : (modCluster s c f).unusable = s.unusable := rfl
@[simp] theorem modCluster_sticking (c : Nat) (f : Cluster → Cluster) : (modCluster s c f).sticking = s.sticking := rfl
@[simp] theorem modCluster_halts (c : Nat) (f : Cluster → Cluster) : (modCluster s c f).halts = s.halts := rfl
@[simp] theorem modCluster_breaks (c : Nat) (f : Cluster → Cluster) : (modCluster s c f).breaks = s.breaks := rfl
@[simp] theorem modCluster_queues (c : Nat) (f : Cluster → Cluster) : (modCluster s c f).queues = s.queues := rfl
@[simp] theorem modCluster_outbox (c : Nat) (f : Cluster → Cluster) : (modCluster s c f).outbox = s.outbox := rfl
@[simp] theorem modCluster_mac (c : Nat) (f : Cluster → Cluster) : (modCluster s c f).mac = s.mac := rfl
@[simp] theorem modCluster_binds (c : Nat) (f : Cluster → Cluster) : (modCluster s c f).binds = s.binds := rfl
@[simp] theorem modCluster_windows (c : Nat) (f : Cluster → Cluster) : (modCluster s c f).windows = s.windows := rfl
@[simp] theorem modCluster_ports (c : Nat) (f : Cluster → Cluster) : (modCluster s c f).ports = s.ports := rfl
@[simp] theorem modCluster_sent (c : Nat) (f : Cluster → Cluster) : (modCluster s c f).sent = s.sent := rfl
@[simp] theorem modCluster_inbox (c : Nat) (f : Cluster → Cluster) : (modCluster s c f).inbox = s.inbox := rfl
@[simp] theorem modCluster_requests (c : Nat) (f : Cluster → Cluster) : (modCluster s c f).requests = s.requests := rfl
@[simp] theorem modCluster_nextTag (c : Nat) (f : Cluster → Cluster) : (modCluster s c f).nextTag = s.nextTag := rfl
@[simp] theorem modCluster_routes (c : Nat) (f : Cluster → Cluster) : (modCluster s c f).routes = s.routes := rfl
@[simp] theorem modCluster_power (c : Nat) (f : Cluster → Cluster) : (modCluster s c f).power = s.power := rfl
@[simp] theorem modCluster_levels (c : Nat) (f : Cluster → Cluster) : (modCluster s c f).levels = s.levels := rfl
@[simp] theorem modCluster_stackWin (c : Nat) (f : Cluster → Cluster) : (modCluster s c f).stackWin = s.stackWin := rfl
@[simp] theorem modCluster_limited (c : Nat) (f : Cluster → Cluster) : (modCluster s c f).limited = s.limited := rfl
@[simp] theorem modCluster_timeStatus (c : Nat) (f : Cluster → Cluster) : (modCluster s c f).timeStatus = s.timeStatus := rfl
@[simp] theorem modCluster_leads (c : Nat) (f : Cluster → Cluster) : (modCluster s c f).leads = s.leads := rfl
@[simp] theorem modCluster_ptpPorts (c : Nat) (f : Cluster → Cluster) : (modCluster s c f).ptpPorts = s.ptpPorts := rfl
@[simp] theorem modCluster_ptpOut (c : Nat) (f : Cluster → Cluster) : (modCluster s c f).ptpOut = s.ptpOut := rfl
@[simp] theorem modCluster_slew (c : Nat) (f : Cluster → Cluster) : (modCluster s c f).slew = s.slew := rfl
@[simp] theorem modCluster_fw (c : Nat) (f : Cluster → Cluster) : (modCluster s c f).fw = s.fw := rfl
@[simp] theorem modCluster_agenda (c : Nat) (f : Cluster → Cluster) : (modCluster s c f).agenda = s.agenda := rfl
@[simp] theorem modCluster_free (c : Nat) (f : Cluster → Cluster) : (modCluster s c f).free = s.free := rfl
@[simp] theorem modCluster_cur (c : Nat) (f : Cluster → Cluster) : (modCluster s c f).cur = s.cur := rfl

/-! A unit's queue is set. -/

@[simp] theorem setUnit_now (c u : Nat) (q : UnitQ) : (setUnit s c u q).now = s.now := rfl
@[simp] theorem setUnit_tenths (c u : Nat) (q : UnitQ) : (setUnit s c u q).tenths = s.tenths := rfl
@[simp] theorem setUnit_cells (c u : Nat) (q : UnitQ) : (setUnit s c u q).cells = s.cells := rfl
@[simp] theorem setUnit_full (c u : Nat) (q : UnitQ) : (setUnit s c u q).full = s.full := rfl
@[simp] theorem setUnit_marks (c u : Nat) (q : UnitQ) : (setUnit s c u q).marks = s.marks := rfl
@[simp] theorem setUnit_errs (c u : Nat) (q : UnitQ) : (setUnit s c u q).errs = s.errs := rfl
@[simp] theorem setUnit_flashBad (c u : Nat) (q : UnitQ) : (setUnit s c u q).flashBad = s.flashBad := rfl
@[simp] theorem setUnit_tagEmpty (c u : Nat) (q : UnitQ) : (setUnit s c u q).tagEmpty = s.tagEmpty := rfl
@[simp] theorem setUnit_wordWaits (c u : Nat) (q : UnitQ) : (setUnit s c u q).wordWaits = s.wordWaits := rfl
@[simp] theorem setUnit_ovfChecks (c u : Nat) (q : UnitQ) : (setUnit s c u q).ovfChecks = s.ovfChecks := rfl
@[simp] theorem setUnit_struck (c u : Nat) (q : UnitQ) : (setUnit s c u q).struck = s.struck := rfl
@[simp] theorem setUnit_copies (c u : Nat) (q : UnitQ) : (setUnit s c u q).copies = s.copies := rfl
@[simp] theorem setUnit_fills (c u : Nat) (q : UnitQ) : (setUnit s c u q).fills = s.fills := rfl
@[simp] theorem setUnit_invals (c u : Nat) (q : UnitQ) : (setUnit s c u q).invals = s.invals := rfl
@[simp] theorem setUnit_nextInval (c u : Nat) (q : UnitQ) : (setUnit s c u q).nextInval = s.nextInval := rfl
@[simp] theorem setUnit_parts (c u : Nat) (q : UnitQ) : (setUnit s c u q).parts = s.parts := rfl
@[simp] theorem setUnit_ctxs (c u : Nat) (q : UnitQ) : (setUnit s c u q).ctxs = s.ctxs := rfl
@[simp] theorem setUnit_threads (c u : Nat) (q : UnitQ) : (setUnit s c u q).threads = s.threads := rfl
@[simp] theorem setUnit_clusters (c u : Nat) (q : UnitQ) : (setUnit s c u q).clusters = tblSet c { clusterAt s c with units := tblSet u q (clusterAt s c).units } s.clusters := rfl
@[simp] theorem setUnit_sets (c u : Nat) (q : UnitQ) : (setUnit s c u q).sets = s.sets := rfl
@[simp] theorem setUnit_seqCells (c u : Nat) (q : UnitQ) : (setUnit s c u q).seqCells = s.seqCells := rfl
@[simp] theorem setUnit_lockTensors (c u : Nat) (q : UnitQ) : (setUnit s c u q).lockTensors = s.lockTensors := rfl
@[simp] theorem setUnit_lockItems (c u : Nat) (q : UnitQ) : (setUnit s c u q).lockItems = s.lockItems := rfl
@[simp] theorem setUnit_txns (c u : Nat) (q : UnitQ) : (setUnit s c u q).txns = s.txns := rfl
@[simp] theorem setUnit_heirs (c u : Nat) (q : UnitQ) : (setUnit s c u q).heirs = s.heirs := rfl
@[simp] theorem setUnit_nextSerial (c u : Nat) (q : UnitQ) : (setUnit s c u q).nextSerial = s.nextSerial := rfl
@[simp] theorem setUnit_launches (c u : Nat) (q : UnitQ) : (setUnit s c u q).launches = s.launches := rfl
@[simp] theorem setUnit_nextLaunch (c u : Nat) (q : UnitQ) : (setUnit s c u q).nextLaunch = s.nextLaunch := rfl
@[simp] theorem setUnit_lastOf (c u : Nat) (q : UnitQ) : (setUnit s c u q).lastOf = s.lastOf := rfl
@[simp] theorem setUnit_forms (c u : Nat) (q : UnitQ) : (setUnit s c u q).forms = s.forms := rfl
@[simp] theorem setUnit_saves (c u : Nat) (q : UnitQ) : (setUnit s c u q).saves = s.saves := rfl
@[simp] theorem setUnit_unusable (c u : Nat) (q : UnitQ) : (setUnit s c u q).unusable = s.unusable := rfl
@[simp] theorem setUnit_sticking (c u : Nat) (q : UnitQ) : (setUnit s c u q).sticking = s.sticking := rfl
@[simp] theorem setUnit_halts (c u : Nat) (q : UnitQ) : (setUnit s c u q).halts = s.halts := rfl
@[simp] theorem setUnit_breaks (c u : Nat) (q : UnitQ) : (setUnit s c u q).breaks = s.breaks := rfl
@[simp] theorem setUnit_queues (c u : Nat) (q : UnitQ) : (setUnit s c u q).queues = s.queues := rfl
@[simp] theorem setUnit_outbox (c u : Nat) (q : UnitQ) : (setUnit s c u q).outbox = s.outbox := rfl
@[simp] theorem setUnit_mac (c u : Nat) (q : UnitQ) : (setUnit s c u q).mac = s.mac := rfl
@[simp] theorem setUnit_binds (c u : Nat) (q : UnitQ) : (setUnit s c u q).binds = s.binds := rfl
@[simp] theorem setUnit_windows (c u : Nat) (q : UnitQ) : (setUnit s c u q).windows = s.windows := rfl
@[simp] theorem setUnit_ports (c u : Nat) (q : UnitQ) : (setUnit s c u q).ports = s.ports := rfl
@[simp] theorem setUnit_sent (c u : Nat) (q : UnitQ) : (setUnit s c u q).sent = s.sent := rfl
@[simp] theorem setUnit_inbox (c u : Nat) (q : UnitQ) : (setUnit s c u q).inbox = s.inbox := rfl
@[simp] theorem setUnit_requests (c u : Nat) (q : UnitQ) : (setUnit s c u q).requests = s.requests := rfl
@[simp] theorem setUnit_nextTag (c u : Nat) (q : UnitQ) : (setUnit s c u q).nextTag = s.nextTag := rfl
@[simp] theorem setUnit_routes (c u : Nat) (q : UnitQ) : (setUnit s c u q).routes = s.routes := rfl
@[simp] theorem setUnit_power (c u : Nat) (q : UnitQ) : (setUnit s c u q).power = s.power := rfl
@[simp] theorem setUnit_levels (c u : Nat) (q : UnitQ) : (setUnit s c u q).levels = s.levels := rfl
@[simp] theorem setUnit_stackWin (c u : Nat) (q : UnitQ) : (setUnit s c u q).stackWin = s.stackWin := rfl
@[simp] theorem setUnit_limited (c u : Nat) (q : UnitQ) : (setUnit s c u q).limited = s.limited := rfl
@[simp] theorem setUnit_timeStatus (c u : Nat) (q : UnitQ) : (setUnit s c u q).timeStatus = s.timeStatus := rfl
@[simp] theorem setUnit_leads (c u : Nat) (q : UnitQ) : (setUnit s c u q).leads = s.leads := rfl
@[simp] theorem setUnit_ptpPorts (c u : Nat) (q : UnitQ) : (setUnit s c u q).ptpPorts = s.ptpPorts := rfl
@[simp] theorem setUnit_ptpOut (c u : Nat) (q : UnitQ) : (setUnit s c u q).ptpOut = s.ptpOut := rfl
@[simp] theorem setUnit_slew (c u : Nat) (q : UnitQ) : (setUnit s c u q).slew = s.slew := rfl
@[simp] theorem setUnit_fw (c u : Nat) (q : UnitQ) : (setUnit s c u q).fw = s.fw := rfl
@[simp] theorem setUnit_agenda (c u : Nat) (q : UnitQ) : (setUnit s c u q).agenda = s.agenda := rfl
@[simp] theorem setUnit_free (c u : Nat) (q : UnitQ) : (setUnit s c u q).free = s.free := rfl
@[simp] theorem setUnit_cur (c u : Nat) (q : UnitQ) : (setUnit s c u q).cur = s.cur := rfl

/-! A stream port is set. -/

@[simp] theorem setPort_now (c p : Nat) (q : Port) : (setPort s c p q).now = s.now := rfl
@[simp] theorem setPort_tenths (c p : Nat) (q : Port) : (setPort s c p q).tenths = s.tenths := rfl
@[simp] theorem setPort_cells (c p : Nat) (q : Port) : (setPort s c p q).cells = s.cells := rfl
@[simp] theorem setPort_full (c p : Nat) (q : Port) : (setPort s c p q).full = s.full := rfl
@[simp] theorem setPort_marks (c p : Nat) (q : Port) : (setPort s c p q).marks = s.marks := rfl
@[simp] theorem setPort_errs (c p : Nat) (q : Port) : (setPort s c p q).errs = s.errs := rfl
@[simp] theorem setPort_flashBad (c p : Nat) (q : Port) : (setPort s c p q).flashBad = s.flashBad := rfl
@[simp] theorem setPort_tagEmpty (c p : Nat) (q : Port) : (setPort s c p q).tagEmpty = s.tagEmpty := rfl
@[simp] theorem setPort_wordWaits (c p : Nat) (q : Port) : (setPort s c p q).wordWaits = s.wordWaits := rfl
@[simp] theorem setPort_ovfChecks (c p : Nat) (q : Port) : (setPort s c p q).ovfChecks = s.ovfChecks := rfl
@[simp] theorem setPort_struck (c p : Nat) (q : Port) : (setPort s c p q).struck = s.struck := rfl
@[simp] theorem setPort_copies (c p : Nat) (q : Port) : (setPort s c p q).copies = s.copies := rfl
@[simp] theorem setPort_fills (c p : Nat) (q : Port) : (setPort s c p q).fills = s.fills := rfl
@[simp] theorem setPort_invals (c p : Nat) (q : Port) : (setPort s c p q).invals = s.invals := rfl
@[simp] theorem setPort_nextInval (c p : Nat) (q : Port) : (setPort s c p q).nextInval = s.nextInval := rfl
@[simp] theorem setPort_parts (c p : Nat) (q : Port) : (setPort s c p q).parts = s.parts := rfl
@[simp] theorem setPort_ctxs (c p : Nat) (q : Port) : (setPort s c p q).ctxs = s.ctxs := rfl
@[simp] theorem setPort_threads (c p : Nat) (q : Port) : (setPort s c p q).threads = s.threads := rfl
@[simp] theorem setPort_clusters (c p : Nat) (q : Port) : (setPort s c p q).clusters = tblSet c { clusterAt s c with ports := tblSet p q (clusterAt s c).ports } s.clusters := rfl
@[simp] theorem setPort_sets (c p : Nat) (q : Port) : (setPort s c p q).sets = s.sets := rfl
@[simp] theorem setPort_seqCells (c p : Nat) (q : Port) : (setPort s c p q).seqCells = s.seqCells := rfl
@[simp] theorem setPort_lockTensors (c p : Nat) (q : Port) : (setPort s c p q).lockTensors = s.lockTensors := rfl
@[simp] theorem setPort_lockItems (c p : Nat) (q : Port) : (setPort s c p q).lockItems = s.lockItems := rfl
@[simp] theorem setPort_txns (c p : Nat) (q : Port) : (setPort s c p q).txns = s.txns := rfl
@[simp] theorem setPort_heirs (c p : Nat) (q : Port) : (setPort s c p q).heirs = s.heirs := rfl
@[simp] theorem setPort_nextSerial (c p : Nat) (q : Port) : (setPort s c p q).nextSerial = s.nextSerial := rfl
@[simp] theorem setPort_launches (c p : Nat) (q : Port) : (setPort s c p q).launches = s.launches := rfl
@[simp] theorem setPort_nextLaunch (c p : Nat) (q : Port) : (setPort s c p q).nextLaunch = s.nextLaunch := rfl
@[simp] theorem setPort_lastOf (c p : Nat) (q : Port) : (setPort s c p q).lastOf = s.lastOf := rfl
@[simp] theorem setPort_forms (c p : Nat) (q : Port) : (setPort s c p q).forms = s.forms := rfl
@[simp] theorem setPort_saves (c p : Nat) (q : Port) : (setPort s c p q).saves = s.saves := rfl
@[simp] theorem setPort_unusable (c p : Nat) (q : Port) : (setPort s c p q).unusable = s.unusable := rfl
@[simp] theorem setPort_sticking (c p : Nat) (q : Port) : (setPort s c p q).sticking = s.sticking := rfl
@[simp] theorem setPort_halts (c p : Nat) (q : Port) : (setPort s c p q).halts = s.halts := rfl
@[simp] theorem setPort_breaks (c p : Nat) (q : Port) : (setPort s c p q).breaks = s.breaks := rfl
@[simp] theorem setPort_queues (c p : Nat) (q : Port) : (setPort s c p q).queues = s.queues := rfl
@[simp] theorem setPort_outbox (c p : Nat) (q : Port) : (setPort s c p q).outbox = s.outbox := rfl
@[simp] theorem setPort_mac (c p : Nat) (q : Port) : (setPort s c p q).mac = s.mac := rfl
@[simp] theorem setPort_binds (c p : Nat) (q : Port) : (setPort s c p q).binds = s.binds := rfl
@[simp] theorem setPort_windows (c p : Nat) (q : Port) : (setPort s c p q).windows = s.windows := rfl
@[simp] theorem setPort_ports (c p : Nat) (q : Port) : (setPort s c p q).ports = s.ports := rfl
@[simp] theorem setPort_sent (c p : Nat) (q : Port) : (setPort s c p q).sent = s.sent := rfl
@[simp] theorem setPort_inbox (c p : Nat) (q : Port) : (setPort s c p q).inbox = s.inbox := rfl
@[simp] theorem setPort_requests (c p : Nat) (q : Port) : (setPort s c p q).requests = s.requests := rfl
@[simp] theorem setPort_nextTag (c p : Nat) (q : Port) : (setPort s c p q).nextTag = s.nextTag := rfl
@[simp] theorem setPort_routes (c p : Nat) (q : Port) : (setPort s c p q).routes = s.routes := rfl
@[simp] theorem setPort_power (c p : Nat) (q : Port) : (setPort s c p q).power = s.power := rfl
@[simp] theorem setPort_levels (c p : Nat) (q : Port) : (setPort s c p q).levels = s.levels := rfl
@[simp] theorem setPort_stackWin (c p : Nat) (q : Port) : (setPort s c p q).stackWin = s.stackWin := rfl
@[simp] theorem setPort_limited (c p : Nat) (q : Port) : (setPort s c p q).limited = s.limited := rfl
@[simp] theorem setPort_timeStatus (c p : Nat) (q : Port) : (setPort s c p q).timeStatus = s.timeStatus := rfl
@[simp] theorem setPort_leads (c p : Nat) (q : Port) : (setPort s c p q).leads = s.leads := rfl
@[simp] theorem setPort_ptpPorts (c p : Nat) (q : Port) : (setPort s c p q).ptpPorts = s.ptpPorts := rfl
@[simp] theorem setPort_ptpOut (c p : Nat) (q : Port) : (setPort s c p q).ptpOut = s.ptpOut := rfl
@[simp] theorem setPort_slew (c p : Nat) (q : Port) : (setPort s c p q).slew = s.slew := rfl
@[simp] theorem setPort_fw (c p : Nat) (q : Port) : (setPort s c p q).fw = s.fw := rfl
@[simp] theorem setPort_agenda (c p : Nat) (q : Port) : (setPort s c p q).agenda = s.agenda := rfl
@[simp] theorem setPort_free (c p : Nat) (q : Port) : (setPort s c p q).free = s.free := rfl
@[simp] theorem setPort_cur (c p : Nat) (q : Port) : (setPort s c p q).cur = s.cur := rfl

/-! A completion handle is set. -/

@[simp] theorem setHandle_now (c h : Nat) (v : Handle) : (setHandle s c h v).now = s.now := rfl
@[simp] theorem setHandle_tenths (c h : Nat) (v : Handle) : (setHandle s c h v).tenths = s.tenths := rfl
@[simp] theorem setHandle_cells (c h : Nat) (v : Handle) : (setHandle s c h v).cells = s.cells := rfl
@[simp] theorem setHandle_full (c h : Nat) (v : Handle) : (setHandle s c h v).full = s.full := rfl
@[simp] theorem setHandle_marks (c h : Nat) (v : Handle) : (setHandle s c h v).marks = s.marks := rfl
@[simp] theorem setHandle_errs (c h : Nat) (v : Handle) : (setHandle s c h v).errs = s.errs := rfl
@[simp] theorem setHandle_flashBad (c h : Nat) (v : Handle) : (setHandle s c h v).flashBad = s.flashBad := rfl
@[simp] theorem setHandle_tagEmpty (c h : Nat) (v : Handle) : (setHandle s c h v).tagEmpty = s.tagEmpty := rfl
@[simp] theorem setHandle_wordWaits (c h : Nat) (v : Handle) : (setHandle s c h v).wordWaits = s.wordWaits := rfl
@[simp] theorem setHandle_ovfChecks (c h : Nat) (v : Handle) : (setHandle s c h v).ovfChecks = s.ovfChecks := rfl
@[simp] theorem setHandle_struck (c h : Nat) (v : Handle) : (setHandle s c h v).struck = s.struck := rfl
@[simp] theorem setHandle_copies (c h : Nat) (v : Handle) : (setHandle s c h v).copies = s.copies := rfl
@[simp] theorem setHandle_fills (c h : Nat) (v : Handle) : (setHandle s c h v).fills = s.fills := rfl
@[simp] theorem setHandle_invals (c h : Nat) (v : Handle) : (setHandle s c h v).invals = s.invals := rfl
@[simp] theorem setHandle_nextInval (c h : Nat) (v : Handle) : (setHandle s c h v).nextInval = s.nextInval := rfl
@[simp] theorem setHandle_parts (c h : Nat) (v : Handle) : (setHandle s c h v).parts = s.parts := rfl
@[simp] theorem setHandle_ctxs (c h : Nat) (v : Handle) : (setHandle s c h v).ctxs = s.ctxs := rfl
@[simp] theorem setHandle_threads (c h : Nat) (v : Handle) : (setHandle s c h v).threads = s.threads := rfl
@[simp] theorem setHandle_clusters (c h : Nat) (v : Handle) : (setHandle s c h v).clusters = tblSet c { clusterAt s c with handles := tblSet h v (clusterAt s c).handles } s.clusters := rfl
@[simp] theorem setHandle_sets (c h : Nat) (v : Handle) : (setHandle s c h v).sets = s.sets := rfl
@[simp] theorem setHandle_seqCells (c h : Nat) (v : Handle) : (setHandle s c h v).seqCells = s.seqCells := rfl
@[simp] theorem setHandle_lockTensors (c h : Nat) (v : Handle) : (setHandle s c h v).lockTensors = s.lockTensors := rfl
@[simp] theorem setHandle_lockItems (c h : Nat) (v : Handle) : (setHandle s c h v).lockItems = s.lockItems := rfl
@[simp] theorem setHandle_txns (c h : Nat) (v : Handle) : (setHandle s c h v).txns = s.txns := rfl
@[simp] theorem setHandle_heirs (c h : Nat) (v : Handle) : (setHandle s c h v).heirs = s.heirs := rfl
@[simp] theorem setHandle_nextSerial (c h : Nat) (v : Handle) : (setHandle s c h v).nextSerial = s.nextSerial := rfl
@[simp] theorem setHandle_launches (c h : Nat) (v : Handle) : (setHandle s c h v).launches = s.launches := rfl
@[simp] theorem setHandle_nextLaunch (c h : Nat) (v : Handle) : (setHandle s c h v).nextLaunch = s.nextLaunch := rfl
@[simp] theorem setHandle_lastOf (c h : Nat) (v : Handle) : (setHandle s c h v).lastOf = s.lastOf := rfl
@[simp] theorem setHandle_forms (c h : Nat) (v : Handle) : (setHandle s c h v).forms = s.forms := rfl
@[simp] theorem setHandle_saves (c h : Nat) (v : Handle) : (setHandle s c h v).saves = s.saves := rfl
@[simp] theorem setHandle_unusable (c h : Nat) (v : Handle) : (setHandle s c h v).unusable = s.unusable := rfl
@[simp] theorem setHandle_sticking (c h : Nat) (v : Handle) : (setHandle s c h v).sticking = s.sticking := rfl
@[simp] theorem setHandle_halts (c h : Nat) (v : Handle) : (setHandle s c h v).halts = s.halts := rfl
@[simp] theorem setHandle_breaks (c h : Nat) (v : Handle) : (setHandle s c h v).breaks = s.breaks := rfl
@[simp] theorem setHandle_queues (c h : Nat) (v : Handle) : (setHandle s c h v).queues = s.queues := rfl
@[simp] theorem setHandle_outbox (c h : Nat) (v : Handle) : (setHandle s c h v).outbox = s.outbox := rfl
@[simp] theorem setHandle_mac (c h : Nat) (v : Handle) : (setHandle s c h v).mac = s.mac := rfl
@[simp] theorem setHandle_binds (c h : Nat) (v : Handle) : (setHandle s c h v).binds = s.binds := rfl
@[simp] theorem setHandle_windows (c h : Nat) (v : Handle) : (setHandle s c h v).windows = s.windows := rfl
@[simp] theorem setHandle_ports (c h : Nat) (v : Handle) : (setHandle s c h v).ports = s.ports := rfl
@[simp] theorem setHandle_sent (c h : Nat) (v : Handle) : (setHandle s c h v).sent = s.sent := rfl
@[simp] theorem setHandle_inbox (c h : Nat) (v : Handle) : (setHandle s c h v).inbox = s.inbox := rfl
@[simp] theorem setHandle_requests (c h : Nat) (v : Handle) : (setHandle s c h v).requests = s.requests := rfl
@[simp] theorem setHandle_nextTag (c h : Nat) (v : Handle) : (setHandle s c h v).nextTag = s.nextTag := rfl
@[simp] theorem setHandle_routes (c h : Nat) (v : Handle) : (setHandle s c h v).routes = s.routes := rfl
@[simp] theorem setHandle_power (c h : Nat) (v : Handle) : (setHandle s c h v).power = s.power := rfl
@[simp] theorem setHandle_levels (c h : Nat) (v : Handle) : (setHandle s c h v).levels = s.levels := rfl
@[simp] theorem setHandle_stackWin (c h : Nat) (v : Handle) : (setHandle s c h v).stackWin = s.stackWin := rfl
@[simp] theorem setHandle_limited (c h : Nat) (v : Handle) : (setHandle s c h v).limited = s.limited := rfl
@[simp] theorem setHandle_timeStatus (c h : Nat) (v : Handle) : (setHandle s c h v).timeStatus = s.timeStatus := rfl
@[simp] theorem setHandle_leads (c h : Nat) (v : Handle) : (setHandle s c h v).leads = s.leads := rfl
@[simp] theorem setHandle_ptpPorts (c h : Nat) (v : Handle) : (setHandle s c h v).ptpPorts = s.ptpPorts := rfl
@[simp] theorem setHandle_ptpOut (c h : Nat) (v : Handle) : (setHandle s c h v).ptpOut = s.ptpOut := rfl
@[simp] theorem setHandle_slew (c h : Nat) (v : Handle) : (setHandle s c h v).slew = s.slew := rfl
@[simp] theorem setHandle_fw (c h : Nat) (v : Handle) : (setHandle s c h v).fw = s.fw := rfl
@[simp] theorem setHandle_agenda (c h : Nat) (v : Handle) : (setHandle s c h v).agenda = s.agenda := rfl
@[simp] theorem setHandle_free (c h : Nat) (v : Handle) : (setHandle s c h v).free = s.free := rfl
@[simp] theorem setHandle_cur (c h : Nat) (v : Handle) : (setHandle s c h v).cur = s.cur := rfl

/-! A formation is changed. -/

@[simp] theorem modForm_now (f : Nat) (g : Form → Form) : (modForm s f g).now = s.now := rfl
@[simp] theorem modForm_tenths (f : Nat) (g : Form → Form) : (modForm s f g).tenths = s.tenths := rfl
@[simp] theorem modForm_cells (f : Nat) (g : Form → Form) : (modForm s f g).cells = s.cells := rfl
@[simp] theorem modForm_full (f : Nat) (g : Form → Form) : (modForm s f g).full = s.full := rfl
@[simp] theorem modForm_marks (f : Nat) (g : Form → Form) : (modForm s f g).marks = s.marks := rfl
@[simp] theorem modForm_errs (f : Nat) (g : Form → Form) : (modForm s f g).errs = s.errs := rfl
@[simp] theorem modForm_flashBad (f : Nat) (g : Form → Form) : (modForm s f g).flashBad = s.flashBad := rfl
@[simp] theorem modForm_tagEmpty (f : Nat) (g : Form → Form) : (modForm s f g).tagEmpty = s.tagEmpty := rfl
@[simp] theorem modForm_wordWaits (f : Nat) (g : Form → Form) : (modForm s f g).wordWaits = s.wordWaits := rfl
@[simp] theorem modForm_ovfChecks (f : Nat) (g : Form → Form) : (modForm s f g).ovfChecks = s.ovfChecks := rfl
@[simp] theorem modForm_struck (f : Nat) (g : Form → Form) : (modForm s f g).struck = s.struck := rfl
@[simp] theorem modForm_copies (f : Nat) (g : Form → Form) : (modForm s f g).copies = s.copies := rfl
@[simp] theorem modForm_fills (f : Nat) (g : Form → Form) : (modForm s f g).fills = s.fills := rfl
@[simp] theorem modForm_invals (f : Nat) (g : Form → Form) : (modForm s f g).invals = s.invals := rfl
@[simp] theorem modForm_nextInval (f : Nat) (g : Form → Form) : (modForm s f g).nextInval = s.nextInval := rfl
@[simp] theorem modForm_parts (f : Nat) (g : Form → Form) : (modForm s f g).parts = s.parts := rfl
@[simp] theorem modForm_ctxs (f : Nat) (g : Form → Form) : (modForm s f g).ctxs = s.ctxs := rfl
@[simp] theorem modForm_threads (f : Nat) (g : Form → Form) : (modForm s f g).threads = s.threads := rfl
@[simp] theorem modForm_clusters (f : Nat) (g : Form → Form) : (modForm s f g).clusters = s.clusters := rfl
@[simp] theorem modForm_sets (f : Nat) (g : Form → Form) : (modForm s f g).sets = s.sets := rfl
@[simp] theorem modForm_seqCells (f : Nat) (g : Form → Form) : (modForm s f g).seqCells = s.seqCells := rfl
@[simp] theorem modForm_lockTensors (f : Nat) (g : Form → Form) : (modForm s f g).lockTensors = s.lockTensors := rfl
@[simp] theorem modForm_lockItems (f : Nat) (g : Form → Form) : (modForm s f g).lockItems = s.lockItems := rfl
@[simp] theorem modForm_txns (f : Nat) (g : Form → Form) : (modForm s f g).txns = s.txns := rfl
@[simp] theorem modForm_heirs (f : Nat) (g : Form → Form) : (modForm s f g).heirs = s.heirs := rfl
@[simp] theorem modForm_nextSerial (f : Nat) (g : Form → Form) : (modForm s f g).nextSerial = s.nextSerial := rfl
@[simp] theorem modForm_launches (f : Nat) (g : Form → Form) : (modForm s f g).launches = s.launches := rfl
@[simp] theorem modForm_nextLaunch (f : Nat) (g : Form → Form) : (modForm s f g).nextLaunch = s.nextLaunch := rfl
@[simp] theorem modForm_lastOf (f : Nat) (g : Form → Form) : (modForm s f g).lastOf = s.lastOf := rfl
@[simp] theorem modForm_forms (f : Nat) (g : Form → Form) : (modForm s f g).forms = tblMod f g s.forms := rfl
@[simp] theorem modForm_saves (f : Nat) (g : Form → Form) : (modForm s f g).saves = s.saves := rfl
@[simp] theorem modForm_unusable (f : Nat) (g : Form → Form) : (modForm s f g).unusable = s.unusable := rfl
@[simp] theorem modForm_sticking (f : Nat) (g : Form → Form) : (modForm s f g).sticking = s.sticking := rfl
@[simp] theorem modForm_halts (f : Nat) (g : Form → Form) : (modForm s f g).halts = s.halts := rfl
@[simp] theorem modForm_breaks (f : Nat) (g : Form → Form) : (modForm s f g).breaks = s.breaks := rfl
@[simp] theorem modForm_queues (f : Nat) (g : Form → Form) : (modForm s f g).queues = s.queues := rfl
@[simp] theorem modForm_outbox (f : Nat) (g : Form → Form) : (modForm s f g).outbox = s.outbox := rfl
@[simp] theorem modForm_mac (f : Nat) (g : Form → Form) : (modForm s f g).mac = s.mac := rfl
@[simp] theorem modForm_binds (f : Nat) (g : Form → Form) : (modForm s f g).binds = s.binds := rfl
@[simp] theorem modForm_windows (f : Nat) (g : Form → Form) : (modForm s f g).windows = s.windows := rfl
@[simp] theorem modForm_ports (f : Nat) (g : Form → Form) : (modForm s f g).ports = s.ports := rfl
@[simp] theorem modForm_sent (f : Nat) (g : Form → Form) : (modForm s f g).sent = s.sent := rfl
@[simp] theorem modForm_inbox (f : Nat) (g : Form → Form) : (modForm s f g).inbox = s.inbox := rfl
@[simp] theorem modForm_requests (f : Nat) (g : Form → Form) : (modForm s f g).requests = s.requests := rfl
@[simp] theorem modForm_nextTag (f : Nat) (g : Form → Form) : (modForm s f g).nextTag = s.nextTag := rfl
@[simp] theorem modForm_routes (f : Nat) (g : Form → Form) : (modForm s f g).routes = s.routes := rfl
@[simp] theorem modForm_power (f : Nat) (g : Form → Form) : (modForm s f g).power = s.power := rfl
@[simp] theorem modForm_levels (f : Nat) (g : Form → Form) : (modForm s f g).levels = s.levels := rfl
@[simp] theorem modForm_stackWin (f : Nat) (g : Form → Form) : (modForm s f g).stackWin = s.stackWin := rfl
@[simp] theorem modForm_limited (f : Nat) (g : Form → Form) : (modForm s f g).limited = s.limited := rfl
@[simp] theorem modForm_timeStatus (f : Nat) (g : Form → Form) : (modForm s f g).timeStatus = s.timeStatus := rfl
@[simp] theorem modForm_leads (f : Nat) (g : Form → Form) : (modForm s f g).leads = s.leads := rfl
@[simp] theorem modForm_ptpPorts (f : Nat) (g : Form → Form) : (modForm s f g).ptpPorts = s.ptpPorts := rfl
@[simp] theorem modForm_ptpOut (f : Nat) (g : Form → Form) : (modForm s f g).ptpOut = s.ptpOut := rfl
@[simp] theorem modForm_slew (f : Nat) (g : Form → Form) : (modForm s f g).slew = s.slew := rfl
@[simp] theorem modForm_fw (f : Nat) (g : Form → Form) : (modForm s f g).fw = s.fw := rfl
@[simp] theorem modForm_agenda (f : Nat) (g : Form → Form) : (modForm s f g).agenda = s.agenda := rfl
@[simp] theorem modForm_free (f : Nat) (g : Form → Form) : (modForm s f g).free = s.free := rfl
@[simp] theorem modForm_cur (f : Nat) (g : Form → Form) : (modForm s f g).cur = s.cur := rfl

/-! A node is changed. -/

@[simp] theorem putNode_now (f n : Nat) (g : Node → Node) : (putNode s f n g).now = s.now := rfl
@[simp] theorem putNode_tenths (f n : Nat) (g : Node → Node) : (putNode s f n g).tenths = s.tenths := rfl
@[simp] theorem putNode_cells (f n : Nat) (g : Node → Node) : (putNode s f n g).cells = s.cells := rfl
@[simp] theorem putNode_full (f n : Nat) (g : Node → Node) : (putNode s f n g).full = s.full := rfl
@[simp] theorem putNode_marks (f n : Nat) (g : Node → Node) : (putNode s f n g).marks = s.marks := rfl
@[simp] theorem putNode_errs (f n : Nat) (g : Node → Node) : (putNode s f n g).errs = s.errs := rfl
@[simp] theorem putNode_flashBad (f n : Nat) (g : Node → Node) : (putNode s f n g).flashBad = s.flashBad := rfl
@[simp] theorem putNode_tagEmpty (f n : Nat) (g : Node → Node) : (putNode s f n g).tagEmpty = s.tagEmpty := rfl
@[simp] theorem putNode_wordWaits (f n : Nat) (g : Node → Node) : (putNode s f n g).wordWaits = s.wordWaits := rfl
@[simp] theorem putNode_ovfChecks (f n : Nat) (g : Node → Node) : (putNode s f n g).ovfChecks = s.ovfChecks := rfl
@[simp] theorem putNode_struck (f n : Nat) (g : Node → Node) : (putNode s f n g).struck = s.struck := rfl
@[simp] theorem putNode_copies (f n : Nat) (g : Node → Node) : (putNode s f n g).copies = s.copies := rfl
@[simp] theorem putNode_fills (f n : Nat) (g : Node → Node) : (putNode s f n g).fills = s.fills := rfl
@[simp] theorem putNode_invals (f n : Nat) (g : Node → Node) : (putNode s f n g).invals = s.invals := rfl
@[simp] theorem putNode_nextInval (f n : Nat) (g : Node → Node) : (putNode s f n g).nextInval = s.nextInval := rfl
@[simp] theorem putNode_parts (f n : Nat) (g : Node → Node) : (putNode s f n g).parts = s.parts := rfl
@[simp] theorem putNode_ctxs (f n : Nat) (g : Node → Node) : (putNode s f n g).ctxs = s.ctxs := rfl
@[simp] theorem putNode_threads (f n : Nat) (g : Node → Node) : (putNode s f n g).threads = s.threads := rfl
@[simp] theorem putNode_clusters (f n : Nat) (g : Node → Node) : (putNode s f n g).clusters = s.clusters := rfl
@[simp] theorem putNode_sets (f n : Nat) (g : Node → Node) : (putNode s f n g).sets = s.sets := rfl
@[simp] theorem putNode_seqCells (f n : Nat) (g : Node → Node) : (putNode s f n g).seqCells = s.seqCells := rfl
@[simp] theorem putNode_lockTensors (f n : Nat) (g : Node → Node) : (putNode s f n g).lockTensors = s.lockTensors := rfl
@[simp] theorem putNode_lockItems (f n : Nat) (g : Node → Node) : (putNode s f n g).lockItems = s.lockItems := rfl
@[simp] theorem putNode_txns (f n : Nat) (g : Node → Node) : (putNode s f n g).txns = s.txns := rfl
@[simp] theorem putNode_heirs (f n : Nat) (g : Node → Node) : (putNode s f n g).heirs = s.heirs := rfl
@[simp] theorem putNode_nextSerial (f n : Nat) (g : Node → Node) : (putNode s f n g).nextSerial = s.nextSerial := rfl
@[simp] theorem putNode_launches (f n : Nat) (g : Node → Node) : (putNode s f n g).launches = s.launches := rfl
@[simp] theorem putNode_nextLaunch (f n : Nat) (g : Node → Node) : (putNode s f n g).nextLaunch = s.nextLaunch := rfl
@[simp] theorem putNode_lastOf (f n : Nat) (g : Node → Node) : (putNode s f n g).lastOf = s.lastOf := rfl
@[simp] theorem putNode_forms (f n : Nat) (g : Node → Node) : (putNode s f n g).forms = tblMod f (fun fm => modNode fm n g) s.forms := rfl
@[simp] theorem putNode_saves (f n : Nat) (g : Node → Node) : (putNode s f n g).saves = s.saves := rfl
@[simp] theorem putNode_unusable (f n : Nat) (g : Node → Node) : (putNode s f n g).unusable = s.unusable := rfl
@[simp] theorem putNode_sticking (f n : Nat) (g : Node → Node) : (putNode s f n g).sticking = s.sticking := rfl
@[simp] theorem putNode_halts (f n : Nat) (g : Node → Node) : (putNode s f n g).halts = s.halts := rfl
@[simp] theorem putNode_breaks (f n : Nat) (g : Node → Node) : (putNode s f n g).breaks = s.breaks := rfl
@[simp] theorem putNode_queues (f n : Nat) (g : Node → Node) : (putNode s f n g).queues = s.queues := rfl
@[simp] theorem putNode_outbox (f n : Nat) (g : Node → Node) : (putNode s f n g).outbox = s.outbox := rfl
@[simp] theorem putNode_mac (f n : Nat) (g : Node → Node) : (putNode s f n g).mac = s.mac := rfl
@[simp] theorem putNode_binds (f n : Nat) (g : Node → Node) : (putNode s f n g).binds = s.binds := rfl
@[simp] theorem putNode_windows (f n : Nat) (g : Node → Node) : (putNode s f n g).windows = s.windows := rfl
@[simp] theorem putNode_ports (f n : Nat) (g : Node → Node) : (putNode s f n g).ports = s.ports := rfl
@[simp] theorem putNode_sent (f n : Nat) (g : Node → Node) : (putNode s f n g).sent = s.sent := rfl
@[simp] theorem putNode_inbox (f n : Nat) (g : Node → Node) : (putNode s f n g).inbox = s.inbox := rfl
@[simp] theorem putNode_requests (f n : Nat) (g : Node → Node) : (putNode s f n g).requests = s.requests := rfl
@[simp] theorem putNode_nextTag (f n : Nat) (g : Node → Node) : (putNode s f n g).nextTag = s.nextTag := rfl
@[simp] theorem putNode_routes (f n : Nat) (g : Node → Node) : (putNode s f n g).routes = s.routes := rfl
@[simp] theorem putNode_power (f n : Nat) (g : Node → Node) : (putNode s f n g).power = s.power := rfl
@[simp] theorem putNode_levels (f n : Nat) (g : Node → Node) : (putNode s f n g).levels = s.levels := rfl
@[simp] theorem putNode_stackWin (f n : Nat) (g : Node → Node) : (putNode s f n g).stackWin = s.stackWin := rfl
@[simp] theorem putNode_limited (f n : Nat) (g : Node → Node) : (putNode s f n g).limited = s.limited := rfl
@[simp] theorem putNode_timeStatus (f n : Nat) (g : Node → Node) : (putNode s f n g).timeStatus = s.timeStatus := rfl
@[simp] theorem putNode_leads (f n : Nat) (g : Node → Node) : (putNode s f n g).leads = s.leads := rfl
@[simp] theorem putNode_ptpPorts (f n : Nat) (g : Node → Node) : (putNode s f n g).ptpPorts = s.ptpPorts := rfl
@[simp] theorem putNode_ptpOut (f n : Nat) (g : Node → Node) : (putNode s f n g).ptpOut = s.ptpOut := rfl
@[simp] theorem putNode_slew (f n : Nat) (g : Node → Node) : (putNode s f n g).slew = s.slew := rfl
@[simp] theorem putNode_fw (f n : Nat) (g : Node → Node) : (putNode s f n g).fw = s.fw := rfl
@[simp] theorem putNode_agenda (f n : Nat) (g : Node → Node) : (putNode s f n g).agenda = s.agenda := rfl
@[simp] theorem putNode_free (f n : Nat) (g : Node → Node) : (putNode s f n g).free = s.free := rfl
@[simp] theorem putNode_cur (f n : Nat) (g : Node → Node) : (putNode s f n g).cur = s.cur := rfl

/-! A launch is changed. -/

@[simp] theorem modLaunch_now (n : Nat) (f : Launch → Launch) : (modLaunch s n f).now = s.now := rfl
@[simp] theorem modLaunch_tenths (n : Nat) (f : Launch → Launch) : (modLaunch s n f).tenths = s.tenths := rfl
@[simp] theorem modLaunch_cells (n : Nat) (f : Launch → Launch) : (modLaunch s n f).cells = s.cells := rfl
@[simp] theorem modLaunch_full (n : Nat) (f : Launch → Launch) : (modLaunch s n f).full = s.full := rfl
@[simp] theorem modLaunch_marks (n : Nat) (f : Launch → Launch) : (modLaunch s n f).marks = s.marks := rfl
@[simp] theorem modLaunch_errs (n : Nat) (f : Launch → Launch) : (modLaunch s n f).errs = s.errs := rfl
@[simp] theorem modLaunch_flashBad (n : Nat) (f : Launch → Launch) : (modLaunch s n f).flashBad = s.flashBad := rfl
@[simp] theorem modLaunch_tagEmpty (n : Nat) (f : Launch → Launch) : (modLaunch s n f).tagEmpty = s.tagEmpty := rfl
@[simp] theorem modLaunch_wordWaits (n : Nat) (f : Launch → Launch) : (modLaunch s n f).wordWaits = s.wordWaits := rfl
@[simp] theorem modLaunch_ovfChecks (n : Nat) (f : Launch → Launch) : (modLaunch s n f).ovfChecks = s.ovfChecks := rfl
@[simp] theorem modLaunch_struck (n : Nat) (f : Launch → Launch) : (modLaunch s n f).struck = s.struck := rfl
@[simp] theorem modLaunch_copies (n : Nat) (f : Launch → Launch) : (modLaunch s n f).copies = s.copies := rfl
@[simp] theorem modLaunch_fills (n : Nat) (f : Launch → Launch) : (modLaunch s n f).fills = s.fills := rfl
@[simp] theorem modLaunch_invals (n : Nat) (f : Launch → Launch) : (modLaunch s n f).invals = s.invals := rfl
@[simp] theorem modLaunch_nextInval (n : Nat) (f : Launch → Launch) : (modLaunch s n f).nextInval = s.nextInval := rfl
@[simp] theorem modLaunch_parts (n : Nat) (f : Launch → Launch) : (modLaunch s n f).parts = s.parts := rfl
@[simp] theorem modLaunch_ctxs (n : Nat) (f : Launch → Launch) : (modLaunch s n f).ctxs = s.ctxs := rfl
@[simp] theorem modLaunch_threads (n : Nat) (f : Launch → Launch) : (modLaunch s n f).threads = s.threads := rfl
@[simp] theorem modLaunch_clusters (n : Nat) (f : Launch → Launch) : (modLaunch s n f).clusters = s.clusters := rfl
@[simp] theorem modLaunch_sets (n : Nat) (f : Launch → Launch) : (modLaunch s n f).sets = s.sets := rfl
@[simp] theorem modLaunch_seqCells (n : Nat) (f : Launch → Launch) : (modLaunch s n f).seqCells = s.seqCells := rfl
@[simp] theorem modLaunch_lockTensors (n : Nat) (f : Launch → Launch) : (modLaunch s n f).lockTensors = s.lockTensors := rfl
@[simp] theorem modLaunch_lockItems (n : Nat) (f : Launch → Launch) : (modLaunch s n f).lockItems = s.lockItems := rfl
@[simp] theorem modLaunch_txns (n : Nat) (f : Launch → Launch) : (modLaunch s n f).txns = s.txns := rfl
@[simp] theorem modLaunch_heirs (n : Nat) (f : Launch → Launch) : (modLaunch s n f).heirs = s.heirs := rfl
@[simp] theorem modLaunch_nextSerial (n : Nat) (f : Launch → Launch) : (modLaunch s n f).nextSerial = s.nextSerial := rfl
@[simp] theorem modLaunch_launches (n : Nat) (f : Launch → Launch) : (modLaunch s n f).launches = tblMod n f s.launches := rfl
@[simp] theorem modLaunch_nextLaunch (n : Nat) (f : Launch → Launch) : (modLaunch s n f).nextLaunch = s.nextLaunch := rfl
@[simp] theorem modLaunch_lastOf (n : Nat) (f : Launch → Launch) : (modLaunch s n f).lastOf = s.lastOf := rfl
@[simp] theorem modLaunch_forms (n : Nat) (f : Launch → Launch) : (modLaunch s n f).forms = s.forms := rfl
@[simp] theorem modLaunch_saves (n : Nat) (f : Launch → Launch) : (modLaunch s n f).saves = s.saves := rfl
@[simp] theorem modLaunch_unusable (n : Nat) (f : Launch → Launch) : (modLaunch s n f).unusable = s.unusable := rfl
@[simp] theorem modLaunch_sticking (n : Nat) (f : Launch → Launch) : (modLaunch s n f).sticking = s.sticking := rfl
@[simp] theorem modLaunch_halts (n : Nat) (f : Launch → Launch) : (modLaunch s n f).halts = s.halts := rfl
@[simp] theorem modLaunch_breaks (n : Nat) (f : Launch → Launch) : (modLaunch s n f).breaks = s.breaks := rfl
@[simp] theorem modLaunch_queues (n : Nat) (f : Launch → Launch) : (modLaunch s n f).queues = s.queues := rfl
@[simp] theorem modLaunch_outbox (n : Nat) (f : Launch → Launch) : (modLaunch s n f).outbox = s.outbox := rfl
@[simp] theorem modLaunch_mac (n : Nat) (f : Launch → Launch) : (modLaunch s n f).mac = s.mac := rfl
@[simp] theorem modLaunch_binds (n : Nat) (f : Launch → Launch) : (modLaunch s n f).binds = s.binds := rfl
@[simp] theorem modLaunch_windows (n : Nat) (f : Launch → Launch) : (modLaunch s n f).windows = s.windows := rfl
@[simp] theorem modLaunch_ports (n : Nat) (f : Launch → Launch) : (modLaunch s n f).ports = s.ports := rfl
@[simp] theorem modLaunch_sent (n : Nat) (f : Launch → Launch) : (modLaunch s n f).sent = s.sent := rfl
@[simp] theorem modLaunch_inbox (n : Nat) (f : Launch → Launch) : (modLaunch s n f).inbox = s.inbox := rfl
@[simp] theorem modLaunch_requests (n : Nat) (f : Launch → Launch) : (modLaunch s n f).requests = s.requests := rfl
@[simp] theorem modLaunch_nextTag (n : Nat) (f : Launch → Launch) : (modLaunch s n f).nextTag = s.nextTag := rfl
@[simp] theorem modLaunch_routes (n : Nat) (f : Launch → Launch) : (modLaunch s n f).routes = s.routes := rfl
@[simp] theorem modLaunch_power (n : Nat) (f : Launch → Launch) : (modLaunch s n f).power = s.power := rfl
@[simp] theorem modLaunch_levels (n : Nat) (f : Launch → Launch) : (modLaunch s n f).levels = s.levels := rfl
@[simp] theorem modLaunch_stackWin (n : Nat) (f : Launch → Launch) : (modLaunch s n f).stackWin = s.stackWin := rfl
@[simp] theorem modLaunch_limited (n : Nat) (f : Launch → Launch) : (modLaunch s n f).limited = s.limited := rfl
@[simp] theorem modLaunch_timeStatus (n : Nat) (f : Launch → Launch) : (modLaunch s n f).timeStatus = s.timeStatus := rfl
@[simp] theorem modLaunch_leads (n : Nat) (f : Launch → Launch) : (modLaunch s n f).leads = s.leads := rfl
@[simp] theorem modLaunch_ptpPorts (n : Nat) (f : Launch → Launch) : (modLaunch s n f).ptpPorts = s.ptpPorts := rfl
@[simp] theorem modLaunch_ptpOut (n : Nat) (f : Launch → Launch) : (modLaunch s n f).ptpOut = s.ptpOut := rfl
@[simp] theorem modLaunch_slew (n : Nat) (f : Launch → Launch) : (modLaunch s n f).slew = s.slew := rfl
@[simp] theorem modLaunch_fw (n : Nat) (f : Launch → Launch) : (modLaunch s n f).fw = s.fw := rfl
@[simp] theorem modLaunch_agenda (n : Nat) (f : Launch → Launch) : (modLaunch s n f).agenda = s.agenda := rfl
@[simp] theorem modLaunch_free (n : Nat) (f : Launch → Launch) : (modLaunch s n f).free = s.free := rfl
@[simp] theorem modLaunch_cur (n : Nat) (f : Launch → Launch) : (modLaunch s n f).cur = s.cur := rfl

/-! A fill is changed. -/

@[simp] theorem setFill_now (x p : Nat) (g : Fill → Fill) : (setFill s x p g).now = s.now := rfl
@[simp] theorem setFill_tenths (x p : Nat) (g : Fill → Fill) : (setFill s x p g).tenths = s.tenths := rfl
@[simp] theorem setFill_cells (x p : Nat) (g : Fill → Fill) : (setFill s x p g).cells = s.cells := rfl
@[simp] theorem setFill_full (x p : Nat) (g : Fill → Fill) : (setFill s x p g).full = s.full := rfl
@[simp] theorem setFill_marks (x p : Nat) (g : Fill → Fill) : (setFill s x p g).marks = s.marks := rfl
@[simp] theorem setFill_errs (x p : Nat) (g : Fill → Fill) : (setFill s x p g).errs = s.errs := rfl
@[simp] theorem setFill_flashBad (x p : Nat) (g : Fill → Fill) : (setFill s x p g).flashBad = s.flashBad := rfl
@[simp] theorem setFill_tagEmpty (x p : Nat) (g : Fill → Fill) : (setFill s x p g).tagEmpty = s.tagEmpty := rfl
@[simp] theorem setFill_wordWaits (x p : Nat) (g : Fill → Fill) : (setFill s x p g).wordWaits = s.wordWaits := rfl
@[simp] theorem setFill_ovfChecks (x p : Nat) (g : Fill → Fill) : (setFill s x p g).ovfChecks = s.ovfChecks := rfl
@[simp] theorem setFill_struck (x p : Nat) (g : Fill → Fill) : (setFill s x p g).struck = s.struck := rfl
@[simp] theorem setFill_copies (x p : Nat) (g : Fill → Fill) : (setFill s x p g).copies = s.copies := rfl
@[simp] theorem setFill_fills (x p : Nat) (g : Fill → Fill) : (setFill s x p g).fills = tblMod (fillKey x p) g s.fills := rfl
@[simp] theorem setFill_invals (x p : Nat) (g : Fill → Fill) : (setFill s x p g).invals = s.invals := rfl
@[simp] theorem setFill_nextInval (x p : Nat) (g : Fill → Fill) : (setFill s x p g).nextInval = s.nextInval := rfl
@[simp] theorem setFill_parts (x p : Nat) (g : Fill → Fill) : (setFill s x p g).parts = s.parts := rfl
@[simp] theorem setFill_ctxs (x p : Nat) (g : Fill → Fill) : (setFill s x p g).ctxs = s.ctxs := rfl
@[simp] theorem setFill_threads (x p : Nat) (g : Fill → Fill) : (setFill s x p g).threads = s.threads := rfl
@[simp] theorem setFill_clusters (x p : Nat) (g : Fill → Fill) : (setFill s x p g).clusters = s.clusters := rfl
@[simp] theorem setFill_sets (x p : Nat) (g : Fill → Fill) : (setFill s x p g).sets = s.sets := rfl
@[simp] theorem setFill_seqCells (x p : Nat) (g : Fill → Fill) : (setFill s x p g).seqCells = s.seqCells := rfl
@[simp] theorem setFill_lockTensors (x p : Nat) (g : Fill → Fill) : (setFill s x p g).lockTensors = s.lockTensors := rfl
@[simp] theorem setFill_lockItems (x p : Nat) (g : Fill → Fill) : (setFill s x p g).lockItems = s.lockItems := rfl
@[simp] theorem setFill_txns (x p : Nat) (g : Fill → Fill) : (setFill s x p g).txns = s.txns := rfl
@[simp] theorem setFill_heirs (x p : Nat) (g : Fill → Fill) : (setFill s x p g).heirs = s.heirs := rfl
@[simp] theorem setFill_nextSerial (x p : Nat) (g : Fill → Fill) : (setFill s x p g).nextSerial = s.nextSerial := rfl
@[simp] theorem setFill_launches (x p : Nat) (g : Fill → Fill) : (setFill s x p g).launches = s.launches := rfl
@[simp] theorem setFill_nextLaunch (x p : Nat) (g : Fill → Fill) : (setFill s x p g).nextLaunch = s.nextLaunch := rfl
@[simp] theorem setFill_lastOf (x p : Nat) (g : Fill → Fill) : (setFill s x p g).lastOf = s.lastOf := rfl
@[simp] theorem setFill_forms (x p : Nat) (g : Fill → Fill) : (setFill s x p g).forms = s.forms := rfl
@[simp] theorem setFill_saves (x p : Nat) (g : Fill → Fill) : (setFill s x p g).saves = s.saves := rfl
@[simp] theorem setFill_unusable (x p : Nat) (g : Fill → Fill) : (setFill s x p g).unusable = s.unusable := rfl
@[simp] theorem setFill_sticking (x p : Nat) (g : Fill → Fill) : (setFill s x p g).sticking = s.sticking := rfl
@[simp] theorem setFill_halts (x p : Nat) (g : Fill → Fill) : (setFill s x p g).halts = s.halts := rfl
@[simp] theorem setFill_breaks (x p : Nat) (g : Fill → Fill) : (setFill s x p g).breaks = s.breaks := rfl
@[simp] theorem setFill_queues (x p : Nat) (g : Fill → Fill) : (setFill s x p g).queues = s.queues := rfl
@[simp] theorem setFill_outbox (x p : Nat) (g : Fill → Fill) : (setFill s x p g).outbox = s.outbox := rfl
@[simp] theorem setFill_mac (x p : Nat) (g : Fill → Fill) : (setFill s x p g).mac = s.mac := rfl
@[simp] theorem setFill_binds (x p : Nat) (g : Fill → Fill) : (setFill s x p g).binds = s.binds := rfl
@[simp] theorem setFill_windows (x p : Nat) (g : Fill → Fill) : (setFill s x p g).windows = s.windows := rfl
@[simp] theorem setFill_ports (x p : Nat) (g : Fill → Fill) : (setFill s x p g).ports = s.ports := rfl
@[simp] theorem setFill_sent (x p : Nat) (g : Fill → Fill) : (setFill s x p g).sent = s.sent := rfl
@[simp] theorem setFill_inbox (x p : Nat) (g : Fill → Fill) : (setFill s x p g).inbox = s.inbox := rfl
@[simp] theorem setFill_requests (x p : Nat) (g : Fill → Fill) : (setFill s x p g).requests = s.requests := rfl
@[simp] theorem setFill_nextTag (x p : Nat) (g : Fill → Fill) : (setFill s x p g).nextTag = s.nextTag := rfl
@[simp] theorem setFill_routes (x p : Nat) (g : Fill → Fill) : (setFill s x p g).routes = s.routes := rfl
@[simp] theorem setFill_power (x p : Nat) (g : Fill → Fill) : (setFill s x p g).power = s.power := rfl
@[simp] theorem setFill_levels (x p : Nat) (g : Fill → Fill) : (setFill s x p g).levels = s.levels := rfl
@[simp] theorem setFill_stackWin (x p : Nat) (g : Fill → Fill) : (setFill s x p g).stackWin = s.stackWin := rfl
@[simp] theorem setFill_limited (x p : Nat) (g : Fill → Fill) : (setFill s x p g).limited = s.limited := rfl
@[simp] theorem setFill_timeStatus (x p : Nat) (g : Fill → Fill) : (setFill s x p g).timeStatus = s.timeStatus := rfl
@[simp] theorem setFill_leads (x p : Nat) (g : Fill → Fill) : (setFill s x p g).leads = s.leads := rfl
@[simp] theorem setFill_ptpPorts (x p : Nat) (g : Fill → Fill) : (setFill s x p g).ptpPorts = s.ptpPorts := rfl
@[simp] theorem setFill_ptpOut (x p : Nat) (g : Fill → Fill) : (setFill s x p g).ptpOut = s.ptpOut := rfl
@[simp] theorem setFill_slew (x p : Nat) (g : Fill → Fill) : (setFill s x p g).slew = s.slew := rfl
@[simp] theorem setFill_fw (x p : Nat) (g : Fill → Fill) : (setFill s x p g).fw = s.fw := rfl
@[simp] theorem setFill_agenda (x p : Nat) (g : Fill → Fill) : (setFill s x p g).agenda = s.agenda := rfl
@[simp] theorem setFill_free (x p : Nat) (g : Fill → Fill) : (setFill s x p g).free = s.free := rfl
@[simp] theorem setFill_cur (x p : Nat) (g : Fill → Fill) : (setFill s x p g).cur = s.cur := rfl

/-! A sequence cell is stored. -/

@[simp] theorem putSeqCell_now (c : Nat) (q : SeqCell) : (putSeqCell s c q).now = s.now := rfl
@[simp] theorem putSeqCell_tenths (c : Nat) (q : SeqCell) : (putSeqCell s c q).tenths = s.tenths := rfl
@[simp] theorem putSeqCell_cells (c : Nat) (q : SeqCell) : (putSeqCell s c q).cells = s.cells := rfl
@[simp] theorem putSeqCell_full (c : Nat) (q : SeqCell) : (putSeqCell s c q).full = s.full := rfl
@[simp] theorem putSeqCell_marks (c : Nat) (q : SeqCell) : (putSeqCell s c q).marks = s.marks := rfl
@[simp] theorem putSeqCell_errs (c : Nat) (q : SeqCell) : (putSeqCell s c q).errs = s.errs := rfl
@[simp] theorem putSeqCell_flashBad (c : Nat) (q : SeqCell) : (putSeqCell s c q).flashBad = s.flashBad := rfl
@[simp] theorem putSeqCell_tagEmpty (c : Nat) (q : SeqCell) : (putSeqCell s c q).tagEmpty = s.tagEmpty := rfl
@[simp] theorem putSeqCell_wordWaits (c : Nat) (q : SeqCell) : (putSeqCell s c q).wordWaits = s.wordWaits := rfl
@[simp] theorem putSeqCell_ovfChecks (c : Nat) (q : SeqCell) : (putSeqCell s c q).ovfChecks = s.ovfChecks := rfl
@[simp] theorem putSeqCell_struck (c : Nat) (q : SeqCell) : (putSeqCell s c q).struck = s.struck := rfl
@[simp] theorem putSeqCell_copies (c : Nat) (q : SeqCell) : (putSeqCell s c q).copies = s.copies := rfl
@[simp] theorem putSeqCell_fills (c : Nat) (q : SeqCell) : (putSeqCell s c q).fills = s.fills := rfl
@[simp] theorem putSeqCell_invals (c : Nat) (q : SeqCell) : (putSeqCell s c q).invals = s.invals := rfl
@[simp] theorem putSeqCell_nextInval (c : Nat) (q : SeqCell) : (putSeqCell s c q).nextInval = s.nextInval := rfl
@[simp] theorem putSeqCell_parts (c : Nat) (q : SeqCell) : (putSeqCell s c q).parts = s.parts := rfl
@[simp] theorem putSeqCell_ctxs (c : Nat) (q : SeqCell) : (putSeqCell s c q).ctxs = s.ctxs := rfl
@[simp] theorem putSeqCell_threads (c : Nat) (q : SeqCell) : (putSeqCell s c q).threads = s.threads := rfl
@[simp] theorem putSeqCell_clusters (c : Nat) (q : SeqCell) : (putSeqCell s c q).clusters = s.clusters := rfl
@[simp] theorem putSeqCell_sets (c : Nat) (q : SeqCell) : (putSeqCell s c q).sets = s.sets := rfl
@[simp] theorem putSeqCell_seqCells (c : Nat) (q : SeqCell) : (putSeqCell s c q).seqCells = if q.slots.isEmpty && !q.reported then tblDel c s.seqCells else tblSet c q s.seqCells := rfl
@[simp] theorem putSeqCell_lockTensors (c : Nat) (q : SeqCell) : (putSeqCell s c q).lockTensors = s.lockTensors := rfl
@[simp] theorem putSeqCell_lockItems (c : Nat) (q : SeqCell) : (putSeqCell s c q).lockItems = s.lockItems := rfl
@[simp] theorem putSeqCell_txns (c : Nat) (q : SeqCell) : (putSeqCell s c q).txns = s.txns := rfl
@[simp] theorem putSeqCell_heirs (c : Nat) (q : SeqCell) : (putSeqCell s c q).heirs = s.heirs := rfl
@[simp] theorem putSeqCell_nextSerial (c : Nat) (q : SeqCell) : (putSeqCell s c q).nextSerial = s.nextSerial := rfl
@[simp] theorem putSeqCell_launches (c : Nat) (q : SeqCell) : (putSeqCell s c q).launches = s.launches := rfl
@[simp] theorem putSeqCell_nextLaunch (c : Nat) (q : SeqCell) : (putSeqCell s c q).nextLaunch = s.nextLaunch := rfl
@[simp] theorem putSeqCell_lastOf (c : Nat) (q : SeqCell) : (putSeqCell s c q).lastOf = s.lastOf := rfl
@[simp] theorem putSeqCell_forms (c : Nat) (q : SeqCell) : (putSeqCell s c q).forms = s.forms := rfl
@[simp] theorem putSeqCell_saves (c : Nat) (q : SeqCell) : (putSeqCell s c q).saves = s.saves := rfl
@[simp] theorem putSeqCell_unusable (c : Nat) (q : SeqCell) : (putSeqCell s c q).unusable = s.unusable := rfl
@[simp] theorem putSeqCell_sticking (c : Nat) (q : SeqCell) : (putSeqCell s c q).sticking = s.sticking := rfl
@[simp] theorem putSeqCell_halts (c : Nat) (q : SeqCell) : (putSeqCell s c q).halts = s.halts := rfl
@[simp] theorem putSeqCell_breaks (c : Nat) (q : SeqCell) : (putSeqCell s c q).breaks = s.breaks := rfl
@[simp] theorem putSeqCell_queues (c : Nat) (q : SeqCell) : (putSeqCell s c q).queues = s.queues := rfl
@[simp] theorem putSeqCell_outbox (c : Nat) (q : SeqCell) : (putSeqCell s c q).outbox = s.outbox := rfl
@[simp] theorem putSeqCell_mac (c : Nat) (q : SeqCell) : (putSeqCell s c q).mac = s.mac := rfl
@[simp] theorem putSeqCell_binds (c : Nat) (q : SeqCell) : (putSeqCell s c q).binds = s.binds := rfl
@[simp] theorem putSeqCell_windows (c : Nat) (q : SeqCell) : (putSeqCell s c q).windows = s.windows := rfl
@[simp] theorem putSeqCell_ports (c : Nat) (q : SeqCell) : (putSeqCell s c q).ports = s.ports := rfl
@[simp] theorem putSeqCell_sent (c : Nat) (q : SeqCell) : (putSeqCell s c q).sent = s.sent := rfl
@[simp] theorem putSeqCell_inbox (c : Nat) (q : SeqCell) : (putSeqCell s c q).inbox = s.inbox := rfl
@[simp] theorem putSeqCell_requests (c : Nat) (q : SeqCell) : (putSeqCell s c q).requests = s.requests := rfl
@[simp] theorem putSeqCell_nextTag (c : Nat) (q : SeqCell) : (putSeqCell s c q).nextTag = s.nextTag := rfl
@[simp] theorem putSeqCell_routes (c : Nat) (q : SeqCell) : (putSeqCell s c q).routes = s.routes := rfl
@[simp] theorem putSeqCell_power (c : Nat) (q : SeqCell) : (putSeqCell s c q).power = s.power := rfl
@[simp] theorem putSeqCell_levels (c : Nat) (q : SeqCell) : (putSeqCell s c q).levels = s.levels := rfl
@[simp] theorem putSeqCell_stackWin (c : Nat) (q : SeqCell) : (putSeqCell s c q).stackWin = s.stackWin := rfl
@[simp] theorem putSeqCell_limited (c : Nat) (q : SeqCell) : (putSeqCell s c q).limited = s.limited := rfl
@[simp] theorem putSeqCell_timeStatus (c : Nat) (q : SeqCell) : (putSeqCell s c q).timeStatus = s.timeStatus := rfl
@[simp] theorem putSeqCell_leads (c : Nat) (q : SeqCell) : (putSeqCell s c q).leads = s.leads := rfl
@[simp] theorem putSeqCell_ptpPorts (c : Nat) (q : SeqCell) : (putSeqCell s c q).ptpPorts = s.ptpPorts := rfl
@[simp] theorem putSeqCell_ptpOut (c : Nat) (q : SeqCell) : (putSeqCell s c q).ptpOut = s.ptpOut := rfl
@[simp] theorem putSeqCell_slew (c : Nat) (q : SeqCell) : (putSeqCell s c q).slew = s.slew := rfl
@[simp] theorem putSeqCell_fw (c : Nat) (q : SeqCell) : (putSeqCell s c q).fw = s.fw := rfl
@[simp] theorem putSeqCell_agenda (c : Nat) (q : SeqCell) : (putSeqCell s c q).agenda = s.agenda := rfl
@[simp] theorem putSeqCell_free (c : Nat) (q : SeqCell) : (putSeqCell s c q).free = s.free := rfl
@[simp] theorem putSeqCell_cur (c : Nat) (q : SeqCell) : (putSeqCell s c q).cur = s.cur := rfl

/-! A host queue is set. -/

@[simp] theorem putQueue_now (q : Nat) (h : HostQ) : (putQueue s q h).now = s.now := rfl
@[simp] theorem putQueue_tenths (q : Nat) (h : HostQ) : (putQueue s q h).tenths = s.tenths := rfl
@[simp] theorem putQueue_cells (q : Nat) (h : HostQ) : (putQueue s q h).cells = s.cells := rfl
@[simp] theorem putQueue_full (q : Nat) (h : HostQ) : (putQueue s q h).full = s.full := rfl
@[simp] theorem putQueue_marks (q : Nat) (h : HostQ) : (putQueue s q h).marks = s.marks := rfl
@[simp] theorem putQueue_errs (q : Nat) (h : HostQ) : (putQueue s q h).errs = s.errs := rfl
@[simp] theorem putQueue_flashBad (q : Nat) (h : HostQ) : (putQueue s q h).flashBad = s.flashBad := rfl
@[simp] theorem putQueue_tagEmpty (q : Nat) (h : HostQ) : (putQueue s q h).tagEmpty = s.tagEmpty := rfl
@[simp] theorem putQueue_wordWaits (q : Nat) (h : HostQ) : (putQueue s q h).wordWaits = s.wordWaits := rfl
@[simp] theorem putQueue_ovfChecks (q : Nat) (h : HostQ) : (putQueue s q h).ovfChecks = s.ovfChecks := rfl
@[simp] theorem putQueue_struck (q : Nat) (h : HostQ) : (putQueue s q h).struck = s.struck := rfl
@[simp] theorem putQueue_copies (q : Nat) (h : HostQ) : (putQueue s q h).copies = s.copies := rfl
@[simp] theorem putQueue_fills (q : Nat) (h : HostQ) : (putQueue s q h).fills = s.fills := rfl
@[simp] theorem putQueue_invals (q : Nat) (h : HostQ) : (putQueue s q h).invals = s.invals := rfl
@[simp] theorem putQueue_nextInval (q : Nat) (h : HostQ) : (putQueue s q h).nextInval = s.nextInval := rfl
@[simp] theorem putQueue_parts (q : Nat) (h : HostQ) : (putQueue s q h).parts = s.parts := rfl
@[simp] theorem putQueue_ctxs (q : Nat) (h : HostQ) : (putQueue s q h).ctxs = s.ctxs := rfl
@[simp] theorem putQueue_threads (q : Nat) (h : HostQ) : (putQueue s q h).threads = s.threads := rfl
@[simp] theorem putQueue_clusters (q : Nat) (h : HostQ) : (putQueue s q h).clusters = s.clusters := rfl
@[simp] theorem putQueue_sets (q : Nat) (h : HostQ) : (putQueue s q h).sets = s.sets := rfl
@[simp] theorem putQueue_seqCells (q : Nat) (h : HostQ) : (putQueue s q h).seqCells = s.seqCells := rfl
@[simp] theorem putQueue_lockTensors (q : Nat) (h : HostQ) : (putQueue s q h).lockTensors = s.lockTensors := rfl
@[simp] theorem putQueue_lockItems (q : Nat) (h : HostQ) : (putQueue s q h).lockItems = s.lockItems := rfl
@[simp] theorem putQueue_txns (q : Nat) (h : HostQ) : (putQueue s q h).txns = s.txns := rfl
@[simp] theorem putQueue_heirs (q : Nat) (h : HostQ) : (putQueue s q h).heirs = s.heirs := rfl
@[simp] theorem putQueue_nextSerial (q : Nat) (h : HostQ) : (putQueue s q h).nextSerial = s.nextSerial := rfl
@[simp] theorem putQueue_launches (q : Nat) (h : HostQ) : (putQueue s q h).launches = s.launches := rfl
@[simp] theorem putQueue_nextLaunch (q : Nat) (h : HostQ) : (putQueue s q h).nextLaunch = s.nextLaunch := rfl
@[simp] theorem putQueue_lastOf (q : Nat) (h : HostQ) : (putQueue s q h).lastOf = s.lastOf := rfl
@[simp] theorem putQueue_forms (q : Nat) (h : HostQ) : (putQueue s q h).forms = s.forms := rfl
@[simp] theorem putQueue_saves (q : Nat) (h : HostQ) : (putQueue s q h).saves = s.saves := rfl
@[simp] theorem putQueue_unusable (q : Nat) (h : HostQ) : (putQueue s q h).unusable = s.unusable := rfl
@[simp] theorem putQueue_sticking (q : Nat) (h : HostQ) : (putQueue s q h).sticking = s.sticking := rfl
@[simp] theorem putQueue_halts (q : Nat) (h : HostQ) : (putQueue s q h).halts = s.halts := rfl
@[simp] theorem putQueue_breaks (q : Nat) (h : HostQ) : (putQueue s q h).breaks = s.breaks := rfl
@[simp] theorem putQueue_queues (q : Nat) (h : HostQ) : (putQueue s q h).queues = tblSet q h s.queues := rfl
@[simp] theorem putQueue_outbox (q : Nat) (h : HostQ) : (putQueue s q h).outbox = s.outbox := rfl
@[simp] theorem putQueue_mac (q : Nat) (h : HostQ) : (putQueue s q h).mac = s.mac := rfl
@[simp] theorem putQueue_binds (q : Nat) (h : HostQ) : (putQueue s q h).binds = s.binds := rfl
@[simp] theorem putQueue_windows (q : Nat) (h : HostQ) : (putQueue s q h).windows = s.windows := rfl
@[simp] theorem putQueue_ports (q : Nat) (h : HostQ) : (putQueue s q h).ports = s.ports := rfl
@[simp] theorem putQueue_sent (q : Nat) (h : HostQ) : (putQueue s q h).sent = s.sent := rfl
@[simp] theorem putQueue_inbox (q : Nat) (h : HostQ) : (putQueue s q h).inbox = s.inbox := rfl
@[simp] theorem putQueue_requests (q : Nat) (h : HostQ) : (putQueue s q h).requests = s.requests := rfl
@[simp] theorem putQueue_nextTag (q : Nat) (h : HostQ) : (putQueue s q h).nextTag = s.nextTag := rfl
@[simp] theorem putQueue_routes (q : Nat) (h : HostQ) : (putQueue s q h).routes = s.routes := rfl
@[simp] theorem putQueue_power (q : Nat) (h : HostQ) : (putQueue s q h).power = s.power := rfl
@[simp] theorem putQueue_levels (q : Nat) (h : HostQ) : (putQueue s q h).levels = s.levels := rfl
@[simp] theorem putQueue_stackWin (q : Nat) (h : HostQ) : (putQueue s q h).stackWin = s.stackWin := rfl
@[simp] theorem putQueue_limited (q : Nat) (h : HostQ) : (putQueue s q h).limited = s.limited := rfl
@[simp] theorem putQueue_timeStatus (q : Nat) (h : HostQ) : (putQueue s q h).timeStatus = s.timeStatus := rfl
@[simp] theorem putQueue_leads (q : Nat) (h : HostQ) : (putQueue s q h).leads = s.leads := rfl
@[simp] theorem putQueue_ptpPorts (q : Nat) (h : HostQ) : (putQueue s q h).ptpPorts = s.ptpPorts := rfl
@[simp] theorem putQueue_ptpOut (q : Nat) (h : HostQ) : (putQueue s q h).ptpOut = s.ptpOut := rfl
@[simp] theorem putQueue_slew (q : Nat) (h : HostQ) : (putQueue s q h).slew = s.slew := rfl
@[simp] theorem putQueue_fw (q : Nat) (h : HostQ) : (putQueue s q h).fw = s.fw := rfl
@[simp] theorem putQueue_agenda (q : Nat) (h : HostQ) : (putQueue s q h).agenda = s.agenda := rfl
@[simp] theorem putQueue_free (q : Nat) (h : HostQ) : (putQueue s q h).free = s.free := rfl
@[simp] theorem putQueue_cur (q : Nat) (h : HostQ) : (putQueue s q h).cur = s.cur := rfl

/-! The power settings are changed. -/

@[simp] theorem modPower_now (f : Power → Power) : (modPower s f).now = s.now := rfl
@[simp] theorem modPower_tenths (f : Power → Power) : (modPower s f).tenths = s.tenths := rfl
@[simp] theorem modPower_cells (f : Power → Power) : (modPower s f).cells = s.cells := rfl
@[simp] theorem modPower_full (f : Power → Power) : (modPower s f).full = s.full := rfl
@[simp] theorem modPower_marks (f : Power → Power) : (modPower s f).marks = s.marks := rfl
@[simp] theorem modPower_errs (f : Power → Power) : (modPower s f).errs = s.errs := rfl
@[simp] theorem modPower_flashBad (f : Power → Power) : (modPower s f).flashBad = s.flashBad := rfl
@[simp] theorem modPower_tagEmpty (f : Power → Power) : (modPower s f).tagEmpty = s.tagEmpty := rfl
@[simp] theorem modPower_wordWaits (f : Power → Power) : (modPower s f).wordWaits = s.wordWaits := rfl
@[simp] theorem modPower_ovfChecks (f : Power → Power) : (modPower s f).ovfChecks = s.ovfChecks := rfl
@[simp] theorem modPower_struck (f : Power → Power) : (modPower s f).struck = s.struck := rfl
@[simp] theorem modPower_copies (f : Power → Power) : (modPower s f).copies = s.copies := rfl
@[simp] theorem modPower_fills (f : Power → Power) : (modPower s f).fills = s.fills := rfl
@[simp] theorem modPower_invals (f : Power → Power) : (modPower s f).invals = s.invals := rfl
@[simp] theorem modPower_nextInval (f : Power → Power) : (modPower s f).nextInval = s.nextInval := rfl
@[simp] theorem modPower_parts (f : Power → Power) : (modPower s f).parts = s.parts := rfl
@[simp] theorem modPower_ctxs (f : Power → Power) : (modPower s f).ctxs = s.ctxs := rfl
@[simp] theorem modPower_threads (f : Power → Power) : (modPower s f).threads = s.threads := rfl
@[simp] theorem modPower_clusters (f : Power → Power) : (modPower s f).clusters = s.clusters := rfl
@[simp] theorem modPower_sets (f : Power → Power) : (modPower s f).sets = s.sets := rfl
@[simp] theorem modPower_seqCells (f : Power → Power) : (modPower s f).seqCells = s.seqCells := rfl
@[simp] theorem modPower_lockTensors (f : Power → Power) : (modPower s f).lockTensors = s.lockTensors := rfl
@[simp] theorem modPower_lockItems (f : Power → Power) : (modPower s f).lockItems = s.lockItems := rfl
@[simp] theorem modPower_txns (f : Power → Power) : (modPower s f).txns = s.txns := rfl
@[simp] theorem modPower_heirs (f : Power → Power) : (modPower s f).heirs = s.heirs := rfl
@[simp] theorem modPower_nextSerial (f : Power → Power) : (modPower s f).nextSerial = s.nextSerial := rfl
@[simp] theorem modPower_launches (f : Power → Power) : (modPower s f).launches = s.launches := rfl
@[simp] theorem modPower_nextLaunch (f : Power → Power) : (modPower s f).nextLaunch = s.nextLaunch := rfl
@[simp] theorem modPower_lastOf (f : Power → Power) : (modPower s f).lastOf = s.lastOf := rfl
@[simp] theorem modPower_forms (f : Power → Power) : (modPower s f).forms = s.forms := rfl
@[simp] theorem modPower_saves (f : Power → Power) : (modPower s f).saves = s.saves := rfl
@[simp] theorem modPower_unusable (f : Power → Power) : (modPower s f).unusable = s.unusable := rfl
@[simp] theorem modPower_sticking (f : Power → Power) : (modPower s f).sticking = s.sticking := rfl
@[simp] theorem modPower_halts (f : Power → Power) : (modPower s f).halts = s.halts := rfl
@[simp] theorem modPower_breaks (f : Power → Power) : (modPower s f).breaks = s.breaks := rfl
@[simp] theorem modPower_queues (f : Power → Power) : (modPower s f).queues = s.queues := rfl
@[simp] theorem modPower_outbox (f : Power → Power) : (modPower s f).outbox = s.outbox := rfl
@[simp] theorem modPower_mac (f : Power → Power) : (modPower s f).mac = s.mac := rfl
@[simp] theorem modPower_binds (f : Power → Power) : (modPower s f).binds = s.binds := rfl
@[simp] theorem modPower_windows (f : Power → Power) : (modPower s f).windows = s.windows := rfl
@[simp] theorem modPower_ports (f : Power → Power) : (modPower s f).ports = s.ports := rfl
@[simp] theorem modPower_sent (f : Power → Power) : (modPower s f).sent = s.sent := rfl
@[simp] theorem modPower_inbox (f : Power → Power) : (modPower s f).inbox = s.inbox := rfl
@[simp] theorem modPower_requests (f : Power → Power) : (modPower s f).requests = s.requests := rfl
@[simp] theorem modPower_nextTag (f : Power → Power) : (modPower s f).nextTag = s.nextTag := rfl
@[simp] theorem modPower_routes (f : Power → Power) : (modPower s f).routes = s.routes := rfl
@[simp] theorem modPower_power (f : Power → Power) : (modPower s f).power = f s.power := rfl
@[simp] theorem modPower_levels (f : Power → Power) : (modPower s f).levels = s.levels := rfl
@[simp] theorem modPower_stackWin (f : Power → Power) : (modPower s f).stackWin = s.stackWin := rfl
@[simp] theorem modPower_limited (f : Power → Power) : (modPower s f).limited = s.limited := rfl
@[simp] theorem modPower_timeStatus (f : Power → Power) : (modPower s f).timeStatus = s.timeStatus := rfl
@[simp] theorem modPower_leads (f : Power → Power) : (modPower s f).leads = s.leads := rfl
@[simp] theorem modPower_ptpPorts (f : Power → Power) : (modPower s f).ptpPorts = s.ptpPorts := rfl
@[simp] theorem modPower_ptpOut (f : Power → Power) : (modPower s f).ptpOut = s.ptpOut := rfl
@[simp] theorem modPower_slew (f : Power → Power) : (modPower s f).slew = s.slew := rfl
@[simp] theorem modPower_fw (f : Power → Power) : (modPower s f).fw = s.fw := rfl
@[simp] theorem modPower_agenda (f : Power → Power) : (modPower s f).agenda = s.agenda := rfl
@[simp] theorem modPower_free (f : Power → Power) : (modPower s f).free = s.free := rfl
@[simp] theorem modPower_cur (f : Power → Power) : (modPower s f).cur = s.cur := rfl

/-! No agent is current. -/

@[simp] theorem settled_now : (settled s).now = s.now := rfl
@[simp] theorem settled_tenths : (settled s).tenths = s.tenths := rfl
@[simp] theorem settled_cells : (settled s).cells = s.cells := rfl
@[simp] theorem settled_full : (settled s).full = s.full := rfl
@[simp] theorem settled_marks : (settled s).marks = s.marks := rfl
@[simp] theorem settled_errs : (settled s).errs = s.errs := rfl
@[simp] theorem settled_flashBad : (settled s).flashBad = s.flashBad := rfl
@[simp] theorem settled_tagEmpty : (settled s).tagEmpty = s.tagEmpty := rfl
@[simp] theorem settled_wordWaits : (settled s).wordWaits = s.wordWaits := rfl
@[simp] theorem settled_ovfChecks : (settled s).ovfChecks = s.ovfChecks := rfl
@[simp] theorem settled_struck : (settled s).struck = s.struck := rfl
@[simp] theorem settled_copies : (settled s).copies = s.copies := rfl
@[simp] theorem settled_fills : (settled s).fills = s.fills := rfl
@[simp] theorem settled_invals : (settled s).invals = s.invals := rfl
@[simp] theorem settled_nextInval : (settled s).nextInval = s.nextInval := rfl
@[simp] theorem settled_parts : (settled s).parts = s.parts := rfl
@[simp] theorem settled_ctxs : (settled s).ctxs = s.ctxs := rfl
@[simp] theorem settled_threads : (settled s).threads = s.threads := rfl
@[simp] theorem settled_clusters : (settled s).clusters = s.clusters := rfl
@[simp] theorem settled_sets : (settled s).sets = s.sets := rfl
@[simp] theorem settled_seqCells : (settled s).seqCells = s.seqCells := rfl
@[simp] theorem settled_lockTensors : (settled s).lockTensors = s.lockTensors := rfl
@[simp] theorem settled_lockItems : (settled s).lockItems = s.lockItems := rfl
@[simp] theorem settled_txns : (settled s).txns = s.txns := rfl
@[simp] theorem settled_heirs : (settled s).heirs = s.heirs := rfl
@[simp] theorem settled_nextSerial : (settled s).nextSerial = s.nextSerial := rfl
@[simp] theorem settled_launches : (settled s).launches = s.launches := rfl
@[simp] theorem settled_nextLaunch : (settled s).nextLaunch = s.nextLaunch := rfl
@[simp] theorem settled_lastOf : (settled s).lastOf = s.lastOf := rfl
@[simp] theorem settled_forms : (settled s).forms = s.forms := rfl
@[simp] theorem settled_saves : (settled s).saves = s.saves := rfl
@[simp] theorem settled_unusable : (settled s).unusable = s.unusable := rfl
@[simp] theorem settled_sticking : (settled s).sticking = s.sticking := rfl
@[simp] theorem settled_halts : (settled s).halts = s.halts := rfl
@[simp] theorem settled_breaks : (settled s).breaks = s.breaks := rfl
@[simp] theorem settled_queues : (settled s).queues = s.queues := rfl
@[simp] theorem settled_outbox : (settled s).outbox = s.outbox := rfl
@[simp] theorem settled_mac : (settled s).mac = s.mac := rfl
@[simp] theorem settled_binds : (settled s).binds = s.binds := rfl
@[simp] theorem settled_windows : (settled s).windows = s.windows := rfl
@[simp] theorem settled_ports : (settled s).ports = s.ports := rfl
@[simp] theorem settled_sent : (settled s).sent = s.sent := rfl
@[simp] theorem settled_inbox : (settled s).inbox = s.inbox := rfl
@[simp] theorem settled_requests : (settled s).requests = s.requests := rfl
@[simp] theorem settled_nextTag : (settled s).nextTag = s.nextTag := rfl
@[simp] theorem settled_routes : (settled s).routes = s.routes := rfl
@[simp] theorem settled_power : (settled s).power = s.power := rfl
@[simp] theorem settled_levels : (settled s).levels = s.levels := rfl
@[simp] theorem settled_stackWin : (settled s).stackWin = s.stackWin := rfl
@[simp] theorem settled_limited : (settled s).limited = s.limited := rfl
@[simp] theorem settled_timeStatus : (settled s).timeStatus = s.timeStatus := rfl
@[simp] theorem settled_leads : (settled s).leads = s.leads := rfl
@[simp] theorem settled_ptpPorts : (settled s).ptpPorts = s.ptpPorts := rfl
@[simp] theorem settled_ptpOut : (settled s).ptpOut = s.ptpOut := rfl
@[simp] theorem settled_slew : (settled s).slew = s.slew := rfl
@[simp] theorem settled_fw : (settled s).fw = s.fw := rfl
@[simp] theorem settled_agenda : (settled s).agenda = s.agenda := rfl
@[simp] theorem settled_free : (settled s).free = s.free := rfl
@[simp] theorem settled_cur : (settled s).cur = Agent.none := rfl

end Sys2Proof.Machine
end

