-- ==== Sys2Proof/Laws/Store.lean ====
section
/-! SUPPORT. What tables, sets and the byte store do: a read after a write, and the canonical form of the memory. -/

namespace Sys2Proof.Machine

@[simp] theorem tblGet_tblSet {α : Type} (k : Nat) (v : α) (t : Tbl α) : tblGet k (tblSet k v t) = some v := by
  induction t with
  | nil => simp [tblSet, tblGet]
  | cons p t ih =>
    obtain ⟨j, u⟩ := p
    by_cases h : j = k
    · simp [tblSet, tblGet, h]
    · by_cases l : k < j <;> simp [tblSet, tblGet, h, l, ih]

theorem tblGet_tblSet_ne {α : Type} {k j : Nat} (h : j ≠ k) (v : α) (t : Tbl α) : tblGet j (tblSet k v t) = tblGet j t := by
  induction t with
  | nil => simp [tblSet, tblGet, Ne.symm h]
  | cons p t ih =>
    obtain ⟨i, u⟩ := p
    by_cases e : i = k
    · subst e; simp [tblSet, tblGet, Ne.symm h]
    · by_cases l : k < i
      · simp only [tblSet, e, if_false, l, if_true, tblGet, if_neg (Ne.symm h)]
        split <;> rename_i g
        · have : i ≠ j := by omega
          simp [this, show j < i by omega]
        · rfl
      · simp [tblSet, tblGet, e, l, ih]

@[simp] theorem tblSet_tblSet {α : Type} (k : Nat) (v w : α) (t : Tbl α) : tblSet k v (tblSet k w t) = tblSet k v t := by
  induction t with
  | nil => simp [tblSet]
  | cons p t ih =>
    obtain ⟨j, u⟩ := p
    by_cases h : j = k
    · simp [tblSet, h]
    · by_cases l : k < j <;> simp [tblSet, h, l, ih]

theorem tblSet_self {α : Type} {k : Nat} {v : α} {t : Tbl α} (h : tblGet k t = some v) : tblSet k v t = t := by
  induction t with
  | nil => simp [tblGet] at h
  | cons p t ih =>
    obtain ⟨j, u⟩ := p
    by_cases e : j = k
    · simp [tblGet, e] at h; simp [tblSet, e, h]
    · by_cases l : k < j
      · simp [tblGet, e, l] at h
      · simp [tblGet, e, l] at h; simp [tblSet, e, l, ih h]

theorem tblMod_of {α : Type} {k : Nat} {v : α} {t : Tbl α} (h : tblGet k t = some v) (f : α → α) :
    tblMod k f t = tblSet k (f v) t := by
  simp [tblMod, h]

theorem tblMod_none {α : Type} {k : Nat} {t : Tbl α} (h : tblGet k t = none) (f : α → α) : tblMod k f t = t := by
  simp [tblMod, h]

@[simp] theorem tblMod_tblSet {α : Type} (k : Nat) (v : α) (t : Tbl α) (f : α → α) : tblMod k f (tblSet k v t) = tblSet k (f v) t := by
  simp [tblMod]

theorem tblGet_tblMod {α : Type} (k : Nat) (t : Tbl α) (f : α → α) : tblGet k (tblMod k f t) = (tblGet k t).map f := by
  cases h : tblGet k t with
  | none => simp [tblMod, h]
  | some v => simp [tblMod, h]

theorem tblGet_tblMod_ne {α : Type} {k j : Nat} (h : j ≠ k) (t : Tbl α) (f : α → α) : tblGet j (tblMod k f t) = tblGet j t := by
  cases g : tblGet k t with
  | none => simp [tblMod, g]
  | some v => simp [tblMod, g, tblGet_tblSet_ne h]

end Sys2Proof.Machine
end

