-- ==== Sys2Proof/Laws/Threads.lean ====
section
/-! SUPPORT. What completing an instruction does, said once, and the shapes of a thread's step. -/

namespace Sys2Proof.Machine

theorem Running.get {s : State} {t : Nat} {th : Thread} (h : Running s t th) : tblGet t s.threads = some th := h.2

/-- A step of the thread whose turn it is. -/
theorem onThread_of {s : State} {t : Nat} {th : Thread} (h : Running s t th) (f : Nat → Thread → State) :
    onThread s f = .next (f t th) := by
  simp [onThread, h.1, h.2]

theorem binary_of {s : State} {t : Nat} {th : Thread} (h : Running s t th) (d a b : BitVec 5) (f : Word → Word → Word) :
    binary s d a b f = .next (retireWith s t d (f (regGet th a) (regGet th b))) := onThread_of h _

theorem unary_of {s : State} {t : Nat} {th : Thread} (h : Running s t th) (d a : BitVec 5) (f : Word → Word) :
    unary s d a f = .next (retireWith s t d (f (regGet th a))) := onThread_of h _

theorem checked_of {s : State} {t : Nat} {th : Thread} (h : Running s t th) (f : Nat → Thread → State) :
    checked s true f = .next (f t th) := onThread_of h _

/-- A completed instruction, where the thread is there. -/
theorem retireAt_of {s : State} {t : Nat} {th : Thread} (h : tblGet t s.threads = some th) (pc : Word) :
    retireAt s t pc = completedAt s t th pc := by
  simp [retireAt, h, completedAt, modThread, tblMod]

theorem retire_of {s : State} {t : Nat} {th : Thread} (h : tblGet t s.threads = some th) : retire s t = completed s t th := by
  simp [retire, h, completed, retireAt_of h]

/-- A completion after the thread itself was changed. -/
theorem completedAt_modThread (s : State) (t : Nat) (th u : Thread) (pc : Word) :
    completedAt { s with threads := tblSet t u s.threads } t th pc = completedAt s t th pc := by
  simp [completedAt]

theorem modThread_of {s : State} {t : Nat} {th : Thread} (h : tblGet t s.threads = some th) (f : Thread → Thread) :
    modThread s t f = { s with threads := tblSet t (f th) s.threads } := by
  simp [modThread, tblMod, h]

theorem waitAt_of {s : State} {t : Nat} {th : Thread} (h : tblGet t s.threads = some th) (w : Wait) :
    waitAt s t w = waiting s t th w := modThread_of h _

@[simp] theorem regSet_pc (th : Thread) (d : BitVec 5) (v : Word) : (regSet th d v).pc = th.pc := by
  unfold regSet; split <;> rfl
@[simp] theorem regSet_ctx (th : Thread) (d : BitVec 5) (v : Word) : (regSet th d v).ctx = th.ctx := by
  unfold regSet; split <;> rfl
@[simp] theorem regSet_icnt (th : Thread) (d : BitVec 5) (v : Word) : (regSet th d v).icnt = th.icnt := by
  unfold regSet; split <;> rfl
@[simp] theorem regSet_wait (th : Thread) (d : BitVec 5) (v : Word) : (regSet th d v).wait = th.wait := by
  unfold regSet; split <;> rfl

/-- A completion with a result. -/
theorem retireWith_of {s : State} {t : Nat} {th : Thread} (h : tblGet t s.threads = some th) (d : BitVec 5) (v : Word) :
    retireWith s t d v = resulted s t th d v := by
  rw [retireWith, modThread_of h, retire_of (th := regSet th d v) (by simp), resulted, completed, completed, completedAt_modThread]

end Sys2Proof.Machine
end

