-- ==== Sys2Proof/Laws/Words.lean ====
section
/-! SUPPORT. The fields of the control words that `wordA` to `wordF` build. -/

namespace Sys2Proof.Machine

theorem field_low {n m : Nat} (x : BitVec n) (y : BitVec m) (k w : Nat) (h : k + w ≤ m) :
    (x ++ y).extractLsb' k w = y.extractLsb' k w := by
  ext i hi
  simp [BitVec.getLsbD_append, show k + i < m by omega]

theorem field_high {n m : Nat} (x : BitVec n) (y : BitVec m) (k w : Nat) (h : m ≤ k) :
    (x ++ y).extractLsb' k w = x.extractLsb' (k - m) w := by
  ext i hi
  simp [BitVec.getLsbD_append, show ¬ k + i < m by omega, show k + i - m = k - m + i by omega]

@[simp] theorem wordA_major (major : BitVec 6) (d : BitVec 5) (a : BitVec 5) (b : BitVec 5) (minor : BitVec 11) :
    (wordA major d a b minor).extractLsb' 26 6 = major := by
  rw [wordA, field_high _ _ _ _ (by decide), field_high _ _ _ _ (by decide), field_high _ _ _ _ (by decide), field_high _ _ _ _ (by decide)]; simp
@[simp] theorem wordA_d (major : BitVec 6) (d : BitVec 5) (a : BitVec 5) (b : BitVec 5) (minor : BitVec 11) :
    (wordA major d a b minor).extractLsb' 21 5 = d := by
  rw [wordA, field_high _ _ _ _ (by decide), field_high _ _ _ _ (by decide), field_high _ _ _ _ (by decide), field_low _ _ _ _ (by decide)]; simp
@[simp] theorem wordA_a (major : BitVec 6) (d : BitVec 5) (a : BitVec 5) (b : BitVec 5) (minor : BitVec 11) :
    (wordA major d a b minor).extractLsb' 16 5 = a := by
  rw [wordA, field_high _ _ _ _ (by decide), field_high _ _ _ _ (by decide), field_low _ _ _ _ (by decide)]; simp
@[simp] theorem wordA_b (major : BitVec 6) (d : BitVec 5) (a : BitVec 5) (b : BitVec 5) (minor : BitVec 11) :
    (wordA major d a b minor).extractLsb' 11 5 = b := by
  rw [wordA, field_high _ _ _ _ (by decide), field_low _ _ _ _ (by decide)]; simp
@[simp] theorem wordA_minor (major : BitVec 6) (d : BitVec 5) (a : BitVec 5) (b : BitVec 5) (minor : BitVec 11) :
    (wordA major d a b minor).extractLsb' 0 11 = minor := by
  rw [wordA, field_low _ _ _ _ (by decide)]; simp
@[simp] theorem wordB_major (major : BitVec 6) (d : BitVec 5) (a : BitVec 5) (imm : BitVec 16) :
    (wordB major d a imm).extractLsb' 26 6 = major := by
  rw [wordB, field_high _ _ _ _ (by decide), field_high _ _ _ _ (by decide), field_high _ _ _ _ (by decide)]; simp
@[simp] theorem wordB_d (major : BitVec 6) (d : BitVec 5) (a : BitVec 5) (imm : BitVec 16) :
    (wordB major d a imm).extractLsb' 21 5 = d := by
  rw [wordB, field_high _ _ _ _ (by decide), field_high _ _ _ _ (by decide), field_low _ _ _ _ (by decide)]; simp
@[simp] theorem wordB_a (major : BitVec 6) (d : BitVec 5) (a : BitVec 5) (imm : BitVec 16) :
    (wordB major d a imm).extractLsb' 16 5 = a := by
  rw [wordB, field_high _ _ _ _ (by decide), field_low _ _ _ _ (by decide)]; simp
@[simp] theorem wordB_imm (major : BitVec 6) (d : BitVec 5) (a : BitVec 5) (imm : BitVec 16) :
    (wordB major d a imm).extractLsb' 0 16 = imm := by
  rw [wordB, field_low _ _ _ _ (by decide)]; simp
@[simp] theorem wordC_major (major : BitVec 6) (a : BitVec 5) (b : BitVec 5) (off : BitVec 16) :
    (wordC major a b off).extractLsb' 26 6 = major := by
  rw [wordC, field_high _ _ _ _ (by decide), field_high _ _ _ _ (by decide), field_high _ _ _ _ (by decide)]; simp
@[simp] theorem wordC_a (major : BitVec 6) (a : BitVec 5) (b : BitVec 5) (off : BitVec 16) :
    (wordC major a b off).extractLsb' 21 5 = a := by
  rw [wordC, field_high _ _ _ _ (by decide), field_high _ _ _ _ (by decide), field_low _ _ _ _ (by decide)]; simp
@[simp] theorem wordC_b (major : BitVec 6) (a : BitVec 5) (b : BitVec 5) (off : BitVec 16) :
    (wordC major a b off).extractLsb' 16 5 = b := by
  rw [wordC, field_high _ _ _ _ (by decide), field_low _ _ _ _ (by decide)]; simp
@[simp] theorem wordC_off (major : BitVec 6) (a : BitVec 5) (b : BitVec 5) (off : BitVec 16) :
    (wordC major a b off).extractLsb' 0 16 = off := by
  rw [wordC, field_low _ _ _ _ (by decide)]; simp
@[simp] theorem wordD_major (major : BitVec 6) (off : BitVec 26) :
    (wordD major off).extractLsb' 26 6 = major := by
  rw [wordD, field_high _ _ _ _ (by decide)]; simp
@[simp] theorem wordD_off (major : BitVec 6) (off : BitVec 26) :
    (wordD major off).extractLsb' 0 26 = off := by
  rw [wordD, field_low _ _ _ _ (by decide)]; simp
@[simp] theorem wordE_major (major : BitVec 6) (target : BitVec 6) (a : BitVec 5) (b : BitVec 5) (minor : BitVec 10) :
    (wordE major target a b minor).extractLsb' 26 6 = major := by
  rw [wordE, field_high _ _ _ _ (by decide), field_high _ _ _ _ (by decide), field_high _ _ _ _ (by decide), field_high _ _ _ _ (by decide)]; simp
@[simp] theorem wordE_target (major : BitVec 6) (target : BitVec 6) (a : BitVec 5) (b : BitVec 5) (minor : BitVec 10) :
    (wordE major target a b minor).extractLsb' 20 6 = target := by
  rw [wordE, field_high _ _ _ _ (by decide), field_high _ _ _ _ (by decide), field_high _ _ _ _ (by decide), field_low _ _ _ _ (by decide)]; simp
@[simp] theorem wordE_a (major : BitVec 6) (target : BitVec 6) (a : BitVec 5) (b : BitVec 5) (minor : BitVec 10) :
    (wordE major target a b minor).extractLsb' 15 5 = a := by
  rw [wordE, field_high _ _ _ _ (by decide), field_high _ _ _ _ (by decide), field_low _ _ _ _ (by decide)]; simp
@[simp] theorem wordE_b (major : BitVec 6) (target : BitVec 6) (a : BitVec 5) (b : BitVec 5) (minor : BitVec 10) :
    (wordE major target a b minor).extractLsb' 10 5 = b := by
  rw [wordE, field_high _ _ _ _ (by decide), field_low _ _ _ _ (by decide)]; simp
@[simp] theorem wordE_minor (major : BitVec 6) (target : BitVec 6) (a : BitVec 5) (b : BitVec 5) (minor : BitVec 10) :
    (wordE major target a b minor).extractLsb' 0 10 = minor := by
  rw [wordE, field_low _ _ _ _ (by decide)]; simp
@[simp] theorem wordF_major (code : BitVec 10) (a : BitVec 5) (minor : BitVec 11) :
    (wordF code a minor).extractLsb' 26 6 = 0x3F#6 := by
  rw [wordF, field_high _ _ _ _ (by decide), field_high _ _ _ _ (by decide), field_high _ _ _ _ (by decide)]; simp
@[simp] theorem wordF_code (code : BitVec 10) (a : BitVec 5) (minor : BitVec 11) :
    (wordF code a minor).extractLsb' 16 10 = code := by
  rw [wordF, field_high _ _ _ _ (by decide), field_high _ _ _ _ (by decide), field_low _ _ _ _ (by decide)]; simp
@[simp] theorem wordF_a (code : BitVec 10) (a : BitVec 5) (minor : BitVec 11) :
    (wordF code a minor).extractLsb' 11 5 = a := by
  rw [wordF, field_high _ _ _ _ (by decide), field_low _ _ _ _ (by decide)]; simp
@[simp] theorem wordF_minor (code : BitVec 10) (a : BitVec 5) (minor : BitVec 11) :
    (wordF code a minor).extractLsb' 0 11 = minor := by
  rw [wordF, field_low _ _ _ _ (by decide)]; simp

/-- A field within the minor of a word. -/
theorem wordA_low (major : BitVec 6) (d a b : BitVec 5) (minor : BitVec 11) (k w : Nat) (h : k + w ≤ 11) :
    (wordA major d a b minor).extractLsb' k w = minor.extractLsb' k w := by
  rw [wordA, field_low _ _ _ _ h]
theorem wordE_low (major target : BitVec 6) (a b : BitVec 5) (minor : BitVec 10) (k w : Nat) (h : k + w ≤ 10) :
    (wordE major target a b minor).extractLsb' k w = minor.extractLsb' k w := by
  rw [wordE, field_low _ _ _ _ h]

end Sys2Proof.Machine
end

