-- ==== Sys2Proof/WellFormed.lean ====
section
/-! DEFINITION. Well-formed instructions: every code field holds a value that its instruction allows (R279, R292, R386, R395). -/

namespace Sys2Proof

/-- An element operation whose word the element executes, with sources that the placer accepts (R279). -/
def elemFits (i : Instr) : Bool :=
  match encodeElement i with
  | some w =>
    decide (Machine.elemReason w = 0) && decide (Machine.elemSrcA w ≤ 4) && decide (Machine.elemSrcB w ≤ 4) &&
    !(decide (Machine.elemSrcA w = 1) && decide (Machine.elemSrcB w = 1)) &&
    !(decide (Machine.elemSrcA w = 4) && decide (Machine.elemSrcB w = 4))
  | none => true

/-- A memory element's operation whose word the element executes (R292). -/
def memFits (i : Instr) : Bool :=
  match encodeElement i with
  | some w => decide (Machine.memReason w = 0)
  | none => true

open Machine in
/-- The check of an instruction's code fields. A step with no encoding has none. -/
def wf (i : Instr) : Bool :=
  match i with
  | .add _ _ _ => true
  | .sub _ _ _ => true
  | .mul _ _ _ => true
  | .mulhs _ _ _ => true
  | .mulhn _ _ _ => true
  | .divs _ _ _ => true
  | .divn _ _ _ => true
  | .rems _ _ _ => true
  | .remn _ _ _ => true
  | .and _ _ _ => true
  | .or _ _ _ => true
  | .xor _ _ _ => true
  | .andn _ _ _ => true
  | .shl _ _ _ => true
  | .shr _ _ _ => true
  | .sar _ _ _ => true
  | .rotl _ _ _ => true
  | .mins _ _ _ => true
  | .maxs _ _ _ => true
  | .minn _ _ _ => true
  | .maxn _ _ _ => true
  | .ceq _ _ _ => true
  | .cne _ _ _ => true
  | .clt _ _ _ => true
  | .cltn _ _ _ => true
  | .cge _ _ _ => true
  | .cgen _ _ _ => true
  | .csel _ _ _ => true
  | .clz _ _ => true
  | .ctz _ _ => true
  | .popc _ _ => true
  | .brev _ _ => true
  | .bswap _ _ => true
  | .extu _ _ _ => true
  | .exts _ _ _ => true
  | .ins _ _ _ => true
  | .addk _ _ _ => true
  | .andk _ _ _ => true
  | .ork _ _ _ => true
  | .xork _ _ _ => true
  | .cltk _ _ _ => true
  | .cltnk _ _ _ => true
  | .hik _ _ => true
  | .shlk _ _ _ => true
  | .shrk _ _ _ => true
  | .sark _ _ _ => true
  | .rotlk _ _ _ => true
  | .cvt _ _ x y _ _ => cvtOk x y
  | .fadd _ _ _ f _ => scalarFmtOk f
  | .fsub _ _ _ f _ => scalarFmtOk f
  | .fmul _ _ _ f _ => scalarFmtOk f
  | .fdiv _ _ _ f _ => scalarFmtOk f
  | .fmac _ _ _ f _ => scalarFmtOk f
  | .fsqrt _ _ f _ => scalarFmtOk f
  | .fmin _ _ _ f => scalarFmtOk f
  | .fmax _ _ _ f => scalarFmtOk f
  | .fabs _ _ f => scalarFmtOk f
  | .fneg _ _ f => scalarFmtOk f
  | .feq _ _ _ f => scalarFmtOk f
  | .flt _ _ _ f => scalarFmtOk f
  | .fle _ _ _ f => scalarFmtOk f
  | .bEq _ _ _ => true
  | .bNe _ _ _ => true
  | .bLt _ _ _ => true
  | .bGe _ _ _ => true
  | .bLtn _ _ _ => true
  | .bGen _ _ _ => true
  | .jmp _ => true
  | .call _ => true
  | .callr _ _ => true
  | .jmpr _ => true
  | .ldV _ _ _ z x _ => loadOk z x
  | .stV _ _ _ _ _ => true
  | .ldI _ _ _ z x _ => loadOk z x
  | .stI _ _ _ _ _ => true
  | .ldW _ _ _ z x _ => loadOk z x
  | .ldA _ _ _ z x _ => loadOk z x
  | .ldC _ _ _ z x _ => loadOk z x
  | .stC _ _ _ _ _ => true
  | .spld _ _ => true
  | .spst _ _ => true
  | .crd _ _ => true
  | .cwr _ _ => true
  | .cset _ _ => true
  | .cclr _ _ => true
  | .sleep _ => true
  | .yield => true
  | .exit => true
  | .tret => true
  | .xinv _ => true
  | .brk _ => true
  | .sbind t _ _ k s f => bindOk t k s f
  | .swait t k => portOk t k
  | .sclear t k => portOk t k
  | .copyIn _ _ _ u e => copyInOk u e
  | .copyOut _ _ _ u => bufOk u
  | .copyBb _ _ _ u v => copyBbOk u v
  | .hwait _ => true
  | .hrel _ => true
  | .hstat _ a b => hstatOk a b
  | .mma t _ _ p => mmaOk t p
  | .mmaz t _ _ p => mmaOk t p
  | .mdrain t _ _ s f => mdrainOk t s f
  | .msatr t _ => streamOk t
  | .mwait t => streamOk t
  | .vadd t _ _ s => vec2Ok t s
  | .vsub t _ _ s => vec2Ok t s
  | .vmul t _ _ s => vec2Ok t s
  | .vmulh t _ _ s => vec2Ok t s
  | .vmin t _ _ s => vec2Ok t s
  | .vmax t _ _ s => vec2Ok t s
  | .vabs t _ _ => vec1Ok t
  | .vneg t _ _ => vec1Ok t
  | .vavg t _ _ s => vec2Ok t s
  | .vabsd t _ _ s => vec2Ok t s
  | .vdiv t _ _ s => vec2Ok t s
  | .vrem t _ _ s => vec2Ok t s
  | .vand t _ _ s => vec2Ok t s
  | .vor t _ _ s => vec2Ok t s
  | .vxor t _ _ s => vec2Ok t s
  | .vnot t _ _ => vec1Ok t
  | .vshl t _ _ s => vec2Ok t s
  | .vshr t _ _ s => vec2Ok t s
  | .vsra t _ _ s => vec2Ok t s
  | .vrotl t _ _ s => vec2Ok t s
  | .vclz t _ _ => vec1Ok t
  | .vctz t _ _ => vec1Ok t
  | .vpopc t _ _ => vec1Ok t
  | .vbrev t _ _ => vec1Ok t
  | .vceq t _ _ s => vec2Ok t s
  | .vcne t _ _ s => vec2Ok t s
  | .vclt t _ _ s => vec2Ok t s
  | .vcle t _ _ s => vec2Ok t s
  | .vcgt t _ _ s => vec2Ok t s
  | .vcge t _ _ s => vec2Ok t s
  | .vcnan t _ _ => vec1Ok t
  | .vmov t _ _ => vec1Ok t
  | .vfadd t _ _ s => vec2Ok t s
  | .vfsub t _ _ s => vec2Ok t s
  | .vfmul t _ _ s => vec2Ok t s
  | .vfdiv t _ _ s => vec2Ok t s
  | .vfmin t _ _ s => vec2Ok t s
  | .vfmax t _ _ s => vec2Ok t s
  | .vfabs t _ _ => vec1Ok t
  | .vfneg t _ _ => vec1Ok t
  | .vfsqrt t _ _ => vec1Ok t
  | .vfrcp t _ _ => vec1Ok t
  | .vfrsqrt t _ _ => vec1Ok t
  | .vfscale t _ _ s => vec2Ok t s
  | .vfexp2 t _ _ => vec1Ok t
  | .vflog2 t _ _ => vec1Ok t
  | .vftanh t _ _ => vec1Ok t
  | .vfsigm t _ _ => vec1Ok t
  | .vfgelu t _ _ => vec1Ok t
  | .vfsilu t _ _ => vec1Ok t
  | .vferf t _ _ => vec1Ok t
  | .vfsoftp t _ _ => vec1Ok t
  | .vcvt t _ _ => vec1Ok t
  | .vsum t _ _ => vec1Ok t
  | .vmaxr t _ _ => vec1Ok t
  | .vamaxr t _ _ => vec1Ok t
  | .topk _ _ _ => true
  | .predrows _ _ => true
  | .prcheck _ _ => true
  | .gath _ _ _ e => gathOk e
  | .scat _ _ => true
  | .glaunch _ => true
  | .sarm _ _ => true
  | .fwait _ _ => true
  | .ldwF _ _ _ _ => true
  | .stwE _ _ _ _ => true
  | .ldwFt _ _ _ _ => true
  | .stwEt _ _ _ _ _ => true
  | .ldwFk _ _ _ _ => true
  | .ldwQ _ _ _ _ => true
  | .fclr _ _ _ => true
  | .amoSwap _ _ _ z _ x => amoOk z x
  | .amoAdd _ _ _ z _ x => amoOk z x
  | .amoAnd _ _ _ z _ x => amoOk z x
  | .amoOr _ _ _ z _ x => amoOk z x
  | .amoXor _ _ _ z _ x => amoOk z x
  | .amoMin _ _ _ z _ x => amoOk z x
  | .amoMax _ _ _ z _ x => amoOk z x
  | .amoMinu _ _ _ z _ x => amoOk z x
  | .amoMaxu _ _ _ z _ x => amoOk z x
  | .amoCas _ _ _ z _ x => amoOk z x
  | .amoFmax _ _ _ z _ => amoFloatOk z
  | .amaxrr _ _ z _ => amoFloatOk z
  | .tkt _ _ _ => true
  | .tkset _ _ => true
  | .redinit _ _ => true
  | .redFadd _ _ _ => true
  | .redrd _ _ => true
  | .redLadd _ _ f => laFmtOk f
  | .redLclr _ s => laSpaceOk s
  | .redLdrain _ _ s f _ => laSpaceOk s && laFmtOk f
  | .sjoin _ _ => true
  | .sleave _ _ => true
  | .barw _ _ => true
  | .bara _ _ => true
  | .barwp _ _ _ => true
  | .binit _ _ => true
  | .sstat _ _ => true
  | .lkacq _ _ _ => true
  | .lktry _ _ _ => true
  | .lkrel _ _ => true
  | .lkrelall _ => true
  | .lkreg _ _ => true
  | .lkunreg _ _ => true
  | .lkmat _ => true
  | .fence p q s => fenceOk p q s
  | .elemAdd a b f s w k => elemFits (.elemAdd a b f s w k)
  | .elemSub a b f s w k => elemFits (.elemSub a b f s w k)
  | .elemMul a b f s w k => elemFits (.elemMul a b f s w k)
  | .elemMulh a b f w k => elemFits (.elemMulh a b f w k)
  | .elemMin a b f w k => elemFits (.elemMin a b f w k)
  | .elemMax a b f w k => elemFits (.elemMax a b f w k)
  | .elemAbs a f s w k => elemFits (.elemAbs a f s w k)
  | .elemNeg a f s w k => elemFits (.elemNeg a f s w k)
  | .elemAvg a b f r w k => elemFits (.elemAvg a b f r w k)
  | .elemAbsd a b f s w k => elemFits (.elemAbsd a b f s w k)
  | .elemDiv a b f s w k => elemFits (.elemDiv a b f s w k)
  | .elemRem a b f w k => elemFits (.elemRem a b f w k)
  | .elemAnd a b f w k => elemFits (.elemAnd a b f w k)
  | .elemOr a b f w k => elemFits (.elemOr a b f w k)
  | .elemXor a b f w k => elemFits (.elemXor a b f w k)
  | .elemNot a f w k => elemFits (.elemNot a f w k)
  | .elemShl a b f w k => elemFits (.elemShl a b f w k)
  | .elemShr a b f w k => elemFits (.elemShr a b f w k)
  | .elemSra a b f w k => elemFits (.elemSra a b f w k)
  | .elemRotl a b f w k => elemFits (.elemRotl a b f w k)
  | .elemClz a f w k => elemFits (.elemClz a f w k)
  | .elemCtz a f w k => elemFits (.elemCtz a f w k)
  | .elemPopc a f w k => elemFits (.elemPopc a f w k)
  | .elemBrev a f w k => elemFits (.elemBrev a f w k)
  | .elemCeq a b f w k => elemFits (.elemCeq a b f w k)
  | .elemCne a b f w k => elemFits (.elemCne a b f w k)
  | .elemClt a b f w k => elemFits (.elemClt a b f w k)
  | .elemCle a b f w k => elemFits (.elemCle a b f w k)
  | .elemCgt a b f w k => elemFits (.elemCgt a b f w k)
  | .elemCge a b f w k => elemFits (.elemCge a b f w k)
  | .elemCnan a f w k => elemFits (.elemCnan a f w k)
  | .elemMov a f w k => elemFits (.elemMov a f w k)
  | .elemFadd a b f r s w k => elemFits (.elemFadd a b f r s w k)
  | .elemFsub a b f r s w k => elemFits (.elemFsub a b f r s w k)
  | .elemFmul a b f r s w k => elemFits (.elemFmul a b f r s w k)
  | .elemFdiv a b f r s w k => elemFits (.elemFdiv a b f r s w k)
  | .elemFmin a b f w k => elemFits (.elemFmin a b f w k)
  | .elemFmax a b f w k => elemFits (.elemFmax a b f w k)
  | .elemFabs a f w k => elemFits (.elemFabs a f w k)
  | .elemFneg a f w k => elemFits (.elemFneg a f w k)
  | .elemFsqrt a f r s w k => elemFits (.elemFsqrt a f r s w k)
  | .elemFrcp a f r s w k => elemFits (.elemFrcp a f r s w k)
  | .elemFrsqrt a f r s w k => elemFits (.elemFrsqrt a f r s w k)
  | .elemFscale a b f r s w k => elemFits (.elemFscale a b f r s w k)
  | .elemFexp2 a f r s w k => elemFits (.elemFexp2 a f r s w k)
  | .elemFlog2 a f r s w k => elemFits (.elemFlog2 a f r s w k)
  | .elemFtanh a f r s w k => elemFits (.elemFtanh a f r s w k)
  | .elemFsigm a f r s w k => elemFits (.elemFsigm a f r s w k)
  | .elemFgelu a f r s w k => elemFits (.elemFgelu a f r s w k)
  | .elemFsilu a f r s w k => elemFits (.elemFsilu a f r s w k)
  | .elemFerf a f r s w k => elemFits (.elemFerf a f r s w k)
  | .elemFsoftp a f r s w k => elemFits (.elemFsoftp a f r s w k)
  | .elemCvt a f r s w t => elemFits (.elemCvt a f r s w t)
  | .elemPack a b f wk => elemFits (.elemPack a b f wk)
  | .elemUnpklo a f w => elemFits (.elemUnpklo a f w)
  | .elemUnpkhi a f w => elemFits (.elemUnpkhi a f w)
  | .elemFround a f r w => elemFits (.elemFround a f r w)
  | .elemFsign a f w => elemFits (.elemFsign a f w)
  | .elemIacc a b f s w => elemFits (.elemIacc a b f s w)
  | .elemFacc a b f r s w => elemFits (.elemFacc a b f r s w)
  | .elemImaxr a b f w => elemFits (.elemImaxr a b f w)
  | .elemFmaxr a b f w => elemFits (.elemFmaxr a b f w)
  | .elemFamaxr a b f w => elemFits (.elemFamaxr a b f w)
  | .elemCnt a b f w => elemFits (.elemCnt a b f w)
  | .memLd o p q w s => memFits (.memLd o p q w s)
  | .memLds o p q w s => memFits (.memLds o p q w s)
  | .memSt o p q w s => memFits (.memSt o p q w s)
  | .memLdwf o p q s => memFits (.memLdwf o p q s)
  | .memStwe o p q s => memFits (.memStwe o p q s)
  | .memLdwk o p q s => memFits (.memLdwk o p q s)
  | .memAadd o p q s => memFits (.memAadd o p q s)
  | .memAmax o p q s => memFits (.memAmax o p q s)
  | .memAmin o p q s => memFits (.memAmin o p q s)
  | .memAswp o p q s => memFits (.memAswp o p q s)
  | .memAand o p q s => memFits (.memAand o p q s)
  | .memAor o p q s => memFits (.memAor o p q s)
  | .memAxor o p q s => memFits (.memAxor o p q s)
  | .memPfch o p q => memFits (.memPfch o p q)
  | .opPass _ _ _ => true
  | .opFork _ _ _ _ => true
  | .opSteer _ _ _ _ _ => true
  | .opMerge _ _ _ _ _ => true
  | .opCarry _ _ _ _ => true
  | .opNullFill _ _ _ v => decide (v.toNat ≤ 4)
  | .opEgate _ _ _ _ => true
  | .opEgateSw _ _ _ _ => true
  | .arcHop _ _ _ => true
  | .configWordLoad _ _ => true
  | .loopNConsume _ _ => true
  | .loopEmit _ _ _ => true
  | .memAccessReply _ _ _ => true
  | .matrixNodeFire _ _ => true
  | .sportSourceAccess _ _ => true
  | .sportSinkAccess _ _ => true
  | .launchAdmit _ => true
  | .threadTaskDispatch _ _ => true
  | .placeFormation _ _ _ _ => true
  | .formationArm _ => true
  | .drainInject _ => true
  | .ctLoadReply _ => true
  | .storePerform _ _ => true
  | .pageWalk _ _ _ _ => true
  | .fillRingTake _ _ => true
  | .fillComplete _ _ => true
  | .xinvDone _ => true
  | .syOperationApply _ _ _ => true
  | .asyncTrapEntry _ => true
  | .sleepWake _ => true
  | .copyPromiseExpire _ _ => true
  | .copyAccept _ _ => true
  | .copyLand _ _ => true
  | .reservationRequest _ _ => true
  | .reservationGrant _ _ => true
  | .kStep _ _ => true
  | .mdrainExecute _ _ => true
  | .vectorStep _ _ => true
  | .topkExecute _ => true
  | .predrowsExecute _ => true
  | .prcheckExecute _ => true
  | .gathExecute _ => true
  | .scatExecute _ => true
  | .faultHoldExpire _ _ _ _ => true
  | .reductionGapped _ _ => true
  | .saveSeal _ => true
  | .contextRestore _ _ _ _ _ => true
  | .guardDiscard _ _ _ _ _ => true
  | .teardownComplete _ => true
  | .detectorSweep _ _ => true
  | .samplePeriod _ => true
  | .arbiterPeriod _ => true
  | .reelSend => true
  | .reelShare => true
  | .hbmThermalWindow _ _ => true
  | .currentLimit _ => true
  | .currentLimitClear _ => true
  | .junctionOvertemp _ => true
  | .supplyUndervolt _ => true
  | .edgeResendTimeout _ => true
  | .powerOn _ _ => true
  | .hostFrame _ => true
  | .ptpFrame _ _ _ _ => true
  | .peerFrame _ _ => true
  | .peerFrameResend _ => true
  | .peerTimeout _ => true
  | .peerRead _ => true
  | .peerReadReply _ => true
  | .peerWrite _ => true
  | .peerWriteAck _ => true
  | .peerAtomic _ => true
  | .peerAtomicReply _ => true
  | .reelMessage _ => true
  | .peerRefusal _ => true
  | .policyNotafter _ => true
  | .hostNop _ => true
  | .hostLaunch _ => true
  | .hostWaitev _ => true
  | .hostSigev _ => true
  | .hostMemrd _ => true
  | .hostMemwr _ => true
  | .hostXinv _ => true
  | .hostSetmask _ => true
  | .hostCtxnew _ => true
  | .hostCtxdel _ => true
  | .hostSuspend _ => true
  | .hostResume _ => true
  | .hostQset _ => true
  | .hostQadd _ => true
  | .hostPolicy _ => true
  | .hostFlashrd _ => true
  | .hostFlashwr _ => true
  | .hostHalt _ => true
  | .hostRelease _ => true
  | .hostBreak _ => true
  | .hostDump _ => true
  | .hostHstat _ => true
  | .hostCtrrd _ => true
  | .hostTimestat _ => true
  | .hostTraceset _ => true
  | .hostPartset _ => true
  | .hostLockmat _ => true
  | .hostPeerwin _ => true
  | .hostFnbind _ => true
  | .hostPower _ => true
  | .hostAttest _ => true
  | .hostFwload _ _ => true
  | .hostReset _ _ => true
  | .timeSliceDecision _ => true
  | .holdover => true

end Sys2Proof
end

