-- ==== Sys2Proof/Tests/Slice0.lean ====
section
/-! SUPPORT. Tests of single steps and of decoding, with results from the manual, and a witness for the hypotheses of every obligation. -/

namespace Sys2Proof.Tests
open Sys2Proof Sys2Proof.Machine

/-- Control words of major 0x01, each field at a value of its own. -/
theorem test_decode_control_01 :
    decodeControl 0x071D1000 = .ok (.add 24 29 2) ∧
    decodeControl 0x071D1001 = .ok (.sub 24 29 2) ∧
    decodeControl 0x071D1002 = .ok (.mul 24 29 2) ∧
    decodeControl 0x04CB8003 = .ok (.mulhs 6 11 16) ∧
    decodeControl 0x04CB8004 = .ok (.mulhn 6 11 16) ∧
    decodeControl 0x07E44805 = .ok (.divs 31 4 9) ∧
    decodeControl 0x07E44806 = .ok (.divn 31 4 9) ∧
    decodeControl 0x07E44807 = .ok (.rems 31 4 9) ∧
    decodeControl 0x07E44808 = .ok (.remn 31 4 9) ∧
    decodeControl 0x071D1010 = .ok (.and 24 29 2) ∧
    decodeControl 0x0636D811 = .ok (.or 17 22 27) ∧
    decodeControl 0x071D1012 = .ok (.xor 24 29 2) ∧
    decodeControl 0x07E44813 = .ok (.andn 31 4 9) ∧
    decodeControl 0x071D1018 = .ok (.shl 24 29 2) ∧
    decodeControl 0x071D1019 = .ok (.shr 24 29 2) ∧
    decodeControl 0x071D101A = .ok (.sar 24 29 2) ∧
    decodeControl 0x07E4481B = .ok (.rotl 31 4 9) ∧
    decodeControl 0x07E44820 = .ok (.mins 31 4 9) ∧
    decodeControl 0x07E44821 = .ok (.maxs 31 4 9) ∧
    decodeControl 0x07E44822 = .ok (.minn 31 4 9) ∧
    decodeControl 0x07E44823 = .ok (.maxn 31 4 9) := by decide

/-- Control words of major 0x02, each field at a value of its own. -/
theorem test_decode_control_02 :
    decodeControl 0x0B1D1000 = .ok (.ceq 24 29 2) ∧
    decodeControl 0x0B1D1001 = .ok (.cne 24 29 2) ∧
    decodeControl 0x0B1D1002 = .ok (.clt 24 29 2) ∧
    decodeControl 0x0BE44803 = .ok (.cltn 31 4 9) ∧
    decodeControl 0x0B1D1004 = .ok (.cge 24 29 2) ∧
    decodeControl 0x0BE44805 = .ok (.cgen 31 4 9) ∧
    decodeControl 0x0BE44810 = .ok (.csel 31 4 9) := by decide

/-- Control words of major 0x03, each field at a value of its own. -/
theorem test_decode_control_03 :
    decodeControl 0x0F1D0000 = .ok (.clz 24 29) ∧
    decodeControl 0x0F1D0001 = .ok (.ctz 24 29) ∧
    decodeControl 0x0FE40002 = .ok (.popc 31 4) ∧
    decodeControl 0x0FE40003 = .ok (.brev 31 4) ∧
    decodeControl 0x0CCB0004 = .ok (.bswap 6 11) ∧
    decodeControl 0x0FE44808 = .ok (.extu 31 4 9) ∧
    decodeControl 0x0FE44809 = .ok (.exts 31 4 9) ∧
    decodeControl 0x0F1D100A = .ok (.ins 24 29 2) := by decide

/-- Control words of major 0x04, each field at a value of its own. -/
theorem test_decode_control_04 :
    decodeControl 0x13E4F14D = .ok (.addk 31 4 61773) := by decide

/-- Control words of major 0x05, each field at a value of its own. -/
theorem test_decode_control_05 :
    decodeControl 0x17E4F14D = .ok (.andk 31 4 61773) := by decide

/-- Control words of major 0x06, each field at a value of its own. -/
theorem test_decode_control_06 :
    decodeControl 0x1B1DF14C = .ok (.ork 24 29 61772) := by decide

/-- Control words of major 0x07, each field at a value of its own. -/
theorem test_decode_control_07 :
    decodeControl 0x1FE4F14D = .ok (.xork 31 4 61773) := by decide

/-- Control words of major 0x08, each field at a value of its own. -/
theorem test_decode_control_08 :
    decodeControl 0x23E4F14D = .ok (.cltk 31 4 61773) := by decide

/-- Control words of major 0x09, each field at a value of its own. -/
theorem test_decode_control_09 :
    decodeControl 0x24CBF14E = .ok (.cltnk 6 11 61774) := by decide

/-- Control words of major 0x0A, each field at a value of its own. -/
theorem test_decode_control_0a :
    decodeControl 0x2B004B89 = .ok (.hik 24 19337) := by decide

/-- Control words of major 0x0B, each field at a value of its own. -/
theorem test_decode_control_0b :
    decodeControl 0x2FE40029 = .ok (.shlk 31 4 41) ∧
    decodeControl 0x2FE40129 = .ok (.shrk 31 4 41) ∧
    decodeControl 0x2FE40229 = .ok (.sark 31 4 41) ∧
    decodeControl 0x2CCB0330 = .ok (.rotlk 6 11 48) := by decide

/-- Control words of major 0x0C, each field at a value of its own. -/
theorem test_decode_control_0c :
    decodeControl 0x331D0139 = .ok (.cvt 24 29 2 7 0 1) := by decide

/-- Control words of major 0x0D, each field at a value of its own. -/
theorem test_decode_control_0d :
    decodeControl 0x37E4483B = .ok (.fadd 31 4 9 14 3) ∧
    decodeControl 0x37E4487B = .ok (.fsub 31 4 9 14 3) ∧
    decodeControl 0x37E448BB = .ok (.fmul 31 4 9 14 3) ∧
    decodeControl 0x37E448FB = .ok (.fdiv 31 4 9 14 3) ∧
    decodeControl 0x37E4493B = .ok (.fmac 31 4 9 14 3) ∧
    decodeControl 0x34CB0141 = .ok (.fsqrt 6 11 0 1) ∧
    decodeControl 0x37E449B8 = .ok (.fmin 31 4 9 14) ∧
    decodeControl 0x37E449F8 = .ok (.fmax 31 4 9 14) ∧
    decodeControl 0x37E40224 = .ok (.fabs 31 4 9) ∧
    decodeControl 0x37E40264 = .ok (.fneg 31 4 9) ∧
    decodeControl 0x371D129C = .ok (.feq 24 29 2 7) ∧
    decodeControl 0x371D12DC = .ok (.flt 24 29 2 7) ∧
    decodeControl 0x371D131C = .ok (.fle 24 29 2 7) := by decide

/-- Control words of major 0x10, each field at a value of its own. -/
theorem test_decode_control_10 :
    decodeControl 0x43E4F14D = .ok (.bEq 31 4 61773) := by decide

/-- Control words of major 0x11, each field at a value of its own. -/
theorem test_decode_control_11 :
    decodeControl 0x47E4F14D = .ok (.bNe 31 4 61773) := by decide

/-- Control words of major 0x12, each field at a value of its own. -/
theorem test_decode_control_12 :
    decodeControl 0x4BE4F14D = .ok (.bLt 31 4 61773) := by decide

/-- Control words of major 0x13, each field at a value of its own. -/
theorem test_decode_control_13 :
    decodeControl 0x4FE4F14D = .ok (.bGe 31 4 61773) := by decide

/-- Control words of major 0x14, each field at a value of its own. -/
theorem test_decode_control_14 :
    decodeControl 0x50CBF14E = .ok (.bLtn 6 11 61774) := by decide

/-- Control words of major 0x15, each field at a value of its own. -/
theorem test_decode_control_15 :
    decodeControl 0x54CBF14E = .ok (.bGen 6 11 61774) := by decide

/-- Control words of major 0x16, each field at a value of its own. -/
theorem test_decode_control_16 :
    decodeControl 0x5800A5C6 = .ok (.jmp 42438) := by decide

/-- Control words of major 0x17, each field at a value of its own. -/
theorem test_decode_control_17 :
    decodeControl 0x5C00A5C7 = .ok (.call 42439) := by decide

/-- Control words of major 0x18, each field at a value of its own. -/
theorem test_decode_control_18 :
    decodeControl 0x60CB0000 = .ok (.callr 6 11) ∧
    decodeControl 0x601F0001 = .ok (.jmpr 31) := by decide

/-- Control words of major 0x20, each field at a value of its own. -/
theorem test_decode_control_20 :
    decodeControl 0x83E44D38 = .ok (.ldV 31 4 9 2 1 56) := by decide

/-- Control words of major 0x21, each field at a value of its own. -/
theorem test_decode_control_21 :
    decodeControl 0x87E44C33 = .ok (.stV 31 4 9 2 51) := by decide

/-- Control words of major 0x22, each field at a value of its own. -/
theorem test_decode_control_22 :
    decodeControl 0x8BE44D38 = .ok (.ldI 31 4 9 2 1 56) := by decide

/-- Control words of major 0x23, each field at a value of its own. -/
theorem test_decode_control_23 :
    decodeControl 0x8FE44C33 = .ok (.stI 31 4 9 2 51) := by decide

/-- Control words of major 0x24, each field at a value of its own. -/
theorem test_decode_control_24 :
    decodeControl 0x93E44D38 = .ok (.ldW 31 4 9 2 1 56) := by decide

/-- Control words of major 0x25, each field at a value of its own. -/
theorem test_decode_control_25 :
    decodeControl 0x97E44D38 = .ok (.ldA 31 4 9 2 1 56) := by decide

/-- Control words of major 0x26, each field at a value of its own. -/
theorem test_decode_control_26 :
    decodeControl 0x9BE44D38 = .ok (.ldC 31 4 9 2 1 56) := by decide

/-- Control words of major 0x27, each field at a value of its own. -/
theorem test_decode_control_27 :
    decodeControl 0x9FE44C33 = .ok (.stC 31 4 9 2 51) := by decide

/-- Control words of major 0x28, each field at a value of its own. -/
theorem test_decode_control_28 :
    decodeControl 0xA3E14B8A = .ok (.spld 31 84874) := by decide

/-- Control words of major 0x29, each field at a value of its own. -/
theorem test_decode_control_29 :
    decodeControl 0xA7E14B8A = .ok (.spst 31 84874) := by decide

/-- Control words of major 0x3F, each field at a value of its own. -/
theorem test_decode_control_3f :
    decodeControl 0xFC18E801 = .ok (.crd 24 29) ∧
    decodeControl 0xFC18E802 = .ok (.cwr 24 29) ∧
    decodeControl 0xFC1F2003 = .ok (.cset 31 4) ∧
    decodeControl 0xFC1F2004 = .ok (.cclr 31 4) ∧
    decodeControl 0xFC003010 = .ok (.sleep 6) ∧
    decodeControl 0xFC000011 = .ok .yield ∧
    decodeControl 0xFC000012 = .ok .exit ∧
    decodeControl 0xFC000013 = .ok .tret ∧
    decodeControl 0xFC00F820 = .ok (.xinv 31) ∧
    decodeControl 0xFC180030 = .ok (.brk 24) := by decide

/-- Control words of major 0x30, each field at a value of its own. -/
theorem test_decode_control_30 :
    decodeControl 0xC265C0AF = .ok (.sbind 38 11 16 1 2 15) ∧
    decodeControl 0xC2600180 = .ok (.swait 38 1) ∧
    decodeControl 0xC2D00200 = .ok (.sclear 45 0) := by decide

/-- Control words of major 0x31, each field at a value of its own. -/
theorem test_decode_control_31 :
    decodeControl 0xC74CF8C8 = .ok (.copyIn 52 25 30 3 8) ∧
    decodeControl 0xC7B01580 = .ok (.copyOut 59 0 5 2) ∧
    decodeControl 0xC74CFAC0 = .ok (.copyBb 52 25 30 3 0) ∧
    decodeControl 0xC6600300 = .ok (.hwait 38) ∧
    decodeControl 0xC5F00301 = .ok (.hrel 31) ∧
    decodeControl 0xC665C302 = .ok (.hstat 38 11 16) := by decide

/-- Control words of major 0x32, each field at a value of its own. -/
theorem test_decode_control_32 :
    decodeControl 0xC98E8827 = .ok (.mma 24 29 2 39) ∧
    decodeControl 0xC9F2246E = .ok (.mmaz 31 4 9 46) ∧
    decodeControl 0xCAD95C81 = .ok (.mdrain 45 18 23 0 1) ∧
    decodeControl 0xCA6580C0 = .ok (.msatr 38 11) ∧
    decodeControl 0xCA600100 = .ok (.mwait 38) := by decide

/-- Control words of major 0x33, each field at a value of its own. -/
theorem test_decode_control_33_1 :
    decodeControl 0xCDF22406 = .ok (.vadd 31 4 9 2) ∧
    decodeControl 0xCDF2240A = .ok (.vsub 31 4 9 2) ∧
    decodeControl 0xCDF2240E = .ok (.vmul 31 4 9 2) ∧
    decodeControl 0xCE65C011 = .ok (.vmulh 38 11 16 1) ∧
    decodeControl 0xCDF22416 = .ok (.vmin 31 4 9 2) ∧
    decodeControl 0xCDF2241A = .ok (.vmax 31 4 9 2) ∧
    decodeControl 0xCDF2241F = .ok (.vabs 31 4 9) ∧
    decodeControl 0xCDF22423 = .ok (.vneg 31 4 9) ∧
    decodeControl 0xCDF22426 = .ok (.vavg 31 4 9 2) ∧
    decodeControl 0xCE65C029 = .ok (.vabsd 38 11 16 1) ∧
    decodeControl 0xCDF2242E = .ok (.vdiv 31 4 9 2) ∧
    decodeControl 0xCDF22432 = .ok (.vrem 31 4 9 2) ∧
    decodeControl 0xCDF22442 = .ok (.vand 31 4 9 2) ∧
    decodeControl 0xCD8E8847 = .ok (.vor 24 29 2 3) ∧
    decodeControl 0xCDF2244A = .ok (.vxor 31 4 9 2) ∧
    decodeControl 0xCDF2244F = .ok (.vnot 31 4 9) ∧
    decodeControl 0xCDF22452 = .ok (.vshl 31 4 9 2) ∧
    decodeControl 0xCDF22456 = .ok (.vshr 31 4 9 2) ∧
    decodeControl 0xCDF2245A = .ok (.vsra 31 4 9 2) ∧
    decodeControl 0xCE65C05D = .ok (.vrotl 38 11 16 1) ∧
    decodeControl 0xCDF22463 = .ok (.vclz 31 4 9) ∧
    decodeControl 0xCDF22467 = .ok (.vctz 31 4 9) ∧
    decodeControl 0xCE65C06B = .ok (.vpopc 38 11 16) ∧
    decodeControl 0xCE65C06F = .ok (.vbrev 38 11 16) := by decide

/-- Control words of major 0x33, each field at a value of its own. -/
theorem test_decode_control_33_2 :
    decodeControl 0xCDF22482 = .ok (.vceq 31 4 9 2) ∧
    decodeControl 0xCDF22486 = .ok (.vcne 31 4 9 2) ∧
    decodeControl 0xCDF2248A = .ok (.vclt 31 4 9 2) ∧
    decodeControl 0xCDF2248E = .ok (.vcle 31 4 9 2) ∧
    decodeControl 0xCDF22492 = .ok (.vcgt 31 4 9 2) ∧
    decodeControl 0xCDF22496 = .ok (.vcge 31 4 9 2) ∧
    decodeControl 0xCE65C09B = .ok (.vcnan 38 11 16) ∧
    decodeControl 0xCDF2249F = .ok (.vmov 31 4 9) ∧
    decodeControl 0xCE65C0C1 = .ok (.vfadd 38 11 16 1) ∧
    decodeControl 0xCE65C0C5 = .ok (.vfsub 38 11 16 1) ∧
    decodeControl 0xCE65C0C9 = .ok (.vfmul 38 11 16 1) ∧
    decodeControl 0xCE65C0CD = .ok (.vfdiv 38 11 16 1) ∧
    decodeControl 0xCE65C0D1 = .ok (.vfmin 38 11 16 1) ∧
    decodeControl 0xCE65C0D5 = .ok (.vfmax 38 11 16 1) ∧
    decodeControl 0xCE65C0DB = .ok (.vfabs 38 11 16) ∧
    decodeControl 0xCE65C0DF = .ok (.vfneg 38 11 16) ∧
    decodeControl 0xCED95CE3 = .ok (.vfsqrt 45 18 23) ∧
    decodeControl 0xCE65C0E7 = .ok (.vfrcp 38 11 16) ∧
    decodeControl 0xCF4CF8EB = .ok (.vfrsqrt 52 25 30) ∧
    decodeControl 0xCF4CF8EF = .ok (.vfscale 52 25 30 3) ∧
    decodeControl 0xCED95D03 = .ok (.vfexp2 45 18 23) ∧
    decodeControl 0xCED95D07 = .ok (.vflog2 45 18 23) ∧
    decodeControl 0xCED95D0B = .ok (.vftanh 45 18 23) ∧
    decodeControl 0xCED95D0F = .ok (.vfsigm 45 18 23) := by decide

/-- Control words of major 0x33, each field at a value of its own. -/
theorem test_decode_control_33_3 :
    decodeControl 0xCED95D13 = .ok (.vfgelu 45 18 23) ∧
    decodeControl 0xCED95D17 = .ok (.vfsilu 45 18 23) ∧
    decodeControl 0xCE65C11B = .ok (.vferf 38 11 16) ∧
    decodeControl 0xCF4CF91F = .ok (.vfsoftp 52 25 30) ∧
    decodeControl 0xCDF22703 = .ok (.vcvt 31 4 9) ∧
    decodeControl 0xCDF22707 = .ok (.vsum 31 4 9) ∧
    decodeControl 0xCE65C30B = .ok (.vmaxr 38 11 16) ∧
    decodeControl 0xCED95F0F = .ok (.vamaxr 45 18 23) := by decide

/-- Control words of major 0x34, each field at a value of its own. -/
theorem test_decode_control_34 :
    decodeControl 0xD00F9001 = .ok (.topk 31 4 1) ∧
    decodeControl 0xD00D8100 = .ok (.predrows 27 0) ∧
    decodeControl 0xD00A6600 = .ok (.prcheck 20 25) := by decide

/-- Control words of major 0x35, each field at a value of its own. -/
theorem test_decode_control_35 :
    decodeControl 0xD40F908E = .ok (.gath 31 4 1 14) ∧
    decodeControl 0xD40F9100 = .ok (.scat 31 4) := by decide

/-- Control words of major 0x36, each field at a value of its own. -/
theorem test_decode_control_36 :
    decodeControl 0xD80A0000 = .ok (.glaunch 20) ∧
    decodeControl 0xD80F9001 = .ok (.sarm 31 4) ∧
    decodeControl 0xD8032C02 = .ok (.fwait 6 11) := by decide

/-- Control words of major 0x38, each field at a value of its own. -/
theorem test_decode_control_38 :
    decodeControl 0xE0CB0015 = .ok (.ldwF 6 11 0 21) ∧
    decodeControl 0xE0CB0115 = .ok (.stwE 6 11 0 21) ∧
    decodeControl 0xE1B202DC = .ok (.ldwFt 13 18 3 28) ∧
    decodeControl 0xE1B2BB01 = .ok (.stwEt 13 18 23 0 1) ∧
    decodeControl 0xE1B204DC = .ok (.ldwFk 13 18 3 28) ∧
    decodeControl 0xE0CB0515 = .ok (.ldwQ 6 11 0 21) ∧
    decodeControl 0xE01F0609 = .ok (.fclr 31 0 9) := by decide

/-- Control words of major 0x39, each field at a value of its own. -/
theorem test_decode_control_39 :
    decodeControl 0xE7602828 = .ok (.amoSwap 27 0 5 2 1 0) ∧
    decodeControl 0xE699F074 = .ok (.amoAdd 20 25 30 3 0 1) ∧
    decodeControl 0xE699F0B4 = .ok (.amoAnd 20 25 30 3 0 1) ∧
    decodeControl 0xE5B2B8C8 = .ok (.amoOr 13 18 23 0 1 0) ∧
    decodeControl 0xE699F134 = .ok (.amoXor 20 25 30 3 0 1) ∧
    decodeControl 0xE699F174 = .ok (.amoMin 20 25 30 3 0 1) ∧
    decodeControl 0xE699F1B4 = .ok (.amoMax 20 25 30 3 0 1) ∧
    decodeControl 0xE76029E8 = .ok (.amoMinu 27 0 5 2 1 0) ∧
    decodeControl 0xE7602A28 = .ok (.amoMaxu 27 0 5 2 1 0) ∧
    decodeControl 0xE699F274 = .ok (.amoCas 20 25 30 3 0 1) ∧
    decodeControl 0xE7602AA8 = .ok (.amoFmax 27 0 5 2 1) ∧
    decodeControl 0xE5B202F0 = .ok (.amaxrr 13 18 3 0) := by decide

/-- Control words of major 0x3A, each field at a value of its own. -/
theorem test_decode_control_3a :
    decodeControl 0xEB1D1000 = .ok (.tkt 24 29 2) ∧
    decodeControl 0xE8065840 = .ok (.tkset 6 11) ∧
    decodeControl 0xE814C880 = .ok (.redinit 20 25) ∧
    decodeControl 0xEB6028C0 = .ok (.redFadd 27 0 5) ∧
    decodeControl 0xE8CB0100 = .ok (.redrd 6 11) ∧
    decodeControl 0xE81B0154 = .ok (.redLadd 27 0 5) ∧
    decodeControl 0xE81B0180 = .ok (.redLclr 27 0) ∧
    decodeControl 0xE92E99E1 = .ok (.redLdrain 9 14 19 8 1) := by decide

/-- Control words of major 0x3B, each field at a value of its own. -/
theorem test_decode_control_3b :
    decodeControl 0xECCB0000 = .ok (.sjoin 6 11) ∧
    decodeControl 0xEDB20040 = .ok (.sleave 13 18) ∧
    decodeControl 0xEFE40080 = .ok (.barw 31 4) ∧
    decodeControl 0xEFE400C0 = .ok (.bara 31 4) ∧
    decodeControl 0xECCB8100 = .ok (.barwp 6 11 16) ∧
    decodeControl 0xECCB0140 = .ok (.binit 6 11) ∧
    decodeControl 0xECCB0180 = .ok (.sstat 6 11) := by decide

/-- Control words of major 0x3C, each field at a value of its own. -/
theorem test_decode_control_3c :
    decodeControl 0xF0CB0000 = .ok (.lkacq 6 11 0) ∧
    decodeControl 0xF0CB0040 = .ok (.lktry 6 11 0) ∧
    decodeControl 0xF0CB0080 = .ok (.lkrel 6 11) ∧
    decodeControl 0xF36000C0 = .ok (.lkrelall 27) ∧
    decodeControl 0xF0CB0100 = .ok (.lkreg 6 11) ∧
    decodeControl 0xF2990140 = .ok (.lkunreg 20 25) ∧
    decodeControl 0xF0C00180 = .ok (.lkmat 6) := by decide

/-- Control words of major 0x3D, each field at a value of its own. -/
theorem test_decode_control_3d :
    decodeControl 0xF4000660 = .ok (.fence 6 3 0) := by decide

/-- Element operation words, each field at a value of its own. -/
theorem test_decode_element_1 :
    decodeElement 0x01614454 = some (.elemAdd 3 0 5 0 1 84) ∧
    decodeElement 0x02614454 = some (.elemSub 3 0 5 0 1 84) ∧
    decodeElement 0x03614454 = some (.elemMul 3 0 5 0 1 84) ∧
    decodeElement 0x045F0456 = some (.elemMulh 2 7 12 1 86) ∧
    decodeElement 0x0561404F = some (.elemMin 3 0 5 0 79) ∧
    decodeElement 0x0661404F = some (.elemMax 3 0 5 0 79) ∧
    decodeElement 0x0760084F = some (.elemAbs 3 0 1 0 79) ∧
    decodeElement 0x0860084F = some (.elemNeg 3 0 1 0 79) ∧
    decodeElement 0x09616454 = some (.elemAvg 3 0 5 2 1 84) ∧
    decodeElement 0x0A5F085B = some (.elemAbsd 2 7 12 1 0 91) ∧
    decodeElement 0x0B614454 = some (.elemDiv 3 0 5 0 1 84) ∧
    decodeElement 0x0C61404F = some (.elemRem 3 0 5 0 79) ∧
    decodeElement 0x1061404F = some (.elemAnd 3 0 5 0 79) ∧
    decodeElement 0x11878448 = some (.elemOr 4 1 14 1 72) ∧
    decodeElement 0x1261404F = some (.elemXor 3 0 5 0 79) ∧
    decodeElement 0x1360044A = some (.elemNot 3 0 1 74) ∧
    decodeElement 0x1461404F = some (.elemShl 3 0 5 0 79) ∧
    decodeElement 0x1561404F = some (.elemShr 3 0 5 0 79) ∧
    decodeElement 0x1661404F = some (.elemSra 3 0 5 0 79) ∧
    decodeElement 0x175F0456 = some (.elemRotl 2 7 12 1 86) ∧
    decodeElement 0x1860044A = some (.elemClz 3 0 1 74) ∧
    decodeElement 0x1960044A = some (.elemCtz 3 0 1 74) ∧
    decodeElement 0x1A41C051 = some (.elemPopc 2 7 0 81) ∧
    decodeElement 0x1B41C051 = some (.elemBrev 2 7 0 81) := by decide

/-- Element operation words, each field at a value of its own. -/
theorem test_decode_element_2 :
    decodeElement 0x2061404F = some (.elemCeq 3 0 5 0 79) ∧
    decodeElement 0x2161404F = some (.elemCne 3 0 5 0 79) ∧
    decodeElement 0x2261404F = some (.elemClt 3 0 5 0 79) ∧
    decodeElement 0x2361404F = some (.elemCle 3 0 5 0 79) ∧
    decodeElement 0x2461404F = some (.elemCgt 3 0 5 0 79) ∧
    decodeElement 0x2561404F = some (.elemCge 3 0 5 0 79) ∧
    decodeElement 0x2641C051 = some (.elemCnan 2 7 0 81) ∧
    decodeElement 0x2760044A = some (.elemMov 3 0 1 74) ∧
    decodeElement 0x305F1460 = some (.elemFadd 2 7 12 1 0 1 96) ∧
    decodeElement 0x315F1460 = some (.elemFsub 2 7 12 1 0 1 96) ∧
    decodeElement 0x325F1460 = some (.elemFmul 2 7 12 1 0 1 96) ∧
    decodeElement 0x335F1460 = some (.elemFdiv 2 7 12 1 0 1 96) ∧
    decodeElement 0x345F0456 = some (.elemFmin 2 7 12 1 86) ∧
    decodeElement 0x355F0456 = some (.elemFmax 2 7 12 1 86) ∧
    decodeElement 0x3641C051 = some (.elemFabs 2 7 0 81) ∧
    decodeElement 0x3741C051 = some (.elemFneg 2 7 0 81) ∧
    decodeElement 0x3823B462 = some (.elemFsqrt 1 14 3 0 1 98) ∧
    decodeElement 0x3941C85B = some (.elemFrcp 2 7 0 1 0 91) ∧
    decodeElement 0x3A016869 = some (.elemFrsqrt 0 5 2 1 0 105) ∧
    decodeElement 0x3B16B46E = some (.elemFscale 0 5 10 3 0 1 110) ∧
    decodeElement 0x4023B462 = some (.elemFexp2 1 14 3 0 1 98) ∧
    decodeElement 0x4123B462 = some (.elemFlog2 1 14 3 0 1 98) ∧
    decodeElement 0x4223B462 = some (.elemFtanh 1 14 3 0 1 98) ∧
    decodeElement 0x4323B462 = some (.elemFsigm 1 14 3 0 1 98) := by decide

/-- Element operation words, each field at a value of its own. -/
theorem test_decode_element_3 :
    decodeElement 0x4423B462 = some (.elemFgelu 1 14 3 0 1 98) ∧
    decodeElement 0x4523B462 = some (.elemFsilu 1 14 3 0 1 98) ∧
    decodeElement 0x4641C85B = some (.elemFerf 2 7 0 1 0 91) ∧
    decodeElement 0x47016869 = some (.elemFsoftp 0 5 2 1 0 105) ∧
    decodeElement 0x48601404 = some (.elemCvt 3 0 1 0 1 4) ∧
    decodeElement 0x495F0400 = some (.elemPack 2 7 12 1024) ∧
    decodeElement 0x4A014000 = some (.elemUnpklo 0 5 0) ∧
    decodeElement 0x4B014000 = some (.elemUnpkhi 0 5 0) ∧
    decodeElement 0x4C016400 = some (.elemFround 0 5 2 1) ∧
    decodeElement 0x4D238400 = some (.elemFsign 1 14 1) ∧
    decodeElement 0x505F0800 = some (.elemIacc 2 7 12 1 0) ∧
    decodeElement 0x515F1400 = some (.elemFacc 2 7 12 1 0 1) ∧
    decodeElement 0x5238C000 = some (.elemImaxr 1 6 3 0) ∧
    decodeElement 0x5338C000 = some (.elemFmaxr 1 6 3 0) ∧
    decodeElement 0x54168400 = some (.elemFamaxr 0 5 10 1) ∧
    decodeElement 0x55614000 = some (.elemCnt 3 0 5 0) := by decide

/-- Memory element words, each field at a value of its own. -/
theorem test_decode_memelement :
    decodeElement 0x80B72DE1 = some (.memLd 45 50 55 4 1) ∧
    decodeElement 0x81D39F98 = some (.memLds 52 57 62 3 0) ∧
    decodeElement 0x82B72DE1 = some (.memSt 45 50 55 4 1) ∧
    decodeElement 0x83EC0152 = some (.memLdwf 59 0 5 2) ∧
    decodeElement 0x84EC0152 = some (.memStwe 59 0 5 2) ∧
    decodeElement 0x85EC0152 = some (.memLdwk 59 0 5 2) ∧
    decodeElement 0x86EC0152 = some (.memAadd 59 0 5 2) ∧
    decodeElement 0x87EC0152 = some (.memAmax 59 0 5 2) ∧
    decodeElement 0x88EC0152 = some (.memAmin 59 0 5 2) ∧
    decodeElement 0x89EC0152 = some (.memAswp 59 0 5 2) ∧
    decodeElement 0x8AEC0152 = some (.memAand 59 0 5 2) ∧
    decodeElement 0x8BD39F93 = some (.memAor 52 57 62 3) ∧
    decodeElement 0x8CEC0152 = some (.memAxor 59 0 5 2) ∧
    decodeElement 0x8DEC0141 = some (.memPfch 59 0 5) := by decide

/-- Switch words, each field at a value of its own. -/
theorem test_decode_switch :
    decodeSwitch 0x1E08 = some (.opPass 7 4 1) ∧
    decodeSwitch 0x3E0E = some (.opFork 7 4 1 6) ∧
    decodeSwitch 0x598A = some (.opSteer 6 3 0 1 2) ∧
    decodeSwitch 0x798A = some (.opMerge 6 3 0 1 2) ∧
    decodeSwitch 0x9988 = some (.opCarry 6 3 0 1) ∧
    decodeSwitch 0xAB81 = some (.opNullFill 2 7 0 1) ∧
    decodeSwitch 0xD988 = some (.opEgate 6 3 0 1) ∧
    decodeSwitch 0xCC51 = some (.opEgateSw 3 0 5 0) := by decide
/-- Control words that the manual works out in its chapters on encodings and synchronisation and in its example programs. -/
theorem test_decode_worked_control_1 :
    decodeControl 0x94A21D03 = .ok (.ldA 5 2 3 2 1 3) ∧
    decodeControl 0x4480FFFD = .ok (.bNe 4 0 0xFFFD) ∧
    decodeControl 0xA4E00202 = .ok (.spst 7 0x202) ∧
    decodeControl 0xFC000012 = .ok .exit ∧
    decodeControl 0x81213E00 = .ok (.ldV 9 1 7 3 0 0) ∧
    decodeControl 0x0D290002 = .ok (.popc 9 9) ∧
    decodeControl 0x4DC0FFF9 = .ok (.bGe 14 0 0xFFF9) ∧
    decodeControl 0x892A0400 = .ok (.ldI 9 10 0 2 0 0) ∧
    decodeControl 0xFC303002 = .ok (.cwr 0x30 6) ∧
    decodeControl 0xC0000010 = .ok (.sbind 0 0 0 0 1 0) ∧
    decodeControl 0xC0110010 = .ok (.sbind 1 2 0 0 1 0) ∧
    decodeControl 0xD8010C01 = .ok (.sarm 2 3) ∧
    decodeControl 0xD8019002 = .ok (.fwait 3 4) ∧
    decodeControl 0x81610501 = .ok (.ldV 11 1 0 2 1 1) ∧
    decodeControl 0x5556000E = .ok (.bGen 10 22 14) ∧
    decodeControl 0xE1AC0040 = .ok (.ldwF 13 12 1 0) ∧
    decodeControl 0x05CDA020 = .ok (.mins 14 13 20) ∧
    decodeControl 0xE1CC0140 = .ok (.stwE 14 12 1 0) ∧
    decodeControl 0xE40478E0 = .ok (.amoOr 0 4 15 2 0 0) ∧
    decodeControl 0x4440FFEE = .ok (.bNe 2 0 0xFFEE) ∧
    decodeControl 0xC4052C00 = .ok (.copyIn 0 10 11 0 0) ∧
    decodeControl 0xC4163440 = .ok (.copyIn 1 12 13 1 0) ∧
    decodeControl 0xF4000260 = .ok (.fence 2 3 0) ∧
    decodeControl 0xD0010D00 = .ok (.predrows 2 3) ∧
    decodeControl 0xF4000560 = .ok (.fence 5 3 0) := by decide

/-- More of them. -/
theorem test_decode_worked_control_2 :
    decodeControl 0xC8029840 = .ok (.mmaz 0 5 6 0) ∧
    decodeControl 0xD0020E00 = .ok (.prcheck 4 3) ∧
    decodeControl 0xC8029C00 = .ok (.mma 0 5 7 0) ∧
    decodeControl 0xC8002496 = .ok (.mdrain 0 0 9 1 6) ∧
    decodeControl 0xF4000340 = .ok (.fence 3 2 0) ∧
    decodeControl 0xC4273D80 = .ok (.copyOut 2 14 15 2) ∧
    decodeControl 0xC4200300 = .ok (.hwait 2) ∧
    decodeControl 0xF0E50010 = .ok (.lkacq 7 5 2) ∧
    decodeControl 0xC80BE840 = .ok (.mmaz 0 23 26 0) ∧
    decodeControl 0xC80D6C98 = .ok (.mdrain 0 26 27 1 8) ∧
    decodeControl 0xCC0C7903 = .ok (.vfexp2 0 24 30) ∧
    decodeControl 0xCC09D0CA = .ok (.vfmul 0 19 20 2) ∧
    decodeControl 0xCC0848C0 = .ok (.vfadd 0 16 18 0) ∧
    decodeControl 0xCC0850CE = .ok (.vfdiv 0 16 20 2) ∧
    decodeControl 0xF400056C = .ok (.fence 5 3 3) ∧
    decodeControl 0xE96C5000 = .ok (.tkt 11 12 10) ∧
    decodeControl 0xF0E60028 = .ok (.lkacq 7 6 5) ∧
    decodeControl 0xF00000C0 = .ok (.lkrelall 0) ∧
    decodeControl 0xE0A20082 = .ok (.ldwF 5 2 2 2) ∧
    decodeControl 0xE0E30100 = .ok (.stwE 7 3 0 0) ∧
    decodeControl 0xE4653068 = .ok (.amoAdd 3 5 6 2 1 0) ∧
    decodeControl 0xE48602E8 = .ok (.amaxrr 4 6 2 1) ∧
    decodeControl 0xE92218C0 = .ok (.redFadd 9 2 3) ∧
    decodeControl 0xEC460080 = .ok (.barw 2 6) ∧
    decodeControl 0xF0640020 = .ok (.lkacq 3 4 4) ∧
    decodeControl 0xF4000224 = .ok (.fence 2 1 1) := by decide

/-- Node and switch words that the manual works out: in the chapters on encodings and element operations. -/
theorem test_decode_worked_nodes :
    decodeElement 0x01048008 = some (.elemAdd 0 1 2 0 0 8) ∧ decodeElement 0x23048009 = some (.elemCle 0 1 2 0 9) ∧
    decodeElement 0x40018000 = some (.elemFexp2 0 6 0 0 0 0) ∧ decodeElement 0x510E0000 = some (.elemFacc 0 3 8 0 0 0) ∧
    decodeElement 0x8003F051 = some (.memLd 0 63 1 2 1) ∧ decodeSwitch 0x4652 = some (.opSteer 1 4 5 0 2) ∧
    decodeSwitch 0x2602 = some (.opFork 1 4 0 2) ∧ decodeSwitch 0x7835 = some (.opMerge 6 0 3 0 5) := by decide

/-- Words that are no instruction: the reasons of R386. -/
theorem test_decode_refused :
    decodeControl 0 = .error 1 ∧ decodeControl 0x38000000 = .error 1 ∧ decodeControl 0x040007FF = .error 2 ∧
    decodeControl 0x0D293802 = .error 3 ∧ decodeElement 0x01043008 = none ∧ decodeSwitch 0xE000 = none := by decide

/-- The encoder gives the manual's words. -/
theorem test_encode_worked :
    encodeControl (.ldA 5 2 3 2 1 3) = some 0x94A21D03 ∧ encodeControl (.bNe 4 0 0xFFFD) = some 0x4480FFFD ∧
    encodeControl (.spst 7 0x202) = some 0xA4E00202 ∧ encodeElement (.memLd 0 63 1 2 1) = some 0x8003F051 ∧
    encodeSwitch (.opMerge 6 0 3 0 5) = some 0x7835 ∧ encode (.opFork 1 4 0 2) = some (16, 0x2602) := by decide

/-- Scalar floating and conversion formats (R386). -/
theorem test_wf_formats :
    wf (.cvt 1 2 12 0 0 0) = false ∧ wf (.cvt 1 2 0 12 0 0) = false ∧ wf (.fadd 1 2 3 5 0) = false ∧ wf (.fsqrt 1 2 9 0) = false ∧
    wf (.feq 1 2 3 0) = false ∧ wf (.cvt 1 2 11 11 0 0) = true ∧ wf (.fadd 1 2 3 6 0) = true := by decide

/-- Load widths, ports, bindings, buffers and handles (R163, R213, R386). -/
theorem test_wf_scalar_and_streams :
    wf (.ldV 1 2 3 3 1 0) = false ∧ wf (.ldI 1 2 3 3 1 0) = false ∧ wf (.sbind 8 0 0 1 1 0) = false ∧ wf (.sbind 0 0 0 0 0 0) = false ∧
    wf (.sbind 0 0 0 1 1 11) = false ∧ wf (.sbind 0 0 0 0 1 1) = false ∧ wf (.swait 8 1) = false ∧ wf (.sclear 8 1) = false ∧
    wf (.copyIn 0 1 2 3 0) = false ∧ wf (.copyIn 0 1 2 0 12) = false ∧ wf (.copyOut 0 1 2 3) = false ∧ wf (.copyBb 0 1 2 0 0) = false ∧
    wf (.hstat 0 3 3) = false ∧ wf (.hstat 0 0 0) = true ∧ wf (.swait 63 0) = true := by decide

/-- Engine streams, page pairs, sources and destinations (R386). -/
theorem test_wf_engines :
    wf (.mma 8 1 2 0) = false ∧ wf (.mma 0 1 2 16) = false ∧ wf (.mdrain 0 1 2 3 6) = false ∧ wf (.mdrain 0 1 2 0 11) = false ∧
    wf (.mdrain 0 1 2 1 5) = false ∧ wf (.mwait 8) = false ∧ wf (.vadd 8 1 2 0) = false ∧ wf (.vadd 0 1 2 3) = false ∧
    wf (.vabs 8 1 2) = false ∧ wf (.gath 1 2 0 12) = false ∧ wf (.mma 7 1 2 15) = true := by decide

/-- Atomics, row accumulators and fences (R386). -/
theorem test_wf_synchronisation :
    wf (.amoAdd 1 2 3 0 0 0) = false ∧ wf (.amoAdd 1 2 3 3 0 1) = false ∧ wf (.amoFmax 1 2 3 0 0) = false ∧ wf (.amaxrr 1 2 3 0) = false ∧
    wf (.redLadd 1 2 5) = false ∧ wf (.redLclr 1 2) = false ∧ wf (.redLdrain 1 2 2 6 0) = false ∧ wf (.redLdrain 1 2 0 11 0) = false ∧
    wf (.fence 0 1 5) = false ∧ wf (.fence 7 7 4) = true := by decide

/-- Node words (R165, R167, R279, R292, R396). -/
theorem test_wf_nodes :
    wf (.elemAdd 0 0 6 0 0 0) = false ∧ wf (.elemAdd 5 0 2 0 0 0) = false ∧ wf (.elemAdd 0 6 2 0 0 0) = false ∧
    wf (.elemAdd 1 1 2 0 0 8) = false ∧ wf (.elemAdd 4 4 2 0 0 0) = false ∧ wf (.elemAdd 0 0 2 0 0 1) = false ∧
    wf (.elemFadd 0 0 2 0 0 0 0) = false ∧ wf (.elemCvt 0 6 0 0 0 12) = false ∧ wf (.memLd 0 63 1 4 1) = false ∧ wf (.memLd 0 63 1 2 4) = false ∧
    wf (.memLd 0 63 1 3 0) = false ∧ wf (.memLdwf 0 63 1 4) = false ∧ wf (.elemAdd 0 1 2 0 0 8) = true ∧ wf (.memLd 0 63 1 3 1) = true := by decide

/-! Small states. -/

/-- The state after a step, or the state after reset where there is none. -/
def after (o : Out) : State := match o with
  | .next s => s
  | _ => State.reset

/-- A thread of context 0 at 0x10000, with a trap handler at 0x20000 and 512 bytes of spill space. -/
def thread0 : Thread :=
  { ctx := 0, launch := 1, task := 0, regs := [], pc := 0x10000, status := 0, cause := 0, epc := 0, tvec := 0x20000, evaddr := 0, escratch := 0,
    spillov := 0, spillsz := 512, prio := 3, prioCap := 3, setid := 0xFFFF, txnOwner := .thread 0, masks := defaultMasks, icnt := 0,
    wait := .none, asyncs := [], woundDue := false, posted := [], armed := [], openForms := [], life := .running, failTask := false,
    halts := [], barwHeld := [], slotSince := 0, word := 0, ifetch := none, peek := none }
/-- Context 0 of partition 0, which maps the first GiB, with cluster 0 bound to it and a thread in slot 0, whose turn it is. -/
def bedOf (th : Thread) : State :=
  let s := loadCtxOf State.reset
  { modCluster s 0 (fun k => { k with bound := some 0 }) with threads := [(0, th)], cur := .thread 0 }
def bed : State := bedOf thread0
/-- The same with values in g1, g2 and so on. -/
def regs (vs : List Word) : Thread := { thread0 with regs := (vs.zipIdx).map (fun p => (p.2 + 1, p.1)) }
def bedRegs (vs : List Word) : State := bedOf (regs vs)
/-- Thread 0 of a state. -/
def thr (s : State) : Thread := (tblGet 0 s.threads).getD thread0
/-- What thread 0 of `bedRegs vs` has in g`d` after an instruction, and its pc. -/
def runReg (i : Instr) (vs : List Word) (d : BitVec 5) : Word := regGet (thr (after (exec i (bedRegs vs)))) d
def runPc (i : Instr) (vs : List Word) : Word := (thr (after (exec i (bedRegs vs)))).pc
def runCause (i : Instr) (vs : List Word) : Word := (thr (after (exec i (bedRegs vs)))).cause

/-- A node of formation 0 of `bed`, its words loaded. -/
def node0 (cls : Nat) (w : BitVec 32) : Node :=
  { num := 0, cls := cls, memSwap := false, shadowIdx := none, overlay := none, word := w, shadow := w, slot := 0, slotShadow := 0, ii := 0, loop := none,
    loopShadow := none, loops := [], wher := 0, sel := false, asked := true, loaded := true, blocked := false, chase := dataTok false 0,
    grp := none, carry := .open_, slots := [], turn := 0, idx := .none, last := .none, idxGiven := [], lastGiven := [], cur := none,
    accs := [], began := 0, inj := [], fires := 0, lastFire := none, passed := false, eos := false, drained := false, marked := false,
    fetch := none, kept := [], held := [], offer := [], conds := [], ops := 0 }
/-- An arc from node 1 to port `p` of node 0 with tokens that have arrived, and one from port `p` of node 0 to node 1. -/
def inArc0 (p : Nat) (ts : List Tok) : Arc := ⟨1, 0, 0, p, 2, false, [], ts.map (fun t => ⟨t, 1, 0⟩), 0, [], []⟩
def outArc0 (p : Nat) : Arc := ⟨0, p, 1, p, 2, false, [], [], 0, [], []⟩
/-- Formation 0 with that node and a router operator beside it. -/
def form0 (cls : Nat) (w : BitVec 32) (arcs : List Arc) : Form :=
  { newForm bed 0 1 0 0 none (some 0) 0 1 [] 0 with phase := .armed, nodes := [node0 cls w, node0 2 0], arcs := arcs }
def formBed (fm : Form) : State := { bed with forms := [(0, fm)], cur := .node 0 0 }
def nodeBed (cls : Nat) (w : BitVec 32) (arcs : List Arc) : State := formBed (form0 cls w arcs)
/-- The data of the first token on arc `a` of formation 0 after a step. -/
def outTok (o : Out) (a : Nat) : Option Tok := ((((formAt (after o) 0).bind (fun fm => fm.arcs[a]?)).map (·.toks)).getD []).head?.map (·.tok)
def data (v : BitVec 32) : Tok := dataTok false v
def eos : Tok := ⟨2, false, 0, 0⟩

/-- A command that runs on unit `u` of cluster 0, and one at the head of its queue. -/
def cmd0 (w : Nat) (ga gb : Word) (desc : List Byte) : Cmd := newCmd 0 thread0 w ga gb desc
def unitBed (u : Nat) (c : Cmd) : State := setUnit bed 0 u ⟨[], some c, 0⟩
def queueBed (u : Nat) (c : Cmd) : State := setUnit bed 0 u ⟨[c], none, 0⟩
/-- A command at the head of host queue 0. -/
def hostCmd (op ctx : Nat) (body : List Byte) : HostCmd := ⟨op, 0, ctx, body, 0, 0⟩
def hostBed (c : HostCmd) : State := { bed with queues := [(0, ⟨1, none, [c], []⟩)] }

theorem bed_running (th : Thread) : Running (bedOf th) 0 th := ⟨rfl, rfl⟩
theorem bed_at (cls : Nat) (w : BitVec 32) (arcs : List Arc) : AtNode (nodeBed cls w arcs) 0 (form0 cls w arcs) 0 (node0 cls w) := ⟨rfl, rfl, rfl⟩

/-! Steps, with results from the manual's tables and examples. -/

/-- The borderline results of R282 (listed after it). -/
theorem test_elem_add_i8 : aluResult 0x01 0 0 false 0 100 100 = some ⟨0xFFFFFFC8, false⟩ ∧ aluResult 0x01 0 0 true 0 100 100 = some ⟨0x7F, false⟩ := by
  decide
theorem test_elem_neg_n16 : aluResult 0x08 4 0 false 0 5 0 = some ⟨0xFFFB, false⟩ ∧ aluResult 0x08 4 0 true 0 5 0 = some ⟨0, false⟩ := by decide
theorem test_elem_abs_i16 : aluResult 0x07 1 0 false 0 0x8000 0 = some ⟨0xFFFF8000, false⟩ ∧ aluResult 0x07 1 0 true 0 0x8000 0 = some ⟨0x7FFF, false⟩ := by
  decide
theorem test_elem_div_i32 : aluResult 0x0B 2 0 false 0 0x80000000 0xFFFFFFFF = some ⟨0x80000000, false⟩ ∧
    aluResult 0x0B 2 0 true 0 0x80000000 0xFFFFFFFF = some ⟨0x7FFFFFFF, false⟩ := by decide
theorem test_elem_div_n8_by_zero : aluResult 0x0B 3 0 false 0 9 0 = some ⟨0xFF, false⟩ ∧ aluResult 0x0B 3 0 true 0 9 0 = some ⟨0xFF, false⟩ := by decide
theorem test_elem_avg_i32 : aluResult 0x09 2 0 false 0 3 4 = some ⟨4, false⟩ := by decide
/-- The decoded examples of R82: -5.0, 6.0, -0.75 and 2^-16. -/
theorem test_float_values : xEq (fmtVal .bf16 0xC0A0) (.fin true 5 1) = true ∧ xEq (fmtVal .e4m3 0x4C) (.fin false 6 1) = true ∧
    xEq (fmtVal .e4m3 0xB4) (.fin true 3 4) = true ∧ xEq (fmtVal .e5m2 0x01) (.fin false 1 65536) = true := by decide
/-- The example "three products into one entry" of the chapter on numbers: the entry's words, and what it drains to. -/
theorem test_la320_three_products :
    let acc := laAdd (laAdd (laAdd 0 ⟨.fin false 3 1, false⟩) ⟨.fin true 1 8, false⟩) ⟨.fin false 1 (2 ^ 170), false⟩
    acc.extractLsb' 288 32 = 0x00010000 ∧ acc.extractLsb' 192 96 = 0 ∧ acc.extractLsb' 160 32 = 2 ∧ acc.extractLsb' 128 32 = 0xE0000000 ∧
    acc.extractLsb' 0 128 = 0 ∧ laDrain acc .bf16 .rne false = 0x4038 := by decide +kernel
theorem test_la320_minus_eighth : (laAdd 0 ⟨.fin true 1 8, false⟩).extractLsb' 288 32 = 0xFF00FFFF := by decide +kernel

/-- R177: a sum wraps. -/
theorem test_add_wraps : runReg (.add 3 1 2) [0xFFFFFFFFFFFFFFFF, 2] 3 = 1 ∧ runPc (.add 3 1 2) [0, 0] = 0x10004 := by decide
/-- R173: a write to g0 is discarded. -/
theorem test_add_g0 : runReg (.add 0 1 1) [7] 0 = 0 := by decide
/-- R178: division by zero, and the one signed quotient outside the range. -/
theorem test_divs_corners : runReg (.divs 3 1 2) [5, 0] 3 = 0x7FFFFFFFFFFFFFFF ∧ runReg (.divs 3 1 2) [0x8000000000000000, 0xFFFFFFFFFFFFFFFF] 3 =
    0x7FFFFFFFFFFFFFFF ∧ runReg (.divs 3 1 2) [0xFFFFFFFFFFFFFFF9, 2] 3 = 0xFFFFFFFFFFFFFFFD := by decide
theorem test_rems_sign : runReg (.rems 3 1 2) [0xFFFFFFFFFFFFFFF9, 2] 3 = 0xFFFFFFFFFFFFFFFF ∧ runReg (.rems 3 1 2) [9, 0] 3 = 0 := by decide
/-- R180: a field that runs past bit 63 is cut there. -/
theorem test_exts_cut : runReg (.exts 3 1 2) [0x8000000000000000, 0x403E] 3 = 0xFFFFFFFFFFFFFFFE := by decide
/-- R181: `hik` sign-extends its immediate above bit 31. -/
theorem test_hik : runReg (.hik 1 0x8000) [] 1 = 0xFFFFFFFF80000000 := by decide
/-- R187: a branch counts words from itself. -/
theorem test_branch_back : runPc (.bNe 1 0 0xFFFD) [4] = 0xFFF4 ∧ runPc (.bNe 1 0 0xFFFD) [0] = 0x10004 := by decide
theorem test_call_links : runPc (.call 2) [] = 0x10008 ∧ runReg (.call 2) [] 31 = 0x10004 := by decide
/-- R189, R199: a target that is no multiple of 4 raises ALIGN at the jump, with space V and reason 2. -/
theorem test_jmpr_align : runCause (.jmpr 1) [0x20002] = 0x0000200200000002 ∧ runPc (.jmpr 1) [0x20002] = 0x20000 := by decide
/-- R185, R175: a format that is no scalar format raises ILLEGAL with reason 4. -/
theorem test_fadd_illegal : runCause (.fadd 1 2 3 5 0) [] = 0x0000000400000001 := by decide
/-- R184: 1.5 + 2.5 in `.bf16`, above which the result is filled (R79). -/
theorem test_fadd_bf16 : runReg (.fadd 3 1 2 6 0) [0x3FC0, 0x4020] 3 = 0x4080 := by decide
/-- R191, R174: a load waits for its reply, and the reply is extended and written. -/
theorem test_load_waits : (thr (after (exec (.ldI 3 1 0 2 1 1) (bedRegs [0x1000])))).wait =
    .load (.cell (scratchpadCell 0 0x1004)) 4 true 3 .i 0x1004 := by decide
theorem test_load_reply : regGet (thr (after (exec (.ctLoadReply 0) { bedOf { thread0 with wait := .load (.cell (scratchpadCell 0 0x1004)) 4 true 3 .i 0x1004 }
    with cells := [(scratchpadCell 0 0x1007, 0x80)] }))) 3 = 0xFFFFFFFF80000000 := by decide
/-- R174: a store is posted, and performed later. -/
theorem test_store_posts : (thr (after (exec (.stI 2 1 0 1 0) (bedRegs [0x1000, 0x1234])))).posted = [⟨scratchpadCell 0 0x1000, [0x34, 0x12], none⟩] := by decide
theorem test_store_performs : cellGet (scratchpadCell 0 0x1001) (after (exec (.storePerform 0 0)
    (bedOf { thread0 with posted := [⟨scratchpadCell 0 0x1000, [0x34, 0x12], none⟩] }))).cells = 0x12 := by decide
/-- R191: an address that is no multiple of the access size raises ALIGN with the address in `evaddr`. -/
theorem test_load_align : (thr (after (exec (.ldV 3 1 0 3 0 0) (bedRegs [0x1004])))).evaddr = 0x1004 := by decide
/-- R176, R198: entry and return. -/
theorem test_brk_and_tret : (thr (after (exec (.brk 5) bed))).epc = 0x10004 ∧ (thr (after (exec (.brk 5) bed))).status = 1 ∧
    (thr (after (exec .tret (bedOf { thread0 with status := 1, epc := 0x10008 })))).pc = 0x10008 := by decide
/-- R200: a write of a read-only register is ILLEGAL with reason 5. -/
theorem test_cwr_read_only : runCause (.cwr 0x40 1) [] = 0x0000000500000001 ∧ runReg (.crd 0x41 1) [9] 1 = 0 := by decide

/-- R303 to R308: a steer by a true control, a merge by a false one. -/
theorem test_steer : let s := nodeBed 2 0x4652 [inArc0 0 [data 7], inArc0 1 [data 1], outArc0 0, outArc0 1]
    outTok (exec (.opSteer 1 4 5 0 2) s) 2 = some (data 7) ∧ outTok (exec (.opSteer 1 4 5 0 2) s) 3 = some nullTok := by decide
theorem test_merge : let s := nodeBed 2 0x7835 [inArc0 0 [data 7], inArc0 1 [data 9], inArc0 2 [data 0], outArc0 0]
    outTok (exec (.opMerge 6 0 3 0 5) s) 3 = some (data 9) := by decide
/-- R278: an element adds its arc's token and the pool's entry; EOS passes an element of one arc unchanged. -/
theorem test_elem_firing : let fm := { form0 0 0x01048008 [inArc0 0 [data 3], outArc0 0] with pool := List.replicate 8 0 ++ [7] }
    outTok (exec (.elemAdd 0 1 2 0 0 8) (formBed fm)) 1 = some (data 10) := by decide
theorem test_elem_eos : let fm := { form0 0 0x01048008 [inArc0 0 [eos], outArc0 0] with pool := List.replicate 8 0 ++ [7] }
    outTok (exec (.elemAdd 0 1 2 0 0 8) (formBed fm)) 1 = some eos := by decide

/-- R165, R288: a `pack` whose second source is entry 8 of the pool. -/
theorem test_pack_pool : let fm := { form0 0 0x49058008 [inArc0 0 [data 0x3F80], outArc0 0] with pool := List.replicate 8 0 ++ [0xC0A0] }
    decodeElement 0x49058008 = some (.elemPack 0 1 6 8) ∧ outTok (exec (.elemPack 0 1 6 8) (formBed fm)) 1 = some (data 0xC0A03F80) := by decide

/-- R365: a NOP echoes its body; a command with a bad body is refused with 1; the responses have the header of R363. -/
theorem test_host_nop : (after (exec (.hostNop 0) (hostBed (hostCmd 0x01 0 [1, 2])))).outbox =
    [[1, 0, 0, 0x81, 0, 0, 0, 0, 0, 0, 1, 0, 2, 0, 0, 0, 0, 0, 0, 0, 0, 0, 0, 0, 1, 2]] := by decide
theorem test_host_sigev_short : (after (exec (.hostSigev 0) (hostBed (hostCmd 0x04 0 [])))).outbox =
    [[1, 0, 0, 0x84, 0, 0, 0, 0, 0, 0, 1, 0, 0, 0, 0, 0, 0, 0, 1, 0, 0, 0, 0, 0]] := by decide
/-- R365: a LOCKMAT for a partition that does not exist is refused with 4. -/
theorem test_host_lockmat_absent : (after (exec (.hostLockmat 0) (hostBed (hostCmd 0x31 5 (List.replicate 8 0))))).outbox =
    [[1, 0, 0, 0xB1, 0, 0, 0, 0, 0, 0, 1, 0, 0, 0, 0, 0, 5, 0, 4, 0, 0, 0, 0, 0]] := by decide

/-- The step fetches the word at the pc and runs it: `add g1, g2, g3`, then `elem add`. -/
theorem test_step_control : (thr (after (step (State.reset.withFetchWord 32 0x04221800)))).pc = 0x10004 := by decide
theorem test_step_node : (((formAt (after (step (State.reset.withFetchWord 32 0x01008000))) 0).bind (fun fm => fm.nodes[0]?)).map (·.fires)) = some 1 := by decide
/-- R97: bit 311 of an entry reads as zero after an addition, whatever stood there. -/
theorem test_la320_reserved : (laAdd (BitVec.ofNat 320 (2 ^ 311)) ⟨.fin false 1 1, false⟩).getLsbD 311 = false := by decide +kernel

/-! Witnesses: a concrete state and operands that meet the hypotheses of each obligation. -/

/-! Witnesses: for each statement with hypotheses, states and operands that meet them, and for its clauses. -/

theorem witness_GeneralRegisters : (31 : BitVec 5) ≠ 0 ∧ (0 : BitVec 5) ≠ 31 := by decide

/-- A context whose quota of 256 pJ the next instruction uses up. -/
def quotaBed : State := modCtx bed 0 (fun c => { c with quotaOn := true, quota := 256, instrs := 1023, paid := 1023 })
theorem witness_InstructionCompletion : tblGet 0 bed.threads = some thread0 ∧ Funded bed 0 ∧
    (∃ c, ctxOf quotaBed 0 = some c ∧ c.quotaOn = true ∧ 0 < c.quota ∧ c.quota ≤ 256 ∧ (c.paid + 1) % 1024 = 0 ∧ c.phase = .running) ∧
    haltsInForce quotaBed 0 = false := ⟨rfl, Or.inl rfl, ⟨_, rfl, by decide⟩, by decide⟩

/-- A thread in its handler, and one without a handler; a pending trap. -/
def inHandler : Thread := { thread0 with status := 1 }
def pending0 : Thread := { thread0 with asyncs := [⟨0x10, 5⟩] }
theorem witness_TrapEntries : tblGet 0 bed.threads = some thread0 ∧ (5 : Nat) < 2 ^ 16 ∧ thread0.status.getLsbD 0 = false ∧ thread0.tvec ≠ 0 ∧
    inHandler.status.getLsbD 0 = true ∧ thread0.life = .running ∧ tblGet 0 (bedOf inHandler).threads = some inHandler ∧
    tblGet 0 (bedOf pending0).threads = some pending0 ∧ pending0.asyncs = [⟨0x10, 5⟩] ∧ pending0.halts = [] ∧ pending0.wait = .none := by decide

theorem witness_IntegerArithmetic : ∃ s t th, Running s t th := ⟨_, _, _, bed_running thread0⟩
theorem witness_ComparesAndSelect : ∃ s t th, Running s t th ∧ regGet th 1 = 5 := ⟨_, _, _, bed_running (regs [5]), by decide⟩
theorem witness_BitFields : ∃ s t th, Running s t th ∧ regGet th 2 = 0x403F := ⟨_, _, _, bed_running (regs [5, 0x403F]), by decide⟩
theorem witness_ImmediatesAndShifts : ∃ s t th, Running s t th := ⟨_, _, _, bed_running (regs [5])⟩

/-- Format codes on both sides of each limit. -/
theorem witness_ScalarFloat : Running bed 0 thread0 ∧ fmtOfCode 11 = some .t2 ∧ fmtOfCode 0 = some .i8 ∧ 12 ≤ (12 : BitVec 4).toNat ∧
    fmtOfCode 6 = some .bf16 ∧ fmtOfCode 8 = some .f32 ∧ (5 : BitVec 4).toNat < 6 ∧ 8 < (9 : BitVec 4).toNat := ⟨bed_running _, by decide⟩
/-- Patterns of `.bf16`: a NaN, infinities, zeros, and finite numbers of both signs. -/
theorem witness_FloatSpecialOperands : 0x7FC0 < 2 ^ fmtWidth .bf16 ∧ infOf .bf16 false < 0x7FC0 ∧ infOf .bf16 false = 0x7F80 ∧ infOf .bf16 true = 0xFF80 ∧
    0x8000 % 2 ^ (fmtWidth .bf16 - 1) = 0 ∧ 0xC0A0 % 2 ^ (fmtWidth .bf16 - 1) ≠ 0 ∧ ¬ infOf .bf16 false < 0xC0A0 % 2 ^ (fmtWidth .bf16 - 1) := by decide
/-- Jump targets that are and are not aligned, and the minor values about the last that is assigned. -/
theorem witness_BranchesAndJumps : Running (bedRegs [0x20004]) 0 (regs [0x20004]) ∧ (regGet (regs [0x20004]) 1).toNat % 4 = 0 ∧
    (regGet (regs [0x20002]) 1).toNat % 4 ≠ 0 ∧ (1 : BitVec 5) ≠ 0 ∧ 2 ≤ (2 : BitVec 11).toNat := ⟨bed_running _, by decide⟩

/-- What a translation comes to: 1 a page of memory, 2 a peer's page, 3 a fault, 4 a page on flash that is absent. -/
def xlateIs (r : State × Xlat) : Nat := match r.2 with
  | .ok g => if g.peer then 2 else 1
  | .fault _ => 3
  | .absent _ => 4
/-- `bed` with a page of device 2 at virtual address 0, and with flash page 5, which is not present, at 0x10000. -/
def putEntry (s : State) (pa e : Nat) : State := memStore s (hbmCell defaultMasks pa) (leBytes e 16) false
def widePart : Tbl Part := [(0, { loadPart with peers := 1, fcount := 8 })]
def peerBed : State := { putEntry bed 0x4000 (0xBC + 2 * 2 ^ 120) with parts := widePart }
def flashBed : State :=
  { putEntry (putEntry (putEntry bed 0x4000 0x6001) 0x6000 0x8001) 0x8010 (0x2B + 5 * 2 ^ 64) with parts := widePart }
theorem witness_Loads : Running (bedRegs [0x7FFF8]) 0 (regs [0x7FFF8]) ∧ inCarve bed 0 0x7FFF8 8 none = false ∧
    inCarve bed 0 0x7DFC 8 none = true ∧ 0x7FFF8 % 8 = 0 ∧ 0x7FFFC % 8 ≠ 0 ∧
    xlateIs (translateWord bed 0 0x10000 needRead) = 1 ∧ xlateIs (translateWord peerBed 0 0x10000 needRead) = 2 ∧
    xlateIs (translateWord bed 0 0x40000000 needRead) = 3 ∧ xlateIs (translateWord bed 0 0x200000000000000 needRead) = 3 ∧
    xlateIs (translateWord flashBed 0 0x10000 needRead) = 4 ∧ tblGet (fillKey 0 5) flashBed.fills = none ∧
    tblGet (fillKey 0 5) (startFill flashBed 0 5 0x10000).fills ≠ none := ⟨bed_running _, by decide⟩
/-- A thread that waits for a load, and one with two stores that do not meet. -/
def loading : Thread := { thread0 with wait := .load (.cell (scratchpadCell 0 0x1000)) 4 true 3 .i 0x1000 }
def storing : Thread := { thread0 with posted := [⟨scratchpadCell 0 0x1000, [1, 2], none⟩, ⟨scratchpadCell 0 0x1002, [3], none⟩, ⟨scratchpadCell 0 0x1001, [4], none⟩] }
theorem witness_LoadRepliesAndStoresPerformed : tblGet 0 (bedOf loading).threads = some loading ∧
    loading.wait = .load (.cell (scratchpadCell 0 0x1000)) 4 true (3 : BitVec 5).toNat .i 0x1000 ∧ postedOn loading (scratchpadCell 0 0x1000) 4 = false ∧
    (memRead (bedOf loading) (scratchpadCell 0 0x1000) 4).2.reason = 0 ∧
    (memRead { bedOf loading with errs := [scratchpadCell 0 0x1000] } (scratchpadCell 0 0x1000) 4).2.reason = 1 ∧
    storing.posted[1]? = some ⟨scratchpadCell 0 0x1002, [3], none⟩ ∧ (∀ q ∈ storing.posted.take 1, overlaps q.cell q.bytes.length (scratchpadCell 0 0x1002) 1 = false) ∧
    (∃ q ∈ storing.posted.take 2, overlaps q.cell q.bytes.length (scratchpadCell 0 0x1001) 1 = true) ∧ storing.life = .running ∧
    (bedOf storing).wordWaits = [] ∧ (bedOf storing).errs = [] ∧ Memory.wf (bedOf storing).cells = true ∧
    isTaggedCell (scratchpadCell 0 0x1002) = true := by decide +kernel
theorem witness_Stores : Running (bedRegs [0xFFFF8]) 0 (regs [0xFFFF8]) ∧ 0xFFFF8 % 8 = 0 ∧ 0xFFFF8 < 0x100000 ∧ 0x80000 ≤ 0xFFFF8 ∧ 0xFFFFC % 8 ≠ 0 ∧
    xlateIs (translateWord bed 0 0xFFFF8 needWrite) = 1 ∧ (translateWord bed 0 0xFFFF8 needWrite).1.threads = bed.threads ∧
    xlateIs (translateWord peerBed 0 0xFFFF8 needWrite) = 2 ∧ xlateIs (translateWord flashBed 0 0x10000 needWrite) = 3 ∧
    xlateIs (translateWord { flashBed with copies := [] } 0 0x10000 needRead) = 4 := ⟨bed_running _, by decide +kernel⟩
/-- Spill offsets on both sides of the carve-out's end, with and without an overflow area. -/
theorem witness_Spills : Running bed 0 thread0 ∧ thread0.spillsz ≤ 0x8000 ∧ 8 * 63 < thread0.spillsz ∧ thread0.spillsz ≤ 8 * 64 ∧
    (0x8000 - 512 + 8 * 63) % 8 = 0 ∧ inCarve bed 0 (0x8000 - 8) 8 (some 0) = false ∧ thread0.spillov = 0 ∧ (0x40020 : Word).toNat % 64 ≠ 0 ∧
    (0x40000 : Word).toNat % 64 = 0 ∧ xlateIs (translateWord bed 0 0x40000 needBoth) = 1 ∧
    (translateWord bed 0 0x40000 needBoth).1.threads = bed.threads := ⟨bed_running _, by decide +kernel⟩
/-- A debug halt on every thread of the context, which `brk` takes. -/
def haltBed : State := { bed with halts := [(0, ⟨3, 0, 0, 0, 0, 0⟩)] }
theorem witness_SystemInstructions : Running (bedRegs [5]) 0 (regs [5]) ∧ (0x000 : BitVec 10) ≠ 0x022 ∧ (5 : Word).toNat > bed.now ∧ (0 : Word).toNat ≤ bed.now ∧
    inHandler.status.getLsbD 0 = true ∧ inHandler.asyncs = [] ∧ (0xFFFF : Nat) = 65535 ∧ ¬((256 : Nat) < 256 ∨ (256 : Nat) = 65535) ∧
    (0x8000000000000000 : Word) ≠ 5 ∧ (5 : Word).toNat < 2 ^ 57 ∧ 2 ^ 57 ≤ (0x200000000000000 : Word).toNat ∧ armedHalt bed 0 = none := ⟨bed_running _, by decide +kernel⟩

/-- A matrix product of one k-step at the head of unit 0, and the cluster's share. -/
def mma1 : Cmd := cmd0 0xC8000000 0x0000000100000000 0 []
def grantBed : State := { modCluster (queueBed 0 { mma1 with asked := some 0 }) 0 (fun k => { k with share := 100000 }) with now := 7 }
theorem witness_CommandQueuesAndReservations : tblGet 0 bed.threads = some thread0 ∧ (unitAt bed 0 0).running = none ∧ (unitAt bed 0 0).queue = [] ∧
    mma1.headAt = none ∧ DescAt bed 0 thread0 0x1000 32 (List.replicate 32 0) ∧ (0x1004 : Word).toNat % 32 ≠ 0 ∧ 0x80000 ≤ (0x80000 : Word).toNat ∧
    inCarve bed 0 0x7FE0 32 none = true ∧ (unitAt (queueBed 0 mma1) 0 0).queue = [mma1] ∧ isMarker mma1 = false ∧ mma1.asked = none ∧
    cmdGoes (queueBed 0 mma1) [] mma1 = true ∧ nodesFirst (queueBed 0 mma1) (unitAt (queueBed 0 mma1) 0 0) = unitAt (queueBed 0 mma1) 0 0 ∧ (unitAt grantBed 0 0).queue = [{ mma1 with asked := some 0 }] ∧ grantBed.limited = [] ∧
    heldBy grantBed 0 + cmdPower mma1 ≤ (clusterAt grantBed 0).share ∧ waitingAsks grantBed 0 = [(0, 0)] ∧
    (ctxOf grantBed 0).any (fun x => !x.quotaOn) = true := ⟨by decide, by decide, by decide, by decide, ⟨by decide, by decide, by decide, by decide, by decide +kernel⟩, by decide +kernel⟩
theorem witness_StreamBindings : Running (bedRegs [0x1000]) 0 (regs [0x1000]) ∧ DescAt (bedRegs [0x1000]) 0 (regs [0x1000]) 0x1000 32 (List.replicate 32 0) ∧
    (7 : BitVec 6).toNat < 8 ∧ 8 ≤ (8 : BitVec 6).toNat ∧ (10 : BitVec 4).toNat ≤ 10 ∧ (portAt bed 0 7).failed = false ∧
    (portAt bed 0 7).bindings.length < 4 := ⟨bed_running _, ⟨by decide, by decide, by decide, by decide, by decide +kernel⟩, by decide +kernel⟩
theorem witness_CopyCommands : Running (bedRegs [0x10000, 0x0000010000000000]) 0 (regs [0x10000, 0x0000010000000000]) ∧ (2 : BitVec 2) ≠ 3 ∧
    (11 : BitVec 4).toNat ≤ 11 ∧ 12 ≤ (12 : BitVec 4).toNat ∧ (handleAt bed 0 5).state = 0 ∧ (handleAt bed 0 5).claimed = none ∧
    (unitCmds (unitAt bed 0 6)).length < 8 ∧ (handleAt (setHandle bed 0 5 ⟨9, 2, false, false, 0, 0, 64, none⟩) 0 5).state = 2 ∧
    (handleAt (setHandle bed 0 5 ⟨9, 1, false, false, 0, 0, 64, none⟩) 0 5).state = 1 := ⟨bed_running _, by decide +kernel⟩
/-- A copy of 64 bytes from A to C on unit 6, before and after it is accepted. -/
def copyBb : Cmd := { cmd0 0xC4000290 0 0x0000004000000000 [] with handle := 0, granted := true }
def acceptBed : State := unitBed 6 copyBb
def landBed : State := unitBed 6 { copyBb with step := 1 }
theorem witness_CopyEvents : (unitAt acceptBed 0 6).running = some copyBb ∧ copyBb.step = 0 ∧ cmdMajor copyBb = 0x31 ∧
    (ctxOf acceptBed 0).isSome = true ∧ (unitAt bed 0 6).running = none ∧ (unitAt landBed 0 6).running = some { copyBb with step := 1 } ∧
    copiesFrozen landBed 0 = false ∧
    (handleAt { setHandle bed 0 0 ⟨9, 1, false, false, 0, 0, 64, none⟩ with now := 10 } 0 0).promise < 10 := by decide +kernel
theorem witness_CopyMovesBytes : (unitAt landBed 0 6).running = some { copyBb with step := 1 } ∧ cmdMajor copyBb = 0x31 ∧ copyDir copyBb = 2 ∧
    copyDec copyBb = 0 ∧ copyBuf copyBb = 2 ∧ copySrcBuf copyBb = 1 ∧ copyOff copyBb = 0 ∧ gaBits copyBb 0 21 = 0 ∧ copyLen copyBb = 64 ∧
    0 + 64 ≤ bufSize 2 ∧ 0 + 64 ≤ bufSize 1 ∧ copyBb.frost = [] ∧ copyBb.failed = false ∧ copyBb.node = none ∧
    tblGet copyBb.tid landBed.threads = some thread0 ∧ landBed.errs = [] ∧ landBed.marks = [] ∧ landBed.wordWaits = [] ∧ landBed.requests = [] ∧
    landBed.launches = [] ∧ (∀ p ∈ landBed.threads, p.2.woundDue = false) ∧ copiesFrozen landBed 0 = false ∧ Memory.wf landBed.cells = true := by decide +kernel
theorem witness_MatrixCommands : Running (bedRegs [0, 0]) 0 (regs [0, 0]) ∧ (7 : BitVec 6).toNat < 8 ∧ 8 ≤ (8 : BitVec 6).toNat ∧ (15 : BitVec 6).toNat < 16 ∧
    16 ≤ (16 : BitVec 6).toNat ∧ (10 : BitVec 4).toNat ≤ 10 ∧ 6 ≤ (6 : BitVec 4).toNat ∧ (unitAt bed 0 3).running = none ∧
    (∀ u', u' < 4 → (unitAt bed 0 u').queue = []) ∧ (unitAt (unitBed 3 mma1) 0 3).running ≠ none ∧
    (∀ k ∈ (unitAt (unitBed 3 mma1) 0 3).queue, ¬(isMarker k = true ∧ k.tid = 0)) := ⟨bed_running _, by decide +kernel⟩
/-- Commands of no k-step and of two, and a drain. -/
def mma0 : Cmd := cmd0 0xC8000000 0 0 []
def mma2 : Cmd := cmd0 0xC8000000 0x0000000200000000 0 []
def drain0 : Cmd := cmd0 0xC8000096 0 0 []
theorem witness_MatrixSteps : (unitAt (unitBed 0 mma0) 0 0).running = some mma0 ∧ cmdMajor mma0 = 0x32 ∧ matOp mma0 = 0 ∧ matOp drain0 = 2 ∧
    (∃ n, mmaSteps mma0 = n) ∧ pairEntry (mmaPair (cmd0 0xC8000000 0 0 [])) = pairEntry 0 ∧ (7 : Nat) < 2 ^ 32 :=
  ⟨by decide +kernel, by decide +kernel, by decide +kernel, by decide +kernel, ⟨_, rfl⟩, rfl, by decide⟩
theorem witness_VectorCommands : Running (bedRegs [0, 0]) 0 (regs [0, 0]) ∧ (7 : BitVec 6).toNat < 8 ∧ 8 ≤ (8 : BitVec 6).toNat ∧ (2 : BitVec 2) ≠ 3 :=
  ⟨bed_running _, by decide +kernel⟩
/-- A vector addition of two vectors, and one of none. -/
def vadd2 : Cmd := cmd0 0xCC000004 0 0x0000000002000000 []
def vadd0 : Cmd := cmd0 0xCC000004 0 0 []
theorem witness_VectorSteps : (unitAt (unitBed 4 vadd2) 0 4).running = some vadd2 ∧ cmdMajor vadd2 = 0x33 ∧ (vadd2.gb.extractLsb' 24 16).toNat = 2 ∧
    (vadd0.gb.extractLsb' 24 16).toNat = 0 ∧ vecSrc vadd2 = 0 ∧ vecOp vadd2 = 1 ∧ vecSat vadd2 = false ∧ (unitAt bed 0 4).running = none := by decide +kernel
theorem witness_SelectionCommands : Running (bedRegs [0x1000, 0]) 0 (regs [0x1000, 0]) ∧
    DescAt (bedRegs [0x1000, 0]) 0 (regs [0x1000, 0]) 0x1000 64 (List.replicate 64 0) ∧
    DescAt (bedRegs [0x1000, 0]) 0 (regs [0x1000, 0]) 0x1000 32 (List.replicate 32 0) ∧ (11 : BitVec 4).toNat ≤ 11 ∧ 12 ≤ (12 : BitVec 4).toNat :=
  ⟨bed_running _, ⟨by decide, by decide, by decide, by decide, by decide +kernel⟩, ⟨by decide, by decide, by decide, by decide, by decide +kernel⟩, by decide +kernel⟩
/-- A `topk` of no score, a `predrows`, a `prcheck`, and a `gath` and a `scat` of no row. -/
def topk0 : Cmd := cmd0 0xD0000000 0 0 []
def pred0 : Cmd := cmd0 0xD0000100 0 0 (List.replicate 64 0)
def chk0 : Cmd := cmd0 0xD0000200 0 0 (List.replicate 64 0)
def gath0 : Cmd := cmd0 0xD4000000 0 0 (List.replicate 32 0)
def scat0 : Cmd := cmd0 0xD4000100 0 0 (List.replicate 32 0)
theorem witness_SelectionRuns : (unitAt (unitBed 8 topk0) 0 8).running = some topk0 ∧ cmdMajor topk0 = 0x34 ∧ selOp topk0 = 0 ∧ selOp pred0 = 1 ∧
    pred0.step = 0 ∧ selOp chk0 = 2 ∧ chk0.frost = [] ∧ (unitAt (unitBed 9 gath0) 0 9).running = some gath0 ∧ cmdMajor gath0 = 0x35 ∧
    isScat gath0 = false ∧ isScat scat0 = true ∧ (unitAt bed 0 8).running = none ∧ (unitAt bed 0 9).running = none := by decide +kernel
theorem witness_LaunchInstructions : Running (bedRegs [0x1000, 0]) 0 (regs [0x1000, 0]) ∧ (0x1000 : Word).toNat % 16 = 0 ∧ (0x1008 : Word).toNat % 16 ≠ 0 ∧
    thread0.posted = [] ∧ storing.posted ≠ [] ∧ DescAt (bedRegs [0x1000, 0]) 0 (regs [0x1000, 0]) 0x1000 64 (List.replicate 64 0) ∧
    (ctxOf bed 0).isSome = true ∧ thread0.openForms.length < 8 ∧ (match place bed 0 thread0 .v 0x1000 16 ⟨true, false, false, false⟩ false none with
      | (_, .at_ (.cell c)) => decide ((memRead bed c 16).2.reason = 0)
      | _ => false) = true ∧ bed.launches.length < 64 :=
  ⟨bed_running _, by decide, by decide, by decide, by decide, ⟨by decide, by decide, by decide, by decide, by decide +kernel⟩, by decide +kernel⟩
theorem witness_FullEmptyForms : Running (bedRegs [0x1000]) 0 (regs [0x1000]) ∧ (bedRegs [0x1000]).wordWaits = [] ∧
    place (bedRegs [0x1000]) 0 (regs [0x1000]) .i 0x1000 4 ⟨true, true, false, true⟩ false none = (bedRegs [0x1000], .at_ (.cell (scratchpadCell 0 0x1000))) ∧
    place (bedRegs [0x1000]) 0 (regs [0x1000]) .i 0x1000 4 ⟨true, true, false, true⟩ true none = (bedRegs [0x1000], .at_ (.cell (scratchpadCell 0 0x1000))) ∧
    wordFull (bedRegs [0x1000]) (scratchpadCell 0 0x1000) = false ∧
    wordFull { bedRegs [0x1000] with full := [scratchpadCell 0 0x1000] } (scratchpadCell 0 0x1000) = true ∧
    tagRoom bed (scratchpadCell 0 0x1000) = true ∧ postedOn storing (scratchpadCell 0 0x1000) 4 = true := ⟨bed_running _, by decide +kernel⟩
/-- `bed` with a resident part of S, as a context's descriptor gives it. -/
def sBed : State := modCtx bed 0 (fun c => { c with sres := [4, 4, 4, 4] })
theorem witness_Atomics : Running (bedRegs [0x10000]) 0 (regs [0x10000]) ∧ (match syPlace bed 0 thread0 false 0x10000 8 true with
      | (_, .at_ (.cell _)) => true
      | _ => false) = true ∧ (match syPlace sBed 0 thread0 true 0x2000 8 true with
      | (_, .at_ (.cell c)) => decide (c = sCell 0 0 0x2000 ∧ (memRead sBed c 8).2.reason = 0)
      | _ => false) = true := ⟨bed_running _, by decide +kernel⟩
theorem witness_TicketsAndReductions : Running sBed 0 thread0 ∧ sPlace sBed thread0 0x2000 16 true = (sBed, .at_ (.cell (sCell 0 0 0x2000))) ∧
    sPlace sBed thread0 0x2000 512 true = (sBed, .at_ (.cell (sCell 0 0 0x2000))) ∧ (memRead sBed (sCell 0 0 0x2000) 16).2.reason = 0 ∧
    (0x2008 : Word).toNat % 16 ≠ 0 ∧ 2 ^ 24 ≤ (0x1000000 : Word).toNat ∧ (0xFF0 : Word).toNat % 2 ^ 22 < 0x1000 ∧ 0x1000 ≤ (0x1000 : Word).toNat % 2 ^ 22 ∧
    0x1000 < sResident sBed 0 0 ∧ (6 : BitVec 4).toNat = 6 ∧ (10 : BitVec 4).toNat ≤ 10 ∧ 10 < (11 : BitVec 4).toNat ∧ (1 : BitVec 5).toNat ≤ 1 ∧
    2 ≤ (2 : BitVec 5).toNat ∧ sCellOf sBed 0 0x2000 = (sBed, some (sCell 0 0 0x2000)) ∧
    tblGet (sCell 0 0 0x2000) (putSeqCell sBed (sCell 0 0 0x2000) ⟨[(3, 1)], 0, false⟩).seqCells = some ⟨[(3, 1)], 0, false⟩ := ⟨⟨rfl, rfl⟩, by decide +kernel⟩
/-- Sets that do not exist, that thread 0 is a member of, and that it is not; the numbers about the last. -/
def setBed : State := { bedRegs [5] with sets := [(5, ⟨[0, 1], 3, [0, 1], [], []⟩), (6, ⟨[1], 3, [1], [], []⟩)] }
theorem witness_SetsAndPhases : Running setBed 0 (regs [5]) ∧ tblGet 5 setBed.sets = some ⟨[0, 1], 3, [0, 1], [], []⟩ ∧ tblGet 7 setBed.sets = none ∧
    setHas 0 [0, 1] = true ∧ setHas 0 [1] = false ∧ (setsOf setBed 0).length < 8 ∧ (255 : Nat) < 256 ∧ (3 : Nat) < 2 ^ 32 ∧
    (regs [5]).barwHeld = [] ∧ (regs [5]).posted = [] ∧ ([0, 1] : List Nat).all (fun m => setHas m []) = false := ⟨⟨rfl, rfl⟩, by decide +kernel⟩
/-- Tensor 0 of 4 by 64 two-byte elements in tiles of 2 by 32, with IX held by two transactions; tile 0 in X by thread 0's; tile 1 in S by the other. -/
def tileItem (k : Nat) : Nat := 2 ^ 62 + k
def lockRegs : Thread := regs [2 ^ 62, 2 ^ 62 + 1, 2 ^ 62 + 2, 0, 2 ^ 63, 2 ^ 62 + 2 ^ 32]
def lockBed : State :=
  { bedOf lockRegs with
    parts := [(0, { loadPart with lockMatrix := 0x000000100105030F })], lockTensors := [(0, ⟨0x100000, 128, 4, 64, 2, 32, 2⟩), (1, ⟨0x200000, 128, 4, 64, 2, 32, 2⟩)]
    lockItems := [⟨0, 0, [⟨1, 1⟩, ⟨2, 1⟩], [], none⟩, ⟨0, tileItem 0, [⟨1, 5⟩], [], none⟩, ⟨0, tileItem 1, [⟨2, 2⟩], [], none⟩]
    txns := [(1, ⟨0, .thread 0, 5, 1, false⟩), (2, ⟨0, .thread 1, 4, 2, false⟩)] }
theorem witness_LockRequests : Running lockBed 0 lockRegs ∧ txnOf lockBed 0 (ownerFor lockBed 0 lockRegs) = some 1 ∧
    txnOf (bedRegs [0x12]) 0 (.thread 0) = none ∧ (txnAt lockBed 1).wounded = false ∧ itemParent (bedRegs [0x12]) 0 0x12 = none ∧
    itemParent lockBed 0 (tileItem 0) = some (some 0) ∧ itemParent lockBed 0 (tileItem 1) = some (some 0) ∧ itemParent lockBed 0 0 = some none ∧
    itemParent lockBed 0 (2 ^ 63) = some (some (tileItem 0)) ∧ itemParent lockBed 0 (2 ^ 62 + 2 ^ 32) = some (some (2 ^ 32)) ∧
    heldMode (findItem lockBed 0 (tileItem 0)) 1 = some 5 ∧ covers 5 2 = true ∧ heldMode (findItem lockBed 0 0) 1 = some 1 ∧
    parentPermits 1 2 = true ∧ covers 1 2 = false ∧ heldMode (findItem lockBed 0 (2 ^ 32)) 1 = none ∧ escalated 1 4 = none ∧ covers 1 4 = false ∧
    escalated 1 2 = some 3 ∧ (findItem lockBed 0 (tileItem 2)).holders = [] ∧ compatible (lockMatrixOf lockBed 0) 2 5 = false ∧
    (∀ i ∈ lockBed.lockItems, i.holders.Pairwise (fun h k => h.txn ≠ k.txn ∧ ((lockMatrixOf lockBed i.ctx).getLsbD (8 * h.mode + k.mode) = true ∨
      (lockMatrixOf lockBed i.ctx).getLsbD (8 * k.mode + h.mode) = true))) := ⟨⟨rfl, rfl⟩, by decide +kernel⟩
theorem witness_LockReleases : Running lockBed 0 lockRegs ∧ txnOf lockBed 0 (ownerFor lockBed 0 lockRegs) = some 1 ∧
    itemParent lockBed 0 (tileItem 0) ≠ none ∧ heldMode (findItem lockBed 0 (tileItem 0)) 1 ≠ none ∧ heldMode (findItem lockBed 0 (tileItem 1)) 1 = none ∧
    (∃ j ∈ lockBed.lockItems, heldMode j 1 ≠ none ∧ itemParent lockBed 0 j.word = some (some 0)) ∧
    (∀ j ∈ lockBed.lockItems, heldMode j 1 ≠ none → itemParent lockBed 0 j.word ≠ some (some (tileItem 0))) ∧
    txnOf (bedRegs [0x12]) 0 (.thread 0) = none ∧ txnThreads lockBed (txnAt lockBed 1) = [0] ∧ lockRegs.posted = [] ∧ storing.posted ≠ [] ∧
    (4095 : Nat) < 4096 ∧ keysAbove 0 lockBed.lockTensors = true := ⟨⟨rfl, rfl⟩, by decide +kernel⟩
theorem witness_Fences : Running bed 0 thread0 ∧ (4 : BitVec 3).toNat ≤ 4 ∧ 4 < (5 : BitVec 3).toNat ∧ thread0.posted = [] ∧ storing.posted ≠ [] ∧
    (∃ k ∈ unitCmds (unitAt landBed 0 6), k.tid = 0 ∧ k.node = none) := ⟨bed_running _, by decide +kernel⟩
/-- An ADD of 32-bit integers of its two inputs: node 0 of `bed`, with the tokens given on its inputs. -/
def addWord : BitVec 32 := elemWord 0x01 0 0 2 0 0 0 0
def addArcs (x y : List Tok) : List Arc := [inArc0 0 x, inArc0 1 y, outArc0 0]
def addForm (x y : List Tok) : Form := form0 0 addWord (addArcs x y)
def tokOn (x y : List Tok) (p : Nat) : Option Tok := (tokenAt (addForm x y) 0 p 0).map (·.tok)
theorem witness_ElementFirings : AtNode (nodeBed 0 addWord (addArcs [data 7] [data 5])) 0 (addForm [data 7] [data 5]) 0 (node0 0 addWord) ∧
    able (addForm [data 7] [data 5]) (node0 0 addWord) 0 = true ∧ elemReason addWord = 0 ∧ oneInput (elemOp addWord) = false ∧
    elemSrcA addWord = 0 ∧ elemSrcB addWord = 0 ∧ canEmit (addForm [data 7] [data 5]) 0 0 = true ∧
    tokOn [data 7] [data 5] 0 = some (data 7) ∧ tokOn [data 7] [data 5] 1 = some (data 5) ∧ tokOn [data 7] [] 1 = none ∧
    (∀ t ∈ [data 7, data 5], tokReason t = 0 ∧ t.kind = 0 ∧ t.res = residue t.data) ∧ (⟨0, false, 7, 0⟩ : Tok).res ≠ residue 7 ∧
    tokReason nullTok = 0 ∧ nullTok.kind = 1 ∧ tokReason eos = 0 ∧ 2 ≤ eos.kind ∧ eos.kind ≠ (data 7).kind ∧
    ((ctxOf (nodeBed 0 addWord (addArcs [] [])) 0).all (fun c => !c.quotaOn)) = true ∧
    (nodeBed 0 addWord (addArcs [] [])).tenths ≤ 0 + (namedNode (addForm [] []) (node0 0 addWord)).ii := ⟨bed_at _ _ _, by decide +kernel⟩
theorem witness_IntegerElementResults : (5 : Nat) ≤ 5 ∧ (3 : Nat) ≤ 3 ∧ 0x01 ≤ 0x1B := by decide
/-- Half of the least number above zero of FP16, a number between two patterns, and one past the largest. -/
theorem witness_Rounding : ∃ g : Fmt, fmtIsFloat g = true ∧ 0 < (floatShape g).largest ∧ (match floatVal g 0 with
      | .fin false 0 d => decide (0 < d)
      | _ => false) = true ∧
    (match floatVal g 1 with
      | .fin false n d => decide (0 < n ∧ 0 < d)
      | _ => false) = true ∧
    (match floatVal g (floatShape g).largest, floatVal g ((floatShape g).largest - 1) with
      | .fin false n d, .fin false _ _ => decide (0 < d ∧ n * 1 ≤ n * d)
      | _, _ => false) = true := ⟨.f16, by decide⟩
theorem witness_FloatElementResults : ∃ c g, fmtOfCode c = some g ∧ fmtIsFloat g = true ∧ (match fmtVal g 0 with
      | .fin false 0 d => decide (0 < d)
      | _ => false) = true ∧ fmtWidth g = 16 :=
  ⟨7, .f16, by decide⟩
theorem witness_AccumulationResults : fmtOfCode (2 : BitVec 4).toNat = some .i32 ∧ fmtIsInt .i32 = true ∧ fmtOfCode (7 : BitVec 4).toNat = some .f16 ∧
    fmtIsFloat .f16 = true ∧ (aluResult 0x01 2 0 false 0 7 5).isSome = true := by decide
/-- A 32-bit store through scratchpad I at node 0 of `bed`, its address on input 0 and its data on input 1, and an access of it that is ready. -/
def storeWord : BitVec 32 := 0x8203FFD0
def memForm (x y : List Tok) : Form := form0 1 storeWord [inArc0 0 x, inArc0 1 y, outArc0 0]
def memBed (x y : List Tok) : State := formBed (memForm x y)
def access0 (st : Stage) : Access := { seq := 0, word := storeWord, ta := data 0x40, tb := data 9, addr := 0x40, stage := st, froze := none, got := [] }
def readyForm (st : Stage) : Form :=
  { memForm [] [] with nodes := [{ node0 1 storeWord with accs := [access0 st], began := 1 }, node0 2 0] }
theorem witness_MemoryElementFirings : AtNode (memBed [data 0x40] [data 9]) 0 (memForm [data 0x40] [data 9]) 0 (node0 1 storeWord) ∧
    able (memForm [data 0x40] [data 9]) (node0 1 storeWord) 1 = true ∧ memReason storeWord = 0 ∧
    holding (memForm [data 0x40] [data 9]) (node0 1 storeWord) = false ∧ (tokenAt (memForm [data 0x40] [data 9]) 0 0 0).map (·.tok) = some (data 0x40) ∧
    (tokenAt (memForm [data 0x40] [data 9]) 0 1 0).map (·.tok) = some (data 9) ∧ tokenAt (memForm [data 0x40] []) 0 1 0 = none ∧
    (tokenAt (memForm [eos] [eos]) 0 1 0).map (·.tok) = some eos ∧ 2 ≤ eos.kind ∧ eos.kind ≠ (data 0).kind ∧
    (∀ t ∈ [data 0x40, data 9, nullTok, eos], tokReason t = 0) ∧ ((node0 1 storeWord).accs.filter (fun a => !performed a)).length < 16 ∧
    ((List.replicate 16 (access0 .begun)).filter (fun a => !performed a)).length = 16 ∧ 0x40 % 4 = 0 ∧ 0x41 % 4 ≠ 0 := ⟨⟨rfl, rfl, rfl⟩, by decide +kernel⟩
theorem witness_MemoryElementAccesses :
    let c := scratchpadCell 0 0x40
    let fm := readyForm (.ready noTarget c)
    formAt (formBed fm) 0 = some fm ∧ formLive fm = true ∧ (∃ nd, fm.nodes[0]? = some nd ∧ nd.cls = 1 ∧
      accessAt nd 0 = some (access0 (.ready noTarget c)) ∧ inOrder fm nd (access0 (.ready noTarget c)) = true) ∧
    noTarget.peer = false ∧ pendingFor (formBed fm) (.node 0 0 0) = false ∧ (memRead (formBed fm) c 4).2.reason = 0 ∧
    (memRead { formBed fm with errs := [c] } c 4).2.reason = 1 := ⟨rfl, by decide, ⟨_, rfl, by decide +kernel⟩, by decide +kernel⟩
/-- A router operator that is node 0 of `bed`, with tokens on its inputs, and in each state of `carry`. -/
def opForm (w : BitVec 16) (x y z : List Tok) : Form :=
  form0 2 (w.setWidth 32) [inArc0 0 x, inArc0 1 y, inArc0 2 z, outArc0 0, outArc0 1]
def carryNode (p : CarryState) (slots : List Bool) : Node := { node0 2 0x8000 with carry := p, slots := slots }
theorem witness_RouterOperators : AtNode (formBed (opForm 0x2000 [data 7] [data 1] [nullTok])) 0 (opForm 0x2000 [data 7] [data 1] [nullTok]) 0
      (node0 2 0x2000) ∧
    able (opForm 0x2000 [data 7] [data 1] [nullTok]) (node0 2 0x2000) 2 = true ∧ (node0 2 0x2000).passed = false ∧
    (∀ p, p ≤ 2 → (tokenAt (opForm 0x2000 [data 7] [data 1] [nullTok]) 0 p 0).map (fun t => tokReason t.tok) = some 0) ∧
    (tokenAt (opForm 0x2000 [eos] [eos] [eos]) 0 2 0).map (·.tok) = some eos ∧ tokenAt (opForm 0x2000 [] [] []) 0 0 0 = none ∧
    (4 : BitVec 3).toNat ≤ 4 ∧ (dataTok true 1).poison = true ∧ (carryNode (.closing eos) []).slots.any (fun b => b) = false ∧
    (carryNode .open_ [true]).slots.getD 0 false = true ∧ (carryNode (.returning eos) []).carry = .returning eos :=
  ⟨⟨rfl, rfl, rfl⟩, by decide +kernel⟩
/-- A token that waits before its last hop, words that are fetched and words that are kept, and a formation torn down. -/
def hopForm : Form := { addForm [] [] with arcs := [{ inArc0 0 [] with toks := [⟨data 7, 0, 0⟩], route := [] }] }
theorem witness_FabricMoves : formAt (formBed hopForm) 0 = some hopForm ∧ formLive hopForm = true ∧
    (∃ ar t, hopForm.arcs[0]? = some ar ∧ ar.toks[0]? = some t ∧ t.hop < ar.route.length + 1 ∧ t.hop + 1 = ar.route.length + 1) ∧
    (formBed hopForm).breaks = [] ∧ (outArc (addForm [] []) 0 0).isSome = true ∧ (inArc (addForm [] []) 0 1 0).isSome = true ∧
    (tokenAt (addForm [data 7] []) 0 0 0).isSome = true ∧ hopForm.nodes[0]? = some (node0 0 addWord) ∧ hopForm.nodes[2]? = none ∧
    wordReason 0 addWord 0 = 0 ∧ wordReason 0 0 0 ≠ 0 ∧ hopForm.phase = .armed ∧ hopForm.draining = false :=
  ⟨rfl, rfl, ⟨_, _, rfl, rfl, by decide⟩, by decide +kernel⟩
/-- A loop unit at node 0 of `bed`, with a count on its input and with a stream that a reader takes. -/
def loopNode (idx last : Rest) : Node := { node0 3 0 with idx := idx, last := last }
def loopForm (x : List Tok) (idx last : Rest) : Form :=
  { form0 3 0 [inArc0 0 x, { outArc0 0 with lane := true }] with nodes := [loopNode idx last, node0 2 0] }
theorem witness_LoopUnits : formAt (formBed (loopForm [data 3] .none .none)) 0 = some (loopForm [data 3] .none .none) ∧
    able (loopForm [data 3] .none .none) (loopNode .none .none) 3 = true ∧ (tokenAt (loopForm [data 3] .none .none) 0 0 0).map (·.tok) = some (data 3) ∧
    tokenAt (loopForm [] .none .none) 0 0 0 = none ∧ restTok 0 (.run 0 1 3 2) = some (dataTok false 2) ∧ (2 : Nat) < 3 := by decide +kernel
/-- A source and a sink port, as node 0 of `bed` with cluster 0 as its home, and a binding of two elements in A. -/
def sportWord (sink : Bool) : BitVec 32 := if sink then 0x80400000 else 0x00400000
def portForm (sink : Bool) (x : List Tok) : Form := { form0 5 (sportWord sink) [inArc0 0 x, outArc0 0] with tiles := 1 }
def binding0 (pos : Nat) : Binding := ⟨0, 0, 0, false, 0x40, [2, 1, 1], [4, 0, 0], false, false, false, 0, defaultMasks, pos, false⟩
def portBed (sink : Bool) (x : List Tok) (bs : List Binding) : State := setPort (formBed (portForm sink x)) 0 0 ⟨some (0, 0), bs, 0, false, []⟩
theorem witness_StreamPorts : formAt (portBed true [data 7] [binding0 0]) 0 = some (portForm true [data 7]) ∧
    (portForm true [data 7]).home = some 0 ∧ able (portForm true [data 7]) (node0 5 (sportWord true)) 5 = true ∧
    able (portForm false []) (node0 5 (sportWord false)) 5 = true ∧ (portAt (portBed true [] [binding0 0]) 0 0).bindings = [binding0 0] ∧
    holding (portForm true [data 7]) (node0 5 (sportWord true)) = false ∧ injection (portBed false [] []) (portForm false []) (node0 5 (sportWord false)) = none ∧
    (portForm false []).tiles ≠ 0 ∧ (portForm false []).phase = .armed ∧ canEmit (portForm false []) 0 0 = true ∧
    (tokenAt (portForm true [data 7]) 0 0 0).map (·.tok) = some (data 7) ∧ (binding0 1).pos < bindAccesses (binding0 1) ∧
    bindAccesses (binding0 2) ≤ (binding0 2).pos ∧ bindAddr (binding0 1) 1 = 0x44 := by decide +kernel
/-- A matrix node as node 0 of `bed`, with its operands on its inputs. -/
def matForm (x y : List Tok) : Form := { form0 4 0 [inArc0 0 x, inArc0 1 y, outArc0 0] with home := some 0 }
theorem witness_MatrixNodes : formAt (formBed (matForm [data 0] [data 0x8000]) ) 0 = some (matForm [data 0] [data 0x8000]) ∧
    able (matForm [data 0] [data 0x8000]) (node0 4 0) 4 = true ∧ (tokenAt (matForm [data 0] [data 0x8000]) 0 1 0).map (·.tok) = some (data 0x8000) ∧
    tokReason (data 0) = 0 ∧ tokReason nullTok = 0 ∧ (data 0xFC000000).data.extractLsb' 26 6 ≠ 0#6 ∧ (data 0xE0000000).data.extractLsb' 29 3 ≠ 0#3 ∧
    (unitCmds (unitAt bed 0 0)).length < 8 ∧ canEmit (matForm [] []) 0 0 = true := by decide +kernel
/-- A launch that is not admitted, and a launch whose only task is a ready thread task. -/
def task0 : Task := ⟨true, false, 0xFFFF, 0x10000, 512, 0, [1, 2, 3, 4], [], [], .ready, 0⟩
def launch0 (admitted : Bool) : Launch :=
  { ctx := 0, source := .thread 0, event := 0, prio := 3, graph := 0, overlap := false, admitted := admitted, anyFailed := false, prev := none,
    tasks := if admitted then [task0] else [], descBad := false, daddr := 0, resv := 0, hold := [], fill := none, got := [] }
def launchBed (admitted : Bool) : State :=
  { modCtx (loadCtxOf State.reset) 0 (fun c => { c with savesz := 0x1000000 }) with launches := [(1, launch0 admitted)] }
def ctx0 : Ctx := loadCtx State.reset
/-- Context 0 has the partition's only cluster; context 1 has a ready thread task. -/
def victimBed : State :=
  { bed with ctxs := [(0, { ctx0 with slice := 0 }), (1, ctx0)], launches := [(1, { launch0 true with ctx := 1 })] }
theorem witness_Dispatching : tblGet 1 (launchBed false).launches = some (launch0 false) ∧ (launch0 false).fill = none ∧
    tblGet 1 (launchBed true).launches = some (launch0 true) ∧ taskAt (launch0 true) 0 = some task0 ∧
    readyThreads (launchBed true) 0 = [⟨0, 3, 0, 1, 0, 0⟩] ∧ threadPlace (launchBed true) ⟨0, 3, 0, 1, 0, 0⟩ = some 0 ∧
    firstItem 0 (readyForms (launchBed true) 0) = none ∧ formAt (formBed (form0 0 addWord [])) 0 = some (form0 0 addWord []) ∧
    mayPlace (formBed { form0 0 addWord [] with phase := .ready }) { form0 0 addWord [] with phase := .ready } = true ∧
    placeTurn (formBed { form0 0 addWord [] with phase := .ready }) { form0 0 addWord [] with phase := .ready } = true ∧
    stuckItems victimBed 0 = [⟨1, 3, 0, 1, 0, 0⟩] ∧ mayVictim victimBed ⟨1, 3, 0, 1, 0, 0⟩ 0 { ctx0 with slice := 0 } = true ∧
    ctxRuns (formBed (form0 0 addWord [])) 0 = true ∧ blockedFrom { form0 0 addWord [] with nodes := [] } 0 [] = none := by decide +kernel
/-- A 32-bit load in V at node 0 that is walked or frozen, a fill that has a frame, and an invalidation of a context. -/
def vLoad : BitVec 32 := 0x8003FFD1
def vForm (st : Stage) : Form :=
  { form0 1 vLoad [outArc0 0] with nodes := [{ node0 1 vLoad with accs := [{ access0 st with word := vLoad }], began := 1 }, node0 2 0] }
def frost0 : Frost := ⟨0, false, ⟨0x40, 4, false, 0, 0, 0, 0⟩⟩
def fillBed (frame : Option Nat) : State := { bed with fills := [(fillKey 0 5, ⟨frame, 0x10000, none, false⟩)], invals := [(0, ⟨0, none, 0, false⟩)] }
theorem witness_Paging : formAt (formBed (vForm .begun)) 0 = some (vForm .begun) ∧ formLive (vForm .begun) = true ∧
    (∃ nd a, (vForm .begun).nodes[0]? = some nd ∧ accessAt nd 0 = some a ∧ nd.cls = 1 ∧ a.stage = .begun ∧ a.addr < 2 ^ 57) ∧
    (∃ c, ctxOf (fillBed none) 0 = some c) ∧ tblGet (fillKey 0 5) (fillBed (some 0x20000)).fills = some ⟨some 0x20000, 0x10000, none, false⟩ ∧
    tblGet (fillKey 0 5) { fillBed none with fills := [(fillKey 0 5, ⟨some 0x20000, 0x10000, some (0x30000, 5), false⟩)] }.fills =
      some ⟨some 0x20000, 0x10000, some (0x30000, 5), false⟩ ∧ setHas 5 (fillBed none).flashBad = false ∧ tblGet 0 (fillBed none).invals = some ⟨0, none, 0, false⟩ ∧ usesOld (fillBed none) ⟨0, none, 0, false⟩ = false ∧
    (∃ nd a, (vForm (.frozen frost0)).nodes[0]? = some nd ∧ accessAt nd 0 = some a ∧ a.stage = .frozen frost0) ∧ frost0.woken = false ∧
    2 ≤ frost0.frz.reason ∧ frost0.frz.reason ≤ 5 ∧ 100000000 ≤ 100000000 - frost0.frz.since :=
  ⟨rfl, by decide, ⟨_, _, rfl, rfl, rfl, rfl, by decide⟩, ⟨_, rfl⟩, by decide, by decide, by decide, by decide, by decide, ⟨_, _, rfl, rfl, rfl⟩, by decide⟩
/-- A context that stops with nothing of its own left to stop, one that is saved, a trace ring and a policy whose time is over. -/
def stopBed : State := modCtx (loadCtxOf State.reset) 0 (fun c => { c with phase := .stopping })
def savedBed : State := { modCtx stopBed 0 (fun c => { c with phase := .suspended }) with saves := [(0, ⟨0, [], []⟩)] }
def ring0 : Ring := ⟨0, 4, 6, 10, 0, 0, 0⟩
theorem witness_SavingAndWatching : (∃ c, ctxOf stopBed 0 = some c ∧ c.phase = .stopping) ∧ maySeal stopBed 0 = true ∧
    tblGet 0 savedBed.saves = some ⟨0, [], []⟩ ∧ (ctxOf savedBed 0).any (fun c => mayRestore savedBed 0 c) = true ∧
    (∃ c, ctxOf (modCtx bed 0 (fun c => { c with ring := some ring0 })) 0 = some c ∧ c.ring = some ring0) ∧ ring0.speriod ≠ 0 ∧
    0 / 2 ^ ring0.speriod < 1024 / 2 ^ ring0.speriod ∧ formAt (formBed (form0 0 addWord [])) 0 = some (form0 0 addWord []) ∧
    (form0 0 addWord []).phase = .armed :=
  ⟨⟨_, rfl, rfl⟩, by decide, by decide, by decide, ⟨_, rfl, rfl⟩, by decide⟩
/-- The ends of the ranges of the arbiter, the reel, the thermal steps and the clock. -/
theorem witness_PowerAndTime : (0 : Nat) / 10000 ≤ State.reset.power.lastPeriod ∧ State.reset.power.lastPeriod < 10000 / 10000 ∧
    (119999 % 100000 < 20000) ∧ 80000 ≤ 180000 % 100000 ∧ State.reset.levels[0]? = some 0 ∧ (84 : Nat) < 85 ∧ (15 : Nat) < 16 ∧
    (12 : Nat) < 13 ∧ { State.reset with leads := true }.leads = true ∧ (-1000001 : Int) < -1000000 ∧ State.reset.timeStatus.state ≠ 2 ∧ State.reset.clusters.map (·.1) = [] := by decide
/-- A message from device 1, a window for it, an outstanding read, and a frame that waits for its acknowledgement. -/
def msg0 (type : Nat) : PeerMsg := ⟨type, 1, 0, 0, 7, 0x100, 8, 0, [], []⟩
def peerWindow : PeerWin := ⟨1, 0, 0, 7, 0, 0x10000⟩
def request0 : PeerReq := ⟨.thread 0 3, 0, 1, 1, 0x100, 8, false, 0x100, 0, false⟩
def msgBed (type : Nat) : State :=
  { bed with inbox := [(0, msg0 type)], windows := [(0, peerWindow)], requests := [(7, request0)], ports := [(0, ⟨1, 0, [(0, 0, [msg0 1])]⟩)] }
theorem witness_Peers : parseMsgs 128 (4 :: List.replicate 63 0) = some [⟨4, 0, 0, 0, 0, 0, 0, 0, [], []⟩] ∧ tblGet 0 (msgBed 1).inbox = some (msg0 1) ∧
    admitted (msgBed 1) (msg0 1) 8 0 = some peerWindow ∧ (msg0 1).dst = (msgBed 1).power.dev ∧ (msg0 8).type = 8 ∧
    tblGet (msg0 2).tag (msgBed 2).requests = some request0 ∧ request0.type + 1 = 2 ∧
    (tblGet 0 (msgBed 1).ports).map (·.unacked) = some [(0, 0, [msg0 1])] ∧ tblGet 7 (msgBed 1).requests = some request0 ∧
    bed.inbox = [] ∧ (msgBed 1).inbox.getLast? = some (0, msg0 1) ∧ (0x100 : Nat) % 8 = 0 := by decide +kernel
/-- A NOP frame for queue 0 after its Ethernet header, and commands at the head of that queue, which is of function 0. -/
def nopFrame : List Byte := [1, 0, 0, 1, 0, 0, 0, 0, 0, 0, 1] ++ List.replicate 13 0
def nopEth : List Byte := List.replicate 12 0 ++ [0x88, 0xB5] ++ nopFrame
theorem witness_HostQueues : (∀ op ∈ [0x01, 0x02, 0x03, 0x04, 0x08, 0x09, 0x0A, 0x0B, 0x18, 0x19], HeadCommand (hostBed (hostCmd op 0 [])) 0 op (hostCmd op 0 [])) ∧
    (queueAt (hostBed (hostCmd 1 0 [])) 0).cmds = [hostCmd 1 0 []] ∧ refuseStatus (hostBed (hostCmd 3 0 [])) 0 .ofCtx (hostCmd 3 0 []) = 0 ∧
    refuseStatus (hostBed (hostCmd 3 9 [])) 0 .ofCtx (hostCmd 3 9 []) = 3 ∧ (∃ x, ctxOf bed 0 = some x) ∧
    (hostCmd 2 0 (List.replicate 16 0)).body.length = 16 ∧ frameOk nopFrame = true ∧ leNat (nopEth.take 6) = bed.mac ∧ nopFrame.length = 24 := by
  refine ⟨?_, by decide, by decide, by decide, ⟨_, rfl⟩, by decide +kernel⟩
  unfold HeadCommand
  decide
theorem witness_HostContexts : HeadCommand (hostBed (hostCmd 0x24 0 [0, 15, 0, 0])) 0 0x24 (hostCmd 0x24 0 [0, 15, 0, 0]) ∧
    refuseStatus (hostBed (hostCmd 0x24 0 [0, 15, 0, 0])) 0 .ofCtx (hostCmd 0x24 0 [0, 15, 0, 0]) = 0 ∧ (∃ x, ctxOf bed 0 = some x) ∧
    tblFree 0 256 bed.ctxs = some 1 := by
  refine ⟨?_, by decide, ⟨_, rfl⟩, by decide +kernel⟩
  unfold HeadCommand
  decide
theorem witness_HostManagement : HeadCommand (hostBed (hostCmd 0x33 0 [1, 0])) 0 0x33 (hostCmd 0x33 0 [1, 0]) ∧
    refuseStatus (hostBed (hostCmd 0x33 0 [1, 0])) 0 .mgmt (hostCmd 0x33 0 [1, 0]) = 0 ∧ badCmd (hostCmd 0x3D 0 []) = false ∧
    (queueAt (hostBed (hostCmd 0x3D 0 [])) 0).cmds = [hostCmd 0x3D 0 []] := by
  refine ⟨?_, by decide, by decide, by decide⟩
  unfold HeadCommand
  decide
/-- The state after reset has canonical memory and a step. -/
theorem witness_StepKeepsMemoryCanonical : Memory.wf State.reset.cells = true ∧ (match step (State.reset.withFetchWord 32 0) with
      | .next _ => true
      | _ => false) = true := by decide +kernel
theorem witness_StepRunsDecodedInstruction : { bed with agenda := [⟨0, .issue 0⟩] }.agenda = [⟨0, .issue 0⟩] ∧ runnable bed 0 thread0 = true ∧
    stalled bed { thread0 with wait := .retry } = true ∧ nextThread bed 0 = some 0 ∧
    thread0.asyncs = [] ∧ thread0.ifetch = none ∧ (match (fetchWord bed thread0).2 with
      | .word n => decide (n = 0)
      | _ => false) = true ∧ (∃ r, decodeControl 0 = .error r) ∧ decodeControl 0xFC000012 = .ok .exit ∧ decodeElement addWord = some (.elemAdd 0 0 2 0 0 0) ∧
    decodeSwitch 0x4652 = some (.opSteer 1 4 5 0 2) :=
  ⟨rfl, by decide, by decide, by decide +kernel, by decide, by decide, by decide +kernel, ⟨1, by decide⟩, by decide, by decide, by decide⟩
theorem witness_ControlWordsRoundTrip : encodeControl .exit = some 0xFC000012 := by decide
theorem witness_NodeWordsRoundTrip : encodeElement (.elemAdd 0 1 2 0 0 8) = some 0x01048008 ∧ encodeSwitch (.opSteer 1 4 5 0 2) = some 0x4652 := by decide
/-! Witnesses for further clauses. -/

/-- Thread 0 asleep until 9, with pending traps, at time `n`; with a debug halt on its context; and in a context that stops. -/
def asleep (as : List AsyncTrap) : Thread := { thread0 with wait := .sleep 9, asyncs := as }
def sleepBed (as : List AsyncTrap) (n : Nat) : State := { bedOf (asleep as) with now := n }
def stopping (s : State) : State := modCtx s 0 (fun c => { c with phase := .stopping })
theorem witness_SystemInstructions_waits : Running haltBed 0 thread0 ∧ (armedHalt haltBed 0).isSome = true ∧
    Running (sleepBed [] 9) 0 (asleep []) ∧ (asleep []).wait = .sleep 9 ∧ 9 ≤ (sleepBed [] 9).now ∧ (asleep []).asyncs = [] ∧
    (asleep [⟨0x10, 5⟩]).asyncs ≠ [] ∧ (asleep [⟨0x10, 5⟩]).status.getLsbD 0 = false ∧ (sleepBed [] 8).now < 9 := ⟨⟨rfl, rfl⟩, by decide, ⟨rfl, rfl⟩, by decide⟩
theorem witness_TrapEntries_waits : tblGet 0 (sleepBed [⟨0x10, 5⟩] 0).threads = some (asleep [⟨0x10, 5⟩]) ∧ (asleep [⟨0x10, 5⟩]).life = .running ∧
    (asleep [⟨0x10, 5⟩]).halts = [] ∧ (∃ c, ctxOf (sleepBed [⟨0x10, 5⟩] 0) 0 = some c ∧ c.phase = .running) ∧ (0x10 : Nat) < 2 ^ 16 ∧
    ({ asleep [⟨0x10, 5⟩] with tvec := 0 } : Thread).tvec = 0 ∧ (∃ c, ctxOf (stopping (sleepBed [⟨0x10, 5⟩] 0)) 0 = some c ∧ c.phase ≠ .running) :=
  ⟨rfl, rfl, rfl, ⟨_, rfl, rfl⟩, by decide, rfl, ⟨_, rfl, by decide⟩⟩

/-- A queue in a context that stops: a thread's product of stream 0 before a node's product of stream 2. -/
def nodeMma : Cmd := { cmd0 0xC8200000 0 0 [] with node := some (0, 0) }
def cutBed : State := stopping (setUnit bed 0 0 ⟨[mma1, nodeMma], none, 0⟩)
theorem witness_CommandQueuesAndReservations_cut : (unitAt cutBed 0 0).queue = [mma1, nodeMma] ∧ (unitAt cutBed 0 0).running = none ∧
    ctxStops cutBed mma1.ctx = true ∧ cmdGoes cutBed [nodeMma] mma1 = false ∧ cmdGoes cutBed [] nodeMma = true ∧ (∀ j ∈ [nodeMma], j.ctx = mma1.ctx) ∧
    ¬(cmdTarget mma1 % 8 = cmdTarget nodeMma % 8) := by decide +kernel
/-- Ports that a fault has ended, that are full, and that hold a write of thread 0 that is not performed; a binding of no access. -/
def heldPort : Port := ⟨some (0, 0), [], 0, false, [(0, 7)]⟩
def landReq : PeerReq := ⟨.none, 0, 3, 1, 0x100, 8, false, 0x100, 0, false⟩
def landBedPort : State := { setPort bed 0 0 heldPort with requests := [(7, landReq)] }
theorem witness_StreamBindings_ports : (portAt (setPort bed 0 0 { heldPort with failed := true }) 0 0).failed = true ∧
    4 ≤ (portAt (setPort bed 0 0 { heldPort with bindings := List.replicate 4 (binding0 0) }) 0 0).bindings.length ∧
    (∃ l ∈ (portAt landBedPort 0 0).landing, l.1 = 0 ∧ (tblGet l.2 landBedPort.requests).isSome = true) ∧
    (∀ x ∈ (portAt landBedPort 0 0).bindings, x.tid ≠ 0) ∧ bindAccesses { binding0 0 with counts := [0, 1, 1] } = 0 ∧ bindAccesses (binding0 0) ≠ 0 := by
  decide +kernel
/-- A marker of thread 0 at the head of its stream's unit, and behind a product that runs; products of both other accumulator types. -/
def mark0 : Cmd := newCmd 0 thread0 (0x32 * 2 ^ 26 + 64 * 3) 0 0 []
def markBed (r : Option Cmd) : State := setUnit bed 0 0 ⟨[mark0], r, 0⟩
def product1 : Product := ⟨.fin true 3 1, false⟩
theorem witness_MatrixCommands_markers : (unitAt (markBed none) 0 0).running = none ∧ (∃ k, (unitAt (markBed none) 0 0).queue.head? = some k ∧
      isMarker k = true ∧ k.tid = 0) ∧ (unitAt (markBed (some mma1)) 0 0).running ≠ none ∧
    (∃ k ∈ (unitAt (markBed (some mma1)) 0 0).queue, isMarker k = true ∧ k.tid = 0) :=
  ⟨by decide +kernel, ⟨mark0, by decide +kernel⟩, by decide +kernel, ⟨mark0, by decide +kernel⟩⟩
theorem witness_MatrixSteps_runs : mmaSteps mma1 = 1 ∧ mmaSteps mma1 ≤ mma1.step + 1 ∧ mma2.step + 1 < mmaSteps mma2 ∧
    (unitAt (unitBed 0 mma2) 0 0).running = some mma2 ∧ pairEntry (mmaPair (cmd0 0xC8000002 0 0 [])) = 0 ∧ pairEntry (mmaPair mma1) = 1 ∧
    (∃ w, w < 16 ∧ pairEntry w = 2) ∧ (∀ p ∈ [product1], ∃ neg n, p.val = .fin neg n 1) ∧ [product1] ≠ [] ∧ (0x3F800000 : Nat) < 2 ^ 32 :=
  ⟨by decide +kernel, by decide +kernel, by decide +kernel, by decide +kernel, by decide +kernel, by decide +kernel, by decide +kernel,
   fun p hp => ⟨true, 3, by simp at hp; simp [hp, product1]⟩, by decide, by decide⟩
/-- An addition of 32-bit integers with its second operand from vector port 0, and one from a single element; the port with a binding at `pos`. -/
def vport : Cmd := cmd0 0xCC000005 0 0x0000020001000000 []
def vone : Cmd := cmd0 0xCC000006 0 0x0000020001000000 []
def vportBed (q : Port) : State := setPort (unitBed 4 vport) 0 64 q
def vq (bs : List Binding) (failed : Bool) : Port := ⟨none, bs, 0, failed, []⟩
theorem witness_VectorSteps_ports : vecSrc vport = 1 ∧ vecSrc vone = 2 ∧ vone.bk = none ∧ vecFmtCode vport = 2 ∧ cmdTarget vport = 0 ∧
    (portAt (vportBed (vq [] true)) 0 64).failed = true ∧ (portAt (vportBed (vq [] false)) 0 64).bindings = [] ∧ vport.lanes.length < 64 ∧
    ({ vport with waiting := true } : Cmd).waiting = true ∧ (portAt (vportBed (vq [binding0 0] false)) 0 64).bindings = [binding0 0] ∧
    (binding0 0).pos < bindAccesses (binding0 0) ∧ (binding0 0).spaceV = false ∧ (binding0 0).wait = false ∧ bindAddr (binding0 0) 0 = 0x40 ∧
    (0x40 : Int) % 4 = 0 ∧ bindAccesses (binding0 2) ≤ (binding0 2).pos ∧ ({ vport with lanes := [(1, false)] } : Cmd).lanes ≠ [] ∧
    ({ vport with lanes := List.replicate 64 (1, false) } : Cmd).lanes.length = 64 := by decide +kernel

/-- A launch header at 0x1000 whose graph has its task count known; pools that are full. -/
theorem witness_LaunchInstructions_stalls : ({ thread0 with peek := some (0x40, 3) } : Thread).peek = some (0x40, 3) ∧
    (∀ m, thread0.peek ≠ some (0x40, m)) ∧ 64 ≤ ({ bed with launches := (List.range 64).map (fun l => (l, launch0 false)) } : State).launches.length ∧
    poolTasks { bed with launches := [(1, { launch0 false with resv := 16384 })] } = 16384 ∧
    8 ≤ ({ thread0 with openForms := [0, 1, 2, 3, 4, 5, 6, 7] } : Thread).openForms.length ∧ ([] : List (Nat × Nat)).find? (fun p => decide (p.1 = 5)) = none ∧
    [(5, 3)].find? (fun p => decide (p.1 = 5)) = some (5, 3) := by
  refine ⟨by decide, fun m h => by simp [thread0] at h, by decide +kernel, by decide +kernel, by decide, by decide, by decide⟩

/-- A word of scratchpad I that is full and damaged, and a word of V in a quadrant whose table of empty words is full. -/
def fullWord : Nat := scratchpadCell 0 0x1000
def poisonBed : State := { bedRegs [0x1000] with full := [fullWord], errs := [fullWord] }
def tagBed (n : Nat) : State := { bed with tagEmpty := (List.range n).map (fun i => (0x1000 + 4 * i, 0)) }
theorem tblGet_below (k : Nat) (l : Tbl Nat) (h : ∀ e ∈ l, k < e.1) : tblGet k l = none := by
  cases l with
  | nil => rfl
  | cons e l =>
    have := h e (List.mem_cons_self ..)
    simp [tblGet, this, Nat.ne_of_gt this]
theorem tagBed_full (n : Nat) (h : n = 65536) : wordFull (tagBed n) 0 = true ∧ tagRoom (tagBed n) 0 = false := by
  have hk : tblGet 0 (tagBed n).tagEmpty = none := tblGet_below 0 _ (by
    intro e he
    simp only [tagBed, List.mem_map] at he
    obtain ⟨i, -, rfl⟩ := he
    exact Nat.lt_of_lt_of_le (by decide) (Nat.le_add_right _ _))
  have hf : (tagBed n).tagEmpty.filter (fun e => e.1 / quadBytes == 0 / quadBytes) = (tagBed n).tagEmpty := by
    rw [List.filter_eq_self]
    intro e he
    simp only [tagBed, List.mem_map, List.mem_range] at he
    obtain ⟨i, hi, rfl⟩ := he
    simp only [quadBytes, beq_iff_eq]
    omega
  refine ⟨by simp [wordFull, isHbmCell, hbmBytes, hk], ?_⟩
  have hl : (tagBed n).tagEmpty.length = 65536 := by simp [tagBed, h]
  unfold tagRoom
  rw [hk, hf, hl]
  decide
theorem witness_FullEmptyForms_stops : Running poisonBed 0 (regs [0x1000]) ∧ poisonBed.wordWaits = [] ∧ wordFull poisonBed fullWord = true ∧
    (memRead poisonBed fullWord 4).2.reason ≠ 0 ∧ tagRoom poisonBed fullWord = true ∧ thread0.status.getLsbD 0 = false ∧ thread0.tvec ≠ 0 ∧
    postedOn thread0 fullWord 4 = false ∧ place poisonBed 0 (regs [0x1000]) .i 0x1000 4 ⟨true, true, false, true⟩ false none = (poisonBed, .at_ (.cell fullWord)) ∧
    place poisonBed 0 (regs [0x1000]) .i 0x1000 4 ⟨true, false, false, true⟩ false none = (poisonBed, .at_ (.cell fullWord)) ∧
    (∃ s, wordFull s 0 = true ∧ tagRoom s 0 = false) := by
  refine ⟨⟨rfl, rfl⟩, by decide +kernel, by decide +kernel, by decide +kernel, by decide +kernel, by decide +kernel, by decide +kernel, by decide +kernel,
    by decide +kernel, by decide +kernel, ⟨tagBed 65536, tagBed_full _ rfl⟩⟩
/-- `sBed` after a translation of its overflow area, with a check of the line at 0x50000 there. -/
def ovfCell : Nat := hbmCell defaultMasks 0x50000
def ovfBed (v : BitVec 32) : State := { sBed with copies := [⟨0, 2, 0, 0xBA⟩], ovfChecks := [(ovfCell, (0, v))] }
/-- Whatever an empty line's check is, one of two checks does not fit it. -/
theorem line_misfits : lineFits (ovfBed 0) 0 ovfCell = false ∨ lineFits (ovfBed 1) 0 ovfCell = false := by
  have h (v : BitVec 32) : lineFits (ovfBed v) 0 ovfCell = decide (Config.lineCheck (cellsRead sBed.cells ovfCell 64) = v) := by
    simp only [lineFits, ovfBed, tblGet, if_true, ne_eq, not_true, decide_false, Bool.false_or]
    exact decide_eq_decide.2 Iff.rfl
  rw [h, h]
  by_cases e : Config.lineCheck (cellsRead sBed.cells ovfCell 64) = 0
  · exact .inr (by rw [e]; decide)
  · exact .inl (decide_eq_false e)
theorem witness_Atomics_stops : Running (ovfBed 0) 0 thread0 ∧ Running (ovfBed 1) 0 thread0 ∧ ovfLines true ovfCell 8 = [ovfCell] ∧ ovfCell ∈ ovfLines true ovfCell 512 ∧
    sPlace (ovfBed 0) thread0 0x50000 512 true = (ovfBed 0, .at_ (.cell ovfCell)) ∧
    sPlace (ovfBed 1) thread0 0x50000 512 true = (ovfBed 1, .at_ (.cell ovfCell)) ∧
    (lineFits (ovfBed 0) 0 ovfCell = false ∨ lineFits (ovfBed 1) 0 ovfCell = false) ∧
    (memRead { sBed with errs := [sCell 0 0 0x2000] } (sCell 0 0 0x2000) 8).2.reason ≠ 0 ∧
    syPlace { sBed with errs := [sCell 0 0 0x2000] } 0 thread0 true 0x2000 8 true = ({ sBed with errs := [sCell 0 0 0x2000] }, .at_ (.cell (sCell 0 0 0x2000))) :=
  ⟨⟨rfl, rfl⟩, ⟨rfl, rfl⟩, by decide +kernel, by decide +kernel, by decide +kernel, by decide +kernel, line_misfits, by decide +kernel, by decide +kernel⟩
theorem witness_TicketsAndReductions_stops : (memRead { sBed with errs := [sCell 0 0 0x2000] } (sCell 0 0 0x2000) 40).2.reason ≠ 0 ∧
    sPlace { sBed with errs := [sCell 0 0 0x2000] } thread0 0x2000 64 false = ({ sBed with errs := [sCell 0 0 0x2000] }, .at_ (.cell (sCell 0 0 0x2000))) ∧
    laPoison (BitVec.ofNat 320 (2 ^ 310)) = true ∧ (match syPlace peerBed 0 thread0 false 0x40 64 true with
      | (_, .at_ (.peer dev _)) => decide (dev = 2)
      | _ => false) = true ∧ (0x8000000000000040 : Word).getLsbD 63 = true ∧ (0 : Nat) + 1000000 ≤ 1000000 := by decide +kernel
/-- Thread 0 with an arrival at set 5 that stands, set 5 when every member has arrived, and with one member. -/
def held0 : Thread := { regs [5] with barwHeld := [(0x10000, 5, 3)] }
def arrivedSet (arrived : NatSet) : SetObj := ⟨[0, 1], 3, [0, 1], arrived, []⟩
theorem witness_SetsAndPhases_stands : (0x10000, 5, 3) ∈ held0.barwHeld ∧ (0x10000 : Nat) = held0.pc.toNat ∧ (3 : Nat) = (arrivedSet [0]).phase ∧
    setHas 0 (arrivedSet [0]).arrived = true ∧ setHas 0 (arrivedSet [0]).members = true ∧ (∀ e' ∈ held0.barwHeld, e' = (0x10000, 5, 3)) ∧
    (arrivedSet [0, 1]).required.all (fun m => setHas m (arrivedSet [0, 1]).arrived) = true ∧
    (arrivedSet [0]).required.all (fun m => setHas m (arrivedSet [0]).arrived) = false ∧ setDel 0 (arrivedSet []).members ≠ [] ∧ setDel 0 [0] = [] ∧
    keysAbove 0 setBed.sets = true ∧ ([0, 1] : List Nat).all (fun m => setHas m [0, 1]) = true ∧
    ({ thread0 with wait := .phase 5 3 true 1 } : Thread).wait = .phase 5 3 true 1 := by decide +kernel

/-- Transaction 1 wounded; holding 64 items; and an item on an overflow line whose check may not fit. -/
def woundBed : State := { lockBed with txns := [(1, ⟨0, .thread 0, 5, 1, true⟩), (2, ⟨0, .thread 1, 4, 2, false⟩)] }
def manyBed : State := { lockBed with lockItems := (List.range 64).map (fun i => ⟨0, tileItem (0x100 + i), [⟨1, 1⟩], [], none⟩) }
def lineBed (v : BitVec 32) : State := { ovfBed v with lockItems := [⟨0, 0, [⟨1, 1⟩], [], some ovfCell⟩], txns := lockBed.txns }
theorem lineBed_misfits : lineFits (lineBed 0) 0 ovfCell = false ∨ lineFits (lineBed 1) 0 ovfCell = false := by
  have h (v : BitVec 32) : lineFits (lineBed v) 0 ovfCell = lineFits (ovfBed v) 0 ovfCell := by
    unfold lineBed lineFits
    rfl
  rw [h, h]
  exact line_misfits
theorem witness_LockRequests_statuses : Running woundBed 0 lockRegs ∧ txnOf woundBed 0 (.thread 0) = some 1 ∧ (txnAt woundBed 1).wounded = true ∧
    (itemsHeld manyBed 1).length = 64 ∧ heldMode (findItem manyBed 0 0) 1 = none ∧ itemParent manyBed 0 0 = some none ∧
    (txnAt manyBed 1).wounded = false ∧ (findItem (lineBed 0) 0 0).line = some ovfCell ∧
    (lineFits (lineBed 0) 0 ovfCell = false ∨ lineFits (lineBed 1) 0 ovfCell = false) ∧
    (∀ h ∈ (findItem lockBed 0 (tileItem 1)).holders, h.txn ≠ 1) :=
  ⟨⟨rfl, rfl⟩, by decide +kernel, by decide +kernel, by decide +kernel, by decide +kernel, by decide +kernel, by decide +kernel, by decide +kernel,
   lineBed_misfits, by decide +kernel⟩
/-- A tensor record that is misaligned, damaged, on no page and on a peer's page; a queue whose head is granted, and one whose head waits. -/
theorem witness_LockReleases_more : (0x1001 : Word).toNat % 32 ≠ 0 ∧ (0x10000 : Word).toNat % 32 = 0 ∧
    (match place bed 0 thread0 .v 0x40000000 32 needRead false none with
      | (_, .trap _) => true
      | _ => false) = true ∧ (match place peerBed 0 thread0 .v 0x40 32 needRead false none with
      | (_, .at_ (.peer _ _)) => true
      | _ => false) = true ∧ (memRead { bed with errs := [hbmCell defaultMasks 0x10000] } (hbmCell defaultMasks 0x10000) 32).2.reason ≠ 0 ∧
    (⟨0, 0x12, [], [⟨1, 3, 0⟩], none⟩ : LockItem).queue = ⟨1, 3, 0⟩ :: [] ∧
    (¬∃ h ∈ (⟨0, 0x12, [⟨2, 3⟩], [⟨1, 3, 0⟩], none⟩ : LockItem).holders, h.txn = 1 ∨ compatible 0 h.mode 3 = true) ∧
    (txnThreads lockBed (txnAt lockBed 1)).all (fun u => (tblGet u { lockBed with threads := [(0, storing)] }.threads).any (fun v => !v.posted.isEmpty)) = true := by
  decide +kernel

/-- A `carry` with a control kind on its back input. -/
theorem witness_RouterOperators_back : (tokenAt (opForm 0x8000 [data 7] [eos] []) 0 1 0).map (·.tok) = some eos ∧ 2 ≤ eos.kind ∧
    (carryNode .open_ []).carry = .open_ ∧ (carryNode (.closing eos) [true]).slots.any (fun b => b) = true ∧ carryTurn (carryNode .open_ [false]) 1 = 0 := by
  decide +kernel
/-- An operator at the eastern edge of cluster 0, whose output leaves the partition, with a token that its port is given; a token that a restore
offers again; and a token that is not yet past a router's other slot. -/
def edgeForm (ts : List Flit) : Form :=
  { form0 2 0 [{ outArc0 0 with route := [31 * 65536], toks := ts }] with nodes := [{ node0 2 0 with wher := 31 * 8192 }, node0 2 0] }
def offerForm : Form := { addForm [] [data 5] with nodes := [{ node0 0 addWord with offer := [(0, ⟨data 7, 1, 0⟩)] }, node0 2 0] }
theorem witness_FabricMoves_guards : formAt (formBed (edgeForm [⟨data 7, 0, 0⟩])) 0 = some (edgeForm [⟨data 7, 0, 0⟩]) ∧
    partClusters (formBed (edgeForm [])) 0 = [0] ∧ siteCluster 31 = 0 ∧ siteCluster 32 = 1 ∧ 32 ∈ facedBy 31 1 ∧
    (siteQuad 32 = siteQuad 31) ∧ bitsOf 0x400 10 3 = 1 ∧ nodeSite { node0 2 0 with wher := 31 * 8192 } = 31 ∧
    offered offerForm 0 0 = some ⟨data 7, 1, 0⟩ ∧ offeredOn offerForm (inArc0 0 []) = 1 ∧ (inArc offerForm 0 0 0).isSome = true ∧
    lingers { edgeForm [] with phase := .failed, guarded := true } = true ∧ hopSite { outArc0 0 with route := [31 * 65536] } 1 = some 31 ∧
    tornDown (formBed { edgeForm [] with phase := .failed, guarded := true }) 0 { edgeForm [] with phase := .failed, guarded := true } = true := by
  decide +kernel
/-- A stream that has a token on a lane its reader does not take. -/
theorem witness_LoopUnits_unread : (loopNode (.run 0 1 3 2) .none).idxGiven = [] ∧
    (∃ a ∈ [{ outArc0 0 with lane := true, toks := [⟨data 1, 0, 0⟩] }], a.lane = true ∧ a.src = 0 ∧ a.fport = 0 ∧ a.toks ≠ []) :=
  ⟨rfl, _, List.mem_cons_self .., rfl, rfl, rfl, by decide⟩
/-- A graph of a source and a sink stream port, joined, at 0x100000 with a number of scratch islands, and a formation of it, ready, with cluster 0 as
its home. -/
def portRecord (num : Nat) (w : Nat) : List Byte := leBytes num 4 ++ [5, 0] ++ leBytes 0xFFFF 2 ++ leBytes w 4 ++ leBytes 0 2 ++ leBytes 0xFFFF 2
def graphBytes (isles : Nat) : List Byte :=
  leBytes 1 2 ++ leBytes 2 2 ++ leBytes 1 4 ++ leBytes 8 2 ++ leBytes isles 2 ++ leBytes 0 4 ++ leBytes 64 8 ++ leBytes 96 8 ++ leBytes 104 8 ++ leBytes 0 24 ++
  portRecord 0 0x00400000 ++ portRecord 1 0x82400000 ++ leBytes (1 * 2 ^ 24 + 1) 8 ++ leBytes 0 32
def readyPort : Form := newForm bed 0 1 0 0 (some 0) (some 0) 0x100000 1 [] 0
def placeBed (isles : Nat) : State :=
  { modCtx (memStore bed (hbmCell defaultMasks 0x100000) (graphBytes isles) false) 0 (fun c => { c with savesz := 0x1000000 }) with forms := [(0, readyPort)] }
/-- How an item's turn at the placer ends: its graph, and whether `wheres` is a placement and whether the search finds one. -/
def placing (isles : Nat) (wheres : List Nat) : Option (Bool × Bool) :=
  match readGraph (placeBed isles) 0 readyPort none (lateReasons (placeBed isles) 0 readyPort) with
  | (s, .ok g) => if (checkRecords g true).isNone then some (goodPlacement s 0 readyPort g wheres [[]] [], (findPlacement s 0 readyPort g).isSome) else none
  | _ => none
theorem witness_Dispatching_places : formAt (placeBed 0) 0 = some readyPort ∧ mayPlace (placeBed 0) readyPort = true ∧ readyPort.passed = false ∧
    placeTurn (placeBed 0) readyPort = true ∧ readyPort.fill = none ∧ placing 0 [5 * 2 ^ 28, 5 * 2 ^ 28 + 128] = some (true, true) ∧ placing 0 [] = some (false, true) ∧
    placing 505 [] = some (false, false) ∧ fitsSave (placeBed 0) 0 0 0 [(2, 0)] = true ∧ stillReading (placeBed 0) 0 readyPort = false := by
  decide +kernel
/-- A matrix node whose tokens give one k-step, and one with sixteen operations open. -/
theorem witness_MatrixNodes_steps : (data 0x8000).data.extractLsb' 15 10 = 1#10 ∧ (data 0x8000).data.extractLsb' 26 6 = 0#6 ∧
    mmaInRange (cmd0 0xC8000000 0x0000000100000000 0 []) = true ∧ mmaInRange (cmd0 0xC8000000 0x00000001001FFFC0 0 []) = false ∧
    ((List.replicate 16 (access0 (.sent 0))).filter (fun a => !performed a)).length = 16 ∧
    8 ≤ (unitCmds (unitAt (setUnit bed 0 0 ⟨List.replicate 8 mma1, none, 0⟩) 0 0)).length := by decide +kernel
/-- A command with a frozen access, woken and not; a node whose word's fetch is frozen. -/
def frostedCmd (w : Bool) : Cmd := { vadd2 with frost := [{ frost0 with woken := w, frz := ⟨0x40, 4, false, 0, 0, 0, 0⟩ }] }
def fetchForm (w : Bool) : Form := { addForm [] [] with nodes := [{ node0 0 addWord with loaded := false, fetch := some { frost0 with woken := w } }, node0 2 0] }
theorem witness_Paging_commands : (unitAt (unitBed 4 (frostedCmd true)) 0 4).running = some (frostedCmd true) ∧
    (frostedCmd true).frost.find? (fun z => z.idx == 0) = some { frost0 with woken := true, frz := ⟨0x40, 4, false, 0, 0, 0, 0⟩ } ∧
    (∀ z ∈ (frostedCmd true).frost, z.idx ≠ 1) ∧ (0x40 : Nat) < 2 ^ 57 ∧ cmdMajor (frostedCmd false) = 0x33 ∧ cmdMajor mma1 ≠ 0x33 ∧
    (∀ z ∈ (frostedCmd false).frost, z.woken = false ∧ 2 ≤ z.frz.reason ∧ z.frz.reason ≤ 5 ∧ z.frz.since + 100000000 ≤ 100000000) ∧
    formAt (formBed (fetchForm true)) 0 = some (fetchForm true) ∧ formLive (fetchForm true) = true ∧
    (∃ nd, (fetchForm true).nodes[0]? = some nd ∧ nd.fetch.any (·.woken) = true ∧ nd.asked = true ∧ nd.loaded = false ∧ nd.blocked = false ∧ nd.shadowIdx = none) ∧
    (∃ nd, (fetchForm false).nodes[0]? = some nd ∧ nd.fetch.any (fun z => !z.woken) = true) ∧ (clusterAt (formBed (fetchForm true)) 0).cache = [] := by
  decide +kernel
/-- A context that is saved, with nothing of its own, and clusters of its partition that its restore may take. -/
theorem witness_SavingAndWatching_restores : (∃ v, tblGet 0 savedBed.saves = some v ∧ v.images = [] ∧ v.threads = []) ∧ restoreTurn savedBed 0 = true ∧
    partClusters savedBed 0 = [0] ∧ (clusterAt savedBed 0).bound = none ∧ usedSlots savedBed 0 = [] ∧ (findRestore savedBed 0).isSome = true ∧
    (placeAll id savedBed []).isSome = true ∧ (savedBed.forms.filter (fun f => decide (f.2.phase = .saved))) = [] :=
  ⟨⟨_, rfl, rfl, rfl⟩, by decide +kernel⟩
/-- Another clock's announcement, a port that has heard it, and one that waits for answers. -/
def otherSet : PtpSet := { ownSet with gm := ownSet.gm + 1, steps := 1, sender := (ownSet.gm + 1) * 65536 }
def ptpBed (q : PtpPort) : State := { bed with ptpPorts := [(0, q)], timeStatus := { bed.timeStatus with port := 0, state := 1 } }
def ptpQ : PtpPort := ⟨some otherSet, some (3, 10), some (4, 20), some (5, 30), 0, 0, 0⟩
theorem witness_PowerAndTime_ptp : otherSet.steps < 255 ∧ otherSet.gm ≠ ownSet.gm ∧ otherSet.sender / 65536 ≠ ownSet.gm ∧
    ptpBest (ptpBed ptpQ) = some (0, otherSet) ∧ ptpBest bed = none ∧ (ptpAt (ptpBed ptpQ) 0).sync = some (3, 10) ∧ (ptpAt (ptpBed ptpQ) 0).asked = some (4, 20) ∧
    (ptpAt (ptpBed ptpQ) 0).reply = some (5, 30) ∧ (ptpAt bed 0).reply = none ∧ (ptpAt bed 0).asked = none ∧ (ptpBed ptpQ).timeStatus.port = 0 ∧
    (ptpBed ptpQ).timeStatus.state = 1 ∧ bed.fw.phase ≠ .recovery ∧ (tblGet 0 State.reset.stackWin).getD 0 < 10000 / 10000 := by
  refine ⟨by decide, ?_, ?_, rfl, rfl, rfl, rfl, rfl, rfl, rfl, rfl, rfl, by decide, by decide⟩
  · exact Nat.succ_ne_self _
  · unfold otherSet
    rw [Nat.mul_div_cancel _ (by decide)]
    exact Nat.succ_ne_self _
/-- Requests of a `red.ladd` and of a `glaunch` on a peer's page, and a device in recovery. -/
def farThread (w : Nat) : Thread := { thread0 with wait := .peer 7, word := w }
theorem witness_Peers_far : decodeControl (BitVec.ofNat 32 0xE8011158) = .ok (.redLadd 1 2 6) ∧ isGlaunch (farThread 0xD8008000) = true ∧
    (farThread 0).wait = .peer 7 ∧ { bed with fw := { bed.fw with phase := .recovery } }.fw.phase = .recovery ∧
    (tblGet 7 { msgBed 1 with requests := [(7, { request0 with stale := true })] }.requests).any (·.stale) = true := by decide +kernel
/-- A LAUNCH command whose graph is on a peer's page, on a page here, and whose header is known; a SUSPEND before and after its first turn. -/
def launchCmd (stage note : Nat) : HostCmd := { hostCmd 0x02 0 (List.replicate 16 0) with stage := stage, note := note }
def asksOf (s : State) : Nat := match (peekTasks s 0 0 (.queue 0)).2 with
  | .asks _ => 1
  | .tasks _ => 2
theorem witness_HostQueues_launch : HeadCommand (hostBed (launchCmd 0 0)) 0 2 (launchCmd 0 0) ∧ (launchCmd 0 0).body.length = 16 ∧ (launchCmd 1 5).stage = 1 ∧
    asksOf peerBed = 1 ∧ asksOf bed = 2 ∧ ({ bed with requests := [(7, { request0 with who := .queue 0 })] }.requests).any (fun r => decide (r.2.who = PeerWho.queue 0)) = true ∧
    refuseStatus (hostBed (launchCmd 0 0)) 0 .ofCtx (launchCmd 0 0) = 0 := by
  refine ⟨?_, by decide, by decide, by decide +kernel, by decide +kernel, by decide +kernel, by decide⟩
  unfold HeadCommand
  decide
def suspendCmd (stage note : Nat) : HostCmd := { hostCmd 0x12 0 [] with stage := stage, note := note }
theorem witness_HostContexts_suspend : HeadCommand (hostBed (suspendCmd 1 0)) 0 0x12 (suspendCmd 1 0) ∧ (suspendCmd 0 0).stage = 0 ∧ (suspendCmd 1 0).stage ≠ 0 ∧
    (∃ x, ctxOf savedBed 0 = some x ∧ x.phase = .suspended) ∧ (∃ x, ctxOf stopBed 0 = some x ∧ x.phase ≠ .running ∧ x.phase ≠ .suspended ∧ x.seals = 0) ∧
    (∃ x, ctxOf bed 0 = some x ∧ x.phase = .running) := by
  refine ⟨?_, by decide, by decide, ⟨_, rfl, rfl⟩, ⟨_, rfl, by decide, by decide, rfl⟩, ⟨_, rfl, rfl⟩⟩
  unfold HeadCommand
  decide
/-- Flash whose image claims a length that no image has: the device comes up in recovery. -/
def badFlash : State := { State.reset with cells := [(firmwareCell + 15, 0xFF)] }
theorem witness_HostManagement_recovery : storedImage badFlash = [] ∧ imageOk badFlash.fw.minSvn [] = false := by decide +kernel
/-- A thread stalled at a full queue, before and after the queue has room; a word handed over; and a word that is no instruction. -/
def stallTh : Thread := { thread0 with wait := .full (.unit 0), word := 0xC8000000 }
def stallBed (n : Nat) : State := setUnit (bedOf stallTh) 0 0 ⟨List.replicate n mma1, none, 0⟩
theorem witness_StepRunsDecodedInstruction_stalls : atFull (stallBed 8) 0 = true ∧ runnable (stallBed 8) 0 stallTh = false ∧ runnable (stallBed 7) 0 stallTh = true ∧
    nextThread (stallBed 7) 0 = some 0 ∧ nextThread (stallBed 8) 0 = none ∧ stallTh.wait = .full (.unit 0) ∧ ({ thread0 with ifetch := some 4 } : Thread).ifetch = some 4 ∧
    decodeControl (BitVec.ofNat 32 0) = .error 1 ∧ stalled bed { thread0 with wait := .retry } = true ∧ inTrap inHandler = true := by decide +kernel

/-- Thread 0 in each of its waits, with an asynchronous trap pending. -/
def trapped (w : Wait) : Thread := { thread0 with wait := w, asyncs := [⟨0x10, 5⟩] }
theorem witness_TrapEntries_all : (∀ w ∈ [Wait.none, .retry, .handle 3, .full (.unit 0), .arrive 5 3, .phase 5 3 false 0, .phase 5 3 true 0,
      .word (scratchpadCell 0 0x1000) .i 0x1000, .xinv 0, .fill 5 0 0x10000 0, .kstep 2, .lock 0x12 3, .load (.cell 0) 4 false 3 .i 0, .peer 7],
    tblGet 0 (bedOf (trapped w)).threads = some (trapped w) ∧ (trapped w).life = .running ∧ (trapped w).asyncs = [⟨0x10, 5⟩] ∧
    (trapped w).status.getLsbD 0 = false ∧ (trapped w).halts = [] ∧ (trapped w).tvec ≠ 0 ∧ (∃ c, ctxOf (bedOf (trapped w)) 0 = some c ∧ c.phase = .running) ∧
    itemFits (bedOf (trapped w)) (findItem (bedOf (trapped w)) 0 0x12) = true) ∧
    isMarker mark0 = true ∧ mark0.tid = 0 ∧ (unitAt (markBed (some mma1)) 0 0).queue = [mark0] := by
  have h : thread0.status.getLsbD 0 = false ∧ thread0.tvec ≠ 0 := by decide
  exact ⟨fun w _ => ⟨rfl, rfl, rfl, h.1, rfl, h.2, ⟨_, rfl, rfl⟩, rfl⟩, by decide +kernel⟩
/-- A thread that ends, with and without a store of its own on its way; launches whose one task has completed, failed and runs; a context of two
events. -/
def leaver : Thread := { thread0 with life := .leaving false }
def launchOf (st : ItemState) (failed : Bool) : Launch := { launch0 true with anyFailed := failed, tasks := [{ task0 with state := st }] }
theorem witness_SystemInstructions_ends : tblGet 0 (bedOf leaver).threads = some leaver ∧ leaver.life = .leaving false ∧ leaver.posted = [] ∧
    ({ leaver with posted := storing.posted } : Thread).posted ≠ [] ∧
    commandsDone (releaseOwn ((setsOf (bedOf leaver) 0).foldl (fun s k => quitSet s k 0) (bedOf leaver)) 0 0) 0 = true ∧
    commandsDone (releaseOwn ((setsOf landBed 0).foldl (fun s k => quitSet s k 0) landBed) 0 0) 0 = false ∧
    (∀ ts ∈ (launchOf .completed false).tasks, ts.state = .completed) ∧
    (∀ ts ∈ (launchOf .failed true).tasks, ts.state ≠ .running ∧ ts.state ≠ .placing ∧ ts.state ≠ .suspended) ∧ (launchOf .failed true).anyFailed = true ∧
    (launchOf .failed true).tasks[0]? = some { task0 with state := .failed } ∧ (launchOf .running false).anyFailed = false ∧
    (∃ c, ctxOf (modCtx bed 0 (fun c => { c with nevent := 2 })) 0 = some c ∧ (1 : Nat) < c.nevent ∧ c.nevent ≤ 2) := by
  refine ⟨by decide, rfl, rfl, by decide, by decide +kernel, by decide +kernel, by decide, by decide, rfl, by decide, rfl, ⟨_, rfl, by decide, by decide⟩⟩
/-- Thread 0's own binding at the head of a port that has begun, and one behind it that has not. -/
theorem witness_StreamBindings_begun : (setPort bed 0 0 ⟨none, [binding0 1, binding0 0], 0, false, []⟩ |> (portAt · 0 0)).bindings.head? = some (binding0 1) ∧
    0 < (binding0 1).pos ∧ (binding0 1).tid = 0 ∧ bindAccesses (binding0 1) ≠ 0 ∧ (binding0 0).pos = 0 := by decide +kernel
/-- `bed` after a first access to its first GiB: a further one leaves the machine as it is. -/
def walkedBed : State := (translate bed 0 0x40 needBoth).1
def leafTarget (va : Nat) : Target := match (translate bed 0 va needRead).2 with
  | .ok t => t
  | _ => ⟨true, 0, 0, 0, 0, 0⟩
theorem witness_Lies : Sound walkedBed ∧ Lies walkedBed 0 needRead 0x10040 (leafTarget 0x10040) ∧ Lies walkedBed 0 needWrite 0x20040 (leafTarget 0x20040) ∧
    (leafTarget 0x20040).pa < hbmBytes ∧ walkedBed.requests = [] := by
  unfold Sound Lies
  decide +kernel
/-- A raw copy of 64 bytes from 0x10040 into A at 0x20, which two lines of A take; one of 0x20 bytes from W to 0x20040. -/
def copyIn : Cmd := { cmd0 0xC4000000 0x10040 (0x0000004000000000 + 0x20) [] with handle := 0, granted := true, step := 1 }
theorem witness_CopyMovesBytes_lines : cmdMajor copyIn = 0x31 ∧ copyDir copyIn = 0 ∧ copyDec copyIn = 0 ∧ copyLen copyIn = 64 ∧ copyIn.froze = [] ∧ copyIn.memo = [] ∧
    copyBuf copyIn < 3 ∧ copyOff copyIn + copyLen copyIn ≤ bufSize (copyBuf copyIn) ∧ 0 < lineCount copyIn.ga.toNat (copyLen copyIn) ∧
    lineAt copyIn.ga.toNat (copyLen copyIn) 0 = (0x10040, 64) ∧ copyDir { copyIn with word := 0xC4000100 } = 1 := by decide +kernel
/-- Tiles and operands at the places that a k-step reads; a product of `mmaz`. -/
theorem witness_MatrixSteps_tile : Sound walkedBed ∧ mmaPair mma1 < 16 ∧ mmaCoff mma1 % 64 = 0 ∧ matOp (cmd0 0xC8000040 0 0x0000000100000000 []) = 1 := by
  unfold Sound
  decide +kernel
/-- A `gath` into W and a `scat`, of one row of 16 bytes, the index list at 0x10000 in a GiB of zeros; a `predrows` and a memo of `prcheck`. -/
def oneRow : List Byte := leBytes 0x10040 8 ++ leBytes 64 8 ++ leBytes 0x10000 8 ++ leBytes 1 4 ++ leBytes 16 4
def gathW : Cmd := cmd0 0xD4000080 0 0 oneRow
def scat1 : Cmd := cmd0 0xD4000100 0 0x10000 oneRow
def gathBed (k : Cmd) : State := setUnit walkedBed 0 9 ⟨[], some k, 0⟩
theorem witness_SelectionRuns_rows : Sound (gathBed gathW) ∧ (unitAt (gathBed gathW) 0 9).running = some gathW ∧ (unitAt (gathBed scat1) 0 9).running = some scat1 ∧
    gathDec gathW = 0 ∧ gathCount gathW = 1 ∧ gathToW gathW = true ∧ isScat gathW = false ∧ isScat scat1 = true ∧ gathRow gathW = 16 ∧ gathList gathW = 0x10000 ∧
    gathList gathW % 4 = 0 ∧ gathW.gb.toNat + gathRow gathW ≤ 0x200000 ∧ Lies (gathBed gathW) 0 needRead 0x10000 (leafTarget 0x10000) ∧
    leNat (cellsRead (gathBed gathW).cells (hbmCell gathW.masks (leafTarget 0x10000).pa) 4) = 0 ∧ vPieces 0x10040 16 2 = [(0x10040, 16)] ∧
    Lies (gathBed gathW) 0 needRead 0x10040 (leafTarget 0x10040) ∧ 0x10040 % 64 + 16 ≤ 64 ∧ Lies (gathBed scat1) 0 needWrite 0x10040 (leafTarget 0x10040) ∧
    vGet (gathBed gathW) gathW (.unit 0 9 0) 0x10000 4 = (gathBed gathW, .ok (leBytes 0 4) (List.replicate 4 false)) ∧
    pendingFor (gathBed gathW) (.unit 0 9 0) = false ∧
    tblGet 0 { gathW with memo := [(0, 0xFFFFFFFF)] }.memo = some 0xFFFFFFFF ∧ tblGet sumKey { chk0 with memo := [(sumKey, 5)] }.memo = some 5 ∧
    cmdEnds (gathBed gathW) 0 9 gathW = true ∧ cmdEnds (gathBed gathW) 0 9 { gathW with frost := [frost0] } = false := by
  unfold Sound Lies
  decide +kernel
theorem witness_SelectionRuns_selects : (∀ b ∈ [floatVal .f32 0x3F800000, .inf false], (∃ n d, b = .fin false n d ∧ 0 < d) ∨ b = .inf false) ∧
    prDest pred0 + 0 * prRowBytes pred0 + prRowBytes pred0 ≤ 0x200000 := by
  refine ⟨fun b hb => ?_, by decide +kernel⟩
  rcases List.mem_cons.1 hb with rfl | hb
  · exact Or.inl ⟨_, _, rfl, by decide⟩
  · exact Or.inr (List.mem_singleton.1 hb)
/-- Root entries of each outcome of a walk: none, of no kind, of no format, without permission, a page, an absent page and a peer's page. -/
def rootBed (e : Nat) : State := { putEntry bed 0x4000 e with parts := widePart }
theorem witness_Paging_walks : Sound bed ∧ bed.copies = [] ∧ (∃ c, ctxOf bed 0 = some c) ∧
    xlateIs (translate (rootBed 0) 0 0x40 needRead) = 3 ∧ xlateIs (translate (rootBed 7) 0 0x40 needRead) = 3 ∧ xlateIs (translate bed 0 0x40 needRead) = 1 ∧
    xlateIs (translate flashBed 0 0x10000 needRead) = 4 ∧ xlateIs (translate flashBed 0 0x10000 needWrite) = 3 ∧
    xlateIs (translate peerBed 0 0x40 needRead) = 2 := by
  refine ⟨?_, rfl, ⟨_, rfl⟩, ?_⟩
  · unfold Sound
    decide +kernel
  · decide +kernel
/-- A gapped cell that is due for its record and one that is not; the last entry of a fill ring that begins at the end of HBM. -/
theorem witness_TicketsAndReductions_gap : ((⟨[(3, 1)], 0, false⟩ : SeqCell).reported = false ∧ 0 + 1000000 ≤ 1000000) ∧
    (⟨[(3, 1)], 0, true⟩ : SeqCell).reported = true ∧ (⟨[], 0, false⟩ : SeqCell).slots = [] ∧ paAllowed bed 0 (hbmBytes - 8) 8 = false ∧
    paAllowed bed 0 0x20000 8 = true := by decide +kernel
end Sys2Proof.Tests
end

/-! PROOFS. The units of a cluster: their queues, the descriptors of their commands, and the reservations of the cluster arbiter (O16). -/

namespace Sys2Proof.Machine

/-! ### Clusters: what a change of one unit leaves in the others -/

@[simp] theorem clusterAt_modCluster (s : State) (c : Nat) (f : Cluster → Cluster) :
    clusterAt (modCluster s c f) c = f (clusterAt s c) := by
  simp [clusterAt, modCluster]

theorem clusterAt_modCluster_ne {c d : Nat} (h : d ≠ c) (s : State) (f : Cluster → Cluster) :
    clusterAt (modCluster s c f) d = clusterAt s d := by
  simp [clusterAt, modCluster, tblGet_tblSet_ne h]

@[simp] theorem unitAt_setUnit (s : State) (c u : Nat) (q : UnitQ) : unitAt (setUnit s c u q) c u = q := by
  simp [unitAt, setUnit]

theorem unitAt_setUnit_ne {c u d v : Nat} (h : d ≠ c ∨ v ≠ u) (s : State) (q : UnitQ) :
    unitAt (setUnit s c u q) d v = unitAt s d v := by
  by_cases hd : d = c
  · subst hd
    have hv : v ≠ u := by simpa using h
    simp [unitAt, setUnit, tblGet_tblSet_ne hv]
  · rw [unitAt, setUnit, clusterAt_modCluster_ne hd, unitAt]

@[simp] theorem portAt_setUnit (s : State) (c u : Nat) (q : UnitQ) (d p : Nat) : portAt (setUnit s c u q) d p = portAt s d p := by
  by_cases hd : d = c
  · subst hd; simp [portAt, setUnit]
  · rw [portAt, setUnit, clusterAt_modCluster_ne hd, portAt]

@[simp] theorem handleAt_setUnit (s : State) (c u : Nat) (q : UnitQ) (d h : Nat) :
    handleAt (setUnit s c u q) d h = handleAt s d h := by
  by_cases hd : d = c
  · subst hd; simp [handleAt, setUnit]
  · rw [handleAt, setUnit, clusterAt_modCluster_ne hd, handleAt]

/-! ### The age of the command at the head of a queue (R317) -/

@[simp] theorem headAged_running (now : Nat) (q : UnitQ) : (headAged now q).running = q.running := by
  unfold headAged
  split
  · split <;> rfl
  · rfl

/-- Nothing of a queued command changes with its age but the age. -/
theorem headAged_map {α : Type} (f : Cmd → α) (hf : ∀ k a, f { k with headAt := a } = f k) (now : Nat) (q : UnitQ) :
    (headAged now q).queue.map f = q.queue.map f := by
  unfold headAged
  split
  · next c rest _ hq =>
    split
    · rfl
    · simp [hq, hf]
  · rfl

/-- Nor does a choice of commands that does not look at it. -/
theorem headAged_filter_map {α : Type} (f : Cmd → α) (hf : ∀ k a, f { k with headAt := a } = f k) (p : Cmd → Bool)
    (hp : ∀ k a, p { k with headAt := a } = p k) (now : Nat) (q : UnitQ) :
    ((headAged now q).queue.filter p).map f = (q.queue.filter p).map f := by
  unfold headAged
  split
  · next c rest _ hq =>
    split
    · rfl
    · simp only [hq, List.filter_cons, hp]
      split <;> simp [hf]
  · rfl

/-! ### Queueing a command (R25, R209) -/

theorem queued_unit (s : State) (cl u : Nat) (c : Cmd) :
    unitAt (queued s cl u c) cl u = headAged s.now { unitAt s cl u with queue := (unitAt s cl u).queue ++ [c] } :=
  unitAt_setUnit ..

/-! ### A read that meets no poison leaves the machine as it is (R413) -/

theorem mem_unitsFrom {size u k x : Nat} : x ∈ unitsFrom size u k ↔ ∃ i < k, x = u + i * size := by
  induction k generalizing u with
  | zero => simp [unitsFrom]
  | succ k ih =>
    rw [unitsFrom, List.mem_cons, ih]
    constructor
    · rintro (rfl | ⟨i, hi, rfl⟩)
      · exact ⟨0, by omega, by simp⟩
      · exact ⟨i + 1, by omega, by ring⟩
    · rintro ⟨i, hi, rfl⟩
      cases i with
      | zero => exact .inl (by simp)
      | succ i => exact .inr ⟨i, by omega, by ring⟩

/-- The units that a range touches are those of its bytes. -/
theorem mem_unitsOf {size c n x : Nat} (hs : 0 < size) :
    x ∈ unitsOf size c n ↔ ∃ b, c ≤ b ∧ b < c + n ∧ x = b / size * size := by
  unfold unitsOf
  split
  · next hn => simp only [List.not_mem_nil, false_iff]; rintro ⟨b, h1, h2, -⟩; omega
  · next hn =>
    rw [mem_unitsFrom]
    constructor
    · rintro ⟨i, hi, rfl⟩
      rcases Nat.eq_zero_or_pos i with rfl | hpos
      · exact ⟨c, le_refl _, by omega, by simp⟩
      · have hle : (c / size + i) * size ≤ c + n - 1 := (Nat.le_div_iff_mul_le hs).1 (by omega)
        have hlt : c < (c / size + i) * size := (Nat.div_lt_iff_lt_mul hs).1 (by omega)
        exact ⟨(c / size + i) * size, hlt.le, by omega, by rw [Nat.mul_div_cancel _ hs, Nat.add_mul]⟩
    · rintro ⟨b, h1, h2, rfl⟩
      have hlo : c / size ≤ b / size := Nat.div_le_div_right h1
      have hhi : b / size ≤ (c + n - 1) / size := Nat.div_le_div_right (by omega)
      exact ⟨b / size - c / size, by omega, by rw [← Nat.add_mul, Nat.add_sub_cancel' hlo]⟩

/-- The check unit of a cell is that of the mark unit in which the cell lies (R411, R414). -/
theorem errUnit_of_markUnit (c b : Nat) : b / markSize c * markSize c / errSize c * errSize c = b / errSize c * errSize c := by
  unfold markSize errSize
  split <;> omega

/-- An error not yet found in a range lies in a unit that the read reports: as new, or as marked. -/
theorem memRead_of_reason_zero {s : State} {c n : Nat} (h : (memRead s c n).2.reason = 0) : (memRead s c n).1 = s := by
  have hm : 0 < markSize c := by unfold markSize; split <;> omega
  have he : 0 < errSize c := by unfold errSize; split <;> omega
  apply memRead_of_sound
  by_contra herr
  obtain ⟨e, hmem, hset⟩ : ∃ e ∈ unitsOf (errSize c) c n, setHas e s.errs = true := by simpa [anyIn] using herr
  obtain ⟨b, hb, hb', rfl⟩ := (mem_unitsOf he).1 hmem
  have hu : b / markSize c * markSize c ∈ unitsOf (markSize c) c n := (mem_unitsOf hm).2 ⟨b, hb, hb', rfl⟩
  by_cases hmark : setHas (b / markSize c * markSize c) s.marks = true
  · have hmarked : anyIn (unitsOf (markSize c) c n) s.marks = true := List.any_eq_true.2 ⟨_, hu, hmark⟩
    simp only [memRead, hmarked, if_true] at h
    split at h <;> omega
  · have hfresh : ∃ u ∈ unitsOf (markSize c) c n, setHas u s.marks = false ∧ setHas (u / errSize c * errSize c) s.errs = true :=
      ⟨_, hu, by simpa using hmark, by rwa [errUnit_of_markUnit]⟩
    simp [memRead, hfresh] at h

/-! ### Descriptors (R210) -/

section
variable {s : State} {t : Nat} {th : Thread} {a : Word} {n : Nat} {f : State → List Byte → State}

theorem readDesc_misaligned (h : a.toNat % n ≠ 0) :
    readDesc s t th a n f = raiseTrap s t ⟨2, memDetail .i false 4, a.toNat⟩ := by
  simp [readDesc, h, alignTrap]

theorem readDesc_outside (ha : a.toNat % n = 0) (h : 0x80000 ≤ a.toNat) :
    readDesc s t th a n f = raiseTrap s t ⟨3, memDetail .i false 1, a.toNat⟩ := by
  simp [readDesc, place, spaceSize, ha, h, stopAt, boundsTrap]

theorem readDesc_inCarve (ha : a.toNat % n = 0) (hb : a.toNat < 0x80000) (h : inCarve s (clusterOf t) a.toNat n none = true) :
    readDesc s t th a n f = raiseTrap s t ⟨3, memDetail .i false 2, a.toNat⟩ := by
  simp [readDesc, place, spaceSize, ha, Nat.not_le.2 hb, h, stopAt, boundsTrap]

/-- A descriptor that lies in the scratchpad and in no carve-out. -/
theorem readDesc_placed (ha : a.toNat % n = 0) (hb : a.toNat < 0x80000) (hc : inCarve s (clusterOf t) a.toNat n none = false) :
    readDesc s t th a n f =
      if postedOn th (scratchpadCell (clusterOf t) a.toNat) n then waitAt s t .retry else
      let r := memRead s (scratchpadCell (clusterOf t) a.toNat) n
      if r.2.reason ≠ 0 then raiseTrap r.1 t ⟨5, memDetail .i false r.2.reason, a.toNat⟩ else f r.1 r.2.bytes := by
  simp [readDesc, place, spaceSize, ha, Nat.not_le.2 hb, hc, localCell, poisonTrap]

theorem readDesc_of_descAt {bs : List Byte} (h : DescAt s t th a n bs) : readDesc s t th a n f = f s bs := by
  obtain ⟨ha, hb, hc, hp, hr⟩ := h
  rw [readDesc_placed ha hb hc, hp]
  simp [memRead_of_reason_zero (congrArg ReadOut.reason hr), hr]

end

/-! ### Which commands go while a context is pre-empted (R140, R319, R320) -/

section
variable {s : State} {k : Cmd} {x : Ctx} {behind : List Cmd}

theorem ctxRuns_eq_decide (h : ctxOf s k.ctx = some x) : ctxRuns s k.ctx = decide (x.phase = .running) := by simp [ctxRuns, h]
theorem ctxStops_eq_decide (h : ctxOf s k.ctx = some x) : ctxStops s k.ctx = decide (x.phase = .stopping) := by simp [ctxStops, h]

end

/-- A context that is being pre-empted does not run. -/
theorem ctxRuns_of_ctxStops {s : State} {x : Nat} (h : ctxStops s x = true) : ctxRuns s x = false := by
  cases hc : ctxOf s x with
  | none => simp [ctxRuns, hc]
  | some c =>
    have : c.phase = .stopping := by simpa [ctxStops, hc] using h
    simp [ctxRuns, hc, this]

/-- Command `c` belongs to matrix stream `n` of its unit. -/
def inMatStream (n : Nat) (c : Cmd) : Bool := decide (cmdMajor c = 0x32 ∧ cmdTarget c % 8 = n)

theorem sameStream_of_inMatStream {n : Nat} {a b : Cmd} (ha : inMatStream n a = true) (hb : inMatStream n b = true) :
    sameStream a b = true := by
  simp_all [inMatStream, sameStream]

/-- While its context is pre-empted a command goes where it is a node's, or where a node's stands behind it in its stream. -/
theorem cmdGoes_of_stops {s : State} {c : Cmd} (h : ctxStops s c.ctx = true) (behind : List Cmd) :
    cmdGoes s behind c = (c.node.isSome || behind.any (fun k => k.node.isSome && sameStream c k)) := by
  simp [cmdGoes, h, ctxRuns_of_ctxStops h]

/-- In a stream of a pre-empted context no command that goes stands behind one that does not. -/
theorem cmdGoes_of_behind {s : State} {n : Nat} {c j : Cmd} {rest after : List Cmd} (hs : ctxStops s c.ctx = true)
    (hx : j.ctx = c.ctx) (hc : inMatStream n c = true) (hj : inMatStream n j = true) (hmem : j :: after <:+ rest)
    (h : cmdGoes s after j = true) : cmdGoes s rest c = true := by
  rw [cmdGoes_of_stops (hx ▸ hs), Bool.or_eq_true, List.any_eq_true] at h
  rw [cmdGoes_of_stops hs, Bool.or_eq_true, List.any_eq_true]
  right
  rcases h with hnode | ⟨k, hk, hgo⟩
  · exact ⟨j, hmem.subset (List.mem_cons_self ..), by simp [hnode, sameStream_of_inMatStream hc hj]⟩
  · obtain ⟨hnode, hsame⟩ := Bool.and_eq_true_iff.1 hgo
    refine ⟨k, hmem.subset (List.mem_cons_of_mem _ hk), ?_⟩
    simp_all [inMatStream, sameStream]

/-- The commands of a queue that go, and the others, told by their places in the whole queue. -/
theorem splitQueue_eq_filter (s : State) {full l : List Cmd} {i : Nat} (h : full.drop i = l) :
    splitQueue s l =
      (((l.zipIdx i).filter (fun p => cmdGoes s (full.drop (p.2 + 1)) p.1)).map (·.1),
       ((l.zipIdx i).filter (fun p => !cmdGoes s (full.drop (p.2 + 1)) p.1)).map (·.1)) := by
  induction l generalizing i with
  | nil => rfl
  | cons c rest ih =>
    have hrest : full.drop (i + 1) = rest := by rw [← List.drop_drop, h, List.drop_one, List.tail_cons]
    rw [splitQueue, ih hrest]
    by_cases hc : cmdGoes s rest c = true <;> simp [hrest, hc]

/-- A stream without a command that goes gives the commands that go none. -/
theorem filter_splitQueue_fst_eq_nil {s : State} {p : Cmd → Bool} {l : List Cmd}
    (h : ∀ j after, j :: after <:+ l → p j = true → cmdGoes s after j = false) : (splitQueue s l).1.filter p = [] := by
  induction l with
  | nil => rfl
  | cons c rest ih =>
    have hrest := ih (fun j after hm => h j after (hm.trans (List.suffix_cons ..)))
    have hc := h c rest (List.suffix_refl _)
    rw [splitQueue]
    split
    · next hgo =>
      have hp : p c = false := by by_contra hp; simp_all
      simp [hp, hrest]
    · exact hrest

/-- The commands that go before the others: the commands of one stream keep their order (R140). -/
theorem filter_splitQueue_inMatStream {s : State} {x : Nat} (hs : ctxStops s x = true) (n : Nat) {l : List Cmd}
    (hx : ∀ j ∈ l, j.ctx = x) :
    (splitQueue s l).1.filter (inMatStream n) ++ (splitQueue s l).2.filter (inMatStream n) = l.filter (inMatStream n) := by
  induction l with
  | nil => rfl
  | cons c rest ih =>
    have hc : c.ctx = x := hx c (List.mem_cons_self ..)
    have hrest := ih (fun j hj => hx j (List.mem_cons_of_mem _ hj))
    rw [splitQueue]
    split
    · simp only [List.filter_cons]
      split <;> simp [hrest]
    · next hgo =>
      by_cases hp : inMatStream n c = true
      · have hnone : (splitQueue s rest).1.filter (inMatStream n) = [] := filter_splitQueue_fst_eq_nil (fun j after hm hj => by
          have hjx : j.ctx = c.ctx := (hx j (List.mem_cons_of_mem _ (hm.subset (List.mem_cons_self ..)))).trans hc.symm
          by_contra hne
          exact hgo (cmdGoes_of_behind (hc ▸ hs) hjx hp hj hm (by simpa using hne)))
        rw [hnone, List.nil_append] at hrest
        simp [hnone, hp, hrest]
      · simp [hp, hrest]

/-- A queue whose unit runs a command, or whose head may go, stays as it is. -/
theorem nodesFirst_of_goes {s : State} {q : UnitQ} {k : Cmd} {rest : List Cmd} (hq : q.queue = k :: rest)
    (h : q.running ≠ none ∨ ctxStops s k.ctx = false ∨ cmdGoes s rest k = true) : nodesFirst s q = q := by
  unfold nodesFirst
  split
  · next c rest' hr hq' =>
    obtain ⟨rfl, rfl⟩ : c = k ∧ rest' = rest := by simpa [hq, eq_comm] using hq'
    rcases h with h | h | h
    · exact absurd hr h
    · simp [h]
    · simp [h]
  · rfl

theorem nodesFirst_of_stops {s : State} {q : UnitQ} {k : Cmd} {rest : List Cmd} (hq : q.queue = k :: rest) (hr : q.running = none)
    (hs : ctxStops s k.ctx = true) (h : cmdGoes s rest k = false) :
    nodesFirst s q = headAged s.now { q with queue := (splitQueue s q.queue).1 ++ (splitQueue s q.queue).2 } := by
  simp [nodesFirst, hq, hr, hs, h]

/-! ### The request and the grant of a reservation (R317, R354, R360, R443) -/

theorem execReservationRequest_of_head {s : State} {c u : Nat} {k : Cmd} {rest : List Cmd}
    (hr : (nodesFirst s (unitAt s c u)).running = none) (hq : (nodesFirst s (unitAt s c u)).queue = k :: rest) :
    execReservationRequest c u s = .next (
      if isMarker k || k.asked.isSome || !cmdGoes s rest k then s
      else if cmdSteps k = 0 then
        setUnit s c u { nodesFirst s (unitAt s c u) with running := some { k with granted := true }, queue := rest }
      else setUnit s c u { nodesFirst s (unitAt s c u) with queue := { k with asked := some s.now } :: rest }) := by
  simp only [execReservationRequest]
  rw [hr, hq]

/-- The conditions of a grant to the command `k` at the head of unit `u`. -/
theorem grantable_iff {s : State} {c u : Nat} {k : Cmd} {rest : List Cmd} (hq : (unitAt s c u).queue = k :: rest) :
    grantable s c u k = true ↔ k.asked ≠ none ∧ cmdGoes s rest k = true ∧
      (∃ x, ctxOf s k.ctx = some x ∧ (x.quotaOn = false ∨ 0 < x.quota)) ∧
      (u ≤ 5 → (∀ d ∈ s.limited, d / 4 ≠ c / 16) ∧ heldBy s c + cmdPower k ≤ (clusterAt s c).share ∧
        ∀ a ∈ waitingAsks s c, a.2 = u ∨ k.headAt.getD 0 < a.1 ∨ (k.headAt.getD 0 = a.1 ∧ u < a.2)) := by
  have hquota : quotaAllows s k.ctx = true ↔ ∃ x, ctxOf s k.ctx = some x ∧ (x.quotaOn = false ∨ 0 < x.quota) := by
    simp [quotaAllows, Option.any_eq_true]
  have hblock : domainBlocked s c = false ↔ ∀ d ∈ s.limited, d / 4 ≠ c / 16 := by simp [domainBlocked]
  unfold grantable
  simp only [hq, List.drop_one, List.tail_cons, Bool.and_eq_true, hquota, Option.isSome_iff_ne_none]
  split
  · next hu => simp [hu, hblock, earlierAsk, and_assoc, and_comm, and_left_comm]
  · next hu => simp [hu, and_comm, and_left_comm]

/-- The command that a grant moves into its unit. -/
def grantedCmd (s : State) (c : Nat) (k : Cmd) : Cmd :=
  let run := { k with granted := true, asked := none, power := cmdPower k }
  if (rowsToGather s c k).isSome then memoPut run chargedKey 1 else run

theorem execReservationGrant_of_grantable {s : State} {c u : Nat} {k : Cmd} {rest : List Cmd} (hr : (unitAt s c u).running = none)
    (hq : (unitAt s c u).queue = k :: rest) (h : grantable s c u k = true) :
    execReservationGrant c u s = .next (debit
      (addCounter (setUnit s c u { unitAt s c u with running := some (grantedCmd s c k), queue := rest }) k.ctx 0x88
        (s.now - k.asked.getD s.now)) k.ctx (cmdCharge k + gatherCharge k ((rowsToGather s c k).getD 0))) := by
  simp only [execReservationGrant]
  rw [hr, hq]
  simp only [h, if_true]
  rfl

theorem execReservationGrant_of_not_grantable {s : State} {c u : Nat} {k : Cmd} {rest : List Cmd}
    (hr : (unitAt s c u).running = none) (hq : (unitAt s c u).queue = k :: rest) (h : grantable s c u k = false) :
    execReservationGrant c u s = .next s := by
  simp only [execReservationGrant]
  rw [hr, hq]
  simp [h]

/-- Settles O16, from the laws above: of a queue under a new command, of a descriptor's read, of the order of a queue in a
pre-empted context, and of the arbiter's request and grant. -/
theorem commandQueuesAndReservations : Obligations.CommandQueuesAndReservations := by
  unfold Obligations.CommandQueuesAndReservations
  refine ⟨⟨?queueing, ?descriptors⟩, ?request, ?goes, ?order, ?grant⟩
  case queueing =>
    intro s cl u c
    refine ⟨rfl, fun _ _ h => unitAt_setUnit_ne h .., fun _ _ => ⟨portAt_setUnit .., handleAt_setUnit ..⟩, ?_, ?_, ?_⟩
    · simp [queued_unit]
    · rw [queued_unit, headAged_map _ (fun _ _ => rfl)]
    · intro hr hq hc
      simp [queued_unit, headAged, hr, hq, hc]
  case descriptors =>
    intro s t th a n f hth hn
    refine ⟨readDesc_misaligned, readDesc_outside, readDesc_inCarve, ?_, ?_, fun _ => readDesc_of_descAt⟩
    · rintro ⟨ha, hb, hc⟩ hp
      rw [readDesc_placed ha hb hc, hp, if_pos rfl, waitAt_of hth]
    · rintro ⟨ha, hb, hc⟩ hp hr
      rw [readDesc_placed ha hb hc, hp]
      simp [hr]
  case request =>
    intro s c u k rest q hr hq
    have hexec : exec (.reservationRequest c u) s = _ := execReservationRequest_of_head hr hq
    refine ⟨?_, ?_, ?_⟩
    · intro hm ha hg hn
      simp [hexec, hm, ha, hg, hn, q]
    · intro hm ha hg hn
      simp [hexec, hm, ha, hg, hn, q]
    · rintro (h | h | h)
      · simp [hexec, h]
      · simp [hexec, Option.isSome_iff_ne_none.2 h]
      · simp [hexec, h]
  case goes =>
    intro s behind k x hx stream
    refine ⟨fun h => ?_, fun h => ?_, fun h h' => ?_⟩
    · simp [cmdGoes, ctxRuns_eq_decide hx, h]
    · rw [cmdGoes_of_stops (by simp [ctxStops_eq_decide hx, h])]
      simp [Option.isSome_iff_ne_none, sameStream, stream]
    · simp [cmdGoes, ctxRuns_eq_decide hx, ctxStops_eq_decide hx, h, h']
  case order =>
    intro s c u k rest q q' go hq
    refine ⟨nodesFirst_of_goes hq, fun hr hs hg => ?_⟩
    have hq' : q' = _ := nodesFirst_of_stops hq hr hs hg
    refine ⟨by simp [hq', hr], ?_, fun hx n => ?_⟩
    · rw [hq', headAged_map _ (fun _ _ => rfl), splitQueue_eq_filter s (List.drop_zero (l := q.queue))]
      simp [go, Function.comp_def]
    · have hall : ∀ j ∈ q.queue, j.ctx = k.ctx := by
        rw [hq]
        exact List.forall_mem_cons.2 ⟨rfl, hx⟩
      change (q'.queue.filter (inMatStream n)).map Cmd.word = _
      rw [hq', headAged_filter_map _ (fun _ _ => rfl) _ (fun _ _ => rfl), List.filter_append]
      exact congrArg (List.map Cmd.word) (filter_splitQueue_inMatStream hs n hall)
  case grant =>
    intro s c u k rest hr hq q allowed
    have hiff : grantable s c u k = true ↔ allowed := grantable_iff hq
    constructor
    · intro ha at_ hat run counted
      have hexec : exec (.reservationGrant c u) s = _ := execReservationGrant_of_grantable hr hq (hiff.2 ha)
      refine ⟨fun hrows => ?_, fun n hrows => ⟨memoPut run chargedKey 1, rfl, ?_⟩⟩
      · simp [hexec, hrows, grantedCmd, hat, gatherCharge, lines, counted, run, q]
      · simp [hexec, hrows, grantedCmd, hat, gatherCharge, lines, counted, run, q]
    · intro ha
      exact execReservationGrant_of_not_grantable hr hq (Bool.eq_false_iff.2 fun hg => ha (hiff.1 hg))

end Sys2Proof.Machine

/-! PROOFS. An issue slot whose thread ends by a trap, where the table of threads lists its number twice (O57).

`tblDel` takes one entry off a table. Where a number is listed twice, the end of the first thread of that number uncovers the second, and a
second that is stalled at a full queue makes the issue slot take the turn for one that has issued nothing (R25). In a table of rising numbers no
number is listed twice; the statement does not ask for one. -/

namespace Sys2Proof.Machine

/-- A machine with `exit` at the pc of thread 0, which cluster 0 is to issue. -/
def exitBed : State := State.reset.withFetchWord 32 0xFC000012
def exitThread : Thread := (exitBed.threads.head (by decide +kernel)).2

/-- The thread has an asynchronous trap pending, and no handler for it. -/
def trappedThread : Thread := { exitThread with asyncs := [⟨0x10, 5⟩] }
/-- The thread is stalled: it has as many open formations as it may have. -/
def stalledThread : Thread := { exitThread with wait := .full .armed, openForms := List.range 8 }

/-- Thread 0 is listed twice, the trapped one first. -/
def twinBed : State := { exitBed with threads := [(0, trappedThread), (0, stalledThread)] }
/-- The same as its issue slot finds it. -/
def twinSlot : State := passTime { twinBed with agenda := [] } 0

/-- The slot of cluster 0 that is noted as the last to have issued, once a turn is over. -/
def lastSlotAfter (o : Out) : Option Nat :=
  match o with
  | .next s => some (clusterAt s 0).lastSlot
  | _ => none

/-- The step hands the slot back, as for a thread that has issued nothing. -/
theorem lastSlotAfter_step_twinBed : lastSlotAfter (step twinBed) = some 15 := by decide +kernel

/-- The trap, once entered, leaves slot 0 noted. -/
theorem lastSlotAfter_enterAsync_twinSlot :
    lastSlotAfter (settleOut (.next (enterAsync (modCluster twinSlot 0 (fun k => { k with lastSlot := 0 })) 0))) = some 0 := by
  decide +kernel

/-- Refutes O57, by its clause that an issue slot which finds an asynchronous trap pending ends with the trap entered: in `twinBed` the trap
ends thread 0, the other entry of that number is stalled at a full queue, and the slot is handed back. -/
theorem not_stepRunsDecodedInstruction : ¬ Obligations.StepRunsDecodedInstruction := by
  unfold Obligations.StepRunsDecodedInstruction
  rintro ⟨hissue, -⟩
  obtain ⟨-, hready⟩ := hissue twinBed 0 0 [] (by decide +kernel)
  obtain ⟨hasync, -⟩ := hready 0 trappedThread (by decide) (fun _ h => absurd h (Nat.not_lt_zero _)) (by decide +kernel)
    (by decide +kernel)
  have hstep : lastSlotAfter (step twinBed) = some 0 :=
    (congrArg lastSlotAfter (hasync (by decide +kernel) (by decide +kernel))).trans lastSlotAfter_enterAsync_twinSlot
  rw [lastSlotAfter_step_twinBed] at hstep
  exact absurd hstep (by decide)

end Sys2Proof.Machine

/-! PROOFS. What the operations that stand under an instruction's completion touch: the memory alone, or the memory and the accounts of a context
(R345, R360, R367, R382). Such an operation leaves the rest of the machine as it is, and does not look at it. -/

namespace Sys2Proof.Machine

/-! ### Operations on memory -/

/-- The memory of `s` in the machine `r`. -/
def memoryIn (s r : State) : State :=
  { r with cells := s.cells, full := s.full, marks := s.marks, errs := s.errs, free := s.free }

theorem detectUnit_memoryIn (s r : State) (u : Nat) : detectUnit (memoryIn s r) u = memoryIn (detectUnit s u) r := by
  unfold detectUnit
  by_cases h : setHas u s.errs = true
  · rw [if_pos h, if_pos (show setHas u (memoryIn s r).errs = true from h)]; rfl
  · rw [if_neg h, if_neg (show ¬setHas u (memoryIn s r).errs = true from h)]

theorem foldl_memoryIn {α : Type} {g : State → α → State} (hg : ∀ s r a, g (memoryIn s r) a = memoryIn (g s a) r) (l : List α) (s r : State) :
    l.foldl g (memoryIn s r) = memoryIn (l.foldl g s) r :=
  List.foldl_hom (fun s => memoryIn s r) (fun s a => hg s r a)

theorem settleErr_memoryIn (c n : Nat) (s r : State) (u : Nat) : settleErr c n (memoryIn s r) u = memoryIn (settleErr c n s u) r := by
  unfold settleErr
  split
  · rfl
  · exact detectUnit_memoryIn s r u

theorem memRead_memoryIn (s r : State) (c n : Nat) :
    memRead (memoryIn s r) c n = (memoryIn (memRead s c n).1 r, (memRead s c n).2) := by
  have hfold := foldl_memoryIn detectUnit_memoryIn (unitsOf (errSize c) c n) s r
  by_cases h : anyIn (unitsOf (errSize c) c n) s.errs = true
  · have h' : anyIn (unitsOf (errSize c) c n) (memoryIn s r).errs = true := h
    simp only [memRead, h, h', if_true, hfold]
    rfl
  · have h' : ¬anyIn (unitsOf (errSize c) c n) (memoryIn s r).errs = true := h
    simp only [memRead, h, h']
    rfl

theorem memStore_memoryIn (s r : State) (c : Nat) (bs : List Byte) (p : Bool) :
    memStore (memoryIn s r) c bs p = memoryIn (memStore s c bs p) r := by
  simp only [memStore, foldl_memoryIn (settleErr_memoryIn c bs.length)]
  rfl

theorem memWrite_memoryIn (s r : State) (c : Nat) (bs : List Byte) (p : Bool) :
    memWrite (memoryIn s r) c bs p = memoryIn (memWrite s c bs p) r := by
  simp only [memWrite, memStore_memoryIn]
  split <;> rfl

theorem hbmReadLoop_memoryIn (s r : State) (k : Masks) (pa f n : Nat) (acc : List Byte) (why : Nat) :
    (hbmReadLoop (memoryIn s r) k pa f n acc why).2 = (hbmReadLoop s k pa f n acc why).2 := by
  induction f generalizing s pa n acc why with
  | zero => rfl
  | succ f ih =>
    unfold hbmReadLoop
    split
    · rfl
    · simp only [memRead_memoryIn, ih]

theorem hbmRead_memoryIn (s r : State) (k : Masks) (pa n : Nat) : (hbmRead (memoryIn s r) k pa n).2 = (hbmRead s k pa n).2 :=
  hbmReadLoop_memoryIn ..

theorem hbmWriteLoop_memoryIn (s r : State) (k : Masks) (pa : Nat) (bs : List Byte) (p : Bool) (f : Nat) :
    hbmWriteLoop (memoryIn s r) k pa bs p f = memoryIn (hbmWriteLoop s k pa bs p f) r := by
  induction f generalizing s pa bs with
  | zero => rfl
  | succ f ih =>
    unfold hbmWriteLoop
    split
    · rfl
    · simp only [memWrite_memoryIn, ih]

theorem hbmWrite_memoryIn (s r : State) (k : Masks) (pa : Nat) (bs : List Byte) (p : Bool) :
    hbmWrite (memoryIn s r) k pa bs p = memoryIn (hbmWrite s k pa bs p) r := hbmWriteLoop_memoryIn ..

/-- A write to HBM changes the memory alone. -/
theorem hbmWrite_eq_memoryIn (s : State) (k : Masks) (pa : Nat) (bs : List Byte) (p : Bool) :
    hbmWrite s k pa bs p = memoryIn (hbmWrite s k pa bs p) s := hbmWrite_memoryIn s s k pa bs p

/-- So does a record, and so does an event. -/
theorem signalEvent_eq_memoryIn (s : State) (x e status : Nat) : signalEvent s x e status = memoryIn (signalEvent s x e status) s := by
  unfold signalEvent
  split
  · rfl
  · split
    · rfl
    · rw [hbmWrite_eq_memoryIn, hbmWrite_eq_memoryIn s]
      rfl

@[simp] theorem signalEvent_launches (s : State) (x e status : Nat) : (signalEvent s x e status).launches = s.launches := by
  rw [signalEvent_eq_memoryIn]; rfl

/-! ### Operations on the accounts of a context -/

/-- The memory of `s`, its contexts and what pre-empting one changes, with what such an operation looks at besides, in the machine `r`. -/
def accountsIn (s r : State) : State :=
  { r with
    cells := s.cells, full := s.full, marks := s.marks, errs := s.errs, free := s.free
    now := s.now, parts := s.parts, ctxs := s.ctxs, clusters := s.clusters, launches := s.launches, forms := s.forms
    halts := s.halts, breaks := s.breaks }

theorem hbmWrite_accountsIn (s r : State) (k : Masks) (pa : Nat) (bs : List Byte) (p : Bool) :
    hbmWrite (accountsIn s r) k pa bs p = accountsIn (hbmWrite s k pa bs p) r := by
  rw [hbmWrite_eq_memoryIn s]
  exact hbmWrite_memoryIn s (accountsIn s r) k pa bs p

theorem hbmRead_accountsIn (s r : State) (k : Masks) (pa n : Nat) : (hbmRead (accountsIn s r) k pa n).2 = (hbmRead s k pa n).2 :=
  hbmRead_memoryIn s (accountsIn s r) k pa n

theorem ctxOf_accountsIn (s r : State) (x : Nat) : ctxOf (accountsIn s r) x = ctxOf s x := rfl

theorem signalEvent_accountsIn (s r : State) (x e status : Nat) :
    signalEvent (accountsIn s r) x e status = accountsIn (signalEvent s x e status) r := by
  unfold signalEvent
  rw [ctxOf_accountsIn]
  split
  · rfl
  · split
    · rfl
    · simp only [hbmRead_accountsIn, hbmWrite_accountsIn]

theorem writeRecord_accountsIn (s r : State) (x : Nat) (rec : Record) :
    writeRecord (accountsIn s r) x rec = accountsIn (writeRecord s x rec) r := by
  unfold writeRecord
  rw [ctxOf_accountsIn]
  split
  · rfl
  · simp only [hbmRead_accountsIn, hbmWrite_accountsIn]
    rfl

theorem signalNotice_accountsIn (s r : State) (x : Nat) : signalNotice (accountsIn s r) x = accountsIn (signalNotice s x) r := by
  unfold signalNotice
  rw [ctxOf_accountsIn]
  split
  · split
    · rfl
    · exact signalEvent_accountsIn ..
  · rfl

theorem modCtx_accountsIn (s r : State) (x : Nat) (f : Ctx → Ctx) : modCtx (accountsIn s r) x f = accountsIn (modCtx s x f) r := rfl

theorem addCounter_accountsIn (s r : State) (x off n : Nat) : addCounter (accountsIn s r) x off n = accountsIn (addCounter s x off n) r := rfl

/-- What is passed over is offered again; where nothing is, nothing changes. -/
theorem offerPlaces_eq (s : State) : offerPlaces s = { s with forms := tblMap (fun _ f => { f with passed := false }) s.forms } := by
  unfold offerPlaces
  split
  · rfl
  · next h =>
    have hnone : ∀ p ∈ s.forms, p.2.passed = false := by simpa using h
    have hid : tblMap (fun _ f => { f with passed := false }) s.forms = s.forms :=
      (List.map_congr_left (fun p hp => by rw [← hnone p hp]; rfl)).trans (List.map_id _)
    rw [hid]

theorem haltsInForce_accountsIn (s r : State) (x : Nat) : haltsInForce (accountsIn s r) x = haltsInForce s x := rfl

theorem beginPreempt_accountsIn (s r : State) (x : Nat) : beginPreempt (accountsIn s r) x = accountsIn (beginPreempt s x) r := by
  simp only [beginPreempt, offerPlaces_eq]
  rfl

theorem debit_accountsIn (s r : State) (x pj : Nat) : debit (accountsIn s r) x pj = accountsIn (debit s x pj) r := by
  unfold debit
  rw [ctxOf_accountsIn]
  split
  · rfl
  · split
    · rfl
    · simp only [modCtx_accountsIn, writeRecord_accountsIn, signalNotice_accountsIn, beginPreempt_accountsIn, haltsInForce_accountsIn]
      split
      · rfl
      · split <;> rfl

theorem countInstr_accountsIn (s r : State) (x : Nat) : countInstr (accountsIn s r) x = accountsIn (countInstr s x) r := by
  unfold countInstr
  rw [ctxOf_accountsIn]
  split
  · rfl
  · simp only [modCtx_accountsIn, debit_accountsIn]
    split <;> rfl

theorem countInstr_eq_accountsIn (s : State) (x : Nat) : countInstr s x = accountsIn (countInstr s x) s := countInstr_accountsIn s s x

@[simp] theorem countInstr_threads (s : State) (x : Nat) : (countInstr s x).threads = s.threads := by
  rw [countInstr_eq_accountsIn]; rfl
@[simp] theorem countInstr_sets (s : State) (x : Nat) : (countInstr s x).sets = s.sets := by
  rw [countInstr_eq_accountsIn]; rfl

/-- The instruction counts of a context do not look at the threads. -/
theorem countInstr_withThreads (s : State) (ts : Tbl Thread) (x : Nat) :
    countInstr { s with threads := ts } x = { countInstr s x with threads := ts } := by
  rw [countInstr_eq_accountsIn s]
  exact countInstr_accountsIn s { s with threads := ts } x

/-! ### A completed instruction -/

@[simp] theorem completedAt_threads (s : State) (t : Nat) (th : Thread) (pc : Word) :
    (completedAt s t th pc).threads = tblSet t { th with pc := pc, wait := .none, icnt := th.icnt + 1 } s.threads := by
  simp [completedAt]

/-- A thread that is changed after its instruction has completed. -/
theorem modThread_completedAt (s : State) (t : Nat) (th : Thread) (pc : Word) (f : Thread → Thread) :
    modThread (completedAt s t th pc) t f =
      { completedAt s t th pc with threads := tblSet t (f { th with pc := pc, wait := .none, icnt := th.icnt + 1 }) s.threads } := by
  rw [modThread_of (th := { th with pc := pc, wait := .none, icnt := th.icnt + 1 }) (by simp)]
  simp

/-- The same completion of another thread state of the same context. -/
theorem completedAt_withThread (s : State) (t : Nat) (th u : Thread) (pc : Word) (hctx : u.ctx = th.ctx) :
    { completedAt s t th pc with threads := tblSet t { u with pc := pc, wait := .none, icnt := u.icnt + 1 } s.threads } =
      completedAt s t u pc := by
  simp only [completedAt, countInstr_withThreads, hctx]

end Sys2Proof.Machine

/-! PROOFS. The fields of a graph's words (R165, R395). -/

namespace Sys2Proof.Machine

theorem wordBits_eq_extract (w : BitVec 32) (lo n : Nat) : wordBits w lo n = (w.extractLsb' lo n).toNat := by
  rw [wordBits, BitVec.extractLsb'_toNat, Nat.shiftRight_eq_div_pow]

end Sys2Proof.Machine

/-! PROOFS. What the measuring and counting of a firing (R342, R360, R399) leaves of the machine: the memory, the accounts of the context and the
formations change, of a formation that is not in placing neither the nodes nor their accesses. -/

namespace Sys2Proof.Machine

theorem listMod_eq_modify {α : Type} (k : Nat) (f : α → α) (l : List α) : listMod k f l = l.modify k f := by
  induction l generalizing k with
  | nil => cases k <;> rfl
  | cons x l ih => cases k with
    | zero => rfl
    | succ k => exact congrArg (x :: ·) (ih k)

theorem tblGet_tblMap {α : Type} (k : Nat) (f : Nat → α → α) (t : Tbl α) : tblGet k (tblMap f t) = (tblGet k t).map (f k) := by
  induction t with
  | nil => rfl
  | cons p t ih =>
    obtain ⟨j, v⟩ := p
    rw [show tblMap f ((j, v) :: t) = (j, f j v) :: tblMap f t from rfl, tblGet, tblGet]
    split
    · next h => subst h; rfl
    · split
      · rfl
      · exact ih

/-! ### Accounts -/

theorem writeTrace_accountsIn (s r : State) (x : Nat) (rec : TraceRec) :
    writeTrace (accountsIn s r) x rec = accountsIn (writeTrace s x rec) r := by
  unfold writeTrace
  rw [ctxOf_accountsIn]
  split
  · rfl
  · next c hc =>
    rw [show classLevel (accountsIn s r) x (traceClass rec.kind) = classLevel s x (traceClass rec.kind) from rfl]
    split
    · simp only [hbmRead_accountsIn]
      split
      · rw [modCtx_accountsIn, hbmWrite_accountsIn]
      · rw [show policyGran (accountsIn s r) x = policyGran s x from rfl, show (accountsIn s r).now = s.now from rfl, hbmWrite_accountsIn,
          modCtx_accountsIn, hbmWrite_accountsIn]
    · rfl

theorem countElement_accountsIn (s r : State) (x : Nat) : countElement (accountsIn s r) x = accountsIn (countElement s x) r := by
  unfold countElement
  rw [ctxOf_accountsIn]
  split
  · rfl
  · split
    · rfl
    · simp only [modCtx_accountsIn, debit_accountsIn]
      split <;> rfl

/-- The part of a firing's measuring that follows the count of the firing at its node. -/
def excessNoted (s : State) (x ii excess cause : Nat) (rec : TraceRec) : State :=
  if ii = 0 ∨ excess = 0 then s else
  let s := addCounter s x (0x10 + 8 * cause) excess
  match (ctxOf s x).bind (·.ring) with
  | some g => if g.enable % 2 = 1 ∧ g.thresh ≠ 0xFFFFFFFF ∧ g.thresh ≤ excess then writeTrace s x rec else s
  | none => s

theorem excessNoted_accountsIn (s r : State) (x ii excess cause : Nat) (rec : TraceRec) :
    excessNoted (accountsIn s r) x ii excess cause rec = accountsIn (excessNoted s x ii excess cause rec) r := by
  unfold excessNoted
  split
  · rfl
  · simp only [addCounter_accountsIn, ctxOf_accountsIn, writeTrace_accountsIn]
    split
    · split <;> rfl
    · rfl

/-- One more firing of a node. -/
def firedOnce (s : State) (f n : Nat) : State :=
  modForm s f (fun fm => { modNode fm n (fun nd => { nd with fires := nd.fires + 1, lastFire := some s.tenths }) with moves := fm.moves + 1 })

theorem noteFiring_of {s : State} {f n : Nat} {fm : Form} {nd : Node} (hf : formAt s f = some fm) (hn : fm.nodes[n]? = some nd)
    (ins : List (Nat × Flit)) (outs : List Nat) : ∃ ii excess cause rec, noteFiring s f n ins outs =
      excessNoted (if nd.cls ≤ 1 then countElement (firedOnce s f n) fm.ctx else firedOnce s f n) fm.ctx ii excess cause rec := by
  simp only [noteFiring, hf, hn]
  exact ⟨_, _, _, _, rfl⟩

theorem noteFiring_eq_accountsIn (s : State) (f n : Nat) (ins : List (Nat × Flit)) (outs : List Nat) :
    noteFiring s f n ins outs = accountsIn (noteFiring s f n ins outs) s := by
  cases hf : formAt s f with
  | none => simp only [noteFiring, hf]; rfl
  | some fm =>
    cases hn : fm.nodes[n]? with
    | none => simp only [noteFiring, hf, hn]; rfl
    | some nd =>
      obtain ⟨ii, excess, cause, rec, h⟩ := noteFiring_of hf hn ins outs
      rw [h]
      have hcount : (if nd.cls ≤ 1 then countElement (firedOnce s f n) fm.ctx else firedOnce s f n) =
          accountsIn (if nd.cls ≤ 1 then countElement (firedOnce s f n) fm.ctx else firedOnce s f n) s := by
        split
        · exact countElement_accountsIn (firedOnce s f n) s fm.ctx
        · rfl
      conv_lhs => rw [hcount]
      exact excessNoted_accountsIn _ s _ _ _ _ _

@[simp] theorem noteFiring_tenths (s : State) (f n : Nat) (ins : List (Nat × Flit)) (outs : List Nat) :
    (noteFiring s f n ins outs).tenths = s.tenths := by
  rw [noteFiring_eq_accountsIn]; rfl

/-! ### The nodes of a formation that is not in placing -/

/-- The nodes of formation `f`, unless it is in placing, are as they were. -/
def KeepsNodes (f : Nat) (s s' : State) : Prop :=
  ∀ fm, formAt s f = some fm → fm.phase ≠ .placing → ∃ fm', formAt s' f = some fm' ∧ fm'.nodes = fm.nodes

theorem notPlacing_of_able {fm : Form} {nd : Node} {cls : Nat} (ha : able fm nd cls = true) : fm.phase ≠ .placing := by
  intro hp
  simp [able, formLive, lingers, hp] at ha

theorem KeepsNodes.of_forms {f : Nat} {s s' : State} (h : s'.forms = s.forms) : KeepsNodes f s s' :=
  fun fm hf _ => ⟨fm, by rw [formAt, h]; exact hf, rfl⟩

theorem KeepsNodes.after {f : Nat} {s s1 s' : State} (h : s1.forms = s.forms) (hk : KeepsNodes f s1 s') : KeepsNodes f s s' :=
  fun fm hf hp => hk fm (by rw [formAt, h]; exact hf) hp

theorem preemptForm_nodes {fm : Form} (h : fm.phase ≠ .placing) (now x : Nat) : (preemptForm now x fm).nodes = fm.nodes := by
  unfold preemptForm withdrawForm
  split
  · rfl
  · simp [h]

theorem beginPreempt_keepsNodes (s : State) (f x : Nat) : KeepsNodes f s (beginPreempt s x) := by
  intro fm hf hp
  refine ⟨{ preemptForm s.now x fm with passed := false }, ?_, preemptForm_nodes hp ..⟩
  have hpre : tblGet f (tblMap (fun _ g => preemptForm s.now x g) s.forms) = some (preemptForm s.now x fm) := by
    rw [tblGet_tblMap, show tblGet f s.forms = some fm from hf]
    rfl
  simp only [beginPreempt, offerPlaces_eq, formAt]
  exact (tblGet_tblMap ..).trans (congrArg (Option.map _) hpre)

@[simp] theorem hbmWrite_forms (s : State) (k : Masks) (pa : Nat) (bs : List Byte) (p : Bool) : (hbmWrite s k pa bs p).forms = s.forms := by
  rw [hbmWrite_eq_memoryIn]; rfl
@[simp] theorem signalEvent_forms (s : State) (x e status : Nat) : (signalEvent s x e status).forms = s.forms := by
  rw [signalEvent_eq_memoryIn]; rfl
@[simp] theorem signalNotice_forms (s : State) (x : Nat) : (signalNotice s x).forms = s.forms := by
  unfold signalNotice
  split
  · split <;> simp
  · rfl
@[simp] theorem writeRecord_forms (s : State) (x : Nat) (rec : Record) : (writeRecord s x rec).forms = s.forms := by
  unfold writeRecord
  split <;> simp

theorem debit_keepsNodes (s : State) (f x pj : Nat) : KeepsNodes f s (debit s x pj) := by
  unfold debit
  split
  · exact .of_forms rfl
  · split
    · exact .of_forms rfl
    · next c hc hon =>
      dsimp only
      split
      · exact .of_forms rfl
      · have hforms (q : Int) (rec : Record) : (signalNotice (writeRecord (modCtx s x (fun c => { c with quota := q })) x rec) x).forms = s.forms := by
          simp [modCtx]
        split
        · exact .of_forms (hforms ..)
        · exact .after (hforms ..) (beginPreempt_keepsNodes _ f x)

theorem countElement_keepsNodes (s : State) (f x : Nat) : KeepsNodes f s (countElement s x) := by
  unfold countElement
  split
  · exact .of_forms rfl
  · split
    · exact .of_forms rfl
    · dsimp only
      split
      · exact .after (s1 := modCtx s x (fun c => { c with firings := c.firings + 1 })) rfl (debit_keepsNodes _ f x 512)
      · exact .of_forms rfl

@[simp] theorem writeTrace_forms (s : State) (x : Nat) (rec : TraceRec) : (writeTrace s x rec).forms = s.forms := by
  unfold writeTrace
  split
  · rfl
  · split
    · dsimp only
      split <;> simp [modCtx]
    · rfl

@[simp] theorem excessNoted_forms (s : State) (x ii excess cause : Nat) (rec : TraceRec) : (excessNoted s x ii excess cause rec).forms = s.forms := by
  unfold excessNoted
  split
  · rfl
  · dsimp only
    split
    · split <;> simp [addCounter, modCtx]
    · rfl

/-- A firing keeps the formation, and its nodes but for the count of firings. -/
theorem noteFiring_keepsNodes {s : State} {f n : Nat} {fm : Form} {nd : Node} (hf : formAt s f = some fm) (hn : fm.nodes[n]? = some nd)
    (hp : fm.phase ≠ .placing) (ins : List (Nat × Flit)) (outs : List Nat) : ∃ fm', formAt (noteFiring s f n ins outs) f = some fm' ∧
      fm'.nodes = listMod n (fun nd => { nd with fires := nd.fires + 1, lastFire := some s.tenths }) fm.nodes := by
  obtain ⟨ii, excess, cause, rec, h⟩ := noteFiring_of hf hn ins outs
  have hfired : formAt (firedOnce s f n) f = some { modNode fm n (fun nd => { nd with fires := nd.fires + 1, lastFire := some s.tenths }) with
      moves := fm.moves + 1 } := by
    rw [formAt, firedOnce, modForm_forms, tblGet_tblMod, show tblGet f s.forms = some fm from hf]
    rfl
  rw [h, formAt, excessNoted_forms]
  split
  · exact countElement_keepsNodes _ f fm.ctx _ hfired hp
  · exact ⟨_, hfired, rfl⟩

/-! ### Changes of a formation that agree on the one that stands -/

theorem modForm_congr {s : State} {f : Nat} {fm : Form} (hf : formAt s f = some fm) {g h : Form → Form} (hgh : g fm = h fm) :
    modForm s f g = modForm s f h := by
  have hget : tblGet f s.forms = some fm := hf
  rw [modForm, modForm, tblMod_of hget, tblMod_of hget, hgh]

theorem listMod_congr {α : Type} {k : Nat} {f g : α → α} {l : List α} (h : ∀ x, l[k]? = some x → f x = g x) : listMod k f l = listMod k g l := by
  induction l generalizing k with
  | nil => cases k <;> rfl
  | cons x l ih => cases k with
    | zero => exact congrArg (· :: l) (h x rfl)
    | succ k => exact congrArg (x :: ·) (ih h)

theorem modNode_congr {fm : Form} {n : Nat} {g h : Node → Node} (hgh : ∀ nd, fm.nodes[n]? = some nd → g nd = h nd) : modNode fm n g = modNode fm n h := by
  rw [modNode, modNode, listMod_congr hgh]

/-- What the next access of node `n` is marked with: its number and the node's word. -/
def nextMark (fm : Form) (n : Nat) : Option (Nat × BitVec 32) := (fm.nodes[n]?).map (fun nd => (nd.began, nd.word))

theorem nextMark_modNode {fm : Form} {m n : Nat} {g : Node → Node} (hg : ∀ nd, (g nd).began = nd.began ∧ (g nd).word = nd.word) :
    nextMark (modNode fm m g) n = nextMark fm n := by
  rw [nextMark, nextMark, modNode, listMod_eq_modify, List.getElem?_modify]
  cases fm.nodes[n]? with
  | none => rfl
  | some nd =>
    by_cases h : m = n
    · simp [h, hg]
    · simp [h]

theorem nextMark_takeFrom (fm : Form) (m p src n : Nat) : nextMark (takeFrom fm m p src) n = nextMark fm n := by
  unfold takeFrom
  split
  · exact nextMark_modNode fun _ => ⟨rfl, rfl⟩
  · split <;> rfl

theorem nextMark_noteFiring {s : State} {f n : Nat} {fm : Form} {nd : Node} (hf : formAt s f = some fm) (hn : fm.nodes[n]? = some nd)
    (hp : fm.phase ≠ .placing) (ins : List (Nat × Flit)) (outs : List Nat) :
    ∃ fm', formAt (noteFiring s f n ins outs) f = some fm' ∧ nextMark fm' n = some (nd.began, nd.word) := by
  obtain ⟨fm', hf', hnodes⟩ := noteFiring_keepsNodes hf hn hp ins outs
  refine ⟨fm', hf', ?_⟩
  have hbegun : nextMark fm' n = nextMark (modNode fm n (fun nd => { nd with fires := nd.fires + 1, lastFire := some s.tenths })) n := by
    rw [nextMark, hnodes]
    rfl
  refine hbegun.trans ((nextMark_modNode ?_).trans ?_)
  · exact fun _ => ⟨rfl, rfl⟩
  · rw [nextMark, hn]
    rfl

end Sys2Proof.Machine

/-! PROOFS. The movement of a fabric port's bindings (R216, R247) and the tokens of a formation: neither looks at the other. -/

namespace Sys2Proof.Machine

/-! ### A table with the value at one of its keys replaced -/

section
variable {α : Type} {k j : Nat} {v w : α} {t : Tbl α}

/-- Two keys, the second of which the table has. -/
theorem tblSet_comm (h : tblGet j t = some v) (hne : k ≠ j) (u : α) : tblSet k u (tblSet j w t) = tblSet j w (tblSet k u t) := by
  induction t with
  | nil => simp [tblGet] at h
  | cons p t ih =>
    obtain ⟨i, x⟩ := p
    rw [tblGet] at h
    by_cases hi : i = j
    · subst hi
      rcases Nat.lt_or_gt_of_ne hne with hlt | hgt
      · simp [tblSet, hlt, hne, hne.symm, Nat.lt_asymm hlt]
      · simp [tblSet, hne.symm, Nat.lt_asymm hgt]
    · rw [if_neg hi] at h
      have hj : ¬j < i := fun hj => by simp [hj] at h
      rw [if_neg hj] at h
      by_cases hk : i = k
      · simp [tblSet, hk, hk ▸ hi, hk ▸ hj]
      · by_cases hki : k < i
        · have hkj : ¬j < k := by omega
          simp [tblSet, hi, hj, hk, hki, hne, hkj]
        · simp [tblSet, hi, hj, hk, hki, ih h]

theorem length_tblSet_of_get (h : tblGet j t = some v) : (tblSet j w t).length = t.length := by
  induction t with
  | nil => simp [tblGet] at h
  | cons p t ih =>
    obtain ⟨i, x⟩ := p
    rw [tblGet] at h
    rw [tblSet]
    split
    · rfl
    · next hi =>
      rw [if_neg hi] at h
      split
      · next hj => simp [hj] at h
      · next hj => rw [if_neg hj] at h; simp [ih h]

theorem tblFree_tblSet_of_get (h : tblGet j t = some v) (lo hi : Nat) : tblFree lo hi (tblSet j w t) = tblFree lo hi t := by
  induction t generalizing lo with
  | nil => simp [tblGet] at h
  | cons p t ih =>
    obtain ⟨i, x⟩ := p
    rw [tblGet] at h
    rw [tblSet]
    split
    · next hi => simp only [tblFree, hi]
    · next hi =>
      rw [if_neg hi] at h
      split
      · next hj => simp [hj] at h
      · next hj => rw [if_neg hj] at h; simp only [tblFree, ih h]

theorem any_tblSet_of_get (h : tblGet j t = some v) {P : Nat × α → Bool} (hP : P (j, w) = P (j, v)) : (tblSet j w t).any P = t.any P := by
  induction t with
  | nil => simp [tblGet] at h
  | cons p t ih =>
    obtain ⟨i, x⟩ := p
    rw [tblGet] at h
    rw [tblSet]
    split
    · next hi =>
      rw [if_pos hi] at h
      obtain rfl : x = v := Option.some.inj h
      subst hi
      simp [hP]
    · next hi =>
      rw [if_neg hi] at h
      split
      · next hj => simp [hj] at h
      · next hj => rw [if_neg hj] at h; simp [ih h]

/-- A free key is not in the table, or the search for it has ended at its bound. -/
theorem tblGet_tblFree {lo hi : Nat} (h : tblFree lo hi t = some k) : lo ≤ k ∧ tblGet k t = none := by
  induction t generalizing lo with
  | nil =>
    rw [tblFree] at h
    split at h
    · exact ⟨(Option.some.inj h).le, rfl⟩
    · simp at h
  | cons p t ih =>
    obtain ⟨i, x⟩ := p
    rw [tblFree] at h
    split at h
    · next hlt =>
      split at h
      · obtain rfl := Option.some.inj h
        exact ⟨Nat.le_refl _, by simp [tblGet, hlt, Nat.ne_of_gt hlt]⟩
      · simp at h
    · next hle =>
      obtain ⟨hk, hget⟩ := ih h
      have hik : i < k := by
        split at hk <;> omega
      refine ⟨by split at hk <;> omega, ?_⟩
      rw [tblGet, if_neg (by omega), if_neg (by omega), hget]

theorem tblFree_isSome {lo hi : Nat} (h : lo + t.length < hi) : (tblFree lo hi t).isSome = true := by
  induction t generalizing lo with
  | nil => simp only [tblFree]; rw [if_pos (by simpa using h)]; rfl
  | cons p t ih =>
    obtain ⟨i, x⟩ := p
    rw [List.length_cons] at h
    rw [tblFree]
    split
    · rw [if_pos (by omega)]; rfl
    · exact ih (by split <;> omega)

/-- The key of a new entry is none of the table's. -/
theorem ne_of_tblFree (h : tblGet j t = some v) : (tblFree 0 (t.length + 1) t).getD 0 ≠ j := by
  obtain ⟨k, hk⟩ := Option.isSome_iff_exists.1 (tblFree_isSome (t := t) (lo := 0) (hi := t.length + 1) (by omega))
  have hnone := (tblGet_tblFree hk).2
  rw [hk]
  rintro rfl
  simp [hnone] at h

end

/-! ### Operations that stand aside from the tokens of a formation -/

/-- A change of a formation's tokens: what the queue of ready items and a port look at is as it was. -/
def MovesTokens (e : Form → Form) : Prop :=
  ∀ fm, (e fm).arm = fm.arm ∧ (e fm).launch = fm.launch ∧ (e fm).task = fm.task ∧ (e fm).nodes = fm.nodes

theorem emitOn_movesTokens (now n p : Nat) (t : Tok) : MovesTokens (fun fm => emitOn now fm n p t) := by
  intro fm
  dsimp only
  unfold emitOn
  split <;> exact ⟨rfl, rfl, rfl, rfl⟩

/-- Operation `g` keeps the formation `fm` that stands at `f`, whose tokens may as well move before it as after it, and takes no time. -/
structure Aside (f : Nat) (fm : Form) (g : State → State) : Prop where
  tenths : ∀ s, (g s).tenths = s.tenths
  keeps : ∀ s, formAt s f = some fm → formAt (g s) f = some fm
  commutes : ∀ s e, formAt s f = some fm → MovesTokens e → g (modForm s f e) = modForm (g s) f e

namespace Aside
variable {f : Nat} {fm : Form}

theorem id : Aside f fm (fun s => s) := ⟨fun _ => rfl, fun _ h => h, fun _ _ _ _ => rfl⟩

/-- An operation on other parts of the machine. -/
theorem of_elsewhere {g : State → State} (ht : ∀ s, (g s).tenths = s.tenths) (hf : ∀ s, (g s).forms = s.forms)
    (hg : ∀ s e, g (modForm s f e) = modForm (g s) f e) : Aside f fm g :=
  ⟨ht, fun s h => by rw [formAt, hf]; exact h, fun s e _ _ => hg s e⟩

theorem comp {g h : State → State} (hg : Aside f fm g) (hh : Aside f fm h) : Aside f fm (fun s => h (g s)) where
  tenths s := (hh.tenths _).trans (hg.tenths s)
  keeps s hs := hh.keeps _ (hg.keeps s hs)
  commutes s e hs he := by rw [hg.commutes s e hs he, hh.commutes _ e (hg.keeps s hs) he]

theorem foldl {α : Type} {g : State → α → State} (hg : ∀ a, Aside f fm (fun s => g s a)) (l : List α) : Aside f fm (fun s => l.foldl g s) := by
  induction l with
  | nil => exact id
  | cons a l ih => exact comp (hg a) ih

/-- An operation that is chosen by what it finds in other parts of the machine, or in what does not move with the tokens. -/
theorem chosen {α : Type} (k : State → α) (hk : ∀ s e, formAt s f = some fm → MovesTokens e → k (modForm s f e) = k s) {g : α → State → State}
    (hg : ∀ a, Aside f fm (g a)) : Aside f fm (fun s => g (k s) s) where
  tenths s := (hg _).tenths s
  keeps s hs := (hg _).keeps s hs
  commutes s e hs he := by rw [hk s e hs he]; exact (hg _).commutes s e hs he

theorem ite {g h : State → State} (c : Prop) [Decidable c] (hg : Aside f fm g) (hh : Aside f fm h) : Aside f fm (fun s => if c then g s else h s) := by
  by_cases hc : c
  · simpa only [hc, if_true] using hg
  · simpa only [hc, if_false] using hh

end Aside

theorem modForm_of {s : State} {f : Nat} {fm : Form} (hf : formAt s f = some fm) (e : Form → Form) :
    modForm s f e = { s with forms := tblSet f (e fm) s.forms } := by
  rw [modForm, tblMod_of hf]

theorem addForm_aside (f : Nat) (fm new : Form) : Aside f fm (fun s => addForm s new) where
  tenths _ := rfl
  keeps s hs := (tblGet_tblSet_ne (ne_of_tblFree hs).symm new s.forms).trans hs
  commutes s e hs he := by
    have hne := ne_of_tblFree (show tblGet f s.forms = some fm from hs)
    have hkept : formAt (addForm s new) f = some fm := (tblGet_tblSet_ne hne.symm new s.forms).trans hs
    have hlen : (tblSet f (e fm) s.forms).length = s.forms.length := length_tblSet_of_get hs
    have hfree : tblFree 0 (s.forms.length + 1) (tblSet f (e fm) s.forms) = tblFree 0 (s.forms.length + 1) s.forms := tblFree_tblSet_of_get hs ..
    rw [modForm_of hs, modForm_of hkept]
    simp only [addForm, hlen, hfree, tblSet_comm hs hne]

theorem queueSection_aside (f : Nat) (fm : Form) (n : Nat) (l : Launch) (j : Nat) (t : Task) : Aside f fm (fun s => queueSection s n l j t) := by
  refine Aside.chosen (fun s => (t.isThread || decide (t.state ≠ .ready) || s.forms.any (fun f => decide (f.2.arm = none ∧ f.2.launch = n ∧ f.2.task = j)),
    newForm s l.ctx n j j none none t.entry t.size (constsOf t.args) l.prio)) ?_ (g := fun a s => if a.1 then s else addForm s a.2) ?_
  · intro s e hs he
    obtain ⟨harm, hlaunch, htask, -⟩ := he fm
    have hany : (tblSet f (e fm) s.forms).any (fun f => decide (f.2.arm = none ∧ f.2.launch = n ∧ f.2.task = j)) =
        s.forms.any (fun f => decide (f.2.arm = none ∧ f.2.launch = n ∧ f.2.task = j)) :=
      any_tblSet_of_get hs (by simp only [harm, hlaunch, htask])
    rw [modForm_of hs]
    simp only [hany]
    rfl
  · exact fun a => Aside.ite _ Aside.id (addForm_aside f fm a.2)

theorem queueSections_aside (f : Nat) (fm : Form) (n : Nat) (l : Launch) (j : Nat) (ts : List Task) : Aside f fm (fun s => queueSections s n l j ts) := by
  induction ts generalizing j with
  | nil => exact Aside.id
  | cons t ts ih => exact Aside.comp (queueSection_aside f fm n l j t) (ih (j + 1))

theorem withLaunches_aside (f : Nat) (fm : Form) (h : Tbl Launch → Tbl Launch) : Aside f fm (fun s => { s with launches := h s.launches }) :=
  .of_elsewhere (fun _ => rfl) (fun _ => rfl) (fun _ _ => rfl)

/-- A launch that may go on. -/
def activeLaunch (s : State) (n : Nat) : Option Launch :=
  match tblGet n s.launches with
  | none => none
  | some l => if launchActive s l then some l else none

theorem refreshLaunch_eq (s : State) (n : Nat) : refreshLaunch s n = match activeLaunch s n with
    | none => s
    | some l => queueSections { s with launches := tblSet n { l with tasks := readyTasks s.now l 0 l.tasks } s.launches } n l 0
        (readyTasks s.now l 0 l.tasks) := by
  unfold refreshLaunch activeLaunch
  cases tblGet n s.launches with
  | none => rfl
  | some l => cases h : launchActive s l <;> simp only [h] <;> rfl

theorem refreshLaunch_aside (f : Nat) (fm : Form) (n : Nat) : Aside f fm (fun s => refreshLaunch s n) := by
  simp only [refreshLaunch_eq]
  refine Aside.chosen (fun s => (activeLaunch s n, s.now)) (fun _ _ _ _ => rfl) (g := fun a s => match a.1 with
    | none => s
    | some l => queueSections { s with launches := tblSet n { l with tasks := readyTasks a.2 l 0 l.tasks } s.launches } n l 0
        (readyTasks a.2 l 0 l.tasks)) fun a => ?_
  cases a.1 with
  | none => exact Aside.id
  | some l => exact Aside.comp (withLaunches_aside f fm (tblSet n { l with tasks := readyTasks a.2 l 0 l.tasks })) (queueSections_aside ..)

/-- The launches of a thread that wait for commands. -/
def heldLaunches (t : Nat) (s : State) : List Nat :=
  (s.launches.filter (fun p => decide (p.2.source = .thread t) && !p.2.hold.isEmpty)).map (·.1)

theorem easeLaunches_aside (f : Nat) (fm : Form) (t u : Nat) : Aside f fm (fun s => easeLaunches s t u) :=
  Aside.chosen (heldLaunches t) (fun _ _ _ _ => rfl)
    (g := fun held s => held.foldl refreshLaunch { s with launches := tblMap (fun _ l => easeLaunch t u l) s.launches })
    fun held => Aside.comp (withLaunches_aside f fm (tblMap (fun _ l => easeLaunch t u l))) (Aside.foldl (refreshLaunch_aside f fm) held)

theorem holdLanding_aside (f : Nat) (fm : Form) (p t k : Nat) : Aside f fm (fun s => holdLanding s p t k) :=
  Aside.chosen (fun s => (tblGet k s.requests).isNone) (fun _ _ _ _ => rfl)
    (g := fun c s => if c then s else { s with launches := tblMap (fun _ l => if l.source = .thread t ∧ (tblGet (100 + p) l.hold).isSome then
      { l with hold := tblSet (1000 + k) 1 l.hold } else l) s.launches })
    fun _ => Aside.ite _ Aside.id (withLaunches_aside ..)

/-- The threads of the bindings that a port has before `q` stands there. -/
def boundThreads (cl p : Nat) (s : State) : List Nat := (portAt s cl p).bindings.map (·.tid)

/-- The launches that waited for the bindings of `old` that have ended go on. -/
def easeEnded (p : Nat) (old now : List Nat) (s : State) : State :=
  old.eraseDups.foldl (fun s t => (List.range (old.count t - now.count t)).foldl (fun s _ => easeLaunches s t (100 + p)) s) s

/-- What follows the change of a port's bindings. -/
def bindingsMoved (p : Nat) (q : Port) (old : List Nat) (s : State) : State :=
  if 64 ≤ p ∨ s.launches.all (fun l => l.2.hold.isEmpty) then s
  else easeEnded p old (q.bindings.map (·.tid)) (q.landing.foldl (fun s l => holdLanding s p l.1 l.2) s)

theorem easeEnded_aside (f : Nat) (fm : Form) (p : Nat) (old now : List Nat) : Aside f fm (easeEnded p old now) :=
  Aside.foldl (g := fun s t => (List.range (old.count t - now.count t)).foldl (fun s _ => easeLaunches s t (100 + p)) s)
    (fun t => Aside.foldl (g := fun s _ => easeLaunches s t (100 + p)) (fun _ => easeLaunches_aside f fm t (100 + p)) _) _

theorem bindingsMoved_aside (f : Nat) (fm : Form) (p : Nat) (q : Port) (old : List Nat) : Aside f fm (bindingsMoved p q old) :=
  Aside.chosen (fun s => s.launches.all (fun l => l.2.hold.isEmpty)) (fun _ _ _ _ => rfl)
    (g := fun c s => if 64 ≤ p ∨ c then s else easeEnded p old (q.bindings.map (·.tid)) (q.landing.foldl (fun s l => holdLanding s p l.1 l.2) s))
    fun _ => Aside.ite _ Aside.id (Aside.comp
      (Aside.foldl (g := fun s (l : Nat × Nat) => holdLanding s p l.1 l.2) (fun l => holdLanding_aside f fm p l.1 l.2) _) (easeEnded_aside ..))

theorem putBindings_aside (f : Nat) (fm : Form) (cl p : Nat) (q : Port) : Aside f fm (fun s => putBindings s cl p q) :=
  Aside.chosen (boundThreads cl p) (fun _ _ _ _ => rfl) (g := fun old s => bindingsMoved p q old (setPort s cl p q)) fun old =>
    Aside.comp (g := fun s => setPort s cl p q) (.of_elsewhere (fun _ => rfl) (fun _ => rfl) (fun _ _ => rfl)) (bindingsMoved_aside f fm p q old)

/-- Whether a formation's port is a sink does not move with its tokens. -/
theorem sinkHeld_modForm {s : State} {f : Nat} {fm : Form} (hf : formAt s f = some fm) {e : Form → Form} (he : MovesTokens e) (q : Port) :
    sinkHeld (modForm s f e) q = sinkHeld s q := by
  have hget (g : Nat) : (tblGet g (tblMod f e s.forms)).map (·.nodes) = (tblGet g s.forms).map (·.nodes) := by
    by_cases hg : g = f
    · subst hg
      obtain ⟨-, -, -, hnodes⟩ := he fm
      rw [tblGet_tblMod, show tblGet g s.forms = some fm from hf]
      exact congrArg some hnodes
    · rw [tblGet_tblMod_ne hg]
  have hbind (o : Option Form) (n : Nat) : (o.bind fun fm => fm.nodes[n]?) = ((o.map (·.nodes)).bind fun l => l[n]?) := by cases o <;> rfl
  simp only [sinkHeld, modForm_forms, hbind, hget]

theorem movePort_aside (f : Nat) (fm : Form) (cp : Nat × Nat) (q : Port) : Aside f fm (fun s => movePort s cp q) :=
  Aside.chosen (fun s => settlePort s cp.2 q) (fun s e hs he => by simp only [settlePort, sinkHeld_modForm hs he])
    (g := fun q s => putBindings s cp.1 cp.2 q) fun q => putBindings_aside f fm cp.1 cp.2 q

theorem freePort_aside (f : Nat) (fm : Form) (cp : Nat × Nat) : Aside f fm (fun s => freePort s cp) :=
  Aside.chosen (fun s => portAt s cp.1 cp.2) (fun _ _ _ _ => rfl)
    (g := fun q s => putBindings s cp.1 cp.2 { q with holder := none, bindings := [] }) fun _ => putBindings_aside f fm cp.1 cp.2 _

end Sys2Proof.Machine

/-! PROOFS. Control and status registers, the system instructions, and the ends of a thread, a task and a launch (O15). -/

namespace Sys2Proof.Machine

/-! ### Control and status registers (R197, R200, R201, R114) -/

/-- The 23 assigned registers with their values. -/
def csrValues (s : State) (t : Nat) (th : Thread) : List (BitVec 10 × Word) :=
  [(0x000, th.status), (0x001, th.cause), (0x002, th.epc), (0x003, th.tvec), (0x004, th.evaddr), (0x005, th.escratch),
   (0x010, th.spillov), (0x011, BitVec.ofNat 64 th.spillsz),
   (0x020, match ctxOf s th.ctx with
      | some c => if c.quotaOn then BitVec.ofInt 64 c.quota else 0x7FFFFFFFFFFFFFFF
      | none => 0x7FFFFFFFFFFFFFFF),
   (0x021, BitVec.ofNat 64 th.prio),
   (0x022, BitVec.ofNat 64 th.setid), (0x030, th.masks.m0), (0x031, th.masks.m1), (0x032, th.masks.m2), (0x033, th.masks.m3),
   (0x034, th.masks.m4), (0x035, th.masks.m5), (0x036, th.masks.m6), (0x040, BitVec.ofNat 64 s.now), (0x041, BitVec.ofNat 64 t),
   (0x042, BitVec.ofNat 64 th.ctx), (0x043, BitVec.ofNat 64 (partNum s th.ctx)), (0x050, BitVec.ofNat 64 th.icnt)]

/-- The registers that a program may write with any value: the old one, and the thread after a write (R200, R114). -/
def csrPuts (th : Thread) : List (BitVec 10 × Word × (Word → Thread)) :=
  [(0x002, th.epc, fun w => { th with epc := codeAddr w }), (0x003, th.tvec, fun w => { th with tvec := codeAddr w }),
   (0x005, th.escratch, fun w => { th with escratch := w }), (0x010, th.spillov, fun w => { th with spillov := w }),
   (0x021, BitVec.ofNat 64 th.prio, fun w => { th with prio := min (w.toNat % 8) th.prioCap }),
   (0x030, th.masks.m0, fun w => { th with masks := { th.masks with m0 := maskWritten 0 w } }),
   (0x031, th.masks.m1, fun w => { th with masks := { th.masks with m1 := maskWritten 1 w } }),
   (0x032, th.masks.m2, fun w => { th with masks := { th.masks with m2 := maskWritten 2 w } }),
   (0x033, th.masks.m3, fun w => { th with masks := { th.masks with m3 := maskWritten 3 w } }),
   (0x034, th.masks.m4, fun w => { th with masks := { th.masks with m4 := maskWritten 4 w } }),
   (0x035, th.masks.m5, fun w => { th with masks := { th.masks with m5 := maskWritten 5 w } }),
   (0x036, th.masks.m6, fun w => { th with masks := { th.masks with m6 := maskWritten 6 w } })]

theorem csrRead_of_mem {s : State} {t : Nat} {th : Thread} {k : BitVec 10} {w : Word} (h : (k, w) ∈ csrValues s t th) :
    csrRead s t th k = some w := by
  simp only [csrValues, List.mem_cons, Prod.mk.injEq, List.not_mem_nil, or_false] at h
  rcases h with ⟨rfl, rfl⟩ | ⟨rfl, rfl⟩ | ⟨rfl, rfl⟩ | ⟨rfl, rfl⟩ | ⟨rfl, rfl⟩ | ⟨rfl, rfl⟩ | ⟨rfl, rfl⟩ | ⟨rfl, rfl⟩ | ⟨rfl, rfl⟩ |
    ⟨rfl, rfl⟩ | ⟨rfl, rfl⟩ | ⟨rfl, rfl⟩ | ⟨rfl, rfl⟩ | ⟨rfl, rfl⟩ | ⟨rfl, rfl⟩ | ⟨rfl, rfl⟩ | ⟨rfl, rfl⟩ | ⟨rfl, rfl⟩ | ⟨rfl, rfl⟩ |
    ⟨rfl, rfl⟩ | ⟨rfl, rfl⟩ | ⟨rfl, rfl⟩ | ⟨rfl, rfl⟩ <;> rfl

/-- An index is a literal where its number is. -/
theorem csr_eq_of_toNat {k : BitVec 10} {n : Nat} (h : k.toNat = n) : k = BitVec.ofNat 10 n := by
  rw [← h, BitVec.ofNat_toNat, BitVec.setWidth_eq]

theorem csrRead_mem {s : State} {t : Nat} {th : Thread} {k : BitVec 10} {w : Word} (h : csrRead s t th k = some w) :
    (k, w) ∈ csrValues s t th := by
  unfold csrRead at h
  split at h
  case h_24 => cases h
  all_goals
    next hk =>
      cases h
      rw [csr_eq_of_toNat hk]
      simp [csrValues] <;> rfl

theorem csrWrite_of_mem {th : Thread} {k : BitVec 10} {old : Word} {put : Word → Thread} (h : (k, old, put) ∈ csrPuts th) (w : Word) :
    csrWrite th k w = some (put w) := by
  simp only [csrPuts, List.mem_cons, Prod.mk.injEq, List.not_mem_nil, or_false] at h
  rcases h with ⟨rfl, -, rfl⟩ | ⟨rfl, -, rfl⟩ | ⟨rfl, -, rfl⟩ | ⟨rfl, -, rfl⟩ | ⟨rfl, -, rfl⟩ | ⟨rfl, -, rfl⟩ | ⟨rfl, -, rfl⟩ |
    ⟨rfl, -, rfl⟩ | ⟨rfl, -, rfl⟩ | ⟨rfl, -, rfl⟩ | ⟨rfl, -, rfl⟩ | ⟨rfl, -, rfl⟩ <;> rfl

/-- A register that may be written is one of these or `setid`. -/
theorem csrWrite_mem {th : Thread} {k : BitVec 10} {w : Word} {u : Thread} (h : csrWrite th k w = some u) (hset : k ≠ 0x022) :
    ∃ old put, (k, old, put) ∈ csrPuts th := by
  unfold csrWrite at h
  split at h
  case h_6 hk => exact absurd (csr_eq_of_toNat hk) hset
  case h_14 => cases h
  all_goals
    next hk =>
      rw [csr_eq_of_toNat hk]
      simp [csrPuts]

theorem csrValues_of_csrPuts {s : State} {t : Nat} {th : Thread} {k : BitVec 10} {old : Word} {put : Word → Thread}
    (h : (k, old, put) ∈ csrPuts th) : (k, old) ∈ csrValues s t th := by
  simp only [csrPuts, List.mem_cons, Prod.mk.injEq, List.not_mem_nil, or_false] at h
  rcases h with ⟨rfl, rfl, -⟩ | ⟨rfl, rfl, -⟩ | ⟨rfl, rfl, -⟩ | ⟨rfl, rfl, -⟩ | ⟨rfl, rfl, -⟩ | ⟨rfl, rfl, -⟩ | ⟨rfl, rfl, -⟩ |
    ⟨rfl, rfl, -⟩ | ⟨rfl, rfl, -⟩ | ⟨rfl, rfl, -⟩ | ⟨rfl, rfl, -⟩ | ⟨rfl, rfl, -⟩ <;> simp [csrValues]

/-- A read gives the value of an assigned register. -/
theorem execCrd_of_mem {s : State} {t : Nat} {th : Thread} {k : BitVec 10} {w : Word} (h : Running s t th) (a : BitVec 5)
    (hk : (k, w) ∈ csrValues s t th) : execCrd k a s = .next (resulted s t th a w) := by
  rw [execCrd, onThread_of h, csrRead_of_mem hk, ← retireWith_of h.get]

theorem execCrd_of_unassigned {s : State} {t : Nat} {th : Thread} {k : BitVec 10} (h : Running s t th) (a : BitVec 5)
    (hk : ∀ w, (k, w) ∉ csrValues s t th) : execCrd k a s = .next (raiseTrap s t ⟨1, 5, 0⟩) := by
  have hread : csrRead s t th k = none := Option.eq_none_iff_forall_ne_some.2 fun w hw => hk w (csrRead_mem hw)
  rw [execCrd, onThread_of h, hread]
  rfl

/-- An update that the field rules allow. -/
theorem csrUpdate_of_write {s : State} {t : Nat} {th u : Thread} {k : BitVec 10} {old : Word} (h : Running s t th) (a : BitVec 5)
    (f : Word → Word → Word) (hr : csrRead s t th k = some old) (hw : csrWrite th k (f old (regGet th a)) = some u) :
    csrUpdate s k a f = .next (completed s t u) := by
  rw [csrUpdate, onThread_of h, hr, Option.bind_some, hw]
  dsimp only
  rw [modThread_of h.get, retire_of (th := u) (by simp), completed, completed, completedAt_modThread]

theorem csrUpdate_of_refused {s : State} {t : Nat} {th : Thread} {k : BitVec 10} (h : Running s t th) (a : BitVec 5)
    (f : Word → Word → Word) (hw : ∀ w, csrWrite th k w = none) : csrUpdate s k a f = .next (raiseTrap s t ⟨1, 5, 0⟩) := by
  have hbind : (csrRead s t th k).bind (fun old => csrWrite th k (f old (regGet th a))) = none :=
    Option.bind_eq_none_iff.2 fun old _ => hw _
  rw [csrUpdate, onThread_of h, hbind]
  rfl

theorem csrUpdate_of_puts {s : State} {t : Nat} {th : Thread} {k : BitVec 10} {old : Word} {put : Word → Thread} (h : Running s t th)
    (a : BitVec 5) (f : Word → Word → Word) (hk : (k, old, put) ∈ csrPuts th) :
    csrUpdate s k a f = .next (completed s t (put (f old (regGet th a)))) :=
  csrUpdate_of_write h a f (csrRead_of_mem (csrValues_of_csrPuts hk)) (csrWrite_of_mem hk _)

/-- `setid` takes the number of a set, or 65,535 for none (R197). -/
theorem csrUpdate_setid {s : State} {t : Nat} {th : Thread} (h : Running s t th) (a : BitVec 5) (f : Word → Word → Word) :
    let n := (f (BitVec.ofNat 64 th.setid) (regGet th a)).toNat % 2 ^ 16
    ((n < 256 ∨ n = 65535) → csrUpdate s 0x022 a f = .next (completed s t { th with setid := n })) ∧
    (¬(n < 256 ∨ n = 65535) → csrUpdate s 0x022 a f = .next (raiseTrap s t ⟨1, 5, 0⟩)) := by
  intro n
  have hread : csrRead s t th 0x022 = some (BitVec.ofNat 64 th.setid) := rfl
  have hwrite : csrWrite th 0x022 (f (BitVec.ofNat 64 th.setid) (regGet th a)) =
      if n < 256 ∨ n = 65535 then some { th with setid := n } else none := rfl
  constructor
  · intro hn
    exact csrUpdate_of_write h a f hread (by rw [hwrite, if_pos hn])
  · intro hn
    rw [csrUpdate, onThread_of h, hread, Option.bind_some, hwrite, if_neg hn]
    rfl

/-- The shape of a code address and of a hash mask (R197, R114). -/
theorem shift_and_eq_codeAddr (w : Word) : (w >>> 2 <<< 2) &&& 0x01FFFFFFFFFFFFFF = codeAddr w := by
  rw [BitVec.shiftLeft_ushiftRight, BitVec.and_assoc, codeAddr]
  rfl

theorem extract_zeroExtend_eq_and (w : Word) : (w.extractLsb' 15 22).zeroExtend 64 = w >>> 15 &&& 0x3FFFFF := by
  apply BitVec.eq_of_toNat_eq
  have hmask : w.toNat >>> 15 &&& 0x3FFFFF = w.toNat >>> 15 % 2 ^ 22 := Nat.and_two_pow_sub_one_eq_mod _ 22
  have hlt : w.toNat >>> 15 % 2 ^ 22 < 2 ^ 64 := lt_trans (Nat.mod_lt _ (by decide)) (by decide)
  simpa [hmask] using Nat.mod_eq_of_lt hlt

theorem extract_shift_eq_maskWritten (i : Nat) (w : Word) :
    (w.extractLsb' 15 22).zeroExtend 64 <<< 15 ||| 1#64 <<< (8 + i) = maskWritten i w := by
  rw [extract_zeroExtend_eq_and, BitVec.shiftLeft_and_distrib, BitVec.shiftLeft_ushiftRight, BitVec.and_assoc, maskWritten]
  rfl

/-! ### System instructions (R202 to R207) -/

section
variable {s : State} {t : Nat} {th : Thread}

theorem execSleep_of_past (h : Running s t th) {a : BitVec 5} (hv : (regGet th a).toNat ≤ s.now) :
    execSleep a s = .next (completed s t th) := by
  rw [execSleep, onThread_of h, if_pos hv, retire_of h.get]

theorem execSleep_of_future (h : Running s t th) {a : BitVec 5} (hv : s.now < (regGet th a).toNat) :
    execSleep a s = .next (waiting s t th (.sleep (regGet th a).toNat)) := by
  rw [execSleep, onThread_of h, if_neg (Nat.not_le.2 hv), waitAt_of h.get]

/-- What becomes of a sleeping thread at the event that looks at it. -/
theorem execSleepWake_of_sleep (h : tblGet t s.threads = some th) {u : Nat} (hw : th.wait = .sleep u) :
    execSleepWake t s = .next (if u ≤ s.now ∧ (th.asyncs.isEmpty ∨ inTrap th) then completed s t th else s) := by
  simp only [execSleepWake, h, hw, retire_of h]

theorem execYield_of (h : Running s t th) : execYield s = .next (completed s t th) := by
  rw [execYield, onThread_of h, retire_of h.get]

theorem execExit_of (h : Running s t th) : execExit s = .next (stopThread (completed s t th) t false) := by
  rw [execExit, onThread_of h, retire_of h.get]

/-- The return from a trap, before the next one is entered. -/
theorem returnTrap_of (h : tblGet t s.threads = some th) :
    returnTrap s t = enterAsync (completedAt s t { th with status := 0 } th.epc) t := by
  simp only [returnTrap, h, retireAt_of h, modThread_completedAt]
  rw [← completedAt_withThread (th := th) (u := { th with status := 0 }) s t th.epc rfl]
  rfl

theorem execTret_of_inTrap (h : Running s t th) (hin : th.status.getLsbD 0 = true) :
    execTret s = .next (enterAsync (completedAt s t { th with status := 0 } th.epc) t) := by
  rw [execTret, onThread_of h, if_pos (show inTrap th = true from hin), returnTrap_of h.get]

theorem execTret_of_not_inTrap (h : Running s t th) (hin : th.status.getLsbD 0 = false) :
    execTret s = .next (raiseTrap s t ⟨1, 6, 0⟩) := by
  rw [execTret, onThread_of h, inTrap, hin]
  rfl

/-- No trap is entered where none is pending. -/
theorem enterAsync_of_nil (h : tblGet t s.threads = some th) (ha : th.asyncs = []) : enterAsync s t = s := by
  simp only [enterAsync, h, ha]

theorem execXinv_of_cover (h : Running s t th) {a : BitVec 5} {cover : Option Nat} (hc : xinvCover (regGet th a) = some cover) :
    execXinv a s = .next { s with
      threads := tblSet t { th with wait := .xinv s.nextInval } s.threads
      invals := tblSet s.nextInval ⟨th.ctx, cover, s.now, false⟩ s.invals
      nextInval := s.nextInval + 1 } := by
  rw [execXinv, onThread_of h, hc]
  exact congrArg _ (waitAt_of (s := (beginInval s th.ctx cover false).1) h.get _)

theorem execXinv_of_noncanonical (h : Running s t th) {a : BitVec 5} (hc : xinvCover (regGet th a) = none) :
    execXinv a s = .next (raiseTrap s t ⟨4, memDetail .v false 1, (regGet th a).toNat⟩) := by
  rw [execXinv, onThread_of h, hc]
  rfl

theorem execBrk_of_halt (h : Running s t th) (k : BitVec 10) {n : Nat} (ha : armedHalt s th.ctx = some n) :
    execBrk k s = .next (modThread (completed s t th) t (fun u => { u with halts := setAdd n th.halts })) := by
  rw [execBrk, onThread_of h, ha]
  dsimp only
  rw [retire_of h.get, completed, modThread_completedAt, modThread_completedAt]

theorem toNat_append_add {n m : Nat} (x : BitVec n) (y : BitVec m) : (x ++ y).toNat = x.toNat * 2 ^ m + y.toNat := by
  rw [BitVec.toNat_append, ← Nat.shiftLeft_add_eq_or_of_lt y.isLt, Nat.shiftLeft_eq]

/-- The `cause` of a synchronous trap by its fields (R199). -/
theorem causeWord_sync {code detail : Nat} (hc : code < 2 ^ 16) (hd : detail < 2 ^ 16) :
    causeWord false code detail = 0#16 ++ BitVec.ofNat 16 detail ++ 0#16 ++ BitVec.ofNat 16 code := by
  apply BitVec.eq_of_toNat_eq
  have h1 : code % 65536 = code := Nat.mod_eq_of_lt hc
  have h2 : detail % 65536 = detail := Nat.mod_eq_of_lt hd
  simp only [toNat_append_add, causeWord, BitVec.toNat_ofNat, Nat.reducePow, h1, h2]
  simp only [Bool.false_eq_true, if_false]
  omega

/-- A breakpoint without a debugger traps behind itself (R207). -/
theorem execBrk_of_no_halt (h : Running s t th) (k : BitVec 10) (ha : armedHalt s th.ctx = none) (hin : th.status.getLsbD 0 = false)
    (hvec : th.tvec ≠ 0) :
    execBrk k s = .next (modThread (completed s t th) t (fun u => { u with
      epc := (th.pc + 4) &&& 0x01FFFFFFFFFFFFFC#64, cause := 0#16 ++ BitVec.ofNat 16 k.toNat ++ 0#16 ++ 7#16, evaddr := 0,
      status := (if th.asyncs = [] then 1 else 3), pc := th.tvec, ifetch := none })) := by
  have hcause : causeWord false 7 k.toNat = 0#16 ++ BitVec.ofNat 16 k.toNat ++ 0#16 ++ 7#16 :=
    causeWord_sync (by decide) (lt_trans k.isLt (by decide))
  have hstatus : statusBits true (!th.asyncs.isEmpty) = if th.asyncs = [] then 1 else 3 := by
    cases th.asyncs <;> rfl
  rw [execBrk, onThread_of h, ha]
  simp only [raiseBreak, retire_of h.get, completed, completedAt_threads, tblGet_tblSet, inTrap, hin, hvec, or_self, if_false,
    Bool.false_eq_true, enterTrap, modThread_completedAt, hcause, hstatus]
  rfl

end

/-! ### The end of a thread, of a task and of a launch (R42, R204, R384, R367) -/

section
variable {s : State} {n : Nat} {l : Launch}

theorem settleLaunch_of_done (h : tblGet n s.launches = some l) (hd : ∀ ts ∈ l.tasks, ts.state = .completed) :
    settleLaunch s n = endLaunch s n l 0 := by
  have hall : l.tasks.all isDone = true := List.all_eq_true.2 fun ts hts => by simpa [isDone] using hd ts hts
  simp only [settleLaunch, h, hall, if_true]

/-- No task of the launch runs, is placed or is suspended. -/
def idleLaunch (l : Launch) : Prop := ∀ ts ∈ l.tasks, ts.state ≠ .running ∧ ts.state ≠ .placing ∧ ts.state ≠ .suspended

theorem settleLaunch_of_not_done (h : tblGet n s.launches = some l) (hd : ¬∀ ts ∈ l.tasks, ts.state = .completed) :
    (l.anyFailed = true → idleLaunch l → settleLaunch s n = endLaunch s n l 2) ∧
    (l.anyFailed = false ∨ ¬idleLaunch l → settleLaunch s n = s) := by
  have hall : l.tasks.all isDone = false := by
    refine Bool.eq_false_iff.2 fun hall => hd fun ts hts => ?_
    simpa [isDone] using List.all_eq_true.1 hall ts hts
  have hidle : l.tasks.all (fun t => !decide (t.state = .running ∨ t.state = .placing ∨ t.state = .suspended)) = true ↔ idleLaunch l := by
    simp [idleLaunch]
  simp only [settleLaunch, h, hall, Bool.false_eq_true, if_false]
  refine ⟨fun hf hi => if_pos (Bool.and_eq_true_iff.2 ⟨hf, hidle.2 hi⟩), fun hno => if_neg fun hend => ?_⟩
  obtain ⟨hf, hi⟩ := Bool.and_eq_true_iff.1 hend
  rcases hno with hf' | hi'
  · exact Bool.false_ne_true (hf'.symm.trans hf)
  · exact hi' (hidle.1 hi)

theorem mem_of_mem_tblDel {α : Type} {k : Nat} {p : Nat × α} {t : Tbl α} (h : p ∈ tblDel k t) : p ∈ t := by
  induction t with
  | nil => exact h
  | cons q t ih =>
    rw [tblDel] at h
    split at h
    · exact List.mem_cons_of_mem _ h
    · split at h
      · exact h
      · exact (List.mem_cons.1 h).elim (fun e => e ▸ List.mem_cons_self ..) (fun h => List.mem_cons_of_mem _ (ih h))

/-- The end of a launch that no other waits for. -/
theorem endLaunch_of_no_followers (status : Nat) (h : ∀ p ∈ s.launches, p.2.prev = some n → p.2.overlap = true) :
    endLaunch s n l status = signalEvent { s with
      launches := tblDel n s.launches
      forms := s.forms.filter (fun f => !decide (f.2.arm = none ∧ f.2.launch = n ∧ f.2.phase = .ready)) } l.ctx l.event status := by
  have hnone (s' : State) (hl : s'.launches = tblDel n s.launches) : followers s' n = [] := by
    refine List.map_eq_nil_iff.2 (List.filter_eq_nil_iff.2 fun p hp => ?_)
    have hmem : p ∈ s.launches := mem_of_mem_tblDel (hl ▸ hp)
    by_cases hprev : p.2.prev = some n
    · simp [h p hmem hprev]
    · simp [hprev]
  simp only [endLaunch]
  rw [hnone _ (by simp)]
  rfl

theorem listMod_eq_set {α : Type} {j : Nat} {f : α → α} {xs : List α} {x : α} (h : xs[j]? = some x) : listMod j f xs = xs.set j (f x) := by
  induction xs generalizing j with
  | nil => simp at h
  | cons y ys ih =>
    cases j with
    | zero => simp_all [listMod]
    | succ j => simp_all [listMod]

/-- A task that completes or fails. -/
theorem endTask_of {j : Nat} {ts : Task} (h : tblGet n s.launches = some l) (ht : l.tasks[j]? = some ts) (ok : Bool) :
    endTask s n j ok = settleLaunch (refreshLaunch { s with launches := tblMod n (fun _ => { l with
      anyFailed := l.anyFailed || !ok
      tasks := l.tasks.set j { ts with state := if ok then .completed else .failed } }) s.launches } n) n := by
  cases ok <;> simp [endTask, setTask, modLaunch, tblMod_of h, listMod_eq_set ht]

end

theorem signalEvent_of_beyond {s : State} {x e : Nat} {c : Ctx} (h : ctxOf s x = some c) (he : c.nevent ≤ e) (status : Nat) :
    signalEvent s x e status = s := by
  simp [signalEvent, h, he]

theorem signalEvent_of_within {s : State} {x e : Nat} {c : Ctx} (h : ctxOf s x = some c) (he : e < c.nevent) (status : Nat) :
    signalEvent s x e status = hbmWrite (hbmWrite s c.masks (c.events + 16 * e + 8) (leBytes (status % 256) 8) false) c.masks
      (c.events + 16 * e) (leBytes ((leNat (hbmRead s c.masks (c.events + 16 * e) 8).2.bytes + 1) % 2 ^ 64) 8) false := by
  simp [signalEvent, h, Nat.not_le.2 he]

/-- Settles O15: the registers by the lists of those that may be read and written, the system instructions and the ends of threads, tasks and
launches each by its rule above. -/
theorem systemInstructions : Obligations.SystemInstructions := by
  unfold Obligations.SystemInstructions
  refine ⟨?registers, ?system, ?threadEnd, ?launchEnd, ?event⟩
  case registers =>
    intro s t th k a h v quota readable code mask writable trap
    have hcode : code = codeAddr := funext shift_and_eq_codeAddr
    have hmask : mask = maskWritten := funext fun i => funext fun w => extract_shift_eq_maskWritten i w
    have hwritable : writable = csrPuts th := by
      simp only [writable, csrPuts, hcode, hmask, BitVec.extractLsb'_toNat, Nat.shiftRight_zero, Nat.reducePow]
    refine ⟨by simp [decodeControl, decodeMajor3F], by simp [decodeControl, decodeMajor3F], by simp [decodeControl, decodeMajor3F],
      by simp [decodeControl, decodeMajor3F], fun w hw => execCrd_of_mem h a hw, fun hw => execCrd_of_unassigned h a hw, ?_, ?_, ?_⟩
    · intro old put hk
      rw [hwritable] at hk
      exact ⟨csrUpdate_of_puts h a (fun _ v => v) hk, csrUpdate_of_puts h a (fun old v => old ||| v) hk,
        csrUpdate_of_puts h a (fun old v => old &&& ~~~v) hk⟩
    · rintro rfl i w hi
      simp only [List.mem_cons, Prod.mk.injEq, List.not_mem_nil, or_false] at hi
      rcases hi with ⟨rfl, rfl⟩ | ⟨rfl, rfl⟩ | ⟨rfl, rfl⟩
      · exact csrUpdate_setid h a (fun _ v => v)
      · exact csrUpdate_setid h a (fun old v => old ||| v)
      · exact csrUpdate_setid h a (fun old v => old &&& ~~~v)
    · intro hk hnone
      have hw : ∀ w, csrWrite th k w = none := fun w => Option.eq_none_iff_forall_ne_some.2 fun u hu => by
        obtain ⟨old, put, hmem⟩ := csrWrite_mem hu hk
        exact hnone old put (hwritable ▸ hmem)
      exact ⟨csrUpdate_of_refused h a (fun _ v => v) hw, csrUpdate_of_refused h a (fun old v => old ||| v) hw,
        csrUpdate_of_refused h a (fun old v => old &&& ~~~v) hw⟩
  case system =>
    intro s t th a k h v
    refine ⟨by simp [decodeControl, decodeMajor3F], by decide, by decide, by decide, by simp [decodeControl, decodeMajor3F],
      by simp [decodeControl, decodeMajor3F], fun hv => execSleep_of_past h hv, fun hv => execSleep_of_future h hv, ?_, ?_, ?_,
      execYield_of h, execExit_of h, ?_, fun hin => execTret_of_inTrap h hin, fun hin => execTret_of_not_inTrap h hin, ?_, ?_,
      fun n ha => execBrk_of_halt h k ha, fun ha hin hvec => execBrk_of_no_halt h k ha hin hvec⟩
    · intro u hw hu ha
      exact (execSleepWake_of_sleep h.get hw).trans (congrArg _ (if_pos ⟨hu, by simpa [inTrap] using ha⟩))
    · intro u hw ha hin
      exact (execSleepWake_of_sleep h.get hw).trans (congrArg _ (if_neg fun ⟨_, hor⟩ =>
        hor.elim (fun he => ha (List.isEmpty_iff.1 he)) (fun ht => Bool.false_ne_true (hin.symm.trans ht))))
    · intro u hw hu
      exact (execSleepWake_of_sleep h.get hw).trans (congrArg _ (if_neg (by omega)))
    · intro hin ha
      exact (execTret_of_inTrap h hin).trans (congrArg _ (enterAsync_of_nil
        (th := { th with status := 0, pc := th.epc, wait := .none, icnt := th.icnt + 1 }) (by simp) ha))
    · rintro cover (⟨hv, rfl⟩ | ⟨hv, rfl⟩)
      · exact execXinv_of_cover h (if_pos hv)
      · have hne : regGet th a ≠ 0x8000000000000000 := fun he => by
          simp only [v, he] at hv
          exact absurd hv (by decide)
        exact execXinv_of_cover h ((if_neg hne).trans (if_pos hv))
    · intro hne hv
      exact execXinv_of_noncanonical h ((if_neg hne).trans (if_neg (Nat.not_lt.2 hv)))
  case threadEnd =>
    intro s t th failed h hlife left gone
    refine ⟨fun hp => ?_, fun hp hc => ?_, fun hp hc => ?_⟩
    · simp [finishThread, h, hlife, storesDone, hp]
    · have hleave : leaveAll s t th.ctx = left := rfl
      simp [finishThread, h, hlife, storesDone, hp, hleave, hc]
    · have hleave : leaveAll s t th.ctx = left := rfl
      simp [finishThread, h, hlife, storesDone, hp, hleave, hc, gone]
  case launchEnd =>
    intro s n l h ended settled idle
    refine ⟨settleLaunch_of_done h, fun hd => (settleLaunch_of_not_done h hd).1, fun hd => (settleLaunch_of_not_done h hd).2,
      fun status hp => endLaunch_of_no_followers status hp, fun j ts ok ht => endTask_of h ht ok⟩
  case event =>
    intro s x e status c h count
    exact ⟨fun he => signalEvent_of_beyond h he status, fun he => signalEvent_of_within h he status⟩

end Sys2Proof.Machine

/-! PROOFS. Launching a graph, and arming and awaiting a section, from a thread (O27). -/

namespace Sys2Proof.Machine

theorem modCtx_of {s : State} {x : Nat} {c : Ctx} (h : ctxOf s x = some c) (f : Ctx → Ctx) :
    modCtx s x f = { s with ctxs := tblSet x (f c) s.ctxs } := by
  rw [modCtx, tblMod_of h]

section
variable {s : State} {t : Nat} {th : Thread} {a b : BitVec 5}

/-! ### Launching (R247) -/

theorem execGlaunch_misaligned (h : Running s t th) (ha : (regGet th a).toNat % 16 ≠ 0) :
    execGlaunch a s = .next (raiseTrap s t ⟨2, memDetail .v false 4, (regGet th a).toNat⟩) := by
  rw [execGlaunch, onThread_of h, if_pos ha]
  rfl

theorem execGlaunch_of_posted (h : Running s t th) (ha : (regGet th a).toNat % 16 = 0) (hp : th.posted ≠ []) :
    execGlaunch a s = .next (waiting s t th .retry) := by
  have hbusy : storesDone th = false := by simpa [storesDone] using hp
  rw [execGlaunch, onThread_of h, if_neg (not_not.2 ha), hbusy, waitAt_of h.get]
  rfl

theorem execGlaunch_of_placed (h : Running s t th) (ha : (regGet th a).toNat % 16 = 0) (hp : th.posted = []) {c : Nat}
    (hc : place s t th .v (regGet th a) 16 needRead false none = (s, .at_ (.cell c))) :
    let r := memRead s c 16
    execGlaunch a s = .next (if r.2.reason ≠ 0 then raiseTrap r.1 t ⟨5, memDetail .v false r.2.reason, (regGet th a).toNat⟩
      else submitThread r.1 t th r.2.bytes (regGet th a).toNat) := by
  have hdone : storesDone th = true := by simp [storesDone, hp]
  simp only [execGlaunch, onThread_of h, ha, hdone, hc] <;> rfl

theorem poolFull_iff {n : Nat} : poolFull s n = true ↔ 64 ≤ s.launches.length ∨ 16384 < poolTasks s + n := decide_eq_true_iff

theorem submitLaunch_of_full {n : Nat} (hf : poolFull s n = true) (x : Nat) (src : Source) (d daddr : Nat) (hold : Tbl Nat) :
    submitLaunch s x src d daddr hold n = (s, false) := if_pos hf

/-- The launch of descriptor `d`, which lies at `daddr`. -/
def launchOf (s : State) (x : Nat) (src : Source) (d daddr : Nat) (hold : Tbl Nat) (n : Nat) : Launch :=
  { ctx := x, source := src, event := bitsOf d 96 32, prio := bitsOf d 64 3, graph := descGraph d, overlap := decide (d % 2 = 1),
    admitted := false, anyFailed := false, prev := (s.lastOf.find? (fun p => decide (p.1 = src))).map (·.2), tasks := []
    descBad := decide (bitsOf d 67 29 ≠ 0 ∨ bitsOf d 57 7 ≠ 0 ∨ bitsOf d 1 5 ≠ 0), daddr := daddr, resv := n, hold := hold, fill := none, got := [] }

/-- The machine with that launch. -/
def launched (s : State) (x : Nat) (src : Source) (d daddr : Nat) (hold : Tbl Nat) (n : Nat) : State :=
  { s with
    launches := tblSet s.nextLaunch (launchOf s x src d daddr hold n) s.launches
    lastOf := (src, s.nextLaunch) :: s.lastOf.filter (fun p => decide (p.1 ≠ src))
    nextLaunch := s.nextLaunch + 1 }

theorem submitLaunch_of_room {n : Nat} (hf : ¬poolFull s n = true) (x : Nat) (src : Source) (d daddr : Nat) (hold : Tbl Nat) :
    submitLaunch s x src d daddr hold n = (launched s x src d daddr hold n, true) := if_neg hf

/-- How many tasks the launch brings, where a thread does not know it yet, is asked of the header. -/
theorem submitThread_of_unknown {bs : List Byte} (hp : ∀ m, th.peek ≠ some (descGraph (leNat bs), m)) (x : Nat) :
    submitThread s t th bs x =
      match peekTasks s th.ctx (descGraph (leNat bs)) (.thread t 1) with
      | (s, .asks k) => waitAt s t (.peer k)
      | (s, .tasks n) =>
        match submitLaunch s th.ctx (.thread t) (leNat bs) x (commandCounts s t) n with
        | (s, true) => retire (modThread s t (fun th => { th with peek := none })) t
        | (s, false) => waitAt s t (.full (.pool n)) := by
  have hnone : th.peek.filter (fun p => p.1 == descGraph (leNat bs)) = none := by
    rw [Option.filter_eq_none_iff]
    rintro ⟨g, m⟩ hpeek hg
    obtain rfl : g = _ := eq_of_beq hg
    exact hp m hpeek
  simp only [submitThread, hnone] <;> rfl

theorem submitThread_of_known {bs : List Byte} {n : Nat} (hp : th.peek = some (descGraph (leNat bs), n)) (x : Nat) :
    submitThread s t th bs x =
      match submitLaunch s th.ctx (.thread t) (leNat bs) x (commandCounts s t) n with
      | (s, true) => retire (modThread s t (fun th => { th with peek := none })) t
      | (s, false) => waitAt s t (.full (.pool n)) := by
  simp only [submitThread, hp, Option.filter_some, beq_self_eq_true, if_true] <;> rfl

theorem submitThread_of_tasks {bs : List Byte} {n : Nat} (hp : th.peek = some (descGraph (leNat bs), n) ∨
    ((∀ m, th.peek ≠ some (descGraph (leNat bs), m)) ∧ peekTasks s th.ctx (descGraph (leNat bs)) (.thread t 1) = (s, .tasks n))) (x : Nat) :
    submitThread s t th bs x =
      match submitLaunch s th.ctx (.thread t) (leNat bs) x (commandCounts s t) n with
      | (s, true) => retire (modThread s t (fun th => { th with peek := none })) t
      | (s, false) => waitAt s t (.full (.pool n)) := by
  rcases hp with hknown | ⟨hunknown, hask⟩
  · exact submitThread_of_known hknown x
  · rw [submitThread_of_unknown hunknown, hask]

/-- A completion of a thread whose state changes with it. -/
theorem retire_modThread (h : tblGet t s.threads = some th) (f : Thread → Thread) : retire (modThread s t f) t = completed s t (f th) := by
  rw [modThread_of h, retire_of (th := f th) (by simp), completed, completedAt_modThread, completed]

theorem retireWith_modThread (h : tblGet t s.threads = some th) (f : Thread → Thread) (d : BitVec 5) (v : Word) :
    retireWith (modThread s t f) t d v = resulted s t (f th) d v := by
  rw [modThread_of h, retireWith_of (th := f th) (by simp), resulted, completed, completedAt_modThread, resulted, completed]

/-! ### Arming and awaiting (R248, R249) -/

theorem execSarm_of_descAt (h : Running s t th) {bs : List Byte} (hd : DescAt s t th (regGet th a) 64 bs) {c : Ctx} (hc : ctxOf s th.ctx = some c) :
    let g := leNat (bs.take 8)
    let r := issueReason [(1, ((bs.drop 12).take 20).any (fun v => v ≠ 0)), (9, decide (g % 64 ≠ 0))]
    let consts := (List.range 8).map (fun k => BitVec.ofNat 32 (leNat ((bs.drop (32 + 4 * k)).take 4)))
    let fm := newForm s th.ctx th.launch th.task c.nextForm (some t) (some (clusterOf t)) g (leNat ((bs.drop 8).take 4)) consts th.prio
    let th1 := { th with armed := lastN 16 (th.armed ++ [(c.nextForm, 3)]), openForms := setAdd c.nextForm th.openForms }
    execSarm a b s = .next (if r ≠ 0 then raiseTrap s t ⟨6, r, 0⟩
      else if 8 ≤ th.openForms.length then waiting s t th (.full .armed)
      else resulted (modCtx (addForm s fm) th.ctx (fun c => { c with nextForm := c.nextForm + 1 })) t th1 b (BitVec.ofNat 64 c.nextForm)) := by
  intro g r consts fm th1
  have harmed : modCtx (addForm s fm) th.ctx (fun d => { d with nextForm := c.nextForm + 1 }) =
      modCtx (addForm s fm) th.ctx (fun d => { d with nextForm := d.nextForm + 1 }) := by
    have hc' : ctxOf (addForm s fm) th.ctx = some c := hc
    rw [modCtx_of hc', modCtx_of hc']
  have hresult := retireWith_modThread (s := modCtx (addForm s fm) th.ctx (fun d => { d with nextForm := c.nextForm + 1 })) h.get
    (fun th => { th with armed := lastN 16 (th.armed ++ [(c.nextForm, 3)]), openForms := setAdd c.nextForm th.openForms }) b
    (BitVec.ofNat 64 c.nextForm)
  rw [execSarm, onThread_of h, readDesc_of_descAt hd, ← waitAt_of h.get, ← harmed, ← hresult]
  simp only [hc] <;> rfl

theorem execFwait_of (h : Running s t th) : execFwait a b s = .next (match th.armed.find? (fun p => decide (p.1 = (regGet th a).toNat)) with
    | none => resulted s t th b 2
    | some p => if p.2 = 3 then waiting s t th .retry else resulted s t th b (BitVec.ofNat 64 p.2)) := by
  rw [execFwait, onThread_of h]
  simp only [retireWith_of h.get, waitAt_of h.get] <;> rfl

end

/-- Settles O27: `glaunch` by where its descriptor lies and by what the pool has room for, `sarm` by the reserved bytes and the thread's open
formations, `fwait` by the thread's list. -/
theorem launchInstructions : Obligations.LaunchInstructions := by
  unfold Obligations.LaunchInstructions
  intro s t th a b h x
  refine ⟨by simp [decodeControl, decodeMajor36], by simp [decodeControl, decodeMajor36], by simp [decodeControl, decodeMajor36],
    execGlaunch_misaligned h, execGlaunch_of_posted h, ?launch, ?arm, ?wait⟩
  case launch =>
    intro ha hp c hc r d graph ask unknown last l full
    have hexec := execGlaunch_of_placed h ha hp hc
    refine ⟨fun hr => hexec.trans (congrArg _ (if_pos hr)), fun n hr hs hn => ?tasks, fun s' key hr hs hu hask => ?asks⟩
    case tasks =>
      have hsub := submitThread_of_tasks hn x.toNat
      refine ⟨fun hf => ?_, fun hf => ?_⟩ <;> refine hexec.trans (congrArg _ ((if_neg (not_not.2 hr)).trans ?_)) <;> rw [hs, hsub]
      · rw [submitLaunch_of_full (poolFull_iff.2 hf)]
        exact waitAt_of h.get _
      · rw [submitLaunch_of_room (mt poolFull_iff.1 hf)]
        refine (retire_modThread (s := launched s th.ctx _ d x.toNat (commandCounts s t) n) h.get _).trans ?_
        simp only [l, hs]
        rfl
    case asks =>
      refine hexec.trans (congrArg _ ((if_neg (not_not.2 hr)).trans ?_))
      rw [hs, submitThread_of_unknown hu, show peekTasks s th.ctx (descGraph (leNat r.2.bytes)) (.thread t 1) = (s', .asks key) from hask]
  case arm =>
    intro bs c hd hc g r consts fm th1
    have hexec := execSarm_of_descAt (b := b) h hd hc
    exact ⟨fun hr => hexec.trans (congrArg _ (if_pos hr)),
      fun hr h8 => hexec.trans (congrArg _ ((if_neg (not_not.2 hr)).trans (if_pos h8))),
      fun hr h8 => hexec.trans (congrArg _ ((if_neg (not_not.2 hr)).trans (if_neg (Nat.not_le.2 h8))))⟩
  case wait =>
    intro known
    have hexec := execFwait_of (a := a) (b := b) h
    refine ⟨fun hk => ?_, fun p hk hp => ?_, fun p hk hp => ?_⟩ <;> refine hexec.trans ?_ <;> rw [show th.armed.find? _ = _ from hk]
    · exact congrArg _ (if_neg hp)
    · exact congrArg _ (if_pos hp)

end Sys2Proof.Machine

/-! PROOFS. Membership sets: joining, leaving, arriving and waiting for phases (O31). -/

namespace Sys2Proof.Machine

/-! ### What resuming the waiters of a set leaves as it is -/

@[simp] theorem completedAt_sets (s : State) (t : Nat) (th : Thread) (pc : Word) : (completedAt s t th pc).sets = s.sets := by
  simp [completedAt]

@[simp] theorem retireWith_sets (s : State) (t : Nat) (d : BitVec 5) (v : Word) : (retireWith s t d v).sets = s.sets := by
  cases h : tblGet t s.threads with
  | none => simp [retireWith, retire, modThread, tblMod_none h, h]
  | some th => simp [retireWith_of h, resulted, completed]

@[simp] theorem resumeOne_sets (key status : Nat) (told : Nat → Bool → Option Nat) (s : State) (t : Nat) :
    (resumeOne key status told s t).sets = s.sets := by
  unfold resumeOne
  split
  · rfl
  · split
    · split
      · rfl
      · split
        · simp
        · rfl
    · split <;> rfl
    · rfl

@[simp] theorem resumeWaiters_sets (s : State) (key status : Nat) (told : Nat → Bool → Option Nat) :
    (resumeWaiters s key status told).sets = s.sets := by
  have hfold : ∀ (l : List Nat) (s : State), (l.foldl (resumeOne key status told) s).sets = s.sets := by
    intro l
    induction l with
    | nil => exact fun _ => rfl
    | cons t l ih => exact fun s => (ih _).trans (resumeOne_sets ..)
  exact hfold _ s

/-! ### Phases (R46, R265, R266) -/

/-- Phase `p` has completed where the current one is `cur`: it lies up to 2^31 phases back. -/
def phasePast (cur p : Nat) : Bool :=
  decide (1 ≤ (cur + 2 ^ 32 - p % 2 ^ 32) % 2 ^ 32 ∧ (cur + 2 ^ 32 - p % 2 ^ 32) % 2 ^ 32 ≤ 2 ^ 31)

/-- A set moves to its next phase, and those who wait for one that is over go on. -/
def phaseMoved (key : Nat) (s : State) (o : SetObj) : State :=
  resumeWaiters { s with sets := tblSet key o s.sets } key 0 (fun q _ => if phasePast o.phase q then some q else none)

theorem phaseMoved_get (key : Nat) (s : State) (o : SetObj) : tblGet key (phaseMoved key s o).sets = some o := by
  simp [phaseMoved]

section
variable {s : State} {key : Nat} {o : SetObj}

theorem completePhases_of_incomplete (h : tblGet key s.sets = some o) (ha : allArrived o = false) (f : Nat) :
    completePhases s key f = s := by
  cases f with
  | zero => rfl
  | succ f => simp [completePhases, h, ha]

theorem completePhases_of_complete (h : tblGet key s.sets = some o) (ha : allArrived o = true) (f : Nat) :
    completePhases s key (f + 1) =
      if o.members.isEmpty then phaseMoved key s (nextPhase o) else completePhases (phaseMoved key s (nextPhase o)) key f := by
  simp only [completePhases, h, ha]
  rfl

theorem settleSet_of_incomplete (h : tblGet key s.sets = some o) (ha : allArrived o = false) : settleSet s key = s :=
  completePhases_of_incomplete h ha 2

theorem settleSet_of_complete_once (h : tblGet key s.sets = some o) (ha : allArrived o = true)
    (hn : (!o.members.isEmpty && allArrived (nextPhase o)) = false) : settleSet s key = phaseMoved key s (nextPhase o) := by
  rw [settleSet, completePhases_of_complete h ha]
  split
  · rfl
  · next hm => exact completePhases_of_incomplete (phaseMoved_get ..) (by simpa [hm] using hn) 1

theorem settleSet_of_complete_twice (h : tblGet key s.sets = some o) (ha : allArrived o = true)
    (hn : (!o.members.isEmpty && allArrived (nextPhase o)) = true) :
    settleSet s key = phaseMoved key (phaseMoved key s (nextPhase o)) (nextPhase (nextPhase o)) := by
  obtain ⟨hm, hnext⟩ := Bool.and_eq_true_iff.1 hn
  rw [settleSet, completePhases_of_complete h ha, if_neg (by simpa using hm), completePhases_of_complete (phaseMoved_get ..) hnext]
  split <;> rfl

/-- The check of a set's phases keeps the set. -/
theorem completePhases_keeps (h : tblGet key s.sets = some o) (f : Nat) : (tblGet key (completePhases s key f).sets).isSome = true := by
  induction f generalizing s o with
  | zero => simp [completePhases, h]
  | succ f ih =>
    cases ha : allArrived o with
    | false => simp [completePhases_of_incomplete h ha, h]
    | true =>
      rw [completePhases_of_complete h ha]
      split
      · simp [phaseMoved_get]
      · exact ih (phaseMoved_get ..)

/-! ### Leaving (R45, R46, R277) -/

/-- The set once thread `u` has left it. -/
def setWithout (o : SetObj) (u : Nat) : SetObj :=
  { o with
    members := setDel u o.members
    required := if setHas u o.arrived then o.required else setDel u o.required
    arrivedNext := setDel u o.arrivedNext }

theorem quitSet_of_others (h : tblGet key s.sets = some o) {u : Nat} (hm : (setWithout o u).members ≠ []) :
    quitSet s key u = settleSet { s with sets := tblSet key (setWithout o u) s.sets } key := by
  have hleave : leaveSet s key u = settleSet { s with sets := tblSet key (setWithout o u) s.sets } key := by
    simp only [leaveSet, h]
    exact if_neg (by simpa [setWithout] using hm)
  have hkept := completePhases_keeps (s := { s with sets := tblSet key (setWithout o u) s.sets }) (key := key) (tblGet_tblSet ..) 2
  simp only [quitSet, hleave]
  exact if_pos hkept

theorem tblGet_tblDel_of_keysAbove {α : Type} {lo : Nat} {t : Tbl α} (h : keysAbove lo t = true) (k : Nat) : tblGet k (tblDel k t) = none := by
  induction t generalizing lo with
  | nil => rfl
  | cons p t ih =>
    obtain ⟨j, v⟩ := p
    obtain ⟨-, hrest⟩ := Bool.and_eq_true_iff.1 h
    rw [tblDel]
    split
    · next hj =>
      subst hj
      cases t with
      | nil => rfl
      | cons q t =>
        have hq : j + 1 ≤ q.1 := of_decide_eq_true (Bool.and_eq_true_iff.1 hrest).1
        simp only [tblGet]
        rw [if_neg (by omega), if_pos (by omega)]
    · next hj =>
      split
      · next hk => simp only [tblGet]; rw [if_neg hj, if_pos hk]
      · next hk => simp only [tblGet]; rw [if_neg hj, if_neg hk]; exact ih hrest

theorem quitSet_of_last (h : tblGet key s.sets = some o) (hk : keysAbove 0 s.sets = true) {u : Nat} (hm : (setWithout o u).members = []) :
    quitSet s key u = releaseOwner (resumeWaiters { s with sets := tblDel key s.sets } key 1 (fun q _ => some q)) (key / 256) u (.set key) := by
  have hleave : leaveSet s key u = resumeWaiters { s with sets := tblDel key s.sets } key 1 (fun q _ => some q) := by
    simp only [leaveSet, h]
    exact if_pos (by simpa [setWithout] using hm)
  simp only [quitSet, hleave]
  exact if_neg (by simp [tblGet_tblDel_of_keysAbove hk])

theorem isMember_of_get (h : tblGet key s.sets = some o) (t : Nat) : isMember s key t = setHas t o.members := by
  simp [isMember, setAt, h]
theorem joinSet_of_get (h : tblGet key s.sets = some o) (t : Nat) :
    joinSet s key t = { s with sets := tblSet key { o with members := setAdd t o.members } s.sets } := by
  simp only [joinSet, h]
theorem joinSet_of_none (h : tblGet key s.sets = none) (t : Nat) :
    joinSet s key t = { s with sets := tblSet key ⟨[t], 0, [t], [], []⟩ s.sets } := by
  simp only [joinSet, h]
theorem isMember_of_none (h : tblGet key s.sets = none) (t : Nat) : isMember s key t = false := by
  simp [isMember, setAt, h]

theorem revokePhase_of_get (h : tblGet key s.sets = some o) :
    revokePhase s key = resumeWaiters
      { s with sets := tblSet key { o with phase := (o.phase + 1) % 2 ^ 32, required := o.members, arrived := [], arrivedNext := [] } s.sets } key 1
      (fun q member => if phasePast o.phase q then none else some (if member then o.phase else q)) := by
  simp only [revokePhase, h]
  rfl

/-! ### Arriving (R265, R266) -/

/-- An entry of `barwHeld` is that of an arrival of this instruction that still stands. -/
def arrivalStands (th : Thread) (o : SetObj) (t key : Nat) (e : Nat × Nat × Nat) : Prop :=
  e.1 = th.pc.toNat ∧ e.2.1 = key ∧
    ((e.2.2 = o.phase ∧ setHas t o.arrived = true) ∨ (e.2.2 = (o.phase + 1) % 2 ^ 32 ∧ setHas t o.arrivedNext = true))

/-- The same as the model tests it. -/
def arrivalHeld (th : Thread) (o : SetObj) (t key : Nat) (e : Nat × Nat × Nat) : Bool :=
  decide (e.1 = th.pc.toNat ∧ e.2.1 = key) &&
    ((decide (e.2.2 = o.phase) && setHas t o.arrived) || (decide (e.2.2 = (o.phase + 1) % 2 ^ 32) && setHas t o.arrivedNext))

theorem heldArrival_eq (th : Thread) (t : Nat) : heldArrival th o t key = (th.barwHeld.find? (arrivalHeld th o t key)).map (·.2.2) := rfl

theorem arrivalHeld_iff {th : Thread} {t : Nat} {e : Nat × Nat × Nat} : arrivalHeld th o t key e = true ↔ arrivalStands th o t key e := by
  simp [arrivalHeld, arrivalStands, and_assoc]

theorem heldArrival_of_fresh {th : Thread} {t : Nat} (h : ∀ e ∈ th.barwHeld, ¬arrivalStands th o t key e) :
    heldArrival th o t key = none := by
  rw [heldArrival_eq, List.find?_eq_none.2 fun e he hs => h e he (arrivalHeld_iff.1 hs)]
  rfl

theorem heldArrival_of_stands {th : Thread} {t : Nat} {e : Nat × Nat × Nat} (he : e ∈ th.barwHeld) (hs : arrivalStands th o t key e)
    (huniq : ∀ e' ∈ th.barwHeld, arrivalStands th o t key e' → e' = e) : heldArrival th o t key = some e.2.2 := by
  obtain ⟨e', hfind⟩ := Option.isSome_iff_exists.1 (List.find?_isSome.2 ⟨e, he, arrivalHeld_iff.2 hs⟩)
  have heq : e' = e := huniq e' (List.mem_of_find?_eq_some hfind) (arrivalHeld_iff.1 (List.find?_some hfind))
  rw [heldArrival_eq, hfind, heq]
  rfl

/-- A member's arrival is for the current phase. -/
def arrivesNow (o : SetObj) (t : Nat) : Bool := setHas t o.required && !setHas t o.arrived

/-- The set after an arrival for phase `q`. -/
def setArrived (o : SetObj) (t q : Nat) : SetObj :=
  if q = o.phase then { o with arrived := setAdd t o.arrived } else { o with arrivedNext := setAdd t o.arrivedNext }

theorem arrivalPhase_eq (o : SetObj) (t : Nat) :
    arrivalPhase o t = if !arrivesNow o t && setHas t o.arrivedNext then none
      else some (if arrivesNow o t then o.phase else (o.phase + 1) % 2 ^ 32) := by
  unfold arrivalPhase
  change (if arrivesNow o t then _ else _) = _
  cases arrivesNow o t <;> simp

theorem recordArrival_of_get (h : tblGet key s.sets = some o) (t q : Nat) :
    recordArrival s key t q = { s with sets := tblSet key (setArrived o t q) s.sets } := by
  simp only [recordArrival, h, setArrived]
  split <;> rfl

theorem arrive_of_posted {th : Thread} {t : Nat} {f : State → Nat → State} (ht : tblGet t s.threads = some th) (hp : th.posted ≠ []) :
    arrive s t th key o f = waiting s t th .retry := by
  have : storesDone th = false := by simpa [storesDone] using hp
  simp [arrive, this, waitAt_of ht]

theorem arrive_of_twice {th : Thread} {t : Nat} {f : State → Nat → State} (ht : tblGet t s.threads = some th) (hp : th.posted = [])
    (h2 : (!arrivesNow o t && setHas t o.arrivedNext) = true) : arrive s t th key o f = waiting s t th (.arrive key o.phase) := by
  have : storesDone th = true := by simp [storesDone, hp]
  simp [arrive, this, arrivalPhase_eq, h2, waitAt_of ht]

theorem arrive_of_once {th : Thread} {t : Nat} {f : State → Nat → State} (h : tblGet key s.sets = some o) (hp : th.posted = [])
    (h1 : (!arrivesNow o t && setHas t o.arrivedNext) = false) :
    arrive s t th key o f =
      let q := if arrivesNow o t then o.phase else (o.phase + 1) % 2 ^ 32
      settleSet (f { s with sets := tblSet key (setArrived o t q) s.sets } q) key := by
  have : storesDone th = true := by simp [storesDone, hp]
  simp [arrive, this, arrivalPhase_eq, h1, recordArrival_of_get h]

end

/-! ### The instructions on a set (R264) -/

section
variable {s : State} {t : Nat} {th : Thread} {d a : BitVec 5} {key : Nat}

theorem onSet_of_small (h : Running s t th) (hn : (regGet th a).toNat < 256) (hk : th.ctx * 256 + (regGet th a).toNat = key)
    (f : Nat → Thread → Nat → State) : onSet s d a f = .next (f t th key) := by
  rw [onSet, onThread_of h, setNamed, if_pos hn, ← hk]
  rfl

theorem onSet_of_large (h : Running s t th) (hn : 256 ≤ (regGet th a).toNat) (f : Nat → Thread → Nat → State) :
    onSet s d a f = .next (resulted s t th d 3) := by
  rw [onSet, onThread_of h, setNamed, if_neg (Nat.not_lt.2 hn), ← retireWith_of h.get]

theorem onPhase_of_small (h : Running s t th) (hn : (regGet th a).toNat < 256) (hk : th.ctx * 256 + (regGet th a).toNat = key)
    (low : Thread → Nat) (f : Nat → Thread → Nat → State) : onPhase s d a low f = .next (f t th key) := by
  rw [onPhase, onThread_of h, setNamed, if_pos hn, ← hk]
  rfl

theorem phaseResult_of_lt {p : Nat} (hp : p < 2 ^ 32) (k : Nat) : phaseResult k p = BitVec.ofNat 64 (k * 2 ^ 32 + p) := by
  rw [phaseResult, Nat.mod_eq_of_lt hp]

theorem onPhase_of_large (h : Running s t th) (hn : 256 ≤ (regGet th a).toNat) (low : Thread → Nat) (hl : low th < 2 ^ 32)
    (f : Nat → Thread → Nat → State) :
    onPhase s d a low f = .next (resulted s t th d (BitVec.ofNat 64 (3 * 2 ^ 32 + low th))) := by
  rw [onPhase, onThread_of h, setNamed, if_neg (Nat.not_lt.2 hn), ← phaseResult_of_lt hl, ← retireWith_of h.get]

/-! #### A set that does not exist -/

section
variable (h : Running s t th) (hn : (regGet th a).toNat < 256) (hk : th.ctx * 256 + (regGet th a).toNat = key) (hno : tblGet key s.sets = none)
include h hn hk hno

theorem execSjoin_of_none (h8 : (setsOf s t).length < 8) :
    execSjoin d a s = .next (resulted { s with sets := tblSet key ⟨[t], 0, [t], [], []⟩ s.sets } t th d 0) := by
  rw [execSjoin, onSet_of_small h hn hk, isMember_of_none hno, if_neg Bool.false_ne_true, if_neg (Nat.not_le.2 h8), joinSet_of_none hno]
  exact congrArg _ (retireWith_of (s := { s with sets := tblSet key ⟨[t], 0, [t], [], []⟩ s.sets }) h.get d 0)

theorem execSjoin_of_none_full (h8 : 8 ≤ (setsOf s t).length) : execSjoin d a s = .next (resulted s t th d 2) := by
  rw [execSjoin, onSet_of_small h hn hk, isMember_of_none hno, if_pos h8, ← retireWith_of h.get]
  rfl

theorem execSleave_of_none : execSleave d a s = .next (resulted s t th d 1) := by
  rw [execSleave, onSet_of_small h hn hk, isMember_of_none hno, ← retireWith_of h.get]
  rfl

theorem execBinit_of_none : execBinit d a s = .next (resulted s t th d 1) := by
  rw [execBinit, onSet_of_small h hn hk, setAt, hno, ← retireWith_of h.get]
  rfl

theorem execSstat_of_none : execSstat d a s = .next (resulted s t th d 0) := by
  rw [execSstat, onSet_of_small h hn hk, setAt, hno, ← retireWith_of h.get]

theorem execBarw_of_none : execBarw d a s = .next (resulted s t th d (phaseResult 2 0)) := by
  rw [execBarw, onPhase_of_small h hn hk, setAt, hno, ← retireWith_of h.get]

theorem execBara_of_none : execBara d a s = .next (resulted s t th d (phaseResult 2 0)) := by
  rw [execBara, onPhase_of_small h hn hk, setAt, hno, ← retireWith_of h.get]

theorem execBarwp_of_none (b : BitVec 5) :
    execBarwp d a b s = .next (resulted s t th d (phaseResult 2 ((regGet th b).toNat % 2 ^ 32))) := by
  rw [execBarwp, onPhase_of_small h hn hk, setAt, hno, ← retireWith_of h.get]

end

/-! #### A set that exists -/

section
variable {o : SetObj} (h : Running s t th) (hn : (regGet th a).toNat < 256) (hk : th.ctx * 256 + (regGet th a).toNat = key)
  (hget : tblGet key s.sets = some o)
include h hn hk hget

theorem execSjoin_of_set (hm : setHas t o.members = false) (h8 : (setsOf s t).length < 8) :
    execSjoin d a s = .next (resulted { s with sets := tblSet key { o with members := setAdd t o.members } s.sets } t th d 0) := by
  rw [execSjoin, onSet_of_small h hn hk, isMember_of_get hget, hm, if_neg Bool.false_ne_true, if_neg (Nat.not_le.2 h8), joinSet_of_get hget]
  exact congrArg _ (retireWith_of (s := { s with sets := tblSet key { o with members := setAdd t o.members } s.sets }) h.get d 0)

theorem execSjoin_of_member (hm : setHas t o.members = true) : execSjoin d a s = .next (resulted s t th d 1) := by
  rw [execSjoin, onSet_of_small h hn hk, isMember_of_get hget, hm, ← retireWith_of h.get]
  rfl

theorem execSleave_of_stranger (hm : setHas t o.members = false) : execSleave d a s = .next (resulted s t th d 1) := by
  rw [execSleave, onSet_of_small h hn hk, isMember_of_get hget, hm, ← retireWith_of h.get]
  rfl

theorem execSleave_of_member (hm : setHas t o.members = true) :
    execSleave d a s = .next (if th.posted = [] then quitSet (resulted s t th d 0) key t else waiting s t th .retry) := by
  rw [execSleave, onSet_of_small h hn hk, isMember_of_get hget, hm, ← retireWith_of h.get, ← waitAt_of h.get]
  cases hp : th.posted <;> simp [storesDone, hp]

theorem execBinit_of_set : execBinit d a s = .next (revokePhase (resulted s t th d 0) key) := by
  rw [execBinit, onSet_of_small h hn hk, setAt, hget, ← retireWith_of h.get]
  rfl

theorem execSstat_of_set :
    execSstat d a s = .next (resulted s t th d (BitVec.ofNat 64 (o.members.length * 2 ^ 32 + o.phase))) := by
  rw [execSstat, onSet_of_small h hn hk, setAt, hget, ← retireWith_of h.get]

theorem execBarw_of_stranger (hm : setHas t o.members = false) : execBarw d a s = .next (resulted s t th d (phaseResult 2 o.phase)) := by
  rw [execBarw, onPhase_of_small h hn hk, setAt, hget]
  simp only [hm, ← retireWith_of h.get]
  rfl

theorem execBara_of_stranger (hm : setHas t o.members = false) : execBara d a s = .next (resulted s t th d (phaseResult 2 o.phase)) := by
  rw [execBara, onPhase_of_small h hn hk, setAt, hget]
  simp only [hm, ← retireWith_of h.get]
  rfl

/-- A `barw` executed again waits for the arrival that it has made. -/
theorem execBarw_of_held (hm : setHas t o.members = true) {p : Nat} (hh : heldArrival th o t key = some p) :
    execBarw d a s = .next (waiting s t th (.phase key p true d.toNat)) := by
  rw [execBarw, onPhase_of_small h hn hk, setAt, hget]
  simp only [hm, hh, ← waitAt_of h.get]
  rfl

theorem execBarw_of_fresh (hm : setHas t o.members = true) (hh : heldArrival th o t key = none) :
    execBarw d a s = .next (arrive s t th key o (fun s p => waitAt s t (.phase key p true d.toNat))) := by
  rw [execBarw, onPhase_of_small h hn hk, setAt, hget]
  simp only [hm, hh]
  rfl

theorem execBara_of_member (hm : setHas t o.members = true) :
    execBara d a s = .next (arrive s t th key o (fun s p => retireWith s t d (phaseResult 0 p))) := by
  rw [execBara, onPhase_of_small h hn hk, setAt, hget]
  simp only [hm]
  rfl

theorem execBarwp_of_set (b : BitVec 5) :
    execBarwp d a b s = .next (if phasePast o.phase ((regGet th b).toNat % 2 ^ 32)
      then resulted s t th d (phaseResult 0 ((regGet th b).toNat % 2 ^ 32))
      else waiting s t th (.phase key ((regGet th b).toNat % 2 ^ 32) false d.toNat)) := by
  rw [execBarwp, onPhase_of_small h hn hk, setAt, hget, ← retireWith_of h.get, ← waitAt_of h.get]
  rfl

end

end

/-- What a thread that waits for a phase is told. -/
theorem resumeOne_of_phase {s : State} {u key q gd : Nat} {member : Bool} {v : Thread} (hv : tblGet u s.threads = some v)
    (hw : v.wait = .phase key q member gd) (k : Nat) (told : Nat → Bool → Option Nat) :
    resumeOne key k told s u = match told q member with
      | some r => retireWith { s with threads := tblSet u { v with
          barwHeld := v.barwHeld.filter (fun e => !decide (e.1 = v.pc.toNat ∧ e.2.1 = key)) } s.threads } u
          (BitVec.ofNat 5 gd) (BitVec.ofNat 64 (k * 2 ^ 32 + r % 2 ^ 32))
      | none => s := by
  simp only [resumeOne, hv, hw, ne_eq, not_true_eq_false, if_false]
  cases told q member with
  | none => rfl
  | some r => simp only [modThread_of hv, otherBarw, phaseResult, hw]

/-- Settles O31: each instruction by what it does with the set that its register names, and the ends of phases by the settling of a set. -/
theorem setsAndPhases : Obligations.SetsAndPhases := by
  unfold Obligations.SetsAndPhases
  intro s t th d a b h n key word status p past
  have hp : p < 2 ^ 32 := Nat.mod_lt _ (by decide)
  have hget := h.get
  refine ⟨by simp [word, decodeControl, decodeMajor3B, wordA_low], by simp [word, decodeControl, decodeMajor3B, wordA_low],
    by simp [word, decodeControl, decodeMajor3B, wordA_low], by simp [word, decodeControl, decodeMajor3B, wordA_low],
    by simp [word, decodeControl, decodeMajor3B, wordA_low], by simp [word, decodeControl, decodeMajor3B, wordA_low],
    by simp [word, decodeControl, decodeMajor3B, wordA_low], ?large, ?absent, ?present⟩
  case large =>
    intro hn
    refine ⟨?_, onPhase_of_large h hn (fun _ => 0) (by decide) _, onPhase_of_large h hn (fun _ => 0) (by decide) _,
      onPhase_of_large h hn (fun th => (regGet th b).toNat % 2 ^ 32) hp _⟩
    intro i hi
    simp only [List.mem_cons, List.not_mem_nil, or_false] at hi
    rcases hi with rfl | rfl | rfl | rfl <;> exact onSet_of_large h hn _
  case absent =>
    intro hn hno
    refine ⟨execSjoin_of_none h hn rfl hno, execSjoin_of_none_full h hn rfl hno, execSleave_of_none h hn rfl hno, execBinit_of_none h hn rfl hno,
      execSstat_of_none h hn rfl hno, execBarw_of_none h hn rfl hno, execBara_of_none h hn rfl hno, ?_⟩
    exact (execBarwp_of_none h hn rfl hno b).trans (by rw [phaseResult_of_lt hp])
  case present =>
    intro hn o hset ho
    have hphase (k : Nat) : phaseResult k o.phase = status k o.phase := phaseResult_of_lt ho k
    refine ⟨execSjoin_of_set h hn rfl hset, execSjoin_of_member h hn rfl hset, fun hm => ⟨execSleave_of_stranger h hn rfl hset hm,
        hphase 2 ▸ execBarw_of_stranger h hn rfl hset hm, hphase 2 ▸ execBara_of_stranger h hn rfl hset hm⟩,
      fun hm hp => (execSleave_of_member h hn rfl hset hm).trans (congrArg _ (if_pos hp)),
      fun hm hp => (execSleave_of_member h hn rfl hset hm).trans (congrArg _ (if_neg hp)), execBinit_of_set h hn rfl hset,
      fun s' hs' => ⟨by simp [revokePhase_of_get hs'], revokePhase_of_get hs'⟩, execSstat_of_set h hn rfl hset, ?arrivals⟩
    intro stands fresh
    refine ⟨fun hm e he hs huniq => execBarw_of_held h hn rfl hset hm (heldArrival_of_stands he hs huniq), fun hm hpost => ⟨fun hf => ?_, ?_⟩,
      ?arriving, ?past, ?notPast, ?settling, ?told⟩
    · rw [← arrive_of_posted h.get hpost]
      exact execBarw_of_fresh h hn rfl hset hm (heldArrival_of_fresh hf)
    · rw [← arrive_of_posted h.get hpost]
      exact execBara_of_member h hn rfl hset hm
    case past =>
      intro hpast
      exact (execBarwp_of_set h hn rfl hset b).trans ((congrArg _ (if_pos hpast)).trans (by rw [phaseResult_of_lt hp]))
    case notPast =>
      intro hpast
      exact (execBarwp_of_set h hn rfl hset b).trans (congrArg _ (if_neg (Bool.eq_false_iff.1 hpast)))
    case arriving =>
      intro hm hpost cur twice q o1 s1
      refine ⟨fun h2 => ⟨fun hf => ?_, ?_⟩, fun h1 => ⟨fun hf => ?_, ?_⟩⟩
      · rw [← arrive_of_twice h.get hpost h2]
        exact execBarw_of_fresh h hn rfl hset hm (heldArrival_of_fresh hf)
      · rw [← arrive_of_twice h.get hpost h2]
        exact execBara_of_member h hn rfl hset hm
      · refine (execBarw_of_fresh h hn rfl hset hm (heldArrival_of_fresh hf)).trans (congrArg _ ?_)
        exact (arrive_of_once hset hpost h1).trans (congrArg (settleSet · key) (waitAt_of (s := s1) h.get _))
      · have hq : q < 2 ^ 32 := by
          simp only [q]
          split
          · exact ho
          · exact Nat.mod_lt _ (by decide)
        refine (execBara_of_member h hn rfl hset hm).trans (congrArg _ ?_)
        refine (arrive_of_once hset hpost h1).trans (congrArg (settleSet · key) ?_)
        exact (retireWith_of (s := s1) h.get d _).trans (congrArg (resulted s1 t th d) (phaseResult_of_lt hq 0))
    case settling =>
      intro s' hs' next moved o1 all again
      refine ⟨fun ha => settleSet_of_incomplete hs' ha, fun ha hag => settleSet_of_complete_once hs' ha hag,
        fun ha hag => settleSet_of_complete_twice hs' ha hag, ?_⟩
      intro u left
      exact ⟨fun hm => quitSet_of_others hs' hm, fun hm hk => quitSet_of_last hs' hk hm⟩
    case told =>
      intro s' k told u v q gd member hv hw
      exact resumeOne_of_phase hv hw k told

end Sys2Proof.Machine

/-! PROOFS. The firings of the fourteen memory elements (O40). -/

namespace Sys2Proof.Machine

/-! ### Memory element words (R167, R292) -/

section
variable (op : Nat) (o p q : BitVec 6) (z sp : BitVec 3)

theorem memWord_op : (memWord op o p q z sp).extractLsb' 24 8 = BitVec.ofNat 8 op := by
  rw [memWord, field_high _ _ _ _ (by decide), field_high _ _ _ _ (by decide), field_high _ _ _ _ (by decide), field_high _ _ _ _ (by decide),
    field_high _ _ _ _ (by decide)]; simp
theorem memWord_top : (memWord op o p q z sp).extractLsb' 31 1 = (BitVec.ofNat 8 op).extractLsb' 7 1 := by
  rw [memWord, field_high _ _ _ _ (by decide), field_high _ _ _ _ (by decide), field_high _ _ _ _ (by decide), field_high _ _ _ _ (by decide),
    field_high _ _ _ _ (by decide)]
theorem memWord_own : (memWord op o p q z sp).extractLsb' 18 6 = o := by
  rw [memWord, field_high _ _ _ _ (by decide), field_high _ _ _ _ (by decide), field_high _ _ _ _ (by decide), field_high _ _ _ _ (by decide),
    field_low _ _ _ _ (by decide)]; simp
theorem memWord_pred : (memWord op o p q z sp).extractLsb' 12 6 = p := by
  rw [memWord, field_high _ _ _ _ (by decide), field_high _ _ _ _ (by decide), field_high _ _ _ _ (by decide), field_low _ _ _ _ (by decide)]; simp
theorem memWord_succ : (memWord op o p q z sp).extractLsb' 6 6 = q := by
  rw [memWord, field_high _ _ _ _ (by decide), field_high _ _ _ _ (by decide), field_low _ _ _ _ (by decide)]; simp
theorem memWord_width : (memWord op o p q z sp).extractLsb' 3 3 = z := by
  rw [memWord, field_high _ _ _ _ (by decide), field_low _ _ _ _ (by decide)]; simp
theorem memWord_space : (memWord op o p q z sp).extractLsb' 0 3 = sp := by
  rw [memWord, field_low _ _ _ _ (by decide)]; simp
theorem memWord_low : (memWord op o p q 0#3 1#3).extractLsb' 0 6 = 1#6 := by
  ext i hi
  simp only [memWord, BitVec.getElem_extractLsb', BitVec.getLsbD_append]
  interval_cases i <;> simp

theorem elemOp_memWord : elemOp (memWord op o p q z sp) = op % 256 := by
  rw [elemOp, wordBits_eq_extract, memWord_op, BitVec.toNat_ofNat]
theorem memWidth_memWord : memWidth (memWord op o p q z sp) = z.toNat := by
  rw [memWidth, wordBits_eq_extract, memWord_width]
theorem memSpaceOf_memWord : memSpaceOf (memWord op o p q z sp) = if sp = 0 then .i else if sp = 1 then .v else if sp = 2 then .a else .c := by
  have hall : ∀ sp : BitVec 3, (match sp.toNat with | 0 => Space.i | 1 => .v | 2 => .a | _ => .c) =
      if sp = 0 then .i else if sp = 1 then .v else if sp = 2 then .a else .c := by decide
  rw [memSpaceOf, memSpace, wordBits_eq_extract, memWord_space]
  exact hall sp

/-- A row of the table of R292: the instruction, its opcode, its width and its space. -/
noncomputable def memRows : List (Instr × Nat × BitVec 3 × BitVec 3) :=
  [(.memLd o p q z sp, 0x80, z, sp), (.memLds o p q z sp, 0x81, z, sp), (.memSt o p q z sp, 0x82, z, sp),
   (.memLdwf o p q sp, 0x83, 2, sp), (.memStwe o p q sp, 0x84, 2, sp), (.memLdwk o p q sp, 0x85, 2, sp), (.memAadd o p q sp, 0x86, 2, sp),
   (.memAmax o p q sp, 0x87, 2, sp), (.memAmin o p q sp, 0x88, 2, sp), (.memAswp o p q sp, 0x89, 2, sp), (.memAand o p q sp, 0x8A, 2, sp),
   (.memAor o p q sp, 0x8B, 2, sp), (.memAxor o p q sp, 0x8C, 2, sp), (.memPfch o p q, 0x8D, 0, 1)]

theorem decodeElement_of_memRows {i : Instr} {op : Nat} {z' sp' : BitVec 3} (h : (i, op, z', sp') ∈ memRows o p q z sp) :
    decodeElement (memWord op o p q z' sp') = some i := by
  simp only [memRows, List.mem_cons, Prod.mk.injEq, List.not_mem_nil, or_false] at h
  rcases h with h | h | h | h | h | h | h | h | h | h | h | h | h | h <;> obtain ⟨rfl, rfl, rfl, rfl⟩ := h <;>
    simp [decodeElement, decodeMemWord, memWord_op, memWord_top, memWord_own, memWord_pred, memWord_succ, memWord_width, memWord_space, memWord_low]

theorem exec_of_memRows {i : Instr} {op : Nat} {z' sp' : BitVec 3} (h : (i, op, z', sp') ∈ memRows o p q z sp) (s : State) :
    exec i s = fireMem s (memWord op o p q z' sp') := by
  simp only [memRows, List.mem_cons, Prod.mk.injEq, List.not_mem_nil, or_false] at h
  rcases h with h | h | h | h | h | h | h | h | h | h | h | h | h | h <;> obtain ⟨rfl, rfl, rfl, rfl⟩ := h <;> rfl

theorem opcode_of_memRows {i : Instr} {op : Nat} {z' sp' : BitVec 3} (h : (i, op, z', sp') ∈ memRows o p q z sp) : op < 256 := by
  simp only [memRows, List.mem_cons, Prod.mk.injEq, List.not_mem_nil, or_false] at h
  omega

end

/-! ### The turn of a memory element (R293, R298) -/

section
variable {s : State} {f n : Nat} {fm : Form} {nd : Node} {w : BitVec 32}

theorem onNode_of (h : AtNode s f fm n nd) (g : Nat → Form → Nat → Node → State) : onNode s g = .next (g f fm n nd) := by
  obtain ⟨hcur, hform, hnode⟩ := h
  simp only [onNode, hcur, hform, hnode]

/-- The tokens that stand at the inputs `ports`. -/
def tokensAt (fm : Form) (n : Nat) (ports : List Nat) : List (Nat × Flit) := ports.filterMap (fun p => (tokenAt fm n p 0).map (fun t => (p, t)))

theorem tokensAt_eq {ins : List (Nat × Flit)} (h : ∀ j ∈ ins, tokenAt fm n j.1 0 = some j.2) : tokensAt fm n (ins.map (·.1)) = ins := by
  induction ins with
  | nil => rfl
  | cons j ins ih =>
    have hrest := ih fun k hk => h k (List.mem_cons_of_mem _ hk)
    rw [tokensAt] at hrest ⊢
    rw [List.map_cons, List.filterMap_cons, h j (List.mem_cons_self ..), hrest]
    rfl

theorem tokensAt_short {ports : List Nat} (h : ∃ j ∈ ports, tokenAt fm n j 0 = none) : (tokensAt fm n ports).length < ports.length := by
  obtain ⟨j, hj, hnone⟩ := h
  exact List.length_filterMap_lt_length_iff_exists.2 ⟨j, hj, by simp [hnone]⟩

theorem fireMem_of (h : AtNode s f fm n nd) (ha : able fm nd 1 = true) (hr : memReason w = 0) (hh : holding fm nd = false) :
    fireMem s w = .next (
      let ins := tokensAt fm n (memPorts w)
      if ins.length < (memPorts w).length then s else
      match ins.find? (fun i => tokReason i.2.tok ≠ 0) with
      | some i => badToken s f n i.2.tok
      | none =>
        match ins.map (fun i => i.2.tok) with
        | t :: rest =>
          if isControl t || rest.any isControl then
            if isControl t && rest.all (matching t) then
              if nd.accs.isEmpty && canEmit fm n 0 then passMem s f n w ins t else s
            else mismatch s f n 3
          else if (nd.accs.filter (fun a => !performed a)).length < 16 then beginAccess s f n fm nd w ins
          else s
        | [] => s) := by
  rw [fireMem, onNode_of h]
  simp only [ha, hr, hh] <;> rfl

theorem fireMem_short (h : AtNode s f fm n nd) (ha : able fm nd 1 = true) (hr : memReason w = 0) (hh : holding fm nd = false)
    (hno : ∃ j ∈ memPorts w, tokenAt fm n j 0 = none) : fireMem s w = .next s := by
  rw [fireMem_of h ha hr hh]
  exact congrArg _ (if_pos (tokensAt_short hno))

/-- A turn with sound tokens `ins` at all its inputs. -/
theorem fireMem_full (h : AtNode s f fm n nd) (ha : able fm nd 1 = true) (hr : memReason w = 0) (hh : holding fm nd = false)
    {ins : List (Nat × Flit)} (hports : ins.map (·.1) = memPorts w) (hins : ∀ j ∈ ins, tokenAt fm n j.1 0 = some j.2)
    (hsound : ∀ j ∈ ins, tokReason j.2.tok = 0) {t : Tok} {rest : List Tok} (htoks : ins.map (·.2.tok) = t :: rest) :
    fireMem s w = .next (
      if isControl t || rest.any isControl then
        if isControl t && rest.all (matching t) then
          if nd.accs.isEmpty && canEmit fm n 0 then passMem s f n w ins t else s
        else mismatch s f n 3
      else if (nd.accs.filter (fun a => !performed a)).length < 16 then beginAccess s f n fm nd w ins
      else s) := by
  have hfind : ins.find? (fun i => tokReason i.2.tok ≠ 0) = none := by
    rw [List.find?_eq_none]
    intro i hi
    simp [hsound i hi]
  rw [fireMem_of h ha hr hh, ← hports, tokensAt_eq hins, List.length_map]
  simp only [Nat.lt_irrefl, if_false, hfind, htoks]

/-- The access that a firing begins, as the formation stood before it was counted (R293). -/
theorem beginAccess_of (hf : formAt s f = some fm) (hn : fm.nodes[n]? = some nd) (hp : fm.phase ≠ .placing) (ins : List (Nat × Flit)) {ta tb : Tok}
    (hta : ((ins.find? (fun i => i.1 == 0)).map (·.2.tok)).getD nullTok = ta)
    (htb : ((ins.find? (fun i => i.1 == 1)).map (·.2.tok)).getD (dataTok false 0) = tb)
    {stage : Stage} (hstage : (if ta.kind = 1 ∨ tb.kind = 1 then .stand nullTok
      else if ta.poison then .stand (dataTok true 0)
      else if memSpaceOf w = .v then .begun else .ready noTarget (nodeCell fm (memSpaceOf w) (memAddress fm w ta.data))) = stage) :
    let addr := memAddress fm w ta.data
    let access : Access := { seq := nd.began, word := w, ta := ta, tb := tb, addr := addr, stage := stage, froze := none, got := [] }
    let begun := modForm (noteFiring s f n ins [0]) f (fun fm => dateFreed s.tenths fm (modNode (ins.foldl (fun fm j => takeFrom fm n j.1 0) fm) n
      (fun nd => { nd with began := nd.began + 1, accs := nd.accs ++ [access] })) n)
    beginAccess s f n fm nd w ins =
      if (decide (ta.kind = 0 ∧ tb.kind = 0) && !ta.poison && decide (addrReason fm w addr ≠ 0)) = true then nodeFault begun f n (addrReason fm w addr) addr 0
      else emitReplies begun f n (nd.accs.length + 1) := by
  intro addr access begun
  subst hta htb hstage
  have hbegun : modForm (noteFiring s f n ins [0]) f (fun fm => dateFreed (noteFiring s f n ins [0]).tenths fm
      (modNode (ins.foldl (fun fm j => takeFrom fm n j.1 0) fm) n
        (fun nd => { nd with began := nd.began + 1, accs := nd.accs ++ [{ access with seq := nd.began }] })) n) = begun := by
    obtain ⟨fm', hf', hb⟩ := nextMark_noteFiring hf hn hp ins [0]
    refine modForm_congr hf' ?_
    have htook : nextMark (ins.foldl (fun fm j => takeFrom fm n j.1 0) fm') n = some (nd.began, nd.word) := by
      rw [← hb]
      exact List.foldlRecOn (motive := fun g => nextMark g n = nextMark fm' n) ins _ rfl fun g hg j _ => (nextMark_takeFrom ..).trans hg
    rw [noteFiring_tenths]
    refine congrArg (dateFreed _ _ · n) (modNode_congr fun nd' hn' => ?_)
    have : nd'.began = nd.began := by
      rw [nextMark, hn'] at htook
      exact congrArg Prod.fst (Option.some.inj htook)
    rw [this]
  rw [← hbegun]
  rfl

end

/-! ### The rows of the table (R291 to R293) -/

theorem memPorts_memWord {op : Nat} (hop : op < 256) (o p q : BitVec 6) (z sp : BitVec 3) : memPorts (memWord op o p q z sp) =
    if op ∈ [0x82, 0x84, 0x86, 0x87, 0x88, 0x89, 0x8A, 0x8B, 0x8C] then [0, 1] else [0] := by
  rw [memPorts, elemOp_memWord, Nat.mod_eq_of_lt hop]
  refine if_congr ?_ rfl rfl
  simp only [memStores, memAtomic, Bool.or_eq_true, decide_eq_true_eq, List.mem_cons, List.not_mem_nil, or_false]
  omega

theorem memSpaceOf_eq_v (op : Nat) (o p q : BitVec 6) (z sp : BitVec 3) : memSpaceOf (memWord op o p q z sp) = .v ↔ sp = 1 := by
  rw [memSpaceOf_memWord]
  have hall : ∀ sp : BitVec 3, (if sp = 0 then Space.i else if sp = 1 then .v else if sp = 2 then .a else .c) = .v ↔ sp = 1 := by decide
  exact hall sp

theorem memAddress_memWord (fm : Form) (op : Nat) (o p q : BitVec 6) (z sp : BitVec 3) (x : BitVec 32) : memAddress fm (memWord op o p q z sp) x =
    if sp = 1 then ((poolEntry fm 1).toNat * 2 ^ 32 + (poolEntry fm 0).toNat + x.toNat) % 2 ^ 64 else x.toNat :=
  if_congr (memSpaceOf_eq_v ..) rfl rfl

theorem addrReason_memWord (fm : Form) {op : Nat} (hop : op < 256) (o p q : BitVec 6) (z sp : BitVec 3) (a : Nat) :
    addrReason fm (memWord op o p q z sp) a =
      if op = 0x8D then 0 else if z.toNat ≤ 2 ∧ a % 2 ^ z.toNat ≠ 0 then 1
      else if sp = 0 then (if fm.isles.length * 65536 ≤ a then 2 else 0)
      else if sp = 1 then (if 2 ^ 57 ≤ a then 3 else 0)
      else if sp = 2 then (if 0x200000 ≤ a then 2 else 0)
      else if 0x100000 ≤ a then 2 else 0 := by
  rw [addrReason, elemOp_memWord, Nat.mod_eq_of_lt hop, memWidth_memWord, memSpaceOf_memWord]
  by_cases h0 : sp = 0
  · simp only [h0, if_true]
  · by_cases h1 : sp = 1
    · simp only [h1, if_true]; rfl
    · by_cases h2 : sp = 2
      · simp only [h2, if_true]; rfl
      · simp only [h0, h1, h2, if_false]; rfl

theorem isControl_of_kind_le {t : Tok} (h : t.kind ≤ 1) : isControl t = false := decide_eq_false (by omega)
theorem isControl_of_sound {t : Tok} (hs : tokReason t = 0) (h : 2 ≤ t.kind) : isControl t = true := by
  have : ¬5 ≤ t.kind := by
    intro h5
    simp [tokReason, h5] at hs
  exact decide_eq_true (by omega)

/-- The tokens of the two inputs, as the firing finds them. -/
theorem tokenOf_ports {ins : List (Nat × Flit)} (h : ins.map (·.1) = [0] ∨ ins.map (·.1) = [0, 1]) (d e : Tok) :
    ((ins.find? (fun i => i.1 == 0)).map (·.2.tok)).getD d = (ins.map (·.2.tok)).getD 0 d ∧
      ((ins.find? (fun i => i.1 == 1)).map (·.2.tok)).getD e = (ins.map (·.2.tok)).getD 1 e := by
  match ins, h with
  | [(i, t)], h =>
    obtain rfl : i = 0 := by simpa using h
    exact ⟨rfl, rfl⟩
  | [(i, t), (j, u)], h =>
    obtain ⟨rfl, rfl⟩ : i = 0 ∧ j = 1 := by simpa using h
    exact ⟨rfl, rfl⟩
  | _ :: _ :: _ :: _, h => simp at h

theorem kind_getD_le {l : List Tok} {d : Tok} {m : Nat} (h : ∀ t ∈ l, t.kind ≤ m) (hd : d.kind ≤ m) (k : Nat) : (l.getD k d).kind ≤ m := by
  rw [List.getD_eq_getElem?_getD]
  cases hk : l[k]? with
  | none => exact hd
  | some t => exact h t (List.mem_of_getElem? hk)

/-- Settles O40: the row of the instruction, then its turn by the tokens at its inputs. -/
theorem memoryElementFirings : Obligations.MemoryElementFirings := by
  unfold Obligations.MemoryElementFirings
  intro s f fm n nd o p q z0 sp0 hat word ops i op z sp hrow
  refine ⟨decodeElement_of_memRows o p q z0 sp0 hrow, fun ha hr hh => ?_⟩
  have hexec : exec i s = fireMem s (memWord op o p q z sp) := exec_of_memRows o p q z0 sp0 hrow s
  have hop := opcode_of_memRows o p q z0 sp0 hrow
  have hports := memPorts_memWord hop o p q z sp
  intro ports
  refine ⟨fun hno => hexec.trans (fireMem_short hat ha hr hh (hports ▸ hno)), fun ins hins htok hsound => ?_⟩
  intro toks ta tb addr stage reason access begun open_
  have htwo : ins.map (·.1) = [0] ∨ ins.map (·.1) = [0, 1] := by
    rw [hins]
    exact (ite_eq_or_eq _ _ _).symm
  obtain ⟨hta, htb⟩ := tokenOf_ports htwo nullTok (dataTok false 0)
  obtain ⟨t, rest, htoks⟩ : ∃ t rest, toks = t :: rest := by
    refine List.exists_cons_of_ne_nil fun hnil => ?_
    rw [List.map_eq_nil_iff.1 hnil] at htwo
    simp at htwo
  have hexec := hexec.trans (fireMem_full hat ha hr hh (hins.trans hports.symm) htok hsound htoks)
  have hcontrol : ∀ u ∈ toks, 2 ≤ u.kind → isControl u = true := by
    intro u hu
    obtain ⟨j, hj, rfl⟩ := List.mem_map.1 hu
    exact isControl_of_sound (hsound j hj)
  have hlive : fm.phase ≠ .placing := notPlacing_of_able ha
  obtain ⟨-, hform, hnode⟩ := hat
  refine ⟨fun hlow hroom => ?begin, fun hlow hbusy => ?full, fun u rest' hu hk hall => ?pass, fun hc hdiff => ?mismatch⟩
  case begin =>
    have hnone : (isControl t || rest.any isControl) = false := by
      simpa [htoks] using fun u hu => isControl_of_kind_le (hlow u hu)
    have hstage : (if ta.kind = 1 ∨ tb.kind = 1 then .stand nullTok else if ta.poison then .stand (dataTok true 0)
        else if memSpaceOf (memWord op o p q z sp) = .v then .begun
        else .ready noTarget (nodeCell fm (memSpaceOf (memWord op o p q z sp)) (memAddress fm (memWord op o p q z sp) ta.data))) = stage := by
      refine if_congr Iff.rfl rfl (if_congr Iff.rfl rfl ?_)
      by_cases h1 : sp = 1
      · rw [if_pos ((memSpaceOf_eq_v ..).2 h1), if_pos h1]
      · rw [if_neg (mt (memSpaceOf_eq_v ..).1 h1), if_neg h1, memSpaceOf_memWord, memAddress_memWord, if_neg h1]
    have hbegin := beginAccess_of hform hnode hlive ins hta htb hstage
    have haddr : memAddress fm (memWord op o p q z sp) ta.data = addr := memAddress_memWord ..
    have hka : ta.kind ≤ 1 := kind_getD_le hlow (Nat.le_refl 1) 0
    have hkb : tb.kind ≤ 1 := kind_getD_le hlow (Nat.zero_le 1) 1
    refine hexec.trans (congrArg _ ((if_neg (Bool.eq_false_iff.1 hnone)).trans ((if_pos hroom).trans (hbegin.trans ?_))))
    rw [haddr]
    by_cases hq : op = 0x8D ∨ ta.kind = 1 ∨ tb.kind = 1 ∨ ta.poison
    · have hzero : reason = 0 := if_pos hq
      have hnoAccess : ¬(decide (ta.kind = 0 ∧ tb.kind = 0) && !ta.poison && decide (addrReason fm (memWord op o p q z sp) addr ≠ 0)) = true := by
        rcases hq with hpf | hq | hq | hq
        · rw [addrReason_memWord fm hop, if_pos hpf]
          simp
        · simp [hq]
        · simp [hq]
        · simp [hq]
      exact (if_neg hnoAccess).trans (if_neg (not_not.2 hzero)).symm
    · have hreason : addrReason fm (memWord op o p q z sp) addr = reason := by
        rw [addrReason_memWord fm hop]
        obtain ⟨hpf, hq⟩ := not_or.1 hq
        exact (if_neg hpf).trans (if_neg (not_or.2 ⟨hpf, hq⟩)).symm
      have haccess : (decide (ta.kind = 0 ∧ tb.kind = 0) && !ta.poison) = true := by
        simp only [not_or, Bool.not_eq_true] at hq
        obtain ⟨-, ha1, hb1, hpoison⟩ := hq
        simp only [hpoison, Bool.not_false, Bool.and_true, decide_eq_true_eq]
        omega
      rw [hreason, haccess, Bool.true_and]
      exact if_congr decide_eq_true_iff rfl rfl
  case full =>
    have hnone : (isControl t || rest.any isControl) = false := by
      simpa [htoks] using fun u hu => isControl_of_kind_le (hlow u hu)
    exact hexec.trans (congrArg _ ((if_neg (Bool.eq_false_iff.1 hnone)).trans (if_neg (Nat.not_lt.2 hbusy))))
  case pass =>
    obtain ⟨rfl, rfl⟩ : t = u ∧ rest = rest' := by simpa [htoks] using hu
    have ht : isControl t = true := hcontrol t (by simp [htoks]) hk
    have hmatch : rest.all (matching t) = true := by
      rw [List.all_eq_true]
      intro v hv
      obtain ⟨hkind, hdata⟩ := hall v hv
      simp [matching, ht, hkind, hdata]
    refine hexec.trans (congrArg _ ?_)
    simp [ht, hmatch]
  case mismatch =>
    have hany : (isControl t || rest.any isControl) = true := by
      obtain ⟨u, hu, hk⟩ := hc
      have := hcontrol u hu hk
      rw [htoks, List.mem_cons] at hu
      rcases hu with rfl | hu
      · simp [this]
      · exact Bool.or_eq_true_iff.2 (.inr (List.any_eq_true.2 ⟨u, hu, this⟩))
    have hmatch : ¬(isControl t && rest.all (matching t)) = true := by
      intro hboth
      obtain ⟨-, hrest⟩ := Bool.and_eq_true_iff.1 hboth
      have hsame : ∀ u ∈ toks, t.kind = u.kind ∧ t.data = u.data := by
        intro u hu
        rw [htoks, List.mem_cons] at hu
        rcases hu with rfl | hu
        · exact ⟨rfl, rfl⟩
        · exact of_decide_eq_true (Bool.and_eq_true_iff.1 (List.all_eq_true.1 hrest u hu)).2
      obtain ⟨u, hu, v, hv, hne⟩ := hdiff
      obtain ⟨hku, hdu⟩ := hsame u hu
      obtain ⟨hkv, hdv⟩ := hsame v hv
      rcases hne with hne | hne
      · exact hne (hku.symm.trans hkv)
      · exact hne (hdu.symm.trans hdv)
    exact hexec.trans (congrArg _ ((if_pos hany).trans (if_neg hmatch)))

end Sys2Proof.Machine

/-! PROOFS. A DRAIN that hops while another formation is passed over (O43).

A DRAIN leaves the site that it has passed to others, so that the placer tries again what it has passed over (R47 step 6, R315). The statement has
the hop of every token change its own formation alone. -/

namespace Sys2Proof.Machine

/-- A source and a sink stream port, as their records stand in an image. -/
def sourceRecord : GNode := ⟨0, 5, 0, 0xFFFF, 0x00400000, 0, 0xFFFF⟩
def sinkRecord : GNode := ⟨1, 5, 0, 0xFFFF, 0x82400000, 0, 0xFFFF⟩

/-- The arc from the source to the sink, by one router, with the source's DRAIN at its first end. -/
def drainArc : Arc :=
  { src := 0, fport := 0, dst := 1, tport := 0, cap := 1, lane := false, route := [passWord 3 1 1], toks := [⟨drainTok, 0, 0⟩], freed := 0,
    holds := [], swapped := [] }

/-- A formation that drains. -/
def drainForm : Form :=
  { newForm State.reset 0 1 0 0 none (some 0) 0x100000 1 [] 0 with
    phase := .armed, draining := true, arcs := [drainArc]
    nodes := [placedNode [] [] 0 sourceRecord 0, placedNode [] [] 1 sinkRecord 0] }

/-- A formation that the placer has passed over for want of sites. -/
def passedForm : Form := { newForm State.reset 0 1 1 1 none (some 0) 0x100000 1 [] 0 with passed := true }

def drainBed : State := { State.reset with forms := [(0, drainForm), (1, passedForm)] }

/-- Whether formation 1 is passed over once a step is over. -/
def passedAfter (o : Out) : Option Bool :=
  match o with
  | .next s => (formAt s 1).map (·.passed)
  | _ => none

/-- The hop of the DRAIN offers the site to formation 1. -/
theorem passedAfter_arcHop_drainBed : passedAfter (exec (.arcHop 0 0 0) drainBed) = some false := by decide +kernel

/-- Refutes O43, by its clause on hops: in `drainBed` the hop of a DRAIN also changes the formation that the placer has passed over. -/
theorem not_fabricMoves : ¬ Obligations.FabricMoves := by
  unfold Obligations.FabricMoves
  intro h
  obtain ⟨hhop, -⟩ := h drainBed 0 drainForm rfl
  obtain ⟨hfree, -⟩ := hhop (.inl (by decide)) 0 drainArc 0 ⟨drainTok, 0, 0⟩ rfl rfl
  have hmoved := congrArg passedAfter (hfree ⟨by decide, by decide, fun _ => .inl (by decide), fun hk => absurd rfl hk⟩)
  rw [passedAfter_arcHop_drainBed] at hmoved
  exact absurd hmoved (by decide)

end Sys2Proof.Machine

/-! PROOFS. Loop-control units: the consumption of a count and the emission of the two streams (O44). -/

namespace Sys2Proof.Machine

/-! ### The two series (R63) -/

theorem seriesOf_eq (start step : Int) (t : Tok) :
    seriesOf start step t =
      if t.kind = 0 ∧ t.poison = false ∧ t.data ≠ 0 then .run start step t.data.toNat 0
      else .one (if t.kind = 0 ∧ t.poison then dataTok true 0 else if t.kind ≤ 1 then nullTok else t) := by
  unfold seriesOf
  by_cases h0 : t.kind = 0
  · cases hp : t.poison
    · by_cases hd : t.data = 0 <;> simp [h0, hd]
    · simp [h0]
  · by_cases h1 : t.kind = 1
    · simp [h1]
    · have : ¬t.kind ≤ 1 := by omega
      simp [h0, h1, this]

/-- The element that the index stream emits. -/
theorem ofInt_series (start step : BitVec 32) (i : Nat) :
    BitVec.ofInt 32 (start.toInt + (i : Int) * step.toInt) = start + BitVec.ofNat 32 i * step := by
  rw [BitVec.ofInt_add, BitVec.ofInt_mul, BitVec.ofInt_toInt, BitVec.ofInt_toInt, BitVec.ofInt_natCast]

theorem restNext_run (start step : Int) {i c : Nat} (hi : i < c) :
    restNext (.run start step c i) = if i + 1 = c then .none else .run start step c (i + 1) := by
  rw [restNext]
  by_cases h : i + 1 = c
  · rw [if_pos h, if_neg (by omega)]
  · rw [if_neg h, if_pos (by omega)]

/-! ### A unit's turn (R63, R301, R302) -/

section
variable {s : State} {f n : Nat} {fm : Form} {nd : Node} (hf : formAt s f = some fm) (hn : fm.nodes[n]? = some nd) (ha : able fm nd 3 = true)
include hf hn ha

omit ha in
theorem execLoopNConsume_of_busy (hb : nd.idx ≠ .none ∨ nd.last ≠ .none) : execLoopNConsume f n s = .next s := by
  have : (!able fm nd 3 || decide (nd.idx ≠ .none) || decide (nd.last ≠ .none)) = true := by
    rcases hb with h | h <;> simp [h]
  simp only [execLoopNConsume, hf, hn, this, if_true]

/-- What a unit with both streams emitted does: `own` is what its formation injects, `take` what a consumed token starts. -/
theorem execLoopNConsume_of_idle (hi : nd.idx = .none) (hl : nd.last = .none) :
    let take (s : State) (t : Tok) (g : Form → Form) : State :=
      let r := seriesOf (poolEntry fm (loopK (curWord nd))).toInt (poolEntry fm (loopK (curWord nd) + 1)).toInt t
      modForm s f (fun fm => modNode (g fm) n (fun nd => { nd with idx := r, last := r }))
    execLoopNConsume f n s = .next (match (if loopTile nd.word then injection s fm nd else none), tokenAt fm n 0 0 with
      | some t, _ => take (noteFiring s f n [] [0, 1]) t (fun fm => modNode fm n (fun nd => injected nd t))
      | none, some t =>
        if tokReason t.tok ≠ 0 then badToken s f n t.tok
        else take (noteFiring s f n [(0, t)] [0, 1]) t.tok (fun fm => takeAt s.tenths fm n 0 0)
      | none, none => s) := by
  simp only [execLoopNConsume, hf, hn, ha, hi, hl]
  cases (if loopTile nd.word then injection s fm nd else none) with
  | some t => rfl
  | none => cases tokenAt fm n 0 0 <;> rfl

end

/-- The readers of stream `st` that its current token goes to. -/
def loopTakers (fm : Form) (n : Nat) (nd : Node) (st : Nat) : List Nat :=
  if (streamGiven nd st).isEmpty && unread fm n st then []
  else (readers fm n st nd).filter (fun k => !setHas k (streamGiven nd st) && (fm.arcs[k]?).any (room fm))

theorem unread_iff {fm : Form} {n st : Nat} :
    unread fm n st = true ↔ ∃ a ∈ fm.arcs, a.lane = true ∧ a.src = n ∧ a.fport = st ∧ a.toks ≠ [] := by
  simp [unread, and_assoc]

/-- Those who have the token once it has gone to `ks`. -/
def givenTo (given : NatSet) (ks : List Nat) : NatSet := ks.foldl (fun g k => setAdd k g) given

/-- The arcs `ks` with the token `t` at their ends. -/
def fedArcs (now10 : Nat) (t : Tok) (ks : List Nat) (fm : Form) : Form :=
  ks.foldl (fun fm k => putArc fm k (fun a => { a with toks := a.toks ++ [⟨t, 0, now10⟩] })) fm

/-- A unit after its stream `st` has gone on to `rest`, with the token `t` given to `given` and, where `whole` holds, to all. -/
def streamLeft (st : Nat) (t : Tok) (rest : Rest) (whole : Bool) (given : NatSet) (nd : Node) : Node :=
  setStream (if st = 1 then nd else { nd with cur := some t.data }) st rest (if whole then [] else given)

theorem execLoopEmit_of {s : State} {f n : Nat} {fm : Form} {nd : Node} (hf : formAt s f = some fm) (hn : fm.nodes[n]? = some nd)
    (ha : able fm nd 3 = true) {last : Bool} {st : Nat} (hst : (if last then 1 else 0) = st)
    {r : Rest} (hr : streamRest nd st = r) {t : Tok} (ht : restTok st r = some t) {takers : List Nat} (htakers : loopTakers fm n nd st = takers)
    {already : NatSet} (hg : streamGiven nd st = already) :
    let rs := readers fm n st nd
    let given := givenTo already takers
    let whole := rs.all (fun k => setHas k given)
    ∀ {rest : Rest}, (if rs.isEmpty then .none else if whole then restNext r else r) = rest →
    execLoopEmit f n last s = .next (if !rs.isEmpty && takers.isEmpty then s
      else settleDrain (modForm s f (fun fm =>
        modNode { fedArcs s.tenths t takers fm with moves := (fedArcs s.tenths t takers fm).moves + 1 } n (fun nd =>
          if isControl t && whole then endControl t (streamLeft st t rest whole given nd) else streamLeft st t rest whole given nd))) f) := by
  intro rs given whole rest hrest
  subst htakers hg hrest
  simp only [execLoopEmit, hf, hn, hst, ha, hr, ht]
  cases last <;> subst hst <;> rfl

/-- Settles O44: the consumption by what stands at the count's input, the emission by the readers that can take the token. -/
theorem loopUnits : Obligations.LoopUnits := by
  unfold Obligations.LoopUnits
  intro s f fm n nd hf hn ha k start step consume series own taken
  have hseries : series = seriesOf start.toInt step.toInt := funext fun t => (seriesOf_eq _ _ t).symm
  have hk : loopK (curWord nd) = k := wordBits_eq_extract ..
  refine ⟨execLoopNConsume_of_busy hf hn, fun hi hl => ?idle, fun i c hc hi hc32 => ?series, fun last t ht => ?emit⟩
  case idle =>
    have hidle := execLoopNConsume_of_idle hf hn ha hi hl
    rw [hk] at hidle
    refine ⟨fun t ho => ?_, fun ho hno => ?_, fun t ho hin hr => ?_⟩
    · refine hidle.trans ?_
      rw [show (if loopTile nd.word then injection s fm nd else none) = some t from ho]
      simp only [taken, hseries]
      rfl
    · refine hidle.trans ?_
      rw [show (if loopTile nd.word then injection s fm nd else none) = none from ho, hno]
    · refine hidle.trans ?_
      rw [show (if loopTile nd.word then injection s fm nd else none) = none from ho, hin]
      simp only [hr, taken, hseries]
      rfl
  case series =>
    exact ⟨congrArg (fun v => some (dataTok false v)) (ofInt_series ..), rfl, restNext_run _ _ hi⟩
  case emit =>
    intro st emit rs given unread takers given' whole rest left fed
    have hg : streamGiven nd st = given := by cases last <;> rfl
    have hr : streamRest nd st = if last then nd.last else nd.idx := by cases last <;> rfl
    have htakers : loopTakers fm n nd st = takers := by
      have hiff : ((streamGiven nd st).isEmpty && Machine.unread fm n st) = true ↔ unread := by
        rw [Bool.and_eq_true, List.isEmpty_iff, unread_iff, hg]
      exact (if_congr hiff rfl rfl).trans (by rw [hg]; rfl)
    have hrest : (if rs.isEmpty then .none else if whole then restNext (if last then nd.last else nd.idx)
        else (if last then nd.last else nd.idx)) = rest := if_congr List.isEmpty_iff rfl rfl
    have hleft : streamLeft st t rest whole given' = left := by
      funext nd
      cases last <;> rfl
    have hemit := execLoopEmit_of hf hn ha (last := last) rfl hr ht htakers hg hrest
    refine ⟨fun hrs hnone => hemit.trans (congrArg _ (if_pos ?_)), fun hsome => hemit.trans (congrArg _ ((if_neg ?_).trans ?_))⟩
    · simpa [hnone] using hrs
    · simpa [or_iff_not_imp_left] using hsome
    · rw [← hleft]
      rfl

end Sys2Proof.Machine

/-! PROOFS. The steps of source and sink stream ports (O45). -/

namespace Sys2Proof.Machine

/-! ### A port's node -/

section
variable {s : State} {f n cl : Nat} {fm : Form} {nd : Node}

theorem portOf_able (hh : fm.home = some cl) (ha : able fm nd 5 = true) : portOf fm nd = some (cl, (nd.word.extractLsb' 25 6).toNat) := by
  have hcls : nd.cls = 5 := by
    simp only [able, Bool.and_eq_true, decide_eq_true_eq] at ha
    obtain ⟨⟨⟨⟨⟨⟨-, -⟩, hcls⟩, -⟩, -⟩, -⟩, -⟩ := ha
    exact hcls
  rw [portOf, if_pos hcls, hh, ← wordBits_eq_extract]
  rfl

theorem portBytes_eq (nd : Node) : portBytes nd = fmtWidth ((fmtOfCode (nd.word.extractLsb' 21 4).toNat).getD .i32) / 8 := by
  rw [portBytes, portFmt, wordBits_eq_extract]

theorem portToken_of_data {a : Access} {t : Tok} (ht : t.kind = 0) : portToken nd a t =
    let k := (fmtOfCode (nd.word.extractLsb' 21 4).toNat).getD .i32
    let d := if nd.word.getLsbD 20 then t.data.toNat / 2 ^ (8 * (a.addr % 4)) else t.data.toNat
    dataTok t.poison (fill32 k (d % 2 ^ fmtWidth k)) := by
  simp only [portToken, portFmt, wordBits_eq_extract, ht]
  rfl

/-- A source's turn, by what it has begun and by what it has to emit. -/
theorem execSportSourceAccess_of (hf : formAt s f = some fm) (hn : fm.nodes[n]? = some nd) (hh : fm.home = some cl) (ha : able fm nd 5 = true)
    (hs : portSink nd.word = false) {p : Nat} (hp : (nd.word.extractLsb' 25 6).toNat = p) {q : Port} (hq : portAt s cl p = q) :
    execSportSourceAccess f n s = .next (match nd.accs with
      | a :: _ =>
        match a.stage with
        | .ready t c => if pendingFor s (.node f n a.seq) then s else performPort s f n fm nd a t c
        | .done t =>
          if canEmit fm n 0 then completePort false (modForm s f (fun fm => emitOn s.tenths fm n 0 (portToken nd a t))) f n (cl, p) else s
        | .waiting _ | .begun => if (injection s fm nd).isNone then s else giveUpSource s f n nd
        | .frozen _ => if fm.draining then giveUpSource s f n nd else s
        | _ => s
      | [] =>
        match injection s fm nd, q.bindings with
        | some t, _ => if canEmit fm n 0 then emitInjected s f n (cl, p) t else s
        | none, b :: _ =>
          if fm.tiles = 0 ∨ fm.phase = .cutting then s
          else if b.pos < bindAccesses b then (if canEmit fm n 0 then beginPort s f n nd cl b none else s)
          else if b.eos then
            if canEmit fm n 0 then modForm (movePort s (cl, p) (endBinding q)) f (fun fm => emitOn s.tenths fm n 0 (eosTok b.swap)) else s
          else movePort s (cl, p) (endBinding q)
        | none, [] => s) := by
  subst hp hq
  simp only [execSportSourceAccess, hf, hn, portOf_able hh ha, ha, hs] <;> rfl

/-- A sink's turn, by what it has begun and by what stands at its input. -/
theorem execSportSinkAccess_of (hf : formAt s f = some fm) (hn : fm.nodes[n]? = some nd) (hh : fm.home = some cl) (ha : able fm nd 5 = true)
    (hs : portSink nd.word = true) (hold : holding fm nd = false) {p : Nat} (hp : (nd.word.extractLsb' 25 6).toNat = p) {q : Port}
    (hq : portAt s cl p = q) :
    execSportSinkAccess f n s = .next (match nd.accs with
      | a :: _ =>
        match a.stage with
        | .ready t c => if pendingFor s (.node f n a.seq) then s else performPort s f n fm nd a t c
        | .done _ => completePort true s f n (cl, p)
        | _ => s
      | [] =>
        match tokenAt fm n 0 0 with
        | none => s
        | some t =>
          if tokReason t.tok ≠ 0 then badToken s f n t.tok
          else if t.tok.kind = 3 ∨ t.tok.kind = 4 then
            let s := if t.tok.kind = 3 then freePort s (cl, p) else s
            let s := noteFiring s f n [(0, t)] []
            settleDrain (modForm s f (fun fm => modNode (takeAt s.tenths fm n 0 0) n (fun nd => notePassed nd t.tok))) f
          else
            match q.bindings with
            | [] => if fm.phase = .cutting then holdTokens s f n [0] else s
            | b :: _ =>
              if t.tok.kind = 0 then beginPort s f n nd cl b (some t)
              else
                let s := noteFiring s f n [(0, t)] []
                let s := movePort s (cl, p) (if t.tok.kind = 1 then spend true q else endBinding q)
                modForm s f (fun fm => modNode (takeAt s.tenths fm n 0 0) n (fun nd =>
                  { nd with eos := nd.eos || (decide (t.tok.kind = 2) && !isSwapEos t.tok) }))) := by
  subst hp hq
  simp only [execSportSinkAccess, hf, hn, portOf_able hh ha, ha, hs, hold] <;> rfl

/-! ### An access begins (R215, R216) -/

section
variable {b : Binding} {w : Nat}

theorem portStart_of_misaligned (hw : portBytes nd = w) (h : bindAddr b b.pos % w ≠ 0) : portStart nd cl b = .error (1, 0) := by
  subst hw
  exact if_pos h

theorem portStart_of_aligned (hw : portBytes nd = w) (h : bindAddr b b.pos % w = 0) : portStart nd cl b =
    if b.spaceV then (if portWait nd.word then .error (8, 0) else if exactOk (bindAddr b b.pos) then .ok .begun else .error (9, 1))
    else if bindAddr b b.pos < 0 ∨ 0x200000 ≤ bindAddr b b.pos then .error (2, 0)
    else .ok (.ready noTarget (aCell cl (bindAddr b b.pos).toNat)) := by
  subst hw
  exact if_neg (not_not.2 h)

end

/-- The port's node has begun an access, at stage `st`, to the address `a`; a sink has taken the token `t` for it. -/
def begunPort (s noted : State) (f n : Nat) (nd : Node) (a : Nat) (sink : Bool) (t : Tok) (st : Stage) : State :=
  modForm noted f (fun fm => dateFreed s.tenths fm (modNode (if sink then takeFrom fm n 0 0 else fm) n (fun nd' => { nd' with
    began := nd'.began + 1
    accs := nd'.accs ++ [{ seq := nd.began, word := nd.word, ta := t, tb := nullTok, addr := a, stage := st, froze := none, got := [] }] })) n)

theorem beginPort_of (hf : formAt s f = some fm) (hn : fm.nodes[n]? = some nd) (hp : fm.phase ≠ .placing) (cl : Nat) (b : Binding) (t : Option Flit) :
    let noted := noteFiring s f n ((t.map (fun t => (0, t))).toList) (if t.isSome then [] else [0])
    beginPort s f n nd cl b t = match portStart nd cl b with
      | .error r => nodeFault noted f n r.1 (addrNat (bindAddr b b.pos)) r.2
      | .ok st => begunPort s noted f n nd (addrNat (bindAddr b b.pos)) t.isSome ((t.map (·.tok)).getD nullTok) st := by
  intro noted
  obtain ⟨fm', hf', hmark⟩ := nextMark_noteFiring hf hn hp ((t.map (fun t => (0, t))).toList) (if t.isSome then [] else [0])
  simp only [beginPort]
  cases portStart nd cl b with
  | error r => rfl
  | ok st =>
    refine modForm_congr hf' ?_
    rw [noteFiring_tenths]
    refine congrArg (dateFreed _ _ · n) (modNode_congr fun nd' hn' => ?_)
    have htook : nextMark (if t.isSome then takeFrom fm' n 0 0 else fm') n = some (nd.began, nd.word) := by
      rw [← hmark]
      split
      · exact nextMark_takeFrom ..
      · rfl
    rw [nextMark, hn'] at htook
    obtain ⟨hbegan, hword⟩ : nd'.began = nd.began ∧ nd'.word = nd.word := by simpa using htook
    rw [hbegan, hword]

/-- A turn that begins an access, by the address. -/
theorem beginPort_cases (hf : formAt s f = some fm) (hn : fm.nodes[n]? = some nd) (hp : fm.phase ≠ .placing) {b : Binding} {t : Option Flit} {w : Nat}
    (hw : portBytes nd = w) {sink : Bool} (hsink : t.isSome = sink) {tok : Tok} (htok : (t.map (·.tok)).getD nullTok = tok) {noted : State}
    (hnoted : noteFiring s f n ((t.map (fun t => (0, t))).toList) (if t.isSome then [] else [0]) = noted) {turn : Out}
    (hturn : turn = .next (beginPort s f n nd cl b t)) :
    let a := bindAddr b b.pos
    let full := portWait nd.word
    (a % w ≠ 0 → turn = .next (nodeFault noted f n 1 (addrNat a) 0)) ∧
    (a % w = 0 → b.spaceV = true → full = true → turn = .next (nodeFault noted f n 8 (addrNat a) 0)) ∧
    (a % w = 0 → b.spaceV = true → full = false → 0 ≤ a ∧ a < 2 ^ 57 → turn = .next (begunPort s noted f n nd (addrNat a) sink tok .begun)) ∧
    (a % w = 0 → b.spaceV = true → full = false → a < 0 ∨ 2 ^ 57 ≤ a → turn = .next (nodeFault noted f n 9 (addrNat a) 1)) ∧
    (a % w = 0 → b.spaceV = false → a < 0 ∨ 0x200000 ≤ a → turn = .next (nodeFault noted f n 2 (addrNat a) 0)) ∧
    (a % w = 0 → b.spaceV = false → 0 ≤ a → a < 0x200000 →
      turn = .next (begunPort s noted f n nd (addrNat a) sink tok (.ready noTarget (aCell cl a.toNat)))) := by
  intro a full
  have hturn := hturn.trans (congrArg _ (beginPort_of hf hn hp cl b t))
  rw [hsink, htok, ← hsink, hnoted, hsink] at hturn
  refine ⟨fun ha => ?_, fun ha hv hfull => ?_, fun ha hv hfull hr => ?_, fun ha hv hfull hr => ?_, fun ha hv hr => ?_, fun ha hv h0 h1 => ?_⟩
  · rw [hturn, portStart_of_misaligned hw ha]
  · rw [hturn, portStart_of_aligned hw ha, if_pos hv, if_pos hfull]
  · rw [hturn, portStart_of_aligned hw ha, if_pos hv, if_neg (Bool.eq_false_iff.1 hfull), if_pos (show exactOk a = true from decide_eq_true hr)]
  · have hno : ¬exactOk a = true := by
      simp only [exactOk, decide_eq_true_eq]
      omega
    rw [hturn, portStart_of_aligned hw ha, if_pos hv, if_neg (Bool.eq_false_iff.1 hfull), if_neg hno]
  · rw [hturn, portStart_of_aligned hw ha, if_neg (Bool.eq_false_iff.1 hv), if_pos hr]
  · rw [hturn, portStart_of_aligned hw ha, if_neg (Bool.eq_false_iff.1 hv), if_neg (by omega)]

/-! ### An access is performed and completed -/

theorem performPort_source (hs : portSink nd.word = false) {a : Access} {t : Target} (ht : t.peer = false) {w : Nat} (hw : portBytes nd = w) (c : Nat) :
    performPort s f n fm nd a t c =
      let k := wordKey fm.masks (c / 4 * 4)
      let r := memRead s c w
      if portWait nd.word then waitWord (setStage s f n a.seq (.waiting k)) k ⟨.node f n a.seq, .takeFull, c / 4 * 4⟩
      else answerAccess r.1 f n a.seq (dataTok (decide (r.2.reason ≠ 0)) (if r.2.reason = 1 then 0 else BitVec.ofNat 32 (leNat r.2.bytes))) := by
  subst hw
  simp only [performPort, hs, ht] <;> rfl

theorem performPort_sink (hs : portSink nd.word = true) {a : Access} {t : Target} (ht : t.peer = false) {w : Nat} (hw : portBytes nd = w) (c : Nat) :
    performPort s f n fm nd a t c =
      let k := wordKey fm.masks (c / 4 * 4)
      let chk := checkResidue s f n a.ta
      if portWait nd.word then waitWord (setStage chk.1 f n a.seq (.waiting k)) k
        ⟨.node f n a.seq, .putEmpty (c % 4) w (a.ta.data.toNat % 2 ^ (8 * w)) chk.2.poison, c / 4 * 4⟩
      else answerAccess (putBytes chk.1 c (leBytes a.ta.data.toNat w) chk.2.poison) f n a.seq (dataTok false 0) := by
  subst hw
  simp only [performPort, hs, ht] <;> rfl

theorem spend_of_bindings {q : Port} {b : Binding} {rest : List Binding} (h : q.bindings = b :: rest) (sink : Bool) : spend sink q = { q with
    bindings := if bindAccesses b ≤ b.pos + 1 ∧ (sink ∨ b.eos = false) then rest else { b with pos := b.pos + 1 } :: rest
    ordinal := if b.pos = 0 then q.ordinal + 1 else q.ordinal } := by
  simp only [spend, h, Bool.not_eq_true']

theorem endBinding_of_bindings {q : Port} {b : Binding} {rest : List Binding} (h : q.bindings = b :: rest) :
    endBinding q = { q with bindings := rest, ordinal := if b.pos = 0 then q.ordinal + 1 else q.ordinal } := by
  simp only [endBinding, h]

/-- Two changes of one formation, as one. -/
theorem modForm_modForm (s : State) (f : Nat) (g h : Form → Form) : modForm (modForm s f g) f h = modForm s f (fun fm => h (g fm)) := by
  cases hf : tblGet f s.forms with
  | none => simp only [modForm, tblMod_none hf]
  | some fm => simp only [modForm, tblMod_of hf, tblMod_tblSet]

/-- A source's access is completed as its token leaves. -/
theorem completePort_emitOn (hf : formAt s f = some fm) (q : Port) (hq : portAt s cl p = q) (out : Tok) :
    completePort false (modForm s f (fun fm => emitOn s.tenths fm n 0 out)) f n (cl, p) =
      modForm (movePort s (cl, p) (spend false q)) f (fun fm => modNode (emitOn s.tenths fm n 0 out) n (fun nd => { nd with accs := nd.accs.tail })) := by
  subst hq
  have hmove := (movePort_aside f fm (cl, p) (spend false (portAt s cl p))).commutes s _ hf (emitOn_movesTokens s.tenths n 0 out)
  have hport : portAt (modForm s f (fun fm => emitOn s.tenths fm n 0 out)) cl p = portAt s cl p := rfl
  rw [completePort, hport, putNode]
  exact (congrArg (modForm · f _) hmove).trans (modForm_modForm ..)

end

/-- Settles O45: the turns of a source and of a sink, by the access that has begun, and where none has by what the formation injects, the binding
at the head of the port and the token that stands at the sink. -/
theorem streamPorts : Obligations.StreamPorts := by
  unfold Obligations.StreamPorts
  intro s f fm n nd cl hf hn hh ha p sink full k w q word turn emits eats ended moved starts
  have hlive := notPlacing_of_able ha
  have hw : portBytes nd = w := portBytes_eq nd
  refine ⟨fun hs => ?source, fun hs hhold => ?sink⟩
  case source =>
    have hturn : turn = _ := (if_neg (Bool.eq_false_iff.1 hs)).trans (execSportSourceAccess_of hf hn hh ha hs (p := p) rfl (q := q) rfl)
    have hmoved (b : Binding) (rest : List Binding) (hb : q.bindings = b :: rest) : movePort s (cl, p) (spend false q) = moved b rest := by
      simp only [moved, hs, spend_of_bindings hb]
    have hended (b : Binding) (rest : List Binding) (hb : q.bindings = b :: rest) : movePort s (cl, p) (endBinding q) = ended s b rest := by
      simp only [ended, endBinding_of_bindings hb]
    refine ⟨fun haccs => ?_, fun a more haccs => ?_⟩
    · rw [haccs] at hturn
      refine ⟨fun t hi he => ?_, fun hi hb => ?_, fun b rest hi hb htiles harmed => ?_⟩
      · have htenths : (if t.kind = 3 then freePort s (cl, p) else s).tenths = s.tenths := by
          split
          · exact (freePort_aside f fm (cl, p)).tenths s
          · rfl
        rw [hi] at hturn
        refine hturn.trans (congrArg _ ((if_pos he).trans ?_))
        simp only [emitInjected, htenths]
      · rw [hi, hb] at hturn
        exact hturn
      · have hgo : ¬(fm.tiles = 0 ∨ fm.phase = .cutting) := by simp [htiles, harmed]
        rw [hi, hb] at hturn
        have hturn := hturn.trans (congrArg _ (if_neg hgo))
        refine ⟨fun hpos he => ?_, fun hpos heos => ?_, fun hpos heos he => ?_, fun he hmore => ?_⟩
        · have hbegin := hturn.trans (congrArg _ ((if_pos hpos).trans (if_pos he)))
          have hcases := beginPort_cases hf hn hlive hw (t := none) (sink := sink) hs.symm rfl rfl hbegin
          exact hcases
        · refine hturn.trans (congrArg _ ((if_neg (Nat.not_lt.2 hpos)).trans ((if_neg (Bool.eq_false_iff.1 heos)).trans ?_)))
          exact hended b rest hb
        · refine hturn.trans (congrArg _ ((if_neg (Nat.not_lt.2 hpos)).trans ((if_pos heos).trans ((if_pos he).trans ?_))))
          have htenths : (ended s b rest).tenths = s.tenths := (movePort_aside f fm (cl, p) _).tenths s
          simp only [hended b rest hb, emits, htenths]
          cases b.swap <;> rfl
        · refine hturn.trans (congrArg _ ?_)
          have hno : ¬canEmit fm n 0 = true := Bool.eq_false_iff.1 he
          by_cases hpos : b.pos < bindAccesses b
          · rw [if_pos hpos, if_neg hno]
          · rw [if_neg hpos, if_pos (hmore.resolve_left hpos), if_neg hno]
    · rw [haccs] at hturn
      refine ⟨fun t hd he => ?_, fun t b rest hd hk he hb => ?_, fun g c hr hg hpend => ?_⟩
      · simp only [hd] at hturn
        exact hturn.trans (congrArg _ (if_neg (Bool.eq_false_iff.1 he)))
      · simp only [hd] at hturn
        refine hturn.trans (congrArg _ ((if_pos he).trans ?_))
        rw [completePort_emitOn hf q rfl, hmoved b rest hb, portToken_of_data hk]
      · simp only [hr] at hturn
        have hturn := hturn.trans (congrArg _ ((if_neg (Bool.eq_false_iff.1 hpend)).trans (performPort_source hs hg hw c)))
        exact ⟨fun hfull => hturn.trans (congrArg _ (if_neg (Bool.eq_false_iff.1 hfull))), fun hfull => hturn.trans (congrArg _ (if_pos hfull))⟩
  case sink =>
    have hturn : turn = _ := (if_pos hs).trans (execSportSinkAccess_of hf hn hh ha hs hhold (p := p) rfl (q := q) rfl)
    have hmoved (b : Binding) (rest : List Binding) (hb : q.bindings = b :: rest) : movePort s (cl, p) (spend true q) = moved b rest := by
      simp only [moved, hs, spend_of_bindings hb]
    refine ⟨fun haccs => ?_, fun a more haccs => ?_⟩
    · rw [haccs] at hturn
      refine ⟨fun hno => ?_, fun t ht hsound => ?_⟩
      · rw [hno] at hturn
        exact hturn
      · rw [ht] at hturn
        have hturn := hturn.trans (congrArg _ (if_neg (not_not.2 hsound)))
        intro noted
        refine ⟨fun hk => hturn.trans (congrArg _ (if_pos hk)), fun hk hb harmed => ?_, fun b rest hb => ⟨fun hk hpos => ?_, fun hk hpos => ?_, fun hk hpos => ?_⟩⟩
        · have hno : ¬(t.tok.kind = 3 ∨ t.tok.kind = 4) := by omega
          rw [hb] at hturn
          exact hturn.trans (congrArg _ ((if_neg hno).trans (if_neg (by simp [harmed]))))
        · have hno : ¬(t.tok.kind = 3 ∨ t.tok.kind = 4) := by omega
          rw [hb] at hturn
          have hcases := beginPort_cases hf hn hlive hw (t := some t) (sink := sink) hs.symm rfl rfl
            (hturn.trans (congrArg _ ((if_neg hno).trans (if_pos hk))))
          exact hcases
        · have hno : ¬(t.tok.kind = 3 ∨ t.tok.kind = 4) := by omega
          rw [hb] at hturn
          refine hturn.trans (congrArg _ ((if_neg hno).trans ((if_neg (by omega)).trans ?_)))
          simp only [hk, spend_of_bindings hb, true_or, and_true, if_true]
          rfl
        · have hno : ¬(t.tok.kind = 3 ∨ t.tok.kind = 4) := by omega
          rw [hb] at hturn
          refine hturn.trans (congrArg _ ((if_neg hno).trans ((if_neg (by omega)).trans ?_)))
          simp only [hk, endBinding_of_bindings hb, isSwapEos]
          rfl
    · rw [haccs] at hturn
      refine ⟨fun t b rest hd hb => ?_, fun g c hr hg hpend => ?_⟩
      · simp only [hd] at hturn
        refine hturn.trans (congrArg _ ?_)
        rw [completePort]
        exact congrArg (putNode · f n _) (hmoved b rest hb)
      · simp only [hr] at hturn
        have hturn := hturn.trans (congrArg _ ((if_neg (Bool.eq_false_iff.1 hpend)).trans (performPort_sink hs hg hw c)))
        exact ⟨fun hfull => hturn.trans (congrArg _ (if_neg (Bool.eq_false_iff.1 hfull))), fun hfull => hturn.trans (congrArg _ (if_pos hfull))⟩

end Sys2Proof.Machine

/-! PROOFS. Admission, dispatch, placement and arming, and the time slices (O47). -/

namespace Sys2Proof.Machine

variable {s : State}

/-! ### The order of items, of clusters and of victims (R312 to R314, R318) -/

theorem effPrio_eq (now a b : Nat) : effPrio now a b = if 7 ≤ a + (now - b) / 256000 then 7 else a + (now - b) / 256000 := Nat.min_def ..

theorem firstItem_mem {now : Nat} {l : List Item} {i : Item} (h : firstItem now l = some i) : i ∈ l := by
  induction l generalizing i with
  | nil => simp [firstItem] at h
  | cons j l ih =>
    rw [firstItem] at h
    split at h
    · rw [Option.some.inj h]
      exact List.mem_cons_self ..
    · next k hk =>
      obtain rfl := Option.some.inj h
      split
      · exact List.mem_cons_of_mem _ (ih hk)
      · exact List.mem_cons_self ..

/-- The rank of a cluster for a thread: bound before unbound, then by the slots in use, then by number. -/
def clusterRank (s : State) (c : Nat) : Nat ×ₗ Nat ×ₗ Nat := toLex (if (clusterAt s c).bound.isSome then 0 else 1, toLex ((usedSlots s c).length, c))

theorem betterCluster_iff (a b : Nat) : betterCluster s a b = true ↔ clusterRank s a < clusterRank s b := by
  simp only [betterCluster, clusterRank, Prod.Lex.toLex_lt_toLex]
  by_cases hf : (usedSlots s a).length = (usedSlots s b).length <;>
    cases (clusterAt s a).bound.isSome <;> cases (clusterAt s b).bound.isSome <;> simp [hf]

theorem bestCluster_spec {l : List Nat} {c : Nat} (h : bestCluster s l = some c) : c ∈ l ∧ ∀ d ∈ l, clusterRank s c ≤ clusterRank s d := by
  induction l generalizing c with
  | nil => simp [bestCluster] at h
  | cons a l ih =>
    rw [bestCluster] at h
    split at h
    · next hnone =>
      obtain rfl := Option.some.inj h
      have hl : l = [] := by
        cases l with
        | nil => rfl
        | cons b l => rw [bestCluster] at hnone; split at hnone <;> simp at hnone
      simp [hl]
    · next d hd =>
      obtain ⟨hmem, hmin⟩ := ih hd
      obtain rfl := Option.some.inj h
      split
      · next hb =>
        refine ⟨List.mem_cons_of_mem _ hmem, fun e he => ?_⟩
        rcases List.mem_cons.1 he with rfl | he
        · exact ((betterCluster_iff ..).1 hb).le
        · exact hmin e he
      · next hb =>
        refine ⟨List.mem_cons_self .., fun e he => ?_⟩
        rcases List.mem_cons.1 he with rfl | he
        · exact le_refl _
        · exact (not_lt.1 (mt (betterCluster_iff ..).2 hb)).trans (hmin e he)

theorem threadPlace_eq_some {i : Item} {c : Nat} (h : threadPlace s i = some c) : pickCluster s i.ctx = some c := by
  unfold threadPlace at h
  split at h
  · next d hd =>
    obtain ⟨-, hc⟩ := Option.ite_none_right_eq_some.1 h
    exact hd.trans hc
  · simp at h

/-- The cluster that is picked for a thread of context `x`. -/
theorem pickCluster_spec {x c : Nat} (h : pickCluster s x = some c) :
    c ∈ partClusters s (partNum s x) ∧ (usedSlots s c).length < 16 ∧ ((clusterAt s c).bound = none ∨ (clusterAt s c).bound = some x) ∧
    ∀ d ∈ partClusters s (partNum s x), (usedSlots s d).length < 16 → (clusterAt s d).bound = some x →
      (clusterAt s c).bound = some x ∧ (usedSlots s c).length ≤ (usedSlots s d).length ∧
        ((usedSlots s c).length = (usedSlots s d).length → c ≤ d) := by
  obtain ⟨hmem, hmin⟩ := bestCluster_spec h
  simp only [List.mem_filter, Bool.and_eq_true, Bool.or_eq_true, decide_eq_true_eq, Option.isNone_iff_eq_none] at hmem hmin
  obtain ⟨hpart, hbound, hroom⟩ := hmem
  refine ⟨hpart, hroom, hbound, fun d hd hdroom hdbound => ?_⟩
  have hle := hmin d ⟨hd, .inr hdbound, hdroom⟩
  rcases hbound with hb | hb
  · simp [clusterRank, Prod.Lex.toLex_le_toLex, hb, hdbound] at hle
  · simp only [clusterRank, Prod.Lex.toLex_le_toLex, hb, hdbound] at hle
    refine ⟨hb, ?_, ?_⟩ <;> simp at hle <;> omega

theorem longestRun_spec {l : List (Nat × Ctx)} {q : Nat × Ctx} (h : longestRun l = some q) : q ∈ l ∧ ∀ r ∈ l, q.2.runSince ≤ r.2.runSince := by
  induction l generalizing q with
  | nil => simp [longestRun] at h
  | cons a l ih =>
    rw [longestRun] at h
    split at h
    · next hnone =>
      obtain rfl := Option.some.inj h
      have hl : l = [] := by
        cases l with
        | nil => rfl
        | cons b l => rw [longestRun] at hnone; split at hnone <;> simp at hnone
      simp [hl]
    · next d hd =>
      obtain ⟨hmem, hmin⟩ := ih hd
      obtain rfl := Option.some.inj h
      split
      · next hlt =>
        refine ⟨List.mem_cons_of_mem _ hmem, fun r hr => ?_⟩
        rcases List.mem_cons.1 hr with rfl | hr
        · exact hlt.le
        · exact hmin r hr
      · next hlt =>
        refine ⟨List.mem_cons_self .., fun r hr => ?_⟩
        rcases List.mem_cons.1 hr with rfl | hr
        · exact le_refl _
        · exact (not_lt.1 hlt).trans (hmin r hr)

theorem longestRun_isSome (l : List (Nat × Ctx)) : (longestRun l).isSome = !l.isEmpty := by
  cases l with
  | nil => rfl
  | cons a l => rw [longestRun]; split <;> rfl

/-! ### Time slices (R318) -/

theorem victimFor_isSome (i : Item) : (victimFor s i).isSome = s.ctxs.any (fun q => mayVictim s i q.1 q.2) := by
  rw [victimFor, longestRun_isSome, Bool.eq_iff_iff]
  simp [List.filter_eq_nil_iff]

theorem execTimeSliceDecision_eq (p : Nat) : execTimeSliceDecision p s =
    .next (match firstItem s.now ((stuckItems s p).filter (fun i => s.ctxs.any (fun q => mayVictim s i q.1 q.2))) with
      | some i => match victimFor s i with
        | some c => beginPreempt s c.1
        | none => s
      | none => s) := by
  simp only [execTimeSliceDecision, victimFor_isSome] <;> rfl

/-- The victim of the first item that has one. -/
theorem victimFor_of_first {p : Nat} {i : Item}
    (h : firstItem s.now ((stuckItems s p).filter (fun i => s.ctxs.any (fun q => mayVictim s i q.1 q.2))) = some i) :
    ∃ q ∈ s.ctxs, mayVictim s i q.1 q.2 = true ∧ victimFor s i = some q ∧
      ∀ r ∈ s.ctxs, mayVictim s i r.1 r.2 = true → q.2.runSince ≤ r.2.runSince := by
  obtain ⟨-, hany⟩ := List.mem_filter.1 (firstItem_mem h)
  obtain ⟨q, hq⟩ := Option.isSome_iff_exists.1 ((victimFor_isSome i).trans hany)
  obtain ⟨hmem, hmin⟩ := longestRun_spec hq
  obtain ⟨hctx, hvictim⟩ := List.mem_filter.1 hmem
  exact ⟨q, hctx, hvictim, hq, fun r hr hv => hmin r (List.mem_filter.2 ⟨hr, hv⟩)⟩

/-! ### Admission (R33, R39, R391) -/

theorem execLaunchAdmit_of_waiting {l : Nat} {k : Launch} (hl : tblGet l s.launches = some k) (ha : k.admitted = false) (hf : k.fill = none) :
    execLaunchAdmit l s = .next (match checkGraph l k s with
      | (s, .refuse r) => refuseLaunch s l k r
      | (s, .absent p r) => modLaunch s l (fun k => { k with fill := some (p, r.addr, r.idx % 2 ^ 32 + r.table * 2 ^ 32) })
      | (s, .pending) => s
      | (s, .ok ts) =>
        if 16384 < poolTasks s - k.resv + ts.length then s
        else refreshLaunch (modLaunch s l (fun k => { k with admitted := true, tasks := ts, fill := none, got := [] })) l) := by
  simp only [execLaunchAdmit, hl, ha, hf] <;> rfl

theorem execLaunchAdmit_of_admitted {l : Nat} {k : Launch} (hl : tblGet l s.launches = some k) (ha : k.admitted = true) :
    execLaunchAdmit l s = .next s := by
  simp [execLaunchAdmit, hl, ha]

/-! ### Dispatch of a thread (R43, R313, R314) -/

@[simp] theorem memClear_threads (lo hi : Nat) : (memClear s lo hi).threads = s.threads := rfl

theorem foldl_memClear_threads {α : Type} (lo hi : α → Nat) (l : List α) (s : State) :
    (l.foldl (fun s k => memClear s (lo k) (hi k)) s).threads = s.threads := by
  induction l generalizing s with
  | nil => rfl
  | cons k l ih => exact (ih _).trans (memClear_threads ..)

theorem clearCluster_eq (s : State) (c : Nat) : clearCluster s c =
    modCluster (memClear (memClear (memClear
      ((List.range 8).foldl (fun s k => memClear s (islandCell (siteId c k 0) 0) (islandCell (siteId c k 0) 65536)) s)
      (wCell c 0) (wCell (c + 1) 0)) (aCell c 0) (aCell (c + 1) 0)) (cCell c 0) (cCell (c + 1) 0)) c
      (fun k => { k with handles := [], sat := [] }) := rfl

@[simp] theorem clearCluster_threads (c : Nat) : (clearCluster s c).threads = s.threads := by
  rw [clearCluster_eq, modCluster_threads, memClear_threads, memClear_threads, memClear_threads, foldl_memClear_threads]

@[simp] theorem bindCluster_threads (c x : Nat) : (bindCluster s c x).threads = s.threads := by
  unfold bindCluster
  split
  · rfl
  · next hb =>
    have hclear : (if (clusterAt s c).lastCtx = some x then s else clearCluster s c).threads = s.threads := by
      split
      · rfl
      · exact clearCluster_threads c
    exact hclear

@[simp] theorem setTask_threads (n j : Nat) (st : ItemState) : (setTask s n j st).threads = s.threads := rfl
@[simp] theorem joinSet_threads (key t : Nat) : (joinSet s key t).threads = s.threads := by
  unfold joinSet
  split <;> rfl

/-- The thread that starts in the lowest free slot. -/
theorem dispatchThread_threads {n j : Nat} {l : Launch} {t : Task} {c slot : Nat} (hslot : slot < 16) (hfree : slot ∉ usedSlots s c)
    (hlow : ∀ k < slot, k ∈ usedSlots s c) : (dispatchThread s n j l t c).threads =
      tblSet (16 * c + slot) (startThread (bindCluster s c l.ctx) l.ctx n j l t (16 * c + slot)) s.threads := by
  have hused : usedSlots (bindCluster s c l.ctx) c = usedSlots s c := by simp [usedSlots]
  have hfind : (List.range 16).find? (fun k => !(usedSlots (bindCluster s c l.ctx) c).contains k) = some slot := by
    rw [List.find?_range_eq_some, hused]
    refine ⟨by simpa using hfree, List.mem_range.2 hslot, fun k hk => by simpa using hlow k hk⟩
  simp only [dispatchThread, hfind]
  split <;> simp

theorem regGet_startThread {x n j : Nat} {l : Launch} {t : Task} {tid a1 a2 a3 a4 : Nat} (ht : t.args = [a1, a2, a3, a4]) (r : BitVec 5) :
    regGet (startThread s x n j l t tid) r = if r = 0 then 0 else
      (tblGet r.toNat [(1, BitVec.ofNat 64 a1), (2, BitVec.ofNat 64 a2), (3, BitVec.ofNat 64 a3), (4, BitVec.ofNat 64 a4), (5, BitVec.ofNat 64 j),
        (6, BitVec.ofNat 64 (n % 2 ^ 32))]).getD 0 := by
  simp only [regGet, startThread, ht]
  rfl

/-- An item of the partition ahead of `i` that can go before it. -/
def waitsBehind (s : State) (p : Nat) (i : Item) : Prop :=
  (∃ b ∈ readyThreads s p, itemBefore s.now b i = true ∧ threadPlace s b ≠ none) ∨
    ∃ b ∈ suspendedItems s p, itemBefore s.now b i = true ∧ placerServes s b = true ∧ mayReturn s b.ctx = true

theorem waitsBehind_iff (i : Item) : waitsBehind s (partNum s i.ctx) i ↔
    ((readyThreads s (partNum s i.ctx)).any (fun j => itemBefore s.now j i && (threadPlace s j).isSome) || returnsBefore s i) = true := by
  simp only [waitsBehind, returnsBefore, Bool.or_eq_true, List.any_eq_true, Bool.and_eq_true, Option.isSome_iff_ne_none, and_assoc]

theorem execThreadTaskDispatch_of {l j : Nat} {n : Launch} {t : Task} (hl : tblGet l s.launches = some n) (ht : taskAt n j = some t) {i : Item}
    (hi : (⟨n.ctx, n.prio, t.readyAt, l, j, 0⟩ : Item) = i) {items : List Item} (hitems : readyThreads s (partNum s n.ctx) = items) :
    execThreadTaskDispatch l j s = .next (
      if (!items.contains i || (items.any (fun j => itemBefore s.now j i && (threadPlace s j).isSome) || returnsBefore s i)) = true then s else
      match threadPlace s i with
      | some c => dispatchThread s l j n t c
      | none => s) := by
  subst hi hitems
  simp only [execThreadTaskDispatch, hl, ht, Bool.or_assoc] <;> rfl

/-! ### The search for places (R71, R72; log 12): what it finds, its last step has let through -/

section
variable {α : Type} {c : α}

theorem exists_of_ways {free : List Nat} {next : List Nat → Nat → Bool} {ends : List Nat → Bool} {k : List Nat → Option α} {n : Nat} {path : List Nat}
    (h : ways free next ends k n path = some c) : ∃ path, k path = some c := by
  induction n generalizing path with
  | zero =>
    rw [ways] at h
    exact ⟨path, (Option.ite_none_right_eq_some.1 h).2⟩
  | succ n ih =>
    rw [ways] at h
    obtain ⟨b, -, hb⟩ := List.exists_of_findSome?_eq_some h
    exact ih (Option.ite_none_right_eq_some.1 hb).2

theorem exists_of_layArcs {g : Graph} {free : List Nat} {m : Tbl Nat} {home : Option Nat} {k : List (List Nat) → Option α} {arcs : List GArc}
    {acc : List (List Nat)} (h : layArcs g free m home k arcs acc = some c) : ∃ paths, k paths = some c := by
  induction arcs generalizing acc with
  | nil => exact ⟨acc, h⟩
  | cons a arcs ih =>
    rw [layArcs] at h
    obtain ⟨n, -, hn⟩ := List.exists_of_findSome?_eq_some h
    obtain ⟨path, hpath⟩ := exists_of_ways hn
    exact ih hpath

theorem exists_of_seatNodes {g : Graph} {free : List Nat} {k : Tbl Nat → Option α} {nodes : List Nat} {m : Tbl Nat}
    (h : seatNodes g free k nodes m = some c) : ∃ m, k m = some c := by
  induction nodes generalizing m with
  | nil => exact ⟨m, h⟩
  | cons i nodes ih =>
    rw [seatNodes] at h
    split at h
    · obtain ⟨site, -, hsite⟩ := List.exists_of_findSome?_eq_some h
      exact ih (Option.ite_none_right_eq_some.1 hsite).2
    · simp at h

end

theorem findPlacement_good {f : Nat} {fm : Form} {g : Graph} {c : Choice} (h : findPlacement s f fm g = some c) :
    goodPlacement s f fm g c.ws c.routes c.isles = true := by
  rw [findPlacement, searchPlacement] at h
  obtain ⟨-, hseat⟩ := Option.ite_none_left_eq_some.1 h
  obtain ⟨m, hm⟩ := exists_of_seatNodes hseat
  obtain ⟨paths, hpaths⟩ := exists_of_layArcs hm
  obtain ⟨hgood, hc⟩ := Option.ite_none_right_eq_some.1 hpaths
  rw [← Option.some.inj hc]
  exact hgood

/-! ### The turn of an item at the placer (R315, R325) -/

theorem mem_of_tblGet {α : Type} {k : Nat} {v : α} {t : Tbl α} (h : tblGet k t = some v) : (k, v) ∈ t := by
  induction t with
  | nil => simp [tblGet] at h
  | cons p t ih =>
    obtain ⟨j, u⟩ := p
    rw [tblGet] at h
    split at h
    · next hj => rw [hj, Option.some.inj h]; exact List.mem_cons_self ..
    · split at h
      · simp at h
      · exact List.mem_cons_of_mem _ (ih h)

theorem tblGet_of_above {α : Type} {k : Nat} {t : Tbl α} (h : ∀ p ∈ t, p.1 < k) : tblGet k t = none := by
  induction t with
  | nil => rfl
  | cons p t ih =>
    have hp := h p (List.mem_cons_self ..)
    rw [tblGet, if_neg (Nat.ne_of_lt hp), if_neg (Nat.lt_asymm hp), ih fun q hq => h q (List.mem_cons_of_mem _ hq)]

theorem placerServes_iff (j : Item) : placerServes s j = true ↔ savedForms s j.ctx = [] ∨
    (((readyForms s (partNum s j.ctx)).filter (reservedItem s.now)) = [] ∧ aheadPassed s (partNum s j.ctx) j = true) := by
  simp only [placerServes, Bool.or_eq_true, Bool.and_eq_true, List.isEmpty_iff]

theorem aheadPassed_form {p : Nat} {i : Item} (h : aheadPassed s p i = true) {g : Nat} {gm : Form} (hg : formAt s g = some gm)
    (hplace : mayPlace s gm = true) (hp : partNum s gm.ctx = p) (hbefore : itemBefore s.now (formItem gm) i = true) :
    gm.passed = true ∨ stillReading s g gm = true := by
  obtain ⟨hforms, -⟩ := Bool.and_eq_true_iff.1 h
  have := List.all_eq_true.1 hforms _ (mem_of_tblGet hg)
  simpa [hplace, inPartition, hp, hbefore] using this

theorem aheadPassed_suspended {p : Nat} {i : Item} (h : aheadPassed s p i = true) {j : Item} (hj : j ∈ suspendedItems s p)
    (hbefore : itemBefore s.now j i = true) (hsaved : savedForms s j.ctx ≠ []) :
    lacksClusters s j.ctx = true ∨ ∃ q ∈ savedForms s j.ctx, q.2.passed = true := by
  obtain ⟨-, hitems⟩ := Bool.and_eq_true_iff.1 h
  have := List.all_eq_true.1 hitems j hj
  simpa only [hbefore, Bool.true_and, Bool.not_not, Bool.or_eq_true, List.isEmpty_iff, hsaved, false_or, List.any_eq_true] using this

theorem placeTurn_of_reserved {fm : Form} (h : placeTurn s fm = true) {i : Item}
    (hi : firstItem s.now ((readyForms s (partNum s fm.ctx)).filter (reservedItem s.now)) = some i) : i = formItem fm := by
  simp only [placeTurn, hi] at h
  exact of_decide_eq_true h

theorem placeTurn_of_none {fm : Form} (h : placeTurn s fm = true)
    (hi : firstItem s.now ((readyForms s (partNum s fm.ctx)).filter (reservedItem s.now)) = none) :
    aheadPassed s (partNum s fm.ctx) (formItem fm) = true := by
  simpa only [placeTurn, hi] using h

/-! ### Reasons 11 and 12 (R394) -/

/-- The formation record is larger than the save area. -/
def tooDeep (s : State) (x nodes scratch : Nat) : Prop := ∃ c, ctxOf s x = some c ∧ c.savesz < formRecordBytes nodes scratch

section
variable {f : Nat} {fm : Form} {nodes scratch : Nat} {g : Graph}

theorem tooDeep_iff : (ctxOf s fm.ctx).any (fun c => decide (c.savesz < formRecordBytes nodes scratch)) = true ↔ tooDeep s fm.ctx nodes scratch := by
  simp [tooDeep, Option.any_eq_true]

theorem lateReasons_of_deep (h : tooDeep s fm.ctx nodes scratch) : lateReasons s f fm nodes scratch none = some (rejectAt 12 noNode) :=
  (if_neg (by simp)).trans (if_pos (tooDeep_iff.2 h))

theorem lateReasons_of_fit (h : ¬tooDeep s fm.ctx nodes scratch) : lateReasons s f fm nodes scratch none = none :=
  (if_neg (by simp)).trans (if_neg (mt tooDeep_iff.1 h))

theorem lateReasons_of_nowhere (h : findPlacement (alone s f) f fm g = none) : lateReasons s f fm nodes scratch (some g) = some (rejectAt 11 noNode) :=
  if_pos (by simp [h])

theorem lateReasons_of_somewhere (h : findPlacement (alone s f) f fm g ≠ none) :
    lateReasons s f fm nodes scratch (some g) = lateReasons s f fm nodes scratch none :=
  (if_neg (by simpa using h)).trans (if_neg (by simp)).symm

end

/-! ### Placement (R71, R72, R315, R392 to R394) -/

/-- What comes of a good graph with the places `choice`. -/
def placedAt (s : State) (f : Nat) (fm : Form) (g : Graph) (choice : Option Choice) : State :=
  match lateReasons s f fm g.nodes.length g.scratch (if choice.isSome then none else some g) with
  | some r => rejectForm s f fm r
  | none => match choice.filter (fun _ => fitsSave s fm.ctx 0 0 [(g.nodes.length, g.scratch)]) with
    | some c => settlePlaced s f g c.ws c.routes c.isles
    | none => modForm s f (fun fm => { fm with passed := true, cramped := choice.isSome })

section
variable {f : Nat} {fm : Form} {wheres : List Nat} {routes : List (List Nat)} {isles : List Nat}

theorem execPlaceFormation_of_idle (hf : formAt s f = some fm) (h : mayPlace s fm = false ∨ fm.passed = true ∨ placeTurn s fm = false) :
    execPlaceFormation f wheres routes isles s = .next s := by
  simp only [execPlaceFormation, hf]
  refine congrArg _ (if_pos ?_)
  rcases h with h | h | h <;> simp [h]

/-- The turn of an item that waits for no page. -/
theorem execPlaceFormation_of_turn (hf : formAt s f = some fm) (hm : mayPlace s fm = true) (hp : fm.passed = false) (ht : placeTurn s fm = true)
    (hfill : fm.fill = none) : execPlaceFormation f wheres routes isles s = .next (match readGraph s f fm none (lateReasons s f fm) with
      | (s, .reject r) => rejectForm s f fm r
      | (s, .pending) => s
      | (s, .absent p a) => modForm s f (fun fm => { fm with fill := some (p, a) })
      | (s, .ok g) =>
        match checkRecords g fm.home.isSome with
        | some r => rejectForm s f fm r
        | none => placedAt s f fm g (if goodPlacement s f fm g wheres routes isles then some ⟨wheres, routes, isles⟩ else findPlacement s f fm g)) := by
  simp only [execPlaceFormation, hf, hm, hp, ht, hfill] <;> rfl

variable {g : Graph} {choice : Option Choice}

theorem placedAt_of_nowhere (hc : choice = none) (ha : findPlacement (alone s f) f fm g = none) :
    placedAt s f fm g choice = rejectForm s f fm (rejectAt 11 noNode) := by
  subst hc
  simp only [placedAt, Option.isSome_none, Bool.false_eq_true, if_false, lateReasons_of_nowhere ha]

/-- Of a graph that can be placed somewhere, the size of its record decides. -/
theorem lateReasons_of_choice (h : choice = none → findPlacement (alone s f) f fm g ≠ none) (nodes scratch : Nat) :
    lateReasons s f fm nodes scratch (if choice.isSome then none else some g) = lateReasons s f fm nodes scratch none := by
  cases choice with
  | some c => rfl
  | none => exact lateReasons_of_somewhere (h rfl)

theorem placedAt_of_deep (h : choice = none → findPlacement (alone s f) f fm g ≠ none) (hd : tooDeep s fm.ctx g.nodes.length g.scratch) :
    placedAt s f fm g choice = rejectForm s f fm (rejectAt 12 noNode) := by
  simp only [placedAt, lateReasons_of_choice h, lateReasons_of_deep hd]

theorem placedAt_of_fit (h : choice = none → findPlacement (alone s f) f fm g ≠ none) (hd : ¬tooDeep s fm.ctx g.nodes.length g.scratch) :
    placedAt s f fm g choice = match choice.filter (fun _ => fitsSave s fm.ctx 0 0 [(g.nodes.length, g.scratch)]) with
      | some c => settlePlaced s f g c.ws c.routes c.isles
      | none => modForm s f (fun fm => { fm with passed := true, cramped := choice.isSome }) := by
  simp only [placedAt, lateReasons_of_choice h, lateReasons_of_fit hd]

theorem placedAt_of_passed (h : choice = none → findPlacement (alone s f) f fm g ≠ none) (hd : ¬tooDeep s fm.ctx g.nodes.length g.scratch)
    (hno : choice.filter (fun _ => fitsSave s fm.ctx 0 0 [(g.nodes.length, g.scratch)]) = none) :
    placedAt s f fm g choice = modForm s f (fun fm => { fm with passed := true, cramped := choice.isSome }) := by
  rw [placedAt_of_fit h hd, hno]

end

/-! ### Arming (R47, R395) -/

theorem execFormationArm_of_idle {f : Nat} {fm : Form} (hf : formAt s f = some fm) (h : fm.phase ≠ .placing ∨ ctxRuns s fm.ctx = false) :
    execFormationArm f s = .next s := by
  simp only [execFormationArm, hf]
  refine congrArg _ (if_pos ?_)
  rcases h with h | h <;> simp [h]

theorem execFormationArm_of_placing {f : Nat} {fm : Form} (hf : formAt s f = some fm) (hp : fm.phase = .placing) (hr : ctxRuns s fm.ctx = true) :
    let held := holdPorts (fm.isles.foldl (fun s i => memClear s (islandCell i 0) (islandCell i 65536)) s) f fm 0 fm.nodes
    let armed := modForm held f (fun fm => underHolds held { fm with
      phase := .armed, masks := ctxMasks held fm.ctx, moves := fm.moves + 1
      nodes := fm.nodes.map (fun nd => { nd with inj := firstTokens fm.tiles nd }) })
    let told := if fm.arm.isSome then armed else setTask armed fm.launch fm.task .running
    execFormationArm f s = .next (match blockedFrom fm 0 fm.nodes with
      | some (n, r, w) => failNode (putNode told f n (fun nd => { nd with blocked := true })) f n
        (fun fm nd => { nodeRecord fm nd 0x23 r with word := w.toNat })
      | none => told) := by
  simp only [execFormationArm, hf, hp, hr] <;> rfl

/-- Settles O47: admission by the check of the graph, dispatch and time slices by the order of items, of clusters and of victims, placement by
the reading of the graph and the search for places, arming by the first word that is not valid. -/
theorem dispatching : Obligations.Dispatching := by
  unfold Obligations.Dispatching
  intro s
  refine ⟨?admission, fun l k hl ha => execLaunchAdmit_of_admitted hl ha, ?dispatch, placerServes_iff, effPrio_eq, ?slice, ?place, ?arm⟩
  case admission =>
    intro l k hl ha hf admits s1
    have hexec := execLaunchAdmit_of_waiting hl ha hf
    refine ⟨fun ts hc => ?_, fun r hc => ?_, fun p r hc => ?_, fun hc => ?_⟩ <;> rw [hc] at hexec
    · exact ⟨fun hfull => hexec.trans (congrArg _ (if_pos hfull)), fun hroom => hexec.trans (congrArg _ (if_neg (Nat.not_lt.2 hroom)))⟩
    · exact hexec
    · exact hexec
    · exact hexec
  case dispatch =>
    intro l j n t hl ht i items go behind
    have hexec := execThreadTaskDispatch_of hl ht (i := i) rfl (items := items) rfl
    have hbehind : behind ↔ _ := waitsBehind_iff (s := s) i
    refine ⟨fun hno => ?_, fun hi hb => ?_, fun c hi hb hc => ?_⟩
    · rcases hno with hi | hnone
      · exact hexec.trans (congrArg _ (if_pos (by simp [hi])))
      · rw [hnone] at hexec
        exact hexec.trans (congrArg _ (ite_self _))
    · exact hexec.trans (congrArg _ (if_pos (Bool.or_eq_true_iff.2 (.inr (hbehind.1 hb)))))
    · obtain ⟨hpart, hroom, hbound, hmin⟩ := pickCluster_spec (threadPlace_eq_some hc)
      refine ⟨hpart, hroom, hbound, hmin, fun a1 a2 a3 a4 slot hargs hslot hfree hlow => ?_⟩
      have hgo : ¬(!items.contains i || (items.any (fun j => itemBefore s.now j i && (threadPlace s j).isSome) || returnsBefore s i)) = true := by
        rw [Bool.or_eq_true_iff, not_or]
        exact ⟨by simp [hi], mt hbehind.2 hb⟩
      have hthreads := dispatchThread_threads (n := l) (j := j) (l := n) (t := t) hslot hfree hlow
      have hreg := regGet_startThread (s := bindCluster s c n.ctx) (x := n.ctx) (n := l) (j := j) (l := n) (tid := 16 * c + slot) hargs
      rw [hc] at hexec
      refine ⟨_, _, hexec.trans (congrArg _ (if_neg hgo)), by rw [hthreads, tblGet_tblSet], rfl, rfl, rfl, rfl, rfl, rfl, rfl, rfl,
        hreg 1, hreg 2, hreg 3, hreg 4, hreg 5, hreg 6, fun r hr => ?_, fun u hu => by rw [hthreads, tblGet_tblSet_ne hu]⟩
      rcases hr with rfl | hr
      · exact hreg 0
      · rw [hreg r, tblGet_of_above (by simp only [List.forall_mem_cons]; simp; omega)]
        exact ite_self _
  case slice =>
    intro p first slice
    have hexec := execTimeSliceDecision_eq (s := s) p
    refine ⟨fun hnone => ?_, fun i hi => ?_⟩
    · rw [show firstItem s.now _ = none from hnone] at hexec
      exact hexec
    · obtain ⟨q, hq, hvictim, hchosen, hmin⟩ := victimFor_of_first hi
      rw [show firstItem s.now _ = some i from hi] at hexec
      simp only [hchosen] at hexec
      exact ⟨q, hq, hvictim, hexec, hmin⟩
  case place =>
    intro f fm wheres routes isles hf place
    refine ⟨execPlaceFormation_of_idle hf, fun hm hp ht hfill s1 => ?_, fun nodes scratch g => ?_, fun g c => findPlacement_good,
      fun ht hnone j hj hb hs => aheadPassed_suspended (placeTurn_of_none ht hnone) hj hb hs,
      fun ht hnone g gm hg hmg hpart hb => aheadPassed_form (placeTurn_of_none ht hnone) hg hmg hpart hb, fun ht i => placeTurn_of_reserved ht⟩
    · have hexec := execPlaceFormation_of_turn (wheres := wheres) (routes := routes) (isles := isles) hf hm hp ht hfill
      refine ⟨fun r hread => ?_, fun hread => ?_, fun p a hread => ?_, fun g r hread hbad => ?_, fun g hread hgood => ?_⟩ <;> rw [hread] at hexec
      · exact hexec
      · exact hexec
      · exact hexec
      · simp only [hbad] at hexec
        exact hexec
      · simp only [hgood] at hexec
        intro given found never deep room
        have hsome : ¬never → (if given then some ⟨wheres, routes, isles⟩ else found) = none → findPlacement (alone s1 f) f fm g ≠ none := by
          intro hnever hnone ha
          refine hnever ⟨?_, ?_, ha⟩
          · cases hg : given with
            | false => rfl
            | true => simp [hg] at hnone
          · cases hg : given with
            | false => simpa [hg] using hnone
            | true => simp [hg] at hnone
        have hfit (hnever : ¬never) (hdeep : ¬deep) := hexec.trans (congrArg _ (placedAt_of_fit (hsome hnever) hdeep))
        refine ⟨fun hnever => ?_, fun hnever hdeep => ?_, fun hnever hdeep hroom hgiven => ?_, fun hnever hdeep hroom hgiven c hfound => ?_,
          fun hnever hdeep hno => ?_⟩
        · obtain ⟨hgiven, hfound, ha⟩ := hnever
          exact hexec.trans (congrArg _ (placedAt_of_nowhere ((if_neg (Bool.eq_false_iff.1 hgiven)).trans hfound) ha))
        · exact hexec.trans (congrArg _ (placedAt_of_deep (hsome hnever) hdeep))
        · refine (hfit hnever hdeep).trans (congrArg _ ?_)
          rw [if_pos hgiven, Option.filter_some, if_pos hroom]
        · refine (hfit hnever hdeep).trans (congrArg _ ?_)
          rw [if_neg (Bool.eq_false_iff.1 hgiven), show findPlacement s1 f fm g = some c from hfound, Option.filter_some, if_pos hroom]
        · have hnone : (if given then some (⟨wheres, routes, isles⟩ : Choice) else found).filter (fun _ => room) = none := by
            rcases hno with hroom | ⟨hgiven, hfound⟩
            · rw [Option.filter_eq_none_iff]
              exact fun c _ hr => Bool.eq_false_iff.1 hroom hr
            · rw [hgiven, hfound]
              rfl
          have hcramped : (if given then some (⟨wheres, routes, isles⟩ : Choice) else found).isSome = (given || found.isSome) := by
            cases given <;> rfl
          rw [← hcramped]
          exact hexec.trans (congrArg _ (placedAt_of_passed (hsome hnever) hdeep hnone))
    · exact ⟨lateReasons_of_nowhere, lateReasons_of_somewhere, lateReasons_of_deep, lateReasons_of_fit⟩
  case arm =>
    intro f fm hf arm
    refine ⟨execFormationArm_of_idle hf, fun hp hr => ?_⟩
    intro clear held armed told
    have hexec := execFormationArm_of_placing hf hp hr
    refine ⟨fun hb => ?_, fun n r w hb => ?_⟩ <;> rw [hb] at hexec
    · exact hexec
    · exact hexec

end Sys2Proof.Machine

/-! PROOFS. The firings of the elements (O35). -/

namespace Sys2Proof.Machine

/-! ### Element words (R165, R166) -/

section
variable (op : Nat) (a b : BitVec 3) (fc : BitVec 4) (r : BitVec 2) (x w : BitVec 1) (k : BitVec 10) (y : BitVec 4)

@[simp] theorem elemWord_op : (elemWord op a b fc r x w k).extractLsb' 24 8 = BitVec.ofNat 8 op := by
  rw [elemWord]; repeat rw [field_high _ _ _ _ (by decide)]
  simp
@[simp] theorem elemWord_top : (elemWord op a b fc r x w k).extractLsb' 31 1 = (BitVec.ofNat 8 op).extractLsb' 7 1 := by
  rw [elemWord]; repeat rw [field_high _ _ _ _ (by decide)]
@[simp] theorem elemWord_a : (elemWord op a b fc r x w k).extractLsb' 21 3 = a := by
  rw [elemWord]; repeat rw [field_high _ _ _ _ (by decide)]
  rw [field_low _ _ _ _ (by decide)]; simp
@[simp] theorem elemWord_b : (elemWord op a b fc r x w k).extractLsb' 18 3 = b := by
  rw [elemWord]; repeat rw [field_high _ _ _ _ (by decide)]
  rw [field_low _ _ _ _ (by decide)]; simp
@[simp] theorem elemWord_fmt : (elemWord op a b fc r x w k).extractLsb' 14 4 = fc := by
  rw [elemWord]; repeat rw [field_high _ _ _ _ (by decide)]
  rw [field_low _ _ _ _ (by decide)]; simp
@[simp] theorem elemWord_rnd : (elemWord op a b fc r x w k).extractLsb' 12 2 = r := by
  rw [elemWord]; repeat rw [field_high _ _ _ _ (by decide)]
  rw [field_low _ _ _ _ (by decide)]; simp
@[simp] theorem elemWord_sat : (elemWord op a b fc r x w k).extractLsb' 11 1 = x := by
  rw [elemWord]; repeat rw [field_high _ _ _ _ (by decide)]
  rw [field_low _ _ _ _ (by decide)]; simp
@[simp] theorem elemWord_swap : (elemWord op a b fc r x w k).extractLsb' 10 1 = w := by
  rw [elemWord]; repeat rw [field_high _ _ _ _ (by decide)]
  rw [field_low _ _ _ _ (by decide)]; simp
@[simp] theorem elemWord_k : (elemWord op a b fc r x w k).extractLsb' 0 10 = k := by rw [elemWord, field_low _ _ _ _ (by decide)]; simp
/-- A word that neither rounds nor saturates: both fields together. -/
@[simp] theorem elemWord_rndSat : (elemWord op a b fc 0#2 0#1 w k).extractLsb' 11 3 = 0#3 := by
  rw [← BitVec.extractLsb'_append_extractLsb'_eq_extractLsb' (start₂ := 12) (len₂ := 2) (len₁ := 1) rfl, elemWord_rnd, elemWord_sat]
  rfl
/-- The eleven low bits, which `pack` takes as one field. -/
@[simp] theorem elemWord_swapK : (elemWord op a b fc r x w k).extractLsb' 0 11 = w ++ k := by
  rw [← BitVec.extractLsb'_append_extractLsb'_eq_extractLsb' (start₂ := 10) (len₂ := 1) (len₁ := 10) rfl, elemWord_swap, elemWord_k]
@[simp] theorem elemWord_kHigh : (elemWord op a b fc r x w (0#6 ++ y)).extractLsb' 4 6 = 0#6 := by
  rw [elemWord, field_low _ _ _ _ (by decide), field_high _ _ _ _ (by decide)]; simp
@[simp] theorem elemWord_kLow : (elemWord op a b fc r x w (0#6 ++ y)).extractLsb' 0 4 = y := by
  rw [elemWord, field_low _ _ _ _ (by decide), field_low _ _ _ _ (by decide)]; simp

/-- Integer arithmetic, bits and comparisons (R282 to R284): each instruction with its word. -/
noncomputable def intRows : List (Instr × BitVec 32) :=
  [(.elemAdd a b fc x w k, elemWord 0x01 a b fc 0 x w k), (.elemSub a b fc x w k, elemWord 0x02 a b fc 0 x w k),
   (.elemMul a b fc x w k, elemWord 0x03 a b fc 0 x w k), (.elemMulh a b fc w k, elemWord 0x04 a b fc 0 0 w k),
   (.elemMin a b fc w k, elemWord 0x05 a b fc 0 0 w k), (.elemMax a b fc w k, elemWord 0x06 a b fc 0 0 w k),
   (.elemAbs a fc x w k, elemWord 0x07 a 0 fc 0 x w k), (.elemNeg a fc x w k, elemWord 0x08 a 0 fc 0 x w k),
   (.elemAvg a b fc r w k, elemWord 0x09 a b fc r 0 w k), (.elemAbsd a b fc x w k, elemWord 0x0A a b fc 0 x w k),
   (.elemDiv a b fc x w k, elemWord 0x0B a b fc 0 x w k), (.elemRem a b fc w k, elemWord 0x0C a b fc 0 0 w k),
   (.elemAnd a b fc w k, elemWord 0x10 a b fc 0 0 w k), (.elemOr a b fc w k, elemWord 0x11 a b fc 0 0 w k),
   (.elemXor a b fc w k, elemWord 0x12 a b fc 0 0 w k), (.elemNot a fc w k, elemWord 0x13 a 0 fc 0 0 w k),
   (.elemShl a b fc w k, elemWord 0x14 a b fc 0 0 w k), (.elemShr a b fc w k, elemWord 0x15 a b fc 0 0 w k),
   (.elemSra a b fc w k, elemWord 0x16 a b fc 0 0 w k), (.elemRotl a b fc w k, elemWord 0x17 a b fc 0 0 w k),
   (.elemClz a fc w k, elemWord 0x18 a 0 fc 0 0 w k), (.elemCtz a fc w k, elemWord 0x19 a 0 fc 0 0 w k),
   (.elemPopc a fc w k, elemWord 0x1A a 0 fc 0 0 w k), (.elemBrev a fc w k, elemWord 0x1B a 0 fc 0 0 w k),
   (.elemCeq a b fc w k, elemWord 0x20 a b fc 0 0 w k), (.elemCne a b fc w k, elemWord 0x21 a b fc 0 0 w k),
   (.elemClt a b fc w k, elemWord 0x22 a b fc 0 0 w k), (.elemCle a b fc w k, elemWord 0x23 a b fc 0 0 w k),
   (.elemCgt a b fc w k, elemWord 0x24 a b fc 0 0 w k), (.elemCge a b fc w k, elemWord 0x25 a b fc 0 0 w k),
   (.elemCnan a fc w k, elemWord 0x26 a 0 fc 0 0 w k), (.elemMov a fc w k, elemWord 0x27 a 0 fc 0 0 w k)]
/-- Floating arithmetic and functions (R285 to R287): each instruction with its word. -/
noncomputable def floatRows : List (Instr × BitVec 32) :=
  [(.elemFadd a b fc r x w k, elemWord 0x30 a b fc r x w k), (.elemFsub a b fc r x w k, elemWord 0x31 a b fc r x w k),
   (.elemFmul a b fc r x w k, elemWord 0x32 a b fc r x w k), (.elemFdiv a b fc r x w k, elemWord 0x33 a b fc r x w k),
   (.elemFmin a b fc w k, elemWord 0x34 a b fc 0 0 w k), (.elemFmax a b fc w k, elemWord 0x35 a b fc 0 0 w k),
   (.elemFabs a fc w k, elemWord 0x36 a 0 fc 0 0 w k), (.elemFneg a fc w k, elemWord 0x37 a 0 fc 0 0 w k),
   (.elemFsqrt a fc r x w k, elemWord 0x38 a 0 fc r x w k), (.elemFrcp a fc r x w k, elemWord 0x39 a 0 fc r x w k),
   (.elemFrsqrt a fc r x w k, elemWord 0x3A a 0 fc r x w k), (.elemFscale a b fc r x w k, elemWord 0x3B a b fc r x w k),
   (.elemFexp2 a fc r x w k, elemWord 0x40 a 0 fc r x w k), (.elemFlog2 a fc r x w k, elemWord 0x41 a 0 fc r x w k),
   (.elemFtanh a fc r x w k, elemWord 0x42 a 0 fc r x w k), (.elemFsigm a fc r x w k, elemWord 0x43 a 0 fc r x w k),
   (.elemFgelu a fc r x w k, elemWord 0x44 a 0 fc r x w k), (.elemFsilu a fc r x w k, elemWord 0x45 a 0 fc r x w k),
   (.elemFerf a fc r x w k, elemWord 0x46 a 0 fc r x w k), (.elemFsoftp a fc r x w k, elemWord 0x47 a 0 fc r x w k)]
/-- Conversions and accumulations (R288, R289): each instruction with its word. -/
noncomputable def convertRows : List (Instr × BitVec 32) :=
  [(.elemCvt a fc r x w y, elemWord 0x48 a 0 fc r x w (0#6 ++ y)), (.elemPack a b fc (w ++ k), elemWord 0x49 a b fc 0 0 w k),
   (.elemUnpklo a fc w, elemWord 0x4A a 0 fc 0 0 w 0), (.elemUnpkhi a fc w, elemWord 0x4B a 0 fc 0 0 w 0),
   (.elemFround a fc r w, elemWord 0x4C a 0 fc r 0 w 0), (.elemFsign a fc w, elemWord 0x4D a 0 fc 0 0 w 0),
   (.elemIacc a b fc x w, elemWord 0x50 a b fc 0 x w 0), (.elemFacc a b fc r x w, elemWord 0x51 a b fc r x w 0),
   (.elemImaxr a b fc w, elemWord 0x52 a b fc 0 0 w 0), (.elemFmaxr a b fc w, elemWord 0x53 a b fc 0 0 w 0),
   (.elemFamaxr a b fc w, elemWord 0x54 a b fc 0 0 w 0), (.elemCnt a b fc w, elemWord 0x55 a b fc 0 0 w 0)]
/-- The rows of the table of R279. -/
noncomputable def elemRows : List (Instr × BitVec 32) := intRows a b fc r x w k ++ floatRows a b fc r x w k ++ convertRows a b fc r x w k y

theorem decodeElement_of_intRows : ∀ e ∈ intRows a b fc r x w k, decodeElement e.2 = some e.1 := by
  simp only [intRows, List.forall_mem_cons, List.not_mem_nil, false_imp_iff, implies_true, and_true]
  simp [decodeElement, decodeElemWord]
theorem decodeElement_of_floatRows : ∀ e ∈ floatRows a b fc r x w k, decodeElement e.2 = some e.1 := by
  simp only [floatRows, List.forall_mem_cons, List.not_mem_nil, false_imp_iff, implies_true, and_true]
  simp [decodeElement, decodeElemWord]
theorem decodeElement_of_convertRows : ∀ e ∈ convertRows a b fc r x w k y, decodeElement e.2 = some e.1 := by
  simp only [convertRows, List.forall_mem_cons, List.not_mem_nil, false_imp_iff, implies_true, and_true]
  simp [decodeElement, decodeElemWord]
theorem decodeElement_of_elemRows : ∀ e ∈ elemRows a b fc r x w k y, decodeElement e.2 = some e.1 :=
  List.forall_mem_append.2 ⟨List.forall_mem_append.2 ⟨decodeElement_of_intRows a b fc r x w k, decodeElement_of_floatRows a b fc r x w k⟩,
    decodeElement_of_convertRows a b fc r x w k y⟩

theorem execElemPack_append (s : State) : execElemPack a b fc (w ++ k) s = fireElement s (elemWord 0x49 a b fc 0 0 w k) := by
  rw [execElemPack, field_high _ _ _ _ (by decide), field_low _ _ _ _ (by decide)]; simp

/-- Every row is a firing of its word; that of `pack`, the 54th, takes a field of two apart. -/
theorem exec_of_elemRows (s : State) : ∀ e ∈ elemRows a b fc r x w k y, exec e.1 s = fireElement s e.2 := by
  simp only [elemRows, intRows, floatRows, convertRows, List.forall_mem_append, List.forall_mem_cons, List.not_mem_nil, false_imp_iff,
    implies_true, and_true]
  and_intros
  on_goal 54 => exact execElemPack_append a b fc w k s
  all_goals rfl

end

/-! ### The turn of an element (R59, R60, R278, R280) -/

section
variable {s : State} {f n : Nat} {fm : Form} {nd : Node} {w : BitVec 32}

/-- The inputs that take tokens, each with its source (R59). -/
def elemPorts (w : BitVec 32) : List (Nat × Nat) :=
  (if oneInput (elemOp w) then [(0, elemSrcA w)] else [(0, elemSrcA w), (1, elemSrcB w)]).filter (fun p => takesToken p.2)

/-- The tokens that stand at the inputs `ports`. -/
def tokensFrom (fm : Form) (n : Nat) (ports : List (Nat × Nat)) : List ((Nat × Nat) × Flit) :=
  ports.filterMap (fun p => (tokenAt fm n p.1 p.2).map (fun t => (p, t)))

theorem tokensFrom_eq {ins : List ((Nat × Nat) × Flit)} (h : ∀ j ∈ ins, tokenAt fm n j.1.1 j.1.2 = some j.2) :
    tokensFrom fm n (ins.map (·.1)) = ins := by
  rw [tokensFrom, List.filterMap_map]
  refine (List.filterMap_congr (g := some) fun j hj => ?_).trans List.filterMap_some
  simp [h j hj]

theorem tokensFrom_short {ports : List (Nat × Nat)} (h : ∃ p ∈ ports, tokenAt fm n p.1 p.2 = none) :
    (tokensFrom fm n ports).length < ports.length := by
  obtain ⟨p, hp, hnone⟩ := h
  exact List.length_filterMap_lt_length_iff_exists.2 ⟨p, hp, by simp [hnone]⟩

theorem fireElement_short (h : AtNode s f fm n nd) (hno : (∃ p ∈ elemPorts w, tokenAt fm n p.1 p.2 = none) ∨ canEmit fm n 0 = false) :
    fireElement s w = .next s := by
  rw [fireElement, onNode_of h]
  refine congrArg _ (ite_eq_left_iff.2 fun _ => if_pos ?_)
  rcases hno with hno | hno
  · have hshort := tokensFrom_short hno
    simp only [Bool.or_eq_true, decide_eq_true_eq]
    exact .inl (.inr hshort)
  · simp [hno]

/-- A DATA token after its residue check (R54). -/
def residueChecked (t : Tok) : Tok := if t.kind ≠ 0 ∨ t.res = residue t.data then t else poisoned t

theorem checkResidue_snd (s : State) (f n : Nat) (t : Tok) : (checkResidue s f n t).2 = residueChecked t := by
  unfold checkResidue residueChecked
  split
  · rfl
  · split
    · rfl
    · split
      · rfl
      · split <;> rfl

theorem checkResidue_of_right {t : Tok} (h : t.kind ≠ 0 ∨ t.res = residue t.data) (s : State) (f n : Nat) :
    checkResidue s f n t = (s, t) := if_pos h

theorem checkResidues_snd (f n : Nat) (ts : List Tok) (s : State) : (checkResidues s f n ts).2 = ts.map residueChecked := by
  induction ts generalizing s with
  | nil => rfl
  | cons t ts ih => exact congrArg₂ List.cons (checkResidue_snd s f n t) (ih _)

theorem checkResidues_fst_of_right {ts : List Tok} (h : ∀ t ∈ ts, t.res = residue t.data) (s : State) (f n : Nat) :
    (checkResidues s f n ts).1 = s := by
  induction ts with
  | nil => rfl
  | cons t ts ih =>
    obtain ⟨ht, hts⟩ := List.forall_mem_cons.1 h
    rw [checkResidues, checkResidue_of_right (.inr ht)]
    exact ih hts

/-- The token of an input of a firing, after its check. -/
def checkedAt (ins : List ((Nat × Nat) × Flit)) (p : Nat) : Option Tok := (ins.find? (fun j => j.1.1 == p)).map (fun j => residueChecked j.2.tok)

theorem checkedAt_eq (ins : List ((Nat × Nat) × Flit)) (s : State) (f n p : Nat) :
    ((((ins.map (·.1)).map (·.1)).zip (checkResidues s f n (ins.map (·.2.tok))).2).find? (fun q => q.1 == p)).map (·.2) = checkedAt ins p := by
  rw [checkResidues_snd, List.map_map, List.map_map, List.zip_map', List.find?_map, Option.map_map]
  rfl

/-- A turn with sound tokens `ins` at all its inputs, and room for what it emits. -/
theorem fireElement_full (h : AtNode s f fm n nd) (ha : able fm nd 0 = true) (hr : elemReason w = 0) {ins : List ((Nat × Nat) × Flit)}
    (hports : ins.map (·.1) = elemPorts w) (hins : ∀ j ∈ ins, tokenAt fm n j.1.1 j.1.2 = some j.2)
    (hsound : ∀ j ∈ ins, tokReason j.2.tok = 0) (hroom : canEmit fm n 0 = true)
    {t : Tok} {rest : List Tok} (htoks : ins.map (·.2.tok) = t :: rest) :
    fireElement s w = .next (
      let checks := (checkResidues s f n (t :: rest)).1
      let v := elemResult w nd.grp (operandOf fm nd w (elemSrcA w) (checkedAt ins 0)) (operandOf fm nd w (elemSrcB w) (checkedAt ins 1))
      if (t :: rest).all (fun t => decide (t.kind ≤ 1)) then
        if (t :: rest).any (fun t => t.kind == 1) then fired checks f fm n w ins nullTok nd.grp else fired checks f fm n w ins v.1 v.2
      else if isControl t && rest.all (matching t) then fired s f fm n w ins t nd.grp else mismatch s f n 1) := by
  have hfind : ins.find? (fun i => tokReason i.2.tok ≠ 0) = none := by
    rw [List.find?_eq_none]
    intro i hi
    simp [hsound i hi]
  have hturn : ((ins.map (·.1)).isEmpty || decide (ins.length < (ins.map (·.1)).length) || !canEmit fm n 0) = false := by
    have hne : ins ≠ [] := by
      rintro rfl
      simp at htoks
    simp [hroom, hne]
  have htaken : (ins.map (·.1)).filterMap (fun p => (tokenAt fm n p.1 p.2).map (fun t => (p, t))) = ins := tokensFrom_eq hins
  have hpass : (!able fm nd 0 || decide (elemReason w ≠ 0)) = false := by simp [ha, hr]
  have hat (p : Nat) := checkedAt_eq ins s f n p
  rw [htoks] at hat
  rw [elemPorts] at hports
  rw [fireElement, onNode_of h]
  simp only [hpass, ← hports, htaken, hturn, hfind, hat, htoks, List.foldl_map, Bool.false_eq_true, if_false]
  rfl

/-! ### A firing on DATA or NULL in time (R342, R360) -/

/-- Node `n` acts, and DRAIN has not passed it. -/
def undrained (fm : Form) (n : Nat) : Bool := (fm.nodes[n]?).any (fun nd => isActive nd && !nd.drained)

theorem undrained_of_able {cls : Nat} (hn : fm.nodes[n]? = some nd) (ha : able fm nd cls = true) : undrained fm n = true := by
  simp only [able, Bool.and_eq_true] at ha
  obtain ⟨⟨⟨⟨⟨⟨-, hact⟩, -⟩, -⟩, -⟩, hdrain⟩, -⟩ := ha
  rw [undrained, hn]
  exact Bool.and_eq_true_iff.2 ⟨hact, hdrain⟩

theorem undrained_modNode {m : Nat} {g : Node → Node} (hg : ∀ nd, (g nd).overlay = nd.overlay ∧ (g nd).drained = nd.drained) :
    undrained (modNode fm m g) n = undrained fm n := by
  rw [undrained, undrained, modNode, listMod_eq_modify, List.getElem?_modify]
  cases fm.nodes[n]? with
  | none => rfl
  | some nd =>
    obtain ⟨hover, hdrain⟩ := hg nd
    by_cases h : m = n <;> simp [h, isActive, hover, hdrain]

theorem undrained_takeAt (now m p src : Nat) : undrained (takeAt now fm m p src) n = undrained fm n := by
  change undrained (takeFrom fm m p src) n = _
  unfold takeFrom
  split
  · exact undrained_modNode fun _ => ⟨rfl, rfl⟩
  · split <;> rfl

theorem undrained_emitOn (now m p : Nat) (t : Tok) : undrained (emitOn now fm m p t) n = undrained fm n := by
  unfold emitOn
  split <;> rfl

theorem afterEmit_of_low {t : Tok} (ht : t.kind ≤ 1) (w : BitVec 32) (g : Option (BitVec 320 × Bool)) (nd : Node) :
    (afterEmit w g t nd).overlay = nd.overlay ∧ (afterEmit w g t nd).drained = nd.drained := by
  have hno : ¬(t.kind = 2 ∨ t.kind = 3) := by omega
  have h3 : t.kind ≠ 3 := by omega
  simp only [afterEmit, notePassed, hno, if_false]
  split <;> simp [h3]

/-- While a node has still to forward the DRAIN, the formation does not end. -/
theorem settleDrain_of_undrained (hf : formAt s f = some fm) (hu : undrained fm n = true) :
    settleDrain s f = if fm.draining then offerPlaces s else s := by
  have hall : fm.nodes.all (fun nd => !isActive nd || nd.drained) = false := by
    obtain ⟨nd, hn, hopen⟩ := (Option.any_eq_true ..).1 hu
    exact List.all_eq_false.2 ⟨nd, List.mem_of_getElem? hn, by simpa using hopen⟩
  simp only [settleDrain, hf, hall, Bool.and_false, Bool.false_eq_true, if_false]

theorem countElement_of_noQuota {x : Nat} (h : ∀ c, ctxOf s x = some c → c.quotaOn = false) : countElement s x = s := by
  unfold countElement
  split
  · rfl
  · next c hc => simp [debits, h c hc]

/-- A firing that begins within the declared II of the one before it, in a context without a quota, is counted and no more. -/
theorem noteFiring_of_inTime (hf : formAt s f = some fm) (hn : fm.nodes[n]? = some nd) {t0 : Nat} (hl : nd.lastFire = some t0)
    (ht : s.tenths ≤ t0 + (namedNode fm nd).ii) (hq : ∀ c, ctxOf s fm.ctx = some c → c.quotaOn = false) (ins : List (Nat × Flit)) (outs : List Nat) :
    noteFiring s f n ins outs = firedOnce s f n := by
  have hx : s.tenths - t0 - (namedNode fm nd).ii = 0 := by omega
  have hcount : countElement (firedOnce s f n) fm.ctx = firedOnce s f n := countElement_of_noQuota hq
  rw [firedOnce] at hcount
  simp only [noteFiring, hf, hn, hl, Option.getD_some, hx, or_true, if_true, hcount, ite_self]
  rfl

theorem countEmitted_eq (s : State) (x : Nat) (t : Tok) : countEmitted s x t = { s with ctxs := (countEmitted s x t).ctxs } := by
  unfold countEmitted
  split
  · rfl
  · split <;> rfl

/-- The formation as such a firing leaves it. -/
def firedForm (now : Nat) (n : Nat) (w : BitVec 32) (ins : List ((Nat × Nat) × Flit)) (t : Tok) (g : Option (BitVec 320 × Bool)) (fm : Form) : Form :=
  modNode (emitOn now (ins.foldl (fun fm i => takeAt now fm n i.1.1 i.1.2) fm) n 0 t) n (afterEmit w g t)

theorem undrained_firedForm {t : Tok} (hk : t.kind ≤ 1) (now : Nat) (w : BitVec 32) (ins : List ((Nat × Nat) × Flit)) (g : Option (BitVec 320 × Bool)) :
    undrained (firedForm now n w ins t g fm) n = undrained fm n := by
  rw [firedForm, undrained_modNode (afterEmit_of_low hk w g), undrained_emitOn]
  exact List.foldlRecOn (motive := fun gm => undrained gm n = undrained fm n) ins _ rfl fun gm hgm i _ => (undrained_takeAt ..).trans hgm

/-- It changes nothing but the formations and the counters of the contexts. -/
theorem fired_of_inTime (hf : formAt s f = some fm) (hn : fm.nodes[n]? = some nd) (ha : able fm nd 0 = true) {t0 : Nat} (hl : nd.lastFire = some t0)
    (ht : s.tenths ≤ t0 + (namedNode fm nd).ii) (hq : ∀ c, ctxOf s fm.ctx = some c → c.quotaOn = false) (ins : List ((Nat × Nat) × Flit)) {t : Tok}
    (hk : t.kind ≤ 1) (g : Option (BitVec 320 × Bool)) :
    fired s f fm n w ins t g = { s with forms := (fired s f fm n w ins t g).forms, ctxs := (fired s f fm n w ins t g).ctxs } := by
  obtain ⟨s', hs'⟩ : ∃ s', s' = countEmitted (modForm (firedOnce s f n) f (firedForm s.tenths n w ins t g)) fm.ctx t := ⟨_, rfl⟩
  have hfired : fired s f fm n w ins t g = settleDrain s' f := by
    rw [fired, noteFiring_of_inTime hf hn hl ht hq, hs']
    rfl
  have hsame : s' = { s with forms := s'.forms, ctxs := s'.ctxs } := by
    rw [hs', countEmitted_eq]
    rfl
  obtain ⟨gm, hgm, hopen⟩ : ∃ gm, formAt s' f = some gm ∧ undrained gm n = true := by
    rw [hs', countEmitted_eq, firedOnce, modForm_modForm, formAt, modForm_forms, tblGet_tblMod, show tblGet f s.forms = some fm from hf]
    have hcounted : undrained (modNode fm n (fun nd => { nd with fires := nd.fires + 1, lastFire := some s.tenths })) n = undrained fm n :=
      undrained_modNode fun _ => ⟨rfl, rfl⟩
    exact ⟨_, rfl, (undrained_firedForm hk ..).trans (hcounted.trans (undrained_of_able hn ha))⟩
  rw [hfired, settleDrain_of_undrained hgm hopen]
  split
  · rw [offerPlaces_eq, hsame]
  · exact hsame
end

/-! ### The rows of the table (R278 to R280) -/

/-- The operand that a firing on DATA takes from a source, its token checked. -/
theorem operandOf_checkedAt (fm : Form) (nd : Node) (w : BitVec 32) {ins : List ((Nat × Nat) × Flit)} (h : ∀ t ∈ ins.map (·.2.tok), t.kind = 0)
    (p src : Nat) :
    operandOf fm nd w src (checkedAt ins p) =
      if src = 1 then (poolEntry fm (elemK w), false) else if src = 4 then (nd.chase.data, nd.chase.poison)
      else match (ins.find? (fun j => j.1.1 == p)).map (·.2.tok) with
        | some t => (t.data, t.poison || decide (t.res ≠ residue t.data))
        | none => (0, false) := by
  refine if_congr Iff.rfl rfl (if_congr Iff.rfl rfl ?_)
  rw [checkedAt]
  cases hfind : ins.find? (fun j => j.1.1 == p) with
  | none => rfl
  | some j =>
    have hkind : j.2.tok.kind = 0 := h _ (List.mem_map_of_mem (List.mem_of_find?_eq_some hfind))
    by_cases hres : j.2.tok.res = residue j.2.tok.data
    · simp [residueChecked, hres]
    · simp [residueChecked, hkind, hres, poisoned]

/-- The tokens of one control kind with the same data, which a firing passes on (R60). -/
theorem control_all_matching_iff (t : Tok) (rest : List Tok) :
    (isControl t && rest.all (matching t)) = true ↔ isControl t = true ∧ ∀ u ∈ rest, u.kind = t.kind ∧ u.data = t.data := by
  rw [Bool.and_eq_true, List.all_eq_true]
  refine and_congr_right fun ht => forall₂_congr fun u _ => ?_
  rw [matching, ht, Bool.true_and, decide_eq_true_eq, eq_comm, @eq_comm _ t.data]

theorem not_control_all_matching {t : Tok} {rest : List Tok} (h : ∃ u ∈ t :: rest, ∃ v ∈ t :: rest, u.kind ≠ v.kind ∨ u.data ≠ v.data) :
    ¬(isControl t && rest.all (matching t)) = true := by
  rw [control_all_matching_iff]
  rintro ⟨-, hsame⟩
  have hall : ∀ u ∈ t :: rest, u.kind = t.kind ∧ u.data = t.data := List.forall_mem_cons.2 ⟨⟨rfl, rfl⟩, hsame⟩
  obtain ⟨u, hu, v, hv, hne⟩ := h
  obtain ⟨hku, hdu⟩ := hall u hu
  obtain ⟨hkv, hdv⟩ := hall v hv
  exact hne.elim (· (hku.trans hkv.symm)) (· (hdu.trans hdv.symm))

/-- What an emission leaves of its node, by the kind of the token. -/
theorem afterEmit_rows (w : BitVec 32) (nd : Node) (t : Tok) (g : Option (BitVec 320 × Bool)) :
    (t.kind = 0 → afterEmit w g t nd = { nd with chase := t, grp := g }) ∧
    (t.kind = 1 → afterEmit w g t nd = nd) ∧
    (t.kind = 2 → afterEmit w g t nd = { nd with
      chase := dataTok false 0, grp := none, sel := if t.data.getLsbD 0 && w.getLsbD 10 then !nd.sel else nd.sel }) ∧
    (t.kind = 3 → afterEmit w g t nd = { nd with drained := true, chase := dataTok false 0, grp := none }) ∧
    (t.kind = 4 → afterEmit w g t nd = { nd with marked := true }) := by
  refine ⟨fun h => ?_, fun h => ?_, fun h => ?_, fun h => ?_, fun h => ?_⟩ <;> simp [afterEmit, notePassed, isSwapEos, elemSwap, h]

/-- Settles O35: the row of the instruction, then its turn by the tokens at its inputs. -/
theorem elementFirings : Obligations.ElementFirings := by
  unfold Obligations.ElementFirings
  intro s f fm n nd a b fc r x w k y hat ops i word hrow
  have hdecode := decodeElement_of_elemRows a b fc r x w k y (i, word) hrow
  have hexec := exec_of_elemRows a b fc r x w k y s (i, word) hrow
  refine ⟨hdecode, fun ha hr => ?_, fun t g => afterEmit_rows word nd t g⟩
  intro srcs ports
  refine ⟨fun hno => hexec.trans (fireElement_short hat hno), ?_⟩
  intro ins hne hports hins hsound hroom toks wrong operand v quiet
  obtain ⟨t, rest, htoks⟩ : ∃ t rest, toks = t :: rest := List.exists_cons_of_ne_nil (mt List.map_eq_nil_iff.1 hne)
  have hexec := hexec.trans (fireElement_full hat ha hr hports hins hsound hroom htoks)
  have htok : ∀ u ∈ toks, tokReason u = 0 := List.forall_mem_map.2 hsound
  have hhigh : (∃ u ∈ toks, 2 ≤ u.kind) → ¬toks.all (fun t => decide (t.kind ≤ 1)) = true := by
    rintro ⟨u, hu, hk⟩ hall
    have := of_decide_eq_true (List.all_eq_true.1 hall u hu)
    omega
  obtain ⟨-, hform, hnode⟩ := hat
  rw [← htoks] at hexec
  refine ⟨fun hdata => ?data, fun hright => ?right, fun hlow hnull => ?null, fun u rest' hu hk hall => ?pass, fun hc hdiff => ?mismatch,
    fun t g t0 hk hl htime hq => fired_of_inTime hform hnode ha hl htime hq ins hk g⟩
  case data =>
    have hlow : toks.all (fun t => decide (t.kind ≤ 1)) = true := List.all_eq_true.2 fun u hu => decide_eq_true ((hdata u hu).le.trans zero_le_one)
    have hnull : ¬toks.any (fun t => t.kind == 1) = true := by
      rw [List.any_eq_true]
      rintro ⟨u, hu, hk⟩
      simp [hdata u hu] at hk
    rw [operandOf_checkedAt fm nd word hdata, operandOf_checkedAt fm nd word hdata] at hexec
    exact hexec.trans (congrArg _ ((if_pos hlow).trans (if_neg hnull)))
  case right => exact checkResidues_fst_of_right (fun u hu => of_not_not (of_decide_eq_false (hright u hu).2)) s f n
  case null =>
    have hall : toks.all (fun t => decide (t.kind ≤ 1)) = true := List.all_eq_true.2 fun u hu => decide_eq_true (hlow u hu)
    have hany : toks.any (fun t => t.kind == 1) = true := by
      obtain ⟨u, hu, hk⟩ := hnull
      exact List.any_eq_true.2 ⟨u, hu, beq_iff_eq.2 hk⟩
    exact hexec.trans (congrArg _ ((if_pos hall).trans (if_pos hany)))
  case pass =>
    obtain ⟨rfl, rfl⟩ := List.cons.inj (htoks.symm.trans hu)
    have hmem : t ∈ toks := htoks ▸ List.mem_cons_self
    exact hexec.trans (congrArg _ ((if_neg (hhigh ⟨t, hmem, hk⟩)).trans
      (if_pos ((control_all_matching_iff ..).2 ⟨isControl_of_sound (htok t hmem) hk, hall⟩))))
  case mismatch =>
    rw [htoks] at hdiff
    exact hexec.trans (congrArg _ ((if_neg (hhigh hc)).trans (if_neg (not_control_all_matching hdiff))))

end Sys2Proof.Machine

/-! PROOFS. The firings of the router operators (O42). -/

namespace Sys2Proof.Machine

/-! ### Switch words (R168) -/

/-- A switch word from its fields. -/
def switchWord (op o i j : BitVec 3) (c : BitVec 1) (v : BitVec 3) : BitVec 16 := op ++ o ++ i ++ j ++ c ++ v

section
variable (op o i j : BitVec 3) (c : BitVec 1) (v : BitVec 3)

@[simp] theorem switchWord_op : (switchWord op o i j c v).extractLsb' 13 3 = op := by
  rw [switchWord]; repeat rw [field_high _ _ _ _ (by decide)]
  simp
@[simp] theorem switchWord_o : (switchWord op o i j c v).extractLsb' 10 3 = o := by
  rw [switchWord]; repeat rw [field_high _ _ _ _ (by decide)]
  rw [field_low _ _ _ _ (by decide)]; simp
@[simp] theorem switchWord_i : (switchWord op o i j c v).extractLsb' 7 3 = i := by
  rw [switchWord]; repeat rw [field_high _ _ _ _ (by decide)]
  rw [field_low _ _ _ _ (by decide)]; simp
@[simp] theorem switchWord_j : (switchWord op o i j c v).extractLsb' 4 3 = j := by
  rw [switchWord]; repeat rw [field_high _ _ _ _ (by decide)]
  rw [field_low _ _ _ _ (by decide)]; simp
@[simp] theorem switchWord_c : (switchWord op o i j c v).extractLsb' 3 1 = c := by
  rw [switchWord]; repeat rw [field_high _ _ _ _ (by decide)]
  rw [field_low _ _ _ _ (by decide)]; simp
@[simp] theorem switchWord_v : (switchWord op o i j c v).extractLsb' 0 3 = v := by rw [switchWord, field_low _ _ _ _ (by decide)]; simp

theorem decodeSwitch_rows :
    decodeSwitch (switchWord 0 o i 0 c 0) = some (.opPass o i c) ∧ decodeSwitch (switchWord 1 o i 0 c v) = some (.opFork o i c v) ∧
    decodeSwitch (switchWord 2 o i j c v) = some (.opSteer o i j c v) ∧ decodeSwitch (switchWord 3 o i j c v) = some (.opMerge o i j c v) ∧
    decodeSwitch (switchWord 4 o i j c 0) = some (.opCarry o i j c) ∧ decodeSwitch (switchWord 5 o i 0 c v) = some (.opNullFill o i c v) ∧
    decodeSwitch (switchWord 6 o i j c 0) = some (.opEgate o i j c) ∧ decodeSwitch (switchWord 6 o i j c 1) = some (.opEgateSw o i j c) := by
  simp [decodeSwitch]

end

/-! ### Tokens of sound kinds (R52, R418) -/

section
variable {t u v : Tok}

theorem isControl_iff (ht : tokReason t = 0) : isControl t = true ↔ 2 ≤ t.kind :=
  ⟨fun h => (of_decide_eq_true h).1, isControl_of_sound ht⟩

theorem passing_of_sound (ht : tokReason t = 0) : passing t = if t.kind < 2 then none else some t := by
  rw [passing, if_congr (isControl_iff ht) rfl rfl, ← ite_not, if_congr Nat.not_le rfl rfl]

theorem matching_of_same (ht : isControl t = true) (hk : t.kind = u.kind) (hd : t.data = u.data) : matching t u = true := by
  simp [matching, ht, hk, hd]
theorem matching_of_not_same (h : ¬(t.kind = u.kind ∧ t.data = u.data)) : matching t u = false := by
  simp [matching, h]

theorem passing_of_low (ht : isControl t = false) : passing t = none := by simp [passing, ht]

/-- The EOS that a gate with variant `sw` sends: the flag is the truth of the gate's token (R309). -/
theorem eosTok_gate (t : Tok) : eosTok (decide (t.kind = 0 ∧ t.data ≠ 0) && !t.poison) =
    let b := decide (t.kind = 0 ∧ t.data ≠ 0 ∧ t.poison = false)
    ⟨2, false, if b then 1 else 0, if b then 1 else 0⟩ := by
  have hflag : (decide (t.kind = 0 ∧ t.data ≠ 0) && !t.poison) = decide (t.kind = 0 ∧ t.data ≠ 0 ∧ t.poison = false) := by
    rw [Bool.eq_iff_iff]
    simp [and_assoc]
  rw [hflag]
  rfl

/-! ### What a steer emits (R305) -/

theorem steerOut_of_data (ht : t.kind = 0) (hu : u.kind = 0) :
    steerOut t u = if u.poison then some (poisoned t, poisoned t) else if u.data ≠ 0 then some (t, nullTok) else some (nullTok, t) := by
  simp [steerOut, isControl, ht, hu]
theorem steerOut_of_null (ht : t.kind < 2) (hu : u.kind < 2) (h : t.kind = 1 ∨ u.kind = 1) : steerOut t u = some (nullTok, nullTok) := by
  rw [steerOut, isControl_of_kind_le (by omega), isControl_of_kind_le (by omega)]
  exact if_pos h.symm
theorem steerOut_of_matching (ht : isControl t = true) (h : matching t u = true) : steerOut t u = some (t, t) := by
  simp [steerOut, ht, h]
theorem steerOut_of_mismatch (hc : isControl t = true ∨ isControl u = true) (h : matching t u = false) : steerOut t u = none := by
  rw [steerOut, if_pos (Bool.or_eq_true_iff.2 hc), h]
  rfl

/-! ### What a merge emits (R306): `v` is the control token. -/

theorem mergeOut_of_low (ht : t.kind < 2) (hu : u.kind < 2) (hv : v.kind = 0) :
    mergeOut v t u = if v.poison then some (if t.kind = 0 then poisoned t else if u.kind = 0 then poisoned u else nullTok)
      else some (if v.data ≠ 0 then t else u) := by
  rw [mergeOut, isControl_of_kind_le (show v.kind ≤ 1 by omega), isControl_of_kind_le (show t.kind ≤ 1 by omega),
    isControl_of_kind_le (show u.kind ≤ 1 by omega)]
  simp [hv, apply_ite some]
theorem mergeOut_of_null (ht : t.kind < 2) (hu : u.kind < 2) (hv : v.kind = 1) : mergeOut v t u = some nullTok := by
  rw [mergeOut, isControl_of_kind_le (show v.kind ≤ 1 by omega), isControl_of_kind_le (show t.kind ≤ 1 by omega),
    isControl_of_kind_le (show u.kind ≤ 1 by omega)]
  exact if_pos hv
theorem mergeOut_of_matching (hv : isControl v = true) (ht : matching v t = true) (hu : matching v u = true) : mergeOut v t u = some v := by
  simp [mergeOut, hv, ht, hu]
theorem mergeOut_of_mismatch (hc : isControl v = true ∨ isControl t = true ∨ isControl u = true) (h : (matching v t && matching v u) = false) :
    mergeOut v t u = none := by
  rw [mergeOut, if_pos (by simpa [or_assoc] using hc), h]
  rfl

end

/-! ### The turn of an operator -/

theorem onOperator_of {s : State} {f n : Nat} {fm : Form} {nd : Node} (h : AtNode s f fm n nd) (ha : able fm nd 2 = true) (hp : nd.passed = false)
    (hs : ∀ p, p ≤ 2 → ∀ t, tokenAt fm n p 0 = some t → tokReason t.tok = 0)
    (g : Nat → Nat → Form → Node → (Nat → Option Flit) → State) :
    onOperator s g = .next (g f n fm nd (fun p => tokenAt fm n p 0)) := by
  have hfind : ([0, 1, 2].filterMap (fun p => tokenAt fm n p 0)).find? (fun t => tokReason t.tok ≠ 0) = none := by
    rw [List.find?_eq_none]
    intro t ht
    obtain ⟨p, hp, hpt⟩ := List.mem_filterMap.1 ht
    have hp2 : p ≤ 2 := by
      simp only [List.mem_cons, List.not_mem_nil, or_false] at hp
      omega
    simpa using hs p hp2 t hpt
  rw [onOperator, onNode_of h]
  simp only [ha, hp, hfind]
  rfl

section
variable {s : State} {f n : Nat} {fm : Form} {nd : Node} (h : AtNode s f fm n nd) (ha : able fm nd 2 = true) (hp : nd.passed = false)
  (hs : ∀ p, p ≤ 2 → ∀ t, tokenAt fm n p 0 = some t → tokReason t.tok = 0) (o i j : BitVec 3) (c : BitVec 1) (v : BitVec 3) {t g k : Flit}
include h ha hp hs

/-- Without a token at the input that they all take, the operators but the carry wait. -/
theorem exec_operators_wait (h0 : tokenAt fm n 0 0 = none) : ∀ e ∈ [Instr.opPass o i c, .opFork o i c v, .opSteer o i j c v, .opMerge o i j c v,
    .opNullFill o i c v, .opEgate o i j c, .opEgateSw o i j c], exec e s = .next s := by
  have hturn := onOperator_of h ha hp hs
  simp only [List.forall_mem_cons, List.not_mem_nil, false_imp_iff, implies_true, and_true]
  change execOpPass o i c s = _ ∧ execOpFork o i c v s = _ ∧ execOpSteer o i j c v s = _ ∧ execOpMerge o i j c v s = _ ∧
    execOpNullFill o i c v s = _ ∧ fireGate s false = _ ∧ fireGate s true = _
  simp only [execOpPass, execOpFork, execOpSteer, execOpMerge, execOpNullFill, fireGate, hturn, h0, and_self]

/-! ### Pass, fork, null-fill (R304, R308) -/

theorem execOpPass_of (ht : tokenAt fm n 0 0 = some t) :
    execOpPass o i c s = .next (fireOp s f n [(0, t)] [(0, t.tok)] (passing t.tok) (fun nd => nd)) := by
  rw [execOpPass, onOperator_of h ha hp hs]
  simp only [ht]

theorem execOpFork_of (ht : tokenAt fm n 0 0 = some t) :
    execOpFork o i c v s = .next (fireOp s f n [(0, t)] [(0, t.tok), (1, t.tok)] (passing t.tok) (fun nd => nd)) := by
  rw [execOpFork, onOperator_of h ha hp hs]
  simp only [ht]

theorem execOpNullFill_of (ht : tokenAt fm n 0 0 = some t) (hv : v.toNat ≤ 4) : execOpNullFill o i c v s = .next (fireOp s f n [(0, t)]
    [(0, if t.tok.kind = 1 then dataTok false (fillValue v.toNat) else t.tok)] (passing t.tok) (fun nd => nd)) := by
  rw [execOpNullFill, onOperator_of h ha hp hs]
  simp only [ht, if_neg (show ¬5 ≤ v.toNat by omega)]

/-! ### Gates (R309) -/

theorem fireGate_of_low (ht : tokenAt fm n 0 0 = some t) (hc : isControl t.tok = false) (sw : Bool) :
    fireGate s sw = .next (fireOp s f n [(0, t)] [(0, t.tok)] none (fun nd => nd)) :=
  (onOperator_of h ha hp hs _).trans (by simp [ht, hc])

theorem fireGate_of_alone (ht : tokenAt fm n 0 0 = some t) (hc : isControl t.tok = true) (h1 : tokenAt fm n 1 0 = none) (sw : Bool) :
    fireGate s sw = .next s :=
  (onOperator_of h ha hp hs _).trans (by simp [ht, hc, h1])

theorem fireGate_of_control (ht : tokenAt fm n 0 0 = some t) (hc : isControl t.tok = true) (hg : tokenAt fm n 1 0 = some g)
    (hgc : isControl g.tok = true) (sw : Bool) : fireGate s sw = .next (if matching t.tok g.tok then
      fireOp s f n [(0, t), (1, g)] [(0, t.tok)] (some t.tok) (fun nd => nd) else mismatch s f n 2) :=
  (onOperator_of h ha hp hs _).trans (by simp [ht, hc, hg, hgc])

theorem fireGate_of_gate (ht : tokenAt fm n 0 0 = some t) (hc : isControl t.tok = true) (hg : tokenAt fm n 1 0 = some g)
    (hgc : isControl g.tok = false) (sw : Bool) {out : Tok} (hout : (if sw && decide (t.tok.kind = 2) then
      eosTok (decide (g.tok.kind = 0 ∧ g.tok.data ≠ 0) && !g.tok.poison) else t.tok) = out) :
    fireGate s sw = .next (fireOp s f n [(0, t), (1, g)] [(0, out)] (some out) (fun nd => nd)) := by
  subst hout
  exact (onOperator_of h ha hp hs _).trans (by simp only [ht, hc, hg, hgc]; rfl)

/-! ### Steer and merge (R305, R306) -/

theorem execOpSteer_of (ht : tokenAt fm n 0 0 = some t) (hg : tokenAt fm n 1 0 = some g) {x y : Tok} (hout : steerOut t.tok g.tok = some (x, y)) :
    execOpSteer o i j c v s = .next (fireOp s f n [(0, t), (1, g)] [(0, x), (1, y)] (passing t.tok) (fun nd => nd)) := by
  rw [execOpSteer, onOperator_of h ha hp hs]
  simp only [ht, hg, hout]

theorem execOpSteer_of_mismatch (ht : tokenAt fm n 0 0 = some t) (hg : tokenAt fm n 1 0 = some g) (hout : steerOut t.tok g.tok = none) :
    execOpSteer o i j c v s = .next (mismatch s f n 2) := by
  rw [execOpSteer, onOperator_of h ha hp hs]
  simp only [ht, hg, hout]

theorem execOpSteer_of_alone (ht : tokenAt fm n 0 0 = some t) (h1 : tokenAt fm n 1 0 = none) : execOpSteer o i j c v s = .next s := by
  rw [execOpSteer, onOperator_of h ha hp hs]
  simp only [ht, h1]

theorem execOpMerge_of (ht : tokenAt fm n 0 0 = some t) (hg : tokenAt fm n 1 0 = some g) (hk : tokenAt fm n 2 0 = some k) {x : Tok}
    (hout : mergeOut k.tok t.tok g.tok = some x) :
    execOpMerge o i j c v s = .next (fireOp s f n [(0, t), (1, g), (2, k)] [(0, x)] (passing k.tok) (fun nd => nd)) := by
  rw [execOpMerge, onOperator_of h ha hp hs]
  simp only [ht, hg, hk, hout]

theorem execOpMerge_of_mismatch (ht : tokenAt fm n 0 0 = some t) (hg : tokenAt fm n 1 0 = some g) (hk : tokenAt fm n 2 0 = some k)
    (hout : mergeOut k.tok t.tok g.tok = none) : execOpMerge o i j c v s = .next (mismatch s f n 2) := by
  rw [execOpMerge, onOperator_of h ha hp hs]
  simp only [ht, hg, hk, hout]

theorem execOpMerge_of_short (hno : tokenAt fm n 1 0 = none ∨ tokenAt fm n 2 0 = none) : execOpMerge o i j c v s = .next s := by
  rw [execOpMerge, onOperator_of h ha hp hs]
  refine congrArg _ ?_
  split
  · next h1 h2 => simp [h1, h2] at hno
  · rfl

/-! ### Carry (R66, R307) -/

theorem execOpCarry_of_early (hc : nd.carry = .open_ ∨ ∃ k, nd.carry = .closing k) (hg : tokenAt fm n 1 0 = some g) (hgc : isControl g.tok = true) :
    execOpCarry o i j c s = .next (mismatch s f n 2) := by
  rw [execOpCarry, onOperator_of h ha hp hs]
  rcases hc with hc | ⟨k, hc⟩ <;> simp [hc, hg, hgc]

/-- An empty slot takes the next token of `init`. -/
theorem execOpCarry_of_empty (hc : nd.carry = .open_) (hfull : nd.slots.getD (carryTurn nd (carrySlots fm n)) false = false)
    (hclear : (tokenAt fm n 1 0).any (fun g => isControl g.tok) = false) (ht : tokenAt fm n 0 0 = some t) :
    execOpCarry o i j c s = .next (if isControl t.tok then fireOp s f n [(0, t)] [] none (fun m =>
        { served m (carrySlots fm n) (carryTurn nd (carrySlots fm n)) false with carry := .closing t.tok })
      else fireOp s f n [(0, t)] [(0, t.tok)] none (fun m => served m (carrySlots fm n) (carryTurn nd (carrySlots fm n)) true)) := by
  rw [execOpCarry, onOperator_of h ha hp hs]
  simp only [hc, hclear, slotActive, hfull, ht, Bool.false_eq_true, if_false]

theorem execOpCarry_of_empty_wait (hc : nd.carry = .open_) (hfull : nd.slots.getD (carryTurn nd (carrySlots fm n)) false = false)
    (hclear : (tokenAt fm n 1 0).any (fun g => isControl g.tok) = false) (h0 : tokenAt fm n 0 0 = none) : execOpCarry o i j c s = .next s := by
  rw [execOpCarry, onOperator_of h ha hp hs]
  simp only [hc, hclear, slotActive, hfull, h0, Bool.false_eq_true, if_false]

/-- An active slot takes the next token of `back`. -/
theorem execOpCarry_of_full (hc : nd.carry = .open_ ∨ (∃ k, nd.carry = .closing k) ∧ nd.slots.any (fun b => b) = true)
    (hfull : nd.slots.getD (carryTurn nd (carrySlots fm n)) false = true) (hg : tokenAt fm n 1 0 = some g) (hgc : isControl g.tok = false) :
    execOpCarry o i j c s = .next (if g.tok.kind = 0 then
        fireOp s f n [(1, g)] [(0, g.tok)] none (fun m => served m (carrySlots fm n) (carryTurn nd (carrySlots fm n)) true)
      else fireOp s f n [(1, g)] [] none (fun m => served m (carrySlots fm n) (carryTurn nd (carrySlots fm n)) false)) := by
  rw [execOpCarry, onOperator_of h ha hp hs]
  rcases hc with hc | ⟨⟨k, hc⟩, hany⟩
  · simp only [hc, hg, Option.any_some, hgc, slotActive, hfull, Bool.false_eq_true, if_false, if_true]
  · simp only [hc, hg, Option.any_some, hgc, slotActive, hfull, anyActive, hany, Bool.false_eq_true, if_false, if_true]

theorem execOpCarry_of_full_wait (hc : nd.carry = .open_ ∨ (∃ k, nd.carry = .closing k) ∧ nd.slots.any (fun b => b) = true)
    (hfull : nd.slots.getD (carryTurn nd (carrySlots fm n)) false = true) (h1 : tokenAt fm n 1 0 = none) : execOpCarry o i j c s = .next s := by
  rw [execOpCarry, onOperator_of h ha hp hs]
  rcases hc with hc | ⟨⟨k, hc⟩, hany⟩
  · simp only [hc, h1, Option.any_none, slotActive, hfull, Bool.false_eq_true, if_false, if_true]
  · simp only [hc, h1, Option.any_none, slotActive, hfull, anyActive, hany, Bool.false_eq_true, if_false, if_true]

theorem execOpCarry_of_closed {u : Tok} (hc : nd.carry = .closing u) (hany : nd.slots.any (fun b => b) = false)
    (hclear : (tokenAt fm n 1 0).any (fun g => isControl g.tok) = false) :
    execOpCarry o i j c s = .next (fireOp s f n [] [(0, u)] none (fun nd => { nd with carry := .returning u })) := by
  rw [execOpCarry, onOperator_of h ha hp hs]
  simp only [hc, hclear, anyActive, hany, Bool.false_eq_true, if_false]

theorem execOpCarry_of_returning {u : Tok} (hc : nd.carry = .returning u) (hg : tokenAt fm n 1 0 = some g) : execOpCarry o i j c s = .next (
    if matching g.tok u then fireOp s f n [(1, g)] [] (some g.tok) (fun nd => { nd with carry := .open_, turn := 0 }) else mismatch s f n 2) := by
  rw [execOpCarry, onOperator_of h ha hp hs]
  simp only [hc, hg]

theorem execOpCarry_of_returning_wait {u : Tok} (hc : nd.carry = .returning u) (h1 : tokenAt fm n 1 0 = none) : execOpCarry o i j c s = .next s := by
  rw [execOpCarry, onOperator_of h ha hp hs]
  simp only [hc, h1]

end

/-! ### The rows of the tables (R304 to R309) -/

theorem fillValue_eq {k : Nat} (hk : k ≤ 4) : fillValue k = ([0, 1, 0xFFFFFFFF, 0xFF800000, 0x0000FF80] : List (BitVec 32)).getD k 0 := by
  interval_cases k <;> rfl

theorem exec_gates {s : State} {out : Out} (h : ∀ sw, fireGate s sw = out) (o i j : BitVec 3) (c : BitVec 1) :
    ∀ e ∈ [Instr.opEgate o i j c, .opEgateSw o i j c], exec e s = out := by
  simp only [List.forall_mem_cons, List.not_mem_nil, false_imp_iff, implies_true, and_true]
  exact ⟨h false, h true⟩

/-- Settles O42: the row of each operator by the tokens at its inputs, and of a carry by its state. -/
theorem routerOperators : Obligations.RouterOperators := by
  unfold Obligations.RouterOperators
  intro s f fm n nd o i j c v hat word tok ctl same id pass poison
  obtain ⟨hd0, hd1, hd2, hd3, hd4, hd5, hd6, hd7⟩ := decodeSwitch_rows o i j c v
  refine ⟨hd0, hd1, hd2, hd3, hd4, fun _ => hd5, hd6, hd7, fun ha hp hs => ?_⟩
  have hctl {p : Nat} {t : Flit} (hp2 : p ≤ 2) (ht : tok p = some t) : isControl t.tok = true ↔ ctl t := isControl_iff (hs p hp2 t ht)
  have hlow {t : Flit} (ht : ¬ctl t) : isControl t.tok = false := isControl_of_kind_le (by simp only [ctl] at ht; omega)
  have hpass {p : Nat} {t : Flit} (hp2 : p ≤ 2) (ht : tok p = some t) : passing t.tok = pass t := passing_of_sound (hs p hp2 t ht)
  refine ⟨exec_operators_wait hat ha hp hs o i j c v, fun t ht => ?input, ?carry⟩
  case input =>
    have hpt := hpass (by decide) ht
    have hct := hctl (by decide) ht
    refine ⟨hpt ▸ execOpPass_of hat ha hp hs o i c ht, hpt ▸ execOpFork_of hat ha hp hs o i c v ht, fun hv => ?fill,
      fun hc => exec_gates (fireGate_of_low hat ha hp hs ht (hlow hc)) o i j c,
      fun hc h1 => exec_gates (fireGate_of_alone hat ha hp hs ht (hct.2 hc) h1) o i j c, fun g hg => ?both,
      fun h1 => ⟨execOpSteer_of_alone hat ha hp hs o i j c v ht h1, execOpMerge_of_short hat ha hp hs o i j c v (.inl h1)⟩⟩
    case fill =>
      intro fill
      have hfill : fillValue v.toNat = fill := fillValue_eq hv
      exact hfill ▸ hpt ▸ execOpNullFill_of hat ha hp hs o i c v ht hv
    case both =>
      intro both flag
      have hcg := hctl (by decide) hg
      refine ⟨fun htc hgc hsame => ?_, fun htc hgc hdiff => ?_, fun htc hgl => ?_, fun htc hgl h2 => ?_, fun h2 hgl => ?_, ?steer,
        fun h2 => execOpMerge_of_short hat ha hp hs o i j c v (.inr h2), fun k hk => ?merge⟩
      case steer =>
        intro steer
        have hout {x y : Tok} (h : steerOut t.tok g.tok = some (x, y)) : steer x y (passing t.tok) := execOpSteer_of hat ha hp hs o i j c v ht hg h
        have hlost (h : ¬ctl t) : passing t.tok = none := passing_of_low (hlow h)
        refine ⟨fun h0 hg0 hsound hd => ?_, fun h0 hg0 hsound hd => ?_, fun h0 hg0 hpoison => ?_, fun htl hgl hnull => ?_, fun htc _ hsame => ?_,
          fun hc hdiff => ?_⟩
        · rw [← hlost (by omega)]
          exact hout (by rw [steerOut_of_data h0 hg0, hsound, if_neg Bool.false_ne_true, if_pos hd])
        · rw [← hlost (by omega)]
          exact hout (by rw [steerOut_of_data h0 hg0, hsound, if_neg Bool.false_ne_true, if_neg (not_not.2 hd)])
        · rw [← hlost (by omega)]
          exact hout (by rw [steerOut_of_data h0 hg0, if_pos hpoison]; rfl)
        · rw [← hlost htl]
          exact hout (steerOut_of_null (Nat.not_le.1 htl) (Nat.not_le.1 hgl) hnull)
        · have hpassed : passing t.tok = some t.tok := if_pos (hct.2 htc)
          rw [← hpassed]
          exact hout (steerOut_of_matching (hct.2 htc) (matching_of_same (hct.2 htc) hsame.1 hsame.2))
        · exact execOpSteer_of_mismatch hat ha hp hs o i j c v ht hg
            (steerOut_of_mismatch (hc.imp hct.2 hcg.2) (matching_of_not_same hdiff))
      case merge =>
        intro merge
        have hck := hctl (by decide) hk
        have hout {x : Tok} (h : mergeOut k.tok t.tok g.tok = some x) : merge x := by
          have hrow := execOpMerge_of hat ha hp hs o i j c v ht hg hk h
          rw [hpass (by decide) hk] at hrow
          exact hrow
        refine ⟨fun htl hgl hk0 hsound => hout ?_, fun htl hgl hk0 hpoison => hout ?_, fun htl hgl hk1 => hout ?_, fun hkc hkt hkg => hout ?_,
          fun hc hdiff => ?_⟩
        · rw [mergeOut_of_low (Nat.not_le.1 htl) (Nat.not_le.1 hgl) hk0, hsound, if_neg Bool.false_ne_true]
        · rw [mergeOut_of_low (Nat.not_le.1 htl) (Nat.not_le.1 hgl) hk0, if_pos hpoison]
          rfl
        · exact mergeOut_of_null (Nat.not_le.1 htl) (Nat.not_le.1 hgl) hk1
        · exact mergeOut_of_matching (hck.2 hkc) (matching_of_same (hck.2 hkc) hkt.1 hkt.2) (matching_of_same (hck.2 hkc) hkg.1 hkg.2)
        · refine execOpMerge_of_mismatch hat ha hp hs o i j c v ht hg hk (mergeOut_of_mismatch ?_ ?_)
          · exact hc.elim (fun h => .inr (.inl (hct.2 h))) (·.elim (fun h => .inr (.inr (hcg.2 h))) (fun h => .inl (hck.2 h)))
          · rw [Bool.and_eq_false_iff]
            exact (not_and_or.1 hdiff).imp matching_of_not_same matching_of_not_same
      · exact exec_gates (fun sw => (fireGate_of_control hat ha hp hs ht (hct.2 htc) hg (hcg.2 hgc) sw).trans
          (congrArg _ (if_pos (matching_of_same (hct.2 htc) hsame.1 hsame.2)))) o i j c
      · exact exec_gates (fun sw => (fireGate_of_control hat ha hp hs ht (hct.2 htc) hg (hcg.2 hgc) sw).trans
          (congrArg _ (if_neg (Bool.eq_false_iff.1 (matching_of_not_same hdiff))))) o i j c
      · exact fireGate_of_gate hat ha hp hs ht (hct.2 htc) hg (hlow hgl) false rfl
      · exact fireGate_of_gate hat ha hp hs ht (hct.2 htc) hg (hlow hgl) true (if_neg (by simpa using h2))
      · exact fireGate_of_gate hat ha hp hs ht (hct.2 h2.ge) hg (hlow hgl) true ((if_pos (by simpa using h2)).trans (eosTok_gate g.tok))
  case carry =>
    intro slots turn full some_ carry turned clear
    have hclear (h : clear) : (tok 1).any (fun b => isControl b.tok) = false := by
      cases h1 : tok 1 with
      | none => rfl
      | some b => exact hlow (h b h1)
    refine ⟨fun hc b hb hbc => execOpCarry_of_early hat ha hp hs o i j c hc hb ((hctl (by decide) hb).2 hbc),
      fun hc hfull hcl h0 => execOpCarry_of_empty_wait hat ha hp hs o i j c hc hfull (hclear hcl) h0, fun hc hfull hcl t ht => ?empty,
      fun hc hfull => ⟨fun h1 => execOpCarry_of_full_wait hat ha hp hs o i j c hc hfull h1, fun b hb => ?full⟩,
      fun u hc hany hcl => execOpCarry_of_closed hat ha hp hs o i j c hc hany (hclear hcl),
      fun u hc => ⟨fun h1 => execOpCarry_of_returning_wait hat ha hp hs o i j c hc h1, fun b hb => ?returning⟩⟩
    case empty =>
      have hrow := execOpCarry_of_empty hat ha hp hs o i j c hc hfull (hclear hcl) ht
      exact ⟨fun htl => hrow.trans (congrArg _ (if_neg (Bool.eq_false_iff.1 (hlow htl)))),
        fun htc => hrow.trans (congrArg _ (if_pos ((hctl (by decide) ht).2 htc)))⟩
    case full =>
      have hrow (h : ¬ctl b) := execOpCarry_of_full hat ha hp hs o i j c hc hfull hb (hlow h)
      exact ⟨fun h0 => (hrow (by omega)).trans (congrArg _ (if_pos h0)), fun h1 => (hrow (by omega)).trans (congrArg _ (if_neg (by omega)))⟩
    case returning =>
      have hrow := execOpCarry_of_returning hat ha hp hs o i j c hc hb
      refine ⟨fun hbc hkind hdata => hrow.trans (congrArg _ (if_pos (matching_of_same ((hctl (by decide) hb).2 hbc) hkind hdata))),
        fun hno => hrow.trans (congrArg _ (if_neg fun hmatch => hno ?_))⟩
      obtain ⟨hbc, hsame⟩ := Bool.and_eq_true_iff.1 hmatch
      exact ⟨(hctl (by decide) hb).1 hbc, of_decide_eq_true hsame⟩

end Sys2Proof.Machine


/-! PROOFS. The canonical form of the memory is kept (O56). For each function by which the model changes a state there is one lemma, in the order of
the model's files: `f_cells` where it leaves the memory alone, `f_wf` where it writes and leaves the form as it was. -/

namespace Sys2Proof.Machine

/-- The memory of a state is in its canonical form. -/
abbrev Canonical (s : State) : Prop := Memory.wf s.cells = true

/-- States with the same cells are in the canonical form together. -/
theorem Canonical.of_cells {s t : State} (h : Canonical s) (e : t.cells = s.cells) : Canonical t := by rw [Canonical, e]; exact h

/-- A step that answers a next state leaves its memory in the canonical form. -/
structure EndsCanonical (o : Out) : Prop where
  next : ∀ s, o = .next s → Canonical s

/-- A check of a launch keeps the canonical form. -/
structure ReadsCanonical {α : Type} (m : Checker α) : Prop where
  keeps : ∀ s, Canonical s → Canonical (m s).1

@[simp] theorem endsCanonical_next (s : State) : EndsCanonical (.next s) ↔ Canonical s :=
  ⟨fun h => h.next s rfl, fun h => ⟨fun _ e => by cases e; exact h⟩⟩

@[simp] theorem endsCanonical_fault (r : Fault) : EndsCanonical (.fault r) := ⟨fun _ e => by cases e⟩

@[simp] theorem endsCanonical_refused (r : Refusal) : EndsCanonical (.refused r) := ⟨fun _ e => by cases e⟩

/-- A write of one byte leaves pairs that stood there before, and one at its address. -/
theorem mem_cellsWrite_singleton {c : Cells} {a : Nat} {v : Byte} {p : Host.Cell} (hp : p ∈ cellsWrite c a [v]) : p ∈ c ∨ p.1 = a := by
  have hskip : ∀ p ∈ skipCell a (cellsFrom a c), p ∈ c := by
    intro p hp
    refine (List.dropWhile_suffix _).subset (?_ : p ∈ cellsFrom a c)
    cases hc : cellsFrom a c with
    | nil => simp [skipCell, hc] at hp
    | cons q t =>
      simp only [skipCell, hc] at hp
      split at hp
      · exact List.mem_cons_of_mem _ hp
      · exact hp
  simp only [cellsWrite, cellsPut, consCell, List.mem_append] at hp
  obtain hp | hp := hp
  · exact .inl ((List.takeWhile_prefix _).subset hp)
  · split at hp
    · exact .inl (hskip p hp)
    · obtain rfl | hp := List.mem_cons.1 hp
      · exact .inr rfl
      · exact .inl (hskip p hp)

theorem hbmCells_below (l : List (Nat × BitVec 8)) : ∀ p ∈ hbmCells l, p.1 < flashBase := by
  refine List.foldlRecOn l _ (motive := fun c : Cells => ∀ p ∈ c, p.1 < flashBase) (by simp) fun c hc q _ p hp => ?_
  split at hp
  · next hq =>
    obtain hp | hp := mem_cellsWrite_singleton hp
    · exact hc p hp
    · exact hp ▸ lt_of_lt_of_le hq (by decide)
  · exact hc p hp

theorem hbmCells_wf (l : List (Nat × BitVec 8)) : Memory.wf (hbmCells l) = true := by
  refine List.foldlRecOn l _ (motive := fun c => Memory.wf c = true) rfl fun c hc q _ => ?_
  split
  · exact cellsWrite_wf _ _ hc
  · exact hc

/-- Steps of a fold that leave the cells leave them together. -/
theorem foldl_cells {α : Type} {g : State → α → State} (hg : ∀ s a, (g s a).cells = s.cells) (l : List α) (s : State) :
    (l.foldl g s).cells = s.cells := by
  induction l generalizing s with
  | nil => rfl
  | cons a t ih => exact (ih _).trans (hg s a)

/-! ### Pages -/

theorem walkEntry_wf {s : State} (h : Canonical s) (x : Nat) (k : Masks) (va table level : Nat) :
    Canonical (walkEntry s x k va table level).1 := by
  have hr := memRead_wf (hbmCell k (table + 16 * levelIndex level va)) 16 h
  unfold walkEntry
  dsimp only
  repeat' split
  all_goals first | exact h | exact hr

theorem walkFrom_wf {s : State} (h : Canonical s) (x : Nat) (k : Masks) (va table fuel : Nat) :
    Canonical (walkFrom s x k va table fuel).1 := by
  fun_induction walkFrom s x k va table fuel <;> grind [walkEntry_wf]

theorem walk_wf {s : State} (h : Canonical s) (x va : Nat) : Canonical (walk s x va).1 := by
  unfold walk
  grind [walkFrom_wf]

@[simp] theorem keepCopy_cells (s : State) (x va level : Nat) (e : BitVec 128) : (keepCopy s x va level e).cells = s.cells := by
  unfold keepCopy
  grind

theorem freshXlat_wf {s : State} (h : Canonical s) (x va : Nat) (need : Need) : Canonical (freshXlat s x va need).1 := by
  unfold freshXlat
  grind [setAcc_wf, keepCopy_cells, walk_wf]

theorem translate_wf {s : State} (h : Canonical s) (x va : Nat) (need : Need) : Canonical (translate s x va need).1 := by
  unfold translate
  grind [freshXlat_wf]

theorem translateAs_wf {s : State} (h : Canonical s) (fresh : Bool) (x va : Nat) (need : Need) :
    Canonical (translateAs fresh s x va need).1 := by
  unfold translateAs
  grind [freshXlat_wf, translate_wf]

theorem translateWord_wf {s : State} (h : Canonical s) (x : Nat) (va : Word) (need : Need) : Canonical (translateWord s x va need).1 := by
  unfold translateWord
  grind [translate_wf]

@[simp] theorem dropCopies_cells (s : State) (x : Nat) (va : Option Nat) : (dropCopies s x va).cells = s.cells :=
  rfl

@[simp] theorem startFill_cells (s : State) (x fpage va : Nat) : (startFill s x fpage va).cells = s.cells := by
  unfold startFill
  split <;> rfl

/-! ### Report -/

theorem signalEvent_wf {s : State} (h : Canonical s) (x e status : Nat) : Canonical (signalEvent s x e status) := by
  unfold signalEvent
  grind [hbmWrite_wf, hbmRead_wf]

theorem writeRecord_wf {s : State} (h : Canonical s) (x : Nat) (r : Record) : Canonical (writeRecord s x r) := by
  unfold writeRecord
  grind [hbmWrite_wf, hbmRead_wf]

theorem signalNotice_wf {s : State} (h : Canonical s) (x : Nat) : Canonical (signalNotice s x) := by
  unfold signalNotice
  grind [signalEvent_wf]

@[simp] theorem addCounter_cells (s : State) (x off n : Nat) : (addCounter s x off n).cells = s.cells :=
  rfl

@[simp] theorem countFrozen_cells (s : State) (x : Nat) (z : Freeze) : (countFrozen s x z).cells = s.cells :=
  rfl

@[simp] theorem countFrosts_cells (s : State) (x : Nat) (zs : List Frost) : (countFrosts s x zs).cells = s.cells :=
  foldl_cells (fun s z => by split <;> simp) ..

@[simp] theorem freeNat_cells (s : State) : (freeNat s).1.cells = s.cells :=
  rfl

/-! ### Threads -/

@[simp] theorem withdrawAsks_cells (s : State) (x : Nat) : (withdrawAsks s x).cells = s.cells :=
  rfl

@[simp] theorem offerPlaces_cells (s : State) : (offerPlaces s).cells = s.cells := by
  unfold offerPlaces
  split <;> rfl

@[simp] theorem beginPreempt_cells (s : State) (x : Nat) : (beginPreempt s x).cells = s.cells := by
  simp [beginPreempt]

theorem debit_wf {s : State} (h : Canonical s) (x pj : Nat) : Canonical (debit s x pj) := by
  unfold debit
  grind [modCtx_cells, beginPreempt_cells, signalNotice_wf, writeRecord_wf]

theorem countInstr_wf {s : State} (h : Canonical s) (x : Nat) : Canonical (countInstr s x) := by
  unfold countInstr
  grind [modCtx_cells, debit_wf]

theorem retireAt_wf {s : State} (h : Canonical s) (t : Nat) (pc : Word) : Canonical (retireAt s t pc) := by
  unfold retireAt
  grind [modThread_cells, countInstr_wf]

theorem retire_wf {s : State} (h : Canonical s) (t : Nat) : Canonical (retire s t) := by
  unfold retire
  grind [retireAt_wf]

theorem retireWith_wf {s : State} (h : Canonical s) (t : Nat) (d : BitVec 5) (v : Word) : Canonical (retireWith s t d v) := by
  unfold retireWith
  grind [modThread_cells, retire_wf]

@[simp] theorem waitAt_cells (s : State) (t : Nat) (w : Wait) : (waitAt s t w).cells = s.cells :=
  rfl

@[simp] theorem raiseAsync_cells (s : State) (t code detail : Nat) : (raiseAsync s t code detail).cells = s.cells :=
  rfl

/-! ### Sets -/

theorem resumeOne_wf {s : State} (h : Canonical s) (key status : Nat) (told : Nat → Bool → Option Nat) (t : Nat) :
    Canonical (resumeOne key status told s t) := by
  unfold resumeOne
  grind [modThread_cells, retireWith_wf, waitAt_cells]

theorem resumeWaiters_wf {s : State} (h : Canonical s) (key status : Nat) (told : Nat → Bool → Option Nat) :
    Canonical (resumeWaiters s key status told) :=
  foldl_wf (fun _ _ hs => resumeOne_wf hs ..) _ h

theorem completePhases_wf {s : State} (h : Canonical s) (key fuel : Nat) : Canonical (completePhases s key fuel) := by
  fun_induction completePhases s key fuel <;> grind [resumeWaiters_wf]

theorem settleSet_wf {s : State} (h : Canonical s) (key : Nat) : Canonical (settleSet s key) :=
  completePhases_wf h ..

@[simp] theorem joinSet_cells (s : State) (key t : Nat) : (joinSet s key t).cells = s.cells := by
  unfold joinSet
  split <;> rfl

theorem leaveSet_wf {s : State} (h : Canonical s) (key t : Nat) : Canonical (leaveSet s key t) := by
  unfold leaveSet
  grind [resumeWaiters_wf, settleSet_wf]

@[simp] theorem recordArrival_cells (s : State) (key t p : Nat) : (recordArrival s key t p).cells = s.cells := by
  unfold recordArrival
  grind

theorem revokePhase_wf {s : State} (h : Canonical s) (key : Nat) : Canonical (revokePhase s key) := by
  unfold revokePhase
  grind [resumeWaiters_wf]

/-! ### Locks -/

@[simp] theorem noteLines_cells (s : State) (x : Nat) (ls : List Nat) : (noteLines s x ls).cells = s.cells :=
  rfl

theorem itemLine_wf {s : State} (h : Canonical s) (x w : Nat) : Canonical (itemLine s x w).1 := by
  unfold itemLine
  grind [translate_wf]

theorem putItem_wf {s : State} (h : Canonical s) (i : LockItem) : Canonical (putItem s i) := by
  unfold putItem
  grind [itemLine_wf, noteLines_cells]

@[simp] theorem strike_cells (s : State) (x : Nat) : (strike s x).cells = s.cells :=
  rfl

@[simp] theorem endIfIdle_cells (s : State) (n : Nat) : (endIfIdle s n).cells = s.cells := by
  unfold endIfIdle
  grind

@[simp] theorem beginTxn_cells (s : State) (x : Nat) (o : TxnOwner) : (beginTxn s x o).1.cells = s.cells := by
  unfold beginTxn
  grind

@[simp] theorem deliverWound_cells (s : State) (t : Nat) : (deliverWound s t).cells = s.cells := by
  unfold deliverWound
  grind [modThread_cells, raiseAsync_cells]

@[simp] theorem woundThread_cells (s : State) (t : Nat) : (woundThread s t).cells = s.cells := by
  unfold woundThread
  split <;> simp

@[simp] theorem wound_cells (s : State) (n : Nat) : (wound s n).cells = s.cells := by
  have hfold (l : List Nat) (s : State) : (l.foldl woundThread s).cells = s.cells := foldl_cells woundThread_cells l s
  unfold wound
  grind

@[simp] theorem settleWounds_cells (s : State) (x w : Nat) : (settleWounds s x w).cells = s.cells :=
  foldl_cells wound_cells ..

theorem answerLock_wf {s : State} (h : Canonical s) (tid : Nat) (status : Word) : Canonical (answerLock s tid status) := by
  unfold answerLock
  grind [retireWith_wf]

theorem scanQueue_wf {s : State} (h : Canonical s) (m : Word) (i : LockItem) (fuel : Nat) : Canonical (scanQueue s m i fuel).1 := by
  fun_induction scanQueue s m i fuel <;> grind [answerLock_wf]

theorem rescan_wf {s : State} (h : Canonical s) (x w : Nat) : Canonical (rescan s x w) := by
  unfold rescan
  grind [strike_cells, settleWounds_cells, putItem_wf, scanQueue_wf]

theorem releaseItem_wf {s : State} (h : Canonical s) (n : Nat) (i : LockItem) : Canonical (releaseItem s n i) := by
  unfold releaseItem
  grind [strike_cells, putItem_wf, rescan_wf]

theorem withdrawOne_wf {s : State} (h : Canonical s) (t : Nat) (r : LockReq) : Canonical (withdrawOne t s r) := by
  unfold withdrawOne
  grind [answerLock_wf]

theorem withdrawAll_wf {s : State} (h : Canonical s) (n t : Nat) : Canonical (withdrawAll s n t) := by
  refine foldl_wf (fun s i hs => ?_) _ h
  have hgone (l : List LockReq) (s : State) (hs : Canonical s) : Canonical (l.foldl (withdrawOne t) s) :=
    foldl_wf (fun _ _ hs => withdrawOne_wf hs ..) l hs
  grind [strike_cells, putItem_wf, rescan_wf]

theorem releaseAll_wf {s : State} (h : Canonical s) (n t : Nat) : Canonical (releaseAll s n t).1 := by
  have hheld (l : List LockItem) (s : State) (hs : Canonical s) :
      Canonical (l.foldl (fun s i => releaseItem s n (findItem s i.ctx i.word)) s) :=
    foldl_wf (fun _ _ hs => releaseItem_wf hs ..) l hs
  exact (hheld _ _ (withdrawAll_wf h n t)).of_cells (endIfIdle_cells ..)

theorem releaseOwner_wf {s : State} (h : Canonical s) (x t : Nat) (o : TxnOwner) : Canonical (releaseOwner s x t o) := by
  unfold releaseOwner
  grind [releaseAll_wf]

theorem releaseOwn_wf {s : State} (h : Canonical s) (x t : Nat) : Canonical (releaseOwn s x t) :=
  releaseOwner_wf h ..

theorem quitSet_wf {s : State} (h : Canonical s) (key t : Nat) : Canonical (quitSet s key t) := by
  unfold quitSet
  grind [releaseOwner_wf, leaveSet_wf]

theorem withdrawWait_wf {s : State} (h : Canonical s) (t : Nat) : Canonical (withdrawWait s t) := by
  unfold withdrawWait
  grind [strike_cells, putItem_wf, endIfIdle_cells, rescan_wf]

theorem lockRequest_wf {s : State} (h : Canonical s) (t : Nat) (th : Thread) (w mode : Nat) (try_ : Bool) :
    Canonical (lockRequest s t th w mode try_).1 := by
  have hitem (i : LockItem) (x v : Nat) :
      Canonical (settleWounds (putItem (beginTxn (modThread s t (fun u => { u with txnOwner := ownerFor s t th })) th.ctx (ownerFor s t th)).1 i)
        x v) :=
    (putItem_wf (h.of_cells (by simp)) i).of_cells (settleWounds_cells ..)
  unfold lockRequest
  dsimp only
  repeat' split
  all_goals first | exact h | exact hitem ..

/-! ### Units -/

@[simp] theorem dropMarkers_cells (s : State) (t : Nat) : (dropMarkers s t).cells = s.cells :=
  foldl_cells (fun s u => by dsimp only; split <;> simp) ..

theorem clearCluster_wf {s : State} (h : Canonical s) (c : Nat) : Canonical (clearCluster s c) := by
  refine Canonical.of_cells (memClear_wf _ _ (memClear_wf _ _ (memClear_wf _ _ ?_))) (modCluster_cells ..)
  exact foldl_wf (fun _ _ hs => memClear_wf _ _ hs) _ h

/-! ### Pool -/

@[simp] theorem addForm_cells (s : State) (fm : Form) : (addForm s fm).cells = s.cells :=
  rfl

@[simp] theorem queueSection_cells (s : State) (n : Nat) (l : Launch) (j : Nat) (t : Task) : (queueSection s n l j t).cells = s.cells := by
  unfold queueSection
  split <;> rfl

@[simp] theorem queueSections_cells (s : State) (n : Nat) (l : Launch) (fuel : Nat) (l1 : List Task) :
    (queueSections s n l fuel l1).cells = s.cells := by
  fun_induction queueSections s n l fuel l1 <;> simp_all

@[simp] theorem refreshLaunch_cells (s : State) (n : Nat) : (refreshLaunch s n).cells = s.cells := by
  unfold refreshLaunch
  grind [queueSections_cells]

theorem endLaunch_wf {s : State} (h : Canonical s) (n : Nat) (l : Launch) (status : Nat) : Canonical (endLaunch s n l status) :=
  foldl_wf (g := refreshLaunch) (fun _ _ hs => Canonical.of_cells hs (refreshLaunch_cells ..)) _ (signalEvent_wf (by exact h) ..)

theorem settleLaunch_wf {s : State} (h : Canonical s) (n : Nat) : Canonical (settleLaunch s n) := by
  unfold settleLaunch
  grind [endLaunch_wf]

@[simp] theorem setTask_cells (s : State) (n j : Nat) (st : ItemState) : (setTask s n j st).cells = s.cells :=
  rfl

theorem endTask_wf {s : State} (h : Canonical s) (n j : Nat) (ok : Bool) : Canonical (endTask s n j ok) := by
  unfold endTask
  grind [refreshLaunch_cells, setTask_cells, settleLaunch_wf]

@[simp] theorem dropHolds_cells (s : State) (c : Nat) : (dropHolds s c).cells = s.cells := by
  simp only [dropHolds]
  rw [foldl_cells (fun s n => by simp), foldl_cells (fun s n => by simp)]

@[simp] theorem unbindIfIdle_cells (s : State) (c : Nat) : (unbindIfIdle s c).cells = s.cells := by
  unfold unbindIfIdle
  grind [modCluster_cells, offerPlaces_cells, dropHolds_cells]

theorem leaveAll_wf {s : State} (h : Canonical s) (t x : Nat) : Canonical (leaveAll s t x) :=
  releaseOwn_wf (foldl_wf (fun _ _ hs => quitSet_wf hs ..) _ h) ..

theorem finishThread_wf {s : State} (h : Canonical s) (t : Nat) : Canonical (finishThread s t) := by
  unfold finishThread
  grind [leaveAll_wf, offerPlaces_cells, endTask_wf, unbindIfIdle_cells]

theorem loseLaunches_wf {s : State} (h : Canonical s) (x : Nat) : Canonical (loseLaunches s x) := by
  refine foldl_wf (fun s n hs => ?_) _ h
  split
  · exact endLaunch_wf hs ..
  · exact hs

/-! ### Ops -/

theorem stopThread_wf {s : State} (h : Canonical s) (t : Nat) (failed : Bool) : Canonical (stopThread s t failed) := by
  unfold stopThread
  grind [modThread_cells, finishThread_wf]

theorem unhandled_wf {s : State} (h : Canonical s) (t : Nat) (th : Thread) (cause : Word) (evaddr word pc : Nat) :
    Canonical (unhandled s t th cause evaddr word pc) := by
  unfold unhandled
  grind [stopThread_wf, writeRecord_wf]

theorem enterTrap_wf {s : State} (h : Canonical s) (t : Nat) (async : Bool) (tr : Trap) (epc : Word) (word : Nat) :
    Canonical (enterTrap s t async tr epc word) := by
  unfold enterTrap
  grind [modThread_cells, unhandled_wf]

theorem raiseTrapWord_wf {s : State} (h : Canonical s) (t : Nat) (tr : Trap) (word : Nat) : Canonical (raiseTrapWord s t tr word) := by
  unfold raiseTrapWord
  grind [enterTrap_wf, unhandled_wf]

theorem raiseTrap_wf {s : State} (h : Canonical s) (t : Nat) (tr : Trap) : Canonical (raiseTrap s t tr) := by
  unfold raiseTrap
  grind [raiseTrapWord_wf]

theorem raiseBreak_wf {s : State} (h : Canonical s) (t n : Nat) : Canonical (raiseBreak s t n) := by
  unfold raiseBreak
  grind [enterTrap_wf, unhandled_wf, retire_wf]

@[simp] theorem dropWaiter_cells (who : Who) (s : State) : (dropWaiter who s).cells = s.cells :=
  rfl

theorem abandonWait_wf {s : State} (h : Canonical s) (t : Nat) : Canonical (abandonWait s t) := by
  unfold abandonWait
  grind [modThread_cells, withdrawWait_wf, addCounter_cells, dropMarkers_cells]

theorem enterAsync_wf {s : State} (h : Canonical s) (t : Nat) : Canonical (enterAsync s t) := by
  unfold enterAsync
  grind [enterTrap_wf, modThread_cells, abandonWait_wf]

theorem returnTrap_wf {s : State} (h : Canonical s) (t : Nat) : Canonical (returnTrap s t) := by
  unfold returnTrap
  grind [modThread_cells, enterAsync_wf, retireAt_wf]

@[simp] theorem setStage_cells (s : State) (f n seq : Nat) (st : Stage) : (setStage s f n seq st).cells = s.cells :=
  rfl

@[simp] theorem answerAccess_cells (s : State) (f n seq : Nat) (t : Tok) : (answerAccess s f n seq t).cells = s.cells :=
  rfl

theorem answerWaiter_wf {s : State} (h : Canonical s) (w : Waiter) (r : ReadOut) : Canonical (answerWaiter s w r) := by
  unfold answerWaiter
  grind [answerAccess_cells, setUnit_cells, retireWith_wf, retire_wf]

theorem serveOne_wf {s s' : State} {k : Nat} {w : Waiter} (hs : serveOne s k w = some s') (h : Canonical s) : Canonical s' := by
  unfold serveOne at hs
  grind [answerWaiter_wf, setFull_cells, setEmpty_cells, memStore_wf, memRead_wf]

theorem poisonWait_wf {s s' : State} {k : Nat} {w : Waiter} (hs : poisonWait s k w = some s') (h : Canonical s) : Canonical s' := by
  unfold poisonWait at hs
  grind [raiseTrap_wf, memRead_wf, modThread_cells]

theorem serveFirst_wf {s : State} {k : Nat} {pre ws : List Waiter} {r : State × List Waiter} (hs : serveFirst s k pre ws = some r)
    (h : Canonical s) : Canonical r.1 := by
  fun_induction serveFirst s k pre ws <;> grind [poisonWait_wf, serveOne_wf]

theorem serveWord_wf {s : State} (h : Canonical s) (k fuel : Nat) : Canonical (serveWord s k fuel) := by
  fun_induction serveWord s k fuel with
  | case4 s fuel ws _ s' rest hs ih => exact ih (serveFirst_wf hs h)
  | _ => exact h

theorem settleWord_wf {s : State} (h : Canonical s) (k : Nat) : Canonical (settleWord s k) :=
  serveWord_wf h ..

theorem settleWords_wf {s : State} (h : Canonical s) (c n : Nat) : Canonical (settleWords s c n) := by
  unfold settleWords
  split
  · exact h
  · exact foldl_wf (fun _ _ hs => settleWord_wf hs _) _ h

theorem waitWord_wf {s : State} (h : Canonical s) (k : Nat) (w : Waiter) : Canonical (waitWord s k w) := by
  unfold waitWord
  grind [settleWord_wf]

theorem putBytes_wf {s : State} (h : Canonical s) (c : Nat) (bs : List Byte) (poison : Bool) : Canonical (putBytes s c bs poison) := by
  unfold putBytes
  grind [memWrite_wf, settleWords_wf]

theorem putBytesMap_wf {s : State} (h : Canonical s) (c : Nat) (bs : List Byte) (pm : List Bool) : Canonical (putBytesMap s c bs pm) := by
  unfold putBytesMap
  grind [putBytes_wf, settleWords_wf, memStoreMap_wf]

theorem settleTagsOnce_wf {s : State} (h : Canonical s) : Canonical (settleTagsOnce s) :=
  foldl_wf (fun _ _ hs => settleWord_wf hs ..) _ h

theorem settleTags_wf {s : State} (h : Canonical s) (k : Nat) : Canonical (settleTags s k) := by
  unfold settleTags
  split
  · exact foldl_wf (fun _ _ hs => settleTagsOnce_wf hs) _ h
  · exact h

theorem fetchWord_wf {s : State} (h : Canonical s) (th : Thread) : Canonical (fetchWord s th).1 := by
  unfold fetchWord
  have ht := translateWord_wf h th.ctx th.pc needExec
  split <;> rename_i he <;> rw [he] at ht
  · exact ht
  · split
    · exact ht
    · exact ht.of_cells (startFill_cells ..)
  · dsimp only
    repeat' split
    all_goals first | exact ht | exact memRead_wf _ _ ht

/-! ### Operands -/

theorem onThread_wf {s : State} {f : Nat → Thread → State} (hf : ∀ t th, Canonical (f t th)) : EndsCanonical (onThread s f) := by
  unfold onThread
  repeat' split
  all_goals first | exact (endsCanonical_next _).2 (hf ..) | exact endsCanonical_fault _

theorem place_wf {s : State} (h : Canonical s) (t : Nat) (th : Thread) (p : Space) (a : Word) (n : Nat) (need : Need) (store : Bool)
    (own : Option Nat) : Canonical (place s t th p a n need store own).1 := by
  unfold place
  grind [startFill_cells, translateWord_wf]

theorem sOffset_wf {s : State} (h : Canonical s) (x q off : Nat) (k : Masks) (store : Bool) : Canonical (sOffset s x q off k store).1 := by
  unfold sOffset
  grind [startFill_cells, translate_wf]

theorem sPlace_wf {s : State} (h : Canonical s) (th : Thread) (w : Word) (align : Nat) (store : Bool) :
    Canonical (sPlace s th w align store).1 := by
  unfold sPlace
  grind [sOffset_wf]

theorem stopAt_wf {s : State} (h : Canonical s) (t : Nat) (p : Place) : Canonical (stopAt s t p) := by
  unfold stopAt
  grind [raiseTrap_wf, waitAt_cells]

/-! ### PeerOut -/

@[simp] theorem sendMsg_cells (s : State) (m : PeerMsg) : (sendMsg s m).cells = s.cells :=
  rfl

@[simp] theorem sendRequestMap_cells (s : State) (who : PeerWho) (x type dev pa len : Nat) (sx : Bool) (addr : Nat) (data : List Byte)
    (pm : List Bool) (aop : Nat) : (sendRequestMap s who x type dev pa len sx addr data pm aop).1.cells = s.cells :=
  rfl

@[simp] theorem sendRequest_cells (s : State) (who : PeerWho) (x type dev pa len : Nat) (sx : Bool) (addr : Nat) (data : List Byte)
    (poison : Bool) (aop : Nat) : (sendRequest s who x type dev pa len sx addr data poison aop).1.cells = s.cells :=
  rfl

theorem readViaLoop_wf {s : State} (h : Canonical s) (fresh : Bool) (x : Nat) (k : Masks) (got : List (Nat × Nat × List Byte × List Bool))
    (who : PeerWho) (need : Need) (va fuel n : Nat) (acc : List Byte) :
      Canonical (readViaLoop fresh s x k got who need va fuel n acc).1 := by
  fun_induction readViaLoop fresh s x k got who need va fuel n acc <;> grind [translateAs_wf, sendRequest_cells, memRead_wf]

theorem readVia_wf {s : State} (h : Canonical s) (fresh : Bool) (x : Nat) (k : Masks) (got : List (Nat × Nat × List Byte × List Bool))
    (who : PeerWho) (need : Need) (va n : Nat) : Canonical (readVia fresh s x k got who need va n).1 :=
  readViaLoop_wf h ..

/-! ### Flags -/

@[simp] theorem satSet_cells (s : State) (cl stream : Nat) (on : Bool) : (satSet s cl stream on).cells = s.cells :=
  rfl

/-! ### ScalarFloat -/

theorem checked_wf {s : State} {ok : Bool} {f : Nat → Thread → State} (h : Canonical s) (hf : ∀ t th, Canonical (f t th)) :
    EndsCanonical (checked s ok f) := by
  refine onThread_wf fun t th => ?_
  split
  · exact hf t th
  · exact raiseTrap_wf h ..

/-! ### LoadStore -/

theorem loadFrom_wf {s : State} (h : Canonical s) (t : Nat) (th : Thread) (p : Space) (x : Word) (n : Nat) (sx : Bool) (d : BitVec 5)
    (need : Need) (own : Option Nat) : Canonical (loadFrom s t th p x n sx d need own) := by
  unfold loadFrom
  grind [stopAt_wf, place_wf, waitAt_cells, sendRequest_cells]

theorem storeTo_wf {s : State} (h : Canonical s) (t : Nat) (th : Thread) (p : Space) (x : Word) (n : Nat) (v : Word) (need : Need)
    (own : Option Nat) : Canonical (storeTo s t th p x n v need own) := by
  unfold storeTo
  grind [stopAt_wf, modThread_cells, place_wf, waitAt_cells, sendRequest_cells, retire_wf]

/-! ### System -/

@[simp] theorem beginInval_cells (s : State) (x : Nat) (cover : Option Nat) (byHost : Bool) :
    (beginInval s x cover byHost).1.cells = s.cells :=
  rfl

/-! ### Sync -/

theorem onWord_wf {s : State} {a : BitVec 5} {sp : BitVec 2} {o : BitVec 5} {w store : Bool}
    {f : State → Nat → Thread → Space → Nat → Nat → Nat → State} (h : Canonical s) (hf : ∀ s t th p x c k,
      Canonical s → Canonical (f s t th p x c k)) : EndsCanonical (onWord s a sp o w store f) := by
  refine onThread_wf fun t th => ?_
  grind [place_wf, waitAt_cells, stopAt_wf]

theorem waitForm_wf {s : State} (h : Canonical s) (a : BitVec 5) (sp : BitVec 2) (o : BitVec 5) (gd : Nat) (store : Bool)
    (op : Thread → WordOp) : EndsCanonical (waitForm s a sp o gd store op) :=
  onWord_wf h (fun s t th p x c k hs => settleTags_wf (waitWord_wf (hs.of_cells (waitAt_cells ..)) ..) _) ..

theorem readWord_wf {s : State} {f : State → Nat → State} (h : Canonical s) (hf : ∀ s v, Canonical s → Canonical (f s v)) (t : Nat)
    (p : Space) (x c : Nat) : Canonical (readWord s t p x c f) := by
  unfold readWord
  grind [raiseTrap_wf, memRead_wf]

/-! ### Barrier -/

theorem onSet_wf {s : State} {d a : BitVec 5} {f : Nat → Thread → Nat → State} (h : Canonical s) (hf : ∀ t th key, Canonical (f t th key)) :
    EndsCanonical (onSet s d a f) := by
  refine onThread_wf fun t th => ?_
  split
  · exact retireWith_wf h ..
  · exact hf ..

theorem onPhase_wf {s : State} {d a : BitVec 5} {low : Thread → Nat} {f : Nat → Thread → Nat → State} (h : Canonical s) (hf : ∀ t th key,
    Canonical (f t th key)) : EndsCanonical (onPhase s d a low f) := by
  refine onThread_wf fun t th => ?_
  split
  · exact retireWith_wf h ..
  · exact hf ..

theorem arrive_wf {s : State} {f : State → Nat → State} (h : Canonical s) (hf : ∀ s p, Canonical s → Canonical (f s p)) (t : Nat)
    (th : Thread) (key : Nat) (o : SetObj) : Canonical (arrive s t th key o f) := by
  unfold arrive
  grind [waitAt_cells, settleSet_wf, recordArrival_cells]

/-! ### PageFmt -/

theorem pageBytes_wf {s : State} (h : Canonical s) (k : Masks) (t : Target) (off n : Nat) : Canonical (pageBytes s k t off n).1 := by
  unfold pageBytes
  grind [memRead_wf]

theorem decScaled_wf {rd : PageRead} {s : State} (h : Canonical s) (hrd : ∀ s off n, Canonical s → Canonical (rd s off n).1) (f : Fmt)
    (eOff sOff : Nat) : Canonical (decScaled rd s f eOff sOff).1 :=
  hrd _ _ _ (hrd _ _ _ h)

theorem decGroup_wf {rd : PageRead} {s : State} (h : Canonical s) (hrd : ∀ s off n, Canonical s → Canonical (rd s off n).1) (p f g e : Nat) :
    Canonical (decGroup rd s p f g e).1 := by
  unfold decGroup
  grind

theorem decKvc_wf {rd : PageRead} {s : State} (h : Canonical s) (hrd : ∀ s off n, Canonical s → Canonical (rd s off n).1) (e : Nat) :
    Canonical (decKvc rd s e).1 := by
  unfold decKvc
  grind [decScaled_wf]

theorem decElem_wf {rd : PageRead} {s : State} (h : Canonical s) (hrd : ∀ s off n, Canonical s → Canonical (rd s off n).1) (p f g e : Nat) :
    Canonical (decElem rd s p f g e).1 := by
  unfold decElem
  grind [decScaled_wf, decGroup_wf, decKvc_wf]

theorem decPlain_wf {rd : PageRead} {s : State} (h : Canonical s) (hrd : ∀ s off n, Canonical s → Canonical (rd s off n).1) (f off : Nat) :
    Canonical (decPlain rd s f off).1 :=
  hrd _ _ _ h

/-! ### Cmds -/

theorem readDesc_wf {s : State} {f : State → List Byte → State} (h : Canonical s) (hf : ∀ s bs, Canonical s → Canonical (f s bs)) (t : Nat)
    (th : Thread) (a : Word) (n : Nat) : Canonical (readDesc s t th a n f) := by
  unfold readDesc
  grind [place_wf, waitAt_cells, stopAt_wf, raiseTrap_wf, memRead_wf]

@[simp] theorem setQueue_cells (s : State) (cl u : Nat) (q : UnitQ) : (setQueue s cl u q).cells = s.cells :=
  rfl

@[simp] theorem modRunning_cells (s : State) (cl u : Nat) (f : Cmd → Cmd) : (modRunning s cl u f).cells = s.cells :=
  rfl

theorem issueTo_wf {s : State} {f : State → State} (h : Canonical s) (hf : ∀ s, Canonical s → Canonical (f s)) (t u : Nat) (c : Cmd) :
    Canonical (issueTo s t u c f) := by
  unfold issueTo
  grind [retire_wf, waitAt_cells, setQueue_cells]

theorem issueCmd_wf {s : State} {f : State → State} (h : Canonical s) (hf : ∀ s, Canonical s → Canonical (f s)) (t u reason : Nat)
    (c : Cmd) : Canonical (issueCmd s t u reason c f) := by
  unfold issueCmd
  grind [raiseTrap_wf, issueTo_wf]

theorem stepBoundary_wf {s : State} (h : Canonical s) (cl u : Nat) : Canonical (stepBoundary s cl u) := by
  unfold stepBoundary
  grind [setUnit_cells, debit_wf]

@[simp] theorem deliverWounds_cells (s : State) (cl : Nat) : (deliverWounds s cl).cells = s.cells :=
  foldl_cells (fun s p => by simp) ..

@[simp] theorem easeLaunches_cells (s : State) (t u : Nat) : (easeLaunches s t u).cells = s.cells :=
  foldl_cells (fun s n => by simp) ..

@[simp] theorem holdLanding_cells (s : State) (p t k : Nat) : (holdLanding s p t k).cells = s.cells := by
  unfold holdLanding
  split <;> rfl

@[simp] theorem easeLanding_cells (s : State) (k : Nat) : (easeLanding s k).cells = s.cells := by
  simp only [easeLanding]
  rw [foldl_cells (fun s n => by simp)]
  split <;> rfl

@[simp] theorem putBindings_cells (s : State) (cl p : Nat) (q : Port) : (putBindings s cl p q).cells = s.cells := by
  have hhold (p : Nat) (l : List (Nat × Nat)) (s : State) : (l.foldl (fun s l => holdLanding s p l.1 l.2) s).cells = s.cells :=
    foldl_cells (fun s l => by simp) l s
  have hease (p t : Nat) (l : List Nat) (s : State) : (l.foldl (fun s _ => easeLaunches s t (100 + p)) s).cells = s.cells :=
    foldl_cells (fun s _ => by simp) l s
  simp only [putBindings]
  split
  · simp
  · rw [foldl_cells (fun s t => hease ..), hhold, setPort_cells]

@[simp] theorem dropBindings_cells (s : State) (cl p t : Nat) (q : Port) : (dropBindings s cl p t q).cells = s.cells :=
  foldl_cells (fun s n => by simp) ..

@[simp] theorem easePort_cells (s : State) (cl p : Nat) : (easePort s cl p).cells = s.cells :=
  foldl_cells (fun s b => by simp) ..

@[simp] theorem disown_cells (p : PeerWho → Bool) (s : State) : (disown p s).cells = s.cells := by
  unfold disown
  split <;> rfl

theorem completeCmd_wf {s : State} (h : Canonical s) (cl u : Nat) : Canonical (completeCmd s cl u) := by
  unfold completeCmd
  dsimp only
  split
  · exact h
  · split
    · repeat' split
      all_goals refine h.of_cells ?_; simp
    · refine Canonical.of_cells (finishThread_wf (h.of_cells ?_) ..) (unbindIfIdle_cells ..)
      split <;> simp

theorem cmdFault_wf {s : State} (h : Canonical s) (c : Cmd) (reason addr detail : Nat) : Canonical (cmdFault s c reason addr detail) :=
  writeRecord_wf h ..

theorem cmdXlat_wf {s : State} (h : Canonical s) (c : Cmd) (who : PeerWho) (va : Nat) (need : Need) :
    Canonical (cmdXlat s c who va need).1 :=
  translateAs_wf h ..

theorem vTargets_wf {s : State} (h : Canonical s) (c : Cmd) (who : PeerWho) (need : Need) (l : List (Nat × Nat)) :
    Canonical (vTargets s c who need l).1 := by
  fun_induction vTargets s c who need l <;> grind [cmdXlat_wf, startFill_cells]

@[simp] theorem peerMap_cells (s : State) (got : List (Nat × Nat × List Byte × List Bool)) (who : PeerWho) (x dev pa n addr : Nat) :
    (peerMap s got who x dev pa n addr).1.cells = s.cells := by
  unfold peerMap
  grind [sendRequest_cells]

@[simp] theorem peerBytes_cells (s : State) (got : List (Nat × Nat × List Byte × List Bool)) (who : PeerWho) (x dev pa n addr : Nat) :
    (peerBytes s got who x dev pa n addr).1.cells = s.cells := by
  simp [peerBytes]

theorem readTargets_wf {s : State} (h : Canonical s) (k : Masks) (got : List (Nat × Nat × List Byte × List Bool)) (who : PeerWho)
    (x va : Nat) (l : List (Target × Nat)) : Canonical (readTargets k got who x va s l).1 := by
  fun_induction readTargets k got who x va s l <;> grind [peerMap_cells, memReadMap_wf]

theorem vGet_wf {s : State} (h : Canonical s) (c : Cmd) (who : PeerWho) (va n : Nat) : Canonical (vGet s c who va n).1 := by
  unfold vGet
  grind [vTargets_wf, readTargets_wf]

theorem writeTargets_wf {s : State} (h : Canonical s) (k : Masks) (who : PeerWho) (x va : Nat) (l : List (Target × Nat)) (l1 : List Byte)
    (l2 : List Bool) : Canonical (writeTargets k who x va s l l1 l2) := by
  fun_induction writeTargets k who x va s l l1 l2 <;> grind [sendRequestMap_cells, putBytesMap_wf]

theorem vPut_wf {s : State} (h : Canonical s) (c : Cmd) (who : PeerWho) (va : Nat) (bs : List Byte) (pm : List Bool) :
    Canonical (vPut s c who va bs pm).1 := by
  unfold vPut
  grind [writeTargets_wf, vTargets_wf]

theorem notePart_wf {s : State} (h : Canonical s) (c : Cmd) (i : Nat) (p : Part1) : Canonical (notePart s c i p).1 := by
  unfold notePart
  grind [cmdFault_wf, writeRecord_wf, countFrosts_cells]

theorem runParts_wf {f : State → Cmd → Nat → State × Cmd × Part1} {s : State} (h : Canonical s) (hf : ∀ s c i,
    Canonical s → Canonical (f s c i).1) (c : Cmd) (l : List Nat) : Canonical (runParts f s c l).1 := by
  fun_induction runParts f s c l <;> grind [notePart_wf]

theorem linePart_wf {s : State} (h : Canonical s) (held : State → Cmd → Nat → Nat → Bool) (cl u i va : Nat) (bs : List Byte)
    (pm : List Bool) (c : Cmd) (k : Nat) : Canonical (linePart held cl u i va bs pm s c k).1 := by
  unfold linePart
  grind [vPut_wf]

theorem putLines_wf {s : State} (h : Canonical s) (held : State → Cmd → Nat → Nat → Bool) (cl u i va : Nat) (bs : List Byte)
    (pm : List Bool) (c : Cmd) (l : List Nat) : Canonical (putLines held cl u i va bs pm s c l).1 := by
  fun_induction putLines held cl u i va bs pm s c l <;> grind [notePart_wf, linePart_wf]

theorem writeOut_wf {s : State} (h : Canonical s) (cl i va : Nat) (bs : List Byte) (c : Cmd) (n : Nat) :
    Canonical (writeOut cl i va bs s c n).1 := by
  unfold writeOut
  grind [linePart_wf, putLines_wf]

/-! ### Copy -/

theorem decodeAt_wf {s : State} (h : Canonical s) (c : Cmd) (who : PeerWho) (src e : Nat) (t0 : Target) :
    Canonical (decodeAt s c who src e t0).1 := by
  unfold decodeAt
  grind [startFill_cells, cmdXlat_wf]

theorem decodePlaces_wf {s : State} (h : Canonical s) (c : Cmd) (who : PeerWho) (src : Nat) (t0 : Target) (e fuel : Nat) :
    Canonical (decodePlaces s c who src t0 e fuel).1 := by
  fun_induction decodePlaces s c who src t0 e fuel <;> grind [decodeAt_wf]

@[simp] theorem peerLine_cells (shared : Bool) (s : State) (c : Cmd) (who : PeerWho) (dev pa addr : Nat) :
    (peerLine shared s c who dev pa addr).1.cells = s.cells := by
  unfold peerLine
  split <;> simp

@[simp] theorem peerLines_cells (shared : Bool) (s : State) (c : Cmd) (who : PeerWho) (dev pa n addr : Nat) :
    (peerLines shared s c who dev pa n addr).1.cells = s.cells := by
  unfold peerLines
  grind [peerLine_cells]

theorem decodeRun_wf {s : State} (h : Canonical s) (shared : Bool) (c : Cmd) (who : PeerWho) (src : Nat) (f : Fmt)
    (l : List (Target × Nat)) : Canonical (decodeRun shared s c who src f l).1 := by
  fun_induction decodeRun shared s c who src f l <;> grind [peerLines_cells, pageBytes_wf, decPlain_wf, decElem_wf]

theorem decodeFrom_wf {s : State} (h : Canonical s) (c : Cmd) (who : PeerWho) (src : Nat) (f : Fmt) (e n : Nat) :
    Canonical (decodeFrom s c who src f e n).1 := by
  unfold decodeFrom
  grind [startFill_cells, cmdXlat_wf, decodeRun_wf, decodePlaces_wf]

@[simp] theorem countMoved_cells (s : State) (c : Cmd) (n : Nat) : (countMoved s c n).cells = s.cells :=
  rfl

theorem putDest_wf {s : State} (h : Canonical s) (cl : Nat) (c : Cmd) (i : Nat) (bs : List Byte) (pm : List Bool) :
    Canonical (putDest cl s c i bs pm) := by
  unfold putDest
  grind [countMoved_cells, putBytesMap_wf]

theorem readSource_wf {s : State} (h : Canonical s) (c : Cmd) (cl : Nat) (who : PeerWho) (a n : Nat) :
    Canonical (readSource s c cl who a n).1 := by
  unfold readSource
  grind [memReadMap_wf, vGet_wf]

theorem putReady_wf {s : State} (h : Canonical s) (cl : Nat) (c : Cmd) (i fuel : Nat) : Canonical (putReady cl s c i fuel) := by
  fun_induction putReady cl s c i fuel <;> grind [putDest_wf]

theorem inPart_wf {s : State} (h : Canonical s) (cl u : Nat) (c : Cmd) (j : Nat) : Canonical (inPart cl u s c j).1 := by
  unfold inPart
  grind [putReady_wf, readSource_wf]

theorem outPart_wf {s : State} (h : Canonical s) (cl u : Nat) (c : Cmd) (i : Nat) : Canonical (outPart cl u s c i).1 := by
  unfold outPart
  grind [memReadMap_wf, vPut_wf, countMoved_cells]

theorem elemPlaces_wf {s : State} (h : Canonical s) (c : Cmd) (who : PeerWho) (t0 : Target) (e fuel : Nat) :
    Canonical (elemPlaces s c who t0 e fuel).1 := by
  fun_induction elemPlaces s c who t0 e fuel <;> grind [decodeAt_wf]

theorem elemRun_wf {s : State} (h : Canonical s) (c : Cmd) (who : PeerWho) (f : Fmt) (l : List (Nat × ElemAt)) :
    Canonical (elemRun s c who f l).1 := by
  fun_induction elemRun s c who f l <;> grind [decodeRun_wf]

theorem decodePart_wf {s : State} (h : Canonical s) (cl u : Nat) (c : Cmd) (i : Nat) : Canonical (decodePart cl u s c i).1 := by
  unfold decodePart
  grind [elemPlaces_wf, startFill_cells, cmdXlat_wf, putDest_wf, elemRun_wf]

theorem copyPart_wf {s : State} (h : Canonical s) (cl u : Nat) (c : Cmd) (i : Nat) : Canonical (copyPart cl u s c i).1 := by
  unfold copyPart
  grind [decodePart_wf, inPart_wf, outPart_wf]

@[simp] theorem checkPromise_cells (s : State) (c h : Nat) : (checkPromise s c h).cells = s.cells := by
  unfold checkPromise
  grind [raiseAsync_cells, setHandle_cells]

theorem landCopy_wf {s : State} (h : Canonical s) (cl u : Nat) (c : Cmd) : Canonical (landCopy s cl u c) := by
  unfold landCopy
  grind [modRunning_cells, checkPromise_cells, completeCmd_wf, setHandle_cells]

/-! ### Trace -/

theorem writeTrace_wf {s : State} (h : Canonical s) (x : Nat) (r : TraceRec) : Canonical (writeTrace s x r) := by
  unfold writeTrace
  grind [hbmWrite_wf, modCtx_cells, hbmRead_wf]

/-! ### Matrix -/

theorem blockRows_wf {s : State} (h : Canonical s) (cell : Nat) (f : Fmt) (k bytes : Nat) (scaledBlock : Bool) :
    Canonical (blockRows s cell f k bytes scaledBlock).1 := by
  unfold blockRows
  grind [memReadMap_wf]

theorem readTile_wf {s : State} (h : Canonical s) (cl ty off : Nat) : Canonical (readTile s cl ty off).1 := by
  unfold readTile
  grind [memReadMap_wf]

theorem rowsFromC_wf {s : State} (h : Canonical s) (c : Cmd) (cl n fuel : Nat) : Canonical (rowsFromC s c cl n fuel).1 := by
  fun_induction rowsFromC s c cl n fuel <;> grind [readTile_wf]

theorem writeTile_wf {s : State} (h : Canonical s) (cl ty off : Nat) (es : List Entry) : Canonical (writeTile s cl ty off es) :=
  putBytesMap_wf h ..

theorem kStep_wf {s : State} (h : Canonical s) (cl : Nat) (c : Cmd) (n : Nat) : Canonical (kStep s cl c n) := by
  unfold kStep
  grind [rowsFromC_wf, addCounter_cells, blockRows_wf, satSet_cells, writeTile_wf, readTile_wf]

@[simp] theorem woundAtStep_cells (s : State) (cl stream : Nat) : (woundAtStep s cl stream).cells = s.cells :=
  foldl_cells (fun s p => by split <;> simp) ..

theorem streamPlace_wf {s : State} {go : State → State} (h : Canonical s) (hg : ∀ s, Canonical s → Canonical (go s)) (t stream op : Nat) :
    Canonical (streamPlace s t stream op go) := by
  unfold streamPlace
  grind [dropMarkers_cells, waitAt_cells, setUnit_cells]

/-! ### Vector -/

theorem bufVector_wf {s : State} (h : Canonical s) (cl : Nat) (o : Nat × Nat) (w v : Nat) : Canonical (bufVector s cl o w v).1 := by
  unfold bufVector
  grind [memReadMap_wf]

theorem portAccess_wf {s : State} (h : Canonical s) (cl u : Nat) (c : Cmd) (b : Binding) : Canonical (portAccess s cl u c b).1 := by
  unfold portAccess
  grind [memReadMap_wf, vGet_wf]

@[simp] theorem modCmd_cells (s : State) (cl u : Nat) (f : Cmd → Cmd) : (modCmd s cl u f).cells = s.cells :=
  rfl

theorem failPort_wf {s : State} (h : Canonical s) (cl u : Nat) (c : Cmd) (b : Binding) (p : Part1) : Canonical (failPort s cl u c b p) := by
  unfold failPort
  grind [modThread_cells, notePart_wf, modCmd_cells, setPort_cells]

theorem takeLanes_wf {s : State} (h : Canonical s) (cl u fuel : Nat) : Canonical (takeLanes s cl u fuel).1 := by
  fun_induction takeLanes s cl u fuel <;> grind [portAccess_wf, setPort_cells, modCmd_cells, waitWord_wf, failPort_wf, notePart_wf]

theorem writeReduced_wf {s : State} (h : Canonical s) (cl : Nat) (c : Cmd) : Canonical (writeReduced s cl c) := by
  unfold writeReduced
  grind [putBytes_wf]

theorem writeVector_wf {s : State} (h : Canonical s) (cl : Nat) (c : Cmd) (v : Nat) (ls : List Lane) :
    Canonical (writeVector s cl c v ls) :=
  putBytesMap_wf h ..

theorem operandB_wf {s : State} (h : Canonical s) (cl u : Nat) (c : Cmd) : Canonical (operandB s cl u c).1 := by
  unfold operandB
  grind [memReadMap_wf, bufVector_wf, takeLanes_wf, modCmd_cells]

theorem stopWaiting_wf {s : State} (h : Canonical s) (cl u : Nat) (c : Cmd) : Canonical (stopWaiting s cl u c) := by
  unfold stopWaiting
  grind [stepBoundary_wf, modCmd_cells, setPort_cells]

/-! ### Fabric -/

@[simp] theorem dateSlots_cells (old : Form) (f n : Nat) (s : State) : (dateSlots old f n s).cells = s.cells :=
  rfl

@[simp] theorem freePort_cells (s : State) (cp : Nat × Nat) : (freePort s cp).cells = s.cells := by
  simp [freePort]

@[simp] theorem freePorts_cells (s : State) (f : Nat) (fm : Form) : (freePorts s f fm).cells = s.cells :=
  foldl_cells (fun s cp => by split <;> simp) ..

theorem finishForm_wf {s : State} (h : Canonical s) (f : Nat) (ok : Bool) : Canonical (finishForm s f ok) := by
  unfold finishForm
  grind [modThread_cells, finishThread_wf, freePorts_cells, offerPlaces_cells, endTask_wf, unbindIfIdle_cells]

theorem settleDrain_wf {s : State} (h : Canonical s) (f : Nat) : Canonical (settleDrain s f) := by
  unfold settleDrain
  grind [finishForm_wf, offerPlaces_cells]

@[simp] theorem dropNodeWaits_cells (s : State) (f : Nat) : (dropNodeWaits s f).cells = s.cells :=
  rfl

@[simp] theorem dropNodeOps_cells (s : State) (f : Nat) : (dropNodeOps s f).cells = s.cells :=
  foldl_cells (fun s w => by simp) ..

@[simp] theorem noteLanding_cells (fm : Form) (s : State) (nd : Node) : (noteLanding fm s nd).cells = s.cells := by
  unfold noteLanding
  grind [setPort_cells]

@[simp] theorem tearDown_cells (s : State) (f : Nat) : (tearDown s f).cells = s.cells := by
  unfold tearDown
  split
  · rfl
  · simp only [modForm_cells, dropNodeOps_cells, dropNodeWaits_cells, freePorts_cells, countFrosts_cells]
    exact foldl_cells (fun s nd => noteLanding_cells ..) ..

theorem failForm_wf {s : State} (h : Canonical s) (f : Nat) (r : Form → Record) : Canonical (failForm s f r) := by
  unfold failForm
  grind [writeRecord_wf, tearDown_cells]

theorem failNode_wf {s : State} (h : Canonical s) (f n : Nat) (r : Form → Node → Record) : Canonical (failNode s f n r) :=
  failForm_wf h ..

theorem nodeFault_wf {s : State} (h : Canonical s) (f n reason addr detail : Nat) : Canonical (nodeFault s f n reason addr detail) :=
  failNode_wf h ..

theorem mismatch_wf {s : State} (h : Canonical s) (f n reason : Nat) : Canonical (mismatch s f n reason) :=
  failNode_wf h ..

theorem badToken_wf {s : State} (h : Canonical s) (f n : Nat) (t : Tok) : Canonical (badToken s f n t) :=
  failNode_wf h ..

theorem countElement_wf {s : State} (h : Canonical s) (x : Nat) : Canonical (countElement s x) := by
  unfold countElement
  grind [modCtx_cells, debit_wf]

theorem noteFiring_wf {s : State} (h : Canonical s) (f n : Nat) (ins : List (Nat × Flit)) (outs : List Nat) :
    Canonical (noteFiring s f n ins outs) := by
  unfold noteFiring
  grind [addCounter_cells, countElement_wf, writeTrace_wf, modForm_cells]

@[simp] theorem countEmitted_cells (s : State) (x : Nat) (t : Tok) : (countEmitted s x t).cells = s.cells := by
  unfold countEmitted
  grind [addCounter_cells]

theorem onNode_wf {s : State} {g : Nat → Form → Nat → Node → State} (hg : ∀ f fm n nd, Canonical (g f fm n nd)) :
    EndsCanonical (onNode s g) := by
  unfold onNode
  repeat' split
  all_goals first | exact (endsCanonical_next _).2 (hg ..) | exact endsCanonical_fault _

theorem matchBreak_wf {s : State} (h : Canonical s) (f a : Nat) (t : Tok) (key : Nat) (b : Breakpoint) :
    Canonical (matchBreak s f a t key b) := by
  unfold matchBreak
  grind [writeTrace_wf, modForm_cells]

theorem arriveTok_wf {s : State} (h : Canonical s) (f a : Nat) (t : Tok) : Canonical (arriveTok s f a t) := by
  have hb (l : Tbl Breakpoint) (s : State) (hs : Canonical s) : Canonical (l.foldl (fun s b => matchBreak s f a t b.1 b.2) s) :=
    foldl_wf (fun _ _ hs => matchBreak_wf hs ..) l hs
  unfold arriveTok
  grind [putNode_cells]

theorem readImage_wf {s : State} (h : Canonical s) (fresh : Bool) (fm : Form) (who : PeerWho) (va n : Nat) :
    Canonical (readImage fresh s fm who va n).1 := by
  unfold readImage
  grind [startFill_cells, readVia_wf]

@[simp] theorem cacheTouch_cells (s : State) (cl f n : Nat) : (cacheTouch s cl f n).cells = s.cells :=
  rfl

theorem freezeRecord_wf {s : State} (h : Canonical s) (f n : Nat) (z : Freeze) (space : Space) :
    Canonical (freezeRecord s f n z space) := by
  unfold freezeRecord
  grind [writeRecord_wf]

theorem loadWords_wf {s : State} (h : Canonical s) (f n : Nat) : Canonical (loadWords s f n) := by
  unfold loadWords
  grind [putNode_cells, failNode_wf, modForm_cells]

theorem fetchWords_wf {s : State} (h : Canonical s) (f : Nat) (fm : Form) (n : Nat) (nd : Node) : Canonical (fetchWords s f fm n nd).1 := by
  unfold fetchWords
  grind [readImage_wf]

/-! ### Elements -/

theorem checkResidue_wf {s : State} (h : Canonical s) (f n : Nat) (t : Tok) : Canonical (checkResidue s f n t).1 := by
  unfold checkResidue
  grind [writeRecord_wf, modForm_cells]

theorem checkResidues_wf {s : State} (h : Canonical s) (f n : Nat) (l : List Tok) : Canonical (checkResidues s f n l).1 := by
  fun_induction checkResidues s f n l <;> grind [checkResidue_wf]

/-! ### Gather -/

theorem readIndex_wf {s : State} (h : Canonical s) (c : Cmd) (who : PeerWho) (e : Nat) : Canonical (readIndex s c who e).1 := by
  unfold readIndex
  grind [vGet_wf]

theorem rowOut_wf {s : State} (h : Canonical s) (held : State → Cmd → Nat → Nat → Bool) (cl e va : Nat) (bs : List Byte) (pm : List Bool)
    (c : Cmd) : Canonical (rowOut held cl e va bs pm s c).1 :=
  putLines_wf h ..

theorem writeRow_wf {s : State} (h : Canonical s) (cl : Nat) (c : Cmd) (e : Nat) (bs : List Byte) (pm : List Bool) :
    Canonical (writeRow s cl c e bs pm).1 := by
  unfold writeRow
  grind [rowOut_wf, putBytesMap_wf]

theorem gathRead_wf {s : State} (h : Canonical s) (c : Cmd) (who : PeerWho) (e : Nat) : Canonical (gathRead s c who e).1 := by
  unfold gathRead
  grind [decodeFrom_wf, vGet_wf, readIndex_wf]

theorem gathPart_wf {s : State} (h : Canonical s) (cl : Nat) (c : Cmd) (i : Nat) : Canonical (gathPart cl s c i).1 := by
  unfold gathPart
  grind [linePart_wf, writeRow_wf, gathRead_wf]

theorem scatPart_wf {s : State} (h : Canonical s) (cl : Nat) (c : Cmd) (i : Nat) : Canonical (scatPart cl s c i).1 := by
  unfold scatPart
  grind [linePart_wf, rowOut_wf, vGet_wf, readIndex_wf]

theorem gatherRun_wf {s : State} (h : Canonical s) (cl : Nat) (c : Cmd) : Canonical (gatherRun s cl c) := by
  unfold gatherRun
  grind [modRunning_cells, gathPart_wf, runParts_wf, completeCmd_wf, scatPart_wf]

/-! ### MemElems -/

@[simp] theorem modAccess_cells (s : State) (f n seq : Nat) (g : Access → Access) : (modAccess s f n seq g).cells = s.cells :=
  rfl

@[simp] theorem emitReplies_cells (s : State) (f n fuel : Nat) : (emitReplies s f n fuel).cells = s.cells := by
  fun_induction emitReplies s f n fuel with
  | case3 s k fm _ a _ out t _ ih | case4 s k fm _ a _ out t _ ih =>
    simp only [out]
    split
    · rfl
    · refine (ih t).trans ?_
      split <;> simp
  | _ => rfl

theorem passMem_wf {s : State} (h : Canonical s) (f n : Nat) (w : BitVec 32) (ins : List (Nat × Flit)) (t : Tok) :
    Canonical (passMem s f n w ins t) := by
  unfold passMem
  grind [settleDrain_wf, noteFiring_wf, modForm_cells]

theorem beginAccess_wf {s : State} (h : Canonical s) (f n : Nat) (fm : Form) (nd : Node) (w : BitVec 32) (ins : List (Nat × Flit)) :
    Canonical (beginAccess s f n fm nd w ins) := by
  unfold beginAccess
  grind [nodeFault_wf, emitReplies_cells, noteFiring_wf, modForm_cells]

@[simp] theorem giveUp_cells (s : State) (f n : Nat) : (giveUp s f n).cells = s.cells := by
  have hdrop (l : List Access) (s : State) : (l.foldl (fun s a => dropWaiter (.node f n a.seq) s) s).cells = s.cells :=
    foldl_cells (fun s a => by simp) l s
  unfold giveUp
  grind [dateSlots_cells, putNode_cells, disown_cells, countFrosts_cells]

@[simp] theorem holdTokens_cells (s : State) (f n : Nat) (ports : List Nat) : (holdTokens s f n ports).cells = s.cells := by
  unfold holdTokens
  grind [emitReplies_cells, giveUp_cells, modForm_cells]

theorem freezeAccess_wf {s : State} (h : Canonical s) (f n seq addr reason : Nat) (store : Bool) (fpage : Nat) :
    Canonical (freezeAccess s f n seq addr reason store fpage) := by
  unfold freezeAccess
  grind [modAccess_cells, freezeRecord_wf]

theorem walkAccess_wf {s : State} (h : Canonical s) (f n seq : Nat) (fm : Form) (nd : Node) (a : Access) :
    Canonical (walkAccess s f n seq fm nd a) := by
  unfold walkAccess
  grind [answerAccess_cells, nodeFault_wf, setStage_cells, startFill_cells, dateSlots_cells, freezeAccess_wf, translateAs_wf]

theorem nodeRead_wf {s : State} (h : Canonical s) (k : Masks) (f n x : Nat) (a : Access) (t : Target) (off m : Nat) :
    Canonical (nodeRead k f n x a t s off m).1 := by
  unfold nodeRead
  grind [peerBytes_cells, memRead_wf]

theorem decodeLoad_wf {rd : PageRead} {s : State} (h : Canonical s) (hrd : ∀ s off n, Canonical s → Canonical (rd s off n).1) (t : Target) :
    Canonical (decodeLoad s rd t).1 := by
  unfold decodeLoad
  grind [decPlain_wf, decElem_wf]

@[simp] theorem peerCode_cells (s : State) (f n x : Nat) (a : Access) (t : Target) (v : Nat) (p : Bool) :
    (peerCode s f n x a t v p).cells = s.cells := by
  unfold peerCode
  grind [setStage_cells, peerBytes_cells, sendRequest_cells, modForm_cells]

theorem performAccess_wf {s : State} (h : Canonical s) (f n : Nat) (fm : Form) (a : Access) (t : Target) (c : Nat) :
    Canonical (performAccess s f n fm a t c) := by
  unfold performAccess
  grind [checkResidue_wf, peerCode_cells, answerAccess_cells, putBytes_wf, setStage_cells, waitWord_wf, setFull_cells, settleTags_wf, nodeRead_wf,
    settleWord_wf, sendRequest_cells, modForm_cells, memRead_wf, decodeLoad_wf]

/-! ### Ports -/

@[simp] theorem movePort_cells (s : State) (cp : Nat × Nat) (q : Port) : (movePort s cp q).cells = s.cells := by
  simp [movePort]

theorem beginPort_wf {s : State} (h : Canonical s) (f n : Nat) (nd : Node) (cl : Nat) (b : Binding) (t : Option Flit) :
    Canonical (beginPort s f n nd cl b t) := by
  unfold beginPort
  grind [nodeFault_wf, noteFiring_wf, modForm_cells]

theorem performPort_wf {s : State} (h : Canonical s) (f n : Nat) (fm : Form) (nd : Node) (a : Access) (t : Target) (c : Nat) :
    Canonical (performPort s f n fm nd a t c) := by
  unfold performPort
  grind [checkResidue_wf, answerAccess_cells, putBytes_wf, setStage_cells, waitWord_wf, peerBytes_cells, sendRequest_cells, modForm_cells, memRead_wf]

@[simp] theorem completePort_cells (sink : Bool) (s : State) (f n : Nat) (cp : Nat × Nat) :
    (completePort sink s f n cp).cells = s.cells := by
  simp [completePort]

theorem emitInjected_wf {s : State} (h : Canonical s) (f n : Nat) (cp : Nat × Nat) (t : Tok) : Canonical (emitInjected s f n cp t) := by
  unfold emitInjected
  grind [settleDrain_wf, freePort_cells, modForm_cells]

@[simp] theorem giveUpSource_cells (s : State) (f n : Nat) (nd : Node) : (giveUpSource s f n nd).cells = s.cells := by
  have hdrop (l : List Access) (s : State) : (l.foldl (fun s a => dropWaiter (.node f n a.seq) s) s).cells = s.cells :=
    foldl_cells (fun s a => by simp) l s
  unfold giveUpSource
  grind [putNode_cells, disown_cells, countFrosts_cells]

/-! ### Section -/

theorem peekTasks_wf {s : State} (h : Canonical s) (x graph : Nat) (who : PeerWho) : Canonical (peekTasks s x graph who).1 := by
  unfold peekTasks
  have ht := translate_wf h x (graph + 4) needRead
  split <;> rename_i he <;> rw [he] at ht
  · split
    · exact ht.of_cells (sendRequest_cells ..)
    · exact memRead_wf _ _ ht
  · exact ht
  · exact ht

@[simp] theorem submitLaunch_cells (s : State) (x : Nat) (src : Source) (d daddr : Nat) (hold : Tbl Nat) (n : Nat) :
    (submitLaunch s x src d daddr hold n).1.cells = s.cells := by
  unfold submitLaunch
  split <;> rfl

theorem submitThread_wf {s : State} (h : Canonical s) (t : Nat) (th : Thread) (bs : List Byte) (a : Nat) :
    Canonical (submitThread s t th bs a) := by
  unfold submitThread
  grind [modThread_cells, submitLaunch_cells, peekTasks_wf, waitAt_cells, retire_wf]

@[simp] theorem peekThread_cells (s : State) (t addr n : Nat) : (peekThread s t addr n).cells = s.cells :=
  rfl

theorem ReadsCanonical.andThen {α β : Type} {m : Checker α} {f : α → Checker β} (hm : ReadsCanonical m) (hf : ∀ v, ReadsCanonical (f v)) :
    ReadsCanonical (m.then f) :=
  ⟨fun s hs => by
  have hfv (v : α) := (hf v).keeps
  have hms := hm.keeps s hs
  unfold Checker.then
  grind⟩

theorem graphRead_wf (n : Nat) (l : Launch) (va len table idx : Nat) : ReadsCanonical (graphRead n l va len table idx) :=
  ⟨fun s hs => by
  unfold graphRead
  grind [readVia_wf, startFill_cells]⟩

theorem graphCheck_wf (cs : List (Nat × Bool)) (table idx addr : Nat) : ReadsCanonical (graphCheck cs table idx addr) :=
  ⟨fun _ hs => hs⟩

theorem readTable_wf {α : Type} (n : Nat) (l : Launch) (base size table : Nat) (check : Nat → List Byte → List (Nat × Bool))
    (get : List Byte → α) (i k : Nat) : ReadsCanonical (readTable n l base size table check get i k) := by
  induction k generalizing i with
  | zero => exact ⟨fun _ hs => hs⟩
  | succ k ih =>
    exact (graphRead_wf ..).andThen fun _ => (graphCheck_wf ..).andThen fun _ => (ih _).andThen fun _ => ⟨fun _ hs => hs⟩

theorem checkGraph_wf (n : Nat) (l : Launch) : ReadsCanonical (checkGraph n l) :=
  (graphCheck_wf ..).andThen fun _ => (graphRead_wf ..).andThen fun _ => (graphCheck_wf ..).andThen fun _ => (readTable_wf ..).andThen fun _ =>
    (readTable_wf ..).andThen fun _ => (readTable_wf ..).andThen fun _ => (readTable_wf ..).andThen fun _ => ⟨fun _ hs => hs⟩

theorem refuseLaunch_wf {s : State} (h : Canonical s) (n : Nat) (l : Launch) (r : Refused) : Canonical (refuseLaunch s n l r) := by
  unfold refuseLaunch
  grind [writeRecord_wf, endLaunch_wf]

/-! ### PoolSteps -/

theorem bindCluster_wf {s : State} (h : Canonical s) (c x : Nat) : Canonical (bindCluster s c x) := by
  unfold bindCluster
  grind [modCluster_cells, clearCluster_wf]

theorem dispatchThread_wf {s : State} (h : Canonical s) (n j : Nat) (l : Launch) (t : Task) (c : Nat) :
    Canonical (dispatchThread s n j l t c) := by
  unfold dispatchThread
  grind [joinSet_cells, setTask_cells, bindCluster_wf]

/-! ### Graph -/

theorem placerRead_wf {s : State} (h : Canonical s) (f : Nat) (fm : Form) (lost : Option (Nat × Nat)) (off n : Nat) :
    Canonical (placerRead s f fm lost off n).1 := by
  unfold placerRead
  grind [readImage_wf]

theorem thenImage_wf {s : State} {k : State → List Byte → State × Reading} (h : Canonical s) (hk : ∀ s bs,
    Canonical s → Canonical (k s bs).1) (f : Nat) (fm : Form) (lost : Option (Nat × Nat)) (off n :
      Nat) : Canonical (thenImage s f fm lost off n k).1 := by
  unfold thenImage
  grind [placerRead_wf]

theorem thenTable_wf {s : State} {k : State → List (List Byte) → State × Reading} (h : Canonical s) (hk : ∀ s bs,
    Canonical s → Canonical (k s bs).1) (f : Nat) (fm : Form) (lost : Option (Nat × Nat)) (off size n : Nat) (lower :
      List (List Byte) → Option Reject) : Canonical (thenTable s f fm lost off size n lower k).1 := by
  unfold thenTable
  grind [placerRead_wf, thenImage_wf]

theorem readGraph_wf {s : State} (h : Canonical s) (f : Nat) (fm : Form) (lost : Option (Nat × Nat)) (late : Late) :
    Canonical (readGraph s f fm lost late).1 := by
  unfold readGraph
  grind [thenImage_wf, thenTable_wf]

/-! ### Placer -/

@[simp] theorem alone_cells (s : State) (f : Nat) : (alone s f).cells = s.cells :=
  rfl

@[simp] theorem settlePlaced_cells (s : State) (f : Nat) (g : Graph) (ws : List Nat) (routes : List (List Nat)) (isles : List Nat) :
    (settlePlaced s f g ws routes isles).cells = s.cells := by
  unfold settlePlaced
  grind [setTask_cells, modForm_cells]

theorem rejectForm_wf {s : State} (h : Canonical s) (f : Nat) (fm : Form) (r : Reject) : Canonical (rejectForm s f fm r) := by
  unfold rejectForm
  grind [finishForm_wf, writeRecord_wf]

@[simp] theorem holdPorts_cells (s : State) (f : Nat) (fm : Form) (fuel : Nat) (l : List Node) :
    (holdPorts s f fm fuel l).cells = s.cells := by
  fun_induction holdPorts s f fm fuel l <;> grind [movePort_cells, easePort_cells, setPort_cells]

/-! ### Paging -/

theorem cmdFreezeRecord_wf {s : State} (h : Canonical s) (c : Cmd) (z : Freeze) (reason : Nat) :
    Canonical (cmdFreezeRecord s c z reason) := by
  unfold cmdFreezeRecord
  grind [writeRecord_wf]

@[simp] theorem portWoken_cells (s : State) (f n : Nat) : (portWoken s f n).cells = s.cells :=
  rfl

theorem thawAccess_wf {s : State} (h : Canonical s) (g : Freeze → Thaw) (f n seq : Nat) : Canonical (thawAccess g f n s seq) := by
  unfold thawAccess
  grind [nodeFault_wf, setStage_cells, countFrozen_cells, freezeRecord_wf, portWoken_cells]

theorem thawFetch_wf {s : State} (h : Canonical s) (g : Freeze → Thaw) (f n : Nat) : Canonical (thawFetch g f s n) := by
  unfold thawFetch
  grind [nodeFault_wf, countFrozen_cells, freezeRecord_wf, putNode_cells]

theorem thawNode_wf {s : State} (h : Canonical s) (g : Freeze → Thaw) (f n : Nat) : Canonical (thawNode g f s n) := by
  have haccs (l : List Nat) (s : State) (hs : Canonical s) : Canonical (l.foldl (thawAccess g f n) s) :=
    foldl_wf (fun _ _ hs => thawAccess_wf hs ..) l hs
  unfold thawNode
  grind [thawFetch_wf]

theorem thawParts_wf {s : State} (h : Canonical s) (g : Freeze → Thaw) (c : Cmd) (l : List Frost) : Canonical (thawParts g s c l).1 := by
  fun_induction thawParts g s c l <;> grind [countFrozen_cells, cmdFreezeRecord_wf, cmdFault_wf, countFrosts_cells]

@[simp] theorem enterParts_cells (s : State) (cl u : Nat) (c d : Cmd) : (enterParts s cl u c d).cells = s.cells := by
  unfold enterParts
  split <;> rfl

theorem thawUnit_wf {s : State} (h : Canonical s) (g : Freeze → Thaw) (cl u : Nat) : Canonical (thawUnit g s cl u) := by
  unfold thawUnit
  grind [thawParts_wf, enterParts_cells]

theorem thawForms_wf {s : State} (h : Canonical s) (g : Freeze → Thaw) (x : Nat) : Canonical (thawForms g s x) :=
  foldl_wf (fun _ _ hs => foldl_wf (fun _ _ hs => thawNode_wf hs ..) _ hs) _ h

theorem thawUnits_wf {s : State} (h : Canonical s) (g : Freeze → Thaw) (x : Nat) : Canonical (thawUnits g s x) := by
  refine foldl_wf (fun _ _ hs => foldl_wf (fun _ _ hs => ?_) _ hs) _ h
  split
  · exact thawUnit_wf hs ..
  · exact hs

theorem thawAll_wf {s : State} (h : Canonical s) (g : Freeze → Thaw) (x : Nat) : Canonical (thawAll g s x) := by
  unfold thawAll
  grind [thawForms_wf, thawUnits_wf]

theorem thawThread_wf {s : State} (h : Canonical s) (x p : Nat) (fail : Option Nat) (t : Nat) : Canonical (thawThread x p fail s t) := by
  unfold thawThread
  grind [addCounter_cells, raiseTrap_wf, waitAt_cells]

theorem failCheck_wf {s : State} (h : Canonical s) (x p n : Nat) : Canonical (failCheck x p s n) := by
  unfold failCheck
  grind [refuseLaunch_wf]

theorem failPlacing_wf {s : State} (h : Canonical s) (x p r f : Nat) : Canonical (failPlacing x p r s f) := by
  unfold failPlacing
  grind [readGraph_wf, rejectForm_wf]

theorem endFill_wf {s : State} (h : Canonical s) (x p : Nat) : Canonical (endFill s x p) :=
  foldl_wf (fun _ _ hs => thawThread_wf hs ..) _ (thawAll_wf (by exact h) ..)

theorem failFill_wf {s : State} (h : Canonical s) (x p reason frame : Nat) : Canonical (failFill s x p reason frame) := by
  refine foldl_wf (fun _ _ hs => thawThread_wf hs ..) _ ?_
  refine foldl_wf (fun _ _ hs => failPlacing_wf hs ..) _ ?_
  refine foldl_wf (fun _ _ hs => failCheck_wf hs ..) _ ?_
  exact thawAll_wf (by exact h) ..

theorem ringHead_wf {s : State} (h : Canonical s) (c : Ctx) : Canonical (ringHead s c).1 := by
  unfold ringHead
  grind [hbmRead_wf]

theorem frameless_wf {s : State} (h : Canonical s) (x p : Nat) : Canonical (frameless s x p) := by
  unfold frameless
  grind [setFill_cells, thawAll_wf]

theorem writeFilled_wf {s : State} (h : Canonical s) (x p : Nat) (c : Ctx) (fl : Fill) (frame : Nat) :
    Canonical (writeFilled s x p c fl frame) := by
  unfold writeFilled
  grind [memStore_wf, writeRecord_wf, walk_wf]

/-! ### Preempt -/

@[simp] theorem renameThreads_cells (s : State) (x : Nat) (l : List (Nat × Nat)) : (renameThreads s x l).cells = s.cells :=
  rfl

theorem saveRead_wf {s : State} (h : Canonical s) (c n : Nat) : Canonical (saveRead s c n).1 := by
  unfold saveRead
  grind [memRead_wf]

theorem readIslands_wf {s : State} (h : Canonical s) (l : List Nat) : Canonical (readIslands s l).1 := by
  fun_induction readIslands s l <;> grind [saveRead_wf]

theorem clusterImage_wf {s : State} (h : Canonical s) (cl : Nat) : Canonical (clusterImage s cl).1 := by
  unfold clusterImage
  grind [saveRead_wf, readIslands_wf]

theorem islesBytes_wf {s : State} (h : Canonical s) (l : List Nat) : Canonical (islesBytes s l).1 := by
  fun_induction islesBytes s l <;> grind [saveRead_wf]

theorem formRecord_wf {s : State} (h : Canonical s) (images : List Nat) (fm : Form) : Canonical (formRecord s images fm).1 :=
  islesBytes_wf h ..

theorem joinRecords_wf {s : State} {α : Type} {g : State → α → State × List Byte} (h : Canonical s) (hg : ∀ s x,
    Canonical s → Canonical (g s x).1) (l : List α) : Canonical (joinRecords s g l).1 := by
  fun_induction joinRecords s g l <;> grind

theorem saveArea_wf {s : State} (h : Canonical s) (x : Nat) (c : Ctx) (ts : Tbl Thread) (images : List Nat) (fs : List Form) :
    Canonical (saveArea s x c ts images fs).1 := by
  unfold saveArea
  grind [clusterImage_wf, formRecord_wf, joinRecords_wf]

theorem stopForSave_wf {s : State} (h : Canonical s) (t : Nat) : Canonical (stopForSave s t) := by
  have hput (l : List Posted) (s : State) (hs : Canonical s) : Canonical (l.foldl (fun s p => putBytes s p.cell p.bytes false) s) :=
    foldl_wf (fun _ _ hs => putBytes_wf hs ..) l hs
  unfold stopForSave
  grind [abandonWait_wf, modThread_cells]

@[simp] theorem releaseCluster_cells (x : Nat) (s : State) (c : Nat) : (releaseCluster x s c).cells = s.cells :=
  rfl

@[simp] theorem moveTasks_cells (s : State) (x : Nat) (a b : ItemState) : (moveTasks s x a b).cells = s.cells :=
  rfl

@[simp] theorem loseCluster_cells (s : State) (c : Nat) : (loseCluster s c).cells = s.cells := by
  unfold loseCluster
  split <;> simp

@[simp] theorem loseForm_cells (s : State) (f : Nat) : (loseForm s f).cells = s.cells := by
  unfold loseForm
  grind [tearDown_cells]

@[simp] theorem dropThreadWaits_cells (t : Nat) (s : State) : (dropThreadWaits t s).cells = s.cells :=
  rfl

theorem markLost_wf {s : State} (h : Canonical s) (x : Nat) : Canonical (markLost s x) := by
  have hstop (l : List Nat) (s : State) (hs : Canonical s) : Canonical (l.foldl (fun s t => dropThreadWaits t (stopForSave s t)) s) :=
    foldl_wf (fun _ _ hs => by simpa using stopForSave_wf hs _) l hs
  have hforms (l : List Nat) (s : State) : (l.foldl loseForm s).cells = s.cells := foldl_cells loseForm_cells l s
  have hclusters (l : List Nat) (s : State) : (l.foldl loseCluster s).cells = s.cells := foldl_cells loseCluster_cells l s
  unfold markLost
  grind [modCtx_cells, renameThreads_cells, loseLaunches_wf, offerPlaces_cells]

theorem hitContext_wf {s : State} (h : Canonical s) (x code : Nat) : Canonical (hitContext s x code) := by
  unfold hitContext
  grind [markLost_wf, writeRecord_wf]

theorem settleStruck_wf {s : State} (h : Canonical s) : Canonical (settleStruck s) := by
  refine foldl_wf (g := fun s x => if (ctxOf s x).any (fun c => decide (c.phase ≠ .lost)) then hitContext s x 5 else s) (fun s x hs => ?_) _ h
  split
  · exact hitContext_wf hs ..
  · exact hs

@[simp] theorem putMap_cells (c : Nat) (full : Bool) (s : State) (p : Nat × Byte) : (putMap c full s p).cells = s.cells :=
  foldl_cells (g := fun s k =>
    let b := p.2.toNat / 4 ^ k % 4
    let w := c + 16 * p.1 + 4 * k
    { s with full := if full then setPut (decide (b % 2 = 1)) w s.full else s.full, marks := setPut (decide (2 ≤ b)) w s.marks })
    (fun _ _ => rfl) ..

theorem putRange_wf {s : State} (h : Canonical s) (c : Nat) (full : Bool) (bs map : List Byte) : Canonical (putRange s c full bs map) :=
  Canonical.of_cells (s := { s with cells := cellsWrite s.cells c bs }) (cellsWrite_wf _ _ h) (foldl_cells (putMap_cells c full) ..)

theorem putIslands_wf {s : State} (h : Canonical s) (bs maps : List Byte) (fuel : Nat) (l : List Nat) :
    Canonical (putIslands s bs maps fuel l) := by
  fun_induction putIslands s bs maps fuel l <;> grind [putRange_wf]

theorem putImage_wf {s : State} (h : Canonical s) (x : Nat) (img : Cluster) (bs : List Byte) (c : Nat) :
    Canonical (putImage x s img bs c) := by
  unfold putImage
  grind [modCluster_cells, putIslands_wf, putRange_wf]

theorem putImages_wf {s : State} (h : Canonical s) (x : Nat) (bs : List Byte) (off : Nat) (l : List ((Nat × Cluster) × Nat)) :
    Canonical (putImages x s bs off l) := by
  fun_induction putImages x s bs off l <;> grind [putImage_wf]

theorem placeAll_cells {cl : Nat → Nat} {s s' : State} {l : List Rehome} (hs : placeAll cl s l = some s') : s'.cells = s.cells := by
  fun_induction placeAll cl s l <;> grind [modForm_cells]

theorem putIsles_wf {s : State} (h : Canonical s) (bs : List Byte) (off fuel : Nat) (l : List Nat) :
    Canonical (putIsles s bs off fuel l) := by
  fun_induction putIsles s bs off fuel l <;> grind [putRange_wf]

theorem putFormIsles_wf {s : State} (hs : Canonical s) (bs : List Byte) (h : Rehome) : Canonical (putFormIsles bs s h) := by
  unfold putFormIsles
  grind [putIsles_wf]

theorem checkSave_wf {s : State} (h : Canonical s) (x : Nat) (c : Ctx) : Canonical (checkSave s x c).1 := by
  unfold checkSave
  grind [hbmRead_wf]

@[simp] theorem restoreThread_cells (cl : Nat → Nat) (s : State) (t : Nat × Thread) : (restoreThread cl s t).cells = s.cells :=
  rfl

@[simp] theorem passSaved_cells (s : State) (x : Nat) : (passSaved s x).cells = s.cells :=
  rfl

/-! ### Objects -/

theorem withLines_wf {s : State} {f : State → State} (h : Canonical s) (hf : ∀ s, Canonical s → Canonical (f s)) (x : Nat) (inS : Bool)
    (c n : Nat) : Canonical (withLines s x inS c n f) := by
  unfold withLines
  split
  · exact hf s h
  · exact hitContext_wf h ..

theorem putObject_wf {s : State} (h : Canonical s) (x : Nat) (inS : Bool) (c : Nat) (bs : List Byte) (poison : Bool) :
    Canonical (putObject s x inS c bs poison) := by
  unfold putObject
  grind [putBytes_wf, noteLines_cells]

theorem syPlace_wf {s : State} (h : Canonical s) (t : Nat) (th : Thread) (inS : Bool) (x : Word) (n : Nat) (store : Bool) :
    Canonical (syPlace s t th inS x n store).1 := by
  unfold syPlace
  grind [sPlace_wf, place_wf]

theorem onObject_wf {s : State} {far : State → Nat → Nat → State} {f : State → Nat → Nat → Bool → State} (h : Canonical s) (hfar : ∀ s d p,
    Canonical s → Canonical (far s d p)) (hf : ∀ s c v b, Canonical s → Canonical (f s c v b)) (t : Nat) (th : Thread) (inS : Bool) (x :
      Word) (n k : Nat) (store : Bool) : Canonical (onObject s t th inS x n k store far f) := by
  unfold onObject
  grind [syPlace_wf, withLines_wf, memRead_wf, stopAt_wf]

theorem noPeer_wf {s : State} (h : Canonical s) (t : Nat) (x : Word) (fuel i : Nat) : Canonical (noPeer t x s fuel i) :=
  raiseTrap_wf h ..

theorem settleGap_wf {s : State} (h : Canonical s) (x c a next : Nat) : Canonical (settleGap s x c a next) := by
  unfold settleGap
  grind [writeRecord_wf]

theorem putSeqWords_wf {s : State} (h : Canonical s) (x c : Nat) (bs : List Byte) (poison : Bool) :
    Canonical (putSeqWords s x c bs poison) := by
  unfold putSeqWords
  grind [putObject_wf, noteLines_cells]

theorem sCellOf_wf {s : State} (h : Canonical s) (x a : Nat) : Canonical (sCellOf s x a).1 := by
  unfold sCellOf
  grind [sOffset_wf]

theorem laDrainTo_wf {s : State} (h : Canonical s) (t : Nat) (d : BitVec 5) (inS : Bool) (x : Word) (f : BitVec 4) (r : BitVec 2) (v : Nat)
    (bad : Bool) : Canonical (laDrainTo s t d inS x f r v bad) := by
  unfold laDrainTo
  grind [raiseTrap_wf, retireWith_wf]

@[simp] theorem farRead_cells (t : Nat) (th : Thread) (d : BitVec 5) (x : Word) (s : State) (dev pa : Nat) :
    (farRead t th d x s dev pa).cells = s.cells :=
  rfl

@[simp] theorem farWrite_cells (t : Nat) (th : Thread) (x : Word) (acc : La) (poison : Bool) (s : State) (dev pa : Nat) :
    (farWrite t th x acc poison s dev pa).cells = s.cells :=
  rfl

/-! ### LockOps -/

theorem withItems_wf {s : State} {f : State → State} (h : Canonical s) (hf : ∀ s, Canonical s → Canonical (f s)) (x : Nat) (ws : List Nat) :
    Canonical (withItems s x ws f) := by
  unfold withItems
  split
  · exact hf s h
  · exact hitContext_wf h ..

theorem registerTensor_wf {s : State} (h : Canonical s) (t x : Nat) (d : BitVec 5) (bs : List Byte) :
    Canonical (registerTensor s t x d bs) := by
  unfold registerTensor
  grind [retireWith_wf]

/-! ### Issue -/

@[simp] theorem passTime_cells (s : State) (elapsed : Nat) : (passTime s elapsed).cells = s.cells := by
  unfold passTime
  grind

theorem issuePrep_wf {s : State} (h : Canonical s) (t : Nat) : Canonical (issuePrep s t).1 := by
  unfold issuePrep
  grind [modThread_cells, raiseTrapWord_wf, modCluster_cells, enterAsync_wf, fetchWord_wf, waitAt_cells, sendRequest_cells]

theorem retryPrep_wf {s : State} (h : Canonical s) (t : Nat) : Canonical (retryPrep s t).1 := by
  unfold retryPrep
  grind [enterAsync_wf]

theorem notInstr_wf {s : State} (h : Canonical s) (t reason : Nat) : Canonical (notInstr s t reason) :=
  raiseTrap_wf h ..

/-! ### Watch -/

theorem sweepForm_wf {s : State} (h : Canonical s) (f : Nat) : Canonical (sweepForm s f) := by
  unfold sweepForm
  grind [writeRecord_wf, modForm_cells]

theorem sweepCtx_wf {s : State} (h : Canonical s) (x : Nat) : Canonical (sweepCtx s x) := by
  unfold sweepCtx
  grind [modCtx_cells, writeRecord_wf]

theorem settleHalt_wf {s : State} (h : Canonical s) (p : Nat × Halt) : Canonical (settleHalt s p) := by
  unfold settleHalt
  grind [writeTrace_wf]

theorem settleBreak_wf {s : State} (h : Canonical s) (p : Nat × Breakpoint) : Canonical (settleBreak s p) := by
  unfold settleBreak
  grind [writeTrace_wf]

theorem settleHalts_wf {s : State} (h : Canonical s) (x : Nat) : Canonical (settleHalts s x) :=
  foldl_wf (fun _ _ hs => settleBreak_wf hs ..) _ (foldl_wf (fun _ _ hs => settleHalt_wf hs ..) _ h)

theorem sampleNode_wf {s : State} (h : Canonical s) (f : Nat) : Canonical (sampleNode f s) := by
  unfold sampleNode
  grind [writeTrace_wf, modForm_cells]

theorem sampleThread_wf {s : State} (h : Canonical s) (t : Nat) : Canonical (sampleThread s t) := by
  unfold sampleThread
  grind [writeTrace_wf]

/-! ### PowerSteps -/

theorem noticeAll_wf {s : State} (h : Canonical s) : Canonical (noticeAll s) :=
  foldl_wf (fun _ _ hs => signalNotice_wf hs ..) _ h

@[simp] theorem floodReel_cells (s : State) (data : List Byte) : (floodReel s data).cells = s.cells :=
  foldl_cells (fun s d => by simp) ..

theorem stopPackage.writeStop_wf {detail : State → State × Nat} {s : State} (h : Canonical s) (hd : ∀ s,
    Canonical s → Canonical (detail s).1) (x : Nat) : Canonical (stopPackage.writeStop detail s x) :=
  writeRecord_wf (hd s h) ..

theorem stopPackage_wf {detail : State → State × Nat} {s : State} (h : Canonical s) (hd : ∀ s, Canonical s → Canonical (detail s).1) :
    Canonical (stopPackage s detail) := by
  refine foldl_wf (fun s x hs => ?_) _ h
  split
  · exact stopPackage.writeStop_wf hs hd _
  · exact markLost_wf (stopPackage.writeStop_wf hs hd _) _

/-! ### Peers -/

@[simp] theorem deliverMsg_cells (s : State) (m : PeerMsg) : (deliverMsg s m).cells = s.cells := by
  unfold deliverMsg
  grind [sendMsg_cells]

theorem prReadLoop_wf {s : State} (h : Canonical s) (k : Masks) (pa fuel i : Nat) : Canonical (prReadLoop s k pa fuel i).1 := by
  fun_induction prReadLoop s k pa fuel i <;> grind [memReadMap_wf]

theorem prRead_wf {s : State} (h : Canonical s) (k : Masks) (pa n : Nat) : Canonical (prRead s k pa n).1 :=
  prReadLoop_wf h ..

theorem prWriteLoop_wf {s : State} (h : Canonical s) (k : Masks) (pa fuel : Nat) (l : List Byte) (l1 : List Bool) :
    Canonical (prWriteLoop s k pa fuel l l1) := by
  fun_induction prWriteLoop s k pa fuel l l1 <;> grind [putBytesMap_wf]

theorem prWrite_wf {s : State} (h : Canonical s) (k : Masks) (pa : Nat) (bs : List Byte) (pm : List Bool) :
    Canonical (prWrite s k pa bs pm) :=
  prWriteLoop_wf h ..

@[simp] theorem answer_cells (s : State) (m : PeerMsg) (type : Nat) (data : List Byte) (pm : List Bool) :
    (answer s m type data pm).cells = s.cells :=
  rfl

theorem serveRequest_wf {s : State} {g : State → PeerMsg → Masks → State} (h : Canonical s) (hg : ∀ s m mk,
    Canonical s → Canonical (g s m mk)) (k type n bit : Nat) : EndsCanonical (serveRequest s k type n bit g) := by
  unfold serveRequest
  grind [answer_cells, endsCanonical_next]

theorem threadData_wf {s : State} (h : Canonical s) (t : Nat) (th : Thread) (r : PeerReq) (gd : Nat) (bs : List Byte) (bad : Bool) :
    Canonical (threadData s t th r gd bs bad) := by
  unfold threadData
  grind [submitThread_wf, farRead_cells, laDrainTo_wf, raiseTrap_wf, registerTensor_wf, retireWith_wf, farWrite_cells, retire_wf, peekThread_cells]

theorem threadReply_wf {s : State} (h : Canonical s) (k t gd : Nat) (r : PeerReq) (y : Reply) : Canonical (threadReply s k t gd r y) := by
  unfold threadReply
  grind [threadData_wf, raiseTrap_wf, waitAt_cells, peekThread_cells]

theorem fetchReply_wf {s : State} (h : Canonical s) (k t : Nat) (r : PeerReq) (y : Reply) : Canonical (fetchReply s k t r y) := by
  unfold fetchReply
  grind [modThread_cells, raiseTrapWord_wf, waitAt_cells]

@[simp] theorem codeReply_cells (s : State) (f n : Nat) (a : Access) (poison : Bool) (r : PeerReq) (bs : List Byte) (bad : Bool) :
    (codeReply s f n a poison r bs bad).cells = s.cells := by
  unfold codeReply
  grind [answerAccess_cells, modAccess_cells, sendRequest_cells]

theorem nodeReply_wf {s : State} (h : Canonical s) (f n seq : Nat) (r : PeerReq) (y : Reply) : Canonical (nodeReply s f n seq r y) := by
  unfold nodeReply
  grind [checkResidue_wf, answerAccess_cells, nodeFault_wf, modAccess_cells, codeReply_cells, freezeAccess_wf]

theorem unitReply_wf {s : State} (h : Canonical s) (cl u item : Nat) (r : PeerReq) (y : Reply) : Canonical (unitReply s cl u item r y) := by
  unfold unitReply
  grind [modRunning_cells, enterParts_cells, notePart_wf]

@[simp] theorem queueReply_cells (s : State) (q : Nat) (r : PeerReq) (y : Reply) : (queueReply s q r y).cells = s.cells :=
  rfl

theorem settleRequest_wf {s : State} (h : Canonical s) (k : Nat) (r : PeerReq) (y : Reply) : Canonical (settleRequest s k r y) := by
  unfold settleRequest
  grind [modLaunch_cells, nodeReply_wf, queueReply_cells, unitReply_wf, threadReply_wf, easeLanding_cells, modForm_cells, fetchReply_wf]

/-! ### Host -/

@[simp] theorem sendResp_cells (s : State) (q : Nat) (r : Resp) : (sendResp s q r).cells = s.cells :=
  rfl

@[simp] theorem respond_cells (s : State) (q : Nat) (r : Resp) : (respond s q r).cells = s.cells :=
  rfl

@[simp] theorem popCmd_cells (s : State) (q : Nat) (c : HostCmd) (status x : Nat) (body : List Byte) :
    (popCmd s q c status x body).cells = s.cells :=
  rfl

@[simp] theorem dropBad_cells (s : State) (q fuel : Nat) : (dropBad s q fuel).cells = s.cells := by
  fun_induction dropBad s q fuel <;> simp_all

@[simp] theorem finishCmd_cells (s : State) (q : Nat) (c : HostCmd) (status x : Nat) (body : List Byte) :
    (finishCmd s q c status x body).cells = s.cells := by
  simp [finishCmd]

@[simp] theorem enqueueCmd_cells (s : State) (q : Nat) (c : HostCmd) : (enqueueCmd s q c).cells = s.cells := by
  simp [enqueueCmd]

@[simp] theorem takeFrag_cells (s : State) (q : Nat) (h : HostQ) (b : List Byte) : (takeFrag s q h b).cells = s.cells := by
  unfold takeFrag
  grind [putQueue_cells, enqueueCmd_cells]

@[simp] theorem takeCommand_cells (s : State) (b : List Byte) : (takeCommand s b).cells = s.cells := by
  unfold takeCommand
  dsimp only
  repeat' split
  all_goals simp

theorem onHost_wf {s : State} {g : State → HostCmd → State × HostEnd} (h : Canonical s) (hg : ∀ s c, Canonical s → Canonical (g s c).1)
    (q op : Nat) (k : CmdKind) : EndsCanonical (onHost q op k s g) := by
  unfold onHost
  grind [finishCmd_cells, putQueue_cells, endsCanonical_next]

@[simp] theorem refuse_cells (s : State) (c : HostCmd) (status : Nat) : (refuse s c status).1.cells = s.cells :=
  rfl

@[simp] theorem done_cells (s : State) (c : HostCmd) (body : List Byte) : (done s c body).1.cells = s.cells :=
  rfl

theorem withChecks_wf {s : State} {g : State × HostEnd} (h : Canonical s) (hg : Canonical g.1) (c : HostCmd) (l : List (Nat × Bool)) :
    Canonical (withChecks s c l g).1 := by
  unfold withChecks
  grind [refuse_cells]

/-! ### HostCtx -/

@[simp] theorem drawKey_cells (s : State) : (drawKey s).1.cells = s.cells :=
  rfl

theorem dropCtx_wf {s : State} (h : Canonical s) (x : Nat) : Canonical (dropCtx s x) :=
  Canonical.of_cells (memClear_wf (sCell x 0 0) (sCell (x + 1) 0 0) h) (foldl_cells (fun s n => refreshLaunch_cells s n) ..)

@[simp] theorem releaseHold_cells (s : State) (x k : Nat) : (releaseHold s x k).cells = s.cells :=
  foldl_cells (fun s t => by simp) ..

@[simp] theorem releaseHolds_cells (s : State) (x : Nat) (ks : List Nat) : (releaseHolds s x ks).cells = s.cells := by
  have hks (l : List Nat) (s : State) : (l.foldl (fun s k => releaseHold s x k) s).cells = s.cells := foldl_cells (fun s k => by simp) l s
  unfold releaseHolds
  grind [beginPreempt_cells]

/-! ### HostDebug -/

theorem haltThread_wf {s : State} (h : Canonical s) (k t : Nat) : Canonical (haltThread k s t) := by
  unfold haltThread
  grind [modThread_cells, abandonWait_wf]

theorem placeHalt_wf {s : State} (hs : Canonical s) (x k : Nat) (h : Halt) : Canonical (placeHalt s x k h) := by
  have hts (l : List Nat) (s : State) (hs : Canonical s) : Canonical (l.foldl (haltThread k) s) :=
    foldl_wf (fun _ _ hs => haltThread_wf hs ..) l hs
  unfold placeHalt
  grind [modForm_cells, haltThread_wf]

/-! ### HostMgmt -/

theorem clearAssigned_wf {s : State} (h : Canonical s) (cl : Nat) : Canonical (clearAssigned s cl) :=
  clearCluster_wf (foldl_wf (fun _ _ hs => memClear_wf _ _ hs) _ h) _

theorem bringUp_wf {s : State} (h : Canonical s) (hbm : List (Nat × BitVec 8)) : Canonical (bringUp s hbm) := by
  have hbelow : cellsBelow flashBase (hbmCells hbm) = hbmCells hbm :=
    List.takeWhile_eq_self_iff.2 fun p hp => decide_eq_true (hbmCells_below hbm p hp)
  have hflash := cellsBelow_append_wf flashBase (Nat.zero_le _) (hbmCells_wf hbm) (cellsFrom_wf flashBase h)
  rwa [hbelow] at hflash

/-! ### Ptp -/

@[simp] theorem correct_cells (s : State) (d : ℤ) : (correct s d).cells = s.cells := by
  unfold correct
  split <;> rfl

@[simp] theorem setPtp_cells (s : State) (p : Nat) (q : PtpPort) : (setPtp s p q).cells = s.cells :=
  rfl

@[simp] theorem sendPtp_cells (s : State) (p : Nat) (ms : List PtpMsg) : (sendPtp s p ms).cells = s.cells :=
  rfl

@[simp] theorem lead_cells (s : State) : (lead s).cells = s.cells :=
  rfl

@[simp] theorem chooseParent_cells (s : State) : (chooseParent s).cells = s.cells := by
  unfold chooseParent
  grind [lead_cells]

@[simp] theorem measured_cells (s : State) (p : Nat) (offs : ℤ) : (measured s p offs).cells = s.cells := by
  unfold measured
  split <;> simp

@[simp] theorem ptpTake_cells (s : State) (p : Nat) (m : PtpMsg) : (ptpTake s p m).cells = s.cells := by
  unfold ptpTake
  grind [measured_cells, setPtp_cells, sendPtp_cells, chooseParent_cells]

@[simp] theorem ptpSend_cells (s : State) (p : Nat) (peerDelay : Bool) : (ptpSend s p peerDelay).cells = s.cells := by
  unfold ptpSend
  grind [setPtp_cells, sendPtp_cells]

/-! ### Routers -/

theorem fireOp_wf {s : State} (h : Canonical s) (f n : Nat) (takes : List (Nat × Flit)) (emits : List (Nat × Tok)) (pass : Option Tok)
    (upd : Node → Node) : Canonical (fireOp s f n takes emits pass upd) := by
  unfold fireOp
  grind [settleDrain_wf, noteFiring_wf, modForm_cells]

theorem onOperator_wf {s : State} {g : Nat → Nat → Form → Node → (Nat → Option Flit) → State} (h : Canonical s) (hg : ∀ f n fm nd tok,
    Canonical (g f n fm nd tok)) : EndsCanonical (onOperator s g) := by
  refine onNode_wf fun f fm n nd => ?_
  grind [badToken_wf]

/-! ### Selection -/

theorem topkEntryOf_wf {s : State} (h : Canonical s) (c : Cmd) (who : PeerWho) (i : Nat) : Canonical (topkEntryOf s c who i).1 := by
  unfold topkEntryOf
  grind [vGet_wf]

theorem topkRead_wf {s : State} (h : Canonical s) (cl : Nat) (c : Cmd) (i : Nat) : Canonical (topkRead cl s c i).1 := by
  unfold topkRead
  grind [topkEntryOf_wf, startFill_cells, cmdXlat_wf, vGet_wf]

theorem topkWrite_wf {s : State} (h : Canonical s) (cl : Nat) (c : Cmd) (i : Nat) : Canonical (topkWrite cl s c i).1 := by
  unfold topkWrite
  grind [memReadMap_wf, writeOut_wf]

theorem selectionEnd_wf {s : State} (h : Canonical s) (cl : Nat) (c : Cmd) : Canonical (selectionEnd s cl c) := by
  unfold selectionEnd
  grind [modRunning_cells, completeCmd_wf]

theorem rowBound_wf {s : State} (h : Canonical s) (cl : Nat) (c : Cmd) (xs : List Elem) (j : Nat) : Canonical (rowBound s cl c xs j).1 := by
  unfold rowBound
  grind [memReadMap_wf]

theorem rowBounds_wf {s : State} (h : Canonical s) (cl : Nat) (c : Cmd) (xs : List Elem) (l : List Nat) :
    Canonical (rowBounds s cl c xs l).1 := by
  fun_induction rowBounds s cl c xs l <;> grind [rowBound_wf]

theorem allBounds_wf {s : State} (h : Canonical s) (cl : Nat) (c : Cmd) : Canonical (allBounds s cl c).1 := by
  unfold allBounds
  grind [memReadMap_wf, rowBounds_wf]

theorem gatherRow_wf {s : State} (h : Canonical s) (cl : Nat) (c : Cmd) (part e : Nat) : Canonical (gatherRow cl s c part e).1 := by
  unfold gatherRow
  grind [vGet_wf, putBytesMap_wf]

theorem predPart_wf {s : State} (h : Canonical s) (cl : Nat) (c : Cmd) (i : Nat) : Canonical (predPart cl s c i).1 := by
  unfold predPart
  grind [writeOut_wf, gatherRow_wf]

theorem recordRead_wf {s : State} (h : Canonical s) (cl : Nat) (c : Cmd) : Canonical (recordRead cl s c).1 := by
  unfold recordRead
  grind [vGet_wf]

theorem checkRows_wf {s : State} (h : Canonical s) (cl : Nat) (c : Cmd) : Canonical (checkRows cl s c).1 := by
  unfold checkRows
  grind [recordRead_wf, allBounds_wf]

theorem headOut_wf {s : State} (h : Canonical s) (cl : Nat) (c : Cmd) (i : Nat) : Canonical (headOut cl s c i).1 :=
  writeOut_wf h ..

theorem checkRecord_wf {s : State} (h : Canonical s) (cl : Nat) (c : Cmd) : Canonical (checkRecord cl s c).1 := by
  unfold checkRecord
  grind [checkRows_wf, headOut_wf, debit_wf]

theorem checkPart_wf {s : State} (h : Canonical s) (cl : Nat) (c : Cmd) (i : Nat) : Canonical (checkPart cl s c i).1 := by
  unfold checkPart
  grind [gatherRow_wf, headOut_wf]

/-! ### Turn -/

theorem envStep_wf {s : State} (h : Canonical s) (e : Env) : Canonical (envStep s e) := by
  unfold envStep
  grind [ptpSend_cells, modCluster_cells, modPower_cells, hitContext_wf, modForm_cells, chooseParent_cells]

end Sys2Proof.Machine

/-! PROOFS. The instructions and events keep the canonical form of the memory (O56). -/

namespace Sys2Proof.Machine

/-! ### ScalarFloat -/

theorem execCvt_wf {s : State} (h : Canonical s) (d a : BitVec 5) (x y : BitVec 4) (r : BitVec 2) (st : BitVec 1) :
    EndsCanonical (execCvt d a x y r st s) :=
  checked_wf h (fun _ _ => by grind [raiseTrap_wf, retireWith_wf])

theorem scalarFloat_wf {s : State} (h : Canonical s) (d a b : BitVec 5) (f : BitVec 4) (r : BitVec 2) (g : Rnd → XVal → XVal → XVal) :
    EndsCanonical (scalarFloat s d a b f r g) :=
  checked_wf h (fun _ _ => by grind [retireWith_wf])

theorem execFmac_wf {s : State} (h : Canonical s) (d a b : BitVec 5) (f : BitVec 4) (r : BitVec 2) : EndsCanonical (execFmac d a b f r s) :=
  checked_wf h (fun _ _ => by grind [retireWith_wf])

theorem execFsqrt_wf {s : State} (h : Canonical s) (d a : BitVec 5) (f : BitVec 4) (r : BitVec 2) : EndsCanonical (execFsqrt d a f r s) :=
  checked_wf h (fun _ _ => by grind [retireWith_wf])

theorem execFmin_wf {s : State} (h : Canonical s) (d a b : BitVec 5) (f : BitVec 4) : EndsCanonical (execFmin d a b f s) :=
  checked_wf h (fun _ _ => by grind [retireWith_wf])

theorem execFmax_wf {s : State} (h : Canonical s) (d a b : BitVec 5) (f : BitVec 4) : EndsCanonical (execFmax d a b f s) :=
  checked_wf h (fun _ _ => by grind [retireWith_wf])

theorem execFabs_wf {s : State} (h : Canonical s) (d a : BitVec 5) (f : BitVec 4) : EndsCanonical (execFabs d a f s) :=
  checked_wf h (fun _ _ => by grind [retireWith_wf])

theorem execFneg_wf {s : State} (h : Canonical s) (d a : BitVec 5) (f : BitVec 4) : EndsCanonical (execFneg d a f s) :=
  checked_wf h (fun _ _ => by grind [retireWith_wf])

theorem execFeq_wf {s : State} (h : Canonical s) (d a b : BitVec 5) (f : BitVec 4) : EndsCanonical (execFeq d a b f s) :=
  checked_wf h (fun _ _ => by grind [retireWith_wf])

theorem execFlt_wf {s : State} (h : Canonical s) (d a b : BitVec 5) (f : BitVec 4) : EndsCanonical (execFlt d a b f s) :=
  checked_wf h (fun _ _ => by grind [retireWith_wf])

theorem execFle_wf {s : State} (h : Canonical s) (d a b : BitVec 5) (f : BitVec 4) : EndsCanonical (execFle d a b f s) :=
  checked_wf h (fun _ _ => by grind [retireWith_wf])

/-! ### LoadStore -/

theorem loadInstr_wf {s : State} (h : Canonical s) (p : Space) (d a b : BitVec 5) (z : BitVec 2) (x : BitVec 1) (o : BitVec 8) :
    EndsCanonical (loadInstr s p d a b z x o) :=
  checked_wf h (fun _ _ => by grind [loadFrom_wf])

theorem storeInstr_wf {s : State} (h : Canonical s) (p : Space) (d a b : BitVec 5) (z : BitVec 2) (o : BitVec 8) :
    EndsCanonical (storeInstr s p d a b z o) :=
  onThread_wf fun _ _ => storeTo_wf h ..

theorem execSpld_wf {s : State} (h : Canonical s) (d : BitVec 5) (sp : BitVec 17) : EndsCanonical (execSpld d sp s) :=
  onThread_wf fun _ _ => by grind [raiseTrap_wf, loadFrom_wf]

theorem execSpst_wf {s : State} (h : Canonical s) (d : BitVec 5) (sp : BitVec 17) : EndsCanonical (execSpst d sp s) :=
  onThread_wf fun _ _ => by grind [storeTo_wf, raiseTrap_wf]

theorem execCtLoadReply_wf {s : State} (h : Canonical s) (t : Nat) : EndsCanonical (execCtLoadReply t s) :=
  (endsCanonical_next _).2 (by grind [raiseTrap_wf, retireWith_wf, waitAt_cells, memRead_wf])

theorem execStorePerform_wf {s : State} (h : Canonical s) (t k : Nat) : EndsCanonical (execStorePerform t k s) :=
  (endsCanonical_next _).2 (by grind [modThread_cells, putBytes_wf, finishThread_wf])

/-! ### System -/

theorem csrUpdate_wf {s : State} (h : Canonical s) (c : BitVec 10) (a : BitVec 5) (f : Word → Word → Word) :
    EndsCanonical (csrUpdate s c a f) :=
  onThread_wf fun _ _ => by grind [modThread_cells, raiseTrap_wf, retire_wf]

theorem execCrd_wf {s : State} (h : Canonical s) (c : BitVec 10) (a : BitVec 5) : EndsCanonical (execCrd c a s) :=
  onThread_wf fun _ _ => by grind [raiseTrap_wf, retireWith_wf]

theorem execSleep_wf {s : State} (h : Canonical s) (a : BitVec 5) : EndsCanonical (execSleep a s) :=
  onThread_wf fun _ _ => by grind [waitAt_cells, retire_wf]

theorem execSleepWake_wf {s : State} (h : Canonical s) (t : Nat) : EndsCanonical (execSleepWake t s) :=
  (endsCanonical_next _).2 (by grind [retire_wf])

theorem execYield_wf {s : State} (h : Canonical s) : EndsCanonical (execYield s) :=
  onThread_wf fun _ _ => retire_wf h ..

theorem execExit_wf {s : State} (h : Canonical s) : EndsCanonical (execExit s) :=
  onThread_wf fun _ _ => by grind [stopThread_wf, retire_wf]

theorem execTret_wf {s : State} (h : Canonical s) : EndsCanonical (execTret s) :=
  onThread_wf fun _ _ => by grind [returnTrap_wf, raiseTrap_wf]

theorem execXinv_wf {s : State} (h : Canonical s) (a : BitVec 5) : EndsCanonical (execXinv a s) :=
  onThread_wf fun _ _ => by grind [beginInval_cells, raiseTrap_wf, waitAt_cells]

theorem execBrk_wf {s : State} (h : Canonical s) (n : BitVec 10) : EndsCanonical (execBrk n s) :=
  onThread_wf fun _ _ => by grind [modThread_cells, retire_wf, raiseBreak_wf]

theorem execAsyncTrapEntry_wf {s : State} (h : Canonical s) (t : Nat) : EndsCanonical (execAsyncTrapEntry t s) :=
  (endsCanonical_next _).2 (by grind [enterAsync_wf])

/-! ### Sync -/

theorem execLdwFt_wf {s : State} (h : Canonical s) (d a : BitVec 5) (sp : BitVec 2) (o : BitVec 5) : EndsCanonical (execLdwFt d a sp o s) :=
  onWord_wf h (fun _ _ _ _ _ _ _ _ => by grind [readWord_wf, setEmpty_cells, settleTags_wf, retireWith_wf, waitAt_cells, settleWord_wf]) ..

theorem execStwEt_wf {s : State} (h : Canonical s) (d a b : BitVec 5) (sp : BitVec 2) (o : BitVec 5) :
    EndsCanonical (execStwEt d a b sp o s) :=
  onWord_wf h (fun _ _ _ _ _ _ _ _ => by grind [memStore_wf, setFull_cells, settleTags_wf, retireWith_wf, settleWord_wf]) ..

theorem execLdwQ_wf {s : State} (h : Canonical s) (d a : BitVec 5) (sp : BitVec 2) (o : BitVec 5) : EndsCanonical (execLdwQ d a sp o s) :=
  onWord_wf h (fun _ _ _ _ _ _ _ _ => by grind [readWord_wf, retireWith_wf]) ..

theorem execFclr_wf {s : State} (h : Canonical s) (a : BitVec 5) (sp : BitVec 2) (o : BitVec 5) : EndsCanonical (execFclr a sp o s) :=
  onWord_wf h (fun _ _ _ _ _ _ _ _ => by grind [setEmpty_cells, settleTags_wf, waitAt_cells, settleWord_wf, retire_wf]) ..

/-! ### Barrier -/

theorem execSjoin_wf {s : State} (h : Canonical s) (d a : BitVec 5) : EndsCanonical (execSjoin d a s) :=
  onSet_wf h (fun _ _ _ => by grind [joinSet_cells, retireWith_wf])

theorem execSleave_wf {s : State} (h : Canonical s) (d a : BitVec 5) : EndsCanonical (execSleave d a s) :=
  onSet_wf h (fun _ _ _ => by grind [quitSet_wf, retireWith_wf, waitAt_cells])

theorem execBarw_wf {s : State} (h : Canonical s) (d a : BitVec 5) : EndsCanonical (execBarw d a s) :=
  onPhase_wf h (fun _ _ _ => by grind [arrive_wf, retireWith_wf, waitAt_cells])

theorem execBara_wf {s : State} (h : Canonical s) (d a : BitVec 5) : EndsCanonical (execBara d a s) :=
  onPhase_wf h (fun _ _ _ => by grind [arrive_wf, retireWith_wf])

theorem execBarwp_wf {s : State} (h : Canonical s) (d a b : BitVec 5) : EndsCanonical (execBarwp d a b s) := by
  refine onPhase_wf h (fun t th key => ?_) ..
  cases setAt s key with
  | none => exact retireWith_wf h ..
  | some o =>
    by_cases ho : phaseOver o.phase ((regGet th b).toNat % 2 ^ 32) = true
    · simp only [ho, if_true]; exact retireWith_wf h ..
    · simp only [ho]; exact h.of_cells (waitAt_cells ..)

theorem execBinit_wf {s : State} (h : Canonical s) (d a : BitVec 5) : EndsCanonical (execBinit d a s) :=
  onSet_wf h (fun _ _ _ => by grind [revokePhase_wf, retireWith_wf])

theorem execSstat_wf {s : State} (h : Canonical s) (d a : BitVec 5) : EndsCanonical (execSstat d a s) :=
  onSet_wf h (fun _ _ _ => by grind [retireWith_wf])

/-! ### Branch -/

theorem branch_wf {s : State} (h : Canonical s) (a b : BitVec 5) (o : BitVec 16) (taken : Word → Word → Bool) :
    EndsCanonical (branch s a b o taken) :=
  onThread_wf fun _ _ => retireAt_wf h ..

theorem execJmp_wf {s : State} (h : Canonical s) (o : BitVec 26) : EndsCanonical (execJmp o s) :=
  onThread_wf fun _ _ => retireAt_wf h ..

theorem execCall_wf {s : State} (h : Canonical s) (o : BitVec 26) : EndsCanonical (execCall o s) :=
  onThread_wf fun _ _ => by grind [modThread_cells, retireAt_wf]

theorem jumpReg_wf {s : State} (h : Canonical s) (a : BitVec 5) (link : Option (BitVec 5)) : EndsCanonical (jumpReg s a link) :=
  onThread_wf fun _ _ => by grind [modThread_cells, retireAt_wf, raiseTrap_wf]

/-! ### Cmds -/

theorem execReservationRequest_wf {s : State} (h : Canonical s) (c u : Nat) : EndsCanonical (execReservationRequest c u s) :=
  (endsCanonical_next _).2 (by grind [setUnit_cells])

/-! ### Stream -/

theorem execSbind_wf {s : State} (h : Canonical s) (t : BitVec 6) (a b : BitVec 5) (k : BitVec 1) (sp : BitVec 3) (f : BitVec 4) :
    EndsCanonical (execSbind t a b k sp f s) :=
  checked_wf h (fun _ _ => by grind [readDesc_wf, raiseTrap_wf, waitAt_cells, retire_wf, setPort_cells])

theorem execSwait_wf {s : State} (h : Canonical s) (t : BitVec 6) (k : BitVec 1) : EndsCanonical (execSwait t k s) :=
  checked_wf h (fun _ _ => by grind [waitAt_cells, retire_wf])

theorem execSclear_wf {s : State} (h : Canonical s) (t : BitVec 6) (k : BitVec 1) : EndsCanonical (execSclear t k s) :=
  checked_wf h (fun _ _ => by grind [dropBindings_cells, retire_wf])

/-! ### Copy -/

theorem issueCopy_wf {s : State} (hs : Canonical s) (ok : Bool) (h : BitVec 6) (a b : BitVec 5) (minor : Nat) :
    EndsCanonical (issueCopy s ok h a b minor) :=
  checked_wf hs (fun _ _ => by grind [issueCmd_wf, setHandle_cells])

theorem execCopyAccept_wf {s : State} (h : Canonical s) (c u : Nat) : EndsCanonical (execCopyAccept c u s) :=
  (endsCanonical_next _).2 (by grind [setUnit_cells, setHandle_cells])

theorem execCopyLand_wf {s : State} (h : Canonical s) (c u : Nat) : EndsCanonical (execCopyLand c u s) :=
  (endsCanonical_next _).2 (by grind [modRunning_cells, runParts_wf, copyPart_wf, landCopy_wf])

theorem execCopyPromiseExpire_wf {s : State} (hs : Canonical s) (c h : Nat) : EndsCanonical (execCopyPromiseExpire c h s) :=
  (endsCanonical_next _).2 (by grind [checkPromise_cells])

theorem execHwait_wf {s : State} (hs : Canonical s) (h : BitVec 6) : EndsCanonical (execHwait h s) :=
  onThread_wf fun _ _ => by grind [waitAt_cells, retire_wf]

theorem execHrel_wf {s : State} (hs : Canonical s) (h : BitVec 6) : EndsCanonical (execHrel h s) :=
  onThread_wf fun _ _ => by grind [raiseTrap_wf, retire_wf, setHandle_cells]

theorem execHstat_wf {s : State} (hs : Canonical s) (h : BitVec 6) (a b : BitVec 5) : EndsCanonical (execHstat h a b s) :=
  checked_wf hs (fun _ _ => by grind [modThread_cells, retire_wf])

/-! ### Matrix -/

theorem issueMatrix_wf {s : State} (h : Canonical s) (ok : Bool) (t : BitVec 6) (a b : BitVec 5) (minor : Nat) (reason : Cmd → Nat) :
    EndsCanonical (issueMatrix s ok t a b minor reason) :=
  checked_wf h (fun _ _ => by grind [issueCmd_wf])

theorem execKStep_wf {s : State} (h : Canonical s) (c u : Nat) : EndsCanonical (execKStep c u s) :=
  (endsCanonical_next _).2 (by grind [stepBoundary_wf, modRunning_cells, kStep_wf, woundAtStep_cells, completeCmd_wf, writeTile_wf])

theorem execMdrainExecute_wf {s : State} (h : Canonical s) (c u : Nat) : EndsCanonical (execMdrainExecute c u s) :=
  (endsCanonical_next _).2 (by grind [completeCmd_wf, putBytesMap_wf, readTile_wf])

theorem execMsatr_wf {s : State} (h : Canonical s) (t : BitVec 6) (a : BitVec 5) : EndsCanonical (execMsatr t a s) :=
  checked_wf h (fun _ _ => by grind [satSet_cells, retireWith_wf, streamPlace_wf])

theorem execMwait_wf {s : State} (h : Canonical s) (t : BitVec 6) : EndsCanonical (execMwait t s) :=
  checked_wf h (fun _ _ => by grind [streamPlace_wf, retire_wf])

/-! ### Vector -/

theorem issueVec_wf {s : State} (h : Canonical s) (ok : Bool) (t : BitVec 6) (a b : BitVec 5) (op src : Nat) :
    EndsCanonical (issueVec s ok t a b op src) :=
  checked_wf h (fun _ _ => by grind [issueCmd_wf])

theorem vec2_wf {s : State} (h : Canonical s) (t : BitVec 6) (a b : BitVec 5) (src : BitVec 2) (op : Nat) :
    EndsCanonical (vec2 s t a b src op) :=
  issueVec_wf h ..

theorem vec1_wf {s : State} (h : Canonical s) (t : BitVec 6) (a b : BitVec 5) (op : Nat) : EndsCanonical (vec1 s t a b op) :=
  issueVec_wf h ..

theorem execVectorStep_wf {s : State} (h : Canonical s) (c u : Nat) : EndsCanonical (execVectorStep c u s) :=
  (endsCanonical_next _).2 (by grind [stepBoundary_wf, bufVector_wf, stopWaiting_wf, addCounter_cells, writeReduced_wf, operandB_wf, completeCmd_wf,
    writeVector_wf, modCmd_cells])

/-! ### Fabric -/

theorem execTeardownComplete_wf {s : State} (h : Canonical s) (f : Nat) : EndsCanonical (execTeardownComplete f s) :=
  (endsCanonical_next _).2 (by grind [finishForm_wf])

theorem execArcHop_wf {s : State} (h : Canonical s) (f a k : Nat) : EndsCanonical (execArcHop f a k s) :=
  (endsCanonical_next _).2 (by grind [offerPlaces_cells, arriveTok_wf, modForm_cells])

theorem execConfigWordLoad_wf {s : State} (h : Canonical s) (f n : Nat) : EndsCanonical (execConfigWordLoad f n s) :=
  (endsCanonical_next _).2 (by grind [nodeFault_wf, fetchWords_wf, loadWords_wf, cacheTouch_cells, freezeRecord_wf, modForm_cells])

/-! ### Elements -/

theorem fireElement_wf {s : State} (h : Canonical s) (w : BitVec 32) : EndsCanonical (fireElement s w) :=
  onNode_wf fun f fm n nd => by
    split
    · exact h
    · extract_lets srcs ports ins raw fire r at_ v
      have hfire {s : State} (h : Canonical s) (t : Tok) (grp : Option (BitVec 320 × Bool)) : Canonical (fire s t grp) := by
        refine settleDrain_wf ?_ f
        refine Canonical.of_cells (noteFiring_wf h f n (ins.map fun i => (i.1.1, i.2)) [0]) ?_
        rw [countEmitted_cells, modForm_cells]
      have hr : Canonical r.1 := checkResidues_wf h f n raw
      clear_value fire raw r at_ v
      repeat' split
      all_goals with_reducible first | exact h | exact badToken_wf h .. | exact mismatch_wf h .. | exact hfire hr .. | exact hfire h ..

/-! ### Gather -/

theorem issueGather_wf {s : State} (h : Canonical s) (ok : Bool) (a b : BitVec 5) (minor : Nat) :
    EndsCanonical (issueGather s ok a b minor) :=
  checked_wf h (fun _ _ => by grind [readDesc_wf, issueCmd_wf])

theorem execGathExecute_wf {s : State} (h : Canonical s) (c : Nat) : EndsCanonical (execGathExecute c s) :=
  (endsCanonical_next _).2 (by grind [gatherRun_wf])

theorem execScatExecute_wf {s : State} (h : Canonical s) (c : Nat) : EndsCanonical (execScatExecute c s) :=
  (endsCanonical_next _).2 (by grind [gatherRun_wf])

/-! ### MemElems -/

theorem fireMem_wf {s : State} (h : Canonical s) (w : BitVec 32) : EndsCanonical (fireMem s w) :=
  onNode_wf fun _ _ _ _ => by grind [mismatch_wf, holdTokens_cells, beginAccess_wf, passMem_wf, badToken_wf]

theorem execPageWalk_wf {s : State} (h : Canonical s) (cmd : Bool) (x y k : Nat) : EndsCanonical (execPageWalk cmd x y k s) :=
  (endsCanonical_next _).2 (by
    repeat' split
    all_goals first | exact h | exact translate_wf h .. | exact walkAccess_wf h ..)

theorem execMemAccessReply_wf {s : State} (h : Canonical s) (f n k : Nat) : EndsCanonical (execMemAccessReply f n k s) :=
  (endsCanonical_next _).2 (by
    dsimp only
    repeat' split
    all_goals first | exact h | exact h.of_cells (emitReplies_cells ..) | exact Canonical.of_cells (performAccess_wf h ..) (emitReplies_cells ..))

theorem execSyOperationApply_wf {s : State} (h : Canonical s) (f n k : Nat) : EndsCanonical (execSyOperationApply f n k s) :=
  (endsCanonical_next _).2 (by
    split
    · exact h
    · split
      · exact h
      · split
        · exact h
        · next a _ =>
          dsimp only
          repeat' split
          · exact h
          · exact (checkResidue_wf h f n a.tb).of_cells ((setStage_cells ..).trans (sendRequest_cells ..))
          · exact Canonical.of_cells (performAccess_wf h ..) (emitReplies_cells ..)
          · exact h)

/-! ### Ports -/

theorem execSportSourceAccess_wf {s : State} (h : Canonical s) (f n : Nat) : EndsCanonical (execSportSourceAccess f n s) :=
  (endsCanonical_next _).2 (by
    dsimp only
    repeat' split
    all_goals first
      | exact h
      | exact performPort_wf h ..
      | exact h.of_cells (giveUpSource_cells ..)
      | exact h.of_cells (movePort_cells ..)
      | exact h.of_cells ((modForm_cells ..).trans (movePort_cells ..))
      | exact h.of_cells ((completePort_cells ..).trans (modForm_cells ..))
      | exact emitInjected_wf h ..
      | exact beginPort_wf h ..)

theorem execSportSinkAccess_wf {s : State} (h : Canonical s) (f n : Nat) : EndsCanonical (execSportSinkAccess f n s) :=
  (endsCanonical_next _).2 (by
    have hfire {s : State} (h : Canonical s) (ins : List (Nat × Flit)) : Canonical (noteFiring s f n ins []) := noteFiring_wf h ..
    split
    · exact h
    · split
      · exact h
      · split
        · exact h
        · dsimp only
          repeat' split
          all_goals with_reducible first
            | exact h
            | exact performPort_wf h ..
            | exact badToken_wf h ..
            | exact h.of_cells (holdTokens_cells ..)
            | exact h.of_cells (completePort_cells ..)
            | exact beginPort_wf h ..
            | exact settleDrain_wf ((hfire (h.of_cells (freePort_cells ..)) _).of_cells (modForm_cells ..)) _
            | exact settleDrain_wf ((hfire h _).of_cells (modForm_cells ..)) _
            | exact (hfire h _).of_cells ((modForm_cells ..).trans (movePort_cells ..)))

theorem execMatrixNodeFire_wf {s : State} (h : Canonical s) (f n : Nat) : EndsCanonical (execMatrixNodeFire f n s) :=
  (endsCanonical_next _).2 (by
    split
    · exact h
    · next fm _ =>
      split
      · exact h
      · next nd _ =>
        split
        · next a b _ _ _ =>
          extract_lets cl u ins take s1 c q
          have htake {s : State} (h : Canonical s) (st : Stage) : Canonical (take s st) :=
            (noteFiring_wf h f n ins [0]).of_cells ((emitReplies_cells ..).trans (modForm_cells ..))
          have hpass : Canonical (settleDrain s1 f) := settleDrain_wf (h.of_cells (modForm_cells ..)) f
          clear_value take s1
          repeat' split
          all_goals with_reducible first
            | exact h
            | exact badToken_wf h ..
            | exact mismatch_wf h ..
            | exact nodeFault_wf h ..
            | exact hpass
            | exact htake h _
            | exact htake (h.of_cells (setQueue_cells ..)) _
        · exact h)

/-! ### Section -/

theorem execGlaunch_wf {s : State} (h : Canonical s) (a : BitVec 5) : EndsCanonical (execGlaunch a s) :=
  onThread_wf fun _ _ => by grind [stopAt_wf, submitThread_wf, place_wf, raiseTrap_wf, waitAt_cells, sendRequest_cells, memRead_wf]

theorem execSarm_wf {s : State} (h : Canonical s) (a b : BitVec 5) : EndsCanonical (execSarm a b s) :=
  onThread_wf fun _ _ => by grind [modThread_cells, addForm_cells, modCtx_cells, readDesc_wf, raiseTrap_wf, retireWith_wf, waitAt_cells]

theorem execFwait_wf {s : State} (h : Canonical s) (a b : BitVec 5) : EndsCanonical (execFwait a b s) :=
  onThread_wf fun _ _ => by grind [retireWith_wf, waitAt_cells]

theorem execLaunchAdmit_wf {s : State} (h : Canonical s) (l : Nat) : EndsCanonical (execLaunchAdmit l s) :=
  (endsCanonical_next _).2 (by
    split
    · exact h
    · next k _ =>
      split
      · exact h
      · have hc := (checkGraph_wf l k).keeps s h
        split <;> rename_i he <;> rw [he] at hc
        · exact refuseLaunch_wf hc ..
        · exact hc
        · exact hc
        · split
          · exact hc
          · exact hc.of_cells (by simp))

/-! ### PoolSteps -/

theorem execTimeSliceDecision_wf {s : State} (h : Canonical s) (p : Nat) : EndsCanonical (execTimeSliceDecision p s) :=
  (endsCanonical_next _).2 (by grind [beginPreempt_cells])

/-! ### Placer -/

theorem execPlaceFormation_wf {s : State} (h : Canonical s) (f : Nat) (wheres : List Nat) (routes : List (List Nat)) (isles : List Nat) :
    EndsCanonical (execPlaceFormation f wheres routes isles s) :=
  (endsCanonical_next _).2 (by
    split
    · exact h
    · next fm _ =>
      split
      · exact h
      · have hc := readGraph_wf h f fm none (lateReasons s f fm)
        split <;> rename_i he <;> rw [he] at hc
        · exact rejectForm_wf hc ..
        · exact hc
        · exact hc
        · dsimp only
          repeat' split
          all_goals with_reducible first
            | exact rejectForm_wf hc ..
            | exact hc.of_cells (settlePlaced_cells ..)
            | exact hc.of_cells (modForm_cells ..))

theorem execFormationArm_wf {s : State} (h : Canonical s) (f : Nat) : EndsCanonical (execFormationArm f s) :=
  (endsCanonical_next _).2 (by
    have hcleared (l : List Nat) : Canonical (l.foldl (fun s i => memClear s (islandCell i 0) (islandCell i 65536)) s) :=
      foldl_wf (fun _ _ hs => memClear_wf _ _ hs) l h
    split
    · exact h
    · next fm _ =>
      dsimp only
      repeat' split
      all_goals first
        | exact h
        | exact failNode_wf ((hcleared fm.isles).of_cells (by simp)) ..
        | exact (hcleared fm.isles).of_cells (by simp))

theorem execDrainInject_wf {s : State} (h : Canonical s) (f : Nat) : EndsCanonical (execDrainInject f s) :=
  (endsCanonical_next _).2 (by grind [modForm_cells])

theorem execGuardDiscard_wf {s : State} (h : Canonical s) (f a site port w : Nat) : EndsCanonical (execGuardDiscard f a site port w s) :=
  (endsCanonical_next _).2 (by grind [failForm_wf, modForm_cells])

/-! ### Paging -/

theorem execFillRingTake_wf {s : State} (h : Canonical s) (x p : Nat) : EndsCanonical (execFillRingTake x p s) :=
  (endsCanonical_next _).2 (by
    split
    · next c fl _ _ =>
      have hr := ringHead_wf h c
      split
      · exact h
      · generalize ringHead s c = r at hr
        extract_lets r₀ s1 hd s2 rec s3 at_ e frame s4
        have h2 : Canonical s2 := frameless_wf hr ..
        have h3 : Canonical s3 := Canonical.of_cells (s := r.1) hr (modCtx_cells ..)
        have h4 : Canonical s4 := hbmWrite_wf _ _ _ _ (hbmRead_wf c.masks at_ 8 h3)
        clear_value s4 s3 s2 s1 e
        repeat' split
        all_goals with_reducible first
          | exact h2
          | exact (writeRecord_wf h2 ..).of_cells (modCtx_cells ..)
          | exact frameless_wf h3 ..
          | exact failFill_wf h3 ..
          | exact failFill_wf h4 ..
          | exact h4.of_cells (setFill_cells ..)
    · exact h)

theorem execFillComplete_wf {s : State} (h : Canonical s) (x p : Nat) : EndsCanonical (execFillComplete x p s) :=
  (endsCanonical_next _).2 (by grind [failFill_wf, hbmWrite_wf, endFill_wf, writeFilled_wf])

theorem execXinvDone_wf {s : State} (h : Canonical s) (k : Nat) : EndsCanonical (execXinvDone k s) :=
  (endsCanonical_next _).2 (by
    split
    · exact h
    · split
      · exact h
      · exact foldl_wf (g := fun s (t : Nat × Thread) => retire s t.1) (fun _ _ hs => retire_wf hs ..) _ (thawAll_wf (h.of_cells (by simp)) ..))

theorem execFaultHoldExpire_wf {s : State} (h : Canonical s) (cmd : Bool) (x y k : Nat) : EndsCanonical (execFaultHoldExpire cmd x y k s) :=
  (endsCanonical_next _).2 (by grind [thawFetch_wf, thawAccess_wf, thawUnit_wf])

/-! ### Preempt -/

theorem execSaveSeal_wf {s : State} (h : Canonical s) (x : Nat) : EndsCanonical (execSaveSeal x s) :=
  (endsCanonical_next _).2 (by
    split
    · exact h
    · next c _ =>
      split
      · exact h
      · have hstopped : Canonical (((threadsOf s x).map (·.1)).foldl stopForSave s) := foldl_wf (fun _ _ hs => stopForSave_wf hs _) _ h
        dsimp only
        rw [Canonical, modCtx_cells, offerPlaces_cells, renameThreads_cells, moveTasks_cells, foldl_cells (releaseCluster_cells x)]
        exact hbmWrite_wf _ _ _ _ (saveArea_wf hstopped ..))

theorem execContextRestore_wf {s : State} (h : Canonical s) (x : Nat) (clusters : List Nat) (wheres : List (List Nat))
    (routes : List (List (List Nat))) (isles : List (List Nat)) : EndsCanonical (execContextRestore x clusters wheres routes isles s) :=
  (endsCanonical_next _).2 (by
    split
    · next c v _ _ =>
      dsimp only
      split
      · exact h
      · split
        · exact h.of_cells (passSaved_cells ..)
        · next q hs s' hchoice =>
          have hs' : Canonical s' := by
            obtain ⟨_, _, hm⟩ := Option.bind_eq_some_iff.1 hchoice
            obtain ⟨_, hp, he⟩ := Option.map_eq_some_iff.1 hm
            cases he
            exact h.of_cells (placeAll_cells hp)
          have hc := checkSave_wf h x c
          split <;> rename_i he <;> rw [he] at hc
          · exact markLost_wf (writeRecord_wf hc ..) _
          · refine foldl_wf (fun _ _ hs => finishThread_wf (Canonical.of_cells hs (deliverWound_cells ..)) _) _ ?_
            simp only [modCtx_cells, moveTasks_cells, renameThreads_cells]
            rw [foldl_cells (restoreThread_cells _), foldl_cells (fun _ _ => modForm_cells ..)]
            exact foldl_wf (g := putFormIsles _) (fun _ _ hs => putFormIsles_wf hs ..) hs (putImages_wf (checkSave_wf hs' x c) ..)
    · exact h)

theorem execThreadTaskDispatch_wf {s : State} (h : Canonical s) (l k : Nat) : EndsCanonical (execThreadTaskDispatch l k s) :=
  (endsCanonical_next _).2 (by grind [dispatchThread_wf])

/-! ### Objects -/

theorem amoInstr_wf {s : State} (h : Canonical s) (ok : Bool) (op n : Nat) (inS sx : Bool) (d a b : BitVec 5) :
    EndsCanonical (amoInstr s ok op n inS sx d a b) :=
  checked_wf h (fun _ _ => by grind [stopAt_wf, syPlace_wf, raiseTrap_wf, putObject_wf, withLines_wf, retireWith_wf, waitAt_cells, sendRequest_cells,
    memRead_wf])

theorem amoInt_wf {s : State} (h : Canonical s) (op : Nat) (d a b : BitVec 5) (z : BitVec 2) (p x : BitVec 1) :
    EndsCanonical (amoInt s op d a b z p x) :=
  amoInstr_wf h ..

theorem execTkt_wf {s : State} (h : Canonical s) (d a b : BitVec 5) : EndsCanonical (execTkt d a b s) :=
  onThread_wf fun _ _ => by grind [noPeer_wf, onObject_wf, putObject_wf, retireWith_wf]

theorem execTkset_wf {s : State} (h : Canonical s) (a b : BitVec 5) : EndsCanonical (execTkset a b s) :=
  onThread_wf fun _ _ => by grind [noPeer_wf, onObject_wf, putObject_wf, retire_wf]

theorem execRedinit_wf {s : State} (h : Canonical s) (a b : BitVec 5) : EndsCanonical (execRedinit a b s) :=
  onThread_wf fun _ _ => by grind [noPeer_wf, onObject_wf, putSeqWords_wf, retire_wf, putSeqCell_cells, settleGap_wf]

theorem execRedFadd_wf {s : State} (h : Canonical s) (d a b : BitVec 5) : EndsCanonical (execRedFadd d a b s) :=
  onThread_wf fun _ _ => by grind [noPeer_wf, onObject_wf, raiseTrap_wf, putSeqWords_wf, withLines_wf, waitAt_cells, retire_wf, putSeqCell_cells,
    settleGap_wf]

theorem execRedrd_wf {s : State} (h : Canonical s) (d a : BitVec 5) : EndsCanonical (execRedrd d a s) :=
  onThread_wf fun _ _ => by grind [noPeer_wf, onObject_wf, retireWith_wf]

theorem execReductionGapped_wf {s : State} (h : Canonical s) (x a : Nat) : EndsCanonical (execReductionGapped x a s) :=
  (endsCanonical_next _).2 (by grind [sCellOf_wf, withLines_wf, settleGap_wf])

theorem execRedLadd_wf {s : State} (h : Canonical s) (a b : BitVec 5) (f : BitVec 4) : EndsCanonical (execRedLadd a b f s) :=
  checked_wf h (fun _ _ => by grind [noPeer_wf, onObject_wf, farRead_cells, putObject_wf, retire_wf])

theorem execRedLclr_wf {s : State} (h : Canonical s) (a sp : BitVec 5) : EndsCanonical (execRedLclr a sp s) :=
  checked_wf h (fun _ _ => by grind [noPeer_wf, onObject_wf, putObject_wf, farWrite_cells, retire_wf])

theorem execRedLdrain_wf {s : State} (h : Canonical s) (d a sp : BitVec 5) (f : BitVec 4) (r : BitVec 2) :
    EndsCanonical (execRedLdrain d a sp f r s) :=
  checked_wf h (fun _ _ => by grind [noPeer_wf, onObject_wf, farRead_cells, laDrainTo_wf])

/-! ### LockOps -/

theorem lockInstr_wf {s : State} (h : Canonical s) (d a : BitVec 5) (m : BitVec 3) (try_ : Bool) : EndsCanonical (lockInstr s d a m try_) :=
  onThread_wf fun _ _ => by grind [lockRequest_wf, withItems_wf, retireWith_wf, waitAt_cells]

theorem execLkrel_wf {s : State} (h : Canonical s) (d a : BitVec 5) : EndsCanonical (execLkrel d a s) :=
  onThread_wf fun _ _ => by grind [withItems_wf, releaseItem_wf, endIfIdle_cells, retireWith_wf, waitAt_cells]

theorem execLkrelall_wf {s : State} (h : Canonical s) (d : BitVec 5) : EndsCanonical (execLkrelall d s) :=
  onThread_wf fun _ _ => by grind [releaseAll_wf, withItems_wf, retireWith_wf, waitAt_cells]

theorem execLkreg_wf {s : State} (h : Canonical s) (d a : BitVec 5) : EndsCanonical (execLkreg d a s) :=
  onThread_wf fun _ _ => by grind [stopAt_wf, place_wf, raiseTrap_wf, registerTensor_wf, waitAt_cells, sendRequest_cells, memRead_wf]

theorem execLkunreg_wf {s : State} (h : Canonical s) (d a : BitVec 5) : EndsCanonical (execLkunreg d a s) :=
  onThread_wf fun _ _ => by grind [retireWith_wf]

theorem execLkmat_wf {s : State} (h : Canonical s) (d : BitVec 5) : EndsCanonical (execLkmat d s) :=
  onThread_wf fun _ _ => retireWith_wf h ..

theorem execFence_wf {s : State} (h : Canonical s) (p q sc : BitVec 3) : EndsCanonical (execFence p q sc s) :=
  checked_wf h (fun _ _ => by grind [waitAt_cells, retire_wf])

/-! ### Watch -/

theorem execDetectorSweep_wf {s : State} (h : Canonical s) (whole : Bool) (x : Nat) : EndsCanonical (execDetectorSweep whole x s) :=
  (endsCanonical_next _).2 (by grind [settleHalts_wf, sweepForm_wf, sweepCtx_wf])

theorem execSamplePeriod_wf {s : State} (h : Canonical s) (x : Nat) : EndsCanonical (execSamplePeriod x s) :=
  (endsCanonical_next _).2 (by
    have hnodes (l : List Nat) (s : State) (hs : Canonical s) : Canonical (l.foldl (fun s f => sampleNode f s) s) :=
      foldl_wf (fun _ _ hs => sampleNode_wf hs ..) l hs
    have hthreads (l : List Nat) (s : State) (hs : Canonical s) : Canonical (l.foldl sampleThread s) :=
      foldl_wf (fun _ _ hs => sampleThread_wf hs ..) l hs
    dsimp only
    repeat' split
    all_goals first | exact h | exact hthreads _ _ (hnodes _ _ h) | exact hthreads _ _ h | exact hnodes _ _ h)

/-! ### PowerSteps -/

theorem execArbiterPeriod_wf {s : State} (h : Canonical s) (temps : List Nat) : EndsCanonical (execArbiterPeriod temps s) :=
  (endsCanonical_next _).2 (by grind [noticeAll_wf])

theorem execReelSend_wf {s : State} (h : Canonical s) : EndsCanonical (execReelSend s) :=
  (endsCanonical_next _).2 (by grind [floodReel_cells, modPower_cells])

theorem execReelShare_wf {s : State} (h : Canonical s) : EndsCanonical (execReelShare s) :=
  (endsCanonical_next _).2 (by grind [modPower_cells])

theorem execHbmThermalWindow_wf {s : State} (h : Canonical s) (stack temp : Nat) : EndsCanonical (execHbmThermalWindow stack temp s) :=
  (endsCanonical_next _).2 (by
    dsimp only
    repeat' split
    all_goals first | exact h | exact foldl_wf (fun _ _ hs => signalNotice_wf (by exact hs) ..) _ h)

theorem execCurrentLimit_wf {s : State} (h : Canonical s) (d : Nat) : EndsCanonical (execCurrentLimit d s) :=
  (endsCanonical_next _).2 (by grind)

theorem execCurrentLimitClear_wf {s : State} (h : Canonical s) (d : Nat) : EndsCanonical (execCurrentLimitClear d s) :=
  (endsCanonical_next _).2 (by grind)

theorem execJunctionOvertemp_wf {s : State} (h : Canonical s) (_d : Nat) : EndsCanonical (execJunctionOvertemp _d s) :=
  (endsCanonical_next _).2 (by grind [stopPackage_wf])

theorem execSupplyUndervolt_wf {s : State} (h : Canonical s) (_d : Nat) : EndsCanonical (execSupplyUndervolt _d s) :=
  (endsCanonical_next _).2 (by grind [stopPackage_wf])

theorem execEdgeResendTimeout_wf {s : State} (h : Canonical s) (_d : Nat) : EndsCanonical (execEdgeResendTimeout _d s) :=
  (endsCanonical_next _).2 (by grind [freeNat_cells, stopPackage_wf])

/-! ### Peers -/

theorem execPeerFrame_wf {s : State} (h : Canonical s) (port : Nat) (frame : List (BitVec 8)) :
    EndsCanonical (execPeerFrame port frame s) :=
  (endsCanonical_next _).2 (by
    dsimp only
    repeat' split
    all_goals first | exact h | exact Canonical.of_cells h (foldl_cells deliverMsg_cells ..))

theorem execPeerFrameResend_wf {s : State} (h : Canonical s) (port : Nat) : EndsCanonical (execPeerFrameResend port s) :=
  (endsCanonical_next _).2 (by grind)

theorem execPeerRead_wf {s : State} (h : Canonical s) (k : Nat) : EndsCanonical (execPeerRead k s) :=
  (endsCanonical_next _).2 (by grind [prRead_wf, answer_cells, serveRequest_wf])

/-! ### Peers -/

theorem execPeerWrite_wf {s : State} (h : Canonical s) (k : Nat) : EndsCanonical (execPeerWrite k s) :=
  (endsCanonical_next _).2 (by grind [answer_cells, prWrite_wf, serveRequest_wf])

theorem execPeerAtomic_wf {s : State} (h : Canonical s) (k : Nat) : EndsCanonical (execPeerAtomic k s) :=
  (endsCanonical_next _).2 (by grind [memReadMap_wf, answer_cells, putBytesMap_wf, serveRequest_wf])

theorem takeReply_wf {s : State} (h : Canonical s) (k type : Nat) (fits : PeerReq → Bool) (y : PeerMsg → Reply) :
    EndsCanonical (takeReply s k type fits y) :=
  (endsCanonical_next _).2 (by grind [settleRequest_wf])

theorem execPeerTimeout_wf {s : State} (h : Canonical s) (k : Nat) : EndsCanonical (execPeerTimeout k s) :=
  (endsCanonical_next _).2 (by grind [settleRequest_wf])

theorem execReelMessage_wf {s : State} (h : Canonical s) (k : Nat) : EndsCanonical (execReelMessage k s) :=
  (endsCanonical_next _).2 (by grind [floodReel_cells, modPower_cells])

/-! ### Host -/

theorem execHostFrame_wf {s : State} (h : Canonical s) (frame : List (BitVec 8)) : EndsCanonical (execHostFrame frame s) :=
  (endsCanonical_next _).2 (by
    cases portFrame s.mac frame with
    | none => exact h
    | some b => exact h.of_cells (takeCommand_cells ..))

theorem execHostNop_wf {s : State} (h : Canonical s) (q : Nat) : EndsCanonical (execHostNop q s) :=
  onHost_wf h (fun _ _ _ => by grind [done_cells]) ..

theorem execHostLaunch_wf {s : State} (h : Canonical s) (q : Nat) : EndsCanonical (execHostLaunch q s) :=
  onHost_wf h (fun _ _ _ => by grind [done_cells, submitLaunch_cells, withChecks_wf, peekTasks_wf]) ..

theorem execHostWaitev_wf {s : State} (h : Canonical s) (q : Nat) : EndsCanonical (execHostWaitev q s) :=
  onHost_wf h (fun _ _ _ => by grind [done_cells, withChecks_wf, hbmRead_wf]) ..

theorem execHostSigev_wf {s : State} (h : Canonical s) (q : Nat) : EndsCanonical (execHostSigev q s) :=
  onHost_wf h (fun _ _ _ => by grind [done_cells, withChecks_wf, signalEvent_wf]) ..

theorem execHostMemrd_wf {s : State} (h : Canonical s) (q : Nat) : EndsCanonical (execHostMemrd q s) :=
  onHost_wf h (fun _ _ _ => by grind [done_cells, prRead_wf, withChecks_wf]) ..

theorem execHostMemwr_wf {s : State} (h : Canonical s) (q : Nat) : EndsCanonical (execHostMemwr q s) :=
  onHost_wf h (fun _ _ _ => by grind [done_cells, withChecks_wf, prWrite_wf]) ..

theorem execHostFlashrd_wf {s : State} (h : Canonical s) (q : Nat) : EndsCanonical (execHostFlashrd q s) :=
  onHost_wf h (fun _ _ _ => by grind [done_cells, withChecks_wf, prWrite_wf]) ..

theorem execHostFlashwr_wf {s : State} (h : Canonical s) (q : Nat) : EndsCanonical (execHostFlashwr q s) :=
  onHost_wf h (fun s c hs => withChecks_wf hs (by
    have hr := prRead_wf hs (hostMasks s c) (field c.body 4 8) 65536
    generalize prRead s (hostMasks s c) (field c.body 4 8) 65536 = r at hr ⊢
    by_cases hp : anyPoison r.2.2 = true
    · rw [if_pos hp]
      exact Canonical.of_cells (s := r.1) hr (refuse_cells ..)
    · rw [if_neg hp]
      exact cellsWrite_wf (flashCell (field c.body 0 4) 0) r.2.1 hr) ..) ..

theorem execHostXinv_wf {s : State} (h : Canonical s) (q : Nat) : EndsCanonical (execHostXinv q s) :=
  onHost_wf h (fun _ _ _ => by grind [done_cells, beginInval_cells, withChecks_wf]) ..

theorem execHostSetmask_wf {s : State} (h : Canonical s) (q : Nat) : EndsCanonical (execHostSetmask q s) :=
  onHost_wf h (fun _ _ _ => by grind [done_cells, modCtx_cells, withChecks_wf]) ..

/-! ### HostCtx -/

theorem execHostCtxnew_wf {s : State} (h : Canonical s) (q : Nat) : EndsCanonical (execHostCtxnew q s) :=
  onHost_wf h (fun _ _ _ => by grind [withChecks_wf, drawKey_cells]) ..

theorem execHostCtxdel_wf {s : State} (h : Canonical s) (q : Nat) : EndsCanonical (execHostCtxdel q s) :=
  onHost_wf h (fun _ _ _ => by grind [done_cells, dropCtx_wf, withChecks_wf]) ..

theorem execHostSuspend_wf {s : State} (h : Canonical s) (q : Nat) : EndsCanonical (execHostSuspend q s) :=
  onHost_wf h (fun s c hs => withChecks_wf hs (by
    have hfree (l : List Nat) (s : State) : (l.foldl (fun s k => releaseHold s c.ctx k) s).cells = s.cells := foldl_cells (fun s k => by simp) l s
    dsimp only
    repeat' split
    all_goals first | exact hs | exact hs.of_cells (by simp [done, hfree])) ..) ..

theorem execHostResume_wf {s : State} (h : Canonical s) (q : Nat) : EndsCanonical (execHostResume q s) :=
  onHost_wf h (fun _ _ _ => by grind [done_cells, modCtx_cells, withChecks_wf]) ..

theorem quotaCmd_wf {s : State} (h : Canonical s) (q op : Nat) (g : ℤ → ℤ → ℤ) : EndsCanonical (quotaCmd q op s g) :=
  onHost_wf h (fun _ _ _ => by grind [done_cells, modCtx_cells, withChecks_wf]) ..

theorem execHostPolicy_wf {s : State} (h : Canonical s) (q : Nat) : EndsCanonical (execHostPolicy q s) :=
  onHost_wf h (fun _ _ _ => by grind [done_cells, modCtx_cells, withChecks_wf, releaseHolds_cells, refuse_cells, writeTrace_wf]) ..

theorem execPolicyNotafter_wf {s : State} (h : Canonical s) (x : Nat) : EndsCanonical (execPolicyNotafter x s) :=
  (endsCanonical_next _).2 (by grind [modCtx_cells])

theorem execHostCtrrd_wf {s : State} (h : Canonical s) (q : Nat) : EndsCanonical (execHostCtrrd q s) :=
  onHost_wf h (fun _ _ _ => by grind [done_cells, withChecks_wf, refuse_cells]) ..

theorem execHostTimestat_wf {s : State} (h : Canonical s) (q : Nat) : EndsCanonical (execHostTimestat q s) :=
  onHost_wf h (fun _ _ _ => by grind [done_cells, withChecks_wf]) ..

theorem execHostTraceset_wf {s : State} (h : Canonical s) (q : Nat) : EndsCanonical (execHostTraceset q s) :=
  onHost_wf h (fun _ _ _ => by grind [done_cells, hbmWrite_wf, modCtx_cells, withChecks_wf, hbmRead_wf, refuse_cells]) ..

/-! ### HostDebug -/

theorem execHostHalt_wf {s : State} (h : Canonical s) (q : Nat) : EndsCanonical (execHostHalt q s) :=
  onHost_wf h (fun _ _ _ => by grind [done_cells, withChecks_wf, refuse_cells, placeHalt_wf]) ..

theorem execHostRelease_wf {s : State} (h : Canonical s) (q : Nat) : EndsCanonical (execHostRelease q s) :=
  onHost_wf h (fun _ _ _ => by grind [done_cells, withChecks_wf, releaseHolds_cells]) ..

theorem execHostBreak_wf {s : State} (h : Canonical s) (q : Nat) : EndsCanonical (execHostBreak q s) :=
  onHost_wf h (fun _ _ _ => by grind [done_cells, withChecks_wf, releaseHolds_cells]) ..

theorem execHostDump_wf {s : State} (h : Canonical s) (q : Nat) : EndsCanonical (execHostDump q s) :=
  onHost_wf h (fun _ _ _ => by grind [done_cells, withChecks_wf]) ..

theorem execHostHstat_wf {s : State} (h : Canonical s) (q : Nat) : EndsCanonical (execHostHstat q s) :=
  onHost_wf h (fun _ _ _ => by grind [done_cells, withChecks_wf]) ..

/-! ### HostMgmt -/

theorem execHostPartset_wf {s : State} (h : Canonical s) (q : Nat) : EndsCanonical (execHostPartset q s) :=
  onHost_wf h (fun _ _ hs => withChecks_wf hs (foldl_wf (fun _ _ hs => clearAssigned_wf hs _) _ (by exact hs)) ..) ..

theorem execHostLockmat_wf {s : State} (h : Canonical s) (q : Nat) : EndsCanonical (execHostLockmat q s) :=
  onHost_wf h (fun _ _ _ => by grind [done_cells, withChecks_wf]) ..

theorem execHostPeerwin_wf {s : State} (h : Canonical s) (q : Nat) : EndsCanonical (execHostPeerwin q s) :=
  onHost_wf h (fun _ _ _ => by grind [done_cells, withChecks_wf]) ..

theorem execHostFnbind_wf {s : State} (h : Canonical s) (q : Nat) : EndsCanonical (execHostFnbind q s) :=
  onHost_wf h (fun _ _ _ => by grind [done_cells, withChecks_wf]) ..

theorem execHostPower_wf {s : State} (h : Canonical s) (q : Nat) : EndsCanonical (execHostPower q s) :=
  onHost_wf h (fun _ _ _ => by grind [done_cells, withChecks_wf, modPower_cells]) ..

theorem execPowerOn_wf {s : State} (h : Canonical s) (time : Nat) (hbm : List (Nat × BitVec 8)) : EndsCanonical (execPowerOn time hbm s) :=
  (endsCanonical_next _).2 (by grind [bringUp_wf])

theorem execHostReset_wf {s : State} (h : Canonical s) (q : Nat) (hbm : List (Nat × BitVec 8)) : EndsCanonical (execHostReset q hbm s) := by
  have hout : EndsCanonical (onHost q 0x3D .mgmt s (fun s c => withChecks s c [(1, decide (c.body ≠ []))] (s, .wait 1 0))) :=
    onHost_wf h (fun _ _ hs => withChecks_wf hs hs ..) ..
  unfold execHostReset
  split
  · refine (endsCanonical_next _).2 ?_
    split
    · exact bringUp_wf h _
    · exact hout.next _ ‹_›
  · exact hout

theorem execHostFwload_wf {s : State} (h : Canonical s) (q : Nat) (hbm : List (Nat × BitVec 8)) :
    EndsCanonical (execHostFwload q hbm s) := by
  have hout : EndsCanonical (onHost q 0x3C .mgmt s (fun s c =>
      withChecks s c [(5, decide (s.fw.phase ≠ .recovery)), (6, !imageOk s.fw.minSvn c.body)]
        (done { s with
          cells := cellsWrite s.cells firmwareCell c.body
          flashBad := setDelRange flashPages (flashPages + (c.body.length + 65535) / 65536) s.flashBad } c []))) :=
    onHost_wf h (fun _ _ hs => withChecks_wf hs (cellsWrite_wf _ _ hs) ..) ..
  unfold execHostFwload
  split
  · next s' he =>
    refine (endsCanonical_next _).2 ?_
    repeat' split
    all_goals first | exact bringUp_wf (hout.next _ he) _ | exact hout.next _ he
  · exact hout

theorem execHostAttest_wf {s : State} (h : Canonical s) (q : Nat) : EndsCanonical (execHostAttest q s) :=
  onHost_wf h (fun _ _ _ => by grind [done_cells, withChecks_wf]) ..

/-! ### LoopNodes -/

theorem execLoopNConsume_wf {s : State} (h : Canonical s) (f n : Nat) : EndsCanonical (execLoopNConsume f n s) :=
  (endsCanonical_next _).2 (by grind [noteFiring_wf, modForm_cells, badToken_wf])

theorem execLoopEmit_wf {s : State} (h : Canonical s) (f n : Nat) (last : Bool) : EndsCanonical (execLoopEmit f n last s) :=
  (endsCanonical_next _).2 (by grind [settleDrain_wf, modForm_cells])

/-! ### Ptp -/

theorem execPtpFrame_wf {s : State} (h : Canonical s) (port sdo domain : Nat) (m : PtpMsg) :
    EndsCanonical (execPtpFrame port sdo domain m s) :=
  (endsCanonical_next _).2 (by grind [ptpTake_cells])

theorem execHoldover_wf {s : State} (h : Canonical s) : EndsCanonical (execHoldover s) :=
  (endsCanonical_next _).2 (by grind [setPtp_cells, chooseParent_cells])

/-! ### Routers -/

theorem execOpPass_wf {s : State} (h : Canonical s) (_o _i : BitVec 3) (_c : BitVec 1) : EndsCanonical (execOpPass _o _i _c s) :=
  onOperator_wf h (fun _ _ _ _ _ => by grind [fireOp_wf])

theorem execOpFork_wf {s : State} (h : Canonical s) (_o _i : BitVec 3) (_c : BitVec 1) (_v : BitVec 3) :
    EndsCanonical (execOpFork _o _i _c _v s) :=
  onOperator_wf h (fun _ _ _ _ _ => by grind [fireOp_wf])

theorem execOpSteer_wf {s : State} (h : Canonical s) (_o _i _j : BitVec 3) (_c : BitVec 1) (_v : BitVec 3) :
    EndsCanonical (execOpSteer _o _i _j _c _v s) :=
  onOperator_wf h (fun _ _ _ _ _ => by grind [mismatch_wf, fireOp_wf])

theorem execOpMerge_wf {s : State} (h : Canonical s) (_o _i _j : BitVec 3) (_c : BitVec 1) (_v : BitVec 3) :
    EndsCanonical (execOpMerge _o _i _j _c _v s) :=
  onOperator_wf h (fun _ _ _ _ _ => by grind [mismatch_wf, fireOp_wf])

theorem execOpCarry_wf {s : State} (h : Canonical s) (_o _i _j : BitVec 3) (_c : BitVec 1) : EndsCanonical (execOpCarry _o _i _j _c s) :=
  onOperator_wf h (fun _ _ _ _ _ => by grind [mismatch_wf, fireOp_wf])

theorem execOpNullFill_wf {s : State} (h : Canonical s) (_o _i : BitVec 3) (_c : BitVec 1) (v : BitVec 3) :
    EndsCanonical (execOpNullFill _o _i _c v s) :=
  onOperator_wf h (fun _ _ _ _ _ => by grind [fireOp_wf])

theorem fireGate_wf {s : State} (h : Canonical s) (sw : Bool) : EndsCanonical (fireGate s sw) :=
  onOperator_wf h (fun _ _ _ _ _ => by grind [mismatch_wf, fireOp_wf])

/-! ### Scalar -/

theorem binary_wf {s : State} (h : Canonical s) (d a b : BitVec 5) (f : Word → Word → Word) : EndsCanonical (binary s d a b f) :=
  onThread_wf fun _ _ => retireWith_wf h ..

theorem unary_wf {s : State} (h : Canonical s) (d a : BitVec 5) (f : Word → Word) : EndsCanonical (unary s d a f) :=
  onThread_wf fun _ _ => retireWith_wf h ..

theorem execCsel_wf {s : State} (h : Canonical s) (d a b : BitVec 5) : EndsCanonical (execCsel d a b s) :=
  onThread_wf fun _ _ => retireWith_wf h ..

theorem execIns_wf {s : State} (h : Canonical s) (d a b : BitVec 5) : EndsCanonical (execIns d a b s) :=
  onThread_wf fun _ _ => retireWith_wf h ..

theorem execHik_wf {s : State} (h : Canonical s) (d : BitVec 5) (im : BitVec 16) : EndsCanonical (execHik d im s) :=
  onThread_wf fun _ _ => retireWith_wf h ..

/-! ### Selection -/

theorem execTopk_wf {s : State} (h : Canonical s) (a b : BitVec 5) (m : BitVec 1) : EndsCanonical (execTopk a b m s) :=
  onThread_wf fun _ _ => by grind [issueCmd_wf]

theorem execTopkExecute_wf {s : State} (h : Canonical s) (c : Nat) : EndsCanonical (execTopkExecute c s) :=
  (endsCanonical_next _).2 (by grind [topkRead_wf, selectionEnd_wf, runParts_wf, topkWrite_wf])

theorem issuePred_wf {s : State} (h : Canonical s) (a b : BitVec 5) (minor : Nat) : EndsCanonical (issuePred s a b minor) :=
  onThread_wf fun _ _ => by grind [readDesc_wf, issueCmd_wf]

theorem execPredrowsExecute_wf {s : State} (h : Canonical s) (c : Nat) : EndsCanonical (execPredrowsExecute c s) :=
  (endsCanonical_next _).2 (by grind [predPart_wf, selectionEnd_wf, runParts_wf, allBounds_wf])

theorem execPrcheckExecute_wf {s : State} (h : Canonical s) (c : Nat) : EndsCanonical (execPrcheckExecute c s) :=
  (endsCanonical_next _).2 (by grind [checkRecord_wf, notePart_wf, selectionEnd_wf, runParts_wf, checkPart_wf])

theorem execReservationGrant_wf {s : State} (h : Canonical s) (c u : Nat) : EndsCanonical (execReservationGrant c u s) :=
  (endsCanonical_next _).2 (by grind [addCounter_cells, setUnit_cells, debit_wf])

/-! ### Every instruction and event -/

theorem exec_wf {s : State} (h : Canonical s) (i : Instr) : EndsCanonical (exec i s) := by
  unfold exec
  cases i
  case add | sub | mul | mulhs | mulhn | divs | divn | rems | remn | and | or | xor | andn | shl | shr | sar | rotl | mins | maxs | minn |
      maxn | ceq | cne | clt | cltn | cge | cgen | extu | exts => exact binary_wf h ..
  case csel => exact execCsel_wf h ..
  case clz | ctz | popc | brev | bswap | addk | andk | ork | xork | cltk | cltnk | shlk | shrk | sark | rotlk => exact unary_wf h ..
  case ins => exact execIns_wf h ..
  case hik => exact execHik_wf h ..
  case cvt => exact execCvt_wf h ..
  case fadd | fsub | fmul | fdiv => exact scalarFloat_wf h ..
  case fmac => exact execFmac_wf h ..
  case fsqrt => exact execFsqrt_wf h ..
  case fmin => exact execFmin_wf h ..
  case fmax => exact execFmax_wf h ..
  case fabs => exact execFabs_wf h ..
  case fneg => exact execFneg_wf h ..
  case feq => exact execFeq_wf h ..
  case flt => exact execFlt_wf h ..
  case fle => exact execFle_wf h ..
  case bEq | bNe | bLt | bGe | bLtn | bGen => exact branch_wf h ..
  case jmp => exact execJmp_wf h ..
  case call => exact execCall_wf h ..
  case callr | jmpr => exact jumpReg_wf h ..
  case ldV | ldI | ldW | ldA | ldC => exact loadInstr_wf h ..
  case stV | stI | stC => exact storeInstr_wf h ..
  case spld => exact execSpld_wf h ..
  case spst => exact execSpst_wf h ..
  case crd => exact execCrd_wf h ..
  case cwr | cset | cclr => exact csrUpdate_wf h ..
  case sleep => exact execSleep_wf h ..
  case yield => exact execYield_wf h ..
  case exit => exact execExit_wf h ..
  case tret => exact execTret_wf h ..
  case xinv => exact execXinv_wf h ..
  case brk => exact execBrk_wf h ..
  case sbind => exact execSbind_wf h ..
  case swait => exact execSwait_wf h ..
  case sclear => exact execSclear_wf h ..
  case copyIn | copyOut | copyBb => exact issueCopy_wf h ..
  case hwait => exact execHwait_wf h ..
  case hrel => exact execHrel_wf h ..
  case hstat => exact execHstat_wf h ..
  case mma | mmaz | mdrain => exact issueMatrix_wf h ..
  case msatr => exact execMsatr_wf h ..
  case mwait => exact execMwait_wf h ..
  case vadd | vsub | vmul | vmulh | vmin | vmax | vavg | vabsd | vdiv | vrem | vand | vor | vxor | vshl | vshr | vsra | vrotl | vceq |
      vcne | vclt | vcle | vcgt | vcge | vfadd | vfsub | vfmul | vfdiv | vfmin | vfmax | vfscale => exact vec2_wf h ..
  case vabs | vneg | vnot | vclz | vctz | vpopc | vbrev | vcnan | vmov | vfabs | vfneg | vfsqrt | vfrcp | vfrsqrt | vfexp2 | vflog2 |
      vftanh | vfsigm | vfgelu | vfsilu | vferf | vfsoftp | vcvt | vsum | vmaxr | vamaxr => exact vec1_wf h ..
  case topk => exact execTopk_wf h ..
  case predrows | prcheck => exact issuePred_wf h ..
  case gath | scat => exact issueGather_wf h ..
  case glaunch => exact execGlaunch_wf h ..
  case sarm => exact execSarm_wf h ..
  case fwait => exact execFwait_wf h ..
  case ldwF | stwE | ldwFk => exact waitForm_wf h ..
  case ldwFt => exact execLdwFt_wf h ..
  case stwEt => exact execStwEt_wf h ..
  case ldwQ => exact execLdwQ_wf h ..
  case fclr => exact execFclr_wf h ..
  case amoSwap | amoAdd | amoAnd | amoOr | amoXor | amoMin | amoMax | amoMinu | amoMaxu | amoCas => exact amoInt_wf h ..
  case amoFmax | amaxrr => exact amoInstr_wf h ..
  case tkt => exact execTkt_wf h ..
  case tkset => exact execTkset_wf h ..
  case redinit => exact execRedinit_wf h ..
  case redFadd => exact execRedFadd_wf h ..
  case redrd => exact execRedrd_wf h ..
  case redLadd => exact execRedLadd_wf h ..
  case redLclr => exact execRedLclr_wf h ..
  case redLdrain => exact execRedLdrain_wf h ..
  case sjoin => exact execSjoin_wf h ..
  case sleave => exact execSleave_wf h ..
  case barw => exact execBarw_wf h ..
  case bara => exact execBara_wf h ..
  case barwp => exact execBarwp_wf h ..
  case binit => exact execBinit_wf h ..
  case sstat => exact execSstat_wf h ..
  case lkacq | lktry => exact lockInstr_wf h ..
  case lkrel => exact execLkrel_wf h ..
  case lkrelall => exact execLkrelall_wf h ..
  case lkreg => exact execLkreg_wf h ..
  case lkunreg => exact execLkunreg_wf h ..
  case lkmat => exact execLkmat_wf h ..
  case fence => exact execFence_wf h ..
  case elemAdd | elemSub | elemMul | elemMulh | elemMin | elemMax | elemAbs | elemNeg | elemAvg | elemAbsd | elemDiv | elemRem | elemAnd |
      elemOr | elemXor | elemNot | elemShl | elemShr | elemSra | elemRotl | elemClz | elemCtz | elemPopc | elemBrev | elemCeq | elemCne |
      elemClt | elemCle | elemCgt | elemCge | elemCnan | elemMov | elemFadd | elemFsub | elemFmul | elemFdiv | elemFmin | elemFmax |
      elemFabs | elemFneg | elemFsqrt | elemFrcp | elemFrsqrt | elemFscale | elemFexp2 | elemFlog2 | elemFtanh | elemFsigm | elemFgelu |
      elemFsilu | elemFerf | elemFsoftp | elemCvt | elemPack | elemUnpklo | elemUnpkhi | elemFround | elemFsign | elemIacc | elemFacc |
      elemImaxr | elemFmaxr | elemFamaxr | elemCnt => exact fireElement_wf h ..
  case memLd | memLds | memSt | memLdwf | memStwe | memLdwk | memAadd | memAmax | memAmin | memAswp | memAand | memAor | memAxor |
      memPfch => exact fireMem_wf h ..
  case opPass => exact execOpPass_wf h ..
  case opFork => exact execOpFork_wf h ..
  case opSteer => exact execOpSteer_wf h ..
  case opMerge => exact execOpMerge_wf h ..
  case opCarry => exact execOpCarry_wf h ..
  case opNullFill => exact execOpNullFill_wf h ..
  case opEgate | opEgateSw => exact fireGate_wf h ..
  case arcHop => exact execArcHop_wf h ..
  case configWordLoad => exact execConfigWordLoad_wf h ..
  case loopNConsume => exact execLoopNConsume_wf h ..
  case loopEmit => exact execLoopEmit_wf h ..
  case memAccessReply => exact execMemAccessReply_wf h ..
  case matrixNodeFire => exact execMatrixNodeFire_wf h ..
  case sportSourceAccess => exact execSportSourceAccess_wf h ..
  case sportSinkAccess => exact execSportSinkAccess_wf h ..
  case launchAdmit => exact execLaunchAdmit_wf h ..
  case threadTaskDispatch => exact execThreadTaskDispatch_wf h ..
  case placeFormation => exact execPlaceFormation_wf h ..
  case formationArm => exact execFormationArm_wf h ..
  case drainInject => exact execDrainInject_wf h ..
  case ctLoadReply => exact execCtLoadReply_wf h ..
  case storePerform => exact execStorePerform_wf h ..
  case pageWalk => exact execPageWalk_wf h ..
  case fillRingTake => exact execFillRingTake_wf h ..
  case fillComplete => exact execFillComplete_wf h ..
  case xinvDone => exact execXinvDone_wf h ..
  case syOperationApply => exact execSyOperationApply_wf h ..
  case asyncTrapEntry => exact execAsyncTrapEntry_wf h ..
  case sleepWake => exact execSleepWake_wf h ..
  case copyPromiseExpire => exact execCopyPromiseExpire_wf h ..
  case copyAccept => exact execCopyAccept_wf h ..
  case copyLand => exact execCopyLand_wf h ..
  case reservationRequest => exact execReservationRequest_wf h ..
  case reservationGrant => exact execReservationGrant_wf h ..
  case kStep => exact execKStep_wf h ..
  case mdrainExecute => exact execMdrainExecute_wf h ..
  case vectorStep => exact execVectorStep_wf h ..
  case topkExecute => exact execTopkExecute_wf h ..
  case predrowsExecute => exact execPredrowsExecute_wf h ..
  case prcheckExecute => exact execPrcheckExecute_wf h ..
  case gathExecute => exact execGathExecute_wf h ..
  case scatExecute => exact execScatExecute_wf h ..
  case faultHoldExpire => exact execFaultHoldExpire_wf h ..
  case reductionGapped => exact execReductionGapped_wf h ..
  case saveSeal => exact execSaveSeal_wf h ..
  case contextRestore => exact execContextRestore_wf h ..
  case guardDiscard => exact execGuardDiscard_wf h ..
  case teardownComplete => exact execTeardownComplete_wf h ..
  case detectorSweep => exact execDetectorSweep_wf h ..
  case samplePeriod => exact execSamplePeriod_wf h ..
  case arbiterPeriod => exact execArbiterPeriod_wf h ..
  case reelSend => exact execReelSend_wf h ..
  case reelShare => exact execReelShare_wf h ..
  case hbmThermalWindow => exact execHbmThermalWindow_wf h ..
  case currentLimit => exact execCurrentLimit_wf h ..
  case currentLimitClear => exact execCurrentLimitClear_wf h ..
  case junctionOvertemp => exact execJunctionOvertemp_wf h ..
  case supplyUndervolt => exact execSupplyUndervolt_wf h ..
  case edgeResendTimeout => exact execEdgeResendTimeout_wf h ..
  case powerOn => exact execPowerOn_wf h ..
  case hostFrame => exact execHostFrame_wf h ..
  case ptpFrame => exact execPtpFrame_wf h ..
  case peerFrame => exact execPeerFrame_wf h ..
  case peerFrameResend => exact execPeerFrameResend_wf h ..
  case peerTimeout => exact execPeerTimeout_wf h ..
  case peerRead => exact execPeerRead_wf h ..
  case peerReadReply | peerWriteAck | peerAtomicReply | peerRefusal => exact takeReply_wf h ..
  case peerWrite => exact execPeerWrite_wf h ..
  case peerAtomic => exact execPeerAtomic_wf h ..
  case reelMessage => exact execReelMessage_wf h ..
  case policyNotafter => exact execPolicyNotafter_wf h ..
  case hostNop => exact execHostNop_wf h ..
  case hostLaunch => exact execHostLaunch_wf h ..
  case hostWaitev => exact execHostWaitev_wf h ..
  case hostSigev => exact execHostSigev_wf h ..
  case hostMemrd => exact execHostMemrd_wf h ..
  case hostMemwr => exact execHostMemwr_wf h ..
  case hostXinv => exact execHostXinv_wf h ..
  case hostSetmask => exact execHostSetmask_wf h ..
  case hostCtxnew => exact execHostCtxnew_wf h ..
  case hostCtxdel => exact execHostCtxdel_wf h ..
  case hostSuspend => exact execHostSuspend_wf h ..
  case hostResume => exact execHostResume_wf h ..
  case hostQset | hostQadd => exact quotaCmd_wf h ..
  case hostPolicy => exact execHostPolicy_wf h ..
  case hostFlashrd => exact execHostFlashrd_wf h ..
  case hostFlashwr => exact execHostFlashwr_wf h ..
  case hostHalt => exact execHostHalt_wf h ..
  case hostRelease => exact execHostRelease_wf h ..
  case hostBreak => exact execHostBreak_wf h ..
  case hostDump => exact execHostDump_wf h ..
  case hostHstat => exact execHostHstat_wf h ..
  case hostCtrrd => exact execHostCtrrd_wf h ..
  case hostTimestat => exact execHostTimestat_wf h ..
  case hostTraceset => exact execHostTraceset_wf h ..
  case hostPartset => exact execHostPartset_wf h ..
  case hostLockmat => exact execHostLockmat_wf h ..
  case hostPeerwin => exact execHostPeerwin_wf h ..
  case hostFnbind => exact execHostFnbind_wf h ..
  case hostPower => exact execHostPower_wf h ..
  case hostAttest => exact execHostAttest_wf h ..
  case hostFwload => exact execHostFwload_wf h ..
  case hostReset => exact execHostReset_wf h ..
  case timeSliceDecision => exact execTimeSliceDecision_wf h ..
  case holdover => exact execHoldover_wf h ..

/-! ### Run -/

theorem runElemWord_wf {s : State} (h : Canonical s) (w : BitVec 32) : EndsCanonical (runElemWord w s) := by
  unfold runElemWord
  repeat' split
  all_goals first | exact (endsCanonical_next _).2 h | exact fireElement_wf h ..

theorem runMemWord_wf {s : State} (h : Canonical s) (w : BitVec 32) : EndsCanonical (runMemWord w s) := by
  unfold runMemWord
  repeat' split
  all_goals first | exact (endsCanonical_next _).2 h | exact fireMem_wf h ..

theorem runElement_wf {s : State} (h : Canonical s) (w : BitVec 32) : EndsCanonical (runElement w s) := by
  unfold runElement
  split
  · exact runElemWord_wf h _
  · exact runMemWord_wf h _

theorem runSwitch_wf {s : State} (h : Canonical s) (w : BitVec 16) : EndsCanonical (runSwitch w s) := by
  unfold runSwitch
  repeat' split
  all_goals first
    | exact (endsCanonical_next _).2 h
    | exact execOpPass_wf h ..
    | exact execOpFork_wf h ..
    | exact execOpSteer_wf h ..
    | exact execOpMerge_wf h ..
    | exact execOpCarry_wf h ..
    | exact execOpNullFill_wf h ..
    | exact fireGate_wf h ..

theorem runNode_wf {s : State} (h : Canonical s) (f n : Nat) : EndsCanonical (runNode f n s) := by
  unfold runNode
  repeat' split
  all_goals first | exact (endsCanonical_next _).2 h | exact runElement_wf (by exact h) _ | exact runSwitch_wf (by exact h) _

end Sys2Proof.Machine

/-! PROOFS. Every step keeps the canonical form of the memory (O56). -/

namespace Sys2Proof.Machine

/-! ### The turns of the agenda, and those of the device's own -/

theorem settleOut_wf {o : Out} (h : EndsCanonical o) : EndsCanonical (settleOut o) := by
  cases o with
  | next s => exact (endsCanonical_next _).2 (Canonical.of_cells (settleStruck_wf (h.next s rfl)) (settled_cells ..))
  | fault r => exact endsCanonical_fault r
  | refused r => exact endsCanonical_refused r

theorem runWord_wf (t : Nat) {p : State × Option (BitVec 32)} (h : Canonical p.1) : EndsCanonical (runWord t p) := by
  unfold runWord
  repeat' split
  · exact (endsCanonical_next _).2 h
  · exact exec_wf (by exact h) _
  · exact (endsCanonical_next _).2 (notInstr_wf h ..)

theorem issueFrom_wf {s : State} (h : Canonical s) (k c : Nat) : EndsCanonical (issueFrom k c s) := by
  induction k generalizing s with
  | zero => exact (endsCanonical_next _).2 h
  | succ k ih =>
    rw [issueFrom]
    split
    · exact (endsCanonical_next _).2 h
    · next t _ =>
      have hw := runWord_wf t (issuePrep_wf h t)
      split
      · next r hr =>
        split
        · exact ih (Canonical.of_cells (hw.next r hr) (modCluster_cells ..))
        · exact (endsCanonical_next _).2 (hw.next r hr)
      · exact hw

theorem issueTurn_wf {s : State} (h : Canonical s) (c : Nat) : EndsCanonical (issueTurn c s) :=
  issueFrom_wf h 16 c

theorem retryTurn_wf {s : State} (h : Canonical s) (t : Nat) : EndsCanonical (retryTurn t s) :=
  runWord_wf t (retryPrep_wf h t)

theorem runAct_wf {s : State} (h : Canonical s) (a : Act) : EndsCanonical (runAct a s) := by
  cases a with
  | issue c => exact issueTurn_wf h c
  | retry t => exact retryTurn_wf h t
  | fire f n => exact runNode_wf h f n
  | event i => exact exec_wf h i
  | env e => exact (endsCanonical_next _).2 (envStep_wf h e)
  | idle => exact (endsCanonical_next _).2 h

/-- A candidate that leaves a canonical memory canonical. -/
def KeepsCanonical (g : Candidate) : Prop := ∀ s, Canonical s → EndsCanonical (g s)
/-- Candidates that all do. -/
def AllKeepCanonical (l : List Candidate) : Prop := ∀ g ∈ l, KeepsCanonical g

theorem keepsCanonical_issueTurn (c : Nat) : KeepsCanonical (issueTurn c) := fun _ h => issueTurn_wf h c
theorem keepsCanonical_retryTurn (t : Nat) : KeepsCanonical (retryTurn t) := fun _ h => retryTurn_wf h t
theorem keepsCanonical_runNode (f n : Nat) : KeepsCanonical (runNode f n) := fun _ h => runNode_wf h f n

@[simp] theorem allKeepCanonical_nil : AllKeepCanonical [] := fun _ h => absurd h List.not_mem_nil
@[simp] theorem allKeepCanonical_cons (g : Candidate) (l : List Candidate) : AllKeepCanonical (g :: l) ↔ KeepsCanonical g ∧ AllKeepCanonical l :=
  List.forall_mem_cons
@[simp] theorem allKeepCanonical_append (l r : List Candidate) : AllKeepCanonical (l ++ r) ↔ AllKeepCanonical l ∧ AllKeepCanonical r :=
  List.forall_mem_append

theorem AllKeepCanonical.singleton {g : Candidate} (h : KeepsCanonical g) : AllKeepCanonical [g] :=
  List.forall_mem_singleton.2 h

theorem AllKeepCanonical.map {α : Type} {g : α → Candidate} (h : ∀ a, KeepsCanonical (g a)) (l : List α) : AllKeepCanonical (l.map g) := by
  intro c hc
  obtain ⟨a, -, rfl⟩ := List.mem_map.1 hc
  exact h a

theorem AllKeepCanonical.flatMap {α : Type} {g : α → List Candidate} (h : ∀ a, AllKeepCanonical (g a)) (l : List α) :
    AllKeepCanonical (l.flatMap g) := by
  intro c hc
  obtain ⟨a, -, ha⟩ := List.mem_flatMap.1 hc
  exact h a c ha

theorem AllKeepCanonical.rotate {l : List Candidate} (h : AllKeepCanonical l) (k : Nat) : AllKeepCanonical (rotate k l) := by
  intro c hc
  rcases List.mem_append.1 hc with hd | ht
  · exact h c (List.mem_of_mem_drop hd)
  · exact h c (List.mem_of_mem_take ht)

theorem firstMove_wf {s : State} (h : Canonical s) {l : List Candidate} (hl : AllKeepCanonical l) : Canonical ((firstMove s l).getD s) := by
  induction l with
  | nil => exact h
  | cons g gs ih =>
    obtain ⟨hg, hgs⟩ := (allKeepCanonical_cons g gs).1 hl
    rw [firstMove]
    split
    · next t ht =>
      split
      · exact ih hgs
      · exact (settleOut_wf (hg s h)).next t ht
    · exact ih hgs

theorem issueCands_keep (s : State) : AllKeepCanonical (issueCands s) :=
  .map keepsCanonical_issueTurn _

theorem threadCands_keep (s : State) : AllKeepCanonical (threadCands s) := .flatMap (fun t => by
  simp only [allKeepCanonical_cons]
  exact ⟨fun _ hs => exec_wf hs (.ctLoadReply t), fun _ hs => exec_wf hs (.storePerform t 0), fun _ hs => exec_wf hs (.sleepWake t),
      fun _ hs => exec_wf hs (.asyncTrapEntry t), keepsCanonical_retryTurn t, allKeepCanonical_nil⟩) _

theorem clusterCands_keep (c : Nat) (k : Cluster) : AllKeepCanonical (clusterCands c k) := by
  simp only [clusterCands, allKeepCanonical_append, allKeepCanonical_cons]
  refine ⟨⟨⟨.map (by exact fun h _ hs => exec_wf hs (.copyPromiseExpire c h.1)) _, .flatMap (fun u => ?_) _⟩, .flatMap (fun u => ?_) _⟩, ?_⟩
  · simp only [allKeepCanonical_cons]
    exact ⟨fun _ hs => exec_wf hs (.reservationRequest c u.1), fun _ hs => exec_wf hs (.reservationGrant c u.1), allKeepCanonical_nil⟩
  · simp only [allKeepCanonical_cons]
    exact ⟨fun _ hs => exec_wf hs (.kStep c u), fun _ hs => exec_wf hs (.mdrainExecute c u), allKeepCanonical_nil⟩
  · exact ⟨fun _ hs => exec_wf hs (.vectorStep c 4), fun _ hs => exec_wf hs (.vectorStep c 5), fun _ hs => exec_wf hs (.copyAccept c 6),
      fun _ hs => exec_wf hs (.copyLand c 6), fun _ hs => exec_wf hs (.copyAccept c 7), fun _ hs => exec_wf hs (.copyLand c 7),
          fun _ hs => exec_wf hs (.topkExecute c), fun _ hs => exec_wf hs (.predrowsExecute c), fun _ hs => exec_wf hs (.prcheckExecute c),
              fun _ hs => exec_wf hs (.gathExecute c), fun _ hs => exec_wf hs (.scatExecute c), allKeepCanonical_nil⟩

theorem unitCands_keep (s : State) : AllKeepCanonical (unitCands s) := .flatMap (fun k => by
  split
  · exact allKeepCanonical_nil
  · exact clusterCands_keep k.1 k.2) _

theorem nodeCands_keep (f : Nat) (fm : Form) (n : Nat) : AllKeepCanonical (nodeCands f fm n) := by
  unfold nodeCands
  split
  · exact allKeepCanonical_nil
  · refine (allKeepCanonical_append ..).2 ⟨?_, .flatMap (fun a => ?_) _⟩
    · split <;> simp only [allKeepCanonical_cons]
      · exact ⟨fun _ hs => exec_wf hs (.loopNConsume f n), fun _ hs => exec_wf hs (.loopEmit f n false), fun _ hs => exec_wf hs (.loopEmit f n true),
          allKeepCanonical_nil⟩
      · exact ⟨fun _ hs => exec_wf hs (.matrixNodeFire f n), allKeepCanonical_nil⟩
      · exact ⟨fun _ hs => exec_wf hs (.sportSourceAccess f n), fun _ hs => exec_wf hs (.sportSinkAccess f n), allKeepCanonical_nil⟩
      · exact ⟨keepsCanonical_runNode f n, allKeepCanonical_nil⟩
      · exact ⟨fun _ hs => exec_wf hs (.configWordLoad f n), keepsCanonical_runNode f n, allKeepCanonical_nil⟩
    · simp only [allKeepCanonical_cons]
      exact ⟨fun _ hs => exec_wf hs (.pageWalk false f n a.seq), fun _ hs => exec_wf hs (.memAccessReply f n a.seq),
          fun _ hs => exec_wf hs (.syOperationApply f n a.seq), allKeepCanonical_nil⟩

theorem arcCands_keep (f a : Nat) (ar : Arc) : AllKeepCanonical (arcCands f a ar) :=
  .map (by exact fun k _ hs => exec_wf hs (.arcHop f a k)) _

theorem formCands_keep (s : State) : AllKeepCanonical (formCands s) := .flatMap (fun p => by
  simp only [allKeepCanonical_append, allKeepCanonical_cons]
  refine ⟨.rotate ((allKeepCanonical_append ..).2 ⟨.flatMap (by exact nodeCands_keep p.1 p.2) _,
      .flatMap (by exact fun a => arcCands_keep p.1 a.2 a.1) _⟩) _, ?_⟩
  exact ⟨fun _ hs => exec_wf hs (.formationArm p.1), fun _ hs => exec_wf hs (.drainInject p.1), fun _ hs => exec_wf hs (.teardownComplete p.1),
      fun _ hs => exec_wf hs (.placeFormation p.1 [] [] []), allKeepCanonical_nil⟩) _

theorem hostCands_keep (q op : Nat) : AllKeepCanonical (hostCands q op) := by
  unfold hostCands
  split
  · exact .singleton (fun _ hs => exec_wf hs (.hostNop q))
  · exact .singleton (fun _ hs => exec_wf hs (.hostLaunch q))
  · exact .singleton (fun _ hs => exec_wf hs (.hostWaitev q))
  · exact .singleton (fun _ hs => exec_wf hs (.hostSigev q))
  · exact .singleton (fun _ hs => exec_wf hs (.hostMemrd q))
  · exact .singleton (fun _ hs => exec_wf hs (.hostMemwr q))
  · exact .singleton (fun _ hs => exec_wf hs (.hostXinv q))
  · exact .singleton (fun _ hs => exec_wf hs (.hostSetmask q))
  · exact .singleton (fun _ hs => exec_wf hs (.hostCtxnew q))
  · exact .singleton (fun _ hs => exec_wf hs (.hostCtxdel q))
  · exact .singleton (fun _ hs => exec_wf hs (.hostSuspend q))
  · exact .singleton (fun _ hs => exec_wf hs (.hostResume q))
  · exact .singleton (fun _ hs => exec_wf hs (.hostQset q))
  · exact .singleton (fun _ hs => exec_wf hs (.hostQadd q))
  · exact .singleton (fun _ hs => exec_wf hs (.hostPolicy q))
  · exact .singleton (fun _ hs => exec_wf hs (.hostFlashrd q))
  · exact .singleton (fun _ hs => exec_wf hs (.hostFlashwr q))
  · exact .singleton (fun _ hs => exec_wf hs (.hostHalt q))
  · exact .singleton (fun _ hs => exec_wf hs (.hostRelease q))
  · exact .singleton (fun _ hs => exec_wf hs (.hostBreak q))
  · exact .singleton (fun _ hs => exec_wf hs (.hostDump q))
  · exact .singleton (fun _ hs => exec_wf hs (.hostHstat q))
  · exact .singleton (fun _ hs => exec_wf hs (.hostCtrrd q))
  · exact .singleton (fun _ hs => exec_wf hs (.hostTimestat q))
  · exact .singleton (fun _ hs => exec_wf hs (.hostTraceset q))
  · exact .singleton (fun _ hs => exec_wf hs (.hostPartset q))
  · exact .singleton (fun _ hs => exec_wf hs (.hostLockmat q))
  · exact .singleton (fun _ hs => exec_wf hs (.hostPeerwin q))
  · exact .singleton (fun _ hs => exec_wf hs (.hostFnbind q))
  · exact .singleton (fun _ hs => exec_wf hs (.hostPower q))
  · exact .singleton (fun _ hs => exec_wf hs (.hostAttest q))
  · exact .singleton (fun _ hs => exec_wf hs (.hostFwload q []))
  · exact .singleton (fun _ hs => exec_wf hs (.hostReset q []))
  · exact allKeepCanonical_nil

theorem queueCands_keep (s : State) : AllKeepCanonical (queueCands s) := .flatMap (fun q => by
  split
  · exact hostCands_keep q.1 _
  · exact allKeepCanonical_nil) _

theorem messageCands_keep (k type : Nat) : AllKeepCanonical (messageCands k type) := by
  unfold messageCands
  split
  · exact .singleton (fun _ hs => exec_wf hs (.peerRead k))
  · exact .singleton (fun _ hs => exec_wf hs (.peerReadReply k))
  · exact .singleton (fun _ hs => exec_wf hs (.peerWrite k))
  · exact .singleton (fun _ hs => exec_wf hs (.peerWriteAck k))
  · exact .singleton (fun _ hs => exec_wf hs (.peerAtomic k))
  · exact .singleton (fun _ hs => exec_wf hs (.peerAtomicReply k))
  · exact .singleton (fun _ hs => exec_wf hs (.reelMessage k))
  · exact .singleton (fun _ hs => exec_wf hs (.peerRefusal k))

theorem launchCands_keep (s : State) : AllKeepCanonical (launchCands s) := .flatMap (fun l => by
  refine (allKeepCanonical_cons ..).2 ⟨fun _ hs => exec_wf hs (.launchAdmit l.1),
      .map (by exact fun k _ hs => exec_wf hs (.threadTaskDispatch l.1 k)) _⟩) _

theorem fillCands_keep (s : State) : AllKeepCanonical (fillCands s) := .flatMap (fun p => by
  simp only [allKeepCanonical_cons]
  exact ⟨fun _ hs => exec_wf hs (.fillRingTake (p.1 / 0x8000000) (p.1 % 0x8000000)),
      fun _ hs => exec_wf hs (.fillComplete (p.1 / 0x8000000) (p.1 % 0x8000000)), allKeepCanonical_nil⟩) _

theorem deviceCands_keep (s : State) : AllKeepCanonical (deviceCands s) := by
  simp only [deviceCands, allKeepCanonical_append]
  exact ⟨⟨⟨⟨⟨⟨launchCands_keep s, .map (by exact fun v _ hs => exec_wf hs (.contextRestore v.1 [] [] [] [])) _⟩, fillCands_keep s⟩,
    .map (by exact fun v _ hs => exec_wf hs (.xinvDone v.1)) _⟩, queueCands_keep s⟩, .flatMap (by exact fun m => messageCands_keep m.1 m.2.type) _⟩,
    .map (by exact fun c _ hs => exec_wf hs (.saveSeal c.1)) _⟩

theorem holdCands_keep (s : State) : AllKeepCanonical (holdCands s) :=
  (allKeepCanonical_append ..).2
    ⟨.flatMap (by exact fun k => .map (by exact fun u _ hs => exec_wf hs (.faultHoldExpire true k.1 u.1 0)) _) _,
     .flatMap (by exact fun f => .flatMap (by exact fun nd => .map (by exact fun k _ hs => exec_wf hs (.faultHoldExpire false f.1 nd.2 k)) _) _) _⟩

theorem gapCands_keep (s : State) : AllKeepCanonical (gapCands s) := .flatMap (fun c => by
  split
  · exact (allKeepCanonical_cons ..).2 ⟨fun _ hs => exec_wf hs (.reductionGapped _ _), allKeepCanonical_nil⟩
  · exact allKeepCanonical_nil) _

theorem timedCands_keep (s : State) : AllKeepCanonical (timedCands s) := by
  simp only [timedCands, allKeepCanonical_cons, allKeepCanonical_append]
  refine ⟨fun _ hs => exec_wf hs (.arbiterPeriod [25, 25, 25, 25]), fun _ hs => exec_wf hs .reelSend, fun _ hs => exec_wf hs .reelShare,
    ⟨⟨⟨⟨⟨.flatMap (fun c => ?_) _, .map (by exact fun f _ hs => exec_wf hs (.detectorSweep false f.1)) _⟩,
      .map (by exact fun r _ hs => exec_wf hs (.peerTimeout r.1)) _⟩, .map (by exact fun p _ hs => exec_wf hs (.peerFrameResend p.1)) _⟩,
      holdCands_keep s⟩, gapCands_keep s⟩, .map (by exact fun p _ hs => exec_wf hs (.timeSliceDecision p.1)) _⟩
  simp only [allKeepCanonical_cons]
  exact ⟨fun _ hs => exec_wf hs (.policyNotafter c.1), fun _ hs => exec_wf hs (.samplePeriod c.1), fun _ hs => exec_wf hs (.detectorSweep true c.1),
      allKeepCanonical_nil⟩

/-- What a turn with an empty agenda looks at: the steps that time brings, and then the groups in turn. -/
theorem freeCands_keep (s : State) :
    AllKeepCanonical (timedCands s ++ (rotate s.now [issueCands s, threadCands s, unitCands s, formCands s, deviceCands s]).flatten) := by
  have hgroup : ∀ l ∈ [issueCands s, threadCands s, unitCands s, formCands s, deviceCands s], AllKeepCanonical l := by
    simp only [List.forall_mem_cons]
    exact ⟨issueCands_keep s, threadCands_keep s, unitCands_keep s, formCands_keep s, deviceCands_keep s, fun _ h => absurd h List.not_mem_nil⟩
  refine (allKeepCanonical_append ..).2 ⟨timedCands_keep s, fun c hc => ?_⟩
  obtain ⟨l, hl, hcl⟩ := List.mem_flatten.1 hc
  refine hgroup l ?_ c hcl
  rcases List.mem_append.1 hl with hd | ht
  · exact List.mem_of_mem_drop hd
  · exact List.mem_of_mem_take ht

theorem freeTurn_wf {s : State} (h : Canonical s) : EndsCanonical (freeTurn s) := by
  have hs : Canonical (settled (passTime s 10)) := h.of_cells ((settled_cells _).trans (passTime_cells s 10))
  unfold freeTurn
  exact (endsCanonical_next _).2 (firstMove_wf hs (freeCands_keep _))

theorem step_wf {s : State} (h : Canonical s) : EndsCanonical (step s) := by
  unfold step
  split
  · exact freeTurn_wf h
  · next t rest _ =>
    have hp : Canonical (passTime { s with agenda := rest } t.elapsed) :=
      Canonical.of_cells (s := { s with agenda := rest }) h (passTime_cells ..)
    exact settleOut_wf (runAct_wf hp t.act)

/-- Settles O56: each function by which the model changes a state keeps the canonical form, so the turns of `step` do. -/
theorem stepKeepsMemoryCanonical : Obligations.StepKeepsMemoryCanonical := by
  unfold Obligations.StepKeepsMemoryCanonical
  exact fun s s' h hs => (step_wf h).next s' hs

end Sys2Proof.Machine

/-! PROOFS. Matrix instructions: their words, their issues, and a thread's place in a stream (O21). -/

namespace Sys2Proof.Machine

/-! ### The words of the matrix instructions (R225, R386) -/

theorem append_toNat {n m : Nat} (x : BitVec n) (y : BitVec m) : (x ++ y).toNat = x.toNat * 2 ^ m + y.toNat := by
  rw [BitVec.toNat_append, ← Nat.shiftLeft_add_eq_or_of_lt y.isLt, Nat.shiftLeft_eq]

/-- A word of form E as the number that a command keeps of it. -/
theorem wordE_toNat (major target : BitVec 6) (a b : BitVec 5) (minor : BitVec 10) :
    (wordE major target a b minor).toNat = formE major.toNat target.toNat a.toNat b.toNat minor.toNat := by
  simp only [wordE, formE, append_toNat]
  ring

/-- The word of an entry that holds a thread's place (log 48). -/
theorem formE_marker (stream op : Nat) : formE 0x32 stream 0 0 (64 * op) = 0x32 * 2 ^ 26 + stream * 2 ^ 20 + 64 * op := by
  unfold formE
  omega

section
variable (m p : BitVec 6) (a b : BitVec 5) (op : BitVec 4) (sr : BitVec 2) (f : BitVec 4)

theorem wordE_op : (wordE 0x32 m a b (op ++ p)).extractLsb' 6 4 = op := by
  rw [wordE_low _ _ _ _ _ _ _ (by decide), field_high _ _ _ _ (by decide)]; simp
theorem wordE_pair : (wordE 0x32 m a b (op ++ p)).extractLsb' 0 6 = p := by
  rw [wordE_low _ _ _ _ _ _ _ (by decide), field_low _ _ _ _ (by decide)]; simp

theorem wordE_ab (major : BitVec 6) (minor : BitVec 10) : (wordE major m a b minor).extractLsb' 10 10 = a ++ b := by
  rw [wordE, field_high _ _ _ _ (by decide)]
  ext i hi
  rw [BitVec.getElem_extractLsb', BitVec.getLsbD_append, BitVec.getLsbD_append, BitVec.getElem_append]
  by_cases hb : i < 5
  · simp [hb]
  · simp [hb, show i - 5 < 5 by omega]

theorem decodeControl_mma : decodeControl (wordE 0x32 m a b (0#4 ++ p)) = .ok (.mma m a b p) := by
  simp only [decodeControl, decodeMajor32, wordE_major, wordE_target, wordE_a, wordE_b, wordE_op, wordE_pair]; rfl
theorem decodeControl_mmaz : decodeControl (wordE 0x32 m a b (1#4 ++ p)) = .ok (.mmaz m a b p) := by
  simp only [decodeControl, decodeMajor32, wordE_major, wordE_target, wordE_a, wordE_b, wordE_op, wordE_pair]; rfl
theorem decodeControl_mdrain : decodeControl (wordE 0x32 m a b (2#4 ++ sr ++ f)) = .ok (.mdrain m a b sr f) := by
  have hop : (wordE 0x32 m a b (2#4 ++ sr ++ f)).extractLsb' 6 4 = 2#4 := by
    rw [wordE_low _ _ _ _ _ _ _ (by decide), field_high _ _ _ _ (by decide), field_high _ _ _ _ (by decide)]; simp
  have hsrc : (wordE 0x32 m a b (2#4 ++ sr ++ f)).extractLsb' 4 2 = sr := by
    rw [wordE_low _ _ _ _ _ _ _ (by decide), field_high _ _ _ _ (by decide), field_low _ _ _ _ (by decide)]; simp
  have hfmt : (wordE 0x32 m a b (2#4 ++ sr ++ f)).extractLsb' 0 4 = f := by
    rw [wordE_low _ _ _ _ _ _ _ (by decide), field_low _ _ _ _ (by decide)]; simp
  simp only [decodeControl, decodeMajor32, wordE_major, wordE_target, wordE_a, wordE_b, hop, hsrc, hfmt]; rfl
theorem decodeControl_msatr : decodeControl (wordE 0x32 m a 0 (3#4 ++ 0#6)) = .ok (.msatr m a) := by
  simp only [decodeControl, decodeMajor32, wordE_major, wordE_target, wordE_a, wordE_b, wordE_op, wordE_pair]; rfl
theorem decodeControl_mwait : decodeControl (wordE 0x32 m 0 0 (4#4 ++ 0#6)) = .ok (.mwait m) := by
  simp only [decodeControl, decodeMajor32, wordE_major, wordE_target, wordE_ab, wordE_op, wordE_pair]; rfl

end

/-! ### A place in a stream (R232) -/

theorem dropMarkers_threads (s : State) (t : Nat) : (dropMarkers s t).threads = s.threads := by
  unfold dropMarkers
  exact List.foldlRecOn [0, 1, 2, 3] _ (motive := fun r : State => r.threads = s.threads) rfl fun r hr u _ => by
    dsimp only; split <;> simp [hr]

theorem dropMarkers_sat (s : State) (t c : Nat) : (clusterAt (dropMarkers s t) c).sat = (clusterAt s c).sat := by
  unfold dropMarkers
  exact List.foldlRecOn [0, 1, 2, 3] _ (motive := fun r : State => (clusterAt r c).sat = (clusterAt s c).sat) rfl fun r hr u _ => by
    dsimp only
    split
    · by_cases hc : c = clusterOf t
      · subst hc; rw [setUnit, clusterAt_modCluster]; exact hr
      · rw [setUnit, clusterAt_modCluster_ne hc]; exact hr
    · exact hr

/-- A thread without an entry in its matrix engines has none to give up. -/
theorem dropMarkers_of_none {s : State} {t : Nat} (h : ∀ u, u < 4 → ∀ k ∈ (unitAt s (clusterOf t) u).queue, ¬(isMarker k = true ∧ k.tid = t)) :
    dropMarkers s t = s := by
  unfold dropMarkers
  refine List.foldlRecOn [0, 1, 2, 3] _ (motive := fun r : State => r = s) rfl fun r hr u hu => ?_
  subst hr
  have hn : (unitAt r (clusterOf t) u).queue.any (fun c => isMarker c && c.tid == t) = false := by
    simpa using h u (by fin_cases hu <;> decide)
  dsimp only
  rw [if_neg (by simp only [hn]; decide)]

theorem streamPlace_of_front (op : Nat) (go : State → State) {s : State} {t stream : Nat} (hr : (unitAt s (clusterOf t) (stream % 4)).running = none)
    (hq : (unitAt s (clusterOf t) (stream % 4)).queue = [] ∨
      ∃ k, (unitAt s (clusterOf t) (stream % 4)).queue.head? = some k ∧ isMarker k = true ∧ k.tid = t) :
    streamPlace s t stream op go = go (dropMarkers s t) := by
  rw [streamPlace, if_pos]
  obtain hq | ⟨k, hk, hm, ht⟩ := hq
  · simp [hr, hq]
  · simp [hr, hk, hm, ht]

/-! ### Issuing (R209, R225, R389) -/

section
variable {s : State} {t : Nat} {th : Thread} (h : Running s t th) (m p : BitVec 6) (a b : BitVec 5) (sr : BitVec 2) (f : BitVec 4)
include h

theorem checked_of_not (g : Nat → Thread → State) : checked s false g = .next (raiseTrap s t (illegalTrap 4)) := onThread_of h _

theorem issueTo_of {u : Nat} {c : Cmd} :
    issueTo s t u c (fun s => s) =
      if 8 ≤ (unitCmds (unitAt s (clusterOf t) u)).length then waiting s t th (.full (.unit u)) else completed (queued s (clusterOf t) u c) t th := by
  rw [issueTo, waitAt_of h.get, retire_of (th := th) (by simpa [setQueue] using h.get)]
  rfl

/-- A checked issue of a command that does nothing more. -/
theorem issues_of {i : Instr} {u reason : Nat} {c : Cmd} (hi : exec i s = .next (issueCmd s t u reason c fun s => s)) :
    Issues i s t th u reason c fun s => s := by
  refine ⟨fun hr => ?_, fun hr hf => ?_, fun hr hf => ?_⟩ <;> rw [hi, issueCmd]
  · rw [if_pos hr]; rfl
  · rw [if_neg (not_not.2 hr), issueTo_of h, if_pos hf]
  · rw [if_neg (not_not.2 hr), issueTo_of h, if_neg (Nat.not_le.2 hf)]

theorem issueMatrix_of (reason : Cmd → Nat) (minor : BitVec 10) :
    issueMatrix s true m a b minor.toNat reason =
      .next (issueCmd s t (m.toNat % 4) (reason (newCmd t th (wordE 0x32 m a b minor).toNat (regGet th a) (regGet th b) []))
        (newCmd t th (wordE 0x32 m a b minor).toNat (regGet th a) (regGet th b) []) fun s => s) := by
  rw [issueMatrix, checked_of h, wordE_toNat]; rfl

/-! ### Waiting for a place (R25, R232) -/

variable (op : Nat) (go : State → State)

/-- Behind another operation: the thread waits at the entry it has, at the engine while its queue is full, or at a new entry. -/
theorem streamPlace_of_behind {stream : Nat} (hb : (unitAt s (clusterOf t) (stream % 4)).running ≠ none ∨
      ∃ k, (unitAt s (clusterOf t) (stream % 4)).queue.head? = some k ∧ ¬(isMarker k = true ∧ k.tid = t)) :
    streamPlace s t stream op go =
      if (unitAt s (clusterOf t) (stream % 4)).queue.any (fun c => isMarker c && c.tid == t) then waiting s t th (.kstep stream)
      else if 8 ≤ (unitCmds (unitAt s (clusterOf t) (stream % 4))).length then waiting s t th (.full (.unit (stream % 4)))
      else waiting (setUnit s (clusterOf t) (stream % 4) { unitAt s (clusterOf t) (stream % 4) with
        queue := (unitAt s (clusterOf t) (stream % 4)).queue ++ [newCmd t th (formE 0x32 stream 0 0 (64 * op)) 0 0 []] }) t th (.kstep stream) := by
  rw [streamPlace, if_neg, waitAt_of h.get, waitAt_of h.get, h.get]
  · simp only [waitAt_of (show tblGet t (setUnit s _ _ _).threads = some th from h.get)]
  · obtain hr | ⟨k, hk, hm⟩ := hb
    · simp [hr]
    · have hne : (unitAt s (clusterOf t) (stream % 4)).queue ≠ [] := fun he => by simp [he] at hk
      simpa [hk, hne] using fun _ => hm

/-! ### The instructions, where their codes are allowed -/

theorem issues_mma (hok : mmaOk m p = true) :
    Issues (.mma m a b p) s t th (m.toNat % 4) (mmaReason (newCmd t th (wordE 0x32 m a b (0#4 ++ p)).toNat (regGet th a) (regGet th b) []))
      (newCmd t th (wordE 0x32 m a b (0#4 ++ p)).toNat (regGet th a) (regGet th b) []) fun s => s :=
  issues_of h (Eq.trans (b := issueMatrix s (mmaOk m p) m a b (0#4 ++ p).toNat mmaReason) (by rw [append_toNat]; simp; rfl)
    (by rw [hok]; exact issueMatrix_of h ..))

theorem issues_mmaz (hok : mmaOk m p = true) :
    Issues (.mmaz m a b p) s t th (m.toNat % 4) (mmaReason (newCmd t th (wordE 0x32 m a b (1#4 ++ p)).toNat (regGet th a) (regGet th b) []))
      (newCmd t th (wordE 0x32 m a b (1#4 ++ p)).toNat (regGet th a) (regGet th b) []) fun s => s :=
  issues_of h (Eq.trans (b := issueMatrix s (mmaOk m p) m a b (1#4 ++ p).toNat mmaReason) (by rw [append_toNat]; rfl)
    (by rw [hok]; exact issueMatrix_of h ..))

theorem issues_mdrain (hok : mdrainOk m sr f = true) :
    Issues (.mdrain m a b sr f) s t th (m.toNat % 4)
      (drainReason (newCmd t th (wordE 0x32 m a b (2#4 ++ sr ++ f)).toNat (regGet th a) (regGet th b) []))
      (newCmd t th (wordE 0x32 m a b (2#4 ++ sr ++ f)).toNat (regGet th a) (regGet th b) []) fun s => s :=
  issues_of h (Eq.trans (b := issueMatrix s (mdrainOk m sr f) m a b (2#4 ++ sr ++ f).toNat drainReason)
    (by rw [append_toNat, append_toNat, show (2#4).toNat * 2 ^ 2 = 8 from rfl, Nat.add_mul, Nat.mul_comm sr.toNat]; rfl)
    (by rw [hok]; exact issueMatrix_of h ..))

theorem execMsatr_of (hm : streamOk m = true) :
    exec (.msatr m a) s = .next (streamPlace s t m.toNat 3 fun s =>
      retireWith (satSet s (clusterOf t) (m.toNat % 8) false) t a (boolWord (satGet s (clusterOf t) (m.toNat % 8)))) := by
  change execMsatr m a s = _
  rw [execMsatr, hm, checked_of h]

theorem execMwait_of (hm : streamOk m = true) : exec (.mwait m) s = .next (streamPlace s t m.toNat 4 fun s => retire s t) := by
  change execMwait m s = _
  rw [execMwait, hm, checked_of h]

theorem msatr_dropMarkers (hm : m.toNat < 8) :
    retireWith (satSet (dropMarkers s t) (clusterOf t) (m.toNat % 8) false) t a (boolWord (satGet (dropMarkers s t) (clusterOf t) (m.toNat % 8))) =
      resulted (modCluster (dropMarkers s t) (clusterOf t) fun k => { k with sat := setDel m.toNat k.sat }) t th a
        (if setHas m.toNat (clusterAt s (clusterOf t)).sat then 1 else 0) := by
  rw [retireWith_of (th := th) (by simpa [satSet, dropMarkers_threads] using h.get), Nat.mod_eq_of_lt hm, satGet, dropMarkers_sat]
  rfl

end

/-- Settles O21: the words of the five instructions, the issues by the checks of their codes and of their command, and `msatr` and `mwait` by
the thread's place in the queue of its stream's engine. -/
theorem matrixCommands : Obligations.MatrixCommands := by
  unfold Obligations.MatrixCommands
  intro s t th m p a b sr f h cl u q cmd trap mine mark flag cleared
  have hs (hm : m.toNat < 8) : streamOk m = true := decide_eq_true (Nat.le_of_lt_succ hm)
  have hns (hm : 8 ≤ m.toNat) : streamOk m = false := decide_eq_false (by omega)
  refine ⟨decodeControl_mma m p a b, decodeControl_mmaz m p a b, decodeControl_mdrain m a b sr f, decodeControl_msatr m a, decodeControl_mwait m,
    ?mma, ?mmaBad, ?drain, ?drainBad, ?streamBad, ?empty, ?front, ?behind⟩
  case mma => 
    intro hm hp
    have hok : mmaOk m p = true := by simp only [mmaOk, hs hm, Bool.true_and, decide_eq_true_eq]; omega
    exact ⟨issues_mma h m p a b hok, issues_mmaz h m p a b hok⟩
  case mmaBad =>
    intro hbad
    have hok : mmaOk m p = false := by simp only [mmaOk, streamOk, Bool.and_eq_false_iff, decide_eq_false_iff_not]; omega
    have hbad (minor : Nat) : issueMatrix s (mmaOk m p) m a b minor mmaReason = .next trap := by rw [hok]; exact checked_of_not h _
    exact ⟨hbad _, hbad _⟩
  case drain =>
    intro hm hsr hf h1
    refine issues_mdrain h m a b sr f ?_
    simp only [mdrainOk, hs hm, Bool.true_and, Bool.and_eq_true, Bool.or_eq_true, decide_eq_true_eq]
    exact ⟨⟨hsr, hf⟩, or_iff_not_imp_left.2 fun h => h1 (not_not.1 h)⟩
  case drainBad =>
    intro hbad
    have hok : mdrainOk m sr f = false := by
      rcases hbad with hm | rfl | hf | ⟨rfl, hf⟩
      · simp [mdrainOk, hns hm]
      · simp [mdrainOk]
      · simp [mdrainOk, Nat.not_le.2 hf]
      · simp [mdrainOk, Nat.not_le.2 hf]
    exact Eq.trans (b := issueMatrix s (mdrainOk m sr f) m a b (128 + 16 * sr.toNat + f.toNat) drainReason) rfl
      (by rw [hok]; exact checked_of_not h _)
  case streamBad =>
    intro hm
    have hbad (g : Nat → Thread → State) : checked s (streamOk m) g = .next trap := by rw [hns hm]; exact checked_of_not h g
    exact ⟨hbad _, hbad _⟩
  case empty =>
    intro hm hr hq hnone
    have hd : dropMarkers s t = s := dropMarkers_of_none hnone
    have hgo := msatr_dropMarkers h m a hm
    rw [execMsatr_of h m a (hs hm), execMwait_of h m (hs hm), streamPlace_of_front _ _ hr (.inl hq), streamPlace_of_front _ _ hr (.inl hq), hgo, hd,
      retire_of h.get]
    exact ⟨rfl, rfl⟩
  case front =>
    intro hm hr hq
    have hgo := msatr_dropMarkers h m a hm
    rw [execMsatr_of h m a (hs hm), execMwait_of h m (hs hm), streamPlace_of_front _ _ hr (.inr hq), streamPlace_of_front _ _ hr (.inr hq), hgo,
      retire_of (th := th) (by simpa [dropMarkers_threads] using h.get)]
    exact ⟨rfl, rfl⟩
  case behind =>
    intro hm hb
    rw [execMsatr_of h m a (hs hm), execMwait_of h m (hs hm), streamPlace_of_behind h _ _ hb, streamPlace_of_behind h _ _ hb, formE_marker, formE_marker]
    have hmine : q.queue.any (fun c => isMarker c && c.tid == t) = true ↔ ∃ k ∈ q.queue, mine k := by simp [mine]
    refine ⟨fun hk => ?_, fun hk hf => ?_, fun hk hf => ?_⟩
    · exact ⟨congrArg _ (if_pos (hmine.2 hk)), congrArg _ (if_pos (hmine.2 hk))⟩
    · have hn : ¬q.queue.any (fun c => isMarker c && c.tid == t) = true := fun ha => (hmine.1 ha).elim fun k hk' => hk k hk'.1 hk'.2
      exact ⟨congrArg _ ((if_neg hn).trans (if_pos hf)), congrArg _ ((if_neg hn).trans (if_pos hf))⟩
    · have hn : ¬q.queue.any (fun c => isMarker c && c.tid == t) = true := fun ha => (hmine.1 ha).elim fun k hk' => hk k hk'.1 hk'.2
      exact ⟨congrArg _ ((if_neg hn).trans (if_neg (Nat.not_le.2 hf))), congrArg _ ((if_neg hn).trans (if_neg (Nat.not_le.2 hf)))⟩

end Sys2Proof.Machine

/-! PROOFS. Magnitudes of the floating formats, the neighbours of a number, and the rounding between them (O37). -/

namespace Sys2Proof.Machine

/-! ### Magnitudes of a floating format (R82) -/

/-- The magnitude pattern `p` of a format with `mb` fraction bits, in units of 2^-(bias + mb). -/
def magUnits (mb p : Nat) : Nat := if p / 2 ^ mb = 0 then 2 * p else (2 ^ mb + p % 2 ^ mb) * 2 ^ (p / 2 ^ mb)

theorem magUnits_of_normal {mb k q : Nat} (hlo : 2 ^ mb ≤ q) (hhi : q < 2 * 2 ^ mb) : magUnits mb (k * 2 ^ mb + q) = q * 2 ^ (k + 1) := by
  obtain ⟨m, rfl⟩ := Nat.exists_eq_add_of_le hlo
  have hm : m < 2 ^ mb := by omega
  have hdiv : (k * 2 ^ mb + (2 ^ mb + m)) / 2 ^ mb = k + 1 := by
    rw [show k * 2 ^ mb + (2 ^ mb + m) = m + (k + 1) * 2 ^ mb by ring, Nat.add_mul_div_right _ _ (Nat.two_pow_pos mb),
      Nat.div_eq_of_lt hm, Nat.zero_add]
  have hmod : (k * 2 ^ mb + (2 ^ mb + m)) % 2 ^ mb = m := by
    rw [show k * 2 ^ mb + (2 ^ mb + m) = m + (k + 1) * 2 ^ mb by ring, Nat.add_mul_mod_self_right, Nat.mod_eq_of_lt hm]
  rw [magUnits, hdiv, hmod, if_neg (Nat.succ_ne_zero k)]

theorem magUnits_of_subnormal {mb p : Nat} (h : p < 2 ^ mb) : magUnits mb p = 2 * p := by
  rw [magUnits, if_pos (Nat.div_eq_of_lt h)]

/-- Neighbouring magnitudes differ by one unit of the exponent that the lower one has. -/
theorem magUnits_succ (mb p : Nat) : magUnits mb (p + 1) = magUnits mb p + 2 ^ max (p / 2 ^ mb) 1 := by
  have hT := Nat.two_pow_pos mb
  have hp : p / 2 ^ mb * 2 ^ mb + p % 2 ^ mb = p := Nat.div_add_mod' p _
  have hm := Nat.mod_lt p hT
  generalize p / 2 ^ mb = e at hp ⊢
  generalize p % 2 ^ mb = m at hp hm
  subst hp
  rcases e with _ | e
  · rcases Nat.lt_or_ge (m + 1) (2 ^ mb) with h | h
    · rw [Nat.zero_mul, Nat.zero_add, magUnits_of_subnormal h, magUnits_of_subnormal hm]; rfl
    · have hn := magUnits_of_normal (k := 0) (q := m + 1) h (by omega)
      rw [Nat.zero_mul, Nat.zero_add] at hn ⊢
      rw [hn, magUnits_of_subnormal hm]; simp; ring
  · have he : max (e + 1) 1 = e + 1 := by omega
    have hn (j : Nat) (hj : j < 2 ^ mb) : magUnits mb ((e + 1) * 2 ^ mb + j) = (2 ^ mb + j) * 2 ^ (e + 1) := by
      rw [show (e + 1) * 2 ^ mb + j = e * 2 ^ mb + (2 ^ mb + j) by ring]
      exact magUnits_of_normal (Nat.le_add_right _ _) (by omega)
    rw [he, hn m hm]
    rcases Nat.lt_or_ge (m + 1) (2 ^ mb) with h | h
    · rw [Nat.add_assoc, hn _ h]; ring
    · have hm1 : m + 1 = 2 ^ mb := by omega
      rw [Nat.add_assoc, hm1, magUnits_of_normal (Nat.le_refl _) (by omega), ← Nat.succ_mul, Nat.succ_eq_add_one,
        show 2 ^ mb + m + 1 = 2 ^ mb + 2 ^ mb by omega]
      ring

theorem magUnits_strictMono (mb : Nat) : StrictMono (magUnits mb) :=
  strictMono_nat_of_lt_succ fun p => by rw [magUnits_succ]; exact Nat.lt_add_of_pos_right (Nat.two_pow_pos _)

theorem magUnits_zero (mb : Nat) : magUnits mb 0 = 0 := by rw [magUnits_of_subnormal (Nat.two_pow_pos mb)]

/-- A number lies between one pair of neighbours only. -/
theorem magUnits_between {mb p q x d : Nat} (hp : magUnits mb p * d ≤ x) (hp' : x < magUnits mb (p + 1) * d) (hq : magUnits mb q * d ≤ x)
    (hq' : x < magUnits mb (q + 1) * d) : p = q := by
  have h1 := (magUnits_strictMono mb).lt_iff_lt.1 (Nat.lt_of_mul_lt_mul_right (hp.trans_lt hq'))
  have h2 := (magUnits_strictMono mb).lt_iff_lt.1 (Nat.lt_of_mul_lt_mul_right (hq.trans_lt hp'))
  omega

/-! ### What a pattern stands for (R82) -/

/-- The number of units in 1. -/
def oneUnits (g : Fmt) : Nat := 2 ^ ((floatShape g).bias + (floatShape g).mbits)

theorem oneUnits_pos (g : Fmt) : 0 < oneUnits g := Nat.two_pow_pos _

theorem floatVal_fin {g : Fmt} {p n d : Nat} {neg : Bool} (h : floatVal g p = .fin neg n d) :
    neg = decide (p / 2 ^ ((floatShape g).mbits + (floatShape g).ebits) % 2 = 1) ∧ 0 < d ∧
      n * oneUnits g = magUnits (floatShape g).mbits (p % 2 ^ ((floatShape g).mbits + (floatShape g).ebits)) * d := by
  have hbias : 1 ≤ (floatShape g).bias := by cases g <;> decide
  have hdiv : p % 2 ^ ((floatShape g).mbits + (floatShape g).ebits) / 2 ^ (floatShape g).mbits =
      p / 2 ^ (floatShape g).mbits % 2 ^ (floatShape g).ebits := by
    rw [Nat.pow_add, Nat.mod_mul_right_div_self]
  have hmod : p % 2 ^ ((floatShape g).mbits + (floatShape g).ebits) % 2 ^ (floatShape g).mbits = p % 2 ^ (floatShape g).mbits := by
    rw [Nat.pow_add, Nat.mod_mul_right_mod]
  rw [magUnits, hdiv, hmod, oneUnits]
  unfold floatVal at h
  extract_lets sh m e sign mag at h
  change 1 ≤ sh.bias at hbias
  change _ ∧ _ ∧ n * 2 ^ (sh.bias + sh.mbits) = (if e = 0 then 2 * mag else (2 ^ sh.mbits + m) * 2 ^ e) * d
  have hmag : e = 0 → mag = m := fun he => by
    change p % 2 ^ (sh.mbits + sh.ebits) = p % 2 ^ sh.mbits
    rw [Nat.pow_add, Nat.mod_mul, show p / 2 ^ sh.mbits % 2 ^ sh.ebits = 0 from he, Nat.mul_zero, Nat.add_zero]
  split at h
  · contradiction
  split at h
  · split at h <;> contradiction
  split at h
  · next he =>
    obtain ⟨hneg, hn, hd⟩ := XVal.fin.inj h
    rw [← hn, ← hd]
    refine ⟨hneg.symm, Nat.two_pow_pos _, ?_⟩
    rw [if_pos he, hmag he, show sh.bias + sh.mbits = sh.bias - 1 + sh.mbits + 1 by omega, Nat.pow_succ]
    ring
  split at h
  · next he hle =>
    obtain ⟨hneg, hn, hd⟩ := XVal.fin.inj h
    rw [← hn, ← hd]
    refine ⟨hneg.symm, Nat.one_pos, ?_⟩
    rw [if_neg he, Nat.mul_one, Nat.mul_assoc, ← Nat.pow_add, show e - sh.bias - sh.mbits + (sh.bias + sh.mbits) = e by omega]
  · next he hlt =>
    obtain ⟨hneg, hn, hd⟩ := XVal.fin.inj h
    rw [← hn, ← hd]
    refine ⟨hneg.symm, Nat.two_pow_pos _, ?_⟩
    rw [if_neg he, Nat.mul_assoc, ← Nat.pow_add, show e + (sh.bias + sh.mbits - e) = sh.bias + sh.mbits by omega]

/-! ### The exponent of a number -/

/-- A comparison with a power of two does not depend on how its exponent is written as a difference. -/
theorem mul_two_pow_lt_iff {x y a b a' b' : Nat} (h : a + b' = a' + b) : x * 2 ^ b < y * 2 ^ a ↔ x * 2 ^ b' < y * 2 ^ a' := by
  calc x * 2 ^ b < y * 2 ^ a
      ↔ x * 2 ^ b * 2 ^ b' < y * 2 ^ a * 2 ^ b' := (Nat.mul_lt_mul_right (Nat.two_pow_pos b')).symm
    _ ↔ x * 2 ^ b' * 2 ^ b < y * 2 ^ a' * 2 ^ b := by
      rw [Nat.mul_assoc y, ← Nat.pow_add, h, Nat.mul_right_comm x, Nat.mul_assoc y, ← Nat.pow_add]
    _ ↔ x * 2 ^ b' < y * 2 ^ a' := Nat.mul_lt_mul_right (Nat.two_pow_pos b)

theorem floorLog2_eq {n d : Nat} :
    floorLog2 n d = if n * 2 ^ Nat.log2 d < d * 2 ^ Nat.log2 n then (Nat.log2 n : Int) - Nat.log2 d - 1 else (Nat.log2 n : Int) - Nat.log2 d := by
  have hbelow : (if 0 ≤ (Nat.log2 n : Int) - Nat.log2 d then decide (n < d * 2 ^ ((Nat.log2 n : Int) - Nat.log2 d).toNat)
      else decide (n * 2 ^ (-((Nat.log2 n : Int) - Nat.log2 d)).toNat < d)) = decide (n * 2 ^ Nat.log2 d < d * 2 ^ Nat.log2 n) := by
    split
    · have := mul_two_pow_lt_iff (x := n) (y := d) (a := ((Nat.log2 n : Int) - Nat.log2 d).toNat) (b := 0) (a' := Nat.log2 n)
        (b' := Nat.log2 d) (by omega)
      simpa using this
    · have := mul_two_pow_lt_iff (x := n) (y := d) (a := 0) (b := (-((Nat.log2 n : Int) - Nat.log2 d)).toNat) (a' := Nat.log2 n)
        (b' := Nat.log2 d) (by omega)
      simpa using this
  unfold floorLog2
  extract_lets e below
  rw [show below = decide (n * 2 ^ Nat.log2 d < d * 2 ^ Nat.log2 n) from hbelow]
  simp only [decide_eq_true_eq, e]

/-- n / d lies in [2^e, 2^(e + 1)), with the power written as 2^(a - b). -/
theorem floorLog2_spec {n d a b : Nat} (hn : n ≠ 0) (hd : d ≠ 0) (hab : (a : Int) - b = floorLog2 n d) :
    d * 2 ^ a ≤ n * 2 ^ b ∧ n * 2 ^ b < 2 * d * 2 ^ a := by
  have hn1 := Nat.log2_self_le hn
  have hn2 := Nat.lt_log2_self (n := n)
  have hd1 := Nat.log2_self_le hd
  have hd2 := Nat.lt_log2_self (n := d)
  rw [floorLog2_eq] at hab
  split at hab
  · next hlt =>
    rw [← Nat.not_lt, mul_two_pow_lt_iff (a' := Nat.log2 n) (b' := Nat.log2 d + 1) (by omega),
      mul_two_pow_lt_iff (y := 2 * d) (a' := Nat.log2 n) (b' := Nat.log2 d + 1) (by omega), Nat.not_lt]
    refine ⟨?_, ?_⟩
    · rw [Nat.mul_comm d]
      exact Nat.mul_le_mul hn1 hd2.le
    · rw [Nat.pow_succ, ← Nat.mul_assoc, Nat.mul_comm _ 2, Nat.mul_assoc 2 d]
      exact Nat.mul_lt_mul_of_pos_left hlt Nat.two_pos
  · next hge =>
    rw [← Nat.not_lt, mul_two_pow_lt_iff (a' := Nat.log2 n) (b' := Nat.log2 d) (by omega),
      mul_two_pow_lt_iff (y := 2 * d) (a' := Nat.log2 n) (b' := Nat.log2 d) (by omega)]
    refine ⟨hge, ?_⟩
    calc n * 2 ^ Nat.log2 d < 2 ^ (Nat.log2 n + 1) * 2 ^ Nat.log2 d := Nat.mul_lt_mul_of_pos_right hn2 (Nat.two_pow_pos _)
      _ = 2 * 2 ^ Nat.log2 d * 2 ^ Nat.log2 n := by ring
      _ ≤ 2 * d * 2 ^ Nat.log2 n := Nat.mul_le_mul_right _ (Nat.mul_le_mul_left 2 hd1)

/-! ### Rounding between two neighbours (R78, R84) -/

/-- Whether the number with `twice` its value between `below` and `above`, all over one denominator, goes to the upper one; `p` is the pattern of
the lower one. -/
def roundsBetween (mode : Rnd) (neg : Bool) (p twice below above : Nat) : Bool :=
  match mode with
  | .rne => decide (below + above < twice ∨ (twice = below + above ∧ p % 2 = 1))
  | .rz => false
  | .ru => !neg && decide (below * 2 ≠ twice)
  | .rd => neg && decide (below * 2 ≠ twice)

theorem roundsBetween_scale {c : Nat} (hc : 0 < c) (mode : Rnd) (neg : Bool) (p t b a : Nat) :
    roundsBetween mode neg p (c * t) (c * b) (c * a) = roundsBetween mode neg p t b a := by
  have hlt : c * b + c * a < c * t ↔ b + a < t := by rw [← Nat.mul_add]; exact Nat.mul_lt_mul_left hc
  have heq : c * t = c * b + c * a ↔ t = b + a := by rw [← Nat.mul_add]; exact Nat.mul_right_inj hc.ne'
  have hne : c * b * 2 = c * t ↔ b * 2 = t := by rw [Nat.mul_assoc]; exact Nat.mul_right_inj hc.ne'
  cases mode <;> simp only [roundsBetween, hlt, heq, hne, ne_eq]

theorem roundsBetween_parity {p q : Nat} (h : p % 2 = q % 2) (mode : Rnd) (neg : Bool) (t b a : Nat) :
    roundsBetween mode neg p t b a = roundsBetween mode neg q t b a := by
  cases mode <;> simp only [roundsBetween, h]

/-- `roundNat` goes by the two integers about a quotient. -/
theorem roundsUp_eq {d : Nat} (mode : Rnd) (neg : Bool) (n : Nat) :
    roundsUp mode neg (n / d) (n % d) d = roundsBetween mode neg (n / d) (2 * n) (n / d * d) ((n / d + 1) * d) := by
  have hn : n / d * d + n % d = n := Nat.div_add_mod' n d
  rw [Nat.add_mul, Nat.one_mul]
  generalize n / d * d = b at hn ⊢
  generalize n % d = r at hn ⊢
  subst hn
  have hne : r ≠ 0 ↔ b * 2 ≠ 2 * (b + r) := by omega
  cases mode with
  | rne =>
    have hlt : d < 2 * r ↔ b + (b + d) < 2 * (b + r) := by omega
    have heq : 2 * r = d ↔ 2 * (b + r) = b + (b + d) := by omega
    simp only [roundsUp, roundsBetween, hlt, heq, Bool.decide_or, Bool.decide_and]
  | rz => rfl
  | ru => simp only [roundsUp, roundsBetween, hne]
  | rd => simp only [roundsUp, roundsBetween, hne]

/-- A magnitude pattern that rounding has come to, one beyond the largest being an overflow (R84). -/
def roundedTo (g : Fmt) (mode : Rnd) (sat neg : Bool) (bits : Nat) : Nat :=
  if (floatShape g).largest < bits then overflowOf g mode sat neg false else signBit g neg + bits

/-- Over `q` units of the exponent field `k` stands the magnitude of that field and the fraction that `q` gives. -/
theorem magUnits_field {mb k q : Nat} (hhi : q < 2 * 2 ^ mb) (hlo : k ≠ 0 → 2 ^ mb ≤ q) :
    magUnits mb (k * 2 ^ mb + q) = q * 2 ^ (k + 1) ∧ magUnits mb (k * 2 ^ mb + q + 1) = (q + 1) * 2 ^ (k + 1) := by
  have hT := Nat.two_pow_pos mb
  have hq : magUnits mb (k * 2 ^ mb + q) = q * 2 ^ (k + 1) ∧ max ((k * 2 ^ mb + q) / 2 ^ mb) 1 = k + 1 := by
    rcases Nat.lt_or_ge q (2 ^ mb) with h | h
    · obtain rfl : k = 0 := by by_contra hk; exact absurd (hlo hk) (Nat.not_le.2 h)
      rw [Nat.zero_mul, Nat.zero_add, magUnits_of_subnormal h, Nat.div_eq_of_lt h]
      exact ⟨Nat.mul_comm .., rfl⟩
    · refine ⟨magUnits_of_normal h hhi, ?_⟩
      rw [Nat.add_comm, Nat.add_mul_div_right _ _ hT, Nat.div_eq_of_lt_le (m := q) (k := 1) (by omega) (by omega)]
      omega
  rw [magUnits_succ, hq.1, hq.2]
  exact ⟨rfl, by ring⟩

/-- `rnd` rounds to an integer the number in units of 2^(a - b), the spacing at its exponent field `k`. -/
theorem rnd_eq_roundedTo (g : Fmt) (mode : Rnd) (sat neg : Bool) {n d : Nat} (hn : n ≠ 0) :
    ∃ k a b : Nat, k = (floorLog2 n d - (1 - ((floatShape g).bias : Int))).toNat ∧
      (a : Int) - b = 1 - ((floatShape g).bias : Int) + k - (floatShape g).mbits ∧
      rnd g mode sat (.fin neg n d) = roundedTo g mode sat neg (k * 2 ^ (floatShape g).mbits + roundNat mode neg (n * 2 ^ b) (d * 2 ^ a)) := by
  generalize hk : (floorLog2 n d - (1 - ((floatShape g).bias : Int))).toNat = k
  generalize hu : 1 - ((floatShape g).bias : Int) + k - (floatShape g).mbits = u
  refine ⟨k, u.toNat, (-u).toNat, rfl, by omega, ?_⟩
  simp only [rnd, if_neg hn, hk, hu, roundedTo]
  split
  · next h => rw [show (-u).toNat = 0 by omega, Nat.pow_zero, Nat.mul_one]
  · next h => rw [show u.toNat = 0 by omega, Nat.pow_zero, Nat.mul_one]

/-- The magnitude that stands under a number, and to which of its two neighbours `rnd` takes it. -/
theorem rnd_fin (g : Fmt) (mode : Rnd) (sat neg : Bool) {n d : Nat} (hn : n ≠ 0) (hd : d ≠ 0) :
    ∃ p, magUnits (floatShape g).mbits p * d ≤ n * oneUnits g ∧ n * oneUnits g < magUnits (floatShape g).mbits (p + 1) * d ∧
      rnd g mode sat (.fin neg n d) = roundedTo g mode sat neg
        (if roundsBetween mode neg p (2 * (n * oneUnits g)) (magUnits (floatShape g).mbits p * d) (magUnits (floatShape g).mbits (p + 1) * d)
          then p + 1 else p) := by
  have hmb : 2 ^ (floatShape g).mbits % 2 = 0 := by cases g <;> rfl
  obtain ⟨k, a, b, hk, hab, hrnd⟩ := rnd_eq_roundedTo g mode sat neg (d := d) hn
  rw [hrnd, roundNat, roundsUp_eq, oneUnits]
  generalize floatShape g = sh at *
  have hB : 0 < d * 2 ^ a := Nat.mul_pos (Nat.pos_of_ne_zero hd) (Nat.two_pow_pos a)
  generalize hA : n * 2 ^ b = A
  generalize hBd : d * 2 ^ a = B at *
  have hq : A / B < 2 * 2 ^ sh.mbits ∧ (k ≠ 0 → 2 ^ sh.mbits ≤ A / B) := by
    obtain ⟨hlo, hhi⟩ := floorLog2_spec (a := a + sh.mbits) (b := b + (1 - (sh.bias : Int) + k - floorLog2 n d).toNat) hn hd (by omega)
    rw [Nat.div_lt_iff_lt_mul hB, Nat.le_div_iff_mul_le hB]
    constructor
    · calc A ≤ n * 2 ^ (b + (1 - (sh.bias : Int) + k - floorLog2 n d).toNat) :=
          hA ▸ Nat.mul_le_mul_left n (Nat.pow_le_pow_right Nat.two_pos (Nat.le_add_right ..))
        _ < 2 * d * 2 ^ (a + sh.mbits) := hhi
        _ = 2 * 2 ^ sh.mbits * B := by rw [← hBd]; ring
    · intro hk0
      rw [show (1 - (sh.bias : Int) + k - floorLog2 n d).toNat = 0 by omega, Nat.add_zero, hA] at hlo
      calc 2 ^ sh.mbits * B = d * 2 ^ (a + sh.mbits) := by rw [← hBd]; ring
        _ ≤ A := hlo
  obtain ⟨hp, hp1⟩ := magUnits_field hq.1 hq.2
  have hscale : n * 2 ^ (sh.bias + sh.mbits) * B = A * (2 ^ (k + 1) * d) := by
    rw [← hA, ← hBd]
    calc n * 2 ^ (sh.bias + sh.mbits) * (d * 2 ^ a) = n * d * 2 ^ (sh.bias + sh.mbits + a) := by ring
      _ = n * d * 2 ^ (b + (k + 1)) := by rw [show sh.bias + sh.mbits + a = b + (k + 1) by omega]
      _ = n * 2 ^ b * (2 ^ (k + 1) * d) := by ring
  generalize n * 2 ^ (sh.bias + sh.mbits) = x at hscale ⊢
  have hC : 0 < 2 ^ (k + 1) * d := Nat.mul_pos (Nat.two_pow_pos _) (Nat.pos_of_ne_zero hd)
  generalize hCd : 2 ^ (k + 1) * d = C at hscale hC
  refine ⟨k * 2 ^ sh.mbits + A / B, ?_, ?_, ?_⟩
  · rw [hp, Nat.mul_assoc, hCd]
    refine Nat.le_of_mul_le_mul_right ?_ hB
    calc A / B * C * B = A / B * B * C := Nat.mul_right_comm ..
      _ ≤ A * C := Nat.mul_le_mul_right C (Nat.div_mul_le_self A B)
      _ = x * B := hscale.symm
  · rw [hp1, Nat.mul_assoc, hCd]
    refine Nat.lt_of_mul_lt_mul_right (a := B) ?_
    calc x * B = A * C := hscale
      _ < (A / B + 1) * B * C := Nat.mul_lt_mul_of_pos_right (Nat.mul_comm B _ ▸ Nat.lt_mul_div_succ A hB) hC
      _ = (A / B + 1) * C * B := Nat.mul_right_comm ..
  · have hup : roundsBetween mode neg (A / B) (2 * A) (A / B * B) ((A / B + 1) * B) =
        roundsBetween mode neg (k * 2 ^ sh.mbits + A / B) (2 * x) (A / B * C) ((A / B + 1) * C) := by
      calc roundsBetween mode neg (A / B) (2 * A) (A / B * B) ((A / B + 1) * B)
          = roundsBetween mode neg (A / B) (C * (2 * A)) (C * (A / B * B)) (C * ((A / B + 1) * B)) := (roundsBetween_scale hC ..).symm
        _ = roundsBetween mode neg (A / B) (B * (2 * x)) (B * (A / B * C)) (B * ((A / B + 1) * C)) := by
          congr 1
          · rw [Nat.mul_left_comm, Nat.mul_comm C, ← hscale]; ring
          · ring
          · ring
        _ = roundsBetween mode neg (A / B) (2 * x) (A / B * C) ((A / B + 1) * C) := roundsBetween_scale hB ..
        _ = _ := roundsBetween_parity (by rw [Nat.add_mod, Nat.mul_mod, hmb]; simp) ..
    rw [hp, hp1, Nat.mul_assoc, Nat.mul_assoc, hCd, hup]
    split <;> rfl

/-! ### The obligation -/

theorem largest_lt (g : Fmt) : (floatShape g).largest + 1 < 2 ^ ((floatShape g).mbits + (floatShape g).ebits) := by cases g <;> decide

/-- The value of a magnitude pattern. -/
theorem floatVal_magnitude {g : Fmt} {p n d : Nat} {neg : Bool} (hp : p ≤ (floatShape g).largest + 1) (h : floatVal g p = .fin neg n d) :
    0 < d ∧ n * oneUnits g = magUnits (floatShape g).mbits p * d := by
  obtain ⟨-, hd, hn⟩ := floatVal_fin h
  rw [Nat.mod_eq_of_lt (hp.trans_lt (largest_lt g))] at hn
  exact ⟨hd, hn⟩

theorem roundedTo_of_le {g : Fmt} {mode : Rnd} {sat neg : Bool} {bits : Nat} (h : bits ≤ (floatShape g).largest) :
    roundedTo g mode sat neg bits = signBit g neg + bits := if_neg (Nat.not_lt.2 h)

/-- Between neighbours given as fractions, `rnd` goes by the comparison of the fractions. -/
theorem rnd_between {g : Fmt} {mode : Rnd} {sat neg : Bool} {n d p lo lod hi hid : Nat} (hn : n ≠ 0) (hd : d ≠ 0) (hlod : 0 < lod) (hhid : 0 < hid)
    (hlo : lo * oneUnits g = magUnits (floatShape g).mbits p * lod) (hhi : hi * oneUnits g = magUnits (floatShape g).mbits (p + 1) * hid)
    (hle : lo * d ≤ n * lod) (hlt : n * hid < hi * d) :
    rnd g mode sat (.fin neg n d) =
      roundedTo g mode sat neg (if roundsBetween mode neg p (2 * n * lod * hid) (lo * hid * d) (hi * lod * d) then p + 1 else p) := by
  obtain ⟨q, hq, hq1, hr⟩ := rnd_fin g mode sat neg hn hd
  have hU := oneUnits_pos g
  generalize oneUnits g = U at *
  have hp : magUnits (floatShape g).mbits p * d ≤ n * U := Nat.le_of_mul_le_mul_right (c := lod) (by
    calc magUnits (floatShape g).mbits p * d * lod = lo * d * U := by rw [Nat.mul_right_comm, ← hlo]; ring
      _ ≤ n * lod * U := Nat.mul_le_mul_right U hle
      _ = n * U * lod := Nat.mul_right_comm ..) hlod
  have hp1 : n * U < magUnits (floatShape g).mbits (p + 1) * d := Nat.lt_of_mul_lt_mul_right (a := hid) (by
    calc n * U * hid = n * hid * U := Nat.mul_right_comm ..
      _ < hi * d * U := Nat.mul_lt_mul_of_pos_right hlt hU
      _ = magUnits (floatShape g).mbits (p + 1) * d * hid := by rw [Nat.mul_right_comm, hhi]; ring)
  obtain rfl := magUnits_between hp hp1 hq hq1
  rw [hr, ← roundsBetween_scale (c := U) hU _ _ _ (2 * n * lod * hid), ← roundsBetween_scale (c := lod * hid) (Nat.mul_pos hlod hhid) _ _ _ (2 * (n * U)),
    show lod * hid * (2 * (n * U)) = U * (2 * n * lod * hid) by ring,
    show lod * hid * (magUnits (floatShape g).mbits p * d) = U * (lo * hid * d) by
      calc _ = magUnits (floatShape g).mbits p * lod * (hid * d) := by ring
        _ = _ := by rw [← hlo]; ring,
    show lod * hid * (magUnits (floatShape g).mbits (p + 1) * d) = U * (hi * lod * d) by
      calc _ = magUnits (floatShape g).mbits (p + 1) * hid * (lod * d) := by ring
        _ = _ := by rw [← hhi]; ring]

/-- From the multiple of the spacing that follows the largest magnitude on, a number overflows. -/
theorem rnd_beyond {g : Fmt} {mode : Rnd} {sat neg : Bool} {n d : Nat} (hn : n ≠ 0) (hd : d ≠ 0)
    (h : magUnits (floatShape g).mbits ((floatShape g).largest + 1) * d ≤ n * oneUnits g) :
    rnd g mode sat (.fin neg n d) = overflowOf g mode sat neg false := by
  obtain ⟨q, hq, hq1, hr⟩ := rnd_fin g mode sat neg hn hd
  have hlt := (magUnits_strictMono (floatShape g).mbits).lt_iff_lt.1 (Nat.lt_of_mul_lt_mul_right (h.trans_lt hq1))
  rw [hr, roundedTo, if_pos (by split <;> omega)]

theorem magUnits_beyond (g : Fmt) :
    magUnits (floatShape g).mbits ((floatShape g).largest + 1) + magUnits (floatShape g).mbits ((floatShape g).largest - 1) =
      2 * magUnits (floatShape g).mbits (floatShape g).largest := by
  obtain ⟨k, hk⟩ : ∃ k, (floatShape g).largest = k + 1 := by cases g <;> exact ⟨_, rfl⟩
  have hexp : (k + 1) / 2 ^ (floatShape g).mbits = k / 2 ^ (floatShape g).mbits := by
    have hk' : k = (floatShape g).largest - 1 := by omega
    rw [← hk, hk']; cases g <;> decide
  rw [hk, Nat.add_sub_cancel, magUnits_succ, magUnits_succ _ k, hexp]
  omega

/-- At the largest magnitude the next multiple of the spacing takes the place of a neighbour (R84). -/
theorem rnd_largest {g : Fmt} {mode : Rnd} {sat neg : Bool} {n d top topd sub subd : Nat} (hd : d ≠ 0)
    (htop : floatVal g (floatShape g).largest = .fin false top topd) (hsub : floatVal g ((floatShape g).largest - 1) = .fin false sub subd)
    (hle : top * d ≤ n * topd) :
    rnd g mode sat (.fin neg n d) =
      if (2 * top * subd - sub * topd) * d ≤ n * topd * subd ∨ roundsBetween mode neg (floatShape g).largest (2 * n * topd * subd) (top * subd * d)
          ((2 * top * subd - sub * topd) * d) = true then overflowOf g mode sat neg false
      else signBit g neg + (floatShape g).largest := by
  obtain ⟨htopd, htop⟩ := floatVal_magnitude (Nat.le_succ _) htop
  obtain ⟨hsubd, hsub⟩ := floatVal_magnitude (by omega) hsub
  have hU := oneUnits_pos g
  have hn : n ≠ 0 := by
    rintro rfl
    have hlarge : 0 < magUnits (floatShape g).mbits (floatShape g).largest :=
      magUnits_zero (floatShape g).mbits ▸ magUnits_strictMono _ (by cases g <;> decide)
    have htop0 : 0 < top := Nat.pos_of_mul_pos_right (htop ▸ Nat.mul_pos hlarge htopd)
    exact absurd hle (by rw [Nat.zero_mul, Nat.not_le]; exact Nat.mul_pos htop0 (Nat.pos_of_ne_zero hd))
  have hnext : (2 * top * subd - sub * topd) * oneUnits g = magUnits (floatShape g).mbits ((floatShape g).largest + 1) * (topd * subd) := by
    calc (2 * top * subd - sub * topd) * oneUnits g
        = 2 * (top * oneUnits g) * subd - sub * oneUnits g * topd := by rw [Nat.sub_mul]; congr 1 <;> ring
      _ = 2 * magUnits (floatShape g).mbits (floatShape g).largest * (topd * subd) -
            magUnits (floatShape g).mbits ((floatShape g).largest - 1) * (topd * subd) := by rw [htop, hsub]; congr 1 <;> ring
      _ = _ := by rw [← Nat.sub_mul, ← magUnits_beyond g, Nat.add_sub_cancel]
  generalize 2 * top * subd - sub * topd = next at *
  rcases Nat.lt_or_ge (n * topd * subd) (next * d) with h | h
  · rw [rnd_between (p := (floatShape g).largest) (lod := topd) (hid := topd * subd) hn hd htopd (Nat.mul_pos htopd hsubd) htop hnext hle
        (by rw [← Nat.mul_assoc]; exact h),
      show 2 * n * topd * (topd * subd) = topd * (2 * n * topd * subd) by ring, show top * (topd * subd) * d = topd * (top * subd * d) by ring,
      show next * topd * d = topd * (next * d) by ring, roundsBetween_scale htopd]
    simp only [Nat.not_le.2 h, false_or]
    split
    · exact if_pos (Nat.lt_succ_self _)
    · exact roundedTo_of_le (Nat.le_refl _)
  · rw [if_pos (.inl h), rnd_beyond hn hd]
    refine Nat.le_of_mul_le_mul_right (c := topd * subd) ?_ (Nat.mul_pos htopd hsubd)
    calc magUnits (floatShape g).mbits ((floatShape g).largest + 1) * d * (topd * subd) = next * d * oneUnits g := by
          rw [Nat.mul_right_comm, ← hnext]; ring
      _ ≤ n * topd * subd * oneUnits g := Nat.mul_le_mul_right _ h
      _ = n * oneUnits g * (topd * subd) := by ring

/-- Settles O37: `rnd` finds the magnitude that stands under the number (`rnd_fin`), and the order of magnitudes leaves no choice. -/
theorem rounding : Obligations.Rounding := by
  unfold Obligations.Rounding
  intro g m sat hg sh sign inf away overflow up
  have hinf (neg : Bool) : infOf g neg = inf neg := rfl
  have hover (neg : Bool) : overflowOf g m sat neg false = overflow neg := by
    simp only [overflowOf, Bool.false_or, hinf]; rfl
  refine ⟨rfl, fun neg => ?_, fun neg d _ => ?_, ?_, ?_⟩
  · simp only [rnd, overflowOf, Bool.true_or, if_true, hinf]; rfl
  · simp only [rnd, if_true]; rfl
  · intro neg n d p lo lod hi hid hn hd hp hlo hhi hle hlt below above
    have hp : p < (floatShape g).largest := hp
    obtain ⟨hlod, hlo⟩ := floatVal_magnitude (by omega) hlo
    obtain ⟨hhid, hhi⟩ := floatVal_magnitude (by omega) hhi
    rw [rnd_between hn.ne' hd.ne' hlod hhid hlo hhi hle hlt, roundedTo_of_le (by split <;> omega)]
    rfl
  · intro neg n d top topd sub subd hd htop hsub hle below above
    exact (rnd_largest hd.ne' htop hsub hle).trans (by rw [hover]; rfl)

end Sys2Proof.Machine

/-! PROOFS. The numbers that patterns stand for, their order, and the accumulation elements (O39). -/

namespace Sys2Proof.Machine

/-! ### One number, one pattern (R82) -/

theorem fmtWidth_of_float {g : Fmt} (hg : fmtIsFloat g = true) : fmtWidth g = (floatShape g).mbits + (floatShape g).ebits + 1 := by
  cases g <;> first | rfl | cases hg

theorem floatVal_inf {g : Fmt} {p : Nat} {neg : Bool} (h : floatVal g p = .inf neg) :
    neg = decide (p / 2 ^ ((floatShape g).mbits + (floatShape g).ebits) % 2 = 1) ∧
      p % 2 ^ ((floatShape g).mbits + (floatShape g).ebits) = (2 ^ (floatShape g).ebits - 1) * 2 ^ (floatShape g).mbits := by
  unfold floatVal at h
  extract_lets sh m e sign mag at h
  split at h
  · contradiction
  split at h
  · next he =>
    split at h
    · next hm =>
      refine ⟨(XVal.inf.inj h).symm, ?_⟩
      have he : p / 2 ^ sh.mbits % 2 ^ sh.ebits = 2 ^ sh.ebits - 1 := he.2
      have hm : p % 2 ^ sh.mbits = 0 := hm
      change p % 2 ^ (sh.mbits + sh.ebits) = _
      rw [Nat.pow_add, Nat.mod_mul, hm, he, Nat.zero_add, Nat.mul_comm]
    · contradiction
  repeat' split at h
  all_goals contradiction

/-- A pattern is its magnitude and its sign. -/
theorem pattern_eq_of_parts {k u v : Nat} (hu : u < 2 ^ (k + 1)) (hv : v < 2 ^ (k + 1)) (hmag : u % 2 ^ k = v % 2 ^ k)
    (hsign : decide (u / 2 ^ k % 2 = 1) = decide (v / 2 ^ k % 2 = 1)) : u = v := by
  have hdu : u / 2 ^ k < 2 := by rw [Nat.div_lt_iff_lt_mul (Nat.two_pow_pos k)]; rwa [Nat.pow_succ, Nat.mul_comm] at hu
  have hdv : v / 2 ^ k < 2 := by rw [Nat.div_lt_iff_lt_mul (Nat.two_pow_pos k)]; rwa [Nat.pow_succ, Nat.mul_comm] at hv
  have hd : u / 2 ^ k = v / 2 ^ k := by
    have hiff := decide_eq_decide.1 hsign
    generalize u / 2 ^ k = a at hdu hiff ⊢
    generalize v / 2 ^ k = b at hdv hiff ⊢
    omega
  rw [← Nat.div_add_mod' u (2 ^ k), ← Nat.div_add_mod' v (2 ^ k), hd, hmag]

/-- Patterns of one sign that stand for the same number are the same. -/
theorem pattern_eq_of_xEq {g : Fmt} (hg : fmtIsFloat g = true) {u v : Nat} (hu : u < 2 ^ fmtWidth g) (hv : v < 2 ^ fmtWidth g)
    (heq : xEq (floatVal g u) (floatVal g v) = true) (hneg : xNeg (floatVal g u) = xNeg (floatVal g v)) : u = v := by
  rw [fmtWidth_of_float hg] at hu hv
  cases hx : floatVal g u with
  | nan => simp [hx, xEq, xIsNan] at heq
  | inf a =>
    obtain ⟨ha, hua⟩ := floatVal_inf hx
    cases hy : floatVal g v with
    | nan => simp [hy, xEq, xIsNan] at heq
    | inf b =>
      obtain ⟨hb, hvb⟩ := floatVal_inf hy
      simp only [hx, hy, xNeg] at hneg
      exact pattern_eq_of_parts hu hv (hua.trans hvb.symm) (ha.symm.trans (hneg.trans hb))
    | fin b n d => cases a <;> simp [hx, hy, xEq, xLt] at heq
  | fin a n d =>
    obtain ⟨ha, hd, hn⟩ := floatVal_fin hx
    cases hy : floatVal g v with
    | nan => simp [hy, xEq, xIsNan] at heq
    | inf b => cases b <;> simp [hx, hy, xEq, xLt] at heq
    | fin b m c =>
      obtain ⟨hb, hc, hm⟩ := floatVal_fin hy
      simp only [hx, hy, xNeg] at hneg
      subst hneg
      have hcross : n * c = m * d := by
        simp only [hx, hy, xEq, xLt, xIsNan] at heq
        generalize n * c = i at heq ⊢
        generalize m * d = j at heq ⊢
        cases a <;> simp at heq <;> omega
      refine pattern_eq_of_parts hu hv ((magUnits_strictMono (floatShape g).mbits).injective (Nat.eq_of_mul_eq_mul_right (Nat.mul_pos hd hc) ?_))
        (ha.symm.trans hb)
      calc magUnits (floatShape g).mbits (u % 2 ^ ((floatShape g).mbits + (floatShape g).ebits)) * (d * c)
          = n * c * oneUnits g := by rw [← Nat.mul_assoc, ← hn]; ring
        _ = m * d * oneUnits g := by rw [hcross]
        _ = _ := by rw [Nat.mul_comm d c, ← Nat.mul_assoc, ← hm]; ring

/-! ### The order of numbers (R258, R284) -/

theorem xLt_asymm {x y : XVal} (h : xLt x y = true) : xLt y x = false := by
  cases x with
  | nan => simp [xLt] at h
  | inf a =>
    cases y with
    | nan => simp [xLt] at h
    | inf b => cases a <;> cases b <;> simp [xLt] at h ⊢
    | fin b m c => simpa [xLt] using h
  | fin a n d =>
    cases y with
    | nan => simp [xLt] at h
    | inf b => simpa [xLt] using h
    | fin b m c =>
      simp only [xLt, decide_eq_true_eq, decide_eq_false_iff_not] at h ⊢
      exact h.asymm

theorem xEq_comm (x y : XVal) : xEq x y = xEq y x := by
  unfold xEq
  cases xIsNan x <;> cases xIsNan y <;> cases xLt x y <;> cases xLt y x <;> rfl

/-- Numbers of a format that are equal and of different sign are zeros. -/
theorem xIsZero_of_xEq {g : Fmt} {u v : Nat} (heq : xEq (floatVal g u) (floatVal g v) = true) (hu : xNeg (floatVal g u) = true)
    (hv : xNeg (floatVal g v) = false) : xIsZero (floatVal g v) = true := by
  cases hx : floatVal g u with
  | nan => simp [hx, xEq, xIsNan] at heq
  | inf a =>
    cases hy : floatVal g v with
    | nan => simp [hy, xEq, xIsNan] at heq
    | inf b =>
      simp only [hx, hy, xNeg] at hu hv
      simp [hx, hy, hu, hv, xEq, xLt] at heq
    | fin b n d => cases a <;> simp [hx, hy, xEq, xLt] at heq
  | fin a n d =>
    obtain ⟨-, hd, -⟩ := floatVal_fin hx
    cases hy : floatVal g v with
    | nan => simp [hy, xEq, xIsNan] at heq
    | inf b => cases b <;> simp [hx, hy, xEq, xLt] at heq
    | fin b m c =>
      simp only [hx, hy, xNeg] at hu hv
      subst hu hv
      have hmd : m * d = 0 := by
        simp only [hx, hy, xEq, xLt, xIsNan] at heq
        generalize n * c = i at heq ⊢
        generalize m * d = j at heq ⊢
        simp at heq
        omega
      simpa [xIsZero, hd.ne'] using hmd

/-- Of two numbers of a format, `fmax` keeps the one that is last in the order of R258. -/
theorem max_eq_orderedLe {g : Fmt} (hg : fmtIsFloat g = true) {u v : Nat} (hu : u < 2 ^ fmtWidth g) (hv : v < 2 ^ fmtWidth g)
    (hun : floatVal g u ≠ .nan) (hvn : floatVal g v ≠ .nan) :
    (if xLt (floatVal g u) (floatVal g v) || (xEq (floatVal g u) (floatVal g v) && xNeg (floatVal g u)) then v else u) =
      if orderedLe (floatVal g v) (floatVal g u) then u else v := by
  have hnan (x : XVal) (h : x ≠ .nan) : xIsNan x = false := decide_eq_false h
  rw [orderedLe, hnan _ hun, hnan _ hvn, xEq_comm (floatVal g v)]
  simp only [Bool.false_eq_true, if_false]
  cases hlt : xLt (floatVal g u) (floatVal g v) with
  | true => simp [xLt_asymm hlt, show xEq (floatVal g u) (floatVal g v) = false by simp [xEq, hlt]]
  | false =>
    cases hgt : xLt (floatVal g v) (floatVal g u) with
    | true => simp [show xEq (floatVal g u) (floatVal g v) = false by simp [xEq, hgt]]
    | false =>
      have heq : xEq (floatVal g u) (floatVal g v) = true := by simp [xEq, hlt, hgt, hnan _ hun, hnan _ hvn]
      cases hu' : xNeg (floatVal g u) with
      | false => simp [heq]
      | true =>
        cases hv' : xNeg (floatVal g v) with
        | false => simp [heq, xIsZero_of_xEq heq hu' hv']
        | true => simp [pattern_eq_of_xEq hg hu hv heq (hu'.trans hv'.symm)]

/-! ### The steps of the accumulation elements (R289) -/

section
variable {g : Fmt} (hg : fmtIsFloat g = true)
include hg

theorem fmtVal_of_float (v : Nat) : fmtVal g v = floatVal g v := if_pos hg

theorem fill32_of_float (v : Nat) : fill32 g v = BitVec.ofNat 32 (v % 2 ^ fmtWidth g) := if_neg (by rintro (rfl | rfl) <;> cases hg)

/-- The canonical NaN of `canonNan` is that of a number; other patterns only lose bits that the fill does not show. -/
theorem fill32_canonNan (v : Nat) : fill32 g (canonNan g v) = fill32 g (if fmtVal g v = .nan then nanOf g else v) := by
  rw [canonNan, hg, fmtVal_of_float hg, Bool.true_and, xIsNan]
  by_cases h : floatVal g v = .nan
  · simp [h]
  · simp [h, fill32_of_float hg, lowBits]

/-- The larger of a state and a value, as the accumulation elements keep it. -/
theorem larger_of_float {v : Nat} (u : Nat) (hv : v < 2 ^ fmtWidth g) :
    larger g u v =
      if fmtVal g (u % 2 ^ fmtWidth g) = .nan ∨ fmtVal g v = .nan then nanOf g
      else if orderedLe (fmtVal g v) (fmtVal g (u % 2 ^ fmtWidth g)) then u % 2 ^ fmtWidth g else v := by
  have hmod : v % 2 ^ fmtWidth g = v := Nat.mod_eq_of_lt hv
  rw [larger, if_pos hg, amoLarger, lowBits, lowBits, hmod, fmtVal_of_float hg, fmtVal_of_float hg]
  simp only [xIsNan, Bool.or_eq_true, decide_eq_true_eq]
  split
  · rfl
  · next h =>
    obtain ⟨hu, hvn⟩ := not_or.1 h
    rw [← max_eq_orderedLe hg (Nat.mod_lt _ (Nat.two_pow_pos _)) hv hu hvn, floatMinMax]
    simp [lowBits, hmod, xIsNan, hu, hvn]

end

/-- What a maximum keeps of its state and the value entered (R289). -/
def keptMax (g : Fmt) (st : Option (BitVec 320)) (v : Nat) : Nat :=
  match st with
  | some u => larger g u.toNat v
  | none => v

theorem accStep_max {op fc rc : Nat} {sat : Bool} {g : Fmt} {st : Option (BitVec 320)} {x : BitVec 32} (hop : op = 0x52 ∨ op = 0x53)
    (hfc : fmtOfCode fc = some g) :
    accStep op fc rc sat st x = (BitVec.ofNat 320 (keptMax g st (x.toNat % 2 ^ fmtWidth g)),
      fill32 g (if fmtIsFloat g then canonNan g (keptMax g st (x.toNat % 2 ^ fmtWidth g)) else keptMax g st (x.toNat % 2 ^ fmtWidth g))) := by
  obtain rfl | rfl := hop <;> simp only [accStep, hfc, Option.getD_some] <;> rfl

theorem accStep_maxMagnitude {fc rc : Nat} {sat : Bool} {g : Fmt} {st : Option (BitVec 320)} {x : BitVec 32} (hfc : fmtOfCode fc = some g) :
    accStep 0x54 fc rc sat st x = (BitVec.ofNat 320 (keptMax g st (magnitude g (x.toNat % 2 ^ fmtWidth g))),
      fill32 g (if fmtIsFloat g then canonNan g (keptMax g st (magnitude g (x.toNat % 2 ^ fmtWidth g)))
        else keptMax g st (magnitude g (x.toNat % 2 ^ fmtWidth g)))) := by
  simp only [accStep, hfc, Option.getD_some]; rfl

/-- Settles O39: `elemResult` by the opcode, with `larger` as the order of R258 has it. -/
theorem accumulationResults : Obligations.AccumulationResults := by
  unfold Obligations.AccumulationResults
  intro sa sb fc r sat sw kf g st x y px py hfc word p bad ends result canon best
  have hop (op : Nat) (h : op < 256) : elemOp (word op) = op := by
    rw [elemOp, wordBits_eq_extract, elemWord_op, BitVec.toNat_ofNat, Nat.mod_eq_of_lt h]
  have hfmt (op : Nat) : elemFmt (word op) = fc.toNat := by rw [elemFmt, wordBits_eq_extract, elemWord_fmt]
  have hrnd (op : Nat) : elemRnd (word op) = r.toNat := by rw [elemRnd, wordBits_eq_extract, elemWord_rnd]
  have hsat (op : Nat) : decide (elemSat (word op) = 1) = decide (sat = 1) := by
    rw [elemSat, wordBits_eq_extract, elemWord_sat]; exact decide_eq_decide.2 (BitVec.toNat_inj (y := 1#1))
  have hk (op : Nat) : elemK (word op) = kf.toNat := by rw [elemK, wordBits_eq_extract, elemWord_k]
  have hpoison : fmtPoison g x.toNat = decide (g = .t2 ∧ p = 2) := by
    unfold fmtPoison
    by_cases hg : g = .t2
    · subst hg; rfl
    · simp [hg]
  have hstep (op : Nat) (v : BitVec 32) (state : BitVec 320) (h50 : 0x50 ≤ op) (h256 : op < 256)
      (h : accStep op fc.toNat r.toNat (decide (sat = 1)) (st.map (·.1)) x = (state, v)) : result op v state := by
    simp only [result, elemResult, hop op h256, hfmt, hrnd, hsat, h, if_pos h50, hfc, Option.getD_some, hpoison]
    rfl
  have hb : lowBits (fmtWidth g) x.toNat = p := rfl
  have hp : p < 2 ^ fmtWidth g := Nat.mod_lt _ (Nat.two_pow_pos _)
  have hbest (hg : fmtIsFloat g = true) (v : Nat) (hv : v < 2 ^ fmtWidth g) : keptMax g (st.map (·.1)) v = best v := by
    cases st with
    | none => rfl
    | some u => exact larger_of_float hg _ hv
  refine ⟨fun op o h50 ho => ?_, fun hi => ⟨?_, ?_⟩, fun hg => ⟨?_, ?_, ?_⟩, ?_⟩
  · simp only [elemResult, hop op (by omega), hfmt, hrnd, hsat, hk, ho, if_neg (Nat.not_le.2 h50)]
  · refine hstep 0x50 _ _ (by decide) (by decide) ?_
    simp only [accStep, hfc, Option.getD_some, hb]
    cases st <;> rfl
  · intro m
    have hf : fmtIsFloat g = false := by cases g <;> first | rfl | cases hi
    have hm : keptMax g (st.map (·.1)) p = m := by
      cases st with
      | none => rfl
      | some u =>
        change larger g u.1.toNat p = if intVal g p ≤ intVal g u.1.toNat then u.1.toNat else p
        rw [larger, if_neg (by rw [hf]; decide), ← ite_not]
        simp only [Int.not_lt]
    exact hstep 0x52 _ _ (by decide) (by decide) (by rw [accStep_max (.inl rfl) hfc, hm, if_neg (by rw [hf]; decide)])
  · refine hstep 0x51 _ _ (by decide) (by decide) ?_
    simp only [accStep, hfc, Option.getD_some, hb, fmtVal_of_float hg]
    cases st <;> rfl
  · intro m
    exact hstep 0x53 _ _ (by decide) (by decide) (by rw [accStep_max (.inr rfl) hfc, hbest hg p hp, if_pos hg, fill32_canonNan hg])
  · intro m
    have hmag : magnitude g p = if fmtVal g p = .nan then nanOf g else p % 2 ^ (fmtWidth g - 1) := by
      rw [magnitude, if_pos hg, floatAbs, xIsNan, fmtVal_of_float hg, lowBits]
      simp only [decide_eq_true_eq]
    have hlt : magnitude g p < 2 ^ fmtWidth g := by
      rw [hmag]
      split
      · cases g <;> first | decide | cases hg
      · exact (Nat.mod_lt _ (Nat.two_pow_pos _)).trans_le (Nat.pow_le_pow_right Nat.two_pos (Nat.sub_le ..))
    exact hstep 0x54 _ _ (by decide) (by decide)
      (by rw [accStep_maxMagnitude hfc, hbest hg _ hlt, if_pos hg, fill32_canonNan hg, hmag])
  · refine hstep 0x55 _ _ (by decide) (by decide) ?_
    simp only [accStep, hfc, Option.getD_some, hb]
    cases st <;> rfl

end Sys2Proof.Machine

/-! PROOFS. Results of the comparing, floating, special and converting element operations (O38). -/

namespace Sys2Proof.Machine

/-! ### Formats and their codes (R77) -/

theorem code_le {c : Nat} {g : Fmt} (h : fmtOfCode c = some g) : c ≤ 11 := by
  unfold fmtOfCode at h; split at h <;> first | omega | cases h

theorem code_of_float {c : Nat} {g : Fmt} (h : fmtOfCode c = some g) (hg : fmtIsFloat g = true) : 6 ≤ c ∧ c ≤ 10 := by
  unfold fmtOfCode at h; split at h <;> cases h <;> first | omega | cases hg

theorem code_of_half {c : Nat} {g : Fmt} (h : fmtOfCode c = some g) (hw : fmtWidth g = 8 ∨ fmtWidth g = 16) : c ∈ [0, 1, 3, 4, 6, 7, 9, 10] := by
  unfold fmtOfCode at h; split at h <;> cases h <;> first | decide | simp [fmtWidth] at hw

theorem not_float_of_code {c : Nat} {g : Fmt} (h : fmtOfCode c = some g) (hc : c ≤ 2) : fmtIsFloat g = false := by
  unfold fmtOfCode at h; split at h <;> cases h <;> first | rfl | omega

/-! ### The rows of the element operations (R166, R278) -/

section
variable {c rc : Nat} {sat : Bool} {k : Nat} {a b : BitVec 32} {g : Fmt} (hc : fmtOfCode c = some g)
include hc

theorem aluResult_compare {op : Nat} (hop : op ∈ [0x20, 0x21, 0x22, 0x23, 0x24, 0x25, 0x26]) :
    aluResult op c rc sat k a b =
      (compareOps op g (a.toNat % 2 ^ fmtWidth g) (b.toNat % 2 ^ fmtWidth g)).map fun t =>
        ⟨if t then 1 else 0, fmtPoison g (a.toNat % 2 ^ fmtWidth g) || (fmtPoison g (b.toNat % 2 ^ fmtWidth g) && !oneInput op)⟩ := by
  have hfam : familyOf op = some .compare ∧ op ≠ 0x27 := by fin_cases hop <;> decide
  have hok : fmtAllowed op c = true := by simp only [fmtAllowed, hfam.1, decide_eq_true_eq]; exact code_le hc
  simp only [aluResult, hc, hok, hfam.1, if_neg hfam.2, Option.map_map]
  refine congrArg (Option.map · _) (funext fun t => ?_)
  cases t <;> rfl

theorem aluResult_mov :
    aluResult 0x27 c rc sat k a b =
      some ⟨fill32 g (if fmtPoison g (a.toNat % 2 ^ fmtWidth g) then 0 else canonNan g (a.toNat % 2 ^ fmtWidth g)), fmtPoison g (a.toNat % 2 ^ fmtWidth g)⟩ := by
  have hok : fmtAllowed 0x27 c = true := decide_eq_true (code_le hc)
  simp only [aluResult, hc, hok]; rfl

theorem aluResult_cvt {h : Fmt} (hk : fmtOfCode k = some h) :
    aluResult 0x48 c rc sat k a b =
      some ⟨fill32 h (convert g h (rndOfCode rc) sat (a.toNat % 2 ^ fmtWidth g)), fmtPoison g (a.toNat % 2 ^ fmtWidth g)⟩ := by
  have hok : fmtAllowed 0x48 c = true := decide_eq_true (code_le hc)
  simp only [aluResult, hc, hok, show familyOf 0x48 = some .conversion from rfl, hk]; rfl

theorem aluResult_half (hw : fmtWidth g = 8 ∨ fmtWidth g = 16) :
    aluResult 0x49 c rc sat k a b = some ⟨BitVec.ofNat 32 (b.toNat % 2 ^ fmtWidth g * 2 ^ fmtWidth g + a.toNat % 2 ^ fmtWidth g), false⟩ ∧
    aluResult 0x4A c rc sat k a b = some ⟨fill32 g (canonNan g (a.toNat % 2 ^ fmtWidth g)), false⟩ ∧
    aluResult 0x4B c rc sat k a b = some ⟨fill32 g (canonNan g (a.toNat / 2 ^ fmtWidth g % 2 ^ fmtWidth g)), false⟩ := by
  have hok : fmtAllowed 0x49 c = true ∧ fmtAllowed 0x4A c = true ∧ fmtAllowed 0x4B c = true := by
    have := code_of_half hc hw
    exact ⟨decide_eq_true this, decide_eq_true this, decide_eq_true this⟩
  obtain ⟨h1, h2, h3⟩ := hok
  simp only [aluResult, hc, h1, h2, h3]
  exact ⟨rfl, rfl, rfl⟩

theorem aluResult_sign (hok : c ≤ 2 ∨ fmtIsFloat g = true) :
    aluResult 0x4D c rc sat k a b = some ⟨fill32 g (signOp g (a.toNat % 2 ^ fmtWidth g)), false⟩ := by
  have hok : fmtAllowed 0x4D c = true := decide_eq_true (hok.imp id (code_of_float hc))
  simp only [aluResult, hc, hok]; rfl

section
variable (hg : fmtIsFloat g = true)
include hg

theorem aluResult_float {op v : Nat} (hop : 0x30 ≤ op ∧ op ≤ 0x3B)
    (hv : floatOps op g (rndOfCode rc) sat (a.toNat % 2 ^ fmtWidth g) (if op = 0x3B then b.toNat else b.toNat % 2 ^ fmtWidth g) = some v) :
    aluResult op c rc sat k a b = some ⟨fill32 g v, false⟩ := by
  have hfam : familyOf op = some .floating := by
    obtain ⟨hlo, hhi⟩ := hop; interval_cases op <;> rfl
  have hok : fmtAllowed op c = true := by simp only [fmtAllowed, hfam, decide_eq_true_eq]; exact code_of_float hc hg
  simp only [aluResult, hc, hok, hfam]
  exact congrArg (Option.map _) hv

theorem aluResult_special {op v : Nat} (hop : 0x40 ≤ op ∧ op ≤ 0x47)
    (hv : specialOps op g c (rndOfCode rc) rc sat (a.toNat % 2 ^ fmtWidth g) = some v) :
    aluResult op c rc sat k a b = some ⟨fill32 g v, false⟩ := by
  have hfam : familyOf op = some .special := by
    obtain ⟨hlo, hhi⟩ := hop; interval_cases op <;> rfl
  have hok : fmtAllowed op c = true := by simp only [fmtAllowed, hfam, decide_eq_true_eq]; exact code_of_float hc hg
  simp only [aluResult, hc, hok, hfam]
  exact congrArg (Option.map _) hv

theorem aluResult_round :
    aluResult 0x4C c rc sat k a b = some ⟨fill32 g (floatRound g (rndOfCode rc) (a.toNat % 2 ^ fmtWidth g)), false⟩ := by
  have hok : fmtAllowed 0x4C c = true := decide_eq_true (code_of_float hc hg)
  simp only [aluResult, hc, hok]; rfl

end

end

/-! ### Zeros and signs of floating patterns (R82, R83) -/

section
variable {g : Fmt} (hg : fmtIsFloat g = true)
include hg

theorem magnitude_bits : fmtWidth g - 1 = (floatShape g).mbits + (floatShape g).ebits := by rw [fmtWidth_of_float hg, Nat.add_sub_cancel]

/-- The sign of a pattern is its top bit. -/
theorem sign_eq {p : Nat} (hp : p < 2 ^ fmtWidth g) :
    decide (p / 2 ^ ((floatShape g).mbits + (floatShape g).ebits) % 2 = 1) = decide (2 ^ (fmtWidth g - 1) ≤ p) := by
  rw [magnitude_bits hg]
  rw [fmtWidth_of_float hg, Nat.pow_succ] at hp
  generalize 2 ^ ((floatShape g).mbits + (floatShape g).ebits) = M at hp
  refine decide_eq_decide.2 ?_
  have hM : 0 < M := by omega
  have hdiv : p / M < 2 := by rw [Nat.div_lt_iff_lt_mul hM, Nat.mul_comm]; exact hp
  rw [show M ≤ p ↔ 1 ≤ p / M by rw [Nat.le_div_iff_mul_le hM, Nat.one_mul]]
  generalize p / M = q at hdiv
  omega

theorem xNeg_floatVal {p : Nat} (hp : p < 2 ^ fmtWidth g) (hn : floatVal g p ≠ .nan) : xNeg (floatVal g p) = decide (2 ^ (fmtWidth g - 1) ≤ p) := by
  rw [← sign_eq hg hp]
  cases hx : floatVal g p with
  | nan => exact absurd hx hn
  | inf neg => exact (floatVal_inf hx).1
  | fin neg n d => exact (floatVal_fin hx).1

theorem floatVal_of_zero {p : Nat} (hp : p % 2 ^ (fmtWidth g - 1) = 0) : ∃ neg d, floatVal g p = .fin neg 0 d := by
  rw [magnitude_bits hg, Nat.pow_add, Nat.mod_mul] at hp
  have hm : p % 2 ^ (floatShape g).mbits = 0 := by omega
  have he : p / 2 ^ (floatShape g).mbits % 2 ^ (floatShape g).ebits = 0 := by
    rcases Nat.eq_zero_of_add_eq_zero hp with ⟨-, h⟩
    exact (Nat.mul_eq_zero.1 h).resolve_left (Nat.two_pow_pos _).ne'
  have hmag : p % 2 ^ ((floatShape g).mbits + (floatShape g).ebits) = 0 := by rw [Nat.pow_add, Nat.mod_mul, hm, he, Nat.mul_zero]
  have hexp : 0 ≠ 2 ^ (floatShape g).ebits - 1 := by cases g <;> decide
  simp only [floatVal, hm, he, hmag, hexp, and_false, if_false, if_true]
  exact ⟨_, _, if_neg (by simp)⟩

theorem zero_of_floatVal {p d : Nat} {neg : Bool} (hp : p < 2 ^ fmtWidth g) (hx : floatVal g p = .fin neg 0 d) :
    p % 2 ^ (fmtWidth g - 1) = 0 ∧ p = signBit g neg := by
  obtain ⟨hneg, hd, hn⟩ := floatVal_fin hx
  rw [sign_eq hg hp] at hneg
  have hmag : p % 2 ^ (fmtWidth g - 1) = 0 := by
    rw [magnitude_bits hg]
    refine (magUnits_strictMono (floatShape g).mbits).injective ?_
    rw [magUnits_zero]
    exact (Nat.mul_eq_zero.1 (hn.symm.trans (Nat.zero_mul _))).resolve_right hd.ne'
  refine ⟨hmag, ?_⟩
  have hpos := Nat.two_pow_pos (fmtWidth g - 1)
  rw [fmtWidth_of_float hg, Nat.pow_succ, ← magnitude_bits hg] at hp
  rw [signBit, hneg]
  generalize 2 ^ (fmtWidth g - 1) = M at hp hmag hpos
  rcases Nat.lt_or_ge p M with h | h
  · rw [Nat.mod_eq_of_lt h] at hmag
    subst hmag; simp [hpos.ne']
  · rw [Nat.mod_eq_sub_mod h, Nat.mod_eq_of_lt (by omega)] at hmag
    simp [h]; omega

end

/-- Turning the top bit of a pattern. -/
theorem xor_top {k p : Nat} (hp : p < 2 ^ (k + 1)) : p ^^^ 2 ^ k = p % 2 ^ k + if 2 ^ k ≤ p then 0 else 2 ^ k := by
  have hpos := Nat.two_pow_pos k
  have hdiv : p / 2 ^ k = if 2 ^ k ≤ p then 1 else 0 := by
    rw [Nat.pow_succ] at hp
    split
    · exact Nat.div_eq_of_lt_le (by omega) (by omega)
    · exact Nat.div_eq_of_lt (by omega)
  rw [← Nat.div_add_mod' (p ^^^ 2 ^ k) (2 ^ k), Nat.xor_mod_two_pow, Nat.xor_div_two_pow, Nat.mod_self, Nat.xor_zero, Nat.div_self hpos, hdiv, Nat.add_comm]
  split <;> simp

theorem signedOf_toNat (b : BitVec 32) : signedOf 32 b.toNat = b.toInt := by
  rw [signedOf, Nat.mod_eq_of_lt b.isLt, BitVec.toInt_eq_toNat_cond]
  split <;> split <;> omega

theorem floatNeg_eq {g : Fmt} (hg : fmtIsFloat g = true) {p : Nat} (hp : p < 2 ^ fmtWidth g) :
    floatNeg g p = if floatVal g p = .nan then nanOf g else p ^^^ 2 ^ (fmtWidth g - 1) := by
  unfold floatNeg
  simp only [xIsNan, decide_eq_true_eq]
  split
  · rfl
  · next hn =>
    rw [xNeg_floatVal hg hp hn, xor_top (by rw [magnitude_bits hg, ← fmtWidth_of_float hg]; exact hp)]
    simp [lowBits, signBit]

theorem signOp_eq {g : Fmt} (hg : fmtIsFloat g = true) {p : Nat} (hp : p < 2 ^ fmtWidth g) :
    signOp g p = if floatVal g p = .nan then nanOf g else if p % 2 ^ (fmtWidth g - 1) = 0 then p
      else rnd g .rne false (.fin (decide (2 ^ (fmtWidth g - 1) ≤ p)) 1 1) := by
  have hzero : p % 2 ^ (fmtWidth g - 1) = 0 ↔ ∃ neg d, floatVal g p = .fin neg 0 d :=
    ⟨floatVal_of_zero hg, fun ⟨_, _, h⟩ => (zero_of_floatVal hg hp h).1⟩
  have hneg := xNeg_floatVal hg hp
  rw [signOp, if_pos hg]
  cases hx : floatVal g p with
  | nan => rfl
  | inf neg =>
    simp only [hx, xNeg] at hzero hneg
    rw [← hneg (by simp), if_neg (by simp), if_neg (by simp [hzero])]
  | fin neg n d =>
    simp only [hx, xNeg] at hzero hneg
    rw [← hneg (by simp), if_neg (by simp)]
    by_cases hn : n = 0
    · subst hn
      rw [if_pos (hzero.2 ⟨_, _, rfl⟩)]
      exact (zero_of_floatVal hg hp hx).2.symm
    · rw [if_neg (by simp [hzero, hn])]
      exact if_neg hn

/-! ### Patterns below the width of their format -/

section
variable {g : Fmt} {v : Nat} (hv : v < 2 ^ fmtWidth g)
include hv

theorem fmtPoison_of_lt : fmtPoison g v = decide (g = .t2 ∧ v = 2) := by
  unfold fmtPoison
  by_cases hg : g = .t2
  · subst hg; rw [Nat.mod_eq_of_lt (show v < 4 from hv)]
  · simp [hg]

theorem canonNan_of_lt : canonNan g v = if (fmtIsFloat g && decide (fmtVal g v = .nan)) = true then nanOf g else v := by
  rw [canonNan, lowBits, Nat.mod_eq_of_lt hv]
  cases hg : fmtIsFloat g with
  | false => rfl
  | true => rw [fmtVal_of_float hg, xIsNan]

end

theorem floatAbs_eq {g : Fmt} (hg : fmtIsFloat g = true) (v : Nat) :
    floatAbs g v = if (fmtIsFloat g && decide (fmtVal g v = .nan)) = true then nanOf g else v % 2 ^ (fmtWidth g - 1) := by
  rw [floatAbs, hg, fmtVal_of_float hg, xIsNan]; rfl

theorem xIsNan_fmtVal (g : Fmt) (v : Nat) : xIsNan (fmtVal g v) = (fmtIsFloat g && decide (fmtVal g v = .nan)) := by
  cases hg : fmtIsFloat g with
  | false => simp [fmtVal, hg, xOfInt, xIsNan]
  | true => rfl

/-- The order of integers as exact numbers (R284). -/
theorem xLt_xOfInt (x y : Int) : xLt (xOfInt x) (xOfInt y) = decide (x < y) := by
  simp only [xLt, xOfInt, decide_eq_true_eq, Nat.mul_one]
  refine decide_eq_decide.2 ?_
  split <;> split <;> omega

theorem xEq_xOfInt (x y : Int) : xEq (xOfInt x) (xOfInt y) = decide (x = y) := by
  rw [xEq, xLt_xOfInt, xLt_xOfInt]
  rcases Int.lt_trichotomy x y with h | h | h
  · simp [h, h.ne]
  · simp [h, xIsNan, xOfInt]
  · simp [h, h.ne']

theorem not_xEq_of_nan {x y : XVal} (h : xIsNan x = true ∨ xIsNan y = true) : xEq x y = false ∧ xLt x y = false := by
  simp only [xIsNan, decide_eq_true_eq] at h
  obtain rfl | rfl := h
  · exact ⟨rfl, rfl⟩
  · cases x <;> exact ⟨rfl, rfl⟩

theorem xEq_of_zeros (a b : Bool) (d c : Nat) : xEq (.fin a 0 d) (.fin b 0 c) = true := by
  cases a <;> cases b <;> simp [xEq, xIsNan, xLt]

/-! ### Special results (R286, R287) -/

theorem rnd_zero (g : Fmt) (m : Rnd) (sat neg : Bool) (d : Nat) : rnd g m sat (.fin neg 0 d) = signBit g neg := by
  simp only [rnd, if_true]

theorem specialOps_of_exact {op : Nat} {g : Fmt} {c rc p : Nat} {m : Rnd} {sat : Bool} {e : XVal}
    (h : specialKnown op (floatVal g p) = some (.exact e)) : specialOps op g c m rc sat p = some (rnd g m sat e) := by
  simp only [specialOps, h]

theorem specialOps_of_within {op : Nat} {g : Fmt} {c rc p : Nat} {m : Rnd} {sat : Bool} {e : Enc}
    (h : specialKnown op (floatVal g p) = some (.within e)) (he : rnd g m sat (encEnd e.lo) = rnd g m sat (encEnd e.hi)) :
    specialOps op g c m rc sat p = some (rnd g m sat (encEnd e.lo)) := by
  simp only [specialOps, h, if_pos he]

theorem exp2Known_zero (neg : Bool) (d : Nat) : exp2Known (.fin neg 0 d) = .exact (.fin false 1 1) := by
  cases neg <;> simp [exp2Known, xScale]

theorem log2Known_one {n : Nat} (hn : 0 < n) : log2Known (.fin false n n) = .exact (.fin false 0 1) := by
  have hlog : floorLog2 n n = 0 := by rw [floorLog2_eq, if_neg (Nat.lt_irrefl _), Int.sub_self]
  simp [log2Known, hn.ne', exactLog2, hlog, xOfInt]

theorem specialKnown_opcode {op : Nat} {x : XVal} {k : Known} (h : specialKnown op x = some k) : 0x40 ≤ op ∧ op ≤ 0x47 := by
  unfold specialKnown at h; split at h <;> first | decide | cases h

/-! ### The obligation -/

/-- Settles O38: the row of each opcode in `aluResult`, with the sign and the zeros of a pattern read from its bits. -/
theorem floatElementResults : Obligations.FloatElementResults := by
  unfold Obligations.FloatElementResults
  intro g c rc sat k a b hc w p q m x y reserved isNan gives tells
  have hp : p < 2 ^ fmtWidth g := Nat.mod_lt _ (Nat.two_pow_pos _)
  have hq : q < 2 ^ fmtWidth g := Nat.mod_lt _ (Nat.two_pow_pos _)
  have hrp : fmtPoison g p = reserved p := fmtPoison_of_lt hp
  have hrq : fmtPoison g q = reserved q := fmtPoison_of_lt hq
  have htells (op : Nat) (t : Bool) (hop : op ∈ [0x20, 0x21, 0x22, 0x23, 0x24, 0x25]) (h : compareOps op g p q = some t) : tells op t := by
    refine (aluResult_compare hc (List.mem_append_left [0x26] hop)).trans ?_
    rw [show compareOps op g _ _ = some t from h, show fmtPoison g _ = reserved p from hrp, show fmtPoison g _ = reserved q from hrq,
      show oneInput op = false by fin_cases hop <;> rfl, Bool.not_false, Bool.and_true]
    rfl
  refine ⟨htells _ _ (by decide) rfl, htells _ _ (by decide) rfl, htells _ _ (by decide) rfl, htells _ _ (by decide) rfl, htells _ _ (by decide) rfl,
    htells _ _ (by decide) (congrArg (fun e => some (xLt y x || e)) (xEq_comm y x)), ?isnan, ?mov, ?ints, ?nan, ?zeros, ?floats, ?sign, ?half, ?cvt⟩
  case isnan =>
    refine (aluResult_compare hc (by decide)).trans ?_
    rw [show compareOps 0x26 g _ _ = some (isNan p) from congrArg some (xIsNan_fmtVal g p), show fmtPoison g _ = reserved p from hrp,
      show oneInput 0x26 = true from rfl, Bool.not_true, Bool.and_false, Bool.or_false]
    rfl
  case mov =>
    refine (aluResult_mov hc).trans ?_
    rw [show fmtPoison g _ = reserved p from hrp, show canonNan g _ = _ from canonNan_of_lt hp]
  case ints =>
    intro hg
    have hval (v : Nat) : fmtVal g v = xOfInt (intVal g v) := if_neg (by rw [hg]; decide)
    exact ⟨by simp only [x, y, hval, xLt_xOfInt], by simp only [x, y, hval, xEq_xOfInt]⟩
  case nan => exact fun h => not_xEq_of_nan (h.imp (xIsNan_fmtVal g p).trans (xIsNan_fmtVal g q).trans)
  case zeros =>
    intro hg hp0 hq0
    obtain ⟨na, da, hx⟩ := floatVal_of_zero hg hp0
    obtain ⟨nb, db, hy⟩ := floatVal_of_zero hg hq0
    simp only [x, y, fmtVal_of_float hg, hx, hy, xEq_of_zeros]
  case floats =>
    intro hg z round
    have hx : x = floatVal g p := fmtVal_of_float hg p
    have hy : y = floatVal g q := fmtVal_of_float hg q
    have hnan (v : Nat) : isNan v = decide (floatVal g v = .nan) := by simp only [isNan, hg, fmtVal_of_float hg, Bool.true_and]
    have hgives (op v : Nat) (hop : 0x30 ≤ op ∧ op < 0x3B) (h : floatOps op g m sat p q = some v) : gives op v :=
      aluResult_float hc hg ⟨hop.1, hop.2.le⟩ (by rw [if_neg hop.2.ne]; exact h)
    have hexact (op : Nat) (e : XVal) (h : specialKnown op x = some (.exact e)) : gives op (round e) :=
      aluResult_special hc hg (specialKnown_opcode h) (specialOps_of_exact (hx ▸ h))
    rw [hx, hy]
    refine ⟨hgives _ _ (by decide) rfl, hgives _ _ (by decide) rfl, hgives _ _ (by decide) rfl, hgives _ _ (by decide) rfl, hgives _ _ (by decide) rfl,
      hgives _ _ (by decide) rfl, hgives _ _ (by decide) (congrArg some (floatAbs_eq hg p)), ?neg, hgives _ _ (by decide) rfl,
      hgives _ _ (by decide) rfl, hgives _ _ (by decide) rfl, ?scale, fun neg => ⟨fun d hd hx => ?zero, fun hx => ?inf⟩, fun n d hn hx => ?negative,
      fun hx => ?quiet, ⟨?sNan, ?sInf, ?sNegInf, ?sZero, ?sNegative, ?sOne, ?sWithin⟩, ?round, ?signOf⟩
    case neg =>
      refine hgives _ _ (by decide) (congrArg some ((floatNeg_eq hg hp).trans ?_))
      simp only [hnan, decide_eq_true_eq]; rfl
    case scale =>
      refine aluResult_float hc hg (by decide) ?_
      rw [if_pos rfl]
      exact congrArg (fun e => some (rnd g m sat (xScale (floatVal g p) e))) (signedOf_toNat b)
    case zero =>
      rw [hx]
      refine ⟨by simp [xDiv], by simp [xRsqrt], ?_⟩
      have hscale : xScale (.fin neg 0 d) z = .fin neg 0 1 := by simp [xScale]
      exact (congrArg round hscale).trans ((rnd_zero g m sat neg 1).trans (zero_of_floatVal hg hp hx).2.symm)
    case inf =>
      rw [hx]
      refine ⟨?_, rfl, rfl⟩
      simp only [round, xDiv, rnd_zero, Bool.false_bne]
    case negative => rw [hx, xRsqrt, if_neg hn.ne', if_pos rfl]
    case quiet => rw [hx]; exact ⟨rfl, rfl, rfl⟩
    case sNan =>
      intro op hlo hhi hxn
      refine hexact op .nan ?_
      rw [hx, hxn]; interval_cases op <;> rfl
    case sInf =>
      intro hxi
      refine ⟨fun op hop => hexact op _ ?_, fun op hop => hexact op _ ?_⟩ <;> rw [hx, hxi] <;> fin_cases hop <;> rfl
    case sNegInf =>
      intro hxi
      refine ⟨fun op hop => hexact op _ ?_, fun op hop => hexact op _ ?_, fun op hop => ?_, hexact 0x41 .nan ?_⟩
      · rw [hx, hxi]; fin_cases hop <;> rfl
      · rw [hx, hxi]; fin_cases hop <;> rfl
      · rw [← rnd_zero g m sat true 1]
        refine hexact op _ ?_
        rw [hx, hxi]; fin_cases hop <;> rfl
      · rw [hx, hxi]; rfl
    case sZero =>
      intro neg d hxz
      refine ⟨hexact 0x40 _ ?_, hexact 0x41 _ ?_, hexact 0x43 _ ?_, fun op hop => ?_⟩
      · rw [hx, hxz]; exact congrArg some (exp2Known_zero neg d)
      · rw [hx, hxz]; rfl
      · rw [hx, hxz]; rfl
      · rw [← rnd_zero g m sat neg 1]
        refine hexact op _ ?_
        rw [hx, hxz]; fin_cases hop <;> rfl
    case sNegative =>
      intro n d hn hxn
      refine hexact 0x41 .nan ?_
      rw [hx, hxn]; exact congrArg some (by simp [log2Known, hn.ne'])
    case sOne =>
      intro n hn hxn
      have hzero := hexact 0x41 (.fin false 0 1) (by rw [hx, hxn]; exact congrArg some (log2Known_one hn))
      rwa [show round (.fin false 0 1) = 0 from rnd_zero g m sat false 1] at hzero
    case sWithin =>
      exact fun op e h he => aluResult_special hc hg (specialKnown_opcode h) (specialOps_of_within h he)
    case round =>
      refine (aluResult_round hc hg).trans ?_
      simp only [floatRound]; rfl
    case signOf =>
      refine (aluResult_sign hc (.inr hg)).trans ?_
      rw [show signOp g _ = _ from signOp_eq hg hp]
      simp only [hnan, decide_eq_true_eq]; rfl
  case sign =>
    intro hc2
    refine (aluResult_sign hc (.inl hc2)).trans ?_
    rw [signOp, if_neg (by rw [not_float_of_code hc hc2]; decide)]
  case half =>
    intro hw high
    obtain ⟨hpack, hlo, hhi⟩ := aluResult_half (rc := rc) (sat := sat) (k := k) (a := a) (b := b) hc hw
    have hh : high < 2 ^ fmtWidth g := Nat.mod_lt _ (Nat.two_pow_pos _)
    exact ⟨hpack, hlo.trans (by rw [canonNan_of_lt hp]), hhi.trans (by rw [canonNan_of_lt hh])⟩
  case cvt =>
    intro h hk
    have hmod : lowBits (fmtWidth g) p = p := Nat.mod_eq_of_lt hp
    refine ⟨(aluResult_cvt hc hk).trans (by rw [show fmtPoison g _ = reserved p from hrp]), ?_, ?_, ?_, ?_, ?_, ?_⟩
    · rintro rfl
      rw [convert, if_pos rfl, hmod, hrp, canonNan_of_lt hp]
    · intro hne hh hg
      rw [convert, if_neg (Ne.symm hne), if_pos hh, if_pos hg, hmod, ← fmtVal_of_float hg]
    · intro hne hh hg
      rw [convert, if_neg (Ne.symm hne), if_pos hh, if_neg (by rw [hg]; decide), hmod]
    · rintro hne rfl
      rw [convert, if_neg (Ne.symm hne), if_neg (by decide), if_pos rfl, hmod]
    · intro hne hh hg
      obtain ⟨hf, ht⟩ : fmtIsFloat h = false ∧ h ≠ .t2 := by cases h <;> first | decide | cases hh
      rw [convert, if_neg (Ne.symm hne), if_neg (by rw [hf]; decide), if_neg ht, if_pos hg, hmod, ← fmtVal_of_float hg]
    · intro hne hh hg
      obtain ⟨hf, ht⟩ : fmtIsFloat h = false ∧ h ≠ .t2 := by cases h <;> first | decide | cases hh
      rw [convert, if_neg (Ne.symm hne), if_neg (by rw [hf]; decide), if_neg ht, if_neg (by rw [hg]; decide), hmod]

end Sys2Proof.Machine

/-! PROOFS. The sum and the flags of an LA320 entry over the products of a k-step (R97; O22). -/

namespace Sys2Proof.Machine

/-! ### Bits of an LA320 entry (R97) -/

theorem laClean_getLsbD (acc : La) (k : Nat) : (laClean acc).getLsbD k = (acc.getLsbD k && !decide (k = 311)) := by
  rw [laClean, BitVec.getLsbD_and, BitVec.getLsbD_not, BitVec.getLsbD_shiftLeft, BitVec.getLsbD_one]
  rcases Nat.lt_or_ge k 320 with hk | hk
  · congr 1
    rw [decide_eq_true hk, Bool.eq_iff_iff]
    simp
    omega
  · rw [BitVec.getLsbD_of_ge _ _ hk]; rfl

theorem laFlag_getLsbD (acc : La) {f : Nat} (hf : f < 320) (k : Nat) : (laFlag acc f).getLsbD k = (acc.getLsbD k || decide (k = f)) := by
  rw [laFlag, BitVec.getLsbD_or, BitVec.getLsbD_shiftLeft, BitVec.getLsbD_one]
  congr 1
  rw [Bool.eq_iff_iff]
  simp
  omega

theorem laWithSum_getLsbD (acc : La) (s : Int) {k : Nat} (hlo : 304 ≤ k) (hhi : k < 312) : (laWithSum acc s).getLsbD k = acc.getLsbD k := by
  rw [laWithSum, BitVec.getLsbD_append, BitVec.getLsbD_append, if_neg (Nat.not_lt.2 hlo), if_pos (by omega), BitVec.getLsbD_extractLsb',
    decide_eq_true (by omega), Bool.true_and, Nat.add_sub_cancel' hlo]

/-- The 312 bits of the sum: those above the flags, and those below. -/
def laSumBits (acc : La) : BitVec 312 := acc.extractLsb' 312 8 ++ acc.extractLsb' 0 304

theorem laSum_eq (acc : La) : laSum acc = (laSumBits acc).toInt := rfl

theorem laSumBits_getLsbD (acc : La) {k : Nat} (hk : k < 312) : (laSumBits acc).getLsbD k = acc.getLsbD (if k < 304 then k else k + 8) := by
  rw [laSumBits, BitVec.getLsbD_append]
  split
  · rw [BitVec.getLsbD_extractLsb', decide_eq_true ‹_›, Bool.true_and, Nat.zero_add]
  · rw [BitVec.getLsbD_extractLsb', decide_eq_true (by omega), Bool.true_and, show 312 + (k - 304) = k + 8 by omega]

/-- Entries that differ in their flags alone have the same sum. -/
theorem laSum_congr {a b : La} (h : ∀ k, k < 304 ∨ 312 ≤ k → a.getLsbD k = b.getLsbD k) : laSum a = laSum b := by
  have hbits : laSumBits a = laSumBits b := BitVec.eq_of_getLsbD_eq fun k hk => by
    rw [laSumBits_getLsbD a hk, laSumBits_getLsbD b hk]
    exact h _ (by split <;> omega)
  rw [laSum_eq, laSum_eq, hbits]

theorem laSum_laWithSum (acc : La) (s : Int) : laSum (laWithSum acc s) = (BitVec.ofInt 312 s).toInt := by
  have hbits : laSumBits (laWithSum acc s) = BitVec.ofInt 312 s := BitVec.eq_of_getLsbD_eq fun k hk => by
    rw [laSumBits_getLsbD _ hk, laWithSum, BitVec.getLsbD_append]
    rcases Nat.lt_or_ge k 304 with h | h
    · rw [if_pos h, if_pos h, BitVec.getLsbD_extractLsb', decide_eq_true h, Bool.true_and, Nat.zero_add]
    · rw [if_neg (Nat.not_lt.2 h), if_neg (show ¬k + 8 < 304 by omega), BitVec.getLsbD_append, if_neg (show ¬k + 8 - 304 < 8 by omega),
        BitVec.getLsbD_extractLsb', decide_eq_true (show k + 8 - 304 - 8 < 8 + 304 - 304 by omega), Bool.true_and, show 304 + (k + 8 - 304 - 8) = k by omega]
  rw [laSum_eq, hbits]

theorem laSum_laClean (acc : La) : laSum (laClean acc) = laSum acc :=
  laSum_congr fun k hk => by rw [laClean_getLsbD, decide_eq_false (by omega), Bool.not_false, Bool.and_true]

theorem laSum_laFlag (acc : La) {f : Nat} (hlo : 304 ≤ f) (hhi : f < 312) : laSum (laFlag acc f) = laSum acc :=
  laSum_congr fun k hk => by rw [laFlag_getLsbD acc (by omega), decide_eq_false (by omega), Bool.or_false]

/-- A sum is one of 312 bits. -/
theorem laSum_wrap (acc : La) : (BitVec.ofInt 312 (laSum acc)).toInt = laSum acc := by rw [laSum_eq, BitVec.ofInt_toInt]

/-! ### What an entry gains by a product (R97) -/

/-- The part of a product that the sum takes, in units of 2^-160. -/
def laPart (p : Product) : Int :=
  match p.val with
  | .fin neg n d => if n < 2 ^ 143 * d then (if neg then -((n * 2 ^ 160 / d : Nat) : Int) else (n * 2 ^ 160 / d : Nat)) else 0
  | _ => 0
/-- A product too large for the sum, and one with a part below its unit. -/
def laLarge (sign : Bool) (p : Product) : Bool :=
  match p.val with
  | .fin neg n d => neg == sign && decide (2 ^ 143 * d ≤ n)
  | _ => false
def laFine (p : Product) : Bool :=
  match p.val with
  | .fin _ n d => decide (n < 2 ^ 143 * d ∧ n * 2 ^ 160 % d ≠ 0)
  | _ => false
/-- Whether an unpoisoned product raises a flag. -/
def laRaises (k : Nat) (p : Product) : Bool :=
  match k with
  | 304 => laFine p
  | 305 => decide (p.val = .inf false)
  | 306 => decide (p.val = .inf true)
  | 307 => decide (p.val = .nan)
  | 308 => laLarge false p
  | 309 => laLarge true p
  | _ => false
/-- The flags that an entry has after a product. -/
def laSeen (k : Nat) (p : Product) : Bool := if k = 310 then p.poison else !p.poison && laRaises k p

section
variable {acc : La} {p : Product}

theorem laAdd_of_poison (h : p.poison = true) : laAdd acc p = laFlag (laClean acc) 310 := if_pos h

variable (h : p.poison = false)
include h

theorem laAdd_of_nan (hv : p.val = .nan) : laAdd acc p = laFlag (laClean acc) 307 := by rw [laAdd, h, hv]; rfl

theorem laAdd_of_inf {neg : Bool} (hv : p.val = .inf neg) : laAdd acc p = laFlag (laClean acc) (if neg then 306 else 305) := by rw [laAdd, h, hv]; rfl

theorem laAdd_of_large {neg : Bool} {n d : Nat} (hv : p.val = .fin neg n d) (hl : 2 ^ 143 * d ≤ n) :
    laAdd acc p = laFlag (laClean acc) (if neg then 309 else 308) := by
  rw [laAdd, h, hv]; exact if_pos hl

theorem laAdd_of_part {neg : Bool} {n d : Nat} (hv : p.val = .fin neg n d) (hl : n < 2 ^ 143 * d) :
    ∃ b, (b = laClean acc ∧ laFine p = false ∨ b = laFlag (laClean acc) 304 ∧ laFine p = true) ∧ laAdd acc p = laWithSum b (laSum b + laPart p) := by
  have hpart : laPart p = if neg then -((n * 2 ^ 160 / d : Nat) : Int) else (n * 2 ^ 160 / d : Nat) := by rw [laPart, hv]; exact if_pos hl
  refine ⟨if n * 2 ^ 160 % d = 0 then laClean acc else laFlag (laClean acc) 304, ?_, ?_⟩
  · rw [laFine, hv]
    split
    · next h0 => exact .inl ⟨rfl, decide_eq_false fun hn => hn.2 h0⟩
    · next h0 => exact .inr ⟨rfl, decide_eq_true ⟨hl, h0⟩⟩
  · rw [laAdd, h, hv, hpart]
    exact (if_neg (Nat.not_le.2 hl)).trans (congrArg (laWithSum _) (congrArg (· + _) (by split <;> simp [laSum_laFlag])))

end

/-- How an entry takes a product: it raises one flag, or it adds the product's part and may raise the flag of a part below its unit. -/
theorem laAdd_cases (acc : La) (p : Product) :
    (∃ f, 304 ≤ f ∧ f < 311 ∧ laAdd acc p = laFlag (laClean acc) f ∧ (p.poison = false → laPart p = 0) ∧
      ∀ k, 304 ≤ k → k < 311 → laSeen k p = decide (k = f)) ∨
    ∃ b, (b = laClean acc ∧ laFine p = false ∨ b = laFlag (laClean acc) 304 ∧ laFine p = true) ∧ p.poison = false ∧
      laAdd acc p = laWithSum b (laSum b + laPart p) ∧ ∀ k, 304 ≤ k → k < 311 → laSeen k p = (decide (k = 304) && laFine p) := by
  cases hp : p.poison with
  | true =>
    refine .inl ⟨310, by decide, by decide, laAdd_of_poison hp, by simp, fun k _ _ => ?_⟩
    simp [laSeen, hp]
  | false =>
    cases hv : p.val with
    | nan =>
      refine .inl ⟨307, by decide, by decide, laAdd_of_nan hp hv, fun _ => by simp [laPart, hv], fun k hlo hhi => ?_⟩
      interval_cases k <;> simp [laSeen, laRaises, laFine, laLarge, hp, hv]
    | inf neg =>
      refine .inl ⟨_, by split <;> decide, by split <;> decide, laAdd_of_inf hp hv, fun _ => by simp [laPart, hv], fun k hlo hhi => ?_⟩
      cases neg <;> interval_cases k <;> simp [laSeen, laRaises, laFine, laLarge, hp, hv]
    | fin neg n d =>
      rcases Nat.lt_or_ge n (2 ^ 143 * d) with h | h
      · obtain ⟨b, hb, ha⟩ := laAdd_of_part (acc := acc) hp hv h
        refine .inr ⟨b, hb, rfl, ha, fun k hlo hhi => ?_⟩
        interval_cases k <;> simp [laSeen, laRaises, laLarge, hp, hv] <;> omega
      · refine .inl ⟨_, by split <;> decide, by split <;> decide, laAdd_of_large hp hv h, fun _ => ?_, fun k hlo hhi => ?_⟩
        · rw [laPart, hv]; exact if_neg (Nat.not_lt.2 h)
        · cases neg <;> interval_cases k <;> simp [laSeen, laRaises, laFine, laLarge, hp, hv] <;> omega

/-- The sum after a product. -/
theorem laSum_laAdd (acc : La) (p : Product) : laSum (laAdd acc p) = (BitVec.ofInt 312 (laSum acc + if p.poison then 0 else laPart p)).toInt := by
  rcases laAdd_cases acc p with ⟨f, hlo, hhi, ha, hpart, -⟩ | ⟨b, hb, hp, ha, -⟩
  · have hzero : (if p.poison then 0 else laPart p) = 0 := ite_eq_left_iff.2 fun h => hpart (Bool.eq_false_of_not_eq_true h)
    rw [ha, laSum_laFlag _ hlo (by omega), laSum_laClean, hzero, Int.add_zero, laSum_wrap]
  · have hsum : laSum b = laSum acc := by
      rcases hb with ⟨rfl, -⟩ | ⟨rfl, -⟩
      · exact laSum_laClean acc
      · exact (laSum_laFlag _ (by decide) (by decide)).trans (laSum_laClean acc)
    rw [ha, laSum_laWithSum, hsum, hp, if_neg (by decide)]

/-- The flags after a product. -/
theorem laAdd_getLsbD (acc : La) (p : Product) {k : Nat} (hlo : 304 ≤ k) (hhi : k < 311) :
    (laAdd acc p).getLsbD k = (acc.getLsbD k || laSeen k p) := by
  have hclean : (laClean acc).getLsbD k = acc.getLsbD k := by rw [laClean_getLsbD, decide_eq_false (by omega), Bool.not_false, Bool.and_true]
  rcases laAdd_cases acc p with ⟨f, hflo, hfhi, ha, -, hseen⟩ | ⟨b, hb, -, ha, hseen⟩
  · rw [ha, laFlag_getLsbD _ (by omega), hclean, hseen k hlo hhi]
  · rw [ha, laWithSum_getLsbD _ _ hlo (by omega), hseen k hlo hhi]
    rcases hb with ⟨rfl, hf⟩ | ⟨rfl, hf⟩
    · rw [hclean, hf, Bool.and_false, Bool.or_false]
    · rw [laFlag_getLsbD _ (by decide), hclean, hf, Bool.and_true]

/-- The reserved bit after a product. -/
theorem laAdd_reserved (acc : La) (p : Product) : (laAdd acc p).getLsbD 311 = false := by
  have hclean : (laClean acc).getLsbD 311 = false := by rw [laClean_getLsbD]; simp
  rcases laAdd_cases acc p with ⟨f, -, hf, ha, -⟩ | ⟨b, hb, -, ha, -⟩
  · rw [ha, laFlag_getLsbD _ (by omega), hclean, decide_eq_false (by omega)]; rfl
  · rw [ha, laWithSum_getLsbD _ _ (by decide) (by decide)]
    rcases hb with ⟨rfl, -⟩ | ⟨rfl, -⟩
    · exact hclean
    · rw [laFlag_getLsbD _ (by decide), hclean]; rfl

/-! ### What an entry gains by the products of a k-step (R97) -/

theorem foldl_laAdd_getLsbD (ps : List Product) (acc : La) {k : Nat} (hlo : 304 ≤ k) (hhi : k < 311) :
    (ps.foldl laAdd acc).getLsbD k = (acc.getLsbD k || ps.any (laSeen k)) := by
  induction ps generalizing acc with
  | nil => simp
  | cons p ps ih => rw [List.foldl_cons, ih, laAdd_getLsbD acc p hlo hhi, List.any_cons, Bool.or_assoc]

theorem foldl_laAdd_reserved {ps : List Product} (acc : La) (h : ps ≠ []) : (ps.foldl laAdd acc).getLsbD 311 = false := by
  obtain ⟨qs, p, rfl⟩ := List.eq_nil_or_concat' ps |>.resolve_left h
  rw [List.foldl_append]
  exact laAdd_reserved _ p

theorem laSum_foldl_laAdd (ps : List Product) (acc : La) :
    laSum (ps.foldl laAdd acc) = (BitVec.ofInt 312 (laSum acc + ((ps.filter (fun p => !p.poison)).map laPart).sum)).toInt := by
  induction ps generalizing acc with
  | nil => simpa using (laSum_wrap acc).symm
  | cons p ps ih =>
    have hsum : ((List.filter (fun p => !p.poison) (p :: ps)).map laPart).sum =
        (if p.poison then 0 else laPart p) + ((ps.filter (fun p => !p.poison)).map laPart).sum := by
      cases hp : p.poison <;> simp [hp]
    rw [List.foldl_cons, ih, laSum_laAdd, hsum, BitVec.ofInt_add, BitVec.ofInt_toInt, ← BitVec.ofInt_add, Int.add_assoc]

/-! ### Entries after a k-step (R97, R100, R229) -/

theorem foldl_add_eq_sum (l : List Int) : l.foldl (fun a b => a + b) 0 = l.sum := by
  have h (l : List Int) (a : Int) : l.foldl (fun a b => a + b) a = a + l.sum := by
    induction l generalizing a with
    | nil => simp
    | cons b l ih => rw [List.foldl_cons, ih, List.sum_cons, Int.add_assoc]
  rw [h, Int.zero_add]

section
variable {c : Cmd} {e : Entry} {ps : List Product}

/-- The LA320 entry that takes the products: its flag of poison is raised where the entry was read poisoned. -/
def laStart (e : Entry) : La := if e.poison then laFlag (BitVec.ofNat 320 e.bits) 310 else BitVec.ofNat 320 e.bits

theorem laSum_laStart (e : Entry) : laSum (laStart e) = laSum (BitVec.ofNat 320 e.bits) := by
  rw [laStart]
  split
  · exact laSum_laFlag _ (by decide) (by decide)
  · rfl

theorem laStart_getLsbD (e : Entry) (k : Nat) : (laStart e).getLsbD k = ((BitVec.ofNat 320 e.bits).getLsbD k || (e.poison && decide (k = 310))) := by
  rw [laStart]
  cases e.poison with
  | true => exact laFlag_getLsbD _ (by decide) k
  | false => exact (Bool.or_false _).symm

theorem stepEntry_la (h : pairEntry (mmaPair c) = 1) : stepEntry c e ps = (⟨(ps.foldl laAdd (laStart e)).toNat, false⟩, false) := by
  rw [stepEntry, h]; rfl

/-- The integer that a product adds to an entry of 32-bit integers. -/
def intPart (p : Product) : Int :=
  match p.val with
  | .fin neg n d => if neg then -((n / d : Nat) : Int) else ((n / d : Nat) : Int)
  | _ => 0

theorem stepEntry_int (h : pairEntry (mmaPair c) = 2) :
    stepEntry c e ps = (⟨(intStep (BitVec.ofNat 32 e.bits) (ps.map intPart).sum).1.toNat, e.poison || ps.any (·.poison)⟩,
      (intStep (BitVec.ofNat 32 e.bits) (ps.map intPart).sum).2) := by
  rw [stepEntry, h, ← foldl_add_eq_sum]; rfl

theorem stepEntry_f32 (h : pairEntry (mmaPair c) = 0) :
    stepEntry c e ps = (⟨if xIsZero (exactSum (floatVal .f32 e.bits :: ps.map (·.val))) then 0 else
      rnd .f32 (rndOfCode (mmaCrnd c)) (mmaCsat c) (exactSum (floatVal .f32 e.bits :: ps.map (·.val))), e.poison || ps.any (·.poison)⟩, false) := by
  rw [stepEntry, h]; rfl

end

end Sys2Proof.Machine

/-! PROOFS. The entries of each type after a k-step (R97, R100, R229; O22). -/

namespace Sys2Proof.Machine

/-! ### Entries of 32-bit integers (R100) -/

/-- The accumulator keeps the sum, or the nearer end of its range. -/
theorem intStep_eq (acc : BitVec 32) (sum : Int) : intStep acc sum =
    (BitVec.ofInt 32 (max (-(2 ^ 31)) (min (2 ^ 31 - 1) (acc.toInt + sum))),
      decide (acc.toInt + sum ≠ max (-(2 ^ 31)) (min (2 ^ 31 - 1) (acc.toInt + sum)))) := by
  rw [intStep]
  generalize acc.toInt + sum = s
  split
  · rw [show max (-(2 ^ 31)) (min (2 ^ 31 - 1) s) = 2147483647 by omega, decide_eq_true (show s ≠ 2147483647 by omega)]
    rfl
  · split
    · rw [show max (-(2 ^ 31)) (min (2 ^ 31 - 1) s) = -2147483648 by omega, decide_eq_true (show s ≠ -2147483648 by omega)]
      rfl
    · rw [show max (-(2 ^ 31)) (min (2 ^ 31 - 1) s) = s by omega, decide_eq_false (by simp)]

/-! ### The exact sum of an `.f32` entry and its products (R229) -/

section
variable {ts : List XVal}

theorem any_decide_eq (x : XVal) : ts.any (fun t => decide (t = x)) = decide (x ∈ ts) := by
  rw [Bool.eq_iff_iff, List.any_eq_true, decide_eq_true_eq]
  exact ⟨fun ⟨t, ht, h⟩ => of_decide_eq_true h ▸ ht, fun h => ⟨x, h, decide_eq_true rfl⟩⟩

/-- The exact sum, by what stands among its terms. -/
theorem exactSum_eq : exactSum ts =
    if .nan ∈ ts then .nan else if .inf true ∈ ts ∧ .inf false ∈ ts then .nan else if .inf false ∈ ts then .inf false
    else if .inf true ∈ ts then .inf true
    else .fin (decide ((ts.map inUnits).sum < 0)) (ts.map inUnits).sum.natAbs (2 ^ 300) := by
  have hnan : ts.any xIsNan = decide (.nan ∈ ts) := any_decide_eq .nan
  rw [exactSum, hnan, any_decide_eq, any_decide_eq, foldl_add_eq_sum]
  by_cases h1 : XVal.inf true ∈ ts <;> by_cases h2 : XVal.inf false ∈ ts <;> simp [h1, h2]

theorem exactSum_nan (h : .nan ∈ ts ∨ (.inf true ∈ ts ∧ .inf false ∈ ts)) : exactSum ts = .nan := by
  rw [exactSum_eq]
  rcases h with h | h
  · exact if_pos h
  · rw [if_pos h, ite_self]

theorem exactSum_inf {neg : Bool} (hn : .nan ∉ ts) (h : .inf neg ∈ ts) (ho : .inf (!neg) ∉ ts) : exactSum ts = .inf neg := by
  rw [exactSum_eq, if_neg hn]
  cases neg with
  | false => rw [if_neg (fun hb => ho hb.1), if_pos h]
  | true =>
    have hf : XVal.inf false ∉ ts := ho
    rw [if_neg (fun hb => hf hb.2), if_neg hf, if_pos h]

theorem exactSum_fin (hn : .nan ∉ ts) (ht : .inf true ∉ ts) (hf : .inf false ∉ ts) :
    exactSum ts = .fin (decide ((ts.map inUnits).sum < 0)) (ts.map inUnits).sum.natAbs (2 ^ 300) := by
  rw [exactSum_eq, if_neg hn, if_neg (fun hb => ht hb.1), if_neg hf, if_neg ht]

end

/-! ### Fields of the operand words (R226) -/

theorem gaBits_eq_extractLsb' (c : Cmd) (lo n : Nat) : gaBits c lo n = (c.ga.extractLsb' lo n).toNat := by
  rw [gaBits, bitsOf, BitVec.extractLsb'_toNat, Nat.shiftRight_eq_div_pow]

theorem gbBits_eq_extractLsb' (c : Cmd) (lo n : Nat) : gbBits c lo n = (c.gb.extractLsb' lo n).toNat := by
  rw [gbBits, bitsOf, BitVec.extractLsb'_toNat, Nat.shiftRight_eq_div_pow]

theorem decide_toNat_eq_one (b : BitVec 1) : decide (b.toNat = 1) = decide (b = 1) := by
  rw [decide_eq_decide, ← BitVec.toNat_inj]
  rfl

theorem mmaCrnd_eq (c : Cmd) : mmaCrnd c = (c.gb.extractLsb' 52 2).toNat := gbBits_eq_extractLsb' c 52 2

theorem mmaCsat_eq (c : Cmd) : mmaCsat c = decide (c.gb.extractLsb' 54 1 = 1) := by
  rw [mmaCsat, gbBits_eq_extractLsb', decide_toNat_eq_one]

/-! ### The entries after a k-step, as R97, R100 and R229 state them -/

section
variable {c : Cmd} {e : Entry} {ps : List Product}

theorem stepEntry_int_kept (h : pairEntry (mmaPair c) = 2) (total kept : Int)
    (ht : total = (BitVec.ofNat 32 e.bits).toInt + (ps.map intPart).sum) (hk : kept = max (-(2 ^ 31)) (min (2 ^ 31 - 1) total)) :
    stepEntry c e ps = (⟨(BitVec.ofInt 32 kept).toNat, e.poison || ps.any (·.poison)⟩, decide (total ≠ kept)) := by
  rw [stepEntry_int h, intStep_eq, hk, ht]

theorem stepEntry_f32_nonzero (h : pairEntry (mmaPair c) = 0) {x : XVal} (hx : exactSum (floatVal .f32 e.bits :: ps.map (·.val)) = x)
    (hz : xIsZero x = false) :
    stepEntry c e ps = (⟨rnd .f32 (rndOfCode (c.gb.extractLsb' 52 2).toNat) (decide (c.gb.extractLsb' 54 1 = 1)) x, e.poison || ps.any (·.poison)⟩, false) := by
  rw [stepEntry_f32 h, hx, hz, mmaCrnd_eq, mmaCsat_eq]
  rfl

theorem stepEntry_f32_zero (h : pairEntry (mmaPair c) = 0) {x : XVal} (hx : exactSum (floatVal .f32 e.bits :: ps.map (·.val)) = x)
    (hz : xIsZero x = true) : stepEntry c e ps = (⟨0, e.poison || ps.any (·.poison)⟩, false) := by
  rw [stepEntry_f32 h, hx, hz]
  rfl

end

/-- Entries of 32-bit integers, where the products are integers (R100). -/
theorem matrixIntEntries (c : Cmd) (e : Entry) (ps : List Product) (hty : pairEntry (mmaPair c) = 2)
    (hint : ∀ p ∈ ps, ∃ neg n, p.val = .fin neg n 1) :
    let value (p : Product) : Int := match p.val with
      | .fin true n _ => -(n : Int)
      | .fin false n _ => (n : Int)
      | _ => 0
    let total := (BitVec.ofNat 32 e.bits).toInt + (ps.map value).sum
    let kept := max (-(2 ^ 31)) (min (2 ^ 31 - 1) total)
    stepEntry c e ps = (⟨(BitVec.ofInt 32 kept).toNat, e.poison || ps.any (·.poison)⟩, decide (total ≠ kept)) := by
  intro value total kept
  have hmap : ps.map value = ps.map intPart := List.map_congr_left fun p hp => by
    obtain ⟨neg, n, hv⟩ := hint p hp
    cases neg <;> simp [value, intPart, hv]
  exact stepEntry_int_kept hty total kept (by rw [← hmap]) rfl

/-- Entries of `.f32` (R229). -/
theorem matrixFloatEntries (c : Cmd) (e : Entry) (ps : List Product) (hty : pairEntry (mmaPair c) = 0) :
    let terms := fmtVal .f32 e.bits :: ps.map (·.val)
    let unit (x : XVal) : Int := match x with
      | .fin neg n d => if neg then -((n * 2 ^ 300 / d : Nat) : Int) else (n * 2 ^ 300 / d : Nat)
      | _ => 0
    let total := (terms.map unit).sum
    let mode := rndOfCode (c.gb.extractLsb' 52 2).toNat
    let sat := decide (c.gb.extractLsb' 54 1 = 1)
    let gives (v : Nat) : Prop := stepEntry c e ps = (⟨v, e.poison || ps.any (·.poison)⟩, false)
    (.nan ∈ terms ∨ (.inf true ∈ terms ∧ .inf false ∈ terms) → gives 0x7FC00000) ∧
    (∀ neg, .nan ∉ terms → .inf neg ∈ terms → .inf (!neg) ∉ terms → gives (rnd .f32 mode sat (.inf neg))) ∧
    (.nan ∉ terms → .inf true ∉ terms → .inf false ∉ terms →
      (total = 0 → gives 0) ∧
      (total ≠ 0 → gives (rnd .f32 mode sat (.fin (decide (total < 0)) total.natAbs (2 ^ 300))))) := by
  intro terms unit total mode sat gives
  have hunit : unit = inUnits := by
    funext x
    cases x <;> rfl
  have htotal : total = (terms.map inUnits).sum := by rw [← hunit]
  refine ⟨fun h => ?_, fun neg hn hi ho => ?_, fun hn ht hf => ?_⟩
  · exact stepEntry_f32_nonzero hty (exactSum_nan h) rfl
  · exact stepEntry_f32_nonzero hty (exactSum_inf hn hi ho) rfl
  · have hsum : exactSum terms = .fin (decide (total < 0)) total.natAbs (2 ^ 300) := htotal ▸ exactSum_fin hn ht hf
    exact ⟨fun h0 => stepEntry_f32_zero hty hsum (decide_eq_true (Int.natAbs_eq_zero.2 h0)),
      fun h0 => stepEntry_f32_nonzero hty hsum (decide_eq_false (mt Int.natAbs_eq_zero.1 h0))⟩

/-- A flag that unpoisoned products alone raise. -/
theorem any_laSeen {k : Nat} (hk : k ≠ 310) (ps : List Product) : ps.any (laSeen k) = (ps.filter (fun p => !p.poison)).any (laRaises k) := by
  rw [List.any_filter]
  exact congrArg (ps.any ·) (funext fun p => by rw [laSeen, if_neg hk])

/-- LA320 entries: the sum, and the flags by what raises them (R97). -/
theorem matrixLaEntries (c : Cmd) (e : Entry) (ps : List Product) (hty : pairEntry (mmaPair c) = 1) (hps : ps ≠ []) :
    let r := stepEntry c e ps
    let old := BitVec.ofNat 320 e.bits
    let acc := BitVec.ofNat 320 r.1.bits
    let clean := ps.filter (fun p => !p.poison)
    let seen (k : Nat) (b : Bool) : Prop := acc.getLsbD k = (old.getLsbD k || b)
    r.2 = false ∧ r.1.poison = false ∧ r.1.bits < 2 ^ 320 ∧ acc.getLsbD 311 = false ∧
    laSum acc = (BitVec.ofInt 312 (laSum old + (clean.map laPart).sum)).toInt ∧
    seen 310 (e.poison || ps.any (·.poison)) ∧ ∀ k, 304 ≤ k → k < 310 → seen k (clean.any (laRaises k)) := by
  intro r old acc clean seen
  have hr : r = (⟨(ps.foldl laAdd (laStart e)).toNat, false⟩, false) := stepEntry_la hty
  have hacc : acc = ps.foldl laAdd (laStart e) := (congrArg (fun r => BitVec.ofNat 320 r.1.bits) hr).trans ((BitVec.ofNat_toNat ..).trans (BitVec.setWidth_eq _))
  refine ⟨by rw [hr], by rw [hr], ?_, hacc ▸ foldl_laAdd_reserved _ hps, ?_, ?_, fun k hlo hhi => ?_⟩
  · rw [hr]
    exact (ps.foldl laAdd (laStart e)).isLt
  · rw [hacc, laSum_foldl_laAdd, laSum_laStart]
  · show acc.getLsbD 310 = _
    rw [hacc, foldl_laAdd_getLsbD _ _ (by decide) (by decide), laStart_getLsbD, decide_eq_true rfl, Bool.and_true, Bool.or_assoc]
    rfl
  · show acc.getLsbD k = _
    rw [hacc, foldl_laAdd_getLsbD _ _ hlo (by omega), laStart_getLsbD, decide_eq_false (by omega), Bool.and_false, Bool.or_false, any_laSeen (by omega)]

end Sys2Proof.Machine

/-! PROOFS. The turns of a matrix engine (R229, R231; O22). -/

namespace Sys2Proof.Machine

/-! ### The turns of a matrix engine (R229, R231) -/

section
variable {s : State} {c u : Nat} {k : Cmd} (hrun : (unitAt s c u).running = some k)
include hrun

theorem exec_kStep_of_running : exec (.kStep c u) s = .next (
    if cmdMajor k ≠ 0x32 ∨ 1 < matOp k then s
    else if mmaSteps k = 0 then
      completeCmd (if mmaZero k then writeTile s c (pairEntry (mmaPair k)) (mmaCoff k) (List.replicate 1024 ⟨0, false⟩) else s) c u
    else if mmaSteps k ≤ k.step + 1 then completeCmd (modRunning (kStep s c k k.step) c u (fun k => { k with step := k.step + 1 })) c u
    else stepBoundary (woundAtStep (modRunning (kStep s c k k.step) c u (fun k => { k with step := k.step + 1 })) c (cmdTarget k)) c u) := by
  show execKStep c u s = _
  rw [execKStep, hrun]

theorem exec_mdrainExecute_of_running : exec (.mdrainExecute c u) s = .next (
    if cmdMajor k ≠ 0x32 ∨ matOp k ≠ 2 then s else
    completeCmd (putBytesMap (readTile s c (drainSrc k) (gaBits k 0 20)).1 (cCell c (gbBits k 0 20))
      ((readTile s c (drainSrc k) (gaBits k 0 20)).2.flatMap (fun e =>
        leBytes (convertEntry (drainSrc k) (drainFmt k) (rndOfCode (gaBits k 21 2)) (decide (gaBits k 23 1 = 1)) e.bits) (drainWidth k)))
      ((readTile s c (drainSrc k) (gaBits k 0 20)).2.flatMap (fun e => List.replicate (drainWidth k) e.poison))) c u) := by
  show execMdrainExecute c u s = _
  rw [execMdrainExecute, hrun]

end

/-- The format of a drain and the type of its entries lie in the bits of its word. -/
theorem drainFmt_eq (k : Cmd) : drainFmt k = (fmtOfCode (k.word % 16)).getD .f32 := by
  rw [drainFmt, cmdMinor, bitsOf, bitsOf, show k.word / 2 ^ 0 % 2 ^ 10 / 2 ^ 0 % 2 ^ 4 = k.word % 16 by omega]

theorem drainSrc_eq (k : Cmd) : drainSrc k = k.word / 16 % 4 := by
  rw [drainSrc, cmdMinor, bitsOf, bitsOf]
  omega

theorem mmaZero_eq (k : Cmd) : mmaZero k = decide (matOp k = 1) := rfl

/-- The turns of an engine by the operation that runs on it. -/
theorem matrixTurns (s : State) (c u : Nat) (k : Cmd) (hrun : (unitAt s c u).running = some k) (hmaj : cmdMajor k = 0x32) :
    (matOp k ≤ 1 → mmaSteps k = 0 →
      exec (.kStep c u) s = .next (completeCmd
        (if matOp k = 1 then writeTile s c (pairEntry (mmaPair k)) (mmaCoff k) (List.replicate 1024 ⟨0, false⟩) else s) c u)) ∧
    (matOp k ≤ 1 → mmaSteps k ≠ 0 →
      let s1 := modRunning (kStep s c k k.step) c u (fun k => { k with step := k.step + 1 })
      (mmaSteps k ≤ k.step + 1 → exec (.kStep c u) s = .next (completeCmd s1 c u)) ∧
      (k.step + 1 < mmaSteps k → exec (.kStep c u) s = .next (stepBoundary (woundAtStep s1 c (cmdTarget k)) c u))) ∧
    (1 < matOp k → exec (.kStep c u) s = .next s) ∧
    (matOp k = 2 →
      let fmt := (fmtOfCode (k.word % 16)).getD .f32
      let ty := k.word / 16 % 4
      let mode := rndOfCode (k.ga.extractLsb' 21 2).toNat
      let sat := (k.ga.extractLsb' 23 1) = 1
      let tile := readTile s c ty (k.ga.extractLsb' 0 20).toNat
      let w := fmtWidth fmt / 8
      exec (.mdrainExecute c u) s = .next (completeCmd (putBytesMap tile.1 (cCell c (k.gb.extractLsb' 0 20).toNat)
        (tile.2.flatMap (fun e => leBytes (convertEntry ty fmt mode sat e.bits) w))
        (tile.2.flatMap (fun e => List.replicate w e.poison))) c u)) ∧
    (matOp k ≠ 2 → exec (.mdrainExecute c u) s = .next s) := by
  rw [exec_kStep_of_running hrun, exec_mdrainExecute_of_running hrun]
  refine ⟨fun hop h0 => ?_, fun hop h0 => ⟨fun hlast => ?_, fun hmore => ?_⟩, fun hop => ?_, fun hop => ?_, fun hop => ?_⟩
  · rw [if_neg (by omega), if_pos h0, mmaZero_eq]
    simp only [decide_eq_true_eq]
  · rw [if_neg (by omega), if_neg h0, if_pos hlast]
  · rw [if_neg (by omega), if_neg h0, if_neg (Nat.not_le.2 hmore)]
  · rw [if_pos (.inr hop)]
  · rw [if_neg (by omega)]
    simp only [drainWidth, drainFmt_eq, drainSrc_eq, gaBits_eq_extractLsb', gbBits_eq_extractLsb', decide_toNat_eq_one]
  · rw [if_pos (.inr hop)]

end Sys2Proof.Machine

/-! PROOFS. Lists given by their places, and reads of a sound memory (R413; O22). -/

namespace Sys2Proof.Machine

/-! ### Lists given by their places -/

/-- The pieces of a list that is given by its places. -/
theorem chunks_map_range {α : Type} (w k n : Nat) (f : Nat → α) (h : k * w ≤ n) :
    chunks w k ((List.range n).map f) = (List.range k).map (fun i => (List.range w).map (fun j => f (i * w + j))) := by
  induction k generalizing n f with
  | zero => rfl
  | succ k ih =>
    rw [Nat.succ_mul] at h
    obtain ⟨m, rfl⟩ : ∃ m, n = w + m := ⟨n - w, by omega⟩
    rw [chunks, List.range_add, List.map_append, List.map_map, List.take_left' (by simp), List.drop_left' (by simp), ih _ _ (by omega),
      List.range_succ_eq_map, List.map_cons, List.map_map]
    refine congrArg₂ List.cons (by simp) (List.map_congr_left fun i _ => List.map_congr_left fun j _ => congrArg f ?_)
    show w + (i * w + j) = (i + 1) * w + j
    rw [Nat.succ_mul]
    omega

/-- Rows of one length, one after the other, given by their places. -/
theorem flatMap_range_map_range {α : Type} (n m : Nat) (g : Nat → Nat → α) :
    (List.range n).flatMap (fun i => (List.range m).map (g i)) = (List.range (n * m)).map (fun q => g (q / m) (q % m)) := by
  induction n with
  | zero => simp
  | succ n ih =>
    rw [List.range_succ, List.flatMap_append, ih, Nat.succ_mul, List.range_add, List.map_append, List.map_map, List.flatMap_singleton]
    refine congrArg _ (List.map_congr_left fun j hj => ?_)
    have hj : j < m := List.mem_range.1 hj
    rw [Function.comp_apply, Nat.mul_comm n m, Nat.mul_add_div (by omega), Nat.mul_add_mod, Nat.div_eq_of_lt hj, Nat.mod_eq_of_lt hj, Nat.add_zero]

theorem replicate_eq_map_range {α : Type} (n : Nat) (x : α) : List.replicate n x = (List.range n).map (fun _ => x) := by simp

/-- What stands at a place among runs of one length that are put one after the other. -/
theorem take_drop_flatMap_range {α : Type} {w n q : Nat} (g : Nat → List α) (hg : ∀ i, (g i).length = w) (hq : q < n) :
    (((List.range n).flatMap g).drop (q * w)).take w = g q := by
  obtain ⟨r, rfl⟩ : ∃ r, n = q + (1 + r) := ⟨n - q - 1, by omega⟩
  have hlen : ((List.range q).flatMap g).length = q * w := by
    rw [List.length_flatMap, List.map_congr_left (fun i _ => hg i)]
    simp
  rw [List.range_add, List.flatMap_append, List.drop_left' hlen, Nat.add_comm 1 r, List.range_succ_eq_map, List.map_cons, List.flatMap_cons, Nat.add_zero]
  exact List.take_left' (hg q)

/-- A table of rows. -/
def grid {α : Type} (n m : Nat) (f : Nat → Nat → α) : List (List α) := (List.range n).map (fun i => (List.range m).map (f i))

/-! ### Reads of a memory without poison or error (R413) -/

theorem cellsRead_eq_map_range {c : Cells} (h : Memory.wf c = true) (a n : Nat) : cellsRead c a n = (List.range n).map (fun j => cellGet (a + j) c) := by
  apply List.ext_getElem
  · rw [cellsRead_length, List.length_map, List.length_range]
  · intro k h1 h2
    rw [cellsRead_length] at h1
    have hget := cellsRead_get (a := a) h h1
    rw [List.getD_eq_getElem _ _ (by rwa [cellsRead_length])] at hget
    rw [hget, List.getElem_map, List.getElem_range]

theorem chunks_cellsRead {c : Cells} (h : Memory.wf c = true) {w k n : Nat} (a : Nat) (hn : k * w ≤ n) :
    chunks w k (cellsRead c a n) = (List.range k).map (fun i => cellsRead c (a + i * w) w) := by
  rw [cellsRead_eq_map_range h, chunks_map_range _ _ _ _ hn]
  exact List.map_congr_left fun i _ => by
    rw [cellsRead_eq_map_range h]
    exact List.map_congr_left fun j _ => by rw [Nat.add_assoc]

theorem chunks_replicate {α : Type} {w k n : Nat} (x : α) (hn : k * w ≤ n) : chunks w k (List.replicate n x) = List.replicate k (List.replicate w x) := by
  rw [replicate_eq_map_range, chunks_map_range _ _ _ _ hn, replicate_eq_map_range, replicate_eq_map_range]

theorem take_cellsRead {c : Cells} (h : Memory.wf c = true) (a : Nat) {m n : Nat} (hm : m ≤ n) : (cellsRead c a n).take m = cellsRead c a m := by
  rw [cellsRead_eq_map_range h, cellsRead_eq_map_range h, ← List.map_take, List.take_range, Nat.min_eq_left hm]

theorem drop_cellsRead {c : Cells} (h : Memory.wf c = true) (a m n : Nat) : (cellsRead c a (m + n)).drop m = cellsRead c (a + m) n := by
  rw [cellsRead_eq_map_range h, cellsRead_eq_map_range h, List.range_add, List.map_append, List.map_map, List.drop_left' (by simp)]
  exact List.map_congr_left fun j _ => by rw [Function.comp_apply, Nat.add_assoc]

theorem anyIn_nil (us : List Nat) : anyIn us [] = false := List.any_eq_false.2 fun _ _ => Bool.false_ne_true

section
variable {s : State} (hs : Sound s)
include hs

theorem Sound.memReadMap (a n : Nat) : memReadMap s a n = (s, cellsRead s.cells a n, List.replicate n false) := by
  obtain ⟨-, herrs, hmarks, -⟩ := hs
  have hread : memRead s a n = (s, ⟨cellsRead s.cells a n, 0⟩) := by
    rw [memRead, herrs, hmarks, anyIn_nil, anyIn_nil]
    have hfresh : (unitsOf (markSize a) a n).any (fun u => !setHas u [] && setHas (u / errSize a * errSize a) []) = false :=
      List.any_eq_false.2 fun _ _ => Bool.false_ne_true
    rw [hfresh]
    rfl
  rw [Machine.memReadMap, hread]
  rfl

end

/-! ### Elements of a run of bytes (R81, R228) -/

/-- A number of `n` bytes in the memory. -/
def numberAt (c : Cells) (cell n : Nat) : Nat := leNat (cellsRead c cell n)

theorem elemsOf_cellsRead {c : Cells} (h : Memory.wf c = true) {f : Fmt} {w : Nat} (hf : f ≠ .t2) (hw : fmtWidth f / 8 = w) (hpos : 0 < w) (a k : Nat) :
    elemsOf f (cellsRead c a (k * w)) (List.replicate (k * w) false) = (List.range k).map (fun j => ⟨fmtVal f (numberAt c (a + j * w) w), false⟩) := by
  rw [elemsOf, if_neg hf]
  simp only [hw, cellsRead_length, Nat.mul_div_cancel _ hpos]
  rw [chunks_cellsRead h a le_rfl, chunks_replicate _ le_rfl, replicate_eq_map_range k, List.zip_map', List.map_map]
  exact List.map_congr_left fun j _ => by simp [numberAt]

/-- A ternary code, of the four that a byte holds. -/
def ternaryAt (c : Cells) (cell kk : Nat) : Nat := numberAt c (cell + kk / 4) 1 / 4 ^ (kk % 4) % 4

theorem elemsOf_t2_cellsRead {c : Cells} (h : Memory.wf c = true) (a n : Nat) : elemsOf .t2 (cellsRead c a n) (List.replicate n false) =
    (List.range (n * 4)).map (fun kk => ⟨fmtVal .t2 (ternaryAt c a kk), fmtPoison .t2 (ternaryAt c a kk)⟩) := by
  have hbyte (b : Nat) : leNat (cellsRead c b 1) = (cellGet b c).toNat := by
    rw [cellsRead_eq_map_range h]
    exact Nat.add_zero _
  rw [elemsOf, if_pos rfl, cellsRead_eq_map_range h, replicate_eq_map_range n, List.zip_map', List.flatMap_map,
    show [0, 1, 2, 3] = List.range 4 from rfl, flatMap_range_map_range]
  exact List.map_congr_left fun kk _ => by simp only [ternaryAt, numberAt, hbyte, bitsOf, Nat.pow_mul, Bool.false_or]; rfl

end Sys2Proof.Machine

/-! PROOFS. The blocks, scales and tiles that a k-step reads (R96, R228, R230; O22). -/

namespace Sys2Proof.Machine

/-! ### The operands of a k-step (R96, R228) -/

/-- The value at place `kk` of row `i` of an operand block whose elements are of whole bytes, without its scale. -/
def plainAt (c : Cells) (cell : Nat) (f : Fmt) (row i kk : Nat) : XVal :=
  fmtVal f (numberAt c (cell + i * row + kk * (fmtWidth f / 8)) (fmtWidth f / 8))

/-- The element at place `kk` of row `i` of an operand block, in pair `p`. -/
def elementAt (c : Cells) (p cell : Nat) (f : Fmt) (row i kk : Nat) : Elem :=
  if f = .t2 then ⟨fmtVal .t2 (ternaryAt c (cell + i * row) kk), fmtPoison .t2 (ternaryAt c (cell + i * row) kk)⟩ else
  ⟨if 14 ≤ p then xMul (plainAt c cell f row i kk) (fmtVal .f32 (numberAt c (cell + 2048 + 8 * i + 4 * (kk / 32)) 4)) else plainAt c cell f row i kk, false⟩

section
variable {s : State} (hs : Sound s)
include hs

theorem blockRows_t2 {p : Nat} (cell : Nat) :
    blockRows s cell .t2 128 1024 false = (s, grid 32 128 (elementAt s.cells p cell .t2 32)) := by
  rw [blockRows, hs.memReadMap]
  show (s, ((chunks 32 32 (cellsRead s.cells cell 1024)).zip (chunks 32 32 (List.replicate 1024 false))).map (fun p => elemsOf .t2 p.1 p.2)) = _
  rw [chunks_cellsRead hs.1 cell (by decide), chunks_replicate _ (by decide), replicate_eq_map_range 32, List.zip_map', List.map_map]
  exact congrArg (Prod.mk s) (List.map_congr_left fun i _ => elemsOf_t2_cellsRead hs.1 _ 32)

/-- The rows of a block whose elements are of whole bytes. -/
theorem rows_cellsRead {f : Fmt} {w k bytes : Nat} (hf : f ≠ .t2) (hw : fmtWidth f = 8 * w) (hpos : 0 < w) (cell : Nat) (hb : 32 * (k * w) ≤ bytes) :
    ((chunks (k * fmtWidth f / 8) 32 (cellsRead s.cells cell bytes)).zip (chunks (k * fmtWidth f / 8) 32 (List.replicate bytes false))).map
      (fun p => elemsOf f p.1 p.2) =
    grid 32 k (fun i kk => ⟨fmtVal f (numberAt s.cells (cell + i * (k * w) + kk * w) w), false⟩) := by
  rw [hw, show k * (8 * w) / 8 = k * w by rw [Nat.mul_left_comm, Nat.mul_div_cancel_left _ (by decide)], chunks_cellsRead hs.1 cell hb,
    chunks_replicate _ hb, replicate_eq_map_range 32, List.zip_map', List.map_map]
  exact List.map_congr_left fun i _ => elemsOf_cellsRead hs.1 hf (by rw [hw, Nat.mul_div_cancel_left _ (by decide)]) hpos _ k

theorem blockRows_plain {p : Nat} {f : Fmt} {w k bytes : Nat} (hp : p < 14) (hf : f ≠ .t2) (hw : fmtWidth f = 8 * w) (hpos : 0 < w) (cell : Nat)
    (hb : 32 * (k * w) ≤ bytes) : blockRows s cell f k bytes false = (s, grid 32 k (elementAt s.cells p cell f (k * w))) := by
  rw [blockRows, hs.memReadMap]
  refine congrArg (Prod.mk s) ((rows_cellsRead hs hf hw hpos cell hb).trans (congrArg (grid 32 k) (funext fun i => funext fun kk => ?_)))
  rw [elementAt, if_neg hf, if_neg (by omega), plainAt, hw, Nat.mul_div_cancel_left _ (by decide)]

theorem blockRows_scaled {p : Nat} {f : Fmt} (hp : 14 ≤ p) (hf : f ≠ .t2) (hw : fmtWidth f = 8) (cell : Nat) :
    blockRows s cell f 64 2304 true = (s, grid 32 64 (elementAt s.cells p cell f 64)) := by
  have hscales : elemsOf .f32 ((cellsRead s.cells cell 2304).drop 2048) ((List.replicate 2304 false).drop 2048) =
      (List.range 64).map (fun j => ⟨fmtVal .f32 (numberAt s.cells (cell + 2048 + j * 4) 4), false⟩) := by
    rw [show 2304 = 2048 + 64 * 4 by decide, drop_cellsRead hs.1, List.drop_replicate, Nat.add_sub_cancel_left]
    exact elemsOf_cellsRead hs.1 (by decide) rfl (by decide) _ 64
  rw [blockRows, hs.memReadMap]
  refine congrArg (Prod.mk s) ?_
  show List.map (fun p => scaleElems p.1 p.2) (List.zip _ (chunks 2 32 _)) = _
  rw [hscales, rows_cellsRead hs (w := 1) hf (by rw [hw]) (by decide) cell (by decide), chunks_map_range _ _ _ _ (by decide), grid, List.zip_map', List.map_map]
  refine List.map_congr_left fun i _ => ?_
  rw [Function.comp_apply, scaleElems, List.length_map, List.length_range, chunks_map_range _ _ _ _ (by decide), List.zip_map', List.flatMap_map]
  simp only [List.map_map]
  rw [flatMap_range_map_range]
  refine List.map_congr_left fun kk _ => ?_
  rw [elementAt, if_neg hf, if_pos hp, plainAt, hw, Function.comp_apply, Nat.div_add_mod', show cell + 2048 + (i * 2 + kk / 32) * 4 = cell + 2048 + 8 * i + 4 * (kk / 32) by omega]
  rfl

/-! ### Entries of C (R97, R119) -/

/-- The entry of a type at a cell. -/
def entryAt (c : Cells) (cell ty : Nat) : Entry :=
  ⟨numberAt c cell (if ty = 1 then 40 else 4), decide (ty = 1) && laPoison (BitVec.ofNat 320 (numberAt c cell (if ty = 1 then 40 else 4)))⟩

theorem take_entry (a ty : Nat) : (cellsRead s.cells a (entryBytes ty)).take 40 = cellsRead s.cells a (if ty = 1 then 40 else 4) := by
  rw [entryBytes]
  split
  · exact take_cellsRead hs.1 a (by decide)
  · exact List.take_of_length_le (by rw [cellsRead_length]; decide)

theorem readTile_eq (cl ty off : Nat) :
    readTile s cl ty off = (s, (List.range 1024).map (fun q => entryAt s.cells (cCell cl (off + q * entryBytes ty)) ty)) := by
  rw [readTile, hs.memReadMap]
  refine congrArg (Prod.mk s) ?_
  rw [chunks_cellsRead hs.1 _ le_rfl, chunks_replicate _ le_rfl, replicate_eq_map_range 1024, List.zip_map', List.map_map]
  refine List.map_congr_left fun q _ => ?_
  have hclean : ((List.replicate (entryBytes ty) false).take 40).any (fun b => b) = false := by simp
  rw [Function.comp_apply, take_entry hs, hclean, cCell, cCell, Nat.add_assoc]
  rfl

/-- The element at column `kk` of row `i` of the operand that k-step `n` takes from C through the down-converter (R228, R230). -/
def downAt (c : Cells) (k : Cmd) (cl n i kk : Nat) : Elem :=
  let x := entryAt c (cCell cl (mmaAoff k + (n * (pairK (mmaPair k) / 32) + kk / 32) * (1024 * entryBytes (mmaCtype k)) +
    (32 * i + kk % 32) * entryBytes (mmaCtype k))) (mmaCtype k)
  ⟨fmtVal (pairA (mmaPair k)) (convertEntry (mmaCtype k) (pairA (mmaPair k)) (rndOfCode (mmaDrnd k)) (mmaDsat k) x.bits), x.poison⟩

theorem rowsFromC_eq (k : Cmd) (cl n m : Nat) : rowsFromC s k cl n m = (s, grid 32 (32 * m) (downAt s.cells k cl n)) := by
  induction m with
  | zero => rfl
  | succ m ih =>
    rw [rowsFromC, ih]
    refine Prod.ext (by rw [readTile_eq hs]) ?_
    simp only [readTile_eq hs]
    rw [chunks_map_range _ _ _ _ (by decide), grid, List.zip_map', List.map_map, Nat.mul_succ]
    refine List.map_congr_left fun i _ => ?_
    rw [List.range_add, List.map_append, List.map_map, Function.comp_apply, List.map_map]
    refine congrArg _ (List.map_congr_left fun j hj => ?_)
    have hj : j < 32 := List.mem_range.1 hj
    rw [Function.comp_apply, Function.comp_apply, downAt, show (32 * m + j) / 32 = m by omega, show (32 * m + j) % 32 = j by omega, Nat.mul_comm i 32]

end

end Sys2Proof.Machine

/-! PROOFS. The operands, products and entries of a k-step (R96, R229; O22). -/

namespace Sys2Proof.Machine

/-! ### Operands and products of a k-step (R96, R228) -/

/-- What an operand block of a pair holds: whole elements where the pair has no scales. -/
theorem pairA_plain : ∀ p < 14, pairA p ≠ .t2 ∧ fmtWidth (pairA p) = 8 * (fmtWidth (pairA p) / 8) ∧ 0 < fmtWidth (pairA p) / 8 ∧
    pairK p * (fmtWidth (pairA p) / 8) = (if p = 13 then 128 else 64) ∧ 32 * (pairK p * (fmtWidth (pairA p) / 8)) ≤ blockA p ∧ pairScaled p = false := by
  decide

theorem pairB_plain : ∀ p < 13, pairB p ≠ .t2 ∧ fmtWidth (pairB p) = 8 * (fmtWidth (pairB p) / 8) ∧ 0 < fmtWidth (pairB p) / 8 ∧
    pairK p * (fmtWidth (pairB p) / 8) = (if p = 13 then 32 else 64) ∧ 32 * (pairK p * (fmtWidth (pairB p) / 8)) ≤ blockB p ∧ pairScaled p = false := by
  decide

theorem pair_scaled {p : Nat} (hlo : 14 ≤ p) (hhi : p < 16) : pairA p ≠ .t2 ∧ fmtWidth (pairA p) = 8 ∧ pairB p = pairA p ∧ pairK p = 64 ∧ blockA p = 2304 ∧
    blockB p = 2304 ∧ pairScaled p = true := by
  interval_cases p <;> decide

/-- The element at place `kk` of row `i` of A, and that of column `j` of B. -/
def leftAt (c : Cells) (k : Cmd) (cl n i kk : Nat) : Elem :=
  if mmaFromC k then downAt c k cl n i kk
  else elementAt c (mmaPair k) (aCell cl (mmaAoff k + n * blockA (mmaPair k))) (pairA (mmaPair k)) (if mmaPair k = 13 then 128 else 64) i kk
def rightAt (c : Cells) (k : Cmd) (cl n j kk : Nat) : Elem :=
  elementAt c (mmaPair k) (wCell cl (mmaBoff k + n * blockB (mmaPair k))) (pairB (mmaPair k)) (if mmaPair k = 13 then 32 else 64) j kk

/-- An operand's value in its products: a poisoned one enters as 0. -/
def entering (x : Elem) : XVal := if x.poison then .fin false 0 1 else x.val

theorem enters_val (x : Elem) : (enters x).val = entering x := by
  rw [enters, entering]
  split <;> rfl

/-- The products of row `i` and column `j`. -/
def termsAt (c : Cells) (k : Cmd) (cl n i j : Nat) : List Product :=
  (List.range (pairK (mmaPair k))).map (fun kk => ⟨xMul (entering (leftAt c k cl n i kk)) (entering (rightAt c k cl n j kk)),
    (leftAt c k cl n i kk).poison || (rightAt c k cl n j kk).poison⟩)

/-- Where an entry of the tile stands. -/
def entryPlace (k : Cmd) (cl i j : Nat) : Nat := cCell cl (mmaCoff k + (32 * i + j) * entryBytes (pairEntry (mmaPair k)))

/-- An entry of the tile before the k-step, and after it with whether it saturated. -/
def oldEntry (c : Cells) (k : Cmd) (cl n i j : Nat) : Entry :=
  if matOp k = 1 ∧ n = 0 then ⟨0, false⟩ else entryAt c (entryPlace k cl i j) (pairEntry (mmaPair k))
def newEntry (c : Cells) (k : Cmd) (cl n i j : Nat) : Entry × Bool := stepEntry k (oldEntry c k cl n i j) (termsAt c k cl n i j)

theorem products_range (n : Nat) (a b : Nat → Elem) : products ((List.range n).map a) ((List.range n).map b) =
    (List.range n).map (fun kk => ⟨xMul (entering (a kk)) (entering (b kk)), (a kk).poison || (b kk).poison⟩) := by
  rw [products, List.zip_map', List.map_map]
  exact List.map_congr_left fun kk _ => by simp only [Function.comp_apply, enters_val]

/-- The state after a k-step, by its tile: counters have moved and a flag may be set. -/
def kStepDone (k : Cmd) (cl : Nat) (new : Nat → Nat → Entry × Bool) (skipped : Nat) (s : State) : State :=
  let out := (List.range 1024).map (fun q => new (q / 32) (q % 32))
  let s := writeTile s cl (pairEntry (mmaPair k)) (mmaCoff k) (out.map (·.1))
  let s := addCounter (addCounter (addCounter s k.ctx 0x50 1) k.ctx 0x58 (1024 * pairK (mmaPair k) - skipped)) k.ctx 0x60 skipped
  if out.any (·.2) then satSet s cl (cmdTarget k % 8) true else s

section
variable {s : State} (hs : Sound s) {k : Cmd} (hp : mmaPair k < 16)
include hs

theorem blockRows_left {p : Nat} (hp : p < 16) (cell : Nat) : blockRows s cell (pairA p) (pairK p) (blockA p) (pairScaled p) =
    (s, grid 32 (pairK p) (elementAt s.cells p cell (pairA p) (if p = 13 then 128 else 64))) := by
  rcases Nat.lt_or_ge p 14 with h | h
  · obtain ⟨hf, hw, hpos, hrow, hb, hsc⟩ := pairA_plain p h
    rw [hsc, ← hrow]
    exact blockRows_plain hs h hf hw hpos cell hb
  · obtain ⟨hf, hw, -, hk, hb, -, hsc⟩ := pair_scaled h hp
    rw [hsc, hk, hb, if_neg (by omega)]
    exact blockRows_scaled hs h hf hw cell

theorem blockRows_right {p : Nat} (hp : p < 16) (cell : Nat) : blockRows s cell (pairB p) (pairK p) (blockB p) (pairScaled p) =
    (s, grid 32 (pairK p) (elementAt s.cells p cell (pairB p) (if p = 13 then 32 else 64))) := by
  rcases Nat.lt_trichotomy p 13 with h | rfl | h
  · obtain ⟨hf, hw, hpos, hrow, hb, hsc⟩ := pairB_plain p h
    rw [hsc, ← hrow]
    exact blockRows_plain hs (by omega) hf hw hpos cell hb
  · exact blockRows_t2 hs cell
  · obtain ⟨hf, hw, hB, hk, -, hb, hsc⟩ := pair_scaled h hp
    rw [hsc, hk, hb, hB, if_neg (by omega)]
    exact blockRows_scaled hs h hf hw cell

include hp

theorem leftRows (cl n : Nat) :
    (if mmaFromC k then rowsFromC s k cl n (pairK (mmaPair k) / 32)
      else blockRows s (aCell cl (mmaAoff k + n * blockA (mmaPair k))) (pairA (mmaPair k)) (pairK (mmaPair k)) (blockA (mmaPair k)) (pairScaled (mmaPair k))) =
    (s, grid 32 (pairK (mmaPair k)) (leftAt s.cells k cl n)) := by
  have hK : 32 * (pairK (mmaPair k) / 32) = pairK (mmaPair k) := by
    generalize mmaPair k = p
    unfold pairK
    split
    · rfl
    · split <;> rfl
  cases hC : mmaFromC k with
  | true =>
    have hleft : leftAt s.cells k cl n = downAt s.cells k cl n := funext fun i => funext fun kk => by rw [leftAt, if_pos hC]
    rw [if_pos rfl, rowsFromC_eq hs, hK, hleft]
  | false =>
    have hleft : leftAt s.cells k cl n = elementAt s.cells (mmaPair k) (aCell cl (mmaAoff k + n * blockA (mmaPair k))) (pairA (mmaPair k))
        (if mmaPair k = 13 then 128 else 64) := funext fun i => funext fun kk => by rw [leftAt, if_neg (by rw [hC]; decide)]
    rw [if_neg (by decide), blockRows_left hs hp, hleft]

omit hp in
theorem oldTile (k : Cmd) (cl n : Nat) :
    (if mmaZero k && decide (n = 0) then (s, List.replicate 1024 ⟨0, false⟩) else readTile s cl (pairEntry (mmaPair k)) (mmaCoff k)) =
    (s, (List.range 1024).map (fun q => oldEntry s.cells k cl n (q / 32) (q % 32))) := by
  by_cases hz : matOp k = 1 ∧ n = 0
  · have hold (q : Nat) : oldEntry s.cells k cl n (q / 32) (q % 32) = ⟨0, false⟩ := if_pos hz
    rw [if_pos (by rw [mmaZero_eq, hz.1, hz.2]; rfl), replicate_eq_map_range]
    simp only [hold]
  · have hold (q : Nat) : oldEntry s.cells k cl n (q / 32) (q % 32) =
        entryAt s.cells (cCell cl (mmaCoff k + q * entryBytes (pairEntry (mmaPair k)))) (pairEntry (mmaPair k)) := by
      rw [oldEntry, if_neg hz, entryPlace, Nat.div_add_mod]
    rw [if_neg (by rw [mmaZero_eq]; simpa using hz), readTile_eq hs]
    simp only [hold]

/-- K-step `n` on a memory without poison or error. -/
theorem kStep_of_sound (cl n : Nat) : ∃ skipped, kStep s cl k n = kStepDone k cl (newEntry s.cells k cl n) skipped s := by
  rw [kStep]
  simp only [leftRows hs hp, blockRows_right hs hp, oldTile hs]
  have hpairs : (grid 32 (pairK (mmaPair k)) (leftAt s.cells k cl n)).flatMap (fun a =>
      (grid 32 (pairK (mmaPair k)) (elementAt s.cells (mmaPair k) (wCell cl (mmaBoff k + n * blockB (mmaPair k))) (pairB (mmaPair k))
        (if mmaPair k = 13 then 32 else 64))).map (fun b => products a b)) =
      (List.range 1024).map (fun q => termsAt s.cells k cl n (q / 32) (q % 32)) := by
    rw [grid, grid, List.flatMap_map]
    simp only [List.map_map]
    rw [flatMap_range_map_range]
    exact List.map_congr_left fun q _ => by rw [Function.comp_apply, products_range]; rfl
  have hout : (((List.range 1024).map (fun q => oldEntry s.cells k cl n (q / 32) (q % 32))).zip
      ((List.range 1024).map (fun q => termsAt s.cells k cl n (q / 32) (q % 32)))).map (fun q => stepEntry k q.1 q.2) =
      (List.range 1024).map (fun q => newEntry s.cells k cl n (q / 32) (q % 32)) := by
    rw [List.zip_map', List.map_map]
    exact List.map_congr_left fun q _ => rfl
  rw [hpairs, hout]
  exact ⟨skippedIn _ _, by rw [kStepDone]⟩

end

end Sys2Proof.Machine

/-! PROOFS. A tile written, with its marks (R119, R414; O22). -/

namespace Sys2Proof.Machine

/-! ### Marks of a written range (R414) -/

theorem setHas_setAdd (x u : Nat) (t : NatSet) : setHas x (setAdd u t) = (setHas x t || decide (x = u)) := by
  induction t with
  | nil =>
    by_cases h : x = u
    · simp [setAdd, setHas, h]
    · simp [setAdd, setHas, h, Ne.symm h]
  | cons j t ih =>
    rw [setAdd]
    split
    · next hj =>
      subst hj
      by_cases hx : x = j <;> simp [setHas, hx]
    · split
      · next hne hlt =>
        by_cases hx : x = u
        · simp [setHas, hx]
        · rw [setHas, if_neg (Ne.symm hx), decide_eq_false hx, Bool.or_false]
          split
          · next hxu => rw [setHas, if_neg (by omega), if_pos (by omega)]
          · rfl
      · next hne hlt =>
        rw [setHas, setHas, ih]
        by_cases hj : j = x
        · simp [hj]
        · rw [if_neg hj, if_neg hj]
          by_cases hxj : x < j
          · rw [if_pos hxj, if_pos hxj, decide_eq_false (by omega)]; rfl
          · rw [if_neg hxj, if_neg hxj]

theorem setDel_of_not_setHas {u : Nat} {t : NatSet} (h : setHas u t = false) : setDel u t = t := by
  induction t with
  | nil => rfl
  | cons j t ih =>
    rw [setHas] at h
    rw [setDel]
    split at h
    · exact absurd h (by decide)
    · next hne =>
      rw [if_neg hne]
      split at h
      · next hlt => rw [if_pos hlt]
      · next hlt => rw [if_neg hlt, ih h]

/-- The marks of units that are settled by one rule, where those marked before are marked by it. -/
theorem setHas_foldl_settleMark (c n : Nat) (P : Nat → Bool) (us : List Nat) (m : NatSet) (hm : ∀ x, setHas x m = true → P x = true) (x : Nat) :
    setHas x (us.foldl (fun m u => settleMark c n (P u) m u) m) = (setHas x m || (decide (x ∈ us) && P x)) := by
  induction us generalizing m with
  | nil => simp
  | cons u us ih =>
    have hstep : settleMark c n (P u) m u = if P u then setAdd u m else m := by
      cases hP : P u with
      | true => rfl
      | false =>
        have hu : setHas u m = false := Bool.eq_false_of_not_eq_true fun h => by simpa [hP] using hm u h
        rw [settleMark, if_neg (by decide), setDel_of_not_setHas hu, ite_self]
        rfl
    have hhas (y : Nat) : setHas y (if P u then setAdd u m else m) = (setHas y m || (decide (y = u) && P y)) := by
      by_cases hy : y = u
      · subst hy
        cases hP : P y <;> simp [setHas_setAdd]
      · cases P u <;> simp [setHas_setAdd, hy]
    rw [List.foldl_cons, hstep, ih _ fun y hy => ?_, hhas]
    · by_cases hx : x = u
      · subst hx
        cases hP : P x <;> simp
      · simp [hx]
    · rw [hhas, Bool.or_eq_true, Bool.and_eq_true] at hy
      exact hy.elim (hm y) (·.2)

/-- Which units a write with poison by byte marks, in a memory that has no marks. -/
def marksUnit (c : Nat) (pm : List Bool) (u : Nat) : Bool := pm.any (fun b => b) && unitPoison c pm u

section
variable {s : State} (hs : Sound s)
include hs

theorem foldl_settleErr_of_sound (c n : Nat) (us : List Nat) : us.foldl (settleErr c n) s = s := by
  obtain ⟨-, herrs, -, -⟩ := hs
  induction us with
  | nil => rfl
  | cons u us ih =>
    have hstep : settleErr c n s u = s := by
      rw [settleErr, herrs]
      split
      · exact (congrArg (fun e => { s with errs := e }) herrs.symm)
      · exact detectUnit_of_sound (by rw [herrs]; rfl)
    rw [List.foldl_cons, hstep, ih]

/-- A write with poison by byte: the bytes are stored, the units that hold poison are marked, and full bits may change. -/
theorem putBytesMap_of_sound (c : Nat) (bs : List Byte) (pm : List Bool) : ∃ full, putBytesMap s c bs pm =
    { s with
      cells := cellsWrite s.cells c bs
      marks := (unitsOf (markSize c) c bs.length).foldl (fun m u => settleMark c bs.length (marksUnit c pm u) m u) []
      full := full } := by
  have hfold := foldl_settleErr_of_sound hs c bs.length
  obtain ⟨-, -, hmarks, hwaits⟩ := hs
  cases hpm : pm.any (fun b => b) with
  | true =>
    rw [putBytesMap, hpm, if_neg (by decide), memStoreMap]
    simp only [hfold, hmarks, marksUnit, hpm, Bool.true_and]
    split
    · exact ⟨_, by rw [settleWords, if_pos (by rw [hwaits]; rfl)]⟩
    · exact ⟨s.full, rfl⟩
  | false =>
    rw [putBytesMap, hpm, if_pos (by decide), putBytes, memWrite, memStore]
    simp only [hfold, hmarks, marksUnit, hpm, Bool.false_and]
    split
    · exact ⟨_, by rw [settleWords, if_pos (by rw [hwaits]; rfl)]⟩
    · exact ⟨s.full, rfl⟩

end

/-- An unpoisoned range has no unit that holds poison. -/
theorem marksUnit_eq (c : Nat) (pm : List Bool) (u : Nat) : marksUnit c pm u = unitPoison c pm u := by
  rw [marksUnit]
  cases h : unitPoison c pm u with
  | false => exact Bool.and_false _
  | true =>
    obtain ⟨b, hb, hbt⟩ := List.any_eq_true.1 h
    rw [List.any_eq_true.2 ⟨b, List.mem_of_mem_drop (List.mem_of_mem_take hb), hbt⟩]
    rfl

/-! ### A tile written (R119, R229) -/

theorem length_leBytes (x n : Nat) : (leBytes x n).length = n := by
  induction n generalizing x with
  | zero => rfl
  | succ n ih => rw [leBytes, List.length_cons, ih]

/-- The bytes and the poison of a tile, by its entries. -/
def tileBytes (w : Nat) (es : Nat → Entry) : List Byte := (List.range 1024).flatMap (fun q => leBytes (es q).bits w)
def tilePoison (w : Nat) (es : Nat → Entry) : List Bool := (List.range 1024).flatMap (fun q => List.replicate w (es q).poison)

theorem length_tileBytes (w : Nat) (es : Nat → Entry) : (tileBytes w es).length = 1024 * w := by
  rw [tileBytes, List.length_flatMap, List.map_congr_left (fun q _ => length_leBytes _ _)]
  simp only [List.map_const', List.length_range, List.sum_replicate, smul_eq_mul]

theorem writeTile_eq (s : State) (cl ty off : Nat) (es : Nat → Entry) : writeTile s cl ty off ((List.range 1024).map es) =
    putBytesMap s (cCell cl off) (tileBytes (entryBytes ty) es) (tilePoison (entryBytes ty) es) := by
  rw [writeTile, List.flatMap_map, List.flatMap_map]
  rfl

theorem cCell_add (cl a b : Nat) : cCell cl (a + b) = cCell cl a + b := (Nat.add_assoc ..).symm

section
variable {s : State} (hs : Sound s) {cl ty off : Nat} {es : Nat → Entry} {q : Nat}
include hs

theorem writeTile_clusters : (writeTile s cl ty off ((List.range 1024).map es)).clusters = s.clusters := by
  obtain ⟨full, h⟩ := putBytesMap_of_sound hs (cCell cl off) (tileBytes (entryBytes ty) es) (tilePoison (entryBytes ty) es)
  rw [writeTile_eq, h]

theorem writeTile_cells : (writeTile s cl ty off ((List.range 1024).map es)).cells = cellsWrite s.cells (cCell cl off) (tileBytes (entryBytes ty) es) := by
  obtain ⟨full, h⟩ := putBytesMap_of_sound hs (cCell cl off) (tileBytes (entryBytes ty) es) (tilePoison (entryBytes ty) es)
  rw [writeTile_eq, h]

theorem writeTile_marks : (writeTile s cl ty off ((List.range 1024).map es)).marks =
    (unitsOf (markSize (cCell cl off)) (cCell cl off) (1024 * entryBytes ty)).foldl
      (fun m u => settleMark (cCell cl off) (1024 * entryBytes ty) (marksUnit (cCell cl off) (tilePoison (entryBytes ty) es) u) m u) [] := by
  obtain ⟨full, h⟩ := putBytesMap_of_sound hs (cCell cl off) (tileBytes (entryBytes ty) es) (tilePoison (entryBytes ty) es)
  rw [writeTile_eq, h, length_tileBytes]

/-- An entry of a tile reads as it was written. -/
theorem cellsRead_writeTile (hq : q < 1024) :
    cellsRead (writeTile s cl ty off ((List.range 1024).map es)).cells (cCell cl (off + q * entryBytes ty)) (entryBytes ty) = leBytes (es q).bits (entryBytes ty) := by
  have hwf := cellsWrite_wf (cCell cl off) (tileBytes (entryBytes ty) es) hs.1
  have hwhole := cellsRead_cellsWrite (cCell cl off) (tileBytes (entryBytes ty) es) hs.1
  obtain ⟨r, hr⟩ : ∃ r, (tileBytes (entryBytes ty) es).length = q * entryBytes ty + (entryBytes ty + r) := by
    obtain ⟨d, hd⟩ : ∃ d, 1024 = q + (1 + d) := ⟨1023 - q, by omega⟩
    exact ⟨d * entryBytes ty, by rw [length_tileBytes, hd, Nat.add_mul, Nat.add_mul, Nat.one_mul]⟩
  have hpart := take_drop_flatMap_range (fun q => leBytes (es q).bits (entryBytes ty)) (fun _ => length_leBytes _ _) hq
  rw [hr] at hwhole
  rw [writeTile_cells hs, cCell_add, ← take_cellsRead hwf _ (Nat.le_add_right _ r), ← drop_cellsRead hwf, hwhole]
  exact hpart

theorem cellGet_writeTile {d : Nat} (hd : d < cCell cl off ∨ cCell cl off + 1024 * entryBytes ty ≤ d) :
    cellGet d (writeTile s cl ty off ((List.range 1024).map es)).cells = cellGet d s.cells := by
  rw [writeTile_cells hs, cellsWrite_get_other hs.1 (by rwa [length_tileBytes])]

/-- An entry of four bytes is marked if it is poisoned. -/
theorem setHas_writeTile (hty : ty ≠ 1) (hoff : off % 64 = 0) (hq : q < 1024) :
    setHas (cCell cl (off + q * entryBytes ty)) (writeTile s cl ty off ((List.range 1024).map es)).marks = (es q).poison := by
  have hbytes : entryBytes ty = 4 := if_neg hty
  have hsize : markSize (cCell cl off) = 4 := if_neg (by rw [isHbmCell, decide_eq_true_eq, cCell, cBase, hbmBytes]; omega)
  have haligned : cCell cl off % 4 = 0 := by rw [cCell, cBase]; omega
  have hunit : cCell cl off + q * 4 ∈ unitsOf 4 (cCell cl off) (1024 * 4) := (mem_unitsOf (by decide)).2 ⟨cCell cl off + q * 4, by omega, by omega, by omega⟩
  have hpart := take_drop_flatMap_range (fun q => List.replicate 4 (es q).poison) (fun _ => List.length_replicate) hq
  have hpoison : unitPoison (cCell cl off) (tilePoison 4 es) (cCell cl off + q * 4) = (es q).poison := by
    rw [unitPoison, hsize, Nat.add_sub_cancel_left, Nat.max_eq_left (Nat.le_add_right _ _), Nat.add_sub_cancel_left, tilePoison, hpart]
    simp
  rw [writeTile_marks hs, hbytes, cCell_add, setHas_foldl_settleMark _ _ _ _ _ (by simp [setHas]), hsize, decide_eq_true hunit, marksUnit_eq, hpoison]
  rfl

end

end Sys2Proof.Machine

/-! PROOFS. What a k-step leaves, and matrix steps (O22). -/

namespace Sys2Proof.Machine

/-! ### What a k-step leaves (R229, R141) -/

/-- Whether an entry saturated. -/
def anySaturated (new : Nat → Nat → Entry × Bool) : Bool := ((List.range 1024).map (fun q => new (q / 32) (q % 32))).any (·.2)

theorem anySaturated_iff (new : Nat → Nat → Entry × Bool) : anySaturated new = true ↔ ∃ i j, i < 32 ∧ j < 32 ∧ (new i j).2 = true := by
  rw [anySaturated, List.any_map, List.any_eq_true]
  constructor
  · rintro ⟨q, hq, h⟩
    have hq : q < 1024 := List.mem_range.1 hq
    exact ⟨q / 32, q % 32, by omega, by omega, h⟩
  · rintro ⟨i, j, hi, hj, h⟩
    refine ⟨32 * i + j, List.mem_range.2 (by omega), ?_⟩
    rw [Function.comp_apply, show (32 * i + j) / 32 = i by omega, show (32 * i + j) % 32 = j by omega]
    exact h

section
variable (k : Cmd) (cl : Nat) (new : Nat → Nat → Entry × Bool) (skipped : Nat) (s : State)

/-- The tile that a k-step writes. -/
def newTile (k : Cmd) (cl : Nat) (new : Nat → Nat → Entry × Bool) (s : State) : State :=
  writeTile s cl (pairEntry (mmaPair k)) (mmaCoff k) ((List.range 1024).map (fun q => (new (q / 32) (q % 32)).1))

/-- The counters that a k-step moves (R345). -/
def kStepCounted (k : Cmd) (skipped : Nat) (s : State) : State :=
  addCounter (addCounter (addCounter s k.ctx 0x50 1) k.ctx 0x58 (1024 * pairK (mmaPair k) - skipped)) k.ctx 0x60 skipped

@[simp] theorem kStepCounted_cells : (kStepCounted k skipped s).cells = s.cells := rfl
@[simp] theorem kStepCounted_marks : (kStepCounted k skipped s).marks = s.marks := rfl
@[simp] theorem clusterAt_kStepCounted : clusterAt (kStepCounted k skipped s) cl = clusterAt s cl := rfl

theorem kStepDone_eq : kStepDone k cl new skipped s =
    if anySaturated new then satSet (kStepCounted k skipped (newTile k cl new s)) cl (cmdTarget k % 8) true
    else kStepCounted k skipped (newTile k cl new s) := by
  rw [kStepDone, List.map_map]
  rfl

theorem satSet_memory (stream : Nat) (on : Bool) : (satSet s cl stream on).cells = s.cells ∧ (satSet s cl stream on).marks = s.marks := ⟨rfl, rfl⟩

theorem kStepDone_memory : (kStepDone k cl new skipped s).cells = (newTile k cl new s).cells ∧
    (kStepDone k cl new skipped s).marks = (newTile k cl new s).marks := by
  rw [kStepDone_eq]
  split
  · rw [(satSet_memory ..).1, (satSet_memory ..).2, kStepCounted_cells, kStepCounted_marks]
    exact ⟨rfl, rfl⟩
  · rw [kStepCounted_cells, kStepCounted_marks]
    exact ⟨rfl, rfl⟩

variable {k cl new skipped s}

theorem kStepDone_sat_of_saturated (h : ∃ i j, i < 32 ∧ j < 32 ∧ (new i j).2 = true) :
    setHas (cmdTarget k % 8) (clusterAt (kStepDone k cl new skipped s) cl).sat = true := by
  rw [kStepDone_eq, if_pos ((anySaturated_iff new).2 h), satSet, clusterAt_modCluster, setPut, if_pos rfl, setHas_setAdd, decide_eq_true rfl, Bool.or_true]

theorem kStepDone_sat_of_unsaturated (hs : Sound s) (h : ∀ i j, i < 32 → j < 32 → (new i j).2 = false) :
    (clusterAt (kStepDone k cl new skipped s) cl).sat = (clusterAt s cl).sat := by
  have hno : ¬anySaturated new = true := fun ha => by
    obtain ⟨i, j, hi, hj, hij⟩ := (anySaturated_iff new).1 ha
    rw [h i j hi hj] at hij
    cases hij
  rw [kStepDone_eq, if_neg hno, clusterAt_kStepCounted, clusterAt, newTile, writeTile_clusters hs]
  rfl

end

/-- A k-step on a memory without poison or error: its tile, the rest of the memory, and the stream's flag. -/
theorem matrixTile {s : State} (hs : Sound s) {k : Cmd} (hp : mmaPair k < 16) (hoff : mmaCoff k % 64 = 0) (c n : Nat) :
    (∀ i j, i < 32 → j < 32 →
      cellsRead (kStep s c k n).cells (entryPlace k c i j) (entryBytes (pairEntry (mmaPair k))) =
        leBytes (newEntry s.cells k c n i j).1.bits (entryBytes (pairEntry (mmaPair k))) ∧
      (pairEntry (mmaPair k) ≠ 1 → setHas (entryPlace k c i j) (kStep s c k n).marks = (newEntry s.cells k c n i j).1.poison)) ∧
    (∀ d, d < cCell c (mmaCoff k) ∨ cCell c (mmaCoff k) + 1024 * entryBytes (pairEntry (mmaPair k)) ≤ d →
      cellGet d (kStep s c k n).cells = cellGet d s.cells) ∧
    ((∃ i j, i < 32 ∧ j < 32 ∧ (newEntry s.cells k c n i j).2 = true) → setHas (cmdTarget k % 8) (clusterAt (kStep s c k n) c).sat = true) ∧
    ((∀ i j, i < 32 → j < 32 → (newEntry s.cells k c n i j).2 = false) → (clusterAt (kStep s c k n) c).sat = (clusterAt s c).sat) := by
  obtain ⟨skipped, hstep⟩ := kStep_of_sound hs hp c n
  obtain ⟨hcells, hmarks⟩ := kStepDone_memory k c (newEntry s.cells k c n) skipped s
  rw [hstep, hcells, hmarks, newTile]
  refine ⟨fun i j hi hj => ?_, fun d hd => cellGet_writeTile hs hd, kStepDone_sat_of_saturated, kStepDone_sat_of_unsaturated hs⟩
  have hq : 32 * i + j < 1024 := by omega
  have hi' : (32 * i + j) / 32 = i := by omega
  have hj' : (32 * i + j) % 32 = j := by omega
  have hread := cellsRead_writeTile hs (cl := c) (ty := pairEntry (mmaPair k)) (off := mmaCoff k)
    (es := fun q => (newEntry s.cells k c n (q / 32) (q % 32)).1) hq
  have hmark (hty : pairEntry (mmaPair k) ≠ 1) := setHas_writeTile hs (cl := c) hty hoff
    (es := fun q => (newEntry s.cells k c n (q / 32) (q % 32)).1) hq
  simp only [hi', hj'] at hread hmark
  exact ⟨hread, hmark⟩

/-- Settles O22: the turns of an engine by cases, a k-step on a sound memory through the tables of its operands and its tile, and the entries of each
type by their sums. -/
theorem matrixSteps : Obligations.MatrixSteps := by
  unfold Obligations.MatrixSteps
  refine ⟨matrixTurns, fun s c n k hs _ hp hoff => matrixTile hs hp hoff c n, fun c e ps hty hint _ => matrixIntEntries c e ps hty hint,
    fun c e ps hty _ => matrixFloatEntries c e ps hty, fun c e ps hty hps _ => ?_⟩
  obtain ⟨hsat, hclean, hbits, hreserved, hsum, hpoison, hflags⟩ := matrixLaEntries c e ps hty hps
  exact ⟨hsat, hclean, hbits, hreserved, hsum, hpoison, hflags 307 (by decide) (by decide), hflags 306 (by decide) (by decide),
    hflags 305 (by decide) (by decide), hflags 309 (by decide) (by decide), hflags 308 (by decide) (by decide), hflags 304 (by decide) (by decide)⟩

end Sys2Proof.Machine

/-! PROOFS. The machine right after reset (O55). -/

namespace Sys2Proof.Machine

/-- Settles O55: every table of the state at reset is empty. -/
theorem resetState : Obligations.ResetState := by
  unfold Obligations.ResetState
  intro s
  exact ⟨fun _ => rfl, fun _ => rfl, fun _ => rfl, fun _ => rfl, fun _ => rfl, fun _ => rfl, fun _ => rfl, rfl, rfl, fun _ => ⟨rfl, rfl⟩, rfl, rfl,
    rfl, fun _ => rfl, fun _ => rfl, fun _ => rfl, rfl, rfl, rfl, rfl, fun _ _ _ => rfl⟩

end Sys2Proof.Machine

/-! PROOFS. Spill loads and stores (O14). -/

namespace Sys2Proof.Machine

/-! ### The places of an access (R122, R192) -/

section
variable {s : State} {t : Nat} {th : Thread}

theorem place_v_of_ok {a : Word} {n : Nat} {need : Need} {store : Bool} {own : Option Nat} {s2 : State} {g : Target} (ha : a.toNat % n = 0)
    (hx : translateWord s th.ctx a need = (s2, .ok g)) (hp : g.peer = false) :
    place s t th .v a n need store own = (s2, .at_ (.cell (hbmCell th.masks g.pa))) := by
  simp [place, ha, hx, hp]

theorem place_i_of {a n : Nat} {need : Need} {store : Bool} {own : Option Nat} (ha : a % n = 0) (hb : a < 0x80000)
    (hc : inCarve s (clusterOf t) a n own = false) :
    place s t th .i (BitVec.ofNat 64 a) n need store own = (s, .at_ (.cell (scratchpadCell (clusterOf t) a))) := by
  have hto : (BitVec.ofNat 64 a).toNat = a := by rw [BitVec.toNat_ofNat]; omega
  simp [place, hto, ha, spaceSize, Nat.not_le.2 hb, hc, localCell]

theorem loadFrom_of_cell {p : Space} {x : Word} {n : Nat} {need : Need} {own : Option Nat} {s2 : State} {c : Nat}
    (h : place s t th p x n need false own = (s2, .at_ (.cell c))) (sx : Bool) (d : BitVec 5) :
    loadFrom s t th p x n sx d need own = waitAt s2 t (.load (.cell c) n sx d.toNat p x) := by
  simp [loadFrom, h]

theorem storeTo_of_cell {p : Space} {x : Word} {n : Nat} {need : Need} {own : Option Nat} {s2 : State} {c : Nat}
    (h : place s t th p x n need true own = (s2, .at_ (.cell c))) (ht : tblGet t s2.threads = some th) (v : Word) :
    storeTo s t th p x n v need own = completed s2 t { th with
      posted := th.posted ++ [⟨c, leBytes v.toNat n, if p = .v then some x.toNat else none⟩] } := by
  simp only [storeTo, h]
  rw [modThread_of ht, retire_of (tblGet_tblSet ..), completed, completed, completedAt_modThread]

/-! ### The place of a spill offset (R125) -/

theorem spillAddr_of_local {off : Nat} (store : Bool) (h : off < th.spillsz) :
    spillAddr t th off store = .ok (.i, BitVec.ofNat 64 (0x8000 * (t % 16 + 1) - th.spillsz + off)) := if_pos h

theorem spillAddr_of_no_overflow {off : Nat} (store : Bool) (h : th.spillsz ≤ off) (ho : th.spillov = 0) :
    spillAddr t th off store = .error ⟨3, memDetail .i store 3, off⟩ := by
  simp [spillAddr, Nat.not_lt.2 h, ho, boundsTrap]

theorem spillAddr_of_misaligned {off : Nat} (store : Bool) (h : th.spillsz ≤ off) (ho : th.spillov ≠ 0) (ha : th.spillov.toNat % 64 ≠ 0) :
    spillAddr t th off store = .error ⟨2, memDetail .v store 3, (th.spillov + BitVec.ofNat 64 (off - th.spillsz)).toNat⟩ := by
  rw [spillAddr, if_neg (Nat.not_lt.2 h), if_neg ho, if_pos ha]
  rfl

theorem spillAddr_of_overflow {off : Nat} (store : Bool) (h : th.spillsz ≤ off) (ho : th.spillov ≠ 0) (ha : th.spillov.toNat % 64 = 0) :
    spillAddr t th off store = .ok (.v, th.spillov + BitVec.ofNat 64 (off - th.spillsz)) := by
  rw [spillAddr, if_neg (Nat.not_lt.2 h), if_neg ho, if_neg (not_not.2 ha)]

/-- Both instructions at an offset that has no place, or at one with a place in memory. -/
theorem exec_spills_of_error {f : BitVec 17} (h : Running s t th) {tr : Bool → Trap}
    (ha : ∀ store, spillAddr t th (8 * f.toNat) store = .error (tr store)) (d : BitVec 5) :
    exec (.spld d f) s = .next (raiseTrap s t (tr false)) ∧ exec (.spst d f) s = .next (raiseTrap s t (tr true)) := by
  constructor <;> refine (onThread_of h _).trans ?_ <;> rw [ha]

theorem exec_spills_of_ok {f : BitVec 17} (h : Running s t th) {p : Space} {x : Word} {s2 : State} {c : Nat}
    (ha : ∀ store, spillAddr t th (8 * f.toNat) store = .ok (p, x))
    (hp : ∀ store, place s t th p x 8 needBoth store (some t) = (s2, .at_ (.cell c))) (ht : s2.threads = s.threads) (d : BitVec 5) :
    exec (.spld d f) s = .next (waitAt s2 t (.load (.cell c) 8 false d.toNat p x)) ∧
    exec (.spst d f) s = .next (completed s2 t { th with
      posted := th.posted ++ [⟨c, leBytes (regGet th d).toNat 8, if p = .v then some x.toNat else none⟩] }) := by
  constructor <;> refine (onThread_of h _).trans ?_ <;> rw [ha]
  · exact congrArg _ (loadFrom_of_cell (hp false) false d)
  · exact congrArg _ (storeTo_of_cell (hp true) (ht ▸ h.get) (regGet th d))

end

/-- The field of 17 bits of a spill word, and the zeros above it (R163). -/
theorem wordB_field17 (m : BitVec 6) (d : BitVec 5) (f : BitVec 17) :
    (wordB m d ((0#4 ++ f).extractLsb' 16 5) (f.extractLsb' 0 16)).extractLsb' 0 17 = f ∧
    (wordB m d ((0#4 ++ f).extractLsb' 16 5) (f.extractLsb' 0 16)).extractLsb' 17 4 = 0#4 := by
  have hf := f.isLt
  constructor <;> apply BitVec.eq_of_toNat_eq <;>
    simp only [wordB, toNat_append_add, BitVec.extractLsb'_toNat, BitVec.toNat_ofNat, Nat.shiftRight_eq_div_pow] <;> omega

theorem decodeControl_spills (d : BitVec 5) (f : BitVec 17) :
    decodeControl (wordB 0x28 d ((0#4 ++ f).extractLsb' 16 5) (f.extractLsb' 0 16)) = .ok (.spld d f) ∧
    decodeControl (wordB 0x29 d ((0#4 ++ f).extractLsb' 16 5) (f.extractLsb' 0 16)) = .ok (.spst d f) := by
  simp [decodeControl, decodeMajor28, decodeMajor29, wordB_field17]

/-- Settles O14: the place of an offset by its cases, and the load and the store at that place. -/
theorem spills : Obligations.Spills := by
  unfold Obligations.Spills
  intro s t th d f h hsz off local_ ovf
  obtain ⟨hld, hst⟩ := decodeControl_spills d f
  refine ⟨hld, hst, fun hoff hal hc => ?_, fun hoff ho => ?_, fun hoff ho ha => ?_, fun hoff ho ha hal s2 g hx hp hts => ?_⟩
  · have hw := exec_spills_of_ok h (fun store => spillAddr_of_local store hoff) (fun store => place_i_of hal (by omega) hc) rfl d
    rwa [waitAt_of h.get] at hw
  · exact exec_spills_of_error h (fun store => spillAddr_of_no_overflow store hoff ho) d
  · exact exec_spills_of_error h (fun store => spillAddr_of_misaligned store hoff ho ha) d
  · exact exec_spills_of_ok h (fun store => spillAddr_of_overflow store hoff ho ha) (fun store => place_v_of_ok hal hx hp) hts d

end Sys2Proof.Machine


/-! PROOFS. The copy commands and the handle instructions (O18). -/

namespace Sys2Proof.Machine

/-! ### The reserved bits of an operand (R208) -/

theorem outside_iff (v : Word) (m : Nat) : outside v m = true ↔ ∃ i < 64, v.getLsbD i = true ∧ m.testBit i = false := by
  rw [outside, decide_eq_true_iff, ne_eq, BitVec.eq_of_getLsbD_eq_iff, not_forall]
  refine exists_congr fun i => ?_
  simp only [BitVec.getLsbD_and, BitVec.getLsbD_not, BitVec.getLsbD_ofNat]
  by_cases hi : i < 64 <;> simp [hi]

theorem extractLsb'_ne_zero_iff {w : Nat} (v : BitVec w) (lo n : Nat) : v.extractLsb' lo n ≠ 0 ↔ ∃ i, lo ≤ i ∧ i < lo + n ∧ v.getLsbD i = true := by
  rw [ne_eq, BitVec.eq_of_getLsbD_eq_iff, not_forall]
  constructor
  · rintro ⟨i, hi⟩
    refine ⟨lo + i, by omega, ?_⟩
    by_cases h : i < n <;> simp_all
  · rintro ⟨i, hlo, hhi, hv⟩
    refine ⟨i - lo, ?_⟩
    simp [show i - lo < n by omega, show lo + (i - lo) = i by omega, hv]

theorem outside_copy_gb (v : Word) : outside v (fieldMask 0 21 + fieldMask 32 25) = true ↔ v.extractLsb' 21 11 ≠ 0 ∨ v.extractLsb' 57 7 ≠ 0 := by
  have hm : ∀ i < 64, (fieldMask 0 21 + fieldMask 32 25).testBit i = decide (i < 21 ∨ (32 ≤ i ∧ i < 57)) := by decide
  rw [outside_iff, extractLsb'_ne_zero_iff, extractLsb'_ne_zero_iff]
  constructor
  · rintro ⟨i, hi, hv, hno⟩
    rw [hm i hi, decide_eq_false_iff_not] at hno
    by_cases h : i < 32
    · exact .inl ⟨i, by omega, by omega, hv⟩
    · exact .inr ⟨i, by omega, by omega, hv⟩
  · rintro (⟨i, hlo, hhi, hv⟩ | ⟨i, hlo, hhi, hv⟩) <;>
      exact ⟨i, by omega, hv, by rw [hm i (by omega), decide_eq_false_iff_not]; omega⟩

theorem outside_copy_ga (v : Word) : outside v (fieldMask 0 21) = true ↔ v.extractLsb' 21 43 ≠ 0 := by
  have hm : ∀ i < 64, (fieldMask 0 21).testBit i = decide (i < 21) := by decide
  rw [outside_iff, extractLsb'_ne_zero_iff]
  constructor
  · rintro ⟨i, hi, hv, hno⟩
    rw [hm i hi, decide_eq_false_iff_not] at hno
    exact ⟨i, by omega, by omega, hv⟩
  · rintro ⟨i, hlo, hhi, hv⟩
    exact ⟨i, by omega, hv, by rw [hm i (by omega), decide_eq_false_iff_not]; omega⟩

/-! ### The words (R222, R386) -/

/-- The fields of a copy's minor, which are those of its command. -/
theorem copyMinor_fields (d u v : BitVec 2) (e : BitVec 4) :
    (d ++ u ++ v ++ e).extractLsb' 8 2 = d ∧ (d ++ u ++ v ++ e).extractLsb' 6 2 = u ∧ (d ++ u ++ v ++ e).extractLsb' 4 2 = v ∧
    (d ++ u ++ v ++ e).extractLsb' 0 4 = e := by
  refine ⟨?_, ?_, ?_, ?_⟩
  · rw [field_high _ _ _ _ (by decide), field_high _ _ _ _ (by decide), field_high _ _ _ _ (by decide)]; simp
  · rw [field_high _ _ _ _ (by decide), field_high _ _ _ _ (by decide), field_low _ _ _ _ (by decide)]; simp
  · rw [field_high _ _ _ _ (by decide), field_low _ _ _ _ (by decide)]; simp
  · rw [field_low _ _ _ _ (by decide)]; simp

/-- The minor of a `copy.out` in the same shape. -/
theorem copyOutMinor_eq (u : BitVec 2) : (1#2 ++ u ++ 0#6 : BitVec 10) = 1#2 ++ u ++ 0#2 ++ 0#4 := by
  revert u; decide

theorem copyMinor_toNat (d u v : BitVec 2) (e : BitVec 4) :
    (d ++ u ++ v ++ e : BitVec 10).toNat = 256 * d.toNat + 64 * u.toNat + 16 * v.toNat + e.toNat := by
  simp only [append_toNat]
  ring

theorem copyWord_fields (h : BitVec 6) (a b : BitVec 5) (d u v : BitVec 2) (e : BitVec 4) :
    (wordE 0x31 h a b (d ++ u ++ v ++ e)).extractLsb' 8 2 = d ∧ (wordE 0x31 h a b (d ++ u ++ v ++ e)).extractLsb' 6 2 = u ∧
    (wordE 0x31 h a b (d ++ u ++ v ++ e)).extractLsb' 4 2 = v ∧ (wordE 0x31 h a b (d ++ u ++ v ++ e)).extractLsb' 0 4 = e := by
  rw [wordE_low _ _ _ _ _ _ _ (by decide), wordE_low _ _ _ _ _ _ _ (by decide), wordE_low _ _ _ _ _ _ _ (by decide),
    wordE_low _ _ _ _ _ _ _ (by decide)]
  exact copyMinor_fields d u v e

theorem decodeControl_copies (h : BitVec 6) (a b : BitVec 5) (u v : BitVec 2) (e : BitVec 4) :
    decodeControl (wordE 0x31 h a b (0#2 ++ u ++ 0#2 ++ e)) = .ok (.copyIn h a b u e) ∧
    decodeControl (wordE 0x31 h a b (1#2 ++ u ++ 0#6)) = .ok (.copyOut h a b u) ∧
    decodeControl (wordE 0x31 h a b (2#2 ++ u ++ v ++ 0#4)) = .ok (.copyBb h a b u v) := by
  rw [copyOutMinor_eq]
  refine ⟨?_, ?_, ?_⟩ <;> simp only [decodeControl, decodeMajor31, wordE_major, wordE_target, wordE_a, wordE_b, copyWord_fields] <;> rfl

theorem decodeControl_handles (h : BitVec 6) (a b : BitVec 5) :
    decodeControl (wordE 0x31 h 0 0 (3#2 ++ 0#5 ++ 0#3)) = .ok (.hwait h) ∧ decodeControl (wordE 0x31 h 0 0 (3#2 ++ 0#5 ++ 1#3)) = .ok (.hrel h) ∧
    decodeControl (wordE 0x31 h a b (3#2 ++ 0#5 ++ 2#3)) = .ok (.hstat h a b) := by
  refine ⟨?_, ?_, ?_⟩ <;> simp [decodeControl, decodeMajor31, wordE_low, wordE_ab]

/-! ### Issuing a copy (R209, R221, R389) -/

/-- What the issue of a copy does to its handle. -/
def claimHandle (t : Nat) (h : BitVec 6) (s : State) : State :=
  setHandle s (clusterOf t) h.toNat { handleAt s (clusterOf t) h.toNat with claimed := some t }

/-- The command of a copy's word. -/
def copyCmd (t : Nat) (th : Thread) (h : BitVec 6) (a b : BitVec 5) (minor : BitVec 10) : Cmd :=
  { newCmd t th (wordE 0x31 h a b minor).toNat (regGet th a) (regGet th b) [] with handle := h.toNat }

section
variable {s : State} {t : Nat} {th : Thread} {h : BitVec 6} {a b : BitVec 5}

theorem issueCopy_of (hr : Running s t th) (minor : BitVec 10) :
    issueCopy s true h a b minor.toNat = .next (issueCmd s t (6 + h.toNat % 2)
      (copyReason (copyCmd t th h a b minor) (handleAt s (clusterOf t) h.toNat)) (copyCmd t th h a b minor) (claimHandle t h)) := by
  rw [issueCopy, checked_of hr, copyCmd, wordE_toNat]
  rfl

/-- A checked issue with what it does to the state besides. -/
theorem issues_after {i : Instr} {u reason : Nat} {c : Cmd} {f : State → State} (hr : Running s t th)
    (hf : ∀ s, (f s).threads = s.threads) (hi : exec i s = .next (issueCmd s t u reason c f)) : Issues i s t th u reason c f := by
  refine ⟨fun hne => ?_, fun hz hfull => ?_, fun hz hroom => ?_⟩ <;> rw [hi, issueCmd]
  · rw [if_pos hne]; rfl
  · rw [if_neg (not_not.2 hz), issueTo, if_pos hfull, waitAt_of hr.get]
  · rw [if_neg (not_not.2 hz), issueTo, if_neg (Nat.not_le.2 hroom), retire_of (th := th) (by rw [hf]; exact hr.get)]
    rfl

theorem issues_copy {i : Instr} {minor : BitVec 10} (hr : Running s t th) (hi : exec i s = issueCopy s true h a b minor.toNat) :
    Issues i s t th (6 + h.toNat % 2) (copyReason (copyCmd t th h a b minor) (handleAt s (clusterOf t) h.toNat))
      (copyCmd t th h a b minor) (claimHandle t h) :=
  issues_after hr (fun _ => rfl) (hi.trans (issueCopy_of hr minor))

end

/-! ### The checks of a copy (R220 to R222, R389) -/

section
variable (t : Nat) (th : Thread) (h : BitVec 6) (a b : BitVec 5) (d u v : BitVec 2) (e : BitVec 4)

theorem bitsOf_toNat {w : Nat} (x : BitVec w) (lo n : Nat) : bitsOf x.toNat lo n = (x.extractLsb' lo n).toNat := by
  rw [bitsOf, BitVec.extractLsb'_toNat, Nat.shiftRight_eq_div_pow]

theorem cmdMinor_copyCmd (minor : BitVec 10) : cmdMinor (copyCmd t th h a b minor) = minor.toNat := by
  rw [cmdMinor, copyCmd, newCmd, bitsOf_toNat, wordE_minor]

theorem copyCmd_fields : copyDir (copyCmd t th h a b (d ++ u ++ v ++ e)) = d.toNat ∧ copyBuf (copyCmd t th h a b (d ++ u ++ v ++ e)) = u.toNat ∧
    copySrcBuf (copyCmd t th h a b (d ++ u ++ v ++ e)) = v.toNat ∧ copyDec (copyCmd t th h a b (d ++ u ++ v ++ e)) = e.toNat := by
  obtain ⟨hd, hu, hv, he⟩ := copyMinor_fields d u v e
  simp only [copyDir, copyBuf, copySrcBuf, copyDec, cmdMinor_copyCmd, bitsOf_toNat]
  rw [hd, hu, hv, he]
  exact ⟨rfl, rfl, rfl, rfl⟩

theorem copyOff_copyCmd (minor : BitVec 10) : copyOff (copyCmd t th h a b minor) = ((regGet th b).extractLsb' 0 21).toNat := bitsOf_toNat ..
theorem copyLen_copyCmd (minor : BitVec 10) : copyLen (copyCmd t th h a b minor) = ((regGet th b).extractLsb' 32 25).toNat := bitsOf_toNat ..

/-- The size of a buffer by its code of two bits (R117). -/
def codeSize (k : BitVec 2) : Nat := if k = 2 then 0x100000 else 0x200000

theorem bufSize_toNat (k : BitVec 2) : bufSize k.toNat = codeSize k := by
  revert k; decide

theorem outside_copy_gb_eq (v : Word) : outside v (fieldMask 0 21 + fieldMask 32 25) = decide (v.extractLsb' 21 11 ≠ 0 ∨ v.extractLsb' 57 7 ≠ 0) :=
  Bool.eq_iff_iff.2 ((outside_copy_gb v).trans decide_eq_true_iff.symm)

theorem outside_copy_ga_eq (v : Word) : outside v (fieldMask 0 21) = decide (v.extractLsb' 21 43 ≠ 0) :=
  Bool.eq_iff_iff.2 ((outside_copy_ga v).trans decide_eq_true_iff.symm)

theorem bitVec4_toNat_eq_zero (e : BitVec 4) : e.toNat = 0 ↔ e = 0 := by revert e; decide

theorem bitVec2_toNat_eq_zero (u : BitVec 2) : u.toNat = 0 ↔ u = 0 := by revert u; decide

/-- The conditions of a copy with its fields read out of its word and its operands. -/
theorem copyReason_copyCmd (hd : Handle) : copyReason (copyCmd t th h a b (d ++ u ++ v ++ e)) hd =
    let y := regGet th b
    let x := regGet th a
    let off := (y.extractLsb' 0 21).toNat
    let len := (y.extractLsb' 32 25).toNat
    issueReason [
      (1, decide (y.extractLsb' 21 11 ≠ 0 ∨ y.extractLsb' 57 7 ≠ 0) || (decide (d.toNat = 2) && decide (x.extractLsb' 21 43 ≠ 0))),
      (2, decide (u = 0) && decide (d.toNat ≠ 0)),
      (3, decide (codeSize u < off + len) || (decide (d.toNat = 2) && decide (codeSize v < (x.extractLsb' 0 21).toNat + len))),
      (5, decide (len = 0 ∨ 2 ^ 24 < len)),
      (6, !handleFree hd d.toNat),
      (7, decide (e.toNat ≠ 0) && decide (len % (fmtWidth ((fmtOfCode (e.toNat - 1)).getD .i8) / 8) ≠ 0))] := by
  obtain ⟨hdir, hbuf, hsrc, hdec⟩ := copyCmd_fields t th h a b d u v e
  simp only [copyReason, hdir, hbuf, hsrc, hdec, copyOff_copyCmd, copyLen_copyCmd, bufSize_toNat, bitVec2_toNat_eq_zero]
  rw [← outside_copy_gb_eq, ← outside_copy_ga_eq]
  simp only [gaBits, bitsOf_toNat]
  rfl

theorem not_handleFree (hd : Handle) (n : Nat) :
    (!handleFree hd n) = decide (¬(hd.claimed = none ∧ (hd.state = 0 ∨ n = 1 ∧ hd.state = 2))) := by
  rw [handleFree, decide_not]
  congr 1
  rw [Bool.eq_iff_iff]
  simp

theorem copyReason_in (hd : Handle) : copyReason (copyCmd t th h a b (0#2 ++ u ++ 0#2 ++ e)) hd =
    let y := regGet th b
    let off := (y.extractLsb' 0 21).toNat
    let len := (y.extractLsb' 32 25).toNat
    issueReason [(1, decide (y.extractLsb' 21 11 ≠ 0 ∨ y.extractLsb' 57 7 ≠ 0)), (3, decide (codeSize u < off + len)),
      (5, decide (len = 0 ∨ 2 ^ 24 < len)), (6, decide (¬(hd.claimed = none ∧ hd.state = 0))),
      (7, decide (e ≠ 0 ∧ len % (fmtWidth ((fmtOfCode (e.toNat - 1)).getD .i8) / 8) ≠ 0))] := by
  simp only [copyReason_copyCmd, not_handleFree, issueReason, List.find?_cons]
  simp [bitVec4_toNat_eq_zero]

theorem copyReason_out (hd : Handle) : copyReason (copyCmd t th h a b (1#2 ++ u ++ 0#2 ++ 0#4)) hd =
    let y := regGet th b
    let off := (y.extractLsb' 0 21).toNat
    let len := (y.extractLsb' 32 25).toNat
    issueReason [(1, decide (y.extractLsb' 21 11 ≠ 0 ∨ y.extractLsb' 57 7 ≠ 0)), (2, decide (u = 0)), (3, decide (codeSize u < off + len)),
      (5, decide (len = 0 ∨ 2 ^ 24 < len)), (6, decide (¬(hd.claimed = none ∧ (hd.state = 0 ∨ hd.state = 2))))] := by
  simp only [copyReason_copyCmd, not_handleFree, issueReason, List.find?_cons]
  simp

theorem copyReason_bb (hd : Handle) : copyReason (copyCmd t th h a b (2#2 ++ u ++ v ++ 0#4)) hd =
    let y := regGet th b
    let x := regGet th a
    let off := (y.extractLsb' 0 21).toNat
    let len := (y.extractLsb' 32 25).toNat
    issueReason [(1, decide ((y.extractLsb' 21 11 ≠ 0 ∨ y.extractLsb' 57 7 ≠ 0) ∨ x.extractLsb' 21 43 ≠ 0)), (2, decide (u = 0)),
      (3, decide (codeSize u < off + len ∨ codeSize v < (x.extractLsb' 0 21).toNat + len)),
      (5, decide (len = 0 ∨ 2 ^ 24 < len)), (6, decide (¬(hd.claimed = none ∧ hd.state = 0)))] := by
  simp only [copyReason_copyCmd, not_handleFree, issueReason, List.find?_cons]
  simp

end

/-! ### The handle instructions (R126, R224) -/

section
variable {s : State} {t : Nat} {th : Thread}

theorem exec_hwait (hr : Running s t th) (h : BitVec 6) : exec (.hwait h) s = .next (
    if (handleAt s (clusterOf t) h.toNat).state = 1 ∨ (handleAt s (clusterOf t) h.toNat).state = 3 then waiting s t th (.handle h.toNat)
    else completed s t th) := by
  refine (onThread_of hr _).trans ?_
  rw [waitAt_of hr.get, retire_of hr.get]

theorem exec_hrel (hr : Running s t th) (h : BitVec 6) : exec (.hrel h) s = .next (
    if (handleAt s (clusterOf t) h.toNat).state = 2 ∧ (handleAt s (clusterOf t) h.toNat).claimed = none then
      completed (setHandle s (clusterOf t) h.toNat { handleAt s (clusterOf t) h.toNat with state := 0 }) t th
    else raiseTrap s t ⟨6, 6, 0⟩) := by
  refine (onThread_of hr _).trans ?_
  dsimp only
  rw [retire_of (th := th) (by simpa using hr.get)]
  simp only [Option.isNone_iff_eq_none]
  rfl

/-- The two words of a handle whose fields are in range. -/
theorem handleBits_words {v : Handle} (hs : v.state < 4) (ho : v.owner < 1024) (he : v.engine < 2) (hb : v.bytes < 2 ^ 25) :
    BitVec.ofNat 64 (handleBits v) = BitVec.ofNat 2 v.state ++ BitVec.ofBool v.late ++ BitVec.ofBool v.err ++ BitVec.ofNat 10 v.owner ++
      BitVec.ofNat 1 v.engine ++ BitVec.ofNat 25 v.bytes ++ 0#24 ∧
    BitVec.ofNat 64 (handleBits v / 2 ^ 64) = BitVec.ofNat 64 v.promise := by
  have hl := v.late.toNat_lt
  have hr := v.err.toNat_lt
  constructor <;> apply BitVec.eq_of_toNat_eq <;>
    simp only [handleBits, append_toNat, BitVec.toNat_ofNat, BitVec.toNat_ofBool] <;> omega

theorem exec_hstat (hr : Running s t th) {h : BitVec 6} {a b : BitVec 5} (hab : a ≠ b ∨ a = 0) : exec (.hstat h a b) s = .next (completed s t
    (regSet (regSet th a (BitVec.ofNat 64 (handleBits (handleAt s (clusterOf t) h.toNat)))) b
      (BitVec.ofNat 64 (handleBits (handleAt s (clusterOf t) h.toNat) / 2 ^ 64)))) := by
  have hok : hstatOk a b = true := decide_eq_true hab
  change execHstat h a b s = _
  rw [execHstat, hok, checked_of hr]
  dsimp only
  rw [modThread_of hr.get, retire_of (tblGet_tblSet ..), completed, completed, completedAt_modThread]

theorem exec_hstat_same (hr : Running s t th) {h : BitVec 6} {a b : BitVec 5} (hab : a = b) (ha : a ≠ 0) :
    exec (.hstat h a b) s = .next (raiseTrap s t ⟨1, 4, 0⟩) := by
  have hok : hstatOk a b = false := decide_eq_false fun hor => hor.elim (absurd hab) ha
  change execHstat h a b s = _
  rw [execHstat, hok]
  exact checked_of_not hr _

end

/-- Settles O18: the words, the issues of the three copies by the conditions of their commands, and the handle instructions. -/
theorem copyCommands : Obligations.CopyCommands := by
  unfold Obligations.CopyCommands
  intro s t th h a b u v e hr cl x y hd off len size free cmd claim reserved bytes inWord outWord bbWord
  obtain ⟨hin, hout, hbb⟩ := decodeControl_copies h a b u v e
  obtain ⟨hwait, hrel, hstat⟩ := decodeControl_handles h a b
  refine ⟨hin, hout, hbb, hwait, hrel, hstat, ?issueIn, ?issueOut, ?issueBb, ?trapIn, ?trapOut, ?trapBb, ?wait, ?go, ?free, ?keep, ?stat, ?same⟩
  case issueIn =>
    intro hu he
    have hok : copyInOk u e = true := Bool.and_eq_true_iff.2 ⟨decide_eq_true hu, decide_eq_true he⟩
    have hi := issues_copy (i := .copyIn h a b u e) (minor := 0#2 ++ u ++ 0#2 ++ e) (h := h) (a := a) (b := b) hr
      (Eq.trans (b := issueCopy s (copyInOk u e) h a b (64 * u.toNat + e.toNat)) rfl
        (by rw [hok, copyMinor_toNat]; simp))
    rw [copyReason_in] at hi
    exact hi
  case issueOut =>
    intro hu
    have hok : bufOk u = true := decide_eq_true hu
    have hi := issues_copy (i := .copyOut h a b u) (minor := 1#2 ++ u ++ 0#2 ++ 0#4) (h := h) (a := a) (b := b) hr
      (Eq.trans (b := issueCopy s (bufOk u) h a b (256 + 64 * u.toNat)) rfl (by rw [hok, copyMinor_toNat]; simp))
    rw [copyReason_out, ← copyOutMinor_eq] at hi
    exact hi
  case issueBb =>
    intro hu hv
    have hok : copyBbOk u v = true := Bool.and_eq_true_iff.2 ⟨decide_eq_true hu, decide_eq_true hv⟩
    have hi := issues_copy (i := .copyBb h a b u v) (minor := 2#2 ++ u ++ v ++ 0#4) (h := h) (a := a) (b := b) hr
      (Eq.trans (b := issueCopy s (copyBbOk u v) h a b (512 + 64 * u.toNat + 16 * v.toNat)) rfl (by rw [hok, copyMinor_toNat]; simp))
    rw [copyReason_bb] at hi
    exact hi
  case trapIn =>
    intro hbad
    have hok : copyInOk u e = false := Bool.and_eq_false_iff.2 (hbad.imp (fun hu => decide_eq_false (not_not.2 hu)) (fun he => decide_eq_false (by omega)))
    change issueCopy s (copyInOk u e) h a b _ = _
    rw [hok]
    exact checked_of_not hr _
  case trapOut =>
    intro hu
    have hok : bufOk u = false := decide_eq_false (not_not.2 hu)
    change issueCopy s (bufOk u) h a b _ = _
    rw [hok]
    exact checked_of_not hr _
  case trapBb =>
    intro hbad
    have hok : copyBbOk u v = false := Bool.and_eq_false_iff.2 (hbad.imp (fun hu => decide_eq_false (not_not.2 hu))
      (fun hv => decide_eq_false (by rcases hv with rfl | rfl <;> decide)))
    change issueCopy s (copyBbOk u v) h a b _ = _
    rw [hok]
    exact checked_of_not hr _
  case wait => exact fun hb => (exec_hwait hr h).trans (congrArg _ (if_pos hb))
  case go => exact fun h1 h3 => (exec_hwait hr h).trans (congrArg _ (if_neg (not_or.2 ⟨h1, h3⟩)))
  case free => exact fun h2 hn => (exec_hrel hr h).trans (congrArg _ (if_pos ⟨h2, hn⟩))
  case keep => exact fun hno => (exec_hrel hr h).trans (congrArg _ (if_neg fun hyes => hno.elim (absurd hyes.1) (absurd hyes.2)))
  case stat =>
    intro hab hs ho he hb
    obtain ⟨hlow, hhigh⟩ := handleBits_words hs ho he hb
    rw [exec_hstat hr hab, hlow, hhigh]
  case same => exact fun hab ha => exec_hstat_same hr hab ha

end Sys2Proof.Machine

/-! PROOFS. A copy is accepted, becomes late and lands (O19). -/

namespace Sys2Proof.Machine

section
variable {s : State} {c u h : Nat} {k : Cmd} {v : Handle}

/-! ### Acceptance and the promise (R127, R128, R221) -/

theorem execCopyAccept_of {x : Ctx} (hr : (unitAt s c u).running = some k) (hs : k.step = 0) (hm : cmdMajor k = 0x31) (hx : ctxOf s k.ctx = some x) :
    execCopyAccept c u s =
      let promise := max s.now (unitAt s c u).prev + x.slack + (copyLen k + 127) / 128
      .next (setHandle (setUnit s c u { unitAt s c u with running := some { k with step := 1 }, prev := promise }) c k.handle
        ⟨promise, if copyDir k = 1 then 3 else 1, false, false, k.tid, u - 6, copyLen k, none⟩) := by
  simp [execCopyAccept, hr, hs, hm, hx]

theorem execCopyAccept_of_idle (hr : (unitAt s c u).running = none) : execCopyAccept c u s = .next s := by
  simp [execCopyAccept, hr]

theorem checkPromise_of_late (hv : handleAt s c h = v) (hst : v.state = 1 ∨ v.state = 3) (hl : v.late = false) (hp : v.promise < s.now) :
    checkPromise s c h = raiseAsync (setHandle s c h { v with late := true }) v.owner 0x10 h := by
  rw [checkPromise, hv, if_pos ⟨hst, by simp [hl], hp⟩]
  rfl

theorem checkPromise_of_kept (hv : handleAt s c h = v) (hno : ¬((v.state = 1 ∨ v.state = 3) ∧ v.late = false ∧ v.promise < s.now)) :
    checkPromise s c h = s := by
  rw [checkPromise, hv, if_neg (by simpa using hno)]

theorem checkPromise_eq (s : State) (c h : Nat) :
    checkPromise s c h =
      if ((handleAt s c h).state = 1 ∨ (handleAt s c h).state = 3) ∧ (handleAt s c h).late = false ∧ (handleAt s c h).promise < s.now then
        raiseAsync (setHandle s c h { handleAt s c h with late := true }) (handleAt s c h).owner 0x10 h
      else s := by
  split
  case isTrue hyes => exact checkPromise_of_late rfl hyes.1 hyes.2.1 hyes.2.2
  case isFalse hno => exact checkPromise_of_kept rfl hno

/-! ### When a command may complete (R143, R247, R408) -/

/-- A request is one of unit `u` of cluster `c`. -/
def madeByUnit (c u : Nat) (w : PeerWho) : Prop := ∃ i, w = .unit c u i

theorem ofUnit_iff (w : PeerWho) : ofUnit c u w = true ↔ madeByUnit c u w := by
  cases w <;> simp [ofUnit, madeByUnit]

theorem partsDone_iff : partsDone s c u k = true ↔ k.frost = [] ∧ ∀ p ∈ s.requests, ¬madeByUnit c u p.2.who := by
  have hunit : partsDone s c u k = (k.frost.isEmpty && !s.requests.any fun r => ofUnit c u r.2.who) := rfl
  simp only [hunit, Bool.and_eq_true, List.isEmpty_iff, Bool.not_eq_true', List.any_eq_false, ofUnit_iff]

theorem cmdEnds_iff : cmdEnds s c u k = true ↔ (k.frost = [] ∧ ∀ p ∈ s.requests, ¬madeByUnit c u p.2.who) ∨
    (k.failed = true ∧ ∀ p ∈ s.requests, p.2.type = 1 ∨ ¬madeByUnit c u p.2.who) := by
  simp only [cmdEnds, Bool.or_eq_true, partsDone_iff, Bool.and_eq_true, Bool.not_eq_true', List.any_eq_false, ofUnit_iff, decide_eq_true_eq,
    not_and, ne_eq, ← or_iff_not_imp_left]

/-! ### The landing (R127, R222, R408) -/

theorem execCopyLand_of_idle (hr : (unitAt s c u).running = none) : execCopyLand c u s = .next s := by
  simp [execCopyLand, hr]

theorem execCopyLand_of_frozen (hr : (unitAt s c u).running = some k) (hf : copiesFrozen s c = true) : execCopyLand c u s = .next s := by
  simp [execCopyLand, hr, hf]

theorem execCopyLand_of_first (hr : (unitAt s c u).running = some k) (hs : k.step = 1) (hm : cmdMajor k = 0x31) (hf : copiesFrozen s c = false) :
    execCopyLand c u s =
      let r := runParts (copyPart c u) s k (List.range (copyParts k))
      let s1 := modRunning r.1 c u (fun _ => { r.2 with step := 2 })
      .next (if cmdEnds s1 c u r.2 then landCopy s1 c u r.2 else s1) := by
  simp [execCopyLand, hr, hs, hm, hf, partsToTry]

end

/-- Settles O19: acceptance, the promise, and the landing by whether the command may complete. -/
theorem copyEvents : Obligations.CopyEvents := by
  unfold Obligations.CopyEvents
  intro s c u h k x v
  refine ⟨fun hr hs hm hx => ?_, fun hr => ?_, fun hv => ⟨fun hst hl hp => ?_, fun hno => ?_⟩, fun hr hs hm hf => ?_, fun hr _ hf => execCopyLand_of_frozen hr hf⟩
  · intro len promise state
    have hlen : copyLen k = len := bitsOf_toNat ..
    have haccept := execCopyAccept_of hr hs hm hx
    rw [hlen] at haccept
    exact haccept
  · exact ⟨execCopyAccept_of_idle hr, execCopyLand_of_idle hr⟩
  · exact congrArg _ (checkPromise_of_late hv hst hl hp)
  · refine congrArg _ (checkPromise_of_kept hv ?_)
    rintro ⟨hst, hl, hp⟩
    rcases hno with h | h | h | h
    · simp [hl] at h
    all_goals omega
  · intro r s1 w s2 old s3 mine done ended
    have hland : exec (.copyLand c u) s = .next (if cmdEnds s1 c u r.2 then landCopy s1 c u r.2 else s1) := execCopyLand_of_first hr hs hm hf
    have hs2 : s2 = checkPromise s1 c r.2.handle := (checkPromise_eq s1 c r.2.handle).symm
    refine ⟨fun hends => ?_, fun hd he => ?_⟩
    · rw [hland, if_pos (cmdEnds_iff.2 hends), landCopy, ← hs2]
    · rw [hland, if_neg fun hyes => (cmdEnds_iff.1 hyes).elim hd he]

end Sys2Proof.Machine

/-! PROOFS. The seven full/empty forms on a word that nothing else waits for (O28). -/

namespace Sys2Proof.Machine

/-! ### The words (R253, R386) -/

section
variable (op : BitVec 3) (d a b : BitVec 5) (sp : BitVec 2) (o : BitVec 5)

/-- The word of a full/empty form. -/
def tagWord : BitVec 32 := wordA 0x38 d a b (op ++ sp ++ 0#1 ++ o)

theorem tagWord_fields : (tagWord op d a b sp o).extractLsb' 8 3 = op ∧ (tagWord op d a b sp o).extractLsb' 6 2 = sp ∧
    (tagWord op d a b sp o).extractLsb' 5 1 = 0#1 ∧ (tagWord op d a b sp o).extractLsb' 0 5 = o := by
  simp only [tagWord]
  rw [wordA_low _ _ _ _ _ _ _ (by decide), wordA_low _ _ _ _ _ _ _ (by decide), wordA_low _ _ _ _ _ _ _ (by decide),
    wordA_low _ _ _ _ _ _ _ (by decide)]
  refine ⟨?_, ?_, ?_, ?_⟩
  · rw [field_high _ _ _ _ (by decide), field_high _ _ _ _ (by decide), field_high _ _ _ _ (by decide)]; simp
  · rw [field_high _ _ _ _ (by decide), field_high _ _ _ _ (by decide), field_low _ _ _ _ (by decide)]; simp
  · rw [field_high _ _ _ _ (by decide), field_low _ _ _ _ (by decide)]; simp
  · rw [field_low _ _ _ _ (by decide)]; simp

theorem decodeControl_tagWords :
    decodeControl (tagWord 0 d a 0 sp o) = .ok (.ldwF d a sp o) ∧ decodeControl (tagWord 1 d a 0 sp o) = .ok (.stwE d a sp o) ∧
    decodeControl (tagWord 2 d a 0 sp o) = .ok (.ldwFt d a sp o) ∧ decodeControl (tagWord 3 d a b sp o) = .ok (.stwEt d a b sp o) ∧
    decodeControl (tagWord 4 d a 0 sp o) = .ok (.ldwFk d a sp o) ∧ decodeControl (tagWord 5 d a 0 sp o) = .ok (.ldwQ d a sp o) ∧
    decodeControl (tagWord 6 0 a 0 sp o) = .ok (.fclr a sp o) := by
  have hmajor (op : BitVec 3) (d b : BitVec 5) : (tagWord op d a b sp o).extractLsb' 26 6 = 0x38 := wordA_major ..
  have hd (op : BitVec 3) (d b : BitVec 5) : (tagWord op d a b sp o).extractLsb' 21 5 = d := wordA_d ..
  have ha (op : BitVec 3) (d b : BitVec 5) : (tagWord op d a b sp o).extractLsb' 16 5 = a := wordA_a ..
  have hb (op : BitVec 3) (d b : BitVec 5) : (tagWord op d a b sp o).extractLsb' 11 5 = b := wordA_b ..
  refine ⟨?_, ?_, ?_, ?_, ?_, ?_, ?_⟩ <;>
    simp only [decodeControl, decodeMajor38, tagWord_fields, hmajor, hd, ha, hb] <;> rfl

theorem tagSpace_eq : tagSpace sp = if sp = 0 then .i else if sp = 1 then .v else if sp = 2 then .a else .c := by
  revert sp; decide

theorem signExtend_shift_two : o.signExtend 64 <<< (2 : Nat) = BitVec.ofInt 64 (4 * o.toInt) := by
  revert o; decide

end

/-! ### A waiter by itself on its word (R255) -/

section
variable {s : State} {k : Nat} {w : Waiter}

theorem settleWord_of_nil (hw : s.wordWaits = []) : settleWord s k = s := by simp [settleWord, hw, tblGet, serveWord]

theorem settleTags_of_nil (hw : s.wordWaits = []) : settleTags s k = s := by simp [settleTags, hw]

theorem settleWord_of_served (hw : s.wordWaits = [(k, [w])]) {r : State} (hr : poisonWait s k w = some r ∨ (poisonWait s k w = none ∧ serveOne s k w = some r)) :
    settleWord s k = { r with wordWaits := tblDel k r.wordWaits } := by
  rcases hr with hp | ⟨hp, hs⟩
  · simp [settleWord, hw, tblGet, serveWord, serveFirst, hp]
  · simp [settleWord, hw, tblGet, serveWord, serveFirst, hp, hs]

theorem settleWord_of_stays (hw : s.wordWaits = [(k, [w])]) (hp : poisonWait s k w = none) (hs : serveOne s k w = none) : settleWord s k = s := by
  simp [settleWord, hw, tblGet, serveWord, serveFirst, hp, hs]

theorem settleTags_of_stays (hw : s.wordWaits = [(k, [w])]) (hs : settleWord s k = s) : settleTags s k = s := by
  unfold settleTags
  split
  case isTrue hb => simp [hw, settleTagsOnce, hb, hs]
  case isFalse => rfl

end

/-- The machine while thread `t` waits at its instruction with a waiter that is alone on its word. -/
def parkedOn (s : State) (t : Nat) (th : Thread) (v : Wait) (k : Nat) (w : Waiter) : State :=
  { waiting s t th v with wordWaits := [(k, [w])] }

section
variable {s : State} {t : Nat} {th : Thread} {v : Wait} {k : Nat} {w : Waiter}

theorem memRead_parkedOn (c n : Nat) :
    memRead (parkedOn s t th v k w) c n = (memoryIn (memRead s c n).1 (parkedOn s t th v k w), (memRead s c n).2) :=
  memRead_memoryIn s (parkedOn s t th v k w) c n

/-- The instruction counts of a context do not look at the waiters. -/
theorem countInstr_withWaits (s : State) (ws : Tbl (List Waiter)) (x : Nat) :
    countInstr { s with wordWaits := ws } x = { countInstr s x with wordWaits := ws } := by
  rw [countInstr_eq_accountsIn s]
  exact countInstr_accountsIn s { s with wordWaits := ws } x

@[simp] theorem countInstr_wordWaits (s : State) (x : Nat) : (countInstr s x).wordWaits = s.wordWaits := by
  rw [countInstr_eq_accountsIn]; rfl

@[simp] theorem completed_wordWaits (s : State) (t : Nat) (th : Thread) : (completed s t th).wordWaits = s.wordWaits := by
  simp [completed, completedAt]

@[simp] theorem resulted_wordWaits (s : State) (t : Nat) (th : Thread) (d : BitVec 5) (v : Word) : (resulted s t th d v).wordWaits = s.wordWaits :=
  completed_wordWaits ..

theorem withWaits_self {ws : Tbl (List Waiter)} (h : s.wordWaits = ws) : { s with wordWaits := ws } = s := by
  subst h; rfl

/-- A thread that is served in its wait stands as one that has not waited. -/
theorem completed_parkedOn (hw : s.wordWaits = []) (u : Thread) :
    { completed (parkedOn s t th v k w) t { u with wait := v } with wordWaits := [] } = completed s t u := by
  have hparked : completed (parkedOn s t th v k w) t { u with wait := v } = { completed s t u with wordWaits := [(k, [w])] } := by
    rw [completed, completedAt, completed, completedAt, ← countInstr_withWaits]
    simp only [parkedOn, waiting, tblSet_tblSet]
  rw [hparked]
  exact withWaits_self ((completed_wordWaits ..).trans hw)

theorem regSet_withWait (u : Thread) (d : BitVec 5) (x : Word) : regSet { u with wait := v } d x = { regSet u d x with wait := v } := by
  unfold regSet; split <;> rfl

theorem tblGet_parkedOn : tblGet t (parkedOn s t th v k w).threads = some { th with wait := v } := tblGet_tblSet ..

theorem retire_parkedOn : retire (parkedOn s t th v k w) t = completed (parkedOn s t th v k w) t { th with wait := v } := retire_of tblGet_parkedOn

theorem retireWith_parkedOn (d : BitVec 5) (x : Word) :
    retireWith (parkedOn s t th v k w) t d x = completed (parkedOn s t th v k w) t { regSet th d x with wait := v } := by
  rw [retireWith_of tblGet_parkedOn, resulted, regSet_withWait]

theorem setEmpty_parkedOn (x : Nat) : setEmpty (parkedOn s t th v k w) x k = parkedOn (setEmpty s x k) t th v k w := by
  unfold setEmpty; split <;> rfl

theorem setFull_parkedOn : setFull (parkedOn s t th v k w) k = parkedOn (setFull s k) t th v k w := by
  unfold setFull; split <;> rfl

theorem memStore_parkedOn (c : Nat) (bs : List Byte) (p : Bool) :
    memStore (parkedOn s t th v k w) c bs p = parkedOn (memStore s c bs p) t th v k w := by
  have hself : memStore s c bs p = memoryIn (memStore s c bs p) s := memStore_memoryIn s s c bs p
  rw [hself]
  exact memStore_memoryIn s (parkedOn s t th v k w) c bs p

@[simp] theorem setEmpty_wordWaits (s : State) (x k : Nat) : (setEmpty s x k).wordWaits = s.wordWaits := by unfold setEmpty; split <;> rfl
@[simp] theorem setFull_wordWaits (s : State) (k : Nat) : (setFull s k).wordWaits = s.wordWaits := by unfold setFull; split <;> rfl
@[simp] theorem memStore_wordWaits (s : State) (c : Nat) (bs : List Byte) (p : Bool) : (memStore s c bs p).wordWaits = s.wordWaits := by
  have hself : memStore s c bs p = memoryIn (memStore s c bs p) s := memStore_memoryIn s s c bs p
  rw [hself]; rfl

/-- What becomes of a thread that joins a word by itself: it is served at once, or it stays. -/
theorem settle_of_served {e : State} {u : Thread} (hw : e.wordWaits = []) (hp : poisonWait (parkedOn s t th v k w) k w = none)
    (hs : serveOne (parkedOn s t th v k w) k w = some (completed (parkedOn e t th v k w) t { u with wait := v })) :
    settleTags (settleWord (parkedOn s t th v k w) k) k = completed e t u := by
  have hdone : settleWord (parkedOn s t th v k w) k = completed e t u := by
    rw [settleWord_of_served rfl (.inr ⟨hp, hs⟩), ← completed_parkedOn (v := v) (k := k) (w := w) (th := th) hw]
    congr 1
    simp [parkedOn, tblDel]
  rw [hdone, settleTags_of_nil (by simpa using hw)]

theorem settle_of_stays (hp : poisonWait (parkedOn s t th v k w) k w = none) (hs : serveOne (parkedOn s t th v k w) k w = none) :
    settleTags (settleWord (parkedOn s t th v k w) k) k = parkedOn s t th v k w := by
  rw [settleWord_of_stays rfl hp hs, settleTags_of_stays rfl (settleWord_of_stays rfl hp hs)]

/-! ### The poison of a word that a thread waits for (R253) -/

/-- The thread as it enters the handler of a synchronous trap (R176). -/
def trapped (th : Thread) (tr : Trap) : Thread :=
  { th with
    epc := codeAddr th.pc, cause := causeWord false tr.code tr.detail, evaddr := BitVec.ofNat 64 tr.evaddr,
    status := statusBits true (!th.asyncs.isEmpty), pc := th.tvec, wait := .none, ifetch := none }

theorem raiseTrap_of_handler (h : tblGet t s.threads = some th) (hin : inTrap th = false) (hv : th.tvec ≠ 0) (tr : Trap) :
    raiseTrap s t tr = { s with threads := tblSet t (trapped th tr) s.threads } := by
  simp only [raiseTrap, raiseTrapWord, h, hin, enterTrap]
  rw [if_neg (by decide), if_neg hv, modThread_of h]
  rfl

/-- The trap of a thread taken out of its wait. -/
theorem raiseTrap_memoryIn_parkedOn (hin : inTrap th = false) (hv : th.tvec ≠ 0) (m : State) (tr : Trap) :
    raiseTrap (modThread (memoryIn m (parkedOn s t th v k w)) t (fun th => { th with wait := .none })) t tr =
      { memoryIn m (parkedOn s t th v k w) with threads := tblSet t (trapped th tr) s.threads } := by
  have hget : tblGet t (memoryIn m (parkedOn s t th v k w)).threads = some { th with wait := v } := tblGet_parkedOn (k := k) (w := w)
  rw [modThread_of hget, raiseTrap_of_handler (th := { th with wait := .none }) (tblGet_tblSet ..) hin hv]
  simp [memoryIn, parkedOn, waiting, trapped]

theorem poisonWait_of_poison {gd c a : Nat} {p : Space} {op : WordOp} (hop : op = .takeFull ∨ op = .keepFull) (hf : wordFull s k = true)
    (hr : (memRead s c 4).2.reason ≠ 0) (hin : inTrap th = false) (hv : th.tvec ≠ 0) :
    poisonWait (parkedOn s t th (.word k p a) k w) k ⟨.thread t gd, op, c⟩ =
      some { memoryIn (memRead s c 4).1 (parkedOn s t th (.word k p a) k w) with
        threads := tblSet t (trapped th (poisonTrap p false (memRead s c 4).2.reason a)) s.threads } := by
  have hfull : wordFull (parkedOn s t th (.word k p a) k w) k = true := hf
  have hget : tblGet t (memoryIn (memRead s c 4).1 (parkedOn s t th (.word k p a) k w)).threads = some { th with wait := .word k p a } :=
    tblGet_parkedOn (k := k) (w := w)
  rcases hop with rfl | rfl <;>
    simp only [poisonWait, hfull, memRead_parkedOn, hr, hget, raiseTrap_memoryIn_parkedOn hin hv, Bool.not_true, Bool.false_eq_true, if_false]

/-- Where the word is full and holds no poison, no trap is due. -/
theorem poisonWait_of_sound {gd c : Nat} {op : WordOp} (h : wordFull s k = false ∨ (memRead s c 4).2.reason = 0) :
    poisonWait (parkedOn s t th v k w) k ⟨.thread t gd, op, c⟩ = none := by
  have hfull : wordFull (parkedOn s t th v k w) k = wordFull s k := rfl
  unfold poisonWait
  split
  case h_3 => rfl
  all_goals rcases h with h | h <;> simp_all [memRead_parkedOn]

end

/-- A load form that waits traps where its word is poisoned. -/
theorem settle_of_poisoned {s : State} {t : Nat} {th : Thread} {k c gd : Nat} {p : Space} {a : Nat} {op : WordOp} (hop : op = .takeFull ∨ op = .keepFull)
    (hf : wordFull s k = true) (hr : (memRead s c 4).2.reason ≠ 0) (hin : inTrap th = false) (hv : th.tvec ≠ 0) (hw : s.wordWaits = [])
    (ht : tblGet t s.threads = some th) :
    settleTags (settleWord (parkedOn s t th (.word k p a) k ⟨.thread t gd, op, c⟩) k) k =
      raiseTrap (memRead s c 4).1 t (poisonTrap p false (memRead s c 4).2.reason a) := by
  have hself : (memRead s c 4).1 = memoryIn (memRead s c 4).1 s := congrArg Prod.fst (memRead_memoryIn s s c 4)
  have htrap : raiseTrap (memRead s c 4).1 t (poisonTrap p false (memRead s c 4).2.reason a) = { memoryIn (memRead s c 4).1 s with
      threads := tblSet t (trapped th (poisonTrap p false (memRead s c 4).2.reason a)) s.threads } := by
    rw [raiseTrap_of_handler (th := th) (by rw [hself]; exact ht) hin hv]
    rw [hself]
    rfl
  rw [settleWord_of_served rfl (.inl (poisonWait_of_poison hop hf hr hin hv)), settleTags_of_nil (by simp [memoryIn, parkedOn, tblDel]), htrap]
  simp [memoryIn, parkedOn, waiting, tblDel, hw]

/-! ### What serves a waiter (R253) -/

section
variable {s : State} {t : Nat} {th : Thread} {k c : Nat} {p : Space} {a : Nat}

theorem leNat_lt (bs : List Byte) : leNat bs < 2 ^ (8 * bs.length) := by
  induction bs with
  | nil => decide
  | cons b bs ih =>
    have hb := b.isLt
    rw [leNat, List.length_cons, Nat.mul_add, Nat.pow_add]
    omega

theorem zeroExtend_leNat {bs : List Byte} (h : bs.length = 4) : (BitVec.ofNat 32 (leNat bs)).zeroExtend 64 = BitVec.ofNat 64 (leNat bs) := by
  have hlt := leNat_lt bs
  rw [h] at hlt
  apply BitVec.eq_of_toNat_eq
  simp only [BitVec.truncate_eq_setWidth, BitVec.toNat_setWidth, BitVec.toNat_ofNat]
  omega

theorem memRead_bytes_length (s : State) (c n : Nat) : (memRead s c n).2.bytes.length = n := cellsRead_length ..

/-- A full word that is read and emptied. -/
theorem settle_takeFull (hw : s.wordWaits = []) (hf : wordFull s k = true) (hr : (memRead s c 4).2.reason = 0)
    (hroom : tagRoom s k = true) (d : BitVec 5) :
    settleTags (settleWord (parkedOn s t th (.word k p a) k ⟨.thread t d.toNat, .takeFull, c⟩) k) k =
      resulted (setEmpty s th.ctx k) t th d (BitVec.ofNat 64 (leNat (memRead s c 4).2.bytes)) := by
  refine settle_of_served (by simpa using hw) (poisonWait_of_sound (.inr hr)) ?_
  have hfull (w : Waiter) : wordFull (parkedOn s t th (.word k p a) k w) k = true := hf
  have hroom' (w : Waiter) : tagRoom (parkedOn s t th (.word k p a) k w) k = true := hroom
  have hread (w : Waiter) : memRead (parkedOn s t th (.word k p a) k w) c 4 = (parkedOn s t th (.word k p a) k w, (memRead s c 4).2) := by
    rw [memRead_parkedOn, memRead_of_reason_zero hr]; rfl
  simp only [serveOne, hfull, hroom', hread, waiterCtx, tblGet_parkedOn, setEmpty_parkedOn, answerWaiter, retireWith_parkedOn]
  simp [zeroExtend_leNat (memRead_bytes_length s c 4)]

/-- A full word that is read. -/
theorem settle_keepFull (hw : s.wordWaits = []) (hf : wordFull s k = true) (hr : (memRead s c 4).2.reason = 0)
    (d : BitVec 5) :
    settleTags (settleWord (parkedOn s t th (.word k p a) k ⟨.thread t d.toNat, .keepFull, c⟩) k) k =
      resulted s t th d (BitVec.ofNat 64 (leNat (memRead s c 4).2.bytes)) := by
  refine settle_of_served hw (poisonWait_of_sound (.inr hr)) ?_
  have hfull (w : Waiter) : wordFull (parkedOn s t th (.word k p a) k w) k = true := hf
  have hread (w : Waiter) : memRead (parkedOn s t th (.word k p a) k w) c 4 = (parkedOn s t th (.word k p a) k w, (memRead s c 4).2) := by
    rw [memRead_parkedOn, memRead_of_reason_zero hr]; rfl
  simp only [serveOne, hfull, hread, answerWaiter, retireWith_parkedOn]
  simp [zeroExtend_leNat (memRead_bytes_length s c 4)]

/-- An empty word that is written and filled. -/
theorem settle_fillEmpty (hw : s.wordWaits = []) (hf : wordFull s k = false) (v : BitVec 32) :
    settleTags (settleWord (parkedOn s t th (.word k p a) k ⟨.thread t 0, .fillEmpty v false, c⟩) k) k =
      completed (setFull (memStore s c (leBytes v.toNat 4) false) k) t th := by
  refine settle_of_served (by simpa using hw) rfl ?_
  have hfull (w : Waiter) : wordFull (parkedOn s t th (.word k p a) k w) k = false := hf
  simp only [serveOne, hfull, memStore_parkedOn, setFull_parkedOn, answerWaiter, retire_parkedOn]
  simp

/-- A form that cannot be served stays. -/
theorem settle_load_stays {op : WordOp} {gd : Nat} (h : wordFull s k = false ∨ (op = .takeFull ∧ tagRoom s k = false ∧ (memRead s c 4).2.reason = 0))
    (hop : op = .takeFull ∨ op = .keepFull) :
    settleTags (settleWord (parkedOn s t th (.word k p a) k ⟨.thread t gd, op, c⟩) k) k = parkedOn s t th (.word k p a) k ⟨.thread t gd, op, c⟩ := by
  refine settle_of_stays (poisonWait_of_sound (h.imp id fun h => h.2.2)) ?_
  have hfull (w : Waiter) : wordFull (parkedOn s t th (.word k p a) k w) k = wordFull s k := rfl
  have hroom (w : Waiter) : tagRoom (parkedOn s t th (.word k p a) k w) k = tagRoom s k := rfl
  rcases h with h | ⟨rfl, h, -⟩
  · rcases hop with rfl | rfl <;> simp [serveOne, hfull, h]
  · simp [serveOne, hroom, h]

@[simp] theorem setEmpty_threads (s : State) (x k : Nat) : (setEmpty s x k).threads = s.threads := by unfold setEmpty; split <;> rfl
@[simp] theorem setFull_threads (s : State) (k : Nat) : (setFull s k).threads = s.threads := by unfold setFull; split <;> rfl
@[simp] theorem memStore_threads (s : State) (c : Nat) (bs : List Byte) (p : Bool) : (memStore s c bs p).threads = s.threads := by
  have hself : memStore s c bs p = memoryIn (memStore s c bs p) s := memStore_memoryIn s s c bs p
  rw [hself]; rfl

theorem settle_store_stays (h : wordFull s k = true) (v : BitVec 32) :
    settleTags (settleWord (parkedOn s t th (.word k p a) k ⟨.thread t 0, .fillEmpty v false, c⟩) k) k =
      parkedOn s t th (.word k p a) k ⟨.thread t 0, .fillEmpty v false, c⟩ := by
  refine settle_of_stays rfl ?_
  have hfull (w : Waiter) : wordFull (parkedOn s t th (.word k p a) k w) k = true := h
  simp [serveOne, hfull]

end

/-! ### The forms (R253) -/

section
variable {s : State} {t : Nat} {th : Thread} {a : BitVec 5} {sp : BitVec 2} {o : BitVec 5} {c : Nat}

/-- The address of a full/empty access. -/
def tagAddr (th : Thread) (a o : BitVec 5) : Word := regGet th a + BitVec.ofInt 64 (4 * o.toInt)

/-- The word of a full/empty access is placed on this device. -/
def TagPlaced (s : State) (t : Nat) (th : Thread) (a : BitVec 5) (sp : BitVec 2) (o : BitVec 5) (c : Nat) (w store : Bool) : Prop :=
  place s t th (tagSpace sp) (tagAddr th a o) 4 ⟨true, w, false, true⟩ store none = (s, .at_ (.cell c))

theorem onWord_of_posted {w store : Bool} (h : Running s t th) (hp : TagPlaced s t th a sp o c w store) (ho : postedOn th c 4 = true)
    (f : State → Nat → Thread → Space → Nat → Nat → Nat → State) : onWord s a sp o w store f = .next (waiting s t th .retry) := by
  rw [onWord, onThread_of h]
  dsimp only
  rw [signExtend_shift_two, ← tagAddr, hp]
  dsimp only
  rw [if_pos ho, waitAt_of h.get]

theorem onWord_of {w store : Bool} (h : Running s t th) (hp : TagPlaced s t th a sp o c w store) (ho : ¬postedOn th c 4 = true)
    (f : State → Nat → Thread → Space → Nat → Nat → Nat → State) :
    onWord s a sp o w store f = .next (f s t th (tagSpace sp) (tagAddr th a o).toNat c (wordKey th.masks c)) := by
  rw [onWord, onThread_of h]
  dsimp only
  rw [signExtend_shift_two, ← tagAddr, hp]
  dsimp only
  rw [if_neg ho]

theorem waitForm_of {store : Bool} {op : Thread → WordOp} (h : Running s t th) (hw : s.wordWaits = []) (hp : TagPlaced s t th a sp o c true store)
    (ho : ¬postedOn th c 4 = true) (gd : Nat) :
    waitForm s a sp o gd store op = .next (settleTags (settleWord (parkedOn s t th (.word (wordKey th.masks c) (tagSpace sp) (tagAddr th a o).toNat)
      (wordKey th.masks c) ⟨.thread t gd, op th, c⟩) (wordKey th.masks c)) (wordKey th.masks c)) := by
  rw [waitForm, onWord_of h hp ho, waitAt_of h.get, waitWord]
  simp only [waiting, hw, tblGet, tblSet, Option.getD_none, List.nil_append, parkedOn]

theorem waitForm_of_posted {store : Bool} (h : Running s t th) (hp : TagPlaced s t th a sp o c true store) (ho : postedOn th c 4 = true)
    (op : Thread → WordOp) (gd : Nat) : waitForm s a sp o gd store op = .next (waiting s t th .retry) := onWord_of_posted h hp ho _

/-- Every form that may change its word waits for the thread's own store to it. -/
theorem exec_loadForms_of_posted (h : Running s t th) (hp : TagPlaced s t th a sp o c true false) (ho : postedOn th c 4 = true) (d : BitVec 5) :
    ∀ i ∈ [Instr.ldwF d a sp o, .ldwFt d a sp o, .ldwFk d a sp o, .fclr a sp o], exec i s = .next (waiting s t th .retry) := by
  have hld : execLdwFt d a sp o s = .next (waiting s t th .retry) := onWord_of_posted h hp ho _
  have hcl : execFclr a sp o s = .next (waiting s t th .retry) := onWord_of_posted h hp ho _
  intro i hi
  simp only [List.mem_cons, List.not_mem_nil, or_false] at hi
  rcases hi with rfl | rfl | rfl | rfl
  · exact waitForm_of_posted h hp ho _ _
  · exact hld
  · exact waitForm_of_posted h hp ho _ _
  · exact hcl

variable {d b : BitVec 5}

theorem exec_ldwF_of (h : Running s t th) (hw : s.wordWaits = []) (hp : TagPlaced s t th a sp o c true false) (ho : ¬postedOn th c 4 = true) :
    exec (.ldwF d a sp o) s = .next (settleTags (settleWord (parkedOn s t th (.word (wordKey th.masks c) (tagSpace sp) (tagAddr th a o).toNat)
      (wordKey th.masks c) ⟨.thread t d.toNat, .takeFull, c⟩) (wordKey th.masks c)) (wordKey th.masks c)) := waitForm_of h hw hp ho _

theorem exec_ldwFk_of (h : Running s t th) (hw : s.wordWaits = []) (hp : TagPlaced s t th a sp o c true false) (ho : ¬postedOn th c 4 = true) :
    exec (.ldwFk d a sp o) s = .next (settleTags (settleWord (parkedOn s t th (.word (wordKey th.masks c) (tagSpace sp) (tagAddr th a o).toNat)
      (wordKey th.masks c) ⟨.thread t d.toNat, .keepFull, c⟩) (wordKey th.masks c)) (wordKey th.masks c)) := waitForm_of h hw hp ho _

theorem exec_stwE_of (h : Running s t th) (hw : s.wordWaits = []) (hp : TagPlaced s t th a sp o c true true) (ho : ¬postedOn th c 4 = true) :
    exec (.stwE d a sp o) s = .next (settleTags (settleWord (parkedOn s t th (.word (wordKey th.masks c) (tagSpace sp) (tagAddr th a o).toNat)
      (wordKey th.masks c) ⟨.thread t 0, .fillEmpty ((regGet th d).extractLsb' 0 32) false, c⟩) (wordKey th.masks c)) (wordKey th.masks c)) := by
  have htrunc : (regGet th d).truncate 32 = (regGet th d).extractLsb' 0 32 := BitVec.setWidth_eq_extractLsb' (by decide)
  rw [← htrunc]
  exact waitForm_of h hw hp ho _

theorem readWord_of_sound (hr : (memRead s c 4).2.reason = 0) (p : Space) (x : Nat) (f : State → Nat → State) :
    readWord s t p x c f = f s (leNat (memRead s c 4).2.bytes) := by
  rw [readWord, if_neg (not_not.2 hr), memRead_of_reason_zero hr]

theorem readWord_of_poison (hr : (memRead s c 4).2.reason ≠ 0) (p : Space) (x : Nat) (f : State → Nat → State) :
    readWord s t p x c f = raiseTrap (memRead s c 4).1 t (poisonTrap p false (memRead s c 4).2.reason x) := if_pos hr

theorem exec_ldwFt_of (h : Running s t th) (hw : s.wordWaits = []) (hp : TagPlaced s t th a sp o c true false) (ho : ¬postedOn th c 4 = true) :
    exec (.ldwFt d a sp o) s = .next (
      if wordFull s (wordKey th.masks c) = false then resulted s t th d 0
      else if tagRoom s (wordKey th.masks c) = false then waiting s t th .retry
      else if (memRead s c 4).2.reason ≠ 0 then
        raiseTrap (memRead s c 4).1 t (poisonTrap (tagSpace sp) false (memRead s c 4).2.reason (tagAddr th a o).toNat)
      else resulted (setEmpty s th.ctx (wordKey th.masks c)) t th d (BitVec.ofNat 64 (2 ^ 32 + leNat (memRead s c 4).2.bytes))) := by
  have hemptied : retireWith (setEmpty s th.ctx (wordKey th.masks c)) t d (BitVec.ofNat 64 (2 ^ 32 + leNat (memRead s c 4).2.bytes)) =
      resulted (setEmpty s th.ctx (wordKey th.masks c)) t th d (BitVec.ofNat 64 (2 ^ 32 + leNat (memRead s c 4).2.bytes)) :=
    retireWith_of (by simpa using h.get) d _
  change execLdwFt d a sp o s = _
  rw [execLdwFt, onWord_of h hp ho]
  simp only [Bool.not_eq_true', retireWith_of h.get, waitAt_of h.get]
  split_ifs with hf hroom hr
  · rfl
  · rfl
  · rw [readWord_of_poison hr]
  · rw [readWord_of_sound (not_not.1 hr), hemptied, settleWord_of_nil (by simpa using hw), settleTags_of_nil (by simpa using hw)]

theorem exec_fclr_of (h : Running s t th) (hw : s.wordWaits = []) (hp : TagPlaced s t th a sp o c true false) (ho : ¬postedOn th c 4 = true) :
    exec (.fclr a sp o) s = .next (
      if wordFull s (wordKey th.masks c) = true ∧ tagRoom s (wordKey th.masks c) = false then waiting s t th .retry
      else completed (setEmpty s th.ctx (wordKey th.masks c)) t th) := by
  change execFclr a sp o s = _
  rw [execFclr, onWord_of h hp ho]
  simp only [Bool.and_eq_true, Bool.not_eq_true', waitAt_of h.get]
  rw [retire_of (th := th) (by simpa using h.get), settleWord_of_nil (by simpa using hw), settleTags_of_nil (by simpa using hw)]

theorem exec_stwEt_of_posted (h : Running s t th) (hp : TagPlaced s t th a sp o c true true) (ho : postedOn th c 4 = true) :
    execStwEt d a b sp o s = .next (waiting s t th .retry) := onWord_of_posted h hp ho _

theorem exec_stwEt_of (h : Running s t th) (hw : s.wordWaits = []) (hp : TagPlaced s t th a sp o c true true) (ho : ¬postedOn th c 4 = true) :
    exec (.stwEt d a b sp o) s = .next (
      if wordFull s (wordKey th.masks c) = true then resulted s t th b 0
      else resulted (setFull (memStore s c (leBytes ((regGet th d).toNat % 2 ^ 32) 4) false) (wordKey th.masks c)) t th b 1) := by
  change execStwEt d a b sp o s = _
  rw [execStwEt, onWord_of h hp ho]
  dsimp only
  rw [retireWith_of h.get, retireWith_of (th := th) (by simpa using h.get), settleWord_of_nil (by simpa using hw), settleTags_of_nil (by simpa using hw)]

theorem exec_ldwQ_of (h : Running s t th) (hp : TagPlaced s t th a sp o c false false) (ho : ¬postedOn th c 4 = true) :
    exec (.ldwQ d a sp o) s = .next (
      if (memRead s c 4).2.reason ≠ 0 then
        raiseTrap (memRead s c 4).1 t (poisonTrap (tagSpace sp) false (memRead s c 4).2.reason (tagAddr th a o).toNat)
      else resulted s t th d (BitVec.ofNat 64 ((if wordFull s (wordKey th.masks c) then 2 ^ 32 else 0) + leNat (memRead s c 4).2.bytes))) := by
  change execLdwQ d a sp o s = _
  rw [execLdwQ, onWord_of h hp ho]
  by_cases hr : (memRead s c 4).2.reason ≠ 0
  · rw [readWord_of_poison hr, if_pos hr]
  · rw [readWord_of_sound (not_not.1 hr), retireWith_of h.get, if_neg hr]

end

/-- Settles O28: the words, and each form by its word's state, its poison and the room of the tag table. -/
theorem fullEmptyForms : Obligations.FullEmptyForms := by
  unfold Obligations.FullEmptyForms
  intro s t th d a b sp o c h hw p x word k r v parked emptied filled trap there own
  have hspace : tagSpace sp = p := tagSpace_eq sp
  have hplaced (w store : Bool) (hp : there w store) : TagPlaced s t th a sp o c w store := by
    rw [TagPlaced, hspace]; exact hp
  obtain ⟨hd0, hd1, hd2, hd3, hd4, hd5, hd6⟩ := decodeControl_tagWords d a b sp o
  refine ⟨hd0, hd1, hd2, hd3, hd4, hd5, hd6, ?posted, ?loads, ?postedStores, ?stores, ?query⟩
  case posted =>
    exact fun hp ho => exec_loadForms_of_posted h (hplaced _ _ hp) ho d
  case loads =>
    intro hp ho
    have hq := hplaced _ _ hp
    have hpoison (hr : r.2.reason ≠ 0) : raiseTrap r.1 t (poisonTrap (tagSpace sp) false r.2.reason (tagAddr th a o).toNat) = trap false := by
      rw [hspace]; rfl
    have hparked (op : WordOp) (gd : Nat) : parkedOn s t th (.word k (tagSpace sp) (tagAddr th a o).toNat) k ⟨.thread t gd, op, c⟩ = parked op gd := by
      rw [hspace]; rfl
    have hF : exec (.ldwF d a sp o) s = _ := exec_ldwF_of h hw hq ho
    have hFk : exec (.ldwFk d a sp o) s = _ := exec_ldwFk_of h hw hq ho
    have hFt : exec (.ldwFt d a sp o) s = _ := exec_ldwFt_of h hw hq ho
    have hclr : exec (.fclr a sp o) s = _ := exec_fclr_of h hw hq ho
    refine ⟨fun hf hr => ⟨fun hroom => ⟨?_, ?_⟩, fun hroom => ⟨?_, ?_⟩, ?_⟩, fun hf hr hroom => ?_, fun hf hr hin hv => ⟨?_, ?_⟩,
      fun hf => ⟨?_, ?_, ?_⟩, fun hor => ?_, fun hf hroom => ?_⟩
    · rw [hF, settle_takeFull hw hf hr hroom]
    · rw [hFt, if_neg (by simp [k, hf]), if_neg (by simp [k, hroom]), if_neg (not_not.2 hr)]
    · rw [hF, settle_load_stays (.inr ⟨rfl, hroom, hr⟩) (.inl rfl), hparked]
    · rw [hFt, if_neg (by simp [k, hf]), if_pos hroom]
    · rw [hFk, settle_keepFull hw hf hr]
    · rw [hFt, if_neg (by simp [k, hf]), if_neg (by simp [k, hroom]), if_pos hr, hpoison hr]
    · rw [hF, settle_of_poisoned (.inl rfl) hf hr hin hv hw h.get, hpoison hr]
    · rw [hFk, settle_of_poisoned (.inr rfl) hf hr hin hv hw h.get, hpoison hr]
    · rw [hF, settle_load_stays (.inl hf) (.inl rfl), hparked]
    · rw [hFk, settle_load_stays (.inl hf) (.inr rfl), hparked]
    · rw [hFt, if_pos hf]
    · rw [hclr, if_neg]
      rintro ⟨hf, hroom⟩
      rcases hor with h' | h' <;> simp_all [k]
    · rw [hclr, if_pos ⟨hf, hroom⟩]
  case postedStores => exact fun hp ho => ⟨waitForm_of_posted h (hplaced _ _ hp) ho _ _, exec_stwEt_of_posted h (hplaced _ _ hp) ho⟩
  case stores =>
    intro hp ho
    have hq := hplaced _ _ hp
    have hE : exec (.stwE d a sp o) s = _ := exec_stwE_of h hw hq ho
    have hEt : exec (.stwEt d a b sp o) s = _ := exec_stwEt_of h hw hq ho
    refine ⟨fun hf => ⟨?_, ?_⟩, fun hf => ⟨?_, ?_⟩⟩
    · rw [hE, settle_fillEmpty hw hf]
      simp [filled, k, BitVec.extractLsb'_toNat]
    · rw [hEt, if_neg (by simp [k, hf])]
    · rw [hE, settle_store_stays hf, hspace]; rfl
    · rw [hEt, if_pos hf]
  case query =>
    intro hp ho
    have hQ : exec (.ldwQ d a sp o) s = _ := exec_ldwQ_of h (hplaced _ _ hp) ho
    refine ⟨fun hr => ?_, fun hr => ?_⟩
    · rw [hQ, if_neg (not_not.2 hr)]
    · rw [hQ, if_pos hr, hspace]; rfl

end Sys2Proof.Machine

/-! PROOFS. Host commands: what the command at the head of a queue comes to. -/

namespace Sys2Proof.Machine

/-! The head of a queue (R364 to R366). -/

/-- The machine after its rule has answered the command at the head of queue `q`. -/
def hostEnded (q : Nat) (c : HostCmd) : State × HostEnd → State
  | (s, .reply status x body) => finishCmd s q c status x body
  | (s, .wait stage note) => putQueue s q { queueAt s q with cmds := { c with stage := stage, note := note } :: (queueAt s q).cmds.tail }

/-- Without a command of its operation at the head, a host instruction leaves the machine as it is. -/
theorem onHost_of_no_head {s : State} {q op : Nat} (h : ¬∃ c, HeadCommand s q op c) (k : CmdKind) (g : State → HostCmd → State × HostEnd) :
    onHost q op k s g = .next s := by
  unfold onHost
  cases hq : (queueAt s q).cmds with
  | nil => rfl
  | cons c cs =>
    have hc : c.op ≠ op ∨ badCmd c = true := by
      by_contra hn
      rw [not_or, not_not, Bool.not_eq_true] at hn
      exact h ⟨c, by rw [hq]; rfl, hn.1, hn.2⟩
    exact congrArg _ (if_pos hc)

/-- The first step of a command whose header is good: what its queue refuses, or its own rule. -/
theorem onHost_of_head {s : State} {q op : Nat} {c : HostCmd} (h : HeadCommand s q op c) (k : CmdKind) (g : State → HostCmd → State × HostEnd) :
    onHost q op k s g = .next (if refuseStatus s q k c ≠ 0 then finishCmd s q c (refuseStatus s q k c) c.ctx [] else hostEnded q c (g s c)) := by
  obtain ⟨hhead, hop, hgood⟩ := h
  have hc : ¬(c.op ≠ op ∨ badCmd c = true) := by simp [hop, hgood]
  unfold onHost
  cases hq : (queueAt s q).cmds with
  | nil => simp [hq] at hhead
  | cons d cs =>
    obtain rfl : d = c := by simpa [hq] using hhead
    refine congrArg _ ((if_neg hc).trans (if_congr Iff.rfl rfl ?_))
    rcases g s d with ⟨t, _ | _⟩ <;> rfl

theorem onHost_of_refused {s : State} {q op : Nat} {c : HostCmd} {k : CmdKind} (h : HeadCommand s q op c) (hr : refuseStatus s q k c ≠ 0)
    (g : State → HostCmd → State × HostEnd) : onHost q op k s g = .next (finishCmd s q c (refuseStatus s q k c) c.ctx []) := by
  rw [onHost_of_head h, if_pos hr]

theorem onHost_of_taken {s : State} {q op : Nat} {c : HostCmd} {k : CmdKind} (h : HeadCommand s q op c) (hr : refuseStatus s q k c = 0)
    (g : State → HostCmd → State × HostEnd) : onHost q op k s g = .next (hostEnded q c (g s c)) := by
  rw [onHost_of_head h, if_neg (not_not.2 hr)]

theorem exec_of_taken {i : Instr} {o : Out} {s : State} {q op : Nat} {c : HostCmd} {k : CmdKind} {g : State → HostCmd → State × HostEnd}
    (hi : exec i s = o) (ho : o = onHost q op k s g) (h : HeadCommand s q op c) (hr : refuseStatus s q k c = 0) :
    exec i s = .next (hostEnded q c (g s c)) :=
  hi.trans (ho.trans (onHost_of_taken h hr g))

/-- A host instruction whose meaning is `onHost` waits for its command, and is refused as the queue rules say. -/
theorem queueRules {i : Instr} {o : Out} {s : State} {q op : Nat} {k : CmdKind} {g : State → HostCmd → State × HostEnd} (hi : exec i s = o)
    (ho : o = onHost q op k s g) :
    ((¬∃ c, HeadCommand s q op c) → exec i s = .next s) ∧
    (∀ c, HeadCommand s q op c → refuseStatus s q k c ≠ 0 → Completes i s s q c (refuseStatus s q k c) []) :=
  ⟨fun h => hi.trans (ho.trans (onHost_of_no_head h k g)), fun _ h hr => hi.trans (ho.trans (onHost_of_refused h hr g))⟩

/-! The checks of a command in their order (R366). -/

/-- Each of the model's checks gives the status of the statement's, under its condition. -/
def Agree (l : List (Nat × Bool)) (L : List (Nat × Prop)) : Prop := List.Forall₂ (fun a b => a.1 = b.1 ∧ a.1 ≠ 0 ∧ (a.2 = true ↔ b.2)) l L

theorem withChecks_cons_of_holds {n : Nat} (hn : n ≠ 0) (s : State) (c : HostCmd) (l : List (Nat × Bool)) (r : State × HostEnd) :
    withChecks s c ((n, true) :: l) r = refuse s c n := by
  simp [withChecks, statusOf, hn]

theorem withChecks_cons_of_fails (n : Nat) (s : State) (c : HostCmd) (l : List (Nat × Bool)) (r : State × HostEnd) :
    withChecks s c ((n, false) :: l) r = withChecks s c l r :=
  rfl

/-- A command that runs the model's checks is checked as the statement says. -/
theorem checked_of_withChecks {i : Instr} {s : State} {q : Nat} {c : HostCmd} {r : State × HostEnd} {ok : Prop} {l : List (Nat × Bool)}
    {L : List (Nat × Prop)} (hi : exec i s = .next (hostEnded q c (withChecks s c l r))) (hl : Agree l L)
    (hok : exec i s = .next (hostEnded q c r) → ok) : Checked i s q c L ok := by
  induction hl with
  | nil => exact hok hi
  | @cons a b _ _ hab _ ih =>
    obtain ⟨n, v⟩ := a
    obtain ⟨m, p⟩ := b
    obtain ⟨rfl, hn, hp⟩ := hab
    refine ⟨fun h => ?_, fun h => ih ?_⟩
    · obtain rfl : v = true := hp.2 h
      exact hi.trans (by rw [withChecks_cons_of_holds hn]; rfl)
    · obtain rfl : v = false := by rw [← Bool.not_eq_true]; exact fun hv => h (hp.1 hv)
      exact hi.trans (by rw [withChecks_cons_of_fails])

/-- The `n` reserved bytes at `o` of a body are zero. -/
def Zeros (b : List Byte) (o n : Nat) : Prop := ∀ v ∈ (b.drop o).take n, v = 0

@[simp] theorem zeroBytes_eq_false (b : List Byte) (o n : Nat) : zeroBytes b o n = false ↔ ¬Zeros b o n := by
  simp [zeroBytes, Zeros]

/-- A command whose rule, once its checks have passed, is `done`. -/
theorem does_of_withChecks {i : Instr} {s s' : State} {q : Nat} {c : HostCmd} {body : List Byte} {l : List (Nat × Bool)} {L : List (Nat × Prop)}
    (hi : exec i s = .next (hostEnded q c (withChecks s c l (done s' c body)))) (hl : Agree l L) :
    Checked i s q c L (Completes i s s' q c 0 body) :=
  checked_of_withChecks hi hl id

/-! Commands on contexts (R339, R346 to R350, R360, R368, R369, R425). -/


/-- A number below 2^64 read as a signed one. -/
theorem signed64_eq (v : Nat) : signed64 v = (BitVec.ofNat 64 v).toInt := by
  rw [signed64, signedOf, BitVec.toInt_eq_toNat_cond, BitVec.toNat_ofNat]
  split <;> split <;> omega

theorem ofNat_emod (v : Int) : BitVec.ofNat 64 (v % 2 ^ 64).toNat = BitVec.ofInt 64 v := by
  apply BitVec.eq_of_toNat_eq
  rw [BitVec.toNat_ofNat, BitVec.toNat_ofInt]
  omega

/-- A pre-emption that begins leaves a running context stopping. -/
theorem beginPreempt_not_suspended {s : State} {x : Nat} {y z : Ctx} (hy : ctxOf s x = some y) (hp : y.phase = .running)
    (hz : ctxOf (beginPreempt s x) x = some z) : z.phase ≠ .suspended := by
  have hasked : ∃ w, ctxOf (withdrawAsks s x) x = some w ∧ w.phase = .running :=
    ⟨_, (tblGet_tblMod ..).trans (congrArg (Option.map _) hy), hp⟩
  have hstop : ∃ f, ctxOf (beginPreempt s x) x = (ctxOf (withdrawAsks s x) x).map f ∧ ∀ c, c.phase = .running → (f c).phase = .stopping := by
    rw [beginPreempt, offerPlaces_eq]
    exact ⟨_, tblGet_tblMod .., fun c hc => by simp [hc]⟩
  obtain ⟨w, hw, hrun⟩ := hasked
  obtain ⟨f, hf, hphase⟩ := hstop
  obtain rfl : f w = z := by simpa [hf, hw] using hz
  simp [hphase w hrun]

theorem exec_hostCtxnew {s : State} {q : Nat} {c : HostCmd} (h : HeadCommand s q 0x10 c) (hr : refuseStatus s q .free c = 0) :
    let b := c.body
    let fresh := newCtx s.now b ((List.range 32).map (fun k => Config.randomByte (s.free + k)))
    Checked (.hostCtxnew q) s q c [
      (1, b.length ≠ 256), (2, q / 8 ≠ 0 ∧ tblGet (q / 8) s.binds ≠ some (field b 105 1)),
      (1, 2 ≤ field b 104 1 ∨ ¬Zeros b 106 6 ∨ ¬Zeros b 168 24),
      (4, 19 < field b 105 1 ∨ ¬∃ p, tblGet (field b 105 1) s.parts = some p ∧ descPlaced p fresh = true),
      (7, tblFree 0 256 s.ctxs = none ∨ residentFits s fresh = false)]
      (∀ n, tblFree 0 256 s.ctxs = some n →
        exec (.hostCtxnew q) s = .next (finishCmd { s with free := s.free + 32, ctxs := tblSet n fresh s.ctxs } q c 0 n [])) := by
  have hi := exec_of_taken (i := .hostCtxnew q) (o := execHostCtxnew q s) rfl rfl h hr
  refine checked_of_withChecks hi ?_ fun hi n hn => hi.trans (by rw [hn]; rfl)
  have hpart : (newCtx s.now c.body []).part = field c.body 105 1 := rfl
  have hplace (p : Part) (key : List Byte) : descPlaced p (newCtx s.now c.body key) = descPlaced p (newCtx s.now c.body []) := rfl
  have hfits (key : List Byte) : residentFits s (newCtx s.now c.body key) = residentFits s (newCtx s.now c.body []) := rfl
  simp [Agree, or_assoc, boundPart, hpart, hplace, hfits, Option.any_eq_false]

theorem exec_hostTimestat {s : State} {q : Nat} {c : HostCmd} (h : HeadCommand s q 0x29 c) (hr : refuseStatus s q .ofAny c = 0) :
    Checked (.hostTimestat q) s q c [(1, c.body ≠ [])]
      (Completes (.hostTimestat q) s s q c 0 (timeBytes s.timeStatus (classLevel s c.ctx 5) (policyGran s c.ctx).1)) :=
  does_of_withChecks (exec_of_taken (o := execHostTimestat q s) rfl rfl h hr) (by simp [Agree])

section

variable {s : State} {q : Nat} {c : HostCmd} {x : Ctx} (hx : ctxOf s c.ctx = some x) (hr : refuseStatus s q .ofCtx c = 0)
include hx hr

theorem exec_hostCtxdel (h : HeadCommand s q 0x11 c) : Checked (.hostCtxdel q) s q c
    [(1, c.body ≠ []), (5, (∃ l ∈ s.launches, l.2.ctx = c.ctx) ∧ x.phase ≠ .suspended ∧ x.phase ≠ .lost)]
    ((ctxGone s c.ctx = true → Completes (.hostCtxdel q) s (dropCtx s c.ctx) q c 0 []) ∧
      (ctxGone s c.ctx = false → GoesOn (.hostCtxdel q) s s q c 0 0)) := by
  refine checked_of_withChecks (exec_of_taken (o := execHostCtxdel q s) rfl rfl h hr) (by simp [Agree, hx]) fun hi =>
    ⟨fun hg => hi.trans ?_, fun hg => hi.trans ?_⟩
  · rw [if_pos hg]; rfl
  · rw [hg]; rfl

/-- What `SUSPEND` comes to once the halts are released and the pre-emption has begun. -/
def suspendEnd (s : State) (c : HostCmd) : State × HostEnd :=
  if (ctxOf s c.ctx).any (fun x => decide (x.phase = .suspended)) then done s c [] else (s, .wait 1 (((ctxOf s c.ctx).map (·.seals)).getD 0))

omit hx hr in
theorem suspendEnd_of_waits (h : ∀ y, ctxOf s c.ctx = some y → y.phase ≠ .suspended) :
    suspendEnd s c = (s, .wait 1 (((ctxOf s c.ctx).map (·.seals)).getD 0)) :=
  if_neg (by simpa [Option.any_eq_true] using h)

/-- R348, R369: `SUSPEND` releases what holds the context, has it held for the host, and starts its pre-emption. -/
theorem exec_hostSuspend (h : HeadCommand s q 0x12 c) :
    let freed := (haltKeys s c.ctx ++ breakKeys s c.ctx false).foldl (fun s k => releaseHold s c.ctx k) s
    let kept := modCtx freed c.ctx (fun x => { x with hostHold := true })
    let waits (s' : State) : Prop := GoesOn (.hostSuspend q) s s' q c 1 (((ctxOf s' c.ctx).map (fun y => y.seals)).getD 0)
    let sealed_ := x.phase = .suspended ∨ c.note < x.seals
    Checked (.hostSuspend q) s q c [(1, c.body ≠ []), (5, x.phase = .lost)]
      ((c.stage = 0 → (∀ y, ctxOf kept c.ctx = some y → y.phase = .running → waits (beginPreempt kept c.ctx)) ∧
          (∀ y, ctxOf kept c.ctx = some y → y.phase = .suspended → Completes (.hostSuspend q) s kept q c 0 []) ∧
          (∀ y, ctxOf kept c.ctx = some y → y.phase ≠ .running → y.phase ≠ .suspended → waits kept)) ∧
        (c.stage ≠ 0 → sealed_ → Completes (.hostSuspend q) s s q c 0 []) ∧
        (c.stage ≠ 0 → ¬sealed_ → GoesOn (.hostSuspend q) s s q c 1 c.note)) := by
  intro freed kept waits sealed_
  refine checked_of_withChecks (exec_of_taken (o := execHostSuspend q s) rfl rfl h hr) (by simp [Agree, hx]) fun hi =>
    ⟨fun hst => ?_, fun hst hseal => hi.trans ?_, fun hst hseal => hi.trans ?_⟩
  · rw [if_pos hst] at hi
    have hi : exec (.hostSuspend q) s = .next (hostEnded q c (suspendEnd
      (if (ctxOf kept c.ctx).any (fun x => decide (x.phase = .running)) then beginPreempt kept c.ctx else kept) c)) := hi
    refine ⟨fun y hy hrun => hi.trans ?_, fun y hy hsus => hi.trans ?_, fun y hy hrun hsus => hi.trans ?_⟩
    · rw [if_pos (by simp [hy, hrun]), suspendEnd_of_waits fun z hz => beginPreempt_not_suspended hy hrun hz]; rfl
    · rw [if_neg (by simp [hy, hsus]), suspendEnd, if_pos (by simp [hy, hsus])]; rfl
    · rw [if_neg (by simp [hy, hrun]), suspendEnd_of_waits (by simp [hy, hsus])]; rfl
  · rw [if_neg hst, hx, if_pos (by simpa using hseal)]; rfl
  · rw [if_neg hst, hx, if_neg (by simpa [sealed_] using hseal)]; rfl

omit hx in
/-- R360: a quota command sets the context's quota to `g` of its old quota and the body's number, as a signed number of 64 bits. -/
theorem exec_quotaCmd {i : Instr} {op : Nat} {g : Int → Int → Int} (hi : exec i s = quotaCmd q op s g) (h : HeadCommand s q op c) :
    Checked i s q c [(1, c.body.length ≠ 8)] (Completes i s (modCtx s c.ctx (fun x =>
      { x with quota := (BitVec.ofInt 64 (g x.quota (BitVec.ofNat 64 (field c.body 0 8)).toInt)).toInt })) q c 0 []) := by
  have hi := exec_of_taken hi rfl h hr
  simp only [signed64_eq, ofNat_emod] at hi
  exact does_of_withChecks hi (by simp [Agree])

theorem exec_hostResume (h : HeadCommand s q 0x13 c) : Checked (.hostResume q) s q c [(1, c.body ≠ []), (5, x.phase = .lost)]
    (Completes (.hostResume q) s (modCtx s c.ctx (fun x => { x with hostHold := false })) q c 0 []) :=
  does_of_withChecks (exec_of_taken (o := execHostResume q s) rfl rfl h hr) (by simp [Agree, hx])

theorem exec_hostPolicy (h : HeadCommand s q 0x16 c) :
    let p := policyOf c.body
    let took := writeTrace (modCtx s c.ctx (fun x => { x with policy := some p, lastSerial := p.serial })) c.ctx
      ⟨6, 0, 0xFFFFFFFF, 0xFFFFFFFF, 0, noIdx, 0, 0, 0, p.serial⟩
    Checked (.hostPolicy q) s q c [(1, policyShape c.body = false), (6, policySigned x c.body = false), (5, policyTimely x s.now c.body = false)]
      (Completes (.hostPolicy q) s (if classLevel took c.ctx 3 < classLevel s c.ctx 3
        then releaseHolds took c.ctx (haltKeys took c.ctx ++ breakKeys took c.ctx true) else took) q c 0 []) := by
  have hi := exec_of_taken (i := .hostPolicy q) (o := execHostPolicy q s) rfl rfl h hr
  simp only [hx] at hi
  exact does_of_withChecks hi (by simp [Agree])

theorem exec_hostCtrrd (h : HeadCommand s q 0x28 c) : Checked (.hostCtrrd q) s q c [(1, c.body ≠ [])]
    (Completes (.hostCtrrd q) s s q c 0 (counterBytes x (classLevel s c.ctx 0) (policyGran s c.ctx).2.1 s.levels)) := by
  have hi := exec_of_taken (i := .hostCtrrd q) (o := execHostCtrrd q s) rfl rfl h hr
  simp only [hx] at hi
  exact does_of_withChecks hi (by simp [Agree])

theorem exec_hostTraceset (h : HeadCommand s q 0x2A c) :
    let b := c.body
    let r := hbmRead s x.masks (x.trace + 24) 24
    let ring : Ring :=
      { base := field b 0 8, lgsize := field b 8 1, enable := field b 9 1, speriod := field b 10 1, thresh := field b 16 4
        head := match x.ring with
          | some g => g.head
          | none => leNat (r.2.bytes.take 8)
        lost := match x.ring with
          | some g => g.lost
          | none => leNat ((r.2.bytes.drop 16).take 8) }
    Checked (.hostTraceset q) s q c [(1, b.length ≠ 24 ∨ ¬Zeros b 11 5 ∨ ¬Zeros b 20 4), (4, traceOk s c.ctx b = false)]
      (Completes (.hostTraceset q) s (modCtx (hbmWrite r.1 x.masks x.trace b false) c.ctx (fun x => { x with ring := some ring })) q c 0 []) := by
  have hi := exec_of_taken (i := .hostTraceset q) (o := execHostTraceset q s) rfl rfl h hr
  cases hg : x.ring <;> simp only [hx, hg] at hi <;> exact does_of_withChecks hi (by simp [Agree, or_assoc])

/-! Debug commands (R346 to R349, R351): what refuses each of them follows its own shape. -/

theorem exec_hostHalt (h : HeadCommand s q 0x20 c) :
    let b := c.body
    let node := if field b 0 1 = 1 then field b 8 4 % 1024 else field b 8 4
    let halt : Halt := ⟨field b 0 1, field b 1 1, field b 4 4, node, field b 12 1, 0⟩
    Checked (.hostHalt q) s q c
      [(1, b.length ≠ 24 ∨ 2 < field b 0 1 ∨ 1 < field b 1 1 ∨ (field b 0 1 = 0 ∧ field b 1 1 ≠ 0) ∨ ¬Zeros b 2 2 ∨ ¬Zeros b 13 11),
        (2, classLevel s c.ctx 3 = 0), (5, x.phase = .suspended ∨ x.phase = .lost),
        (4, haltNamed s c.ctx halt = false), (7, freeSlot s c.ctx = none)]
      (∀ k, freeSlot s c.ctx = some k → Completes (.hostHalt q) s (placeHalt s c.ctx k halt) q c 0 [BitVec.ofNat 8 k]) := by
  refine checked_of_withChecks (exec_of_taken (o := execHostHalt q s) rfl rfl h hr) ?_ fun hi k hk => hi.trans (by rw [hk]; rfl)
  simp [Agree, hx, debugRefused, or_assoc]

theorem exec_hostRelease (h : HeadCommand s q 0x21 c) :
    let b := c.body
    let named := namedHolds s c.ctx (field b 0 1) (field b 1 1)
    Checked (.hostRelease q) s q c
      [(1, b.length ≠ 4 ∨ 2 < field b 0 1 ∨ ¬Zeros b 2 2), (2, classLevel s c.ctx 3 = 0), (5, x.phase = .suspended ∨ x.phase = .lost),
        (4, named = none)]
      (∀ ks, named = some ks → Completes (.hostRelease q) s (releaseHolds s c.ctx ks) q c 0 []) := by
  refine checked_of_withChecks (exec_of_taken (o := execHostRelease q s) rfl rfl h hr) ?_ fun hi ks hks => hi.trans ?_
  · simp [Agree, hx, debugRefused, or_assoc]
  · exact congrArg (fun o => Host.Outcome.next (finishCmd (releaseHolds s c.ctx (Option.getD o [])) q c 0 c.ctx [])) hks

theorem exec_hostBreak (h : HeadCommand s q 0x22 c) :
    let b := c.body
    let p : Breakpoint := ⟨field b 0 4, field b 4 4, field b 8 1, field b 9 1, field b 12 4, field b 16 4, field b 20 4, false, 0⟩
    let k := field b 10 1
    let old := releaseHolds s c.ctx (if (tblGet (c.ctx * 8 + k) s.breaks).isSome then [16 + k] else [])
    Checked (.hostBreak q) s q c
      [(1, b.length ≠ 32 ∨ 32 ≤ field b 9 1 ∨ ¬Zeros b 11 1 ∨ ¬Zeros b 24 8), (2, classLevel s c.ctx 3 = 0),
        (5, x.phase = .suspended ∨ x.phase = .lost),
        (4, 7 < k ∨ ¬∃ f a, namedForm s c.ctx p.form = some f ∧ namedArc f.2 p.node p.port = some a)]
      (Completes (.hostBreak q) s { old with breaks := tblSet (c.ctx * 8 + k) p old.breaks } q c 0 []) := by
  refine does_of_withChecks (exec_of_taken (o := execHostBreak q s) rfl rfl h hr) ?_
  simp [Agree, hx, debugRefused, or_assoc]
  cases namedForm s c.ctx (field c.body 0 4) <;> simp [Option.eq_none_iff_forall_ne_some, Prod.ext_iff]

theorem exec_hostDump (h : HeadCommand s q 0x23 c) :
    let b := c.body
    let d := dumpOf s c.ctx (field b 0 1) (field b 4 4) (if field b 0 1 = 1 then field b 8 4 % 1024 else field b 8 4) (field b 12 1)
    Checked (.hostDump q) s q c
      [(1, b.length ≠ 16 ∨ 2 < field b 0 1 ∨ ¬Zeros b 1 3 ∨ ¬Zeros b 13 3), (2, classLevel s c.ctx 3 = 0),
        (5, x.phase = .suspended ∨ x.phase = .lost), (2, classLevel s c.ctx 3 ≠ 2), (4, d = none), (5, ∃ bytes, d = some (false, bytes))]
      (∀ bytes, d = some (true, bytes) → Completes (.hostDump q) s s q c 0 bytes) := by
  intro b d
  refine checked_of_withChecks (exec_of_taken (o := execHostDump q s) rfl rfl h hr) (?_ : Agree ([_] ++ debugRefused s c.ctx ++
    [(2, decide (classLevel s c.ctx 3 ≠ 2)), (4, d.isNone), (5, d.any (fun d => !d.1))]) _) fun hi bytes hd => ?_
  · clear_value d
    rcases d with _ | ⟨_ | _, _⟩ <;> simp [Agree, hx, debugRefused, or_assoc, b]
  · have hi : exec (.hostDump q) s = .next (finishCmd s q c 0 c.ctx ((d.map (·.2)).getD [])) := hi
    exact hi.trans (by rw [hd]; rfl)

theorem exec_hostHstat (h : HeadCommand s q 0x24 c) :
    let b := c.body
    Checked (.hostHstat q) s q c
      [(1, b.length ≠ 4 ∨ 1 < field b 0 1 ∨ ¬Zeros b 2 2), (2, classLevel s c.ctx 3 = 0), (5, x.phase = .suspended ∨ x.phase = .lost),
        (4, (field b 0 1 = 0 ∧ 16 ≤ field b 1 1) ∨ (field b 0 1 ≠ 0 ∧ 8 ≤ field b 1 1))]
      (Completes (.hostHstat q) s s q c 0 (if field b 0 1 = 0 then haltStatus s c.ctx (field b 1 1) else breakStatus s c.ctx (field b 1 1))) := by
  refine does_of_withChecks (exec_of_taken (o := execHostHstat q s) rfl rfl h hr) ?_
  simp [Agree, hx, debugRefused, or_assoc]
  split <;> simp_all

end

/-- Settles O53: each command is its own row of checks, and `checked_of_withChecks` reads the model's list of them as the statement's. -/
theorem hostContexts : Obligations.HostContexts := by
  unfold Obligations.HostContexts
  refine ⟨fun s q i op k hi => ?_, fun s q op c h => ⟨?_, ?_, fun x hx hr => ⟨?_, ?_, ?_, ⟨?_, ?_⟩, ?_, ?_, ?_, ?_, ?_, ?_, ?_, ?_⟩⟩⟩
  · simp only [List.mem_cons, Prod.mk.injEq, List.not_mem_nil, or_false] at hi
    rcases hi with ⟨rfl, rfl, rfl⟩ | ⟨rfl, rfl, rfl⟩ | ⟨rfl, rfl, rfl⟩ | ⟨rfl, rfl, rfl⟩ | ⟨rfl, rfl, rfl⟩ | ⟨rfl, rfl, rfl⟩ | ⟨rfl, rfl, rfl⟩ |
      ⟨rfl, rfl, rfl⟩ | ⟨rfl, rfl, rfl⟩ | ⟨rfl, rfl, rfl⟩ | ⟨rfl, rfl, rfl⟩ | ⟨rfl, rfl, rfl⟩ | ⟨rfl, rfl, rfl⟩ | ⟨rfl, rfl, rfl⟩ | ⟨rfl, rfl, rfl⟩
    exacts [queueRules (o := execHostCtxnew q s) rfl rfl, queueRules (o := execHostCtxdel q s) rfl rfl, queueRules (o := execHostSuspend q s) rfl rfl,
      queueRules (o := execHostResume q s) rfl rfl, queueRules (o := quotaCmd q 0x14 s fun _ v => v) rfl rfl,
      queueRules (o := quotaCmd q 0x15 s fun a v => a + v) rfl rfl, queueRules (o := execHostPolicy q s) rfl rfl,
      queueRules (o := execHostHalt q s) rfl rfl, queueRules (o := execHostRelease q s) rfl rfl, queueRules (o := execHostBreak q s) rfl rfl,
      queueRules (o := execHostDump q s) rfl rfl, queueRules (o := execHostHstat q s) rfl rfl, queueRules (o := execHostCtrrd q s) rfl rfl,
      queueRules (o := execHostTimestat q s) rfl rfl, queueRules (o := execHostTraceset q s) rfl rfl]
  · rintro rfl hr
    exact exec_hostCtxnew h hr
  · rintro rfl hr
    exact exec_hostTimestat h hr
  · rintro rfl
    exact exec_hostCtxdel hx hr h
  · rintro rfl
    exact exec_hostSuspend hx hr h
  · rintro rfl
    exact exec_hostResume hx hr h
  · rintro rfl
    have hset := exec_quotaCmd hr (i := .hostQset q) (g := fun _ v => v) rfl h
    simp only [BitVec.ofInt_toInt] at hset
    exact hset
  · rintro rfl
    exact exec_quotaCmd hr (g := fun a v => a + v) rfl h
  · rintro rfl
    exact exec_hostPolicy hx hr h
  · rintro rfl
    exact exec_hostCtrrd hx hr h
  · rintro rfl
    exact exec_hostTraceset hx hr h
  · rintro rfl
    exact exec_hostHalt hx hr h
  · rintro rfl
    exact exec_hostRelease hx hr h
  · rintro rfl
    exact exec_hostBreak hx hr h
  · rintro rfl
    exact exec_hostDump hx hr h
  · rintro rfl
    exact exec_hostHstat hx hr h

end Sys2Proof.Machine

/-! PROOFS. Management commands, and the device that comes up. -/

namespace Sys2Proof.Machine

section

variable {s : State} {q : Nat} {c : HostCmd} (hr : refuseStatus s q .mgmt c = 0)
include hr

/-! Management commands (R270, R357, R361, R365, R370, R374, R379, R424). -/

theorem exec_hostPartset (h : HeadCommand s q 0x30 c) {kept : Word} {had : Nat}
    (hkept : ((tblGet (c.ctx % 32) s.parts).map (·.lockMatrix)).getD defaultMatrix = kept)
    (hhad : ((tblGet (c.ctx % 32) s.parts).map (·.clusters)).getD 0 = had) :
    let b := c.body
    let n := c.ctx % 32
    let p := partOfBytes b kept
    let others := (s.parts.filter (fun p => p.1 != n)).map (·.2)
    Checked (.hostPartset q) s q c [
      (1, b.length ≠ 128 ∨ 2 ≤ field b 83 1 ∨ ¬Zeros b 84 44),
      (4, 19 < n ∨ flashPages < field b 72 4 + field b 76 4 ∨ ∃ r ∈ p.rangesList, r.2 ≠ 0 ∧ 384 < r.1 + r.2),
      (5, (∃ x ∈ s.ctxs, x.2.part = n) ∨ (∃ o ∈ others, partsMeet p o = true) ∨ 256 < (others.map (·.bwshare)).sum + field b 82 1)]
      (Completes (.hostPartset q) s (((List.range 64).filter (fun k => p.clusters.testBit k && !had.testBit k)).foldl clearAssigned
        { s with parts := tblSet n p s.parts }) q c 0 []) := by
  subst hkept hhad
  intro b n p others
  have hflags : p.flags = field b 83 1 := rfl
  have hflash : p.fbase + p.fcount = field b 72 4 + field b 76 4 := rfl
  have hshare : p.bwshare = field b 82 1 := rfl
  have hothers : otherParts s n = others := rfl
  refine does_of_withChecks (exec_of_taken (o := execHostPartset q s) rfl rfl h hr) (l := [
    (1, decide (b.length ≠ 128 ∨ 2 ≤ p.flags) || !zeroBytes b 84 44),
    (4, decide (19 < n ∨ flashPages < p.fbase + p.fcount) || p.rangesList.any (fun r => decide (r.2 ≠ 0 ∧ 384 < r.1 + r.2))),
    (5, s.ctxs.any (fun x => x.2.part == n) || (otherParts s n).any (partsMeet p) ||
      decide (256 < ((otherParts s n).map (·.bwshare)).sum + p.bwshare))]) ?_
  rw [hflags, hflash, hshare, hothers]
  clear_value p others
  simp [Agree, or_assoc]

theorem exec_hostLockmat (h : HeadCommand s q 0x31 c) : Checked (.hostLockmat q) s q c
    [(1, c.body.length ≠ 8), (4, tblGet (c.ctx % 32) s.parts = none)]
    (Completes (.hostLockmat q) s
      { s with parts := tblMod (c.ctx % 32) (fun p => { p with lockMatrix := BitVec.ofNat 64 (field c.body 0 8) }) s.parts } q c 0 []) :=
  does_of_withChecks (exec_of_taken (o := execHostLockmat q s) rfl rfl h hr) (by simp [Agree])

theorem exec_hostPeerwin (h : HeadCommand s q 0x32 c) :
    let b := c.body
    Checked (.hostPeerwin q) s q c
      [(1, b.length ≠ 32 ∨ 8 ≤ field b 3 1 ∨ ¬Zeros b 4 4 ∨ ¬Zeros b 24 8), (4, field b 8 8 % 65536 ≠ 0 ∨ field b 16 8 % 65536 ≠ 0)]
      (Completes (.hostPeerwin q) s
        { s with windows := tblSet (c.ctx % 64) ⟨field b 0 1, field b 1 1, field b 2 1, field b 3 1, field b 8 8, field b 16 8⟩ s.windows } q c 0 []) :=
  does_of_withChecks (exec_of_taken (o := execHostPeerwin q s) rfl rfl h hr) (by simp [Agree, or_assoc])

theorem exec_hostFnbind (h : HeadCommand s q 0x33 c) :
    let b := c.body
    Checked (.hostFnbind q) s q c
      [(1, b.length ≠ 2), (4, field b 0 1 = 0 ∨ 95 < field b 0 1 ∨ (field b 1 1 ≠ 255 ∧ tblGet (field b 1 1) s.parts = none))]
      (Completes (.hostFnbind q) s
        { s with binds := if field b 1 1 = 255 then tblDel (field b 0 1) s.binds else tblSet (field b 0 1) (field b 1 1) s.binds } q c 0 []) :=
  does_of_withChecks (exec_of_taken (o := execHostFnbind q s) rfl rfl h hr) (by simp [Agree, or_assoc])

omit hr in
theorem changesAfter_eq (p : Power) (k budget group : Nat) : changesAfter p k budget group =
    let new := (budget, group)
    let last := ((p.changes.getLast?).map (·.2)).getD (p.budget, p.groupNow)
    if poolNow p new < poolNow p last ∨ budget < last.1 then p.changes ++ [(k + 2, new)]
    else [(if poolNow p new < poolNow p (p.budget, p.groupNow) then k + 2 else k + 1, new)] :=
  if_congr (by rw [Bool.or_eq_true, decide_eq_true_eq, decide_eq_true_eq]) rfl rfl

theorem exec_hostPower_later (h : HeadCommand s q 0x34 c) (hst : c.stage = 1) :
    (c.note ≤ s.power.lastPeriod → Completes (.hostPower q) s s q c 0 (powerBytes s)) ∧
    (s.power.lastPeriod < c.note → GoesOn (.hostPower q) s s q c 1 c.note) := by
  have hi := exec_of_taken (i := .hostPower q) (o := execHostPower q s) rfl rfl h hr
  rw [if_pos hst] at hi
  refine ⟨fun hle => hi.trans ?_, fun hlt => hi.trans ?_⟩
  · rw [if_pos hle]; rfl
  · rw [if_neg (Nat.not_le.2 hlt)]; rfl

/-- R357: a budget that falls takes effect two boundaries on, a rise at once. -/
theorem exec_hostPower_first (h : HeadCommand s q 0x34 c) (hst : c.stage ≠ 1) :
    let b := c.body
    let k := s.now / 10000
    let due := modPower s (fun p => { p with
      pbudget := field b 0 4, changes := changesAfter p k (field b 0 4) (field b 12 2), limit := field b 8 4, group := field b 12 2
      floor := field b 14 2 })
    Checked (.hostPower q) s q c [(1, b.length ≠ 32), (4, 1150 < field b 0 4)]
      ((field b 0 4 < s.power.pbudget → GoesOn (.hostPower q) s due q c 1 (k + 2)) ∧
       (s.power.pbudget ≤ field b 0 4 → Completes (.hostPower q) s due q c 0 (powerBytes due))) := by
  intro b k due
  have hi := exec_of_taken (i := .hostPower q) (o := execHostPower q s) rfl rfl h hr
  rw [if_neg hst] at hi
  refine checked_of_withChecks hi (by simp [Agree, b]) fun hi => ?_
  have hi : exec (.hostPower q) s = .next (hostEnded q c
      (if decide (field b 0 4 < s.power.pbudget) then (due, .wait 1 (k + 2)) else done due c (powerBytes due))) := hi
  refine ⟨fun hlt => hi.trans ?_, fun hle => hi.trans ?_⟩
  · rw [if_pos (decide_eq_true hlt)]; rfl
  · rw [if_neg (by simpa using hle)]; rfl

end

/-- R379: what `FWLOAD` does before the device comes up. -/
def loadImage (s : State) (c : HostCmd) : State × HostEnd :=
  withChecks s c [(5, decide (s.fw.phase ≠ .recovery)), (6, !imageOk s.fw.minSvn c.body)]
    (done { s with
      cells := cellsWrite s.cells firmwareCell c.body
      flashBad := setDelRange flashPages (flashPages + (c.body.length + 65535) / 65536) s.flashBad } c [])

/-- The device comes up after an image that has passed. -/
theorem exec_hostFwload_of_head {s s' : State} {q : Nat} {c : HostCmd} (h : HeadCommand s q 0x3C c) (hs : onHost q 0x3C .mgmt s loadImage = .next s')
    (hbm : List (Nat × BitVec 8)) : exec (.hostFwload q hbm) s = .next
      (if refuseStatus s q .mgmt c = 0 ∧ s.fw.phase = .recovery ∧ imageOk s.fw.minSvn c.body = true then bringUp s' hbm else s') := by
  obtain ⟨hhead, hop, hgood⟩ := h
  change execHostFwload q hbm s = _
  unfold execHostFwload
  generalize ho : onHost _ _ _ _ _ = o
  obtain rfl : o = .next s' := ho.symm.trans hs
  cases hq : (queueAt s q).cmds with
  | nil => simp [hq] at hhead
  | cons d cs =>
    obtain rfl : d = c := by simpa [hq] using hhead
    simp [hop, hgood]

theorem exec_hostFwload_of_no_head {s : State} {q : Nat} (h : ¬∃ c, HeadCommand s q 0x3C c) (hbm : List (Nat × BitVec 8)) :
    exec (.hostFwload q hbm) s = .next s := by
  change execHostFwload q hbm s = _
  unfold execHostFwload
  generalize ho : onHost _ _ _ _ _ = o
  obtain rfl : o = .next s := ho.symm.trans (onHost_of_no_head h _ loadImage)
  cases hq : (queueAt s q).cmds with
  | nil => rfl
  | cons c cs => exact congrArg _ (if_neg fun ⟨hop, hgood, _⟩ => h ⟨c, by simp [hq], hop, by simpa using hgood⟩)

/-- R379: an image that passes is stored, and the device comes up. -/
theorem exec_hostFwload {s : State} {q : Nat} {c : HostCmd} (hr : refuseStatus s q .mgmt c = 0) (h : HeadCommand s q 0x3C c)
    (hbm : List (Nat × BitVec 8)) :
    Checked (.hostFwload q hbm) s q c [(5, s.fw.phase ≠ .recovery), (6, imageOk s.fw.minSvn c.body = false)]
      (exec (.hostFwload q hbm) s = .next (bringUp (finishCmd { s with
        cells := cellsWrite s.cells firmwareCell c.body
        flashBad := setDelRange flashPages (flashPages + (c.body.length + 65535) / 65536) s.flashBad } q c 0 c.ctx []) hbm)) := by
  have hi := exec_hostFwload_of_head h (onHost_of_taken h hr loadImage) hbm
  refine ⟨fun hphase => hi.trans ?_, fun hphase => ⟨fun himage => hi.trans ?_, fun himage => hi.trans ?_⟩⟩
  · simp [hphase, loadImage, withChecks_cons_of_holds, hostEnded, refuse]
  · simp [himage, loadImage, withChecks, statusOf, hostEnded, refuse, not_not.1 hphase]
  · have himage : imageOk s.fw.minSvn c.body = true := by simpa using himage
    simp [hr, himage, loadImage, withChecks, statusOf, hostEnded, done, not_not.1 hphase]

/-! Bring-up (R378, R379). -/

theorem cellsFrom_bringUp (s : State) (hbm : List (Nat × BitVec 8)) : cellsFrom flashBase (bringUp s hbm).cells = cellsFrom flashBase s.cells := by
  have hbelow : cellsFrom flashBase (hbmCells hbm) = [] :=
    List.dropWhile_eq_nil_iff.2 fun p hp => decide_eq_true (hbmCells_below hbm p hp)
  change cellsFrom flashBase (hbmCells hbm ++ cellsFrom flashBase s.cells) = _
  rw [cellsFrom, List.dropWhile_append, ← cellsFrom, hbelow]
  exact List.dropWhile_idempotent ..

/-- The stored image is sound and passes the check. -/
def Boots (s : State) : Prop := imageSound s (storedImage s).length = true ∧ imageOk s.fw.minSvn (storedImage s) = true

theorem bootFirmware_of_boots {s : State} (h : Boots s) : (bootFirmware s).phase = .running ∧ (bootFirmware s).minSvn = s.fw.minSvn := by
  obtain ⟨hsound, hok⟩ := h
  simp [bootFirmware, hsound, hok]

theorem bootFirmware_of_not_boots {s : State} (h : ¬Boots s) : (bootFirmware s).phase = .recovery ∧ (bootFirmware s).minSvn = s.fw.minSvn := by
  have hdown : ¬(imageSound s (storedImage s).length && imageOk s.fw.minSvn (storedImage s)) = true := by rwa [Bool.and_eq_true]
  rw [bootFirmware, if_neg hdown]
  exact ⟨rfl, rfl⟩

/-- After bring-up the device runs the stored image, or is in recovery. -/
theorem bringUp_fw (s : State) (hbm : List (Nat × BitVec 8)) :
    (bringUp s hbm).fw.minSvn = s.fw.minSvn ∧ ((bringUp s hbm).fw.phase = .running ↔ Boots s) ∧
    ((bringUp s hbm).fw.phase = .running ∨ (bringUp s hbm).fw.phase = .recovery) := by
  rw [show (bringUp s hbm).fw = bootFirmware s from rfl]
  by_cases h : Boots s
  · obtain ⟨hphase, hsvn⟩ := bootFirmware_of_boots h
    simp [hphase, hsvn, h]
  · obtain ⟨hphase, hsvn⟩ := bootFirmware_of_not_boots h
    simp [hphase, hsvn, h]

theorem exec_powerOn (s : State) (time : Nat) (hbm : List (Nat × BitVec 8)) [Decidable (Boots s)] :
    exec (.powerOn time hbm) s = .next (bringUp { s with
      now := if Boots s then time else 0, tenths := 10 * if Boots s then time else 0, slew := 0 } hbm) := by
  have hnow : (if (bootFirmware s).phase = .recovery then 0 else time) = if Boots s then time else 0 := by
    by_cases h : Boots s
    · simp [(bootFirmware_of_boots h).1, h]
    · simp [(bootFirmware_of_not_boots h).1, h]
  exact congrArg (fun now => Host.Outcome.next (bringUp { s with now := now, tenths := 10 * now, slew := 0 } hbm)) hnow

/-- R378: `RESET` is taken as any command is, and marked; a marked one at the head brings the device up. -/
theorem exec_hostReset_of {s s' : State} {q : Nat}
    (hs : onHost q 0x3D .mgmt s (fun s c => withChecks s c [(1, decide (c.body ≠ []))] (s, .wait 1 0)) = .next s') (hbm : List (Nat × BitVec 8)) :
    exec (.hostReset q hbm) s =
      .next (if (queueAt s' q).cmds.head?.any (fun c => decide (c.op = 0x3D ∧ c.stage = 1)) then bringUp s hbm else s') := by
  change execHostReset q hbm s = _
  rw [execHostReset, hs]

theorem queueAt_putQueue (s : State) (q : Nat) (h : HostQ) : queueAt (putQueue s q h) q = h := by
  simp [queueAt, putQueue]

theorem queueAt_popCmd (s : State) (q : Nat) (c : HostCmd) (status x : Nat) (body : List Byte) :
    (queueAt (popCmd s q c status x body) q).cmds = (queueAt s q).cmds.tail := by
  rw [popCmd, respond, queueAt_putQueue, queueAt_putQueue]

/-- A queue whose one command has completed is empty. -/
theorem finishCmd_of_single {s : State} {q : Nat} {c : HostCmd} (hcmds : (queueAt s q).cmds = [c]) (status x : Nat) (body : List Byte) :
    (queueAt (finishCmd s q c status x body) q).cmds = [] := by
  have hpop : (queueAt (popCmd s q c status x body) q).cmds = [] := by rw [queueAt_popCmd, hcmds]; rfl
  rw [finishCmd, hcmds, List.length_singleton, dropBad, hpop]
  exact hpop

theorem exec_hostReset {s : State} {q : Nat} {c : HostCmd} (hbm : List (Nat × BitVec 8)) (hcmds : (queueAt s q).cmds = [c]) (hop : c.op = 0x3D)
    (hgood : badCmd c = false) :
    let refused := refuseStatus s q .mgmt c
    (refused ≠ 0 → Completes (.hostReset q hbm) s s q c refused []) ∧ (refused = 0 → c.body ≠ [] → Completes (.hostReset q hbm) s s q c 1 []) ∧
    (refused = 0 → c.body = [] → exec (.hostReset q hbm) s = .next (bringUp s hbm)) := by
  have h : HeadCommand s q 0x3D c := ⟨by rw [hcmds]; rfl, hop, hgood⟩
  have hdone {status : Nat} (hs : onHost q 0x3D .mgmt s (fun s c => withChecks s c [(1, decide (c.body ≠ []))] (s, .wait 1 0)) =
      .next (finishCmd s q c status c.ctx [])) : Completes (.hostReset q hbm) s s q c status [] := by
    rw [Completes, exec_hostReset_of hs, finishCmd_of_single hcmds]; rfl
  refine ⟨fun hr => hdone (onHost_of_refused h hr _), fun hr hbody => hdone ?_, fun hr hbody => ?_⟩
  · rw [onHost_of_taken h hr, decide_eq_true hbody, withChecks_cons_of_holds Nat.one_ne_zero]; rfl
  · have hs := onHost_of_taken h hr (fun s c => withChecks s c [(1, decide (c.body ≠ []))] (s, .wait 1 0))
    rw [exec_hostReset_of hs]
    exact congrArg _ (if_pos (by simp [hbody, withChecks, statusOf, hostEnded, queueAt_putQueue, hop]))

/-! Attestation (R376, R377). -/

theorem length_exactly (n : Nat) (bs : List Byte) : (exactly n bs).length = n := by
  simp [exactly, padTo]

theorem length_reportBytes (s : State) (x : Nat) {nonce : List Byte} (h : nonce.length = 32) : (reportBytes s x nonce).length = 192 := by
  simp only [reportBytes, List.length_append, length_leBytes, length_exactly, h]
  split <;> simp [length_exactly]

theorem exec_hostAttest {s : State} {q : Nat} {c : HostCmd} (h : HeadCommand s q 0x38 c) (hr : refuseStatus s q .opt c = 0) :
    let r := reportBytes s c.ctx c.body
    Checked (.hostAttest q) s q c [(1, c.body.length ≠ 32)]
      (Completes (.hostAttest q) s s q c 0 (r ++ exactly 29792 (Config.deviceSignature r))) :=
  does_of_withChecks (exec_of_taken (o := execHostAttest q s) rfl rfl h hr) (by simp [Agree])

/-- Settles O54: the checks of each command are the statement's, and bring-up leaves what reset leaves, with flash and the counter kept. -/
theorem hostManagement : Obligations.HostManagement := by
  unfold Obligations.HostManagement
  refine ⟨fun s q i op k hbm hi => ?_, fun s q op c h => ⟨?_, fun hr => ⟨?_, ?_, ?_, ?_, ?_, ?_, ?_⟩⟩, fun s q c hbm hcmds hop hgood =>
    exec_hostReset hbm hcmds hop hgood, fun s time hbm => ⟨?_, ?_⟩⟩
  · simp only [List.mem_cons, Prod.mk.injEq, List.not_mem_nil, or_false] at hi
    rcases hi with ⟨rfl, rfl, rfl⟩ | ⟨rfl, rfl, rfl⟩ | ⟨rfl, rfl, rfl⟩ | ⟨rfl, rfl, rfl⟩ | ⟨rfl, rfl, rfl⟩ | ⟨rfl, rfl, rfl⟩ | ⟨rfl, rfl, rfl⟩
    · exact queueRules (o := execHostPartset q s) rfl rfl
    · exact queueRules (o := execHostLockmat q s) rfl rfl
    · exact queueRules (o := execHostPeerwin q s) rfl rfl
    · exact queueRules (o := execHostFnbind q s) rfl rfl
    · exact queueRules (o := execHostPower q s) rfl rfl
    · exact queueRules (o := execHostAttest q s) rfl rfl
    · exact ⟨fun h => exec_hostFwload_of_no_head h hbm,
        fun c h hr => (exec_hostFwload_of_head h (onHost_of_refused h hr _) hbm).trans (by rw [if_neg fun hc => hr hc.1])⟩
  · rintro rfl hr
    exact ⟨exec_hostAttest h hr, fun hlen => ⟨length_reportBytes _ _ hlen, by rw [List.length_append, length_reportBytes _ _ hlen, length_exactly]⟩⟩
  · rintro rfl
    exact exec_hostPartset hr h (by cases tblGet (c.ctx % 32) s.parts <;> rfl) (by cases tblGet (c.ctx % 32) s.parts <;> rfl)
  · rintro rfl
    exact exec_hostLockmat hr h
  · rintro rfl
    exact exec_hostPeerwin hr h
  · rintro rfl
    exact exec_hostFnbind hr h
  · rintro rfl hst
    exact exec_hostPower_later hr h hst
  · rintro rfl hst
    intro k pool last new lower due
    have hdue : due = modPower s (fun p => { p with
        pbudget := field c.body 0 4, changes := changesAfter p k (field c.body 0 4) (field c.body 12 2), limit := field c.body 8 4
        group := field c.body 12 2, floor := field c.body 14 2 }) := by
      rw [modPower, changesAfter_eq]; rfl
    rw [hdue]
    exact exec_hostPower_first hr h hst
  · rintro hbm rfl
    exact exec_hostFwload hr h hbm
  · exact @exec_powerOn s time hbm instDecidableAnd
  · obtain ⟨hsvn, hrun, hphase⟩ := bringUp_fw s hbm
    exact ⟨rfl, rfl, rfl, rfl, rfl, rfl, rfl, rfl, hsvn, hrun, hphase, cellsFrom_bringUp s hbm⟩

end Sys2Proof.Machine

/-! PROOFS. A reply to a thread, and the launches that wait for the request it answers (O51).

A launch whose `hold` names a request waits until that request is settled (R247), and `settleRequest` lets it go on for whatever party has asked.
The statement has the reply to a thread's store change the thread and the requests alone, and says nothing of what launches wait for. -/

namespace Sys2Proof.Machine

/-- A thread that waits for the answer to request 0. -/
def storingThread : Thread := { exitThread with wait := .peer 0 }

/-- A thread's store to device 1. -/
def farStore : PeerReq :=
  { who := .thread 0 0, ctx := 0, type := 3, dev := 1, pa := 0, len := 8, sx := false, addr := 0, since := 0, stale := false }

/-- A launch that waits for request 0. -/
def heldLaunch : Launch :=
  { ctx := 0, source := .thread 1, event := 0, prio := 0, graph := 0, overlap := false, admitted := false, anyFailed := false, prev := none
    tasks := [], descBad := false, daddr := 0, resv := 0, hold := [(1000, 1)], fill := none, got := [] }

/-- Thread 0 waits for the answer to its store, request 0, and so does launch 0. -/
def storeBed : State :=
  { State.reset with threads := [(0, storingThread)], requests := [(0, farStore)], launches := [(0, heldLaunch)] }

/-- What launch 0 waits for. -/
def holdOf (s : State) : Option (Tbl Nat) := (tblGet 0 s.launches).map (·.hold)

/-- The reply lets the launch go on. -/
theorem holdOf_settleRequest_storeBed : holdOf (settleRequest storeBed 0 farStore (.data [] [])) = some [] := by decide +kernel

/-- Refutes O51, by its clause on the acknowledgement of a thread's store: in `storeBed` the acknowledgement also lets a launch go on. -/
theorem not_peers : ¬ Obligations.Peers := by
  unfold Obligations.Peers
  intro h
  obtain ⟨-, -, -, -, -, -, hrequests⟩ := h storeBed
  obtain ⟨-, -, hthread⟩ := hrequests 0 farStore rfl
  obtain ⟨-, -, hstore, -⟩ := hthread 0 0 storingThread (.data [] []) rfl rfl rfl
  have hheld := congrArg holdOf (hstore rfl rfl)
  rw [holdOf_settleRequest_storeBed] at hheld
  exact absurd hheld (by decide +kernel)

end Sys2Proof.Machine

/-! PROOFS. The fault hold of a command's part, and the time that the part has been frozen (O48).

A command whose hold ends counts at 0x80 of R345 what its parts have been frozen (R403) before it writes its record. The statement has the
record written with the counters as they were. -/

namespace Sys2Proof.Machine

/-- A line of a copy that froze at 0 with the reason "not valid" and has not been woken. -/
def frozenLine : Frost := { idx := 0, woken := false, frz := { vaddr := 0, reason := 2, store := false, since := 0, last := 0, fpage := 0, after := 0 } }

/-- A `copy.in` with that line. -/
def frozenCopy : Cmd :=
  { word := 0xC4000000, ga := 0, gb := 0, desc := [], masks := defaultMasks, tid := 0, ctx := 0, node := none, handle := 0, headAt := some 0
    asked := none, granted := true, power := 0, step := 0, la := 0, sum := 0, best := 0, bad := false, bk := none, waiting := false
    frost := [frozenLine], froze := [(0, 0)], memo := [], got := [], lanes := [], rows := [], failed := false }

/-- The copy runs on engine 6 of cluster 0, 100 ms after its line froze. -/
def holdBed : State :=
  setUnit { State.reset with now := 100000000, ctxs := [(0, newCtx 0 [] [])] } 0 6 { queue := [], running := some frozenCopy, prev := 0 }

/-- The frozen time that context 0 has counted, once a step is over. -/
def frozenTime (o : Out) : Option Nat :=
  match o with
  | .next s => (ctxOf s 0).bind (fun c => tblGet 0x80 c.counters)
  | _ => none

/-- The end of the hold counts the 100 ms. -/
theorem frozenTime_faultHoldExpire_holdBed : frozenTime (exec (.faultHoldExpire true 0 6 0) holdBed) = some 100000000 := by decide +kernel

/-- Refutes O48, by its clause on the hold of a command: in `holdBed` the end of the hold counts the time that the line has been frozen. -/
theorem not_paging : ¬ Obligations.Paging := by
  unfold Obligations.Paging
  rintro ⟨-, -, h⟩
  obtain ⟨-, -, -, -, hcmds, -⟩ := h holdBed
  obtain ⟨-, -, -, hhold⟩ := hcmds 0 6 frozenCopy (by decide +kernel)
  obtain ⟨hfails, -⟩ := hhold 0 [] frozenLine [] rfl (fun y hy => absurd hy (List.not_mem_nil)) (by decide +kernel)
  have htime := congrArg frozenTime (hfails (by decide +kernel))
  rw [frozenTime_faultHoldExpire_holdBed] at htime
  exact absurd htime (by decide +kernel)

end Sys2Proof.Machine

/-! PROOFS. Runs of bytes and the lines that they lie in (R139, R212; O20). -/

namespace Sys2Proof.Machine

/-! ### Runs of bytes -/

/-- The `n` bytes from `a` upward. -/
def byteRun (src : Nat → Byte) (a n : Nat) : List Byte := (List.range n).map (fun b => src (a + b))

@[simp] theorem length_byteRun (src : Nat → Byte) (a n : Nat) : (byteRun src a n).length = n := by simp [byteRun]

theorem byteRun_append (src : Nat → Byte) (a n m : Nat) : byteRun src a n ++ byteRun src (a + n) m = byteRun src a (n + m) := by
  rw [byteRun, byteRun, byteRun, List.range_add, List.map_append, List.map_map]
  exact congrArg _ (List.map_congr_left fun b _ => by rw [Function.comp_apply, Nat.add_assoc])

theorem getD_byteRun (src : Nat → Byte) (a : Nat) {n b : Nat} (h : b < n) : (byteRun src a n).getD b 0 = src (a + b) := by
  simp [byteRun, List.getD_eq_getElem?_getD, h]

/-- A part of a run. -/
theorem take_drop_byteRun (src : Nat → Byte) (a : Nat) {k m n : Nat} (h : k + m ≤ n) :
    ((byteRun src a n).drop k).take m = byteRun src (a + k) m := by
  obtain ⟨r, rfl⟩ := Nat.exists_eq_add_of_le h
  rw [← byteRun_append, ← byteRun_append, List.append_assoc, List.drop_left' (length_byteRun ..), List.take_left' (length_byteRun ..)]

theorem byteRun_congr {f g : Nat → Byte} {a c n : Nat} (h : ∀ b, b < n → f (a + b) = g (c + b)) : byteRun f a n = byteRun g c n :=
  List.map_congr_left fun b hb => h b (List.mem_range.1 hb)

theorem cellsRead_eq_byteRun {c : Cells} (h : Memory.wf c = true) (a n : Nat) : cellsRead c a n = byteRun (fun d => cellGet d c) a n :=
  cellsRead_eq_map_range h a n

/-! ### Rows as numbers (R212) -/

theorem leBytes_leNat (bs : List Byte) : leBytes (leNat bs) bs.length = bs := by
  induction bs with
  | nil => rfl
  | cons b bs ih =>
    have hb : b.toNat < 256 := b.isLt
    rw [List.length_cons, leBytes, leNat, show (b.toNat + 256 * leNat bs) / 256 = leNat bs by omega, ih]
    congr 1
    apply BitVec.eq_of_toNat_eq
    rw [BitVec.toNat_ofNat]
    omega

/-- A row without poison is kept as the number of its bytes. -/
theorem rowCode_clean (bs : List Byte) (n : Nat) : rowCode bs (List.replicate n false) = leNat bs := by
  have hzero : (List.replicate n false).foldr (fun b v => b.toNat + 2 * v) 0 = 0 := by
    induction n with
    | zero => rfl
    | succ n ih => rw [List.replicate_succ, List.foldr_cons, ih]; rfl
  rw [rowCode, hzero, Nat.mul_zero, Nat.add_zero]

theorem rowOf_rowCode (bs : List Byte) : rowOf bs.length (rowCode bs (List.replicate bs.length false)) = (bs, List.replicate bs.length false) := by
  rw [rowCode_clean, rowOf, leBytes_leNat]
  refine congrArg _ (List.ext_getElem (by simp) fun i _ _ => ?_)
  simp only [List.getElem_map, List.getElem_range, List.getElem_replicate]
  exact Nat.testBit_lt_two_pow (lt_of_lt_of_le (leNat_lt bs) (Nat.pow_le_pow_right (by decide) (by omega)))

/-! ### Lines (R139) -/

/-- A line of a range holds a byte, lies within the range, and crosses no boundary of 64 bytes. -/
theorem lineAt_bounds {a len i : Nat} (h : i < lineCount a len) :
    0 < (lineAt a len i).2 ∧ a ≤ (lineAt a len i).1 ∧ (lineAt a len i).1 + (lineAt a len i).2 ≤ a + len ∧
    (lineAt a len i).1 % 64 + (lineAt a len i).2 ≤ 64 := by
  unfold lineCount at h
  simp only [lineAt]
  split at h <;> split <;> omega

/-- The bytes of a line are those with its number. -/
theorem mem_lineAt {a len x : Nat} (i : Nat) (h : x < len) :
    (a + x) / 64 - a / 64 = i ↔ (lineAt a len i).1 ≤ a + x ∧ a + x < (lineAt a len i).1 + (lineAt a len i).2 := by
  simp only [lineAt]
  split <;> omega

theorem line_lt_lineCount {a len x : Nat} (h : x < len) : (a + x) / 64 - a / 64 < lineCount a len := by
  rw [lineCount, if_neg (by omega)]
  omega

/-- A line ends where the next begins. -/
theorem lineAt_succ {a len i : Nat} (h : i + 1 < lineCount a len) : (lineAt a len (i + 1)).1 = (lineAt a len i).1 + (lineAt a len i).2 := by
  unfold lineCount at h
  simp only [lineAt, if_neg (Nat.succ_ne_zero i)]
  split at h
  · exact absurd h (Nat.not_lt_zero _)
  · split <;> omega

/-! ### The lines of a copy (R139, R212) -/

/-- The lines of the source and of the destination in which byte `x` of a copy lies. -/
def srcLine (c : Cmd) (x : Nat) : Nat := (copySrc c + x) / 64 - copySrc c / 64
def dstLine (c : Cmd) (x : Nat) : Nat := (copyDest c + x) / 64 - copyDest c / 64

/-- The bytes of source line `i`, where `src` gives those of the source. -/
def lineRun (src : Nat → Byte) (c : Cmd) (i : Nat) : List Byte :=
  byteRun src (lineAt (copySrc c) (copyLen c) i).1 (lineAt (copySrc c) (copyLen c) i).2

/-- What a copy keeps of source line `i`, read without poison. -/
def lineCode (src : Nat → Byte) (c : Cmd) (i : Nat) : Nat :=
  rowCode (lineRun src c i) (List.replicate (lineAt (copySrc c) (copyLen c) i).2 false)

/-- Every line that a copy has kept is one of the source, without poison. -/
def Keeps (src : Nat → Byte) (c : Cmd) : Prop := ∀ i v, tblGet i c.memo = some v → v = lineCode src c i

/-- Every source line with bytes of destination line `i` has been read. -/
def LineRead (c : Cmd) (i : Nat) : Prop := ∀ x, x < copyLen c → dstLine c x = i → tblGet (srcLine c x) c.memo ≠ none

theorem sourceLines_succ {src : Nat → Byte} {c : Cmd} {j n : Nat} (h : tblGet j c.memo = some (lineCode src c j)) :
    sourceLines c j (n + 1) = (sourceLines c (j + 1) n).map fun q =>
      (lineRun src c j ++ q.1, List.replicate (lineAt (copySrc c) (copyLen c) j).2 false ++ q.2) := by
  have hrow : rowOf (lineAt (copySrc c) (copyLen c) j).2 (lineCode src c j) =
      (lineRun src c j, List.replicate (lineAt (copySrc c) (copyLen c) j).2 false) := by
    simpa [lineRun, lineCode] using rowOf_rowCode (lineRun src c j)
  rw [sourceLines, h]
  cases sourceLines c (j + 1) n with
  | none => rfl
  | some q => simp only [hrow, Option.map_some]

/-- Source lines that have been read are one run of bytes. -/
theorem sourceLines_of_read {src : Nat → Byte} {c : Cmd} {j n : Nat} (hn : j + n < lineCount (copySrc c) (copyLen c))
    (h : ∀ i, j ≤ i → i ≤ j + n → tblGet i c.memo = some (lineCode src c i)) :
    let lo := (lineAt (copySrc c) (copyLen c) j).1
    let m := (lineAt (copySrc c) (copyLen c) (j + n)).1 + (lineAt (copySrc c) (copyLen c) (j + n)).2 - lo
    sourceLines c j (n + 1) = some (byteRun src lo m, List.replicate m false) := by
  induction n generalizing j with
  | zero =>
    rw [sourceLines_succ (h j (le_refl _) (le_refl _))]
    simp [sourceLines, lineRun]
  | succ n ih =>
    have hpos := lineAt_bounds (i := j + (n + 1)) hn
    have hjpos := lineAt_bounds (a := copySrc c) (len := copyLen c) (i := j) (by omega)
    have hnext := lineAt_succ (a := copySrc c) (len := copyLen c) (i := j) (by omega)
    have hlast : (lineAt (copySrc c) (copyLen c) (j + 1)).1 ≤ (lineAt (copySrc c) (copyLen c) (j + (n + 1))).1 := by
      simp only [lineAt]; split <;> split <;> omega
    rw [sourceLines_succ (h j (le_refl _) (by omega)), ih (j := j + 1) (by omega) fun i h1 h2 => h i (by omega) (by omega),
      Nat.add_right_comm j 1 n, Nat.add_assoc j n 1]
    simp only [Option.map_some, lineRun, hnext, byteRun_append, List.replicate_append_replicate]
    congr 3 <;> omega

theorem sourceLines_of_unread {c : Cmd} {j n i : Nat} (h1 : j ≤ i) (h2 : i < j + n) (h : tblGet i c.memo = none) : sourceLines c j n = none := by
  induction n generalizing j with
  | zero => omega
  | succ n ih =>
    rw [sourceLines]
    rcases Nat.eq_or_lt_of_le h1 with rfl | hlt
    · rw [h]
    · rw [ih hlt (by omega)]
      cases tblGet j c.memo <;> rfl

/-- A line between those of the first and the last of some bytes has one of them. -/
theorem exists_byte_of_line {a o n j : Nat} (hn : 0 < n) (h1 : (a + o) / 64 - a / 64 ≤ j) (h2 : j ≤ (a + (o + n - 1)) / 64 - a / 64) :
    ∃ x, o ≤ x ∧ x < o + n ∧ (a + x) / 64 - a / 64 = j :=
  ⟨max o ((a / 64 + j) * 64 - a), by omega⟩

/-- The bytes of a copy that a destination line holds. -/
theorem dstLine_iff {c : Cmd} {i x : Nat} (hi : i < lineCount (copyDest c) (copyLen c)) (hx : x < copyLen c) :
    let l := lineAt (copyDest c) (copyLen c) i
    dstLine c x = i ↔ l.1 - copyDest c ≤ x ∧ x < l.1 - copyDest c + l.2 := by
  have hmem := mem_lineAt (a := copyDest c) i hx
  obtain ⟨-, hlo, -, -⟩ := lineAt_bounds hi
  rw [dstLine, hmem]
  omega

/-- Where the bytes of a destination line come from. -/
theorem destLine_of_read {src : Nat → Byte} {c : Cmd} {i : Nat} (hi : i < lineCount (copyDest c) (copyLen c)) (hk : Keeps src c)
    (hread : LineRead c i) :
    let l := lineAt (copyDest c) (copyLen c) i
    destLine c i = some (byteRun src (copySrc c + (l.1 - copyDest c)) l.2, List.replicate l.2 false) := by
  intro l
  obtain ⟨hpos, hlo, hhi, -⟩ := lineAt_bounds hi
  have hbyte (x : Nat) (hx : x < copyLen c) := dstLine_iff (x := x) hi hx
  obtain ⟨o, ho⟩ : ∃ o, o = l.1 - copyDest c := ⟨_, rfl⟩
  change 0 < l.2 at hpos
  change l.1 + l.2 ≤ _ at hhi
  change ∀ x, x < copyLen c → (dstLine c x = i ↔ l.1 - copyDest c ≤ x ∧ x < l.1 - copyDest c + l.2) at hbyte
  rw [← ho] at hbyte
  have hend : o + l.2 ≤ copyLen c := by change copyDest c ≤ l.1 at hlo; omega
  have hall : ∀ j, srcLine c o ≤ j → j ≤ srcLine c (o + l.2 - 1) → tblGet j c.memo = some (lineCode src c j) := by
    intro j h1 h2
    obtain ⟨x, hx1, hx2, rfl⟩ := exists_byte_of_line (a := copySrc c) hpos h1 h2
    obtain ⟨v, hv⟩ := Option.ne_none_iff_exists'.1 (hread x (by omega) ((hbyte x (by omega)).2 ⟨hx1, hx2⟩))
    exact hv.trans (congrArg _ (hk _ v hv))
  have hfirst := (mem_lineAt (a := copySrc c) (len := copyLen c) (x := o) (srcLine c o) (by omega)).1 rfl
  have hlast := (mem_lineAt (a := copySrc c) (len := copyLen c) (x := o + l.2 - 1) (srcLine c (o + l.2 - 1)) (by omega)).1 rfl
  have hspan : (copySrc c + o + l.2 - 1) / 64 - (copySrc c + o) / 64 = srcLine c (o + l.2 - 1) - srcLine c o := by
    unfold srcLine; omega
  have hmono : srcLine c o ≤ srcLine c (o + l.2 - 1) := by unfold srcLine; omega
  have hsum : srcLine c o + (srcLine c (o + l.2 - 1) - srcLine c o) = srcLine c (o + l.2 - 1) := by omega
  have hlines := sourceLines_of_read (src := src) (j := srcLine c o) (n := srcLine c (o + l.2 - 1) - srcLine c o)
    (by rw [hsum]; exact line_lt_lineCount (by omega)) (fun j h1 h2 => hall j h1 (by omega))
  rw [hsum] at hlines
  have hdest : destLine c i = (sourceLines c (srcLine c o) (srcLine c (o + l.2 - 1) - srcLine c o + 1)).map fun r =>
      ((r.1.drop (copySrc c + o - (lineAt (copySrc c) (copyLen c) (srcLine c o)).1)).take l.2,
        (r.2.drop (copySrc c + o - (lineAt (copySrc c) (copyLen c) (srcLine c o)).1)).take l.2) := by
    rw [← hspan, ho]; rfl
  rw [hdest, hlines, Option.map_some]
  dsimp only
  rw [take_drop_byteRun _ _ (by omega), List.drop_replicate, List.take_replicate, ← ho]
  congr 3 <;> omega

theorem destLine_of_unread {c : Cmd} {i : Nat} (hi : i < lineCount (copyDest c) (copyLen c)) (hread : ¬LineRead c i) : destLine c i = none := by
  unfold LineRead at hread
  push Not at hread
  obtain ⟨x, hx, hline, hnone⟩ := hread
  obtain ⟨hlo, hhi⟩ := (dstLine_iff hi hx).1 hline
  obtain ⟨hpos, hle, -, -⟩ := lineAt_bounds hi
  have hfirst : (copySrc c + ((lineAt (copyDest c) (copyLen c) i).1 - copyDest c)) / 64 - copySrc c / 64 ≤ srcLine c x := by
    unfold srcLine; omega
  have hlast : srcLine c x < (copySrc c + ((lineAt (copyDest c) (copyLen c) i).1 - copyDest c)) / 64 - copySrc c / 64 +
      ((copySrc c + ((lineAt (copyDest c) (copyLen c) i).1 - copyDest c) + (lineAt (copyDest c) (copyLen c) i).2 - 1) / 64 -
        (copySrc c + ((lineAt (copyDest c) (copyLen c) i).1 - copyDest c)) / 64 + 1) := by
    unfold srcLine; omega
  rw [destLine]
  exact Option.map_eq_none_iff.2 (sourceLines_of_unread hfirst hlast hnone)

end Sys2Proof.Machine

/-! PROOFS. The memory that a copy writes (R120, R139, R222; O20). -/

namespace Sys2Proof.Machine

/-! ### Unpoisoned bytes written to a memory without poison or error -/

theorem foldl_settleMark_nil (c n : Nat) (us : List Nat) : us.foldl (settleMark c n false) [] = [] := by
  induction us with
  | nil => rfl
  | cons u us ih => rw [List.foldl_cons, settleMark, if_neg (by decide), show setDel u [] = [] from rfl, ite_self, ih]

theorem setHas_foldl_setAdd (x : Nat) (us : List Nat) (t : NatSet) :
    setHas x (us.foldl (fun f u => setAdd u f) t) = (setHas x t || decide (x ∈ us)) := by
  induction us generalizing t with
  | nil => simp
  | cons u us ih => simp [ih, setHas_setAdd, Bool.or_assoc]

/-- The full bits after a write of `n` bytes at `c` (R120). -/
def filled (s : State) (c n : Nat) : NatSet := if isTaggedCell c then (unitsOf 4 c n).foldl (fun f u => setAdd u f) s.full else s.full

theorem setHas_filled_of_full {s : State} {c n x : Nat} (h : setHas x s.full = true) : setHas x (filled s c n) = true := by
  unfold filled
  split
  · rw [setHas_foldl_setAdd, h, Bool.true_or]
  · exact h

theorem setHas_filled {s : State} {c n b : Nat} (hc : isTaggedCell c = true) (hb : b < n) : setHas ((c + b) / 4 * 4) (filled s c n) = true := by
  rw [filled, if_pos hc, setHas_foldl_setAdd, Bool.or_eq_true, decide_eq_true_eq]
  exact .inr ((mem_unitsOf (by decide)).2 ⟨c + b, by omega, by omega, rfl⟩)

theorem putBytesMap_clean {s : State} (hs : Sound s) (c n : Nat) (bs : List Byte) :
    putBytesMap s c bs (List.replicate n false) = { s with cells := cellsWrite s.cells c bs, full := filled s c bs.length } := by
  have hfold := foldl_settleErr_of_sound hs c bs.length
  obtain ⟨-, -, hmarks, hwaits⟩ := hs
  have hclean : (List.replicate n false).any (fun b => b) = false := by simp
  have hmark : (unitsOf (markSize c) c bs.length).foldl (settleMark c bs.length false) s.marks = s.marks := by
    rw [hmarks, foldl_settleMark_nil]
  rw [putBytesMap, hclean, if_pos (by decide), putBytes, memWrite, memStore]
  simp only [hfold, hmark, filled]
  split
  · rw [settleWords, if_pos (by rw [hwaits]; rfl)]
  · rfl

/-! ### The buffers (R119, R220) -/

theorem bufCell_add (cl b a n : Nat) : bufCell cl b (a + n) = bufCell cl b a + n := by
  unfold bufCell wCell aCell cCell
  split
  · omega
  · split <;> omega

theorem isTaggedCell_bufCell {cl b a : Nat} (hcl : cl < 64) (hb : b ≠ 0) (hb3 : b < 3) (ha : a < bufSize b) : isTaggedCell (bufCell cl b a) = true := by
  obtain rfl | rfl : b = 1 ∨ b = 2 := by omega
  · change a < 0x200000 at ha
    have h : aBase ≤ bufCell cl 1 a ∧ bufCell cl 1 a < aBase + 0x8000000 := by
      change aBase ≤ aBase + cl * 0x200000 + a ∧ aBase + cl * 0x200000 + a < aBase + 0x8000000
      omega
    simp [isTaggedCell, h]
  · change a < 0x100000 at ha
    have h : cBase ≤ bufCell cl 2 a ∧ bufCell cl 2 a < cBase + 0x4000000 := by
      change cBase ≤ cBase + cl * 0x100000 + a ∧ cBase + cl * 0x100000 + a < cBase + 0x4000000
      omega
    simp [isTaggedCell, h]

/-- A and C share no cell. -/
theorem bufCell_ne {cl b b' a a' : Nat} (hcl : cl < 64) (hb : b = 1 ∨ b = 2) (hb' : b' = 1 ∨ b' = 2) (hne : b ≠ b') (ha : a < bufSize b)
    (ha' : a' < bufSize b') : bufCell cl b a ≠ bufCell cl b' a' := by
  rcases hb with rfl | rfl <;> rcases hb' with rfl | rfl
  · exact absurd rfl hne
  · simp [bufSize, bufCell, aCell, aBase, cCell, cBase] at *
    omega
  · simp [bufSize, bufCell, aCell, aBase, cCell, cBase] at *
    omega
  · exact absurd rfl hne

/-! ### What a copy has put -/

/-- From `s` to `s'` the bytes `x` that `P` names have been put at `base + x`, as `v` gives them; the rest of memory is as before, and a tagged
word that has been written is full. -/
structure Puts (base : Nat) (v : Nat → Byte) (tagged : Prop) (P : Nat → Prop) (s s' : State) : Prop where
  rest : ∃ cells full ctxs, s' = { s with cells := cells, full := full, ctxs := ctxs }
  wf : Memory.wf s'.cells = true
  put : ∀ x, P x → cellGet (base + x) s'.cells = v x
  kept : ∀ d, (∀ x, P x → d ≠ base + x) → cellGet d s'.cells = cellGet d s.cells
  fills : tagged → ∀ x, P x → setHas ((base + x) / 4 * 4) s'.full = true
  full : ∀ y, setHas y s.full = true → setHas y s'.full = true

section
variable {base : Nat} {v : Nat → Byte} {tagged : Prop} {P Q : Nat → Prop} {s s' s'' : State}

theorem Puts.refl (h : Memory.wf s.cells = true) (hP : ∀ x, ¬P x) : Puts base v tagged P s s where
  rest := ⟨s.cells, s.full, s.ctxs, rfl⟩
  wf := h
  put x hx := absurd hx (hP x)
  kept _ _ := rfl
  fills _ x hx := absurd hx (hP x)
  full _ hy := hy

theorem Puts.sound (h : Puts base v tagged P s s') (hs : Sound s) : Sound s' := by
  obtain ⟨-, herrs, hmarks, hwaits⟩ := hs
  obtain ⟨cells, full, ctxs, rfl⟩ := h.rest
  exact ⟨h.wf, herrs, hmarks, hwaits⟩

theorem Puts.trans (h : Puts base v tagged P s s') (h' : Puts base v tagged Q s' s'') : Puts base v tagged (fun x => P x ∨ Q x) s s'' where
  rest := by
    obtain ⟨cells, full, ctxs, rfl⟩ := h.rest
    exact h'.rest
  wf := h'.wf
  put x hx := by
    by_cases hq : Q x
    · exact h'.put x hq
    · rw [h'.kept _ fun y hy he => hq (by rwa [Nat.add_left_cancel he]), h.put x (hx.resolve_right hq)]
  kept d hd := by rw [h'.kept d fun x hx => hd x (.inr hx), h.kept d fun x hx => hd x (.inl hx)]
  fills ht x hx := hx.elim (fun hp => h'.full _ (h.fills ht x hp)) (h'.fills ht x)
  full y hy := h'.full y (h.full y hy)

theorem Puts.congr (h : Puts base v tagged P s s') (hPQ : ∀ x, Q x ↔ P x) : Puts base v tagged Q s s' := by
  obtain rfl : Q = P := funext fun x => propext (hPQ x)
  exact h

end

/-- A destination line put in a buffer. -/
theorem puts_putDest {s : State} (hs : Sound s) {cl i : Nat} {c : Cmd} {v : Nat → Byte} (hcl : cl < 64) (hb : copyBuf c < 3)
    (hend : copyDest c + copyLen c ≤ bufSize (copyBuf c)) (hi : i < lineCount (copyDest c) (copyLen c)) :
    let l := lineAt (copyDest c) (copyLen c) i
    Puts (bufCell cl (copyBuf c) (copyDest c)) v (copyBuf c ≠ 0) (fun x => x < copyLen c ∧ dstLine c x = i) s
      (putDest cl s c i (byteRun v (l.1 - copyDest c) l.2) (List.replicate l.2 false)) := by
  intro l
  obtain ⟨hpos, hlo, hhi, -⟩ := lineAt_bounds hi
  have hline (x : Nat) (hx : x < copyLen c) := dstLine_iff (x := x) hi hx
  change 0 < l.2 at hpos
  change copyDest c ≤ l.1 at hlo
  change l.1 + l.2 ≤ _ at hhi
  change ∀ x, x < copyLen c → (dstLine c x = i ↔ l.1 - copyDest c ≤ x ∧ x < l.1 - copyDest c + l.2) at hline
  have hcell (x : Nat) : bufCell cl (copyBuf c) (copyDest c) + (l.1 - copyDest c + x) = bufCell cl (copyBuf c) l.1 + x := by
    rw [← bufCell_add, ← bufCell_add]
    exact congrArg _ (by omega)
  have hput : putDest cl s c i (byteRun v (l.1 - copyDest c) l.2) (List.replicate l.2 false) =
      { countMoved s c l.2 with
        cells := cellsWrite s.cells (bufCell cl (copyBuf c) l.1) (byteRun v (l.1 - copyDest c) l.2)
        full := filled s (bufCell cl (copyBuf c) l.1) l.2 } :=
    (putBytesMap_clean (s := countMoved s c l.2) hs ..).trans (by rw [length_byteRun]; rfl)
  obtain ⟨hwf, -⟩ := hs
  rw [hput]
  have hof {x : Nat} (hx : x < copyLen c ∧ dstLine c x = i) : ∃ b, b < l.2 ∧ x = l.1 - copyDest c + b := by
    obtain ⟨h1, h2⟩ := (hline x hx.1).1 hx.2
    exact ⟨x - (l.1 - copyDest c), by omega, by omega⟩
  refine ⟨⟨_, _, _, rfl⟩, cellsWrite_wf _ _ hwf, fun x hx => ?_, fun d hd => ?_, fun hne x hx => ?_, fun y hy => setHas_filled_of_full hy⟩
  · obtain ⟨b, hb, rfl⟩ := hof hx
    change cellGet _ (cellsWrite _ _ _) = _
    rw [hcell, cellsWrite_get _ _ _ hwf, length_byteRun, if_pos (by omega), Nat.add_sub_cancel_left, getD_byteRun _ _ hb]
  · change cellGet _ (cellsWrite _ _ _) = _
    rw [cellsWrite_get _ _ _ hwf, length_byteRun, if_neg]
    rintro ⟨h1, h2⟩
    obtain ⟨b, rfl⟩ := Nat.exists_eq_add_of_le h1
    exact hd (l.1 - copyDest c + b) ⟨by omega, (hline _ (by omega)).2 ⟨by omega, by omega⟩⟩ (hcell b).symm
  · obtain ⟨b, hb', rfl⟩ := hof hx
    rw [hcell]
    exact setHas_filled (isTaggedCell_bufCell hcl hne hb (by omega)) hb'

/-- Every byte of a copy that source line `j` and the lines read before make ready, and that `j` is needed for. -/
def ReadyAt (c : Cmd) (j x : Nat) : Prop :=
  x < copyLen c ∧ (∀ y, y < copyLen c → dstLine c y = dstLine c x → srcLine c y = j ∨ tblGet (srcLine c y) c.memo ≠ none) ∧
  ∃ y, y < copyLen c ∧ srcLine c y = j ∧ dstLine c y = dstLine c x

/-- Destination lines put, each that can be. -/
theorem puts_putReady {src : Nat → Byte} {cl : Nat} {c : Cmd} (hcl : cl < 64) (hb : copyBuf c < 3)
    (hend : copyDest c + copyLen c ≤ bufSize (copyBuf c)) (hk : Keeps src c) {s : State} (hs : Sound s) {i n : Nat}
    (hn : i + n ≤ lineCount (copyDest c) (copyLen c)) :
    Puts (bufCell cl (copyBuf c) (copyDest c)) (fun x => src (copySrc c + x)) (copyBuf c ≠ 0)
      (fun x => x < copyLen c ∧ (i ≤ dstLine c x ∧ dstLine c x < i + n) ∧ LineRead c (dstLine c x)) s (putReady cl s c i n) := by
  induction n generalizing s i with
  | zero => exact .refl hs.1 fun x hx => by omega
  | succ n ih =>
    rw [putReady]
    by_cases hread : LineRead c i
    · have hdest := destLine_of_read (by omega) hk hread
      have hput := puts_putDest (v := fun x => src (copySrc c + x)) hs hcl hb hend (i := i) (by omega)
      rw [hdest]
      have hrun (o m : Nat) : byteRun (fun x => src (copySrc c + x)) o m = byteRun src (copySrc c + o) m :=
        byteRun_congr fun b _ => by rw [Nat.add_assoc]
      simp only [hrun] at hput
      refine (hput.trans (ih (hput.sound hs) (by omega))).congr fun x => ?_
      constructor
      · rintro ⟨hx, hi, hl⟩
        by_cases hxi : dstLine c x = i
        · exact .inl ⟨hx, hxi⟩
        · exact .inr ⟨hx, by omega, hl⟩
      · rintro (⟨hx, rfl⟩ | ⟨hx, hi, hl⟩)
        · exact ⟨hx, by omega, hread⟩
        · exact ⟨hx, by omega, hl⟩
    · rw [destLine_of_unread (by omega) hread]
      refine (ih hs (by omega)).congr fun x => ?_
      constructor
      · rintro ⟨hx, hi, hl⟩
        have hxi : dstLine c x ≠ i := fun h => hread (h ▸ hl)
        exact ⟨hx, by omega, hl⟩
      · rintro ⟨hx, hi, hl⟩
        exact ⟨hx, by omega, hl⟩

/-! ### A source line moved (R139, R222) -/

/-- A copy that keeps source line `j`. -/
def keeping (src : Nat → Byte) (c : Cmd) (j : Nat) : Cmd := { c with memo := tblSet j (lineCode src c j) c.memo }

theorem keeps_keeping {src : Nat → Byte} {c : Cmd} (hk : Keeps src c) (j : Nat) : Keeps src (keeping src c j) := by
  intro i v hv
  by_cases hij : i = j
  · subst hij
    exact (Option.some.inj ((tblGet_tblSet ..).symm.trans hv)).symm
  · exact hk i v ((tblGet_tblSet_ne hij ..).symm.trans hv)

theorem lineRead_keeping {src : Nat → Byte} {c : Cmd} {i j : Nat} : LineRead (keeping src c j) i ↔
    ∀ y, y < copyLen c → dstLine c y = i → srcLine c y = j ∨ tblGet (srcLine c y) c.memo ≠ none := by
  refine forall_congr' fun y => forall_congr' fun _ => forall_congr' fun _ => ?_
  change tblGet (srcLine c y) (tblSet j _ c.memo) ≠ none ↔ _
  by_cases hy : srcLine c y = j
  · simp [hy]
  · rw [tblGet_tblSet_ne hy]
    simp [hy]

/-- A source line that has been read makes lines of the destination ready. -/
theorem inPart_of_read {src : Nat → Byte} {cl u j : Nat} {c : Cmd} {s : State} (hs : Sound s) (hcl : cl < 64) (hb : copyBuf c < 3)
    (hend : copyDest c + copyLen c ≤ bufSize (copyBuf c)) (hk : Keeps src c) (hj : j < lineCount (copySrc c) (copyLen c))
    (hread : readSource s c cl (.unit cl u j) (lineAt (copySrc c) (copyLen c) j).1 (lineAt (copySrc c) (copyLen c) j).2 =
      (s, .inl (lineRun src c j, List.replicate (lineAt (copySrc c) (copyLen c) j).2 false))) :
    ∃ s', inPart cl u s c j = (s', if copySrc c % 64 = copyDest c % 64 then c else keeping src c j, .done false) ∧
      Puts (bufCell cl (copyBuf c) (copyDest c)) (fun x => src (copySrc c + x)) (copyBuf c ≠ 0) (ReadyAt c j) s s' := by
  obtain ⟨l, hl⟩ : ∃ l, l = lineAt (copySrc c) (copyLen c) j := ⟨_, rfl⟩
  obtain ⟨hpos, hlo, hhi, -⟩ := lineAt_bounds hj
  have hmem (x : Nat) (hx : x < copyLen c) := mem_lineAt (a := copySrc c) j hx
  rw [← hl] at hread hpos hlo hhi
  simp only [← hl] at hmem
  have hclean : anyPoison (List.replicate l.2 false) = false := by simp [anyPoison]
  have hlast := line_lt_lineCount (a := copyDest c) (len := copyLen c) (x := l.1 - copySrc c + l.2 - 1) (by omega)
  refine ⟨putReady cl s (keeping src c j) ((copyDest c + (l.1 - copySrc c)) / 64 - copyDest c / 64)
    ((copyDest c + (l.1 - copySrc c) + l.2 - 1) / 64 - (copyDest c + (l.1 - copySrc c)) / 64 + 1), ?_, ?_⟩
  · rw [inPart]
    simp only [← hl, hread, hclean]
    subst hl
    rfl
  · refine (puts_putReady (c := keeping src c j) hcl hb hend (keeps_keeping hk j) hs ?_).congr fun x => ?_
    · change _ ≤ lineCount (copyDest c) (copyLen c)
      omega
    · rw [lineRead_keeping]
      change _ ↔ x < copyLen c ∧ (_ ≤ dstLine c x ∧ dstLine c x < _) ∧ _
      rw [ReadyAt, and_comm (a := ∀ y, _)]
      refine and_congr_right fun hx => and_congr_left fun _ => ⟨?_, fun ⟨h1, h2⟩ => ?_⟩
      · rintro ⟨y, hy, hyj, hyx⟩
        have hin := (hmem y hy).1 hyj
        rw [← hyx]
        unfold dstLine
        omega
      · obtain ⟨y, hy1, hy2, hyx⟩ := exists_byte_of_line (a := copyDest c) (o := l.1 - copySrc c) (n := l.2) (j := dstLine c x) hpos h1 (by omega)
        exact ⟨y, by omega, (hmem y (by omega)).2 ⟨by omega, by omega⟩, hyx⟩

end Sys2Proof.Machine

/-! PROOFS. Lines of V that a copy reads or writes on this device (R139, R222; O20). -/

namespace Sys2Proof.Machine

/-! ### Accesses of V within a line (R139, R210) -/

theorem vPieces_line {va n : Nat} (hn : 0 < n) (hline : va % 64 + n ≤ 64) (f : Nat) : vPieces va n (f + 2) = [(va, n)] := by
  have hmin : min n (256 - va % 256) = n := by omega
  rw [vPieces, if_neg (by omega)]
  simp only [hmin]
  rw [vPieces, if_pos (by omega)]

section
variable {s : State} {c : Cmd} {x : Target} {va n : Nat} {need : Need} (who : PeerWho)

theorem vTargets_lies (hf : c.froze = []) (h : Lies s c.ctx need va x) : vTargets s c who need [(va, n)] = (s, .inl [(x, n)]) := by
  obtain ⟨hva, hxlat, -⟩ := h
  have hcmd : cmdXlat s c who va need = (s, .ok x) := by
    rw [cmdXlat, hf]
    exact hxlat
  rw [vTargets, if_neg (by omega), hcmd]
  rfl

theorem vGet_lies (hs : Sound s) (hf : c.froze = []) (hn : 0 < n) (hline : va % 64 + n ≤ 64) (h : Lies s c.ctx needRead va x) :
    vGet s c who va n = (s, .ok (cellsRead s.cells (hbmCell c.masks x.pa) n) (List.replicate n false)) := by
  have htargets := vTargets_lies (n := n) who hf h
  obtain ⟨-, -, hpeer⟩ := h
  rw [vGet, vPieces_line hn hline, htargets]
  simp only [readTargets, hpeer, hs.memReadMap, if_neg Bool.false_ne_true, List.append_nil]

theorem vPut_lies (hs : Sound s) (hf : c.froze = []) {bs : List Byte} (hn : 0 < bs.length) (hline : va % 64 + bs.length ≤ 64)
    (h : Lies s c.ctx needWrite va x) :
    vPut s c who va bs (List.replicate bs.length false) =
      ({ s with cells := cellsWrite s.cells (hbmCell c.masks x.pa) bs, full := filled s (hbmCell c.masks x.pa) bs.length }, none) := by
  have htargets := vTargets_lies (n := bs.length) who hf h
  obtain ⟨-, -, hpeer⟩ := h
  have hput := putBytesMap_clean hs (hbmCell c.masks x.pa) bs.length bs
  rw [vPut, vPieces_line hn hline, htargets]
  simp only [writeTargets, hpeer, if_neg Bool.false_ne_true, List.take_length, List.take_replicate, Nat.min_self, hput]

theorem pendingFor_nil (h : s.requests = []) : pendingFor s who = false := by rw [pendingFor, h]; rfl

/-- A line of V on this device, as the source of a `copy.in`. -/
theorem readSource_lies (hs : Sound s) (hreq : s.requests = []) (hdir : copyDir c = 0) (hf : c.froze = []) (cl : Nat) (hn : 0 < n)
    (hline : va % 64 + n ≤ 64) (h : Lies s c.ctx needRead va x) :
    readSource s c cl who va n = (s, .inl (cellsRead s.cells (hbmCell c.masks x.pa) n, List.replicate n false)) := by
  rw [readSource, if_pos hdir, vGet_lies who hs hf hn hline h]
  simp only [pendingFor_nil who hreq, if_neg Bool.false_ne_true]

end

/-! ### A line moved (R139, R222) -/

/-- The bytes of a `copy.in` that source line `j` makes ready, by their addresses. -/
theorem readyAt_iff {c : Cmd} {j a : Nat} (hj : j < lineCount (copySrc c) (copyLen c)) (ha : copySrc c ≤ a) :
    let l := lineAt (copySrc c) (copyLen c) j
    let place (a : Nat) : Nat := copyDest c + (a - copySrc c)
    (a < copySrc c + copyLen c ∧
      (∀ b, copySrc c ≤ b → b < copySrc c + copyLen c → place b / 64 = place a / 64 →
        b / 64 - copySrc c / 64 = j ∨ tblGet (b / 64 - copySrc c / 64) c.memo ≠ none) ∧
      ∃ b, b < l.2 ∧ place (l.1 + b) / 64 = place a / 64) ↔ ReadyAt c j (a - copySrc c) := by
  intro l place
  obtain ⟨x, rfl⟩ := Nat.exists_eq_add_of_le ha
  obtain ⟨-, hlo, hhi, -⟩ := lineAt_bounds hj
  have hmem (y : Nat) (hy : y < copyLen c) : srcLine c y = j ↔ l.1 ≤ copySrc c + y ∧ copySrc c + y < l.1 + l.2 := mem_lineAt j hy
  have hplace (y : Nat) : place (copySrc c + y) = copyDest c + y := congrArg _ (Nat.add_sub_cancel_left ..)
  have hline (y : Nat) : dstLine c y = dstLine c x ↔ place (copySrc c + y) / 64 = place (copySrc c + x) / 64 := by
    rw [hplace, hplace]
    unfold dstLine
    omega
  rw [ReadyAt, Nat.add_sub_cancel_left, Nat.add_lt_add_iff_left]
  simp only [hline]
  refine and_congr_right fun hx => and_congr ⟨fun h y hy hyx => h _ (by omega) (by omega) hyx, fun h b h1 h2 hb => ?_⟩
    ⟨fun ⟨b, hb, hbx⟩ => ?_, fun ⟨y, hy, hyj, hyx⟩ => ?_⟩
  · obtain ⟨y, rfl⟩ := Nat.exists_eq_add_of_le h1
    exact h y (by omega) hb
  · change copySrc c ≤ l.1 at hlo
    change l.1 + l.2 ≤ _ at hhi
    have hb' : copySrc c + (l.1 + b - copySrc c) = l.1 + b := by omega
    exact ⟨l.1 + b - copySrc c, by omega, (hmem _ (by omega)).2 (by omega), by rw [hb']; exact hbx⟩
  · have hin := (hmem y hy).1 hyj
    have hy' : l.1 + (copySrc c + y - l.1) = copySrc c + y := by omega
    exact ⟨copySrc c + y - l.1, by omega, by rw [hy']; exact hyx⟩

/-- A source line of a raw `copy.in` that lies on this device. -/
theorem copyPart_in {src : Nat → Byte} {cl u j : Nat} {c : Cmd} {x : Target} {s : State} (hs : Sound s) (hreq : s.requests = []) (hcl : cl < 64)
    (hdir : copyDir c = 0) (hdec : copyDec c = 0) (hb : copyBuf c < 3) (hend : copyDest c + copyLen c ≤ bufSize (copyBuf c)) (hf : c.froze = [])
    (hk : Keeps src c) (hj : j < lineCount (copySrc c) (copyLen c)) (hlies : Lies s c.ctx needRead (lineAt (copySrc c) (copyLen c) j).1 x)
    (hsrc : ∀ b, b < (lineAt (copySrc c) (copyLen c) j).2 →
      src ((lineAt (copySrc c) (copyLen c) j).1 + b) = cellGet (hbmCell c.masks x.pa + b) s.cells) :
    ∃ s', copyPart cl u s c j = (s', if copySrc c % 64 = copyDest c % 64 then c else keeping src c j, .done false) ∧
      Puts (bufCell cl (copyBuf c) (copyDest c)) (fun x => src (copySrc c + x)) (copyBuf c ≠ 0) (ReadyAt c j) s s' := by
  obtain ⟨hpos, -, -, hline⟩ := lineAt_bounds hj
  have hread := readSource_lies (.unit cl u j) hs hreq hdir hf cl hpos hline hlies
  have hrun : cellsRead s.cells (hbmCell c.masks x.pa) (lineAt (copySrc c) (copyLen c) j).2 = lineRun src c j :=
    (cellsRead_eq_byteRun hs.1 ..).trans (byteRun_congr fun b hb => (hsrc b hb).symm)
  rw [hrun] at hread
  have hpart : copyPart cl u s c j = inPart cl u s c j := by rw [copyPart, if_neg (by omega), if_pos hdec]
  rw [hpart]
  exact inPart_of_read hs hcl hb hend hk hj hread

theorem lt_lineCount {a len j : Nat} (h : (lineAt a len j).2 ≠ 0) : j < lineCount a len := by
  simp only [lineAt] at h
  unfold lineCount
  split at h <;> split <;> omega

/-- A destination line of a `copy.out` that lies on this device. -/
theorem copyPart_out {cl u j : Nat} {c : Cmd} {x : Target} {s : State} (hs : Sound s) (hreq : s.requests = []) (hdir : copyDir c = 1)
    (hf : c.froze = []) (hmemo : c.memo = []) (hne : (lineAt (copyDest c) (copyLen c) j).2 ≠ 0)
    (hlies : Lies s c.ctx needWrite (lineAt (copyDest c) (copyLen c) j).1 x) :
    let l := lineAt (copyDest c) (copyLen c) j
    ∃ s', copyPart cl u s c j = (s', c, .done false) ∧ s'.cells = cellsWrite s.cells (hbmCell c.masks x.pa)
      (cellsRead s.cells (bufCell cl (copyBuf c) (copySrc c + (l.1 - copyDest c))) l.2) := by
  obtain ⟨hpos, -, -, hline⟩ := lineAt_bounds (lt_lineCount hne)
  generalize hl : lineAt (copyDest c) (copyLen c) j = l at hpos hline hlies ⊢
  obtain ⟨bs, hbs⟩ : ∃ bs, bs = cellsRead s.cells (bufCell cl (copyBuf c) (copySrc c + (l.1 - copyDest c))) l.2 := ⟨_, rfl⟩
  have hlen : bs.length = l.2 := by rw [hbs, cellsRead_eq_byteRun hs.1, length_byteRun]
  obtain ⟨w, hput, hreq', hcells⟩ : ∃ w, vPut s c (.unit cl u j) l.1 bs (List.replicate l.2 false) = (w, none) ∧ w.requests = [] ∧
      w.cells = cellsWrite s.cells (hbmCell c.masks x.pa) bs := by
    have hput := vPut_lies (.unit cl u j) hs hf (bs := bs) (by rw [hlen]; exact hpos) (by rw [hlen]; exact hline) hlies
    rw [hlen] at hput
    exact ⟨_, hput, hreq, rfl⟩
  have hclean : anyPoison (List.replicate l.2 false) = false := by simp [anyPoison]
  have hnone (i : Nat) : tblGet i ([] : Tbl Nat) = none := rfl
  have hkeep : { c with memo := tblDel j [] } = c := congrArg (fun m => { c with memo := m }) hmemo.symm
  dsimp only
  rw [copyPart, if_pos hdir, outPart]
  simp only [hl, hmemo, hnone, hs.memReadMap, ← hbs, hput, hclean, hkeep, Option.isSome_none, if_neg Bool.false_ne_true,
    pendingFor_nil (.unit cl u j) hreq']
  exact ⟨countMoved w c l.2, rfl, hcells⟩

end Sys2Proof.Machine

/-! PROOFS. The landing of a copy, and the run of its lines (R127, R139, R222; O20). -/

namespace Sys2Proof.Machine

/-! ### A landing leaves memory as it is -/

theorem mem_tblSet {α : Type} {k : Nat} {v : α} {p : Nat × α} {t : Tbl α} (h : p ∈ tblSet k v t) : p = (k, v) ∨ p ∈ t := by
  induction t with
  | nil => exact .inl (List.mem_singleton.1 h)
  | cons q t ih =>
    unfold tblSet at h
    grind

/-- What every value of a table satisfies still holds once one has been changed. -/
theorem forall_tblMod {α : Type} {k : Nat} {f : α → α} {t : Tbl α} {P : α → Prop} (h : ∀ p ∈ t, P p.2) (hf : ∀ v, P v → P (f v)) :
    ∀ p ∈ tblMod k f t, P p.2 := by
  intro p hp
  unfold tblMod at hp
  split at hp
  · next v hv =>
    rcases mem_tblSet hp with rfl | hp
    · exact hf v (h _ (mem_of_tblGet hv))
    · exact h p hp
  · exact h p hp

theorem unitAt_setHandle (s : State) (c h u : Nat) (v : Handle) : unitAt (setHandle s c h v) c u = unitAt s c u := by
  simp [unitAt, clusterAt]

theorem unitAt_checkPromise (s : State) (c h u : Nat) : unitAt (checkPromise s c h) c u = unitAt s c u := by
  simp only [checkPromise]
  split
  · exact unitAt_setHandle ..
  · rfl

/-- Nothing beside memory hangs on the end of a command of thread `t`: it runs, no wound is due, and no launch or request of a peer device
stands. -/
structure Quiet (t : Nat) (s : State) : Prop where
  launches : s.launches = []
  requests : s.requests = []
  wounds : ∀ p ∈ s.threads, p.2.woundDue = false
  runs : ∃ th, tblGet t s.threads = some th ∧ th.life = .running

section
variable {s s' : State} {t : Nat}

theorem Quiet.of_same (h : Quiet t s) (hl : s'.launches = s.launches) (hr : s'.requests = s.requests) (ht : s'.threads = s.threads) : Quiet t s' where
  launches := hl.trans h.launches
  requests := hr.trans h.requests
  wounds := ht ▸ h.wounds
  runs := ht ▸ h.runs

theorem raiseAsync_keeps (th : Thread) (code detail : Nat) :
    let q := if th.life ≠ .running then th
      else { th with asyncs := th.asyncs ++ [⟨code, detail⟩], status := statusBits (inTrap th) (inTrap th) }
    q.woundDue = th.woundDue ∧ q.life = th.life := by
  dsimp only
  split <;> exact ⟨rfl, rfl⟩

theorem Quiet.raiseAsync (h : Quiet t s) (o code detail : Nat) : Quiet t (raiseAsync s o code detail) where
  launches := h.launches
  requests := h.requests
  wounds := forall_tblMod (P := fun th : Thread => th.woundDue = false) h.wounds fun th hth => (raiseAsync_keeps th code detail).1.trans hth
  runs := by
    obtain ⟨th, hth, hlife⟩ := h.runs
    rw [Machine.raiseAsync, modThread_threads]
    by_cases ho : t = o
    · subst ho
      exact ⟨_, (tblGet_tblMod ..).trans (by rw [hth]; rfl), (raiseAsync_keeps th code detail).2.trans hlife⟩
    · exact ⟨th, (tblGet_tblMod_ne ho ..).trans hth, hlife⟩

theorem Quiet.checkPromise (h : Quiet t s) (c v : Nat) : Quiet t (checkPromise s c v) := by
  simp only [Machine.checkPromise]
  split
  · have hlate : Quiet t (setHandle s c v (markLate (handleAt s c v))) := h.of_same rfl rfl rfl
    exact hlate.raiseAsync ..
  · exact h

theorem Quiet.deliverWounds (h : Quiet t s) (cl : Nat) : deliverWounds s cl = s := by
  have hnone : s.threads.filter (fun p => p.1 / 16 == cl && p.2.woundDue) = [] := List.filter_eq_nil_iff.2 fun p hp => by simp [h.wounds p hp]
  rw [Machine.deliverWounds, hnone]
  rfl

theorem Quiet.disown (h : Quiet t s) (p : PeerWho → Bool) : disown p s = s := by
  rw [Machine.disown, h.requests]
  rfl

theorem Quiet.easeLaunches (h : Quiet t s) (o u : Nat) : easeLaunches s o u = s := by
  have hl := h.launches
  cases s
  cases hl
  rfl

theorem Quiet.finishThread (h : Quiet t s) : finishThread s t = s := by
  obtain ⟨th, hth, hlife⟩ := h.runs
  rw [Machine.finishThread, hth]
  simp only [hlife]

theorem Quiet.unbindIfIdle_full (h : Quiet t s) (c : Nat) : (unbindIfIdle s c).full = s.full := by
  have hdrop : dropHolds s c = s := by rw [dropHolds, h.launches]; rfl
  have hoffer (s : State) : (offerPlaces s).full = s.full := by
    unfold offerPlaces
    split <;> rfl
  simp only [unbindIfIdle, hdrop]
  split
  · rfl
  · split
    · exact hoffer _
    · rfl

theorem Quiet.completeCmd (h : Quiet t s) {c : Cmd} {cl u : Nat} (hr : (unitAt s cl u).running = some c) (hn : c.node = none)
    (hf : c.failed = false) (ht : c.tid = t) : (completeCmd s cl u).cells = s.cells ∧ (completeCmd s cl u).full = s.full := by
  have hq : Quiet t (setQueue s cl u { unitAt s cl u with running := none }) := h.of_same rfl rfl rfl
  have hend : Machine.completeCmd s cl u = unbindIfIdle (setQueue s cl u { unitAt s cl u with running := none }) cl := by
    simp only [Machine.completeCmd, hr, hn, hf, ht, hq.disown, hq.deliverWounds, hq.easeLaunches, hq.finishThread, if_neg Bool.false_ne_true]
  rw [hend]
  exact ⟨unbindIfIdle_cells .., hq.unbindIfIdle_full cl⟩

theorem Quiet.landCopy (h : Quiet t s) {c k : Cmd} {cl u : Nat} (hr : (unitAt s cl u).running = some c) (hn : c.node = none)
    (ht : c.tid = t) : (landCopy s cl u k).cells = s.cells ∧ (landCopy s cl u k).full = s.full := by
  obtain ⟨w, hw⟩ : ∃ w, w = Machine.checkPromise s cl k.handle := ⟨_, rfl⟩
  have hq : Quiet t w := hw ▸ h.checkPromise ..
  have hcells : w.cells = s.cells := by rw [hw, checkPromise_cells]
  have hfull : w.full = s.full := by
    rw [hw]
    simp only [Machine.checkPromise]
    split <;> rfl
  have hrun : (unitAt w cl u).running = some c := by rw [hw, unitAt_checkPromise, hr]
  obtain ⟨v, hv⟩ : ∃ v, Machine.landCopy s cl u k =
      Machine.completeCmd (modRunning (setHandle w cl k.handle v) cl u fun q => { q with failed := false }) cl u :=
    ⟨_, by rw [Machine.landCopy, ← hw]⟩
  have hend : (unitAt (modRunning (setHandle w cl k.handle v) cl u fun q => { q with failed := false }) cl u).running =
      some { c with failed := false } := by
    simp only [modRunning, unitAt_setUnit, unitAt_setHandle, hrun, Option.map_some]
  have hq' : Quiet t (modRunning (setHandle w cl k.handle v) cl u fun q => { q with failed := false }) := hq.of_same rfl rfl rfl
  rw [hv, ← hcells, ← hfull]
  exact hq'.completeCmd hend hn rfl ht

end

/-! ### The lines of a copy between buffers, one after another (R139, R222) -/

/-- A part that is done, without poison, leaves nothing in a command of which no part is frozen. -/
theorem notePart_done {c : Cmd} (hf : c.frost = []) (s : State) (i : Nat) : notePart s c i (.done false) = (s, c) := by
  have hdrop : (dropFrost c i).frost = c.frost := by rw [dropFrost, hf]; rfl
  have hbad : (c.bad || false) = c.bad := Bool.or_false _
  have hsame : { dropFrost c i with bad := c.bad || false } = c := by
    rw [dropFrost] at hdrop ⊢
    dsimp only at hdrop ⊢
    rw [hdrop, hbad]
  exact congrArg _ hsame

/-- Command `c` is copy `k`, of which the first `n` source lines have been read: it keeps them where a later line needs one of them. -/
structure ReadTo (src : Nat → Byte) (k : Cmd) (n : Nat) (c : Cmd) : Prop where
  same : ∃ memo, c = { k with memo := memo }
  keeps : Keeps src c
  aligned : copySrc k % 64 = copyDest k % 64 → c.memo = []
  reads : copySrc k % 64 ≠ copyDest k % 64 → ∀ i, tblGet i c.memo ≠ none ↔ i < n

/-- The bytes of a copy whose destination line lacks none of the first `n` source lines alone. -/
def ReadyTo (k : Cmd) (n x : Nat) : Prop := x < copyLen k ∧ ∀ y, y < copyLen k → dstLine k y = dstLine k x → srcLine k y < n

section
variable {src : Nat → Byte} {k c : Cmd} {n : Nat}

theorem ReadTo.start (h : k.memo = []) : ReadTo src k 0 k where
  same := ⟨k.memo, rfl⟩
  keeps i v hv := by rw [h] at hv; cases hv
  aligned _ := h
  reads _ i := by rw [h]; exact ⟨fun hne => absurd rfl hne, fun hi => absurd hi (Nat.not_lt_zero _)⟩

theorem ReadTo.next (h : ReadTo src k n c) : ReadTo src k (n + 1) (if copySrc c % 64 = copyDest c % 64 then c else keeping src c n) := by
  obtain ⟨⟨memo, rfl⟩, hkeeps, hal, hrd⟩ := h
  change ReadTo src k (n + 1) (if copySrc k % 64 = copyDest k % 64 then _ else _)
  split
  · next ha => exact ⟨⟨memo, rfl⟩, hkeeps, hal, fun hne => absurd ha hne⟩
  · next ha =>
    refine ⟨⟨_, rfl⟩, keeps_keeping hkeeps n, fun h => absurd h ha, fun _ i => ?_⟩
    change tblGet i (tblSet n _ memo) ≠ none ↔ _
    by_cases hi : i = n
    · subst hi
      simp
    · have hmemo := hrd ha i
      change tblGet i memo ≠ none ↔ _ at hmemo
      rw [tblGet_tblSet_ne hi, hmemo]
      omega

/-- What is ready with source line `n` beside what was ready before it. -/
theorem ReadTo.ready_iff (h : ReadTo src k n c) (x : Nat) : ReadyTo k (n + 1) x ↔ ReadyTo k n x ∨ ReadyAt c n x := by
  obtain ⟨⟨memo, rfl⟩, -, hal, hrd⟩ := h
  change _ ↔ _ ∨ (x < copyLen k ∧ (∀ y, y < copyLen k → dstLine k y = dstLine k x → srcLine k y = n ∨ tblGet (srcLine k y) memo ≠ none) ∧
    ∃ y, y < copyLen k ∧ srcLine k y = n ∧ dstLine k y = dstLine k x)
  rw [ReadyTo, ReadyTo, ← and_or_left]
  refine and_congr_right fun hx => ?_
  by_cases ha : copySrc k % 64 = copyDest k % 64
  · have hline (y : Nat) : srcLine k y = dstLine k y := by unfold srcLine dstLine; omega
    simp only [hline]
    constructor
    · intro hall
      rcases Nat.lt_succ_iff_lt_or_eq.1 (hall x hx rfl) with hlt | heq
      · exact .inl fun y _ hyx => hyx ▸ hlt
      · exact .inr ⟨fun y _ hyx => .inl (hyx.trans heq), x, hx, heq, rfl⟩
    · rintro (hall | ⟨-, y, hy, hyn, hyx⟩) z hz hzx
      · exact Nat.lt_succ_of_lt (hall z hz hzx)
      · omega
  · have hmemo (i : Nat) : tblGet i memo ≠ none ↔ i < n := hrd ha i
    simp only [hmemo]
    constructor
    · intro hall
      by_cases hex : ∃ y, y < copyLen k ∧ srcLine k y = n ∧ dstLine k y = dstLine k x
      · exact .inr ⟨fun y hy hyx => by have := hall y hy hyx; omega, hex⟩
      · refine .inl fun y hy hyx => ?_
        have hne : srcLine k y ≠ n := fun hyn => hex ⟨y, hy, hyn, hyx⟩
        have := hall y hy hyx
        omega
    · rintro (hall | ⟨hall, -⟩) z hz hzx
      · exact Nat.lt_succ_of_lt (hall z hz hzx)
      · have := hall z hz hzx
        omega

theorem readyTo_all {k : Cmd} (x : Nat) : ReadyTo k (lineCount (copySrc k) (copyLen k)) x ↔ x < copyLen k :=
  ⟨And.left, fun hx => ⟨hx, fun _ hy _ => line_lt_lineCount hy⟩⟩

end

/-- What a copy from one buffer to another reads, by its source addresses. -/
def bufSource (cl : Nat) (k : Cmd) (s : State) (a : Nat) : Byte := cellGet (bufCell cl (copySrcBuf k) a) s.cells

/-- A raw `copy.bb` between A and C, each way, with both ranges in their buffers. -/
structure BufCopy (cl : Nat) (k : Cmd) : Prop where
  cluster : cl < 64
  dir : copyDir k = 2
  raw : copyDec k = 0
  ne : copySrcBuf k ≠ copyBuf k
  source : copySrcBuf k = 1 ∨ copySrcBuf k = 2
  dest : copyBuf k = 1 ∨ copyBuf k = 2
  ends : copyDest k + copyLen k ≤ bufSize (copyBuf k)
  begins : copySrc k + copyLen k ≤ bufSize (copySrcBuf k)

section
variable {cl u n : Nat} {k c : Cmd} {s s1 : State}

/-- What has been put has left the source as it was. -/
theorem Puts.source {v : Nat → Byte} {tagged : Prop} {P : Nat → Prop} (hb : BufCopy cl k)
    (h : Puts (bufCell cl (copyBuf k) (copyDest k)) v tagged P s s1) (hP : ∀ x, P x → x < copyLen k) {a : Nat}
    (ha : a < copySrc k + copyLen k) : cellGet (bufCell cl (copySrcBuf k) a) s1.cells = bufSource cl k s a := by
  obtain ⟨hcl, -, -, hne, hfrom, hto, hend, hbeg⟩ := hb
  refine h.kept _ fun x hx => ?_
  have hlt := hP x hx
  rw [← bufCell_add]
  exact bufCell_ne hcl hfrom hto hne (by omega) (by omega)

theorem copyPart_bb (hb : BufCopy cl k) (hs : Sound s) (hn : n < lineCount (copySrc k) (copyLen k)) (hc : ReadTo (bufSource cl k s) k n c)
    (h : Puts (bufCell cl (copyBuf k) (copyDest k)) (fun x => bufSource cl k s (copySrc k + x)) (copyBuf k ≠ 0) (ReadyTo k n) s s1) :
    ∃ s2, copyPart cl u s1 c n = (s2, if copySrc c % 64 = copyDest c % 64 then c else keeping (bufSource cl k s) c n, .done false) ∧
      Puts (bufCell cl (copyBuf k) (copyDest k)) (fun x => bufSource cl k s (copySrc k + x)) (copyBuf k ≠ 0) (ReadyTo k (n + 1)) s s2 := by
  have hsrc {a : Nat} := h.source hb (fun x hx => hx.1) (a := a)
  have hs1 := h.sound hs
  have hready := hc.ready_iff
  obtain ⟨hcl, hdir, hdec, -, -, hto, hend, -⟩ := hb
  obtain ⟨⟨memo, rfl⟩, hkeeps, -, -⟩ := hc
  obtain ⟨-, -, hhi, -⟩ := lineAt_bounds hn
  have hrun : cellsRead s1.cells (bufCell cl (copySrcBuf k) (lineAt (copySrc k) (copyLen k) n).1) (lineAt (copySrc k) (copyLen k) n).2 =
      lineRun (bufSource cl k s) k n :=
    (cellsRead_eq_byteRun hs1.1 ..).trans (byteRun_congr fun b hb => by rw [← bufCell_add, hsrc (by omega)])
  have hread : readSource s1 { k with memo := memo } cl (.unit cl u n) (lineAt (copySrc k) (copyLen k) n).1 (lineAt (copySrc k) (copyLen k) n).2 =
      (s1, .inl (lineRun (bufSource cl k s) k n, List.replicate (lineAt (copySrc k) (copyLen k) n).2 false)) := by
    have hpart : readSource s1 { k with memo := memo } cl (.unit cl u n) (lineAt (copySrc k) (copyLen k) n).1 (lineAt (copySrc k) (copyLen k) n).2 =
        ((memReadMap s1 (bufCell cl (copySrcBuf k) (lineAt (copySrc k) (copyLen k) n).1) (lineAt (copySrc k) (copyLen k) n).2).1,
          .inl (memReadMap s1 (bufCell cl (copySrcBuf k) (lineAt (copySrc k) (copyLen k) n).1) (lineAt (copySrc k) (copyLen k) n).2).2) :=
      if_neg (show copyDir k ≠ 0 by omega)
    rw [hpart, hs1.memReadMap, hrun]
  obtain ⟨s2, hin, hputs⟩ := inPart_of_read (c := { k with memo := memo }) (u := u) hs1 hcl (show copyBuf k < 3 by omega) hend hkeeps hn hread
  have hpart : copyPart cl u s1 { k with memo := memo } n = inPart cl u s1 { k with memo := memo } n :=
    (if_neg (show copyDir k ≠ 1 by omega)).trans (if_pos hdec)
  exact ⟨s2, hpart.trans hin, (h.trans hputs).congr hready⟩

theorem runParts_bb (hb : BufCopy cl k) (hs : Sound s) (hfrost : k.frost = []) (hfail : k.failed = false) {m : Nat}
    (hm : n + m ≤ lineCount (copySrc k) (copyLen k)) (hc : ReadTo (bufSource cl k s) k n c)
    (h : Puts (bufCell cl (copyBuf k) (copyDest k)) (fun x => bufSource cl k s (copySrc k + x)) (copyBuf k ≠ 0) (ReadyTo k n) s s1) :
    ∃ s2 c2, runParts (copyPart cl u) s1 c (List.range' n m) = (s2, c2) ∧ ReadTo (bufSource cl k s) k (n + m) c2 ∧
      Puts (bufCell cl (copyBuf k) (copyDest k)) (fun x => bufSource cl k s (copySrc k + x)) (copyBuf k ≠ 0) (ReadyTo k (n + m)) s s2 := by
  induction m generalizing n c s1 with
  | zero => exact ⟨s1, c, rfl, hc, h⟩
  | succ m ih =>
    obtain ⟨s2, hpart, hputs⟩ := copyPart_bb (u := u) hb hs (by omega) hc h
    have hnext := hc.next
    generalize (if copySrc c % 64 = copyDest c % 64 then c else keeping (bufSource cl k s) c n) = c2 at hpart hnext
    have hfail' : c.failed = false := by obtain ⟨memo, rfl⟩ := hc.same; exact hfail
    have hfrost' : c2.frost = [] := by obtain ⟨memo, rfl⟩ := hnext.same; exact hfrost
    have hrun := ih (by omega) hnext hputs
    rw [List.range'_succ, runParts, if_neg (by rw [hfail']; decide), hpart]
    simp only [notePart_done hfrost']
    rwa [Nat.add_assoc, Nat.add_comm 1 m] at hrun

end

end Sys2Proof.Machine

/-! PROOFS. A raw copy moves its bytes (R139, R222, R223; O20). -/

namespace Sys2Proof.Machine

/-- A raw copy between A and C with nothing in its way lands in one step, with every byte of it moved. -/
theorem execCopyLand_bb {s : State} {c u : Nat} {k : Cmd} (hb : BufCopy c k) (hs : Sound s) (hq : Quiet k.tid s)
    (hr : (unitAt s c u).running = some k) (hstep : k.step = 1) (hmaj : cmdMajor k = 0x31) (hcf : copiesFrozen s c = false)
    (hfrost : k.frost = []) (hmemo : k.memo = []) (hfail : k.failed = false) (hnode : k.node = none) :
    ∃ s' s2, execCopyLand c u s = .next s' ∧ s'.cells = s2.cells ∧ s'.full = s2.full ∧
      Puts (bufCell c (copyBuf k) (copyDest k)) (fun x => bufSource c k s (copySrc k + x)) (copyBuf k ≠ 0) (fun x => x < copyLen k) s s2 := by
  have hparts : copyParts k = lineCount (copySrc k) (copyLen k) := by
    have hdir := hb.dir
    rw [copyParts, bySource, if_pos (by simp [hb.raw, hdir])]
  obtain ⟨s2, c2, hrun, hread, hputs⟩ := runParts_bb (u := u) hb hs hfrost hfail (n := 0)
    (m := lineCount (copySrc k) (copyLen k)) (by omega) (.start hmemo)
    (.refl hs.1 fun x hx => absurd (hx.2 x hx.1 rfl) (Nat.not_lt_zero _))
  rw [← hparts, ← List.range_eq_range'] at hrun
  rw [Nat.zero_add] at hputs
  obtain ⟨memo, rfl⟩ := hread.same
  obtain ⟨cells, full, ctxs, rfl⟩ := hputs.rest
  obtain ⟨w, hw⟩ : ∃ w, w = modRunning { s with cells := cells, full := full, ctxs := ctxs } c u fun _ => { k with memo := memo, step := 2 } :=
    ⟨_, rfl⟩
  have hqw : Quiet k.tid w := hq.of_same (by rw [hw]; rfl) (by rw [hw]; rfl) (by rw [hw]; rfl)
  have hrw : (unitAt w c u).running = some { k with memo := memo, step := 2 } := by
    have hold : (unitAt { s with cells := cells, full := full, ctxs := ctxs } c u).running = some k := hr
    simp only [hw, modRunning, unitAt_setUnit, hold, Option.map_some]
  have hends : cmdEnds w c u { k with memo := memo } = true :=
    cmdEnds_iff.2 (.inl ⟨hfrost, fun p hp => absurd (hqw.requests ▸ hp) (List.not_mem_nil)⟩)
  obtain ⟨hcells, hfull⟩ := hqw.landCopy (k := { k with memo := memo }) hrw hnode rfl
  refine ⟨landCopy w c u { k with memo := memo }, { s with cells := cells, full := full, ctxs := ctxs }, ?_, hcells.trans (by rw [hw]; rfl),
    hfull.trans (by rw [hw]; rfl), hputs.congr fun x => (readyTo_all x).symm⟩
  rw [execCopyLand_of_first hr hstep hmaj hcf]
  simp only [hrun, ← hw, hends, if_true]

/-- Settles O20: lines are moved one after another, each with exactly the bytes that it makes ready. -/
theorem copyMovesBytes : Obligations.CopyMovesBytes := by
  unfold Obligations.CopyMovesBytes
  refine ⟨?_, ?_, ?_⟩
  · intro s c u k th src dst soff doff len hr hstep hmaj hdir hdec hdst hsrc hdoff hsoff hlen hne hs3 hd3 hend hbeg hc hfrost hmemo hfail hnode
      hth hlife herrs hmarks hwaits hreq hlaunch hwound hcf hwf
    have hcs : copySrc k = soff := by rw [copySrc, if_neg (by omega), if_neg (by omega), hsoff]
    have hcd : copyDest k = doff := by rw [copyDest, if_neg (by omega), hdoff]
    subst hdst hsrc hcs hcd hlen
    obtain ⟨s', s2, hexec, hcells, hfull, hputs⟩ := execCopyLand_bb (u := u) (k := k)
      ⟨hc, hdir, hdec, hne, hs3, hd3, hend, hbeg⟩ ⟨hwf, herrs, hmarks, hwaits⟩ ⟨hlaunch, hreq, hwound, th, hth, hlife⟩ hr hstep hmaj hcf hfrost
      hmemo hfail hnode
    refine ⟨s', hexec, hcells ▸ hputs.wf, fun j hj => ?_, fun a ha => ?_, fun j hj => ?_⟩
    · rw [hcells, bufCell_add]
      exact hputs.put j hj
    · rw [hcells]
      rw [bufCell_add] at ha
      exact hputs.kept a fun x hx => by omega
    · rw [hfull, bufCell_add]
      exact hputs.fills (by omega) j hj
  · intro s c u j k src x hs hreq hc hmaj hdir hdec hb hend hf hj _ l bytes bad cell hlies hsrc hkeeps whole put
    have hcs : copySrc k = k.ga.toNat := if_pos hdir
    have hcd : copyDest k = copyOff k := if_neg (by omega)
    have hcode (i : Nat) : lineCode src k i = rowCode (bytes i) (bad i) := by
      rw [lineCode, lineRun, hcs]
      rfl
    have hput (a : Nat) : put a ↔ k.ga.toNat ≤ a ∧ ReadyAt k j (a - k.ga.toNat) := by
      refine and_congr_right fun ha => ?_
      have hready := readyAt_iff (c := k) (j := j) (a := a) (by rw [hcs]; exact hj) (by rw [hcs]; exact ha)
      rw [hcs, hcd] at hready
      exact hready
    have hcell (a : Nat) : cell a = bufCell c (copyBuf k) (copyDest k) + (a - k.ga.toNat) := by rw [hcd, ← bufCell_add]
    obtain ⟨s', hpart, hputs⟩ := copyPart_in (u := u) hs hreq hc hdir hdec hb (by rw [hcd]; exact hend) hf
      (fun i v hv => (hkeeps i v hv).trans (hcode i).symm) (by rw [hcs]; exact hj) (by rw [hcs]; exact hlies) (by rw [hcs]; exact hsrc)
    rw [keeping, hcode, hcs, hcd] at hpart
    refine ⟨s', hpart, fun a ha => ?_, fun d hd => hputs.kept d fun y hy he => hd (k.ga.toNat + y) ((hput _).2 ?_) ?_⟩
    · obtain ⟨hle, hready⟩ := (hput a).1 ha
      have hbyte := hputs.put _ hready
      rw [hcs, Nat.add_sub_cancel' hle] at hbyte
      rw [hcell]
      exact ⟨hbyte, fun hne => hputs.fills hne _ hready⟩
    · exact ⟨Nat.le_add_right .., by rwa [Nat.add_sub_cancel_left]⟩
    · rw [hcell, Nat.add_sub_cancel_left]
      exact he
  · intro s c u j k x hs hreq hmaj hdir hf hmemo _ _ l hne hlies
    have hcs : copySrc k = copyOff k := (if_neg (by omega)).trans (if_pos hdir)
    have hcd : copyDest k = k.ga.toNat := if_pos hdir
    obtain ⟨s', hpart, hcells⟩ := copyPart_out (cl := c) (u := u) (j := j) hs hreq hdir hf hmemo (by rw [hcd]; exact hne) (by rw [hcd]; exact hlies)
    rw [hcs, hcd, cellsRead_eq_byteRun hs.1] at hcells
    refine ⟨s', hpart, fun b hb => ?_, fun d hd => ?_⟩
    · rw [hcells, cellsWrite_get _ _ _ hs.1, length_byteRun, if_pos ⟨by omega, Nat.add_lt_add_left hb _⟩, Nat.add_sub_cancel_left,
        getD_byteRun _ _ hb, ← bufCell_add]
    · rw [hcells, cellsWrite_get _ _ _ hs.1, length_byteRun, if_neg]
      change ¬(_ ∧ d < hbmCell k.masks x.pa + l.2)
      omega

end Sys2Proof.Machine
